-- ==== Sys2Proof/Word.lean ====
section
/-! DEFINITION. The word types of the block: bytes, 32-bit register words, and the sparse tables State is made of. -/
namespace Sys2Proof

/-- A byte of a memory or of a record (00_scope.md, Notation). -/
abbrev Byte := BitVec 8

/-- A 32-bit register word, little-endian in memory (00_scope.md, Fields and bits). -/
abbrev W := BitVec 32

/-- A sparse table by number: pairs with strictly rising keys (an absent key reads as the table's own default). -/
abbrev Tab (α : Type) := List (Nat × α)

end Sys2Proof
end

