-- ==== Sys2Proof/Syntax.lean ====
section
/-! DEFINITION. The commands of the block: one constructor per row of spec/opcode_table.json, with the operands a
sender supplies (spec/95_what_each_step_holds.md lists what comes about inside each). -/
namespace Sys2Proof

/-- The vector, routing and selection forms, whose descriptor layout the spec does not give (Table 01-3, R184, R98, R191). -/
inductive VecKind where
  | norm | rotary | resid | act | route | sample
deriving DecidableEq, Repr

/-- The operands of a vector or selection form (R184, R98, R191): which rows of which step it works on and where its
inputs and outputs lie in the landing buffers. The spec gives these forms no descriptor layout. -/
structure VecDesc where
  kind : VecKind
  /-- R21: whether the descriptor's CRC holds. -/
  crcOk : Bool
  /-- 1: one berth; 0: whole core (R21). -/
  berth : Bool
  job : BitVec 8
  step : BitVec 32
  layer : BitVec 7
  /-- The expert an ACT form works for; 0 in a dense model. -/
  expert : BitVec 8
  /-- Which tensor of the layer: NORM 0 attention, 1 MLP, 2 final; ROTARY 0 Q, 1 K, 2 V; RESID 0 after attention, 1 after the MLP. -/
  sel : BitVec 2
  /-- Row-table indices, in the order of R80. -/
  rows : List (BitVec 16)
  /-- Landing address of the first input row. -/
  src : BitVec 27
  /-- Landing address of the second input's first row (RESID: the landed value; ACT: the up values). -/
  src2 : BitVec 27
  /-- Landing address of the first output row. -/
  dst : BitVec 27
  /-- Bytes between landing rows of the inputs and of the output. -/
  stride : BitVec 24
  dstStride : BitVec 24
deriving DecidableEq, Repr

/-- The four intake forms of Table 01-3 (R253 to R256). -/
inductive IntakeOp where
  | decompress | requantise | layout | orthogonalise
deriving DecidableEq, Repr

/-- The operands of an intake form (R253 to R256), whose descriptor layout the spec does not give. -/
structure IntakeDesc where
  op : IntakeOp
  crcOk : Bool
  berth : Bool
  /-- The job to charge (R199, INTAKE_AJOB), or none. -/
  job : Option (BitVec 8)
  /-- The adapter whose idle slot and workspace the form works on (0: base intake). -/
  adapter : BitVec 16
  /-- Source format, compression and target format codes (Tables 02-2 and 11-2). -/
  srcFmt : Byte
  comp : BitVec 4
  dstFmt : BitVec 4
  rows : Nat
  cols : Nat
  /-- Host address of the record (decompress) or block address of the source in the workspace. -/
  src : BitVec 64
  storedLen : Nat
  /-- Second source: factor B of an orthogonalise form. -/
  src2 : BitVec 40
  colsB : Nat
  /-- Block address of the output (of factor A, for orthogonalise) and of factor B. -/
  dst : BitVec 40
  dst2 : BitVec 40
deriving DecidableEq, Repr

/-- What a placement places: the 64-byte descriptor of Tables 04-2, 08-2 and 10-3 (byte i in bits 8i+7:8i), or the
operands of a form whose layout the spec does not give. -/
inductive FormDesc where
  | raw (bits : BitVec 512)
  | vec (v : VecDesc)
  | intake (d : IntakeDesc)
deriving DecidableEq, Repr

/-- Where firmware puts one UP or DXA form's pigeonhole map (R85, R87): the form's rows, its columns, the landing
address. -/
structure MapArea where
  rows : List (BitVec 16)
  col0 : BitVec 19
  n : BitVec 19
  at_ : BitVec 27
deriving DecidableEq, Repr

/-- One array command submitted to the reservation unit (R108, Table 18-4). -/
structure ArrayCmd where
  job : BitVec 8
  /-- irz_acmd_pass: 0-7 projection, 8 vocabulary, 9 router, 10 backward dX. -/
  pass : BitVec 4
  proj : BitVec 4
  layer : BitVec 7
  /-- The expert whose weights the pass uses (R61); 0 in a dense model. -/
  expert : BitVec 8
  /-- Row-table indices of the step in flight, increasing. -/
  rows : List (BitVec 16)
  maps : List MapArea
deriving DecidableEq, Repr

/-- What the code of a SECDED-protected store reports (R324): a word it could not correct, in a store of Table 15-3; or a word
it corrected, in one of those stores or in the layer staging cache, that Table 15-1 protects too and Table 15-3 gives no
number (0 here). -/
inductive SecdedError where
  | uncorrectable (store : BitVec 8)
  | corrected (store : BitVec 8)
  deriving DecidableEq, Repr

/-- How the burst of a stack read came: its word is miscorrected (R277), and its read-data parity errors in a row (R267). -/
structure ReadBurst where
  miscorrect : Bool
  parity : BitVec 2
deriving DecidableEq, Repr

/-- The requester of a stack read, by the classes of Table 12-4. -/
inductive Requester where
  | form (form : Nat)
  | feed (cmd : BitVec 8)
  | staging (job : BitVec 8) (rows : List (BitVec 16))
  | intakeBase
  | intakeAdapter (adapter : BitVec 16)
  | pageList (slot : BitVec 12)
  | frameTable (frame : BitVec 20)
  | prBitmap (granule : Nat)
  | translation (slot : BitVec 12)
  | direct
  | parcel (slot : BitVec 12)
  | update (job : BitVec 8)
  | retireCopy
  | prefixCompare (frame : BitVec 20)
deriving DecidableEq, Repr

/-- The activity a slice counted over 256 ac (R350). -/
structure Activity where
  macs : Nat
  vecs : Nat
  scratch : Nat
  landing : Nat
  staging : Nat
  hops : Nat
  shore : Nat
deriving DecidableEq, Repr

/-- The array declaration inputs (Table 17-13). -/
structure ArrayDecl where
  rows : BitVec 13
  cols : BitVec 13
  order : BitVec 2
  noTrans : Bool
  oneWay : Bool
  stationary : Bool
  xFmt : BitVec 4
  beat : BitVec 4
  nArray : BitVec 8
  lA : BitVec 16
deriving DecidableEq, Repr

/-- A read access on the register port (R319, R385): the privileged bit, the requester's job, the address. -/
structure LoAccess where
  priv : Bool
  job : BitVec 8
  addr : BitVec 22
deriving DecidableEq, Repr

/-- Clocks out of range (R346): CCLK, BCLK, HCLK, AOCLK and the ACLKs as in bits [7:0] of PWR_CLKMON, the stacks' MCLKs, the
ports' LCLKs. -/
structure ClockFail where
  clocks : BitVec 8
  mclk : BitVec 16
  lclk : BitVec 8
deriving DecidableEq, Repr

/-- What the surroundings answer during bring-up (R354): the store's image, the stacks' organisations and training,
the cores that fail their test, the link lanes that pass their check and the array declaration. -/
structure BootEnv where
  /-- The integrator's retained-state image, header first (R395); none: no image held. -/
  image : Option (List W)
  /-- R359: an uncorrectable error in the store. -/
  storeEcc : Bool
  /-- MEM_CFG.CAP code of each stack (Table 12-6). -/
  stackCap : List (BitVec 3)
  /-- Stacks whose training succeeded within three attempts (R288). -/
  trainOk : List Bool
  /-- Physical cores that fail the built-in test (R336). -/
  failCores : List (BitVec 15)
  /-- Lanes that pass the check of each port (R292). -/
  laneOk : List (BitVec 9)
  decl : ArrayDecl
  /-- Clocks that the check of phase 3 finds out of range. -/
  badClocks : ClockFail := ⟨0#8, 0#16, 0#8⟩
deriving DecidableEq, Repr

/-- The commands: one constructor per row of spec/opcode_table.json, in the table's order. -/
inductive Instr where
  /-- REGISTER_WRITE (R365): A permitted write to a register field that has no row of its own takes effect under its access type, or is ignored with ERR_COUNT advancing where the field refuses the value. -/
  | registerWrite (priv : Bool) (job : BitVec 8) (addr : BitVec 22) (data : W)
  /-- BADACC (R363): A register access that is misaligned, names an unassigned page or is refused by the view reads zero and ignores its write. -/
  | badacc (priv : Bool) (job : BitVec 8) (addr : BitVec 22) (we : Bool)
  /-- EVT_PEND_CLEAR (R370): Writing 1 to an EVT_PEND bit clears the matching EVT_RAW bit, and the page's event output falls when no pending bit remains. -/
  | evtPendClear (page : BitVec 9) (mask : W)
  /-- ERR_COUNT_CLR (R371): Writing 1 to ERR_COUNT.CLR sets COUNT to 0. -/
  | errCountClr (page : BitVec 9)
  /-- COUNTER_LO_READ (R374): Reading the LO half of a counter pair latches the high half and SAT for the following HI read. -/
  | counterLoRead (access : LoAccess)
  /-- COUNTER_SAT_CLEAR (R374): Writing 1 to SAT of a statistics counter sets the value and SAT to 0. -/
  | counterSatClear (addr : BitVec 21)
  /-- DIR_READ (R68): The READ directory command copies the 64-byte entry into DIR_IMG0 to DIR_IMG15. -/
  | dirRead (id : BitVec 16)
  /-- DIR_CREATE (R60): CREATE checks the image in order, writes the host fields, computes SLOT_PAGES, sets PM_FLOOR and moves the entry to LOADING. -/
  | dirCreate (id : BitVec 16)
  /-- DIR_STAGE (R72): STAGE moves a READY entry to STAGING and opens the idle slot to intake once its pin is 0. -/
  | dirStage (id : BitVec 16)
  /-- DIR_PUBLISH (R71): PUBLISH indivisibly flips LIVE of a STAGED entry and advances POSTMARK by 1, unless the postmark span rule refuses it. -/
  | dirPublish (id : BitVec 16)
  /-- DIR_DISCARD (R68): DISCARD drops the idle slot's contents, closes it to intake and returns the entry to READY. -/
  | dirDiscard (id : BitVec 16)
  /-- DIR_RETIRE (R68): RETIRE frees a LOADING entry, or moves the entry to RETIRING and frees it at once when both pins are 0. -/
  | dirRetire (id : BitVec 16)
  /-- DIR_SET_POLICY (R68): SET_POLICY replaces CPOL from the image, with effect from the next step formation. -/
  | dirSetPolicy (id : BitVec 16)
  /-- DIR_FLUSH_PREFIX (R74): FLUSH_PREFIX removes the adapter's prefix entries whose postmark differs from POSTMARK and recomputes PM_FLOOR. -/
  | dirFlushPrefix (id : BitVec 16)
  /-- JOB_READ (R120): The READ job command copies a job context image into STEP_JIMG0 to STEP_JIMG15. -/
  | jobRead (job : BitVec 8)
  /-- JOB_OPEN (R120): OPEN checks a job image in the order of R120, makes the job OPEN and sets its next step number to FIRST_STEP. -/
  | jobOpen (job : BitVec 8)
  /-- JOB_UPDATE (R120): UPDATE replaces GROUP, PF_CHUNK and ROW_CAP of an OPEN job, with effect from the next formation. -/
  | jobUpdate (job : BitVec 8)
  /-- JOB_CLOSE (R122): CLOSE moves an OPEN job to CLOSING, after which it forms no further step. -/
  | jobClose (job : BitVec 8)
  /-- JOB_CLOSE_ENDS (R122): With no step in flight, a closing job's requests end JOB_ENDED within 1,000 local counts, and the job becomes FREE once the end records are written. -/
  | jobCloseEnds (job : BitVec 8)
  /-- POST (R124): Writing SLOT_CTRL with OWN = 1 posts a request, after which the block ignores host writes to the record body. -/
  | post (slot : BitVec 12) (cmd : BitVec 3)
  /-- POSTING_CHECK (R126): Within 1,000 local counts of OWN being set, firmware checks the posted request in order and accepts it into HELD or refuses it. -/
  | postingCheck (slot : BitVec 12)
  /-- OUT_OF_STEP_RECORD (R139): Once the ring has room, a KIND 0x02 record of an end outside a step is written and the slot reaches ENDED with OWN cleared. -/
  | outOfStepRecord (job : BitVec 8)
  /-- CANCEL (R140): Writing CMD = CANCEL makes a sticky pending cancel. -/
  | cancel (slot : BitVec 12)
  /-- PAUSE (R129): Writing CMD = PAUSE makes a pause pending until the next boundary. -/
  | pause (slot : BitVec 12)
  /-- RESUME (R129): Writing CMD = RESUME makes a resume of a paused request pending. -/
  | resume (slot : BitVec 12)
  /-- TRIM (R129): Writing CMD = TRIM makes pending the freeing of pages wholly at or above LEN at the next boundary. -/
  | trim (slot : BitVec 12)
  /-- CANCEL_TAKEN (R140): Within 1,000 local counts, a cancel of a HELD or PAUSED request, or of a request of a job with no step in flight, ends the request CANCELLED. -/
  | cancelTaken (slot : BitVec 12)
  /-- RESUME_TAKEN (R171): Within 1,000 local counts a pending RESUME moves a PAUSED request to HELD. -/
  | resumeTaken (slot : BitVec 12)
  /-- DEADLINE (R141): A HARD request whose due time passes while it is HELD ends with DEADLINE within 1,000 local counts. -/
  | deadlineEnd (slot : BitVec 12)
  /-- EXPIRED (R170): A paused request reaching T_PARK + PAUSE_TTL ends EXPIRED, its granules are freed and its shared frames drop a holder. -/
  | expired (slot : BitVec 12)
  /-- JCONS_WRITE (R136): A write to STEP_JCONS updates the consumed count unless it would make the free room negative. -/
  | jconsWrite (job : BitVec 8) (value : W)
  /-- BATCH_GO (R131): Setting STEP_BATCH_CTRL.GO reads and checks a fixed batch list and, if it passes, forms the step from it. -/
  | batchGo (job : BitVec 8)
  /-- STEP_FORM (R130): When its conditions hold, a job's step forms: rows are chosen, ring room reserved, snapshots latched, rungs fixed and frames allocated. -/
  | stepForm (job : BitVec 8)
  /-- FORM_PLACEMENT (R22): Firmware places a placeable form on the first free core or berth of its scan after checking its descriptor CRC. -/
  | formPlacement (desc : FormDesc)
  /-- DOWN (R84): The down-projection form computes U = X·A over k components and writes U at completion. -/
  | down (form : Nat)
  /-- UP (R85): The up-projection form computes ΔY and writes each beat-width block to its pigeonhole with its tag. -/
  | up (form : Nat)
  /-- PIGEONHOLE_WRITE (R94): An UP or DXA write that has crossed into BCLK fills its pigeonhole, or is dropped when its tag no longer matches the reservation. -/
  | pigeonholeWrite (lane : BitVec 6)
  /-- SCORE (R178): The SCORE form computes scaled scores and per-block records of max, sum and BF16 probabilities. -/
  | score (form : Nat)
  /-- VALUE (R179): The VALUE form weights values by block probabilities and merges one run of partials, writing context when FINAL = 1. -/
  | value (form : Nat)
  /-- SMERGE (R181): The SMERGE form combines a row's run partials in run order and writes the context values. -/
  | smerge (form : Nat)
  /-- NORM (R184): The RMS norm vector form normalises a row and converts it for its consumer. -/
  | norm (form : Nat)
  /-- ROTARY (R185): The rotary form rotates Q and K by position and writes K and V into the request's frame. -/
  | rotary (form : Nat)
  /-- RESID (R184): The residual form adds a landed value to the BF16 residual stream. -/
  | resid (form : Nat)
  /-- ACT (R184): The gated SiLU form computes the activation from landed gate and up values. -/
  | act (form : Nat)
  /-- ROUTE (R98): The route form chooses each row's experts from its router logits and computes their weights. -/
  | route (form : Nat)
  /-- SAMPLE (R191): The sample form applies tally penalties, temperature, top-k and top-p and draws the row's token. -/
  | sample (form : Nat)
  /-- LOSS (R225): The LOSS form computes a row's loss and its scaled logit gradient. -/
  | loss (form : Nat)
  /-- DU (R226): The DU form reduces dY against factor B to give dU_raw. -/
  | du (form : Nat)
  /-- DXA (R226): The DXA form computes dU_raw·A, applies the drop-out mask and writes the result into pigeonholes of dX beats. -/
  | dxa (form : Nat)
  /-- GOUT (R227): The GOUT form sums factor gradients over a segment's rows in fixed order. -/
  | gout (form : Nat)
  /-- BVEC (R227): The BVEC form computes the backward of a norm, rotary, residual or activation. -/
  | bvec (form : Nat)
  /-- BATTN (R227): The BATTN form recomputes probabilities and computes dQ, dK and dV. -/
  | battn (form : Nat)
  /-- MPOOL (R245): The MPOOL form converts and clips a pooled gradient and adds the pair masks before writing it. -/
  | mpool (form : Nat)
  /-- INTAKE_FORM (R256): An intake form decompresses, requantises, lays out or orthogonalises weights. -/
  | intakeForm (form : Nat)
  /-- FORM_FAULT (R96): A berth- or core-level fault tears down the affected forms and reissues each once elsewhere. -/
  | formFault (form : Nat) (core : Bool)
  /-- WDOG (R201): A form whose charged running time exceeds SCHED_WDOG is ended as a berth fault and reissued. -/
  | wdog (form : Nat)
  /-- COMMAND_GRANT (R108): The first ready command is reserved indivisibly on every lane it uses once ledger entries, pigeonholes and landing space are free. -/
  | commandGrant (submitted : List ArrayCmd)
  /-- COMMAND_ISSUE (R93): A granted command issues to the arrays once its lead pigeonholes are filled and its rate budget holds. -/
  | commandIssue
  /-- COMMAND_DROP (R116): A command held on a non-RUNNING lane for MERGE_HOLD_LIMIT local counts is dropped and its rows fail with MERGE_OFF. -/
  | commandDrop
  /-- ACMD_DONE (R390): The array reports that it has sent every beat of a command, freeing an outstanding command place. -/
  | acmdDone (id : BitVec 8)
  /-- BEAT (R110): A beat arriving on a merge lane is looked up, merged with its delta or passed through, landed, and its ledger entry and pigeonhole released. -/
  | beat (lane : BitVec 6) (data : BitVec 1024) (tag : W) (tpar : BitVec 4)
  /-- ABSENT (R113): A reserved tag not arrived MERGE_BEAT_TIMEOUT local counts after issue is declared absent, released and its row failed. -/
  | beatAbsent (lane : BitVec 6) (tag : W)
  /-- PIGEONHOLE_CREDIT (R109): A released pigeonhole's release crosses into the reserving domain and returns it to the free pool. -/
  | pigeonholeCredit (lane : BitVec 6)
  /-- LANDING_FREE (R109): Firmware frees a landing range after its last reading form has completed. -/
  | landingFree (addr : BitVec 27)
  /-- MISS_DRAIN (R112): Firmware takes a miss record, maps it to its row, marks the row failed and copies the record into the miss log. -/
  | missDrain (lane : BitVec 6)
  /-- MISSQ_LO_READ (R119): Reading MERGE_MISSQ_LO returns the oldest miss-log tag and latches its reason. -/
  | missqLoRead (lane : BitVec 6)
  /-- MISSQ_HI_READ (R119): Reading MERGE_MISSQ_HI after LO removes the latched record from the miss log. -/
  | missqHiRead (lane : BitVec 6)
  /-- LANE_DISABLE (R115): Clearing MERGE_LCTRL.ENABLE puts the lane in DRAINING, so later delta beats pass through as DISABLED. -/
  | laneDisable (lane : BitVec 6)
  /-- LANE_ENABLE (R115): Writing MERGE_LCTRL.ENABLE = 1 returns the lane to RUNNING at once from OFF or when its drain completes, and clears DIS_SEEN. -/
  | laneEnable (lane : BitVec 6)
  /-- DRAINED (R115): A draining lane becomes OFF once no command holds a reservation on it, and raises DRAINED. -/
  | laneDrained (lane : BitVec 6)
  /-- LANE_FAULT (R117): An uncorrectable SECDED error in a lane's ledger or tag store puts the lane in FAULT. -/
  | laneFault (lane : BitVec 6)
  /-- STEP_BOUNDARY (R26): When every row has finished or failed, the step closes through outcome decision, ends, page release, rollback and TRIM, records, accounting and the tideline. -/
  | stepBoundary (job : BitVec 8)
  /-- SCHED_TIDELINE_WRITE (R205): A write to SCHED_TIDELINE sets a pending tideline value. -/
  | schedTidelineWrite (value : W)
  /-- SCHED_GRP_WRITE (R198): A write to SCHED_GRPg changes a share group's class, share or weight unless it breaks the share sum. -/
  | schedGrpWrite (group : BitVec 6) (value : W)
  /-- PERIOD_END (R199): At the end of each accounting period every SCHED_USEDg and SCHED_CAP is halved in one action. -/
  | periodEnd
  /-- SWITCH (R202): Firmware loads a model into a free model entry, rebuilding its templates and staging, before a step of it can form. -/
  | modelSwitch (model : BitVec 8)
  /-- TIDE_LOAD (R206): Writing TIDE_SEL with LOAD = 1 copies a tide slot into the image registers. -/
  | tideLoad (slot : BitVec 12)
  /-- TIDE_COMMIT (R206): Writing TIDE_SEL with COMMIT = 1 copies the image into a tide slot unless its fields are illegal. -/
  | tideCommit (slot : BitVec 12)
  /-- SLOT_BEGIN (R207): A tide slot begins, latching its fields and deducting the job's debt from its window. -/
  | slotBegin
  /-- WINDOW_END (R209): A tide slot's window ends and its columns become unassigned. -/
  | windowEnd
  /-- TAKE (R220): TRAIN_ACMD TAKE lets a train job hold an adapter entry, setting TRAINED and TRAIN_JOB. -/
  | trainTake (job : BitVec 8) (adapter : BitVec 16)
  /-- RELEASE (R220): TRAIN_ACMD RELEASE clears TRAINED and TRAIN_JOB of an entry the job holds. -/
  | trainRelease (job : BitVec 8) (adapter : BitVec 16)
  /-- COLLECTIVE_DONE (R298): A collective completes once every partial or contribution it needs has landed. -/
  | collectiveDone (job : BitVec 8) (coll : BitVec 8)
  /-- LINK_COLL_TIMEOUT (R303): A collective not completed LINK_COLL_TIMEOUT local counts after its local start fails. -/
  | linkCollTimeout (job : BitVec 8) (coll : BitVec 8)
  /-- GRAD (R233): Once the idle slot's pin is 0, the block sends an adapter's GRAD messages to the update unit in element order. -/
  | updGrad (job : BitVec 8) (adapter : BitVec 16)
  /-- WRITE (R233): A WRITE message from the update unit delivers new values, and each completed MX block is converted and written to the idle slot. -/
  | updWrite (hdr : BitVec 256) (data : BitVec 1024)
  /-- ACK (R233): An ACK message ends an adapter's update as OK, or records ERR when elements are missing or the unit reports an error. -/
  | updAck (hdr : BitVec 256)
  /-- TRAIN_UPD_TIMEOUT (R233): No ACK within TRAIN_UPD_TIMEOUT local counts of END records ERR for the adapter. -/
  | trainUpdTimeout (job : BitVec 8) (adapter : BitVec 16)
  /-- VOTE (R234): After its exchange, acknowledgements and span checks, a device votes READY or VETO with its reason mask. -/
  | vote (job : BitVec 8)
  /-- VOTE_FRAME (R235): Rank 0 receives a vote and decides COMMIT on all READY votes or ABORT on any VETO, recording and sending the decision. -/
  | voteFrame (job : BitVec 8)
  /-- TRAIN_VOTE_TIMEOUT (R235): Rank 0 decides ABORT when not all votes arrive within TRAIN_VOTE_TIMEOUT of its own vote. -/
  | trainVoteTimeout (job : BitVec 8)
  /-- DECISION (R236): A device that voted READY receives the decision and applies it. -/
  | decision (job : BitVec 8)
  /-- TRAIN_DECIDE_TIMEOUT (R236): A READY device without a decision becomes in doubt and asks rank 0 again once per TRAIN_DECIDE_TIMEOUT. -/
  | trainDecideTimeout (job : BitVec 8)
  /-- ASK (R302): Rank 0 answers an ASK frame with the decision it recorded, if any. -/
  | ask (job : BitVec 8)
  /-- RESOLVE_COMMIT (R236): TRAIN_RESOLVE COMMIT applies COMMIT on an in-doubt device. -/
  | resolveCommit (job : BitVec 8)
  /-- RESOLVE_ABORT (R236): TRAIN_RESOLVE ABORT applies ABORT on an in-doubt device. -/
  | resolveAbort (job : BitVec 8)
  /-- RETRY (R239): TRAIN_RESOLVE RETRY clears STUCK and the count of aborted attempts. -/
  | trainRetry (job : BitVec 8)
  /-- ADAPTER_INTAKE (R258): INTAKE_ACMD with GO checks and queues an adapter intake. -/
  | adapterIntake (adapter : BitVec 16)
  /-- INTAKE_START (R258): A queued adapter intake starts in issue order when fewer than four run, writing the idle slot once its pin is 0. -/
  | intakeStart
  /-- INTAKE_COMPLETE (R258): A successful adapter intake takes the directory entry's intake-complete transition. -/
  | intakeComplete (adapter : BitVec 16) (reason : BitVec 4)
  /-- AFAULTQ_LO_READ (R266): Reading INTAKE_AFAULTQ_LO returns the oldest fault's adapter and latches its reason. -/
  | afaultqLoRead
  /-- AFAULTQ_HI_READ (R266): Reading INTAKE_AFAULTQ_HI after LO pops the fault record. -/
  | afaultqHiRead
  /-- LOAD (R259): INTAKE_MCMD LOAD starts loading a model into its area. -/
  | intakeLoad (model : BitVec 8) (transpose : Bool)
  /-- REPLACE (R259): INTAKE_MCMD REPLACE starts in-place replacement of a loaded model's generation. -/
  | intakeReplace (model : BitVec 8)
  /-- WF_RETRY (R263): INTAKE_MCMD RETRY fetches a stalled wavefront's failed part or station again. -/
  | wfRetry
  /-- ROLLBACK (R264): INTAKE_MCMD ROLLBACK starts restoring the previous generation of a stalled replacement. -/
  | wfRollback
  /-- UNLOAD (R259): INTAKE_MCMD UNLOAD frees a model, or abandons a stalled LOAD. -/
  | intakeUnload (model : BitVec 8)
  /-- PART0_CHECKED (R261): Part 0 checking completes, either switching to ADVANCING with the generation switch or returning with CHECK_FAIL. -/
  | part0Checked
  /-- STATION_PREPARED (R262): A station is prepared into its staging buffer, or the wavefront stalls when it cannot be. -/
  | stationPrepared (fault : BitVec 4)
  /-- STATION_COPY (R262): Once no old step still has the station to run, the prepared station is copied into place and W advances. -/
  | stationCopy
  /-- WF_FINISHED (R260): Once prefix removals for the old generation are done, the wavefront returns to IDLE and raises DONE. -/
  | wfFinished
  /-- HOST_READ_RESPONSE (R386): A read response beat from the host port is accepted and delivered to its requester, or discarded when its tag matches nothing. -/
  | hostReadResponse (tag : BitVec 10) (data : BitVec 1024) (last : Bool) (err : Bool)
  /-- HOST_WRITE_ACK (R387): A host-port write acknowledgement completes a write, freeing a parcel's frame when it is the parcel's last write. -/
  | hostWriteAck (tag : BitVec 10) (err : Bool)
  /-- HOST_READ_TIMEOUT (R381): A host read unanswered within HOST_RD_TIMEOUT counts as failed and its requester acts by kind. -/
  | hostReadTimeout (tag : BitVec 10)
  /-- DIRECT_WINDOW_REQUEST (R388): A host-port direct window request reads or writes stored bytes, or is refused. -/
  | directWindowRequest (we : Bool) (priv : Bool) (addr : BitVec 40) (be : BitVec 128) (data : BitVec 1024)
  /-- DACC_READ (R381): Reading HOST_DACC_DATA returns four stored bytes at ADDR and advances ADDR by 4. -/
  | daccRead
  /-- DACC_WRITE (R381): Writing HOST_DACC_DATA stores four bytes at ADDR by read-modify-write, or is refused, and advances ADDR by 4. -/
  | daccWrite (value : W)
  /-- MEM_REG_WRITE (R273): A write to a region table entry changes its fields or VALID under the protection and legality rules. -/
  | memRegWrite (entry : BitVec 6) (word : BitVec 2) (value : W)
  /-- STACK_READ_DONE (R277): A stack read completes, with its word returned, corrected and written back, or reported uncorrectable. -/
  | stackReadDone (addr : BitVec 40) (req : Requester) (symbols : BitVec 3) (burst : ReadBurst)
  /-- PATROL (R279): Every MEM_PATROL.INTERVAL local counts the controller reads the next 256 bytes of CONTROL regions and writes back corrections. -/
  | patrol (stack : BitVec 4) (symbols : BitVec 24) (miscorrect : BitVec 8)
  /-- CORR_HALVING (R282): Every 2^30 local counts each MEM_PCERRj.CORR is halved. -/
  | corrHalving
  /-- MEM_RETRAIN (R287): MEM_CMD RETRAIN holds the stack's accesses, places it in self refresh and has its PHY train. -/
  | memRetrain (stack : BitVec 4)
  /-- STACK_TEMP_RETRAIN (R287): A stack temperature change of more than 10 °C since its last training starts a retraining. -/
  | stackTempRetrain (stack : BitVec 4) (temp : BitVec 8)
  /-- RETRAIN_DONE (R287): PHY training ends, releasing held accesses, or after three failures puts the stack in FAULT. -/
  | retrainDone (stack : BitVec 4) (ok : Bool)
  /-- MEM_RETIRE (R284): MEM_CMD RETIRE starts copying a pseudo-channel into the spare reserves while the stack serves. -/
  | memRetire (stack : BitVec 4) (pc : BitVec 6)
  /-- RETIRED (R284): The retirement copy completes, RPC and RETIRED are set and RETIRED is raised. -/
  | pcRetired (stack : BitVec 4)
  /-- UCQ_LO_READ (R290): Reading MEM_UCQ_LO returns the oldest uncorrectable address and latches the rest of the record. -/
  | ucqLoRead (stack : BitVec 4)
  /-- UCQ_HI_READ (R290): Reading MEM_UCQ_HI after LO pops the uncorrectable-read record. -/
  | ucqHiRead (stack : BitVec 4)
  /-- FRAME_RX (R294): A received link frame is accepted in SEQ order and landed, or discarded, with its ACK and CREDIT honoured and a NAK sent on CRC failure. -/
  | frameRx (port : BitVec 3) (bits : BitVec 2336)
  /-- LINK_ACK_TIMEOUT (R294): With frames outstanding and no ACK advance for LINK_ACK_TIMEOUT, the sender replays from the oldest unacknowledged SEQ. -/
  | linkAckTimeout (port : BitVec 3)
  /-- LANE_FAIL (R292): A lane whose receive lock falls counts as failed and the port trains. -/
  | laneFail (port : BitVec 3) (lane : BitVec 4)
  /-- LINK_TRAINED (R292): Port training ends UP, DEGRADED or DOWN according to the healthy lanes, resending frames elsewhere when DOWN. -/
  | linkTrained (port : BitVec 3) (laneOk : BitVec 9)
  /-- LINK_RCMD (R295): LINK_RCMD with GO writes an entry of a job's rank table, refused when the job is not FREE. -/
  | linkRcmd (value : W)
  /-- UNIT_DISABLE (R337): Clearing a unit's CTRL.ENABLE makes it DRAINING, completing accepted work and refusing or holding new work. -/
  | unitDisable (page : BitVec 9)
  /-- UNIT_ENABLE (R337): Writing CTRL.ENABLE = 1 makes an OFF unit RUNNING at once, or a draining unit RUNNING when its drain completes. -/
  | unitEnable (page : BitVec 9)
  /-- UNIT_DRAINED (R337): A draining unit with no accepted work left becomes OFF and raises its DRAINED event. -/
  | unitDrained (page : BitVec 9)
  /-- CACHE_FLUSH (R164): CACHE_FLUSH with GO removes an owner key's prefix entries between formations. -/
  | cacheFlush (owner : BitVec 16)
  /-- CACHE_POOL_WRITE (R148): A write to a pool or base register of the CACHE page takes effect only while CACHE is OFF, and a pool enable is refused for an illegal range. -/
  | cachePoolWrite (offset : BitVec 12) (value : W)
  /-- UNSEAL (R309): SEC_LCCMD UNSEAL burns Blank to Unsealed and performs a cold reset. -/
  | lcUnseal (testPort : Bool)
  /-- SEAL (R309): SEC_LCCMD SEAL burns the device secret and LC[1] and performs a cold reset. -/
  | lcSeal
  /-- RETURN (R310): A signed RETURN burns LC[2] and resets, after which the erasure runs. -/
  | lcReturn
  /-- VOID (R309): SEC_LCCMD VOID burns the part to Void and performs a cold reset. -/
  | lcVoid
  /-- RAISE_FW_MIN (R321): A signed RAISE_FW_MIN burns FW_MIN thermometer bits up to ARG. -/
  | raiseFwMin
  /-- IMPORT (R316): SEC_KCMD IMPORT reads a key blob, unwraps the key by ECDH and fills a key slot with its derived keys and owner word. -/
  | keyImport
  /-- CLEAR (R316): SEC_KCMD CLEAR empties the selected key slot. -/
  | keyClear
  /-- ATTEST (R313): SEC_ACMD with GO reads a challenge and writes a signed attestation report. -/
  | attest
  /-- FUSE_BURN_ACK (R394): A fuse burn acknowledgement completes one bit's burn, or triggers a retry or stops the transition after three failures. -/
  | fuseBurnAck (ok : Bool)
  /-- FENCE (R331): REL_CMD FENCE fences a physical core, advancing its epoch in every replica and reissuing its forms. -/
  | fence (core : BitVec 15)
  /-- SPARE_BIND (R334): Within 1,000 local counts of a fencing, the lowest free spare of the slice is bound to the logical number, or the number becomes vacant. -/
  | spareBind (slice : BitVec 2)
  /-- REINSTATE (R336): REL_CMD REINSTATE tests an unbound fenced core and makes it a free spare if it passes. -/
  | reinstate (core : BitVec 15) (pass : Bool)
  /-- NOC_MESSAGE (R332): A network message is checked on arrival for header parity and sender epoch, and a dead letter is dropped and counted. -/
  | nocMessage (core : BitVec 15) (form : Option Nat) (parityOk : Bool) (toBerth : Option Nat)
  /-- CTRL_UNCORR (R328, R324): An uncorrectable control SRAM word loses its entry and the action of Table 15-3 is taken; a
  corrected word is written back, counted and, with LOG_CORR, logged. -/
  | ctrlUncorr (error : SecdedError) (index : BitVec 24)
  /-- REL_LOG0_READ (R329): Reading REL_LOG0 latches the oldest error log record. -/
  | relLog0Read
  /-- REL_LOG3_READ (R329): Reading REL_LOG3 after REL_LOG0 removes the latched error log record. -/
  | relLog3Read
  /-- CLUSTER_FAULT (R341): A failed control cluster hands every duty to the other at once, restarting any boundary stage or formation in progress. -/
  | clusterFault (cluster : Bool)
  /-- HANDOVER (R340): CTL_FWCMD HANDOVER moves every duty to the named cluster at the next safe point. -/
  | handover (cluster : Bool)
  /-- FW_LOAD (R340): CTL_FWCMD LOAD has a cluster without duties load and check a firmware image. -/
  | fwLoad (cluster : Bool)
  /-- SPLIT (R340): CTL_FWCMD SPLIT shares the duties between the two clusters as R377 states. -/
  | split
  /-- CLKFAIL (R346): At the end of a 1 µs monitor window, a clock outside ±10 % is flagged and its domain's units stop. -/
  | clkfail (clocks : ClockFail)
  /-- POWER_ESTIMATE (R350): Every 256 ac each slice estimates its power and adjusts its issue duty, and firmware moves operating points on sustained duty. -/
  | powerEstimate (slice : BitVec 2) (activity : Activity)
  /-- VACK (R348): The power manager's voltage acknowledgement lets a pending raise slew, or its fall forces the slice to point 3. -/
  | vack (slice : BitVec 2) (level : Bool)
  /-- OPP_SLEW_DONE (R348): An ACLK slew completes and, after a lowering, the slice's voltage request is released. -/
  | oppSlewDone (slice : BitVec 2)
  /-- DROOP_ASSERT (R351): Assertion of a slice's droop input stretches its ACLK periods. -/
  | droopAssert (slice : BitVec 2)
  /-- DROOP_DEASSERT (R351): Deassertion of the droop input ends the stretch 32 ac later. -/
  | droopDeassert (slice : BitVec 2)
  /-- THERM_SAMPLE (R352): A thermal input above WARN makes firmware hold the slice at point 2 or lower. -/
  | thermSample (slice : BitVec 2) (temp : BitVec 8)
  /-- GATE_IDLE (R349): A power domain that has held no form for PWR_GATE.IDLE local counts is gated off. -/
  | gateIdle (domain : BitVec 5)
  /-- POWER_ON_RESET (R353): Power-on reset starts a cold reset and bring-up. -/
  | powerOnReset
  /-- COLD_RESET_INPUT (R353): The cold reset input starts a cold reset and bring-up. -/
  | coldResetInput
  /-- WARM_RESET_INPUT (R353): The warm reset input starts a warm reset and bring-up. -/
  | warmResetInput
  /-- BRING_UP (R354): Bring-up runs its phases in order, ending in READY with units whose kept ENABLE is 1 RUNNING. -/
  | bringUp (env : BootEnv)
  /-- COLD (R353): RST_CMD COLD performs a cold reset. -/
  | rstCold
  /-- WARM (R353): RST_CMD WARM performs a warm reset. -/
  | rstWarm
  /-- SLICE (R355): RST_CMD SLICE resets an OFF slice's core array, advancing epochs and logging SLICE_RESET. -/
  | sliceReset (slice : BitVec 2)
  /-- UNIT (R356): RST_CMD UNIT resets an OFF or FAULT unit to hard defaults, restores its kept fields and raises UNIT_DONE. -/
  | unitReset (page : BitVec 9) (sub : BitVec 2)
  /-- EXPORT (R358): RST_CMD EXPORT streams the retained-settings image over the retained-state port and signals commit. -/
  | rstExport
  /-- AUTO_EXPORT (R358): An image DIRTY with no change for RST_QUIET local counts is exported automatically. -/
  | autoExport
  /-- IMAGE_UPDATE (R357): Within 1,000 local counts of a change to a kept field, the image and its CRC are rewritten, or FULL is set. -/
  | imageUpdate
  /-- EXPORT_DONE (R358): The store's commit acknowledgement completes an export. -/
  | exportDone
  /-- EXPORT_FAIL (R358): A refused or unanswered commit raises EXPORT_FAIL and leaves DIRTY set. -/
  | exportFail
  /-- ARM (R382): A beacon ARM loads COUNT when it is 0. -/
  | beaconArm (beacon : BitVec 14) (arg : BitVec 24)
  /-- ARRIVE (R382): A beacon ARRIVE lowers COUNT and advances GEN when COUNT reaches 0. -/
  | beaconArrive (beacon : BitVec 14) (arg : BitVec 24)
  /-- BEACON_CLEAR (R382): A beacon CLEAR sets COUNT to 0 and leaves GEN unchanged. -/
  | beaconClear (beacon : BitVec 14)
  /-- INTAKE_READ_TIMEOUT (R263): An intake record read left unanswered for INTAKE_READ_TIMEOUT local counts is retried, and after INTAKE_CFG.RETRY + 1 failures the station cannot be prepared (MISSING). -/
  | intakeReadTimeout
  /-- PHY_TRAINING_TIMEOUT (R389): When irz_m_train_done is not asserted within 4,000 local counts of irz_m_train_req, the training counts as a failure toward the three failures that put the stack in FAULT (R288). -/
  | phyTrainingTimeout (stack : BitVec 4)
  /-- COMMAND_ADDRESS_PARITY_ERROR (R267): A command/address parity error reported on irz_m_caperr makes the controller reissue the command once and counts it in MEM_BUSRETRY. -/
  | commandAddressParityError (stack : BitVec 4) (channel : BitVec 5)
  /-- WRITE_DATA_PARITY_ERROR (R267): A write-data parity error retries the burst once, and a write that fails twice sets its word uncorrectable. -/
  | writeDataParityError (stack : BitVec 4) (addr : BitVec 40) (again : Bool)
deriving DecidableEq, Repr

end Sys2Proof
end

