-- ==== Sys2Proof/Decode.lean ====
section
/-! DEFINITION. The command a word spells by the bits of spec/opcode_table.json. No row of that table gives bits ("fields"
is empty in every row): a command comes as an access or an event, not as a word, so no word spells one. -/
namespace Sys2Proof

/-- The command read from a word of the table's bits: none, because no row has bits. -/
def decodeTableWord (nbits w : Nat) : Option Instr :=
  match nbits, w with
  | _, _ => none

end Sys2Proof
end

