-- ==== Sys2Proof/Machine/Float.lean ====
section
/-! DEFINITION. The element formats, the roundings and the arithmetic of 02_arithmetic.md (R30 to R46), over exact
dyadic values. -/
namespace Sys2Proof.Machine

/-- An exact value: NaN, a signed infinity, or ±m·2^e (zero keeps its sign). -/
inductive Val where
  | nan
  | inf (neg : Bool)
  | fin (neg : Bool) (m : Nat) (e : Int)
deriving DecidableEq, Repr

namespace Val

/-- +0. -/
def zero : Val := .fin false 0 0
/-- −0: the start of every FP32 accumulator (R41). -/
def negZero : Val := .fin true 0 0

def isNan : Val → Bool
  | .nan => true
  | _ => false

def isFinite : Val → Bool
  | .fin .. => true
  | _ => false

def isZero : Val → Bool
  | .fin _ m _ => m == 0
  | _ => false

def isNeg : Val → Bool
  | .nan => false
  | .inf n => n
  | .fin n _ _ => n

def neg : Val → Val
  | .nan => .nan
  | .inf n => .inf (!n)
  | .fin n m e => .fin (!n) m e

def abs : Val → Val
  | .nan => .nan
  | .inf _ => .inf false
  | .fin _ m e => .fin false m e

/-- The value of an integer. -/
def ofInt (i : Int) : Val := .fin (i < 0) i.natAbs 0

/-- Times a power of two, exactly. -/
def scale (v : Val) (k : Int) : Val :=
  match v with
  | .fin n m e => .fin n m (e + k)
  | v => v

/-- The signed significand at a common exponent q ≤ e. -/
def sigAt (q : Int) : Val → Int
  | .fin n m e => let k : Int := (m * 2 ^ (e - q).toNat : Nat); if n then -k else k
  | _ => 0

def expo : Val → Int
  | .fin _ m e => if m = 0 then 0 else e
  | _ => 0

/-- The exact sum, with IEEE 754 specials (R41). -/
def add (a b : Val) : Val :=
  match a, b with
  | .nan, _ => .nan
  | _, .nan => .nan
  | .inf n, .inf k => if n = k then .inf n else .nan
  | .inf n, _ => .inf n
  | _, .inf n => .inf n
  | .fin n m e, .fin k p f =>
    if m = 0 then (if p = 0 then .fin (n && k) 0 0 else .fin k p f)
    else if p = 0 then .fin n m e
    else
      let q := min e f
      let s := sigAt q (.fin n m e) + sigAt q (.fin k p f)
      if s = 0 then .zero else .fin (s < 0) s.natAbs q

/-- The exact product, with IEEE 754 specials. -/
def mul (a b : Val) : Val :=
  match a, b with
  | .nan, _ => .nan
  | _, .nan => .nan
  | .inf n, .inf k => .inf (n != k)
  | .inf n, .fin k p _ => if p = 0 then .nan else .inf (n != k)
  | .fin n m _, .inf k => if m = 0 then .nan else .inf (n != k)
  | .fin n m e, .fin k p f => .fin (n != k) (m * p) (e + f)

/-- Strictly less (NaN compares with nothing; the two zeros are equal). -/
def lt (a b : Val) : Bool :=
  match a, b with
  | .nan, _ => false
  | _, .nan => false
  | .inf n, .inf k => n && !k
  | .inf n, _ => n
  | _, .inf k => !k
  | a, b => let q := min a.expo b.expo; decide (sigAt q a < sigAt q b)

def le (a b : Val) : Bool := !a.isNan && !b.isNan && !lt b a

def eqv (a b : Val) : Bool := le a b && le b a

end Val

/-- Integer part of m·2^(−sh), rounded to nearest, ties to even (R34). -/
def rneShift (m sh : Nat) : Nat :=
  if sh = 0 then m else
  let base := m / 2 ^ sh
  let rem := m % 2 ^ sh
  let half := 2 ^ (sh - 1)
  if rem > half || (rem = half && base % 2 = 1) then base + 1 else base

/-- ±m·2^e rounded to p significant bits with least exponent emin (R34): significand and exponent. -/
def roundSig (p : Nat) (emin : Int) (m : Nat) (e : Int) : Nat × Int :=
  let q := max (e + Nat.log2 m + 1 - p) emin
  if q ≤ e then (m * 2 ^ (e - q).toNat, q) else (rneShift m (q - e).toNat, q)

/-- A binary format of Table 02-1: exponent bits, fraction bits, bias. -/
structure Fmt where
  eb : Nat
  fb : Nat
  bias : Int
deriving DecidableEq, Repr

def Fmt.emin (f : Fmt) : Int := 1 - f.bias - f.fb

def fp32 : Fmt := ⟨8, 23, 127⟩
def bf16 : Fmt := ⟨8, 7, 127⟩
def e4m3 : Fmt := ⟨4, 3, 7⟩
def e5m2 : Fmt := ⟨5, 2, 15⟩
def e2m1 : Fmt := ⟨2, 1, 1⟩

/-- The finite value of a code of format f, its exponent field taken at face value. -/
def Fmt.decodeFin (f : Fmt) (bits : Nat) : Val :=
  let frac := bits % 2 ^ f.fb
  let ex := bits / 2 ^ f.fb % 2 ^ f.eb
  let n := bits / 2 ^ (f.fb + f.eb) % 2 = 1
  if ex = 0 then .fin n frac f.emin else .fin n (2 ^ f.fb + frac) (f.emin + ex - 1)

/-- A code of an IEEE format (FP32, BF16, E5M2): all-ones exponents are infinity and NaN (Table 02-1). -/
def Fmt.decodeIeee (f : Fmt) (bits : Nat) : Val :=
  if bits / 2 ^ f.fb % 2 ^ f.eb = 2 ^ f.eb - 1 then
    if bits % 2 ^ f.fb = 0 then .inf (bits / 2 ^ (f.fb + f.eb) % 2 = 1) else .nan
  else f.decodeFin bits

/-- The code of a finite rounded value; none when it lies beyond the format's exponent range `top` (biased). -/
def Fmt.encodeFin (f : Fmt) (top : Nat) (n : Bool) (m : Nat) (e : Int) : Option Nat :=
  let sign := if n then 2 ^ (f.fb + f.eb) else 0
  if m = 0 then some sign else
  let (s, q) := roundSig (f.fb + 1) f.emin m e
  let l := Nat.log2 s
  if s = 0 then some sign
  else if l < f.fb then some (sign + s)
  else
    let ex := q + l + f.bias
    if ex > top then none
    else some (sign + ex.toNat * 2 ^ f.fb + (s / 2 ^ (l - f.fb) - 2 ^ f.fb))

/-- Rounding to FP32 (R34, R37, R38): overflow gives infinity, NaN is canonical. -/
def toF32 : Val → W
  | .nan => 0x7FC00000#32
  | .inf n => if n then 0xFF800000#32 else 0x7F800000#32
  | .fin n m e =>
    match fp32.encodeFin 254 n m e with
    | some b => BitVec.ofNat 32 b
    | none => if n then 0xFF800000#32 else 0x7F800000#32

/-- The exact value of an FP32 word. -/
def ofF32 (w : W) : Val := fp32.decodeIeee w.toNat

/-- Rounding to BF16 (R37, R38). -/
def toBf16 : Val → BitVec 16
  | .nan => 0x7FC0#16
  | .inf n => if n then 0xFF80#16 else 0x7F80#16
  | .fin n m e =>
    match bf16.encodeFin 254 n m e with
    | some b => BitVec.ofNat 16 b
    | none => if n then 0xFF80#16 else 0x7F80#16

def ofBf16 (w : BitVec 16) : Val := bf16.decodeIeee w.toNat

/-- Conversion to unscaled FP8 E4M3 (R36): saturating to ±448, infinities saturate, NaN is 0x7F. -/
def toE4m3 : Val → Byte
  | .nan => 0x7F#8
  | .inf n => if n then 0xFE#8 else 0x7E#8
  | .fin n m e =>
    match e4m3.encodeFin 15 n m e with
    | some b => if b % 128 = 127 then (if n then 0xFE#8 else 0x7E#8) else BitVec.ofNat 8 b
    | none => if n then 0xFE#8 else 0x7E#8

/-- The value of an E4M3 code: 0x7F and 0xFF are NaN (Table 02-1). -/
def ofE4m3 (b : Byte) : Val := if b.toNat % 128 = 127 then .nan else e4m3.decodeFin b.toNat

def ofE5m2 (b : Byte) : Val := e5m2.decodeIeee b.toNat

/-- The value of an E2M1 code (its low four bits). -/
def ofE2m1 (b : Byte) : Val := e2m1.decodeFin (b.toNat % 16)

/-- INT8: two's complement, value × 2^−6 (Table 02-1); 0x80 reads as −2.0 (R32). -/
def ofInt8 (b : Byte) : Val := (Val.ofInt b.toInt).scale (-6)

/-- The format codes of Table 02-2. -/
inductive FmtCode where
  | fp32 | bf16 | mxE4m3 | mxE5m2 | mxfp4 | mxint8 | e4m3 | int32
deriving DecidableEq, Repr

/-- R31: a reserved code is malformed. -/
def fmtOfCode (c : Nat) : Option FmtCode :=
  match c with
  | 1 => some .fp32
  | 2 => some .bf16
  | 3 => some .mxE4m3
  | 4 => some .mxE5m2
  | 5 => some .mxfp4
  | 6 => some .mxint8
  | 7 => some .e4m3
  | 8 => some .int32
  | _ => none

def FmtCode.isMx : FmtCode → Bool
  | .mxE4m3 | .mxE5m2 | .mxfp4 | .mxint8 => true
  | _ => false

/-- Bits of one stored element. -/
def FmtCode.bits : FmtCode → Nat
  | .fp32 | .int32 => 32
  | .bf16 => 16
  | .mxfp4 => 4
  | _ => 8

/-- The value of an MX element before its scale. -/
def FmtCode.elem (f : FmtCode) (b : Byte) : Val :=
  match f with
  | .mxE4m3 => ofE4m3 b
  | .mxE5m2 => ofE5m2 b
  | .mxfp4 => ofE2m1 b
  | .mxint8 => ofInt8 b
  | _ => .nan

/-- A value beyond the FP32 range becomes an infinity (R40). -/
def clampF32 : Val → Val
  | .fin n m e => if m ≠ 0 ∧ (Nat.log2 m : Int) + e ≥ 128 then .inf n else .fin n m e
  | v => v

/-- A decoded MX element (R32, R40): a 0xFF scale reads NaN. -/
def mxDecode (f : FmtCode) (scale b : Byte) : Val :=
  if scale = 0xFF#8 then .nan else clampF32 ((f.elem b).scale ((scale.toNat : Int) - 127))

/-- emax of R35. -/
def FmtCode.emax : FmtCode → Int
  | .mxE4m3 => 8
  | .mxE5m2 => 15
  | .mxfp4 => 2
  | _ => 0

/-- Rounding to the nearest integer, ties to even. -/
def rneInt (n : Bool) (m : Nat) (e : Int) : Int :=
  let k : Nat := if 0 ≤ e then m * 2 ^ e.toNat else rneShift m (-e).toNat
  if n then -(k : Int) else k

/-- One MX element: the rounding of a scaled value to the element format, saturating (R35). -/
def FmtCode.mxElem (f : FmtCode) (v : Val) : Byte :=
  match v with
  | .fin n m e =>
    match f with
    | .mxE4m3 => toE4m3 v
    | .mxE5m2 =>
      match Sys2Proof.Machine.e5m2.encodeFin 30 n m e with
      | some b => BitVec.ofNat 8 b
      | none => if n then 0xFB#8 else 0x7B#8
    | .mxfp4 =>
      match Sys2Proof.Machine.e2m1.encodeFin 3 n m e with
      | some b => BitVec.ofNat 8 b
      | none => if n then 0xF#8 else 0x7#8
    | _ => BitVec.ofInt 8 (max (-127) (min 127 (rneInt n m (e + 6))))
  | _ => 0#8

/-- The largest exponent floor(log2 |v|) of the non-zero values; none when all are zero. -/
def amaxExp : List Val → Option Int
  | [] => none
  | .fin _ m e :: vs =>
    if m = 0 then amaxExp vs
    else
      let x : Int := Nat.log2 m + e
      some (match amaxExp vs with | some y => max x y | none => x)
  | _ :: vs => amaxExp vs

/-- Conversion of the values of one block (32, or fewer in a partial block, R33) to an MX format (R35): the scale and
the element codes. -/
def mxEncode (f : FmtCode) (vs : List Val) : Byte × List Byte :=
  if vs.any (fun v => !v.isFinite) then (0xFF#8, vs.map fun _ => 0#8)
  else
    let s : Int := match amaxExp vs with
      | none => 0
      | some x => max 0 (min 254 (x - f.emax + 127))
    (BitVec.ofInt 8 s, vs.map fun v => f.mxElem (v.scale (127 - s)))

/-- A non-negative value whose rounding to the element format exceeds its largest finite element, so that R35 saturates it: half a
step above that element, where a tie goes to the even one. -/
def FmtCode.exceeds (f : FmtCode) (v : Val) : Bool :=
  match f with
  | .mxE4m3 => Val.lt (Val.ofInt 464) v
  | .mxE5m2 => Val.le (Val.ofInt 61440) v
  | .mxfp4 => Val.le (Val.ofInt 7) v
  | _ => Val.le ((Val.ofInt 255).scale (-7)) v

/-! ## Sums -/

/-- The exact sum of a chunk's products with the specials and zero signs of R40. -/
def chunkSum (ps : List Val) : Val :=
  if ps.any Val.isNan then .nan
  else
    let pos := ps.any fun v => v == .inf false
    let ng := ps.any fun v => v == .inf true
    if pos && ng then .nan
    else if pos then .inf false
    else if ng then .inf true
    else
      let q : Int := ps.foldl (fun q v => min q v.expo) 0
      let s : Int := ps.foldl (fun s v => s + v.sigAt q) 0
      if s = 0 then (if ps.all Val.isNeg then .negZero else .zero) else .fin (s < 0) s.natAbs q

/-- One accumulator step: an exact chunk sum added with one rounding (R39). -/
def accAdd (acc : W) (chunk : Val) : W := toF32 ((ofF32 acc).add chunk)

/-- The first l elements of a list and the rest, over and over; `fuel` bounds the number of chunks. -/
def chunksOf {α : Type} (l : Nat) : Nat → List α → List (List α)
  | 0, _ => []
  | _, [] => []
  | fuel + 1, x :: xs => ((x :: xs).take l) :: chunksOf l fuel ((x :: xs).drop l)

/-- A dot product under R39 and R41: chunks of length l in increasing index, from −0. -/
def dot (l : Nat) (ps : List Val) : W :=
  (chunksOf (max l 1) ps.length ps).foldl (fun a c => accAdd a (chunkSum c)) 0x80000000#32

/-- Chunk length of an operand pair (Table 02-4). -/
def chunkLen (a b : FmtCode) : Nat :=
  if a = .fp32 || b = .fp32 then 4
  else if a = .bf16 && b = .bf16 then 16
  else 32

/-! ## Vector primitives (R42) -/

def f32Add (a b : W) : W := toF32 ((ofF32 a).add (ofF32 b))
def f32Neg (a : W) : W := toF32 (ofF32 a).neg
def f32Sub (a b : W) : W := toF32 ((ofF32 a).add (ofF32 b).neg)
def f32Mul (a b : W) : W := toF32 ((ofF32 a).mul (ofF32 b))
def f32Fma (a b c : W) : W := toF32 (((ofF32 a).mul (ofF32 b)).add (ofF32 c))

/-- A quotient of naturals with a sticky bit below enough quotient bits for one correct FP32 rounding. -/
def divSticky (m p : Nat) : Nat × Int :=
  let k := 64 + Nat.log2 p
  let k := if Nat.log2 m > k then k else k + 64
  let x := m * 2 ^ k
  (2 * (x / p) + (if x % p = 0 then 0 else 1), -(k : Int) - 1)

def valDiv (a b : Val) : Val :=
  match a, b with
  | .nan, _ => .nan
  | _, .nan => .nan
  | .inf _, .inf _ => .nan
  | .inf n, .fin k _ _ => .inf (n != k)
  | .fin n _ _, .inf k => .fin (n != k) 0 0
  | .fin n m e, .fin k p f =>
    if p = 0 then (if m = 0 then .nan else .inf (n != k))
    else if m = 0 then .fin (n != k) 0 0
    else let (s, x) := divSticky m p; .fin (n != k) s (e - f + x)

def f32Div (a b : W) : W := toF32 (valDiv (ofF32 a) (ofF32 b))

/-- ⌊√(m·2^e)⌋ at 80 more bits, with a sticky bit. -/
def sqrtSticky (m : Nat) (e : Int) : Nat × Int :=
  let odd : Nat := if e % 2 = 0 then 0 else 1
  let x := m * 2 ^ (160 + odd)
  let r := Nat.sqrt x
  (2 * r + (if r * r = x then 0 else 1), (e - odd) / 2 - 81)

def valSqrt : Val → Val
  | .nan => .nan
  | .inf n => if n then .nan else .inf false
  | .fin n m e =>
    if m = 0 then .fin n 0 0
    else if n then .nan
    else let (s, x) := sqrtSticky m e; .fin false s x

def f32Sqrt (a : W) : W := toF32 (valSqrt (ofF32 a))

/-- 1/√x with a sticky bit: r = ⌊√(2^(2k)/(m·2^e))⌋. -/
def valRsqrt : Val → Val
  | .nan => .nan
  | .inf n => if n then .nan else .zero
  | .fin n m e =>
    if m = 0 then .inf n
    else if n then .nan
    else
      let odd : Nat := if e % 2 = 0 then 0 else 1
      let d := m * 2 ^ odd
      let num := 2 ^ (2 * (Nat.log2 d + 80))
      let r := Nat.sqrt (num / d)
      .fin false (2 * r + (if r * r * d = num then 0 else 1)) (-((e - odd) / 2) - (Nat.log2 d + 80 : Nat) - 1)

def f32Rsqrt (a : W) : W := toF32 (valRsqrt (ofF32 a))

/-- max and min return canonical NaN if either operand is NaN; +0 is above −0 (R42, IEEE 754-2019 maximum). -/
def f32Max (a b : W) : W :=
  let x := ofF32 a
  let y := ofF32 b
  if x.isNan || y.isNan then 0x7FC00000#32
  else if x.lt y then b else if y.lt x then a else if x.isNeg then b else a

def f32Min (a b : W) : W :=
  let x := ofF32 a
  let y := ofF32 b
  if x.isNan || y.isNan then 0x7FC00000#32
  else if x.lt y then a else if y.lt x then b else if x.isNeg then a else b

/-- ln 2 in fixed point with 192 fractional bits: Σ 1/(k·2^k). -/
def ln2Fix : Nat :=
  (List.range 200).foldl (fun s k => s + 2 ^ 200 / ((k + 1) * 2 ^ (k + 1))) 0 / 2 ^ 8

/-- e^t in fixed point with 192 fractional bits, t in [0, 1). -/
def expFix (t : Nat) : Nat :=
  ((List.range 60).foldl (fun (acc : Nat × Nat) k =>
    let term := acc.2 * t / 2 ^ 192 / (k + 1)
    (acc.1 + term, term)) (2 ^ 192, 2 ^ 192)).1

/-- exp2, correctly rounded: a non-integer argument is evaluated at 192 fractional bits with a sticky bit (the hardest
FP32 argument needs about 60; DEDUCED, log 3). -/
def valExp2 : Val → Val
  | .nan => .nan
  | .inf n => if n then .zero else .inf false
  | .fin n m e =>
    if m = 0 then .fin false 1 0
    else
      let l : Int := Nat.log2 m + e
      if l ≥ 8 then (if n then .fin false 1 (-400) else .inf false)
      else if l < -40 then
        (if n then .fin false (2 ^ 64 - 1) (-64) else .fin false (2 ^ 64 + 1) (-64))
      else
        let x : Int := sigmaFix n m e
        let ip := x / 2 ^ 192
        let fp := (x % 2 ^ 192).toNat
        if fp = 0 then .fin false 1 ip
        else .fin false (2 * expFix (fp * ln2Fix / 2 ^ 192) + 1) (ip - 193)
where
  /-- ±m·2^e in fixed point with 192 fractional bits (exact for an FP32 argument of exponent above −40). -/
  sigmaFix (n : Bool) (m : Nat) (e : Int) : Int :=
    let k : Nat := if 0 ≤ e + 192 then m * 2 ^ (e + 192).toNat else m / 2 ^ (-(e + 192)).toNat
    if n then -(k : Int) else k

def f32Exp2 (a : W) : W := toF32 (valExp2 (ofF32 a))

/-- The fractional bits of log2 y, y in [1, 2) with 256 fractional bits, by repeated squaring. -/
def log2Bits : Nat → Nat → Nat → Nat
  | 0, _, acc => acc
  | k + 1, y, acc =>
    let z := y * y / 2 ^ 256
    if z ≥ 2 ^ 257 then log2Bits k (z / 2) (2 * acc + 1) else log2Bits k z (2 * acc)

/-- log2, correctly rounded at 112 fractional bits with a sticky bit (DEDUCED, log 3). -/
def valLog2 : Val → Val
  | .nan => .nan
  | .inf n => if n then .nan else .inf false
  | .fin n m e =>
    if m = 0 then .inf true
    else if n then .nan
    else
      let l := Nat.log2 m
      let ip : Int := l + e
      if m = 2 ^ l then .ofInt ip
      else
        let y := m * 2 ^ 256 / 2 ^ l
        let f := log2Bits 112 y 0
        let v : Int := ip * 2 ^ 112 + f
        if 0 ≤ v then .fin false (2 * v.toNat + 1) (-113)
        else .fin true (2 * ((-v).toNat - 1) + 1) (-113)

def f32Log2 (a : W) : W := toF32 (valLog2 (ofF32 a))

/-- exp(x) = exp2(x × log2 e), the product rounded (R42). -/
def f32Exp (a : W) : W := f32Exp2 (f32Mul a 0x3FB8AA3B#32)

def f32One : W := 0x3F800000#32

/-! ## The fixed tree (R45) -/

/-- One level of the tree: neighbours added, an odd last partial carried. -/
def treeLevel : List W → List W
  | a :: b :: rest => f32Add a b :: treeLevel rest
  | rest => rest

/-- tree_sum over as many levels as `fuel`; the list's length is fuel enough. -/
def treeGo : Nat → List W → List W
  | 0, p => p
  | fuel + 1, p => match p with
    | [] => []
    | [x] => [x]
    | p => treeGo fuel (treeLevel p)

/-- tree_sum (R45): none for no partial (Table 02-6). -/
def treeSum (p : List W) : Option W := (treeGo p.length p).head?

/-! ## Rotary angles (R185) -/

/-- arctan(1/k) in fixed point with n fractional bits. -/
def atanInv (n k : Nat) : Int :=
  (List.range 200).foldl (fun (acc : Int) i =>
    let t : Nat := 2 ^ n / (k ^ (2 * i + 1) * (2 * i + 1))
    if i % 2 = 0 then acc + t else acc - t) 0

/-- π/2 in fixed point with 256 fractional bits (Machin's formula). -/
def halfPi : Nat := ((8 * atanInv 288 5 - 2 * atanInv 288 239) / 2 ^ 32).toNat

/-- cos and sin of an angle in [0, π/2) in fixed point with 256 fractional bits. -/
def cosSinFix (a : Nat) : Int × Int :=
  ((List.range 80).foldl (fun (acc : Int × Int × Nat) k =>
    let t : Int := acc.2.2
    let t : Int := if k / 2 % 2 = 0 then t else -t
    let next := acc.2.2 * a / 2 ^ 256 / (k + 1)
    if k % 2 = 0 then (acc.1 + t, acc.2.1, next) else (acc.1, acc.2.1 + t, next)) (0, 0, 2 ^ 256)) |> fun x => (x.1, x.2.1)

/-- b^(−2i/D) in fixed point with 256 fractional bits, b > 1: evaluated far beyond FP32 (DEDUCED, log 3). -/
def ropeStep (b : Val) (d i : Nat) : Nat :=
  match b with
  | .fin false m e =>
    if i = 0 ∨ m = 0 then 2 ^ 256
    else
      let l := Nat.log2 m
      let f := if m = 2 ^ l then 0 else log2Bits 160 (m * 2 ^ 256 / 2 ^ l) 0
      let x : Int := -(((l : Int) + e) * 2 ^ 192 + f * 2 ^ 32) * (2 * i) / d
      let ip := x / 2 ^ 192
      let fp := (x % 2 ^ 192).toNat
      let v := expFix (fp * ln2Fix / 2 ^ 192) * 2 ^ 64
      if 0 ≤ ip then v * 2 ^ ip.toNat else v / 2 ^ (-ip).toNat
  | _ => 2 ^ 256

/-- The FP32 values nearest cos and sin of p·b^(−2i/D) (R185). -/
def ropeEntry (ropeBase : W) (d p i : Nat) : W × W :=
  let a := p * ropeStep (ofF32 ropeBase) d i
  let (c, s) := cosSinFix (a % halfPi)
  let (c, s) : Int × Int := match a / halfPi % 4 with
    | 0 => (c, s)
    | 1 => (-s, c)
    | 2 => (-c, -s)
    | _ => (s, -c)
  (toF32 ((Val.ofInt c).scale (-256)), toF32 ((Val.ofInt s).scale (-256)))

/-! ## The tap and the pool conversions -/

/-- The merge tap on FP32 (R43). -/
def tapF32 (y d : W) : W := f32Add y d

/-- The merge tap on BF16 (R43). -/
def tapBf16 (y d : BitVec 16) : BitVec 16 := toBf16 ((ofBf16 y).add (ofBf16 d))

/-- FP32 to the INT32 modular format with scale exponent f (R44): the word, and whether it saturated or was NaN. -/
def toPool (f : Int) (x : W) : W × Bool × Bool :=
  let lim : Int := 2 ^ 31 - 1
  match ofF32 x with
  | .nan => (0#32, false, true)
  | .inf n => (BitVec.ofInt 32 (if n then -lim else lim), true, false)
  | .fin n m e =>
    let q := rneInt n m (e + f)
    if q > lim then (BitVec.ofInt 32 lim, true, false)
    else if q < -lim then (BitVec.ofInt 32 (-lim), true, false)
    else (BitVec.ofInt 32 q, false, false)

/-- A modular sum read back: round(q × 2^−f) (R44). -/
def ofPool (f : Int) (q : W) : W := toF32 ((Val.ofInt q.toInt).scale (-f))

end Sys2Proof.Machine
end

