-- ==== Sys2Proof/Machine/Factor.lean ====
section
/-! DEFINITION. The orthogonalisation of a factor pair: a QR factorisation of each factor by reflections, a singular value
decomposition of the small product by one-sided rotations, the order of the components and their scaling
(11_weight_intake.md R256; 03_adapter_directory.md R75). Matrices are lists of columns of FP32 words. R256 names the two
algorithms, their orders and the 16 sweeps; the steps inside a reflection and a rotation are the usual ones (DESIGN CHOICE,
log 148). -/
namespace Sys2Proof.Machine

/-- Σ of a list by R45. -/
def sumF32 (l : List W) : W := (treeSum l).getD 0#32

/-- Σ xₖ × yₖ. -/
def innerF32 (x y : List W) : W := sumF32 (List.zipWith f32Mul x y)

/-- a + c × v, element by element. -/
def axpy (c : W) (v a : List W) : List W := List.zipWith (fun x y => f32Fma c x y) v a

def isZeroF32 (w : W) : Bool := (ofF32 w).isZero

/-! ## QR by reflections, columns in increasing index -/

/-- A reflection I − β v vᵀ on the elements from `at_` on. -/
structure Reflection where
  at_ : Nat
  v : List W
  beta : W
deriving DecidableEq, Repr

/-- The reflection applied to a column. -/
def Reflection.apply (h : Reflection) (a : List W) : List W :=
  let x := a.drop h.at_
  a.take h.at_ ++ axpy (f32Neg (f32Mul h.beta (innerF32 h.v x))) h.v x

/-- The reflection that clears column k below its diagonal; of a column that is zero there, none (β = 0). -/
def reflectionOf (k : Nat) (a : List W) : Reflection :=
  let x := a.drop k
  let norm := f32Sqrt (innerF32 x x)
  if isZeroF32 norm then { at_ := k, v := x, beta := 0#32 }
  else
    let x0 := x.headD 0#32
    let alpha := if (ofF32 x0).isNeg then norm else f32Neg norm
    let v := f32Sub x0 alpha :: x.drop 1
    { at_ := k, v := v, beta := f32Div 0x40000000#32 (innerF32 v v) }

/-- The columns after the first n reflections, and the reflections, the last one first. -/
def reflectGo (cols : List (List W)) : Nat → List (List W) × List Reflection
  | 0 => (cols, [])
  | n + 1 =>
    let (cs, hs) := reflectGo cols n
    let h := reflectionOf n (cs.getD n [])
    ((cs.zipIdx).map (fun (c, j) => if n ≤ j then h.apply c else c), h :: hs)

/-- Column j of the identity, of m elements. -/
def unitCol (m j : Nat) : List W := (List.range m).map fun i => if i = j then f32One else 0#32

/-- Q (of as many columns as the matrix) and R (upper triangular) of a matrix of m rows. -/
def householderQr (m : Nat) (cols : List (List W)) : List (List W) × List (List W) :=
  let r := cols.length
  let (cs, hs) := reflectGo cols (min m r)
  ((List.range r).map fun j => hs.foldl (fun c h => h.apply c) (unitCol m j),
    (cs.zipIdx).map fun (c, j) => (List.range r).map fun i => if i ≤ j then c.getD i 0#32 else 0#32)

/-! ## SVD by one-sided rotations -/

/-- The rotation (c, s) that makes two columns orthogonal, from their squares and product; none where they are. -/
def rotationOf (alpha beta gamma : W) : Option (W × W) :=
  if isZeroF32 gamma then none
  else
    let zeta := f32Div (f32Sub beta alpha) (f32Mul 0x40000000#32 gamma)
    let root := f32Sqrt (f32Fma zeta zeta f32One)
    let t := if (ofF32 zeta).isNeg then f32Div (f32Neg f32One) (f32Sub root zeta) else f32Div f32One (f32Add zeta root)
    let c := f32Div f32One (f32Sqrt (f32Fma t t f32One))
    some (c, f32Mul c t)

/-- Columns p and q rotated. -/
def rotateCols (c s : W) (p q : Nat) (m : List (List W)) : List (List W) :=
  let x := m.getD p []
  let y := m.getD q []
  (m.set p (axpy (f32Neg s) y (x.map (f32Mul c)))).set q (axpy s x (y.map (f32Mul c)))

/-- One pair of a sweep: the columns of G and of V. -/
def rotatePair (gv : List (List W) × List (List W)) (p q : Nat) : List (List W) × List (List W) :=
  let x := gv.1.getD p []
  let y := gv.1.getD q []
  match rotationOf (innerF32 x x) (innerF32 y y) (innerF32 x y) with
  | none => gv
  | some (c, s) => (rotateCols c s p q gv.1, rotateCols c s p q gv.2)

/-- A sweep over the pairs in cyclic row order. -/
def sweepPairs (r : Nat) (gv : List (List W) × List (List W)) : List (List W) × List (List W) :=
  (List.range r).foldl (fun gv p => ((List.range r).filter (p < ·)).foldl (fun gv q => rotatePair gv p q) gv) gv

/-- U, S and V of a square matrix: exactly 16 sweeps (R256). -/
def jacobiSvd (cols : List (List W)) : List (List W) × List W × List (List W) :=
  let r := cols.length
  let (g, v) := (List.range 16).foldl (fun gv _ => sweepPairs r gv) (cols, (List.range r).map (unitCol r))
  let s := g.map fun x => f32Sqrt (innerF32 x x)
  ((g.zip s).map fun (x, n) => if isZeroF32 n then x else x.map fun w => f32Div w n, s, v)

/-! ## The components -/

/-- Components by decreasing S, ties by index. -/
def orderS (sv : List W) : List Nat :=
  let ins (l : List Nat) (j : Nat) : List Nat :=
    l.takeWhile (fun k => !Val.lt (ofF32 (sv.getD k 0#32)) (ofF32 (sv.getD j 0#32))) ++ [j] ++
      l.dropWhile (fun k => !Val.lt (ofF32 (sv.getD k 0#32)) (ofF32 (sv.getD j 0#32)))
  (List.range sv.length).foldl ins []

/-- The element of largest magnitude, the lowest index on a tie, is negative. -/
def leadNeg (a : List W) : Bool :=
  match a.foldl (fun (best : Option W) x => match best with
      | none => some x
      | some b => if Val.lt (ofF32 b).abs (ofF32 x).abs then some x else some b) none with
  | some x => (ofF32 x).isNeg
  | none => false

/-- Column j of Q · U. -/
def mulCol (m : Nat) (q : List (List W)) (u : List W) : List W :=
  (List.range m).map fun x => sumF32 (List.zipWith (fun c w => f32Mul (c.getD x 0#32) w) q u)

/-- A factor pair orthogonalised (R256): rows of A and of B in FP32. -/
def orthogonalise (r i o : Nat) (a b : List (List W)) : List (List W) × List (List W) :=
  let (qa, ra) := householderQr i (a.take r)
  let (qb, rb) := householderQr o (b.take r)
  let row (m : List (List W)) (x : Nat) : List W := m.map fun c => c.getD x 0#32
  let mx := (List.range r).map fun y => (List.range r).map fun x => innerF32 (row ra x) (row rb y)
  let (u, sv, v) := jacobiSvd mx
  let rows := (orderS sv).map fun j =>
    let s := sv.getD j 0#32
    let ca := mulCol i qa (u.getD j [])
    let cb := mulCol o qb (v.getD j [])
    let (ca, cb) := if leadNeg ca then (ca.map f32Neg, cb.map f32Neg) else (ca, cb)
    let q := f32Sqrt s
    if isZeroF32 s then (List.replicate i 0#32, List.replicate o 0#32) else (ca.map (f32Mul q), cb.map (f32Mul q))
  (rows.map (·.1), rows.map (·.2))

end Sys2Proof.Machine
end

