-- ==== Sys2Proof/Config.lean ====
section
/-! DEFINITION. What an implementation fixes and the spec leaves open: constants with no body. A statement that uses one
holds whatever its value is. -/
namespace Sys2Proof.Config

/-- The control-key digest fixed in the part's ROM (14_security.md R311). -/
opaque controlKeyDigest : List Byte
/-- The firmware-key digest fixed in the part's ROM (14_security.md R321). -/
opaque firmwareKeyDigest : List Byte
/-- TOP_ID.ISSUE, the issue letter in ASCII (00_scope.md R5, R6; 17_registers.md Table 17-9). -/
opaque issueLetter : BitVec 8
/-- Bits of the on-die entropy source: the n-th draw (14_security.md R307, R311: device secret, nonce, signing secrets). -/
opaque entropy (n : Nat) : BitVec 384
/-- The chain-hash key derived inside the block at a cold or warm reset: the n-th derivation (07_context_cache.md R159). -/
opaque chainKey (n : Nat) : BitVec 128
/-- The message of block i of the SP 800-108 KDF of R312 for a label: the widths of its counter and length fields are not
stated (14_security.md R312). -/
opaque identKdfMessage (label : List Byte) (i : Nat) : List Byte
/-- A slice's power estimate in watts from its activity counts, by the coefficients Oavotin fixes (16_clocks_power_reset.md R350). -/
opaque powerWatts (macs vecs scratch landing staging hops shore : Nat) : BitVec 10
/-- 4 KiB units the running image needs for its working tables (17_registers.md R377, CTL_TABLES_MIN), by the image's digest. -/
opaque tablesMin (digest : BitVec 384) : BitVec 28
/-- The AES-XTS tweak of a parcel, by slot, page and pause count (07_context_cache.md R168: derived from them, not how). -/
opaque parcelTweak (slot page pauses : Nat) : BitVec 128
/-- Which resident translation a full translation cache gives up (07_context_cache.md R154). -/
opaque tcacheVictim (n entries : Nat) : Nat
/-- A read of a word whose four or more symbols are in error and that is miscorrected: what the 32 bytes read as (12_memory.md R277). -/
opaque miscorrected (n : Nat) : BitVec 256
/-- What the 32 bytes of a word read as once their symbols are damaged beyond correction (12_memory.md R280). -/
opaque damagedWord (n : Nat) : BitVec 256
/-- A retirement copy moves its next unit in this local count (12_memory.md R284: at most half of the pseudo-channel's
bandwidth, which is under one 256-byte unit a count; the rule gives no other rate). -/
opaque copyStep (n : Nat) : Bool
/-- Offset of the poste restante bitmap in the control area: the layout is firmware's own (17_registers.md R378). -/
opaque bitmapOffset : Nat
/-- The set of 2,048 a translation of (slot, page) lies in (07_context_cache.md R154: 16,384 entries in 8 ways). -/
opaque tcacheSet (slot page : Nat) : Nat
/-- Arithmetic cycles firmware plans for a form whose rate no table states: its code, rows and columns (09_scheduling.md R209). -/
opaque plannedAcs (form rows cols : Nat) : Nat
/-- Local counts firmware plans until the last UP form of a layer's commands completes: rows and passes (09_scheduling.md R209). -/
opaque layerCounts (rows passes : Nat) : Nat
/-- A value the spec leaves open, one for each number (03 to 16; log 2). -/
opaque freeWord (n : Nat) : BitVec 32

/-- Input width ÷ 32 and output width of a model's auxiliary projection, from D_MODEL and the MLP width (11_weight_intake.md
Table 11-3 refers to the descriptor, and Table 11-4 has no field for them). -/
opaque auxBlocks (dModel mlp : Nat) : Nat
opaque auxWidth (dModel mlp : Nat) : Nat

end Sys2Proof.Config
end

