-- ==== Sys2Proof/Machine/Crypto.lean ====
section
/-! DEFINITION. The published algorithms the spec names: CRC-32 (R87), Philox-4×32-10 (R52), SipHash-2-4 (R159),
AES-256 and its modes (R245, R274, R317, R318, R315, R316), SHA-384 and HMAC (R311 to R316), P-384 (R311 to R316). -/
namespace Sys2Proof.Machine

/-! ## Byte strings -/

/-- n bytes of a number, least significant first (00_scope.md, Fields and bits). -/
def leBytes (n x : Nat) : List Byte := (List.range n).map fun i => BitVec.ofNat 8 (x / 256 ^ i)

/-- n bytes of a number, most significant first (elliptic-curve values, R311). -/
def beBytes (n x : Nat) : List Byte := (leBytes n x).reverse

def ofLe (bs : List Byte) : Nat := bs.foldr (fun b x => b.toNat + 256 * x) 0

def ofBe (bs : List Byte) : Nat := ofLe bs.reverse

def xorBytes (a b : List Byte) : List Byte := (a.zip b).map fun (x, y) => x ^^^ y

def asciiBytes (s : String) : List Byte := s.toList.map fun c => BitVec.ofNat 8 c.toNat

def zeroBytes (n : Nat) : List Byte := List.replicate n 0#8

/-- The list cut into pieces of n. -/
def piecesOf (n : Nat) : Nat → List Byte → List (List Byte)
  | 0, _ => []
  | _, [] => []
  | fuel + 1, x :: xs => ((x :: xs).take n) :: piecesOf n fuel ((x :: xs).drop n)

def blocks16 (bs : List Byte) : List (List Byte) := piecesOf 16 bs.length bs

/-! ## CRC-32 (R87) -/

def crcBit (c : W) : W := if c.getLsbD 0 then (c >>> 1) ^^^ 0xEDB88320#32 else c >>> 1

def crcByte (c : W) (b : Byte) : W :=
  (List.range 8).foldl (fun c _ => crcBit c) (c ^^^ b.zeroExtend 32)

/-- CRC-32 with polynomial 0x04C1_1DB7, reflected, initial value and final XOR of 0xFFFF_FFFF (R87). -/
def crc32 (bs : List Byte) : W := bs.foldl crcByte 0xFFFFFFFF#32 ^^^ 0xFFFFFFFF#32

/-! ## Philox-4×32-10 (R52) -/

structure Philox where
  c0 : W
  c1 : W
  c2 : W
  c3 : W
deriving DecidableEq, Repr

def mulHi (a b : W) : W := BitVec.ofNat 32 (a.toNat * b.toNat / 2 ^ 32)

def philoxRound (c : Philox) (k0 k1 : W) : Philox :=
  { c0 := mulHi 0xCD9E8D57#32 c.c2 ^^^ c.c1 ^^^ k0
    c1 := 0xCD9E8D57#32 * c.c2
    c2 := mulHi 0xD2511F53#32 c.c0 ^^^ c.c3 ^^^ k1
    c3 := 0xD2511F53#32 * c.c0 }

/-- Ten rounds; before each of rounds 2 to 10 the key advances. The words w0 to w3 are the fields in order. -/
def philox (seed : BitVec 64) (c : Philox) : Philox :=
  let k0 := seed.setWidth 32
  let k1 := (seed >>> 32).setWidth 32
  (List.range 10).foldl (fun c i =>
    philoxRound c (k0 + BitVec.ofNat 32 i * 0x9E3779B9#32) (k1 + BitVec.ofNat 32 i * 0xBB67AE85#32)) c

/-! ## SipHash-2-4 (R159) -/

structure Sip where
  v0 : BitVec 64
  v1 : BitVec 64
  v2 : BitVec 64
  v3 : BitVec 64

def sipRound (s : Sip) : Sip :=
  let v0 := s.v0 + s.v1
  let v1 := s.v1.rotateLeft 13 ^^^ v0
  let v0 := v0.rotateLeft 32
  let v2 := s.v2 + s.v3
  let v3 := s.v3.rotateLeft 16 ^^^ v2
  let v0 := v0 + v3
  let v3 := v3.rotateLeft 21 ^^^ v0
  let v2 := v2 + v1
  let v1 := v1.rotateLeft 17 ^^^ v2
  let v2 := v2.rotateLeft 32
  ⟨v0, v1, v2, v3⟩

def sipAbsorb (s : Sip) (m : BitVec 64) : Sip :=
  let s := { s with v3 := s.v3 ^^^ m }
  let s := sipRound (sipRound s)
  { s with v0 := s.v0 ^^^ m }

/-- SipHash-2-4 under a 128-bit key. -/
def sipHash (key : BitVec 128) (msg : List Byte) : BitVec 64 :=
  let k0 := key.setWidth 64
  let k1 := (key >>> 64).setWidth 64
  let s : Sip := ⟨k0 ^^^ 0x736f6d6570736575#64, k1 ^^^ 0x646f72616e646f6d#64,
    k0 ^^^ 0x6c7967656e657261#64, k1 ^^^ 0x7465646279746573#64⟩
  let full := msg.length / 8 * 8
  let s := (piecesOf 8 msg.length (msg.take full)).foldl (fun s b => sipAbsorb s (BitVec.ofNat 64 (ofLe b))) s
  let last := BitVec.ofNat 64 (ofLe (msg.drop full) + (msg.length % 256) * 2 ^ 56)
  let s := sipAbsorb s last
  let s := { s with v2 := s.v2 ^^^ 0xff#64 }
  let s := sipRound (sipRound (sipRound (sipRound s)))
  s.v0 ^^^ s.v1 ^^^ s.v2 ^^^ s.v3

/-! ## AES-256 -/

def xtime (b : Byte) : Byte := if b.getLsbD 7 then (b <<< 1) ^^^ 0x1B#8 else b <<< 1

def gmul (a b : Byte) : Byte :=
  ((List.range 8).foldl (fun (acc : Byte × Byte) i =>
    (if b.getLsbD i then acc.1 ^^^ acc.2 else acc.1, xtime acc.2)) (0#8, a)).1

/-- a^254, the inverse of a non-zero element. -/
def ginv (a : Byte) : Byte :=
  ((List.range 7).foldl (fun (acc : Byte × Byte) _ =>
    let sq := gmul acc.2 acc.2
    (gmul acc.1 sq, sq)) (1#8, a)).1

def subByte (a : Byte) : Byte :=
  let b := ginv a
  b ^^^ b.rotateLeft 1 ^^^ b.rotateLeft 2 ^^^ b.rotateLeft 3 ^^^ b.rotateLeft 4 ^^^ 0x63#8

def invSubByte (a : Byte) : Byte :=
  ginv (a.rotateLeft 1 ^^^ a.rotateLeft 3 ^^^ a.rotateLeft 6 ^^^ 0x05#8)

/-- Key expansion: the 60 words of four bytes. -/
def aesExpand (key : List Byte) : List (List Byte) :=
  let start := (piecesOf 4 key.length key).reverse
  ((List.range 52).foldl (fun (acc : List (List Byte) × Byte) i =>
    let rev := acc.1
    let t := rev.headD []
    let old := rev.getD 7 []
    if i % 8 = 0 then
      let u := ((t.drop 1) ++ (t.take 1)).map subByte
      let u := xorBytes u [acc.2, 0#8, 0#8, 0#8]
      (xorBytes old u :: rev, xtime acc.2)
    else if i % 8 = 4 then (xorBytes old (t.map subByte) :: rev, acc.2)
    else (xorBytes old t :: rev, acc.2)) (start, 1#8)).1.reverse

def roundKey (ks : List (List Byte)) (r : Nat) : List Byte := ((ks.drop (4 * r)).take 4).flatten

def shiftRows (s : List Byte) : List Byte :=
  (List.range 16).map fun i => s.getD (i % 4 + 4 * ((i / 4 + i % 4) % 4)) 0#8

def invShiftRows (s : List Byte) : List Byte :=
  (List.range 16).map fun i => s.getD (i % 4 + 4 * ((i / 4 + 4 - i % 4) % 4)) 0#8

/-- The column mix by the circulant with the given first row. -/
def mixWith (row : List Byte) (s : List Byte) : List Byte :=
  (List.range 16).map fun i =>
    (List.range 4).foldl (fun x k =>
      x ^^^ gmul (row.getD k 0#8) (s.getD (4 * (i / 4) + (i % 4 + k) % 4) 0#8)) 0#8

def aesEnc (key block : List Byte) : List Byte :=
  let ks := aesExpand key
  let s := xorBytes block (roundKey ks 0)
  let s := (List.range 13).foldl (fun s r =>
    xorBytes (mixWith [2#8, 3#8, 1#8, 1#8] (shiftRows (s.map subByte))) (roundKey ks (r + 1))) s
  xorBytes (shiftRows (s.map subByte)) (roundKey ks 14)

def aesDec (key block : List Byte) : List Byte :=
  let ks := aesExpand key
  let s := xorBytes block (roundKey ks 14)
  let s := (List.range 13).foldl (fun s r =>
    mixWith [14#8, 11#8, 13#8, 9#8]
      (xorBytes ((invShiftRows s).map invSubByte) (roundKey ks (13 - r)))) s
  xorBytes ((invShiftRows s).map invSubByte) (roundKey ks 0)

/-- Multiplication by α of IEEE 1619, on a little-endian 128-bit number. -/
def mulAlpha (t : Nat) : Nat :=
  let u := 2 * t
  if u ≥ 2 ^ 128 then (u - 2 ^ 128) ^^^ 0x87 else u

/-- AES-256-XTS over the whole blocks of one data unit from block j0 on (IEEE 1619, R274). -/
def xts (enc : Bool) (dataKey tweakKey : List Byte) (tweak : Nat) (j0 : Nat) (data : List Byte) : List Byte :=
  let t0 := ofLe (aesEnc tweakKey (leBytes 16 tweak))
  let t := (List.range j0).foldl (fun t _ => mulAlpha t) t0
  ((blocks16 data).foldl (fun (acc : List Byte × Nat) b =>
    let tb := leBytes 16 acc.2
    let x := xorBytes b tb
    let y := if enc then aesEnc dataKey x else aesDec dataKey x
    (acc.1 ++ xorBytes y tb, mulAlpha acc.2)) ([], t)).1

/-- Doubling of CMAC subkeys, on a big-endian block. -/
def cmacDouble (b : List Byte) : List Byte :=
  let x := 2 * ofBe b
  beBytes 16 (if x ≥ 2 ^ 128 then (x - 2 ^ 128) ^^^ 0x87 else x)

/-- AES-CMAC (NIST SP 800-38B). -/
def cmac (key msg : List Byte) : List Byte :=
  let k1 := cmacDouble (aesEnc key (zeroBytes 16))
  let k2 := cmacDouble k1
  let n := if msg.length = 0 then 0 else (msg.length - 1) / 16
  let last := msg.drop (16 * n)
  let last := if last.length = 16 then xorBytes last k1
    else xorBytes (last ++ [0x80#8] ++ zeroBytes (15 - last.length)) k2
  let x := (blocks16 (msg.take (16 * n))).foldl (fun x b => aesEnc key (xorBytes x b)) (zeroBytes 16)
  aesEnc key (xorBytes x last)

/-- AES Key Wrap unwrapping of a 40-byte ciphertext (NIST SP 800-38F, KW); none on an integrity failure. -/
def kwUnwrap (kek ct : List Byte) : Option (List Byte) :=
  let a0 := ct.take 8
  let r0 := (piecesOf 8 ct.length (ct.drop 8))
  let (a, r) := (List.range 24).foldl (fun (st : List Byte × List (List Byte)) s =>
    let t := 24 - s
    let i := (t - 1) % 4
    let b := aesDec kek (xorBytes st.1 (beBytes 8 t) ++ st.2.getD i [])
    (b.take 8, st.2.set i (b.drop 8))) (a0, r0)
  if a = List.replicate 8 0xA6#8 ∧ ct.length = 40 then some r.flatten else none

/-- The counter-mode KDF of R315: CMAC(K, i ‖ label ‖ 0x00 ‖ 0x0100) for i = 1, 2. -/
def kdfCmac (k : List Byte) (label : String) : List Byte :=
  [1#8, 2#8].flatMap fun i => cmac k ([i] ++ asciiBytes label ++ [0#8, 1#8, 0#8])

/-! ## SHA-384 and HMAC -/

def firstPrimes : List Nat :=
  (List.range 410).filter fun n => 2 ≤ n && (List.range 21).all fun d => d < 2 || n ≤ d || n % d != 0

/-- The largest x below 2^bits with x^k ≤ y. -/
def rootFloor (k : Nat) : Nat → Nat → Nat → Nat
  | 0, _, acc => acc
  | b + 1, y, acc => rootFloor k b y (if (acc + 2 ^ b) ^ k ≤ y then acc + 2 ^ b else acc)

def sha512K : List (BitVec 64) := firstPrimes.map fun p => BitVec.ofNat 64 (rootFloor 3 68 (p * 2 ^ 192) 0)

/-- SHA-384's initial words: fractions of the square roots of the ninth to sixteenth primes. -/
def sha384Init : List (BitVec 64) :=
  ((firstPrimes.drop 8).take 8).map fun p => BitVec.ofNat 64 (rootFloor 2 70 (p * 2 ^ 128) 0)

def shaSchedule (block : List Byte) : List (BitVec 64) :=
  let w0 := ((piecesOf 8 block.length block).map fun b => BitVec.ofNat 64 (ofBe b)).reverse
  ((List.range 64).foldl (fun (rev : List (BitVec 64)) _ =>
    let a := rev.getD 1 0#64
    let b := rev.getD 14 0#64
    let s1 := a.rotateRight 19 ^^^ a.rotateRight 61 ^^^ (a >>> 6)
    let s0 := b.rotateRight 1 ^^^ b.rotateRight 8 ^^^ (b >>> 7)
    (s1 + rev.getD 6 0#64 + s0 + rev.getD 15 0#64) :: rev) w0).reverse

def shaCompress (h : List (BitVec 64)) (block : List Byte) : List (BitVec 64) :=
  let out := (sha512K.zip (shaSchedule block)).foldl (fun (v : List (BitVec 64)) (k, w) =>
    let g := fun i => v.getD i 0#64
    let s1 := (g 4).rotateRight 14 ^^^ (g 4).rotateRight 18 ^^^ (g 4).rotateRight 41
    let ch := ((g 4) &&& (g 5)) ^^^ (~~~(g 4) &&& (g 6))
    let t1 := g 7 + s1 + ch + k + w
    let s0 := (g 0).rotateRight 28 ^^^ (g 0).rotateRight 34 ^^^ (g 0).rotateRight 39
    let mj := ((g 0) &&& (g 1)) ^^^ ((g 0) &&& (g 2)) ^^^ ((g 1) &&& (g 2))
    [t1 + s0 + mj, g 0, g 1, g 2, g 3 + t1, g 4, g 5, g 6]) h
  (h.zip out).map fun (a, b) => a + b

def sha384 (msg : List Byte) : List Byte :=
  let padLen := (128 - (msg.length + 17) % 128) % 128
  let m := msg ++ [0x80#8] ++ zeroBytes padLen ++ beBytes 16 (8 * msg.length)
  (((piecesOf 128 m.length m).foldl shaCompress sha384Init).take 6).flatMap fun w => beBytes 8 w.toNat

def hmacSha384 (key msg : List Byte) : List Byte :=
  let k := if key.length > 128 then sha384 key else key
  let k := k ++ zeroBytes (128 - k.length)
  sha384 (k.map (· ^^^ 0x5C#8) ++ sha384 (k.map (· ^^^ 0x36#8) ++ msg))

/-! ## P-384 -/

namespace P384

def p : Nat := 2 ^ 384 - 2 ^ 128 - 2 ^ 96 + 2 ^ 32 - 1
def n : Nat := 0xFFFFFFFFFFFFFFFFFFFFFFFFFFFFFFFFFFFFFFFFFFFFFFFFC7634D81F4372DDF581A0DB248B0A77AECEC196ACCC52973
def b : Nat := 0xB3312FA7E23EE7E4988E056BE3F82D19181D9C6EFE8141120314088F5013875AC656398D8A2ED19D2A85C8EDD3EC2AEF
def gx : Nat := 0xAA87CA22BE8B05378EB1C71EF320AD746E1D3B628BA79B9859F741E082542A385502F25DBF55296C3A545E3872760AB7
def gy : Nat := 0x3617DE4A96262C6F5D9E98BF9292DC29F8F41DBD289A147CE9DA3113B5F0B8C00A60B1CE1D7E819D7A431D7C90EA0E5F

/-- x^e mod m over `bits` bits of e. -/
def powMod (m : Nat) : Nat → Nat → Nat → Nat → Nat
  | 0, _, _, acc => acc
  | k + 1, x, e, acc => powMod m k (x * x % m) (e / 2) (if e % 2 = 1 then acc * x % m else acc)

def invMod (m x : Nat) : Nat := powMod m 384 (x % m) (m - 2) 1

/-- A point: none is the point at infinity. -/
abbrev Pt := Option (Nat × Nat)

def onCurve (x y : Nat) : Bool := x < p && y < p && (y * y % p == (x * x % p * x + (p - 3) * x + b) % p)

def addPt (a c : Pt) : Pt :=
  match a, c with
  | none, q => q
  | q, none => q
  | some (x1, y1), some (x2, y2) =>
    if x1 = x2 ∧ (y1 + y2) % p = 0 then none
    else
      let l := if x1 = x2 then (3 * x1 * x1 + (p - 3)) * invMod p (2 * y1) % p
        else (y2 + (p - y1)) * invMod p (x2 + (p - x1)) % p
      let x3 := (l * l + (p - x1) + (p - x2)) % p
      some (x3, (l * (x1 + (p - x3)) + (p - y1)) % p)

/-- k·a over `bits` bits of k. -/
def mulPt : Nat → Nat → Pt → Pt → Pt
  | 0, _, _, acc => acc
  | i + 1, k, a, acc => mulPt i (k / 2) (addPt a a) (if k % 2 = 1 then addPt acc a else acc)

def smul (k : Nat) (a : Pt) : Pt := mulPt 384 k a none

def g : Pt := some (gx, gy)

def encode : Pt → List Byte
  | none => zeroBytes 96
  | some (x, y) => beBytes 48 x ++ beBytes 48 y

/-- ECDSA verification of a 96-byte signature r ‖ s over a SHA-384 digest, under a 96-byte public key. -/
def verify (pub digest sig : List Byte) : Bool :=
  let x := ofBe (pub.take 48)
  let y := ofBe ((pub.drop 48).take 48)
  let r := ofBe (sig.take 48)
  let s := ofBe ((sig.drop 48).take 48)
  onCurve x y && 0 < r && r < n && 0 < s && s < n &&
    let w := invMod n s
    let z := ofBe digest
    match addPt (smul (z * w % n) g) (smul (r * w % n) (some (x, y))) with
    | none => false
    | some (px, _) => px % n == r

/-- ECDSA signature with per-signature secret k. -/
def sign (d k : Nat) (digest : List Byte) : List Byte :=
  match smul k g with
  | none => zeroBytes 96
  | some (px, _) =>
    let r := px % n
    beBytes 48 r ++ beBytes 48 ((ofBe digest + r * d) * invMod n k % n)

end P384

end Sys2Proof.Machine
end

