-- ==== Sys2Proof/Machine/State.lean ====
section
/-! DEFINITION. The state of the block: every table, queue, counter, memory and pin the spec gives it, as plain data;
its state after reset; the reasons a command can stop. Field docstrings name the file and the rule of spec/. -/
namespace Sys2Proof.Machine

/-- A memory: address and byte, addresses rising, no zero byte listed (an unlisted byte reads 0). -/
abbrev Mem := List Host.Cell

/-- Table 00-2: the three configurations. -/
inductive Part where
  | irz4F | irz4FS | irz2F
deriving DecidableEq, Repr

/-- Table 17-4: STATUS.STATE. -/
inductive UnitState where
  | absent | off | running | draining | fault
deriving DecidableEq, Repr

/-- Tables 17-4 to 17-6: the header of a page, but for the fields that are kept (those are in the register table). -/
structure Hdr where
  st : UnitState := .off
  raw : W := 0#32
  err : BitVec 16 := 0#16
deriving DecidableEq, Repr

/-- R374: a statistics counter with the latch of its pair. -/
structure Ctr where
  value : BitVec 48 := 0#48
  sat : Bool := false
  latchHi : BitVec 16 := 0#16
  latchSat : Bool := false
deriving DecidableEq, Repr

/-! ## Directory -/

/-- Table 03-4. -/
inductive DirState where
  | free | loading | ready | staging | staged | retiring
deriving DecidableEq, Repr

/-- Table 03-1, with the two marks of Table 03-4 that no field shows. -/
structure DirEntry where
  st : DirState := .free
  live : Bool := false
  rankord : Bool := false
  pooled : Bool := false
  circ : BitVec 4 := 0#4
  cpol : BitVec 2 := 0#2
  fmt : BitVec 4 := 0#4
  tenant : BitVec 10 := 0#10
  trained : Bool := false
  pub : Bool := false
  postmark : W := 0#32
  model : BitVec 8 := 0#8
  exp : BitVec 8 := 0#8
  vrank : BitVec 8 := 0#8
  trainJob : BitVec 8 := 0#8
  ranks : BitVec 64 := 0#64
  slotA : BitVec 28 := 0#28
  slotB : BitVec 28 := 0#28
  slotPages : BitVec 24 := 0#24
  lastJob : BitVec 8 := 0#8
  layerMask : BitVec 128 := 0#128
  lastStep : BitVec 64 := 0#64
  pinA : BitVec 16 := 0#16
  pinB : BitVec 16 := 0#16
  pmFloor : W := 0#32
  /-- RANKORD of the idle slot's contents (Table 03-4, Intake complete in STAGING). -/
  idleRankord : Bool := false
  /-- The idle slot (slot A in LOADING) is open to intake (R68, R72). -/
  open_ : Bool := false
deriving DecidableEq, Repr

/-! ## Merge lanes and array commands -/

/-- R105, R107: a ledger entry. -/
structure LedgerEntry where
  tag : W
  cmd : Nat
  delta : Bool
  ph : Nat
deriving DecidableEq, Repr

/-- R105: a pigeonhole. -/
structure Pigeonhole where
  data : BitVec 1024 := 0#1024
  tag : W := 0#32
  filled : Bool := false
  reserved : Bool := false
deriving DecidableEq, Repr

/-- R94: a write in the lane's dual-clock queue. -/
structure CrossWrite where
  ph : Nat
  tag : W
  data : BitVec 1024
deriving DecidableEq, Repr

/-- Table 05-2. -/
inductive MissReason where
  | unfilled | disabled | fault | tagParity | stray | absent
deriving DecidableEq, Repr

structure MissRec where
  tag : W
  reason : MissReason
deriving DecidableEq, Repr

structure Lane where
  st : UnitState := .off
  ledger : Tab LedgerEntry := []
  phs : Tab Pigeonhole := []
  /-- Released pigeonholes whose release has not yet crossed (R109). -/
  returning : List Nat := []
  crossing : List CrossWrite := []
  nextSerial : W := 0#32
  missq : List MissRec := []
  missLog : List MissRec := []
  /-- The record latched by the last MISSQ_LO read (Table 05-6). -/
  latched : Option MissRec := none
  loRead : Bool := false
  ovf : Bool := false
  disSeen : Bool := false
  ldisTag : W := 0#32
  peak : BitVec 11 := 0#11
  /-- ENABLE was written 1 while DRAINING: RUNNING, not OFF, when the drain completes (R115). -/
  reEnable : Bool := false
  /-- The lane has just entered FAULT: the next lookup may be the one that met the error (R118). -/
  metErr : Option (BitVec 64) := none
deriving DecidableEq, Repr

/-- A command's share of one lane (R105, R107): its first serial, its beats, its landing range. -/
structure LaneShare where
  lane : Nat
  tag0 : W
  beats : Nat
  land : Nat
deriving DecidableEq, Repr

inductive CmdStage where
  | ready | granted | issued
deriving DecidableEq, Repr

/-- An array command from submission to its last beat, with the issue record of R112. -/
structure Cmd where
  key : Nat
  arr : ArrayCmd
  step : BitVec 64
  stage : CmdStage := .ready
  id : BitVec 8 := 0#8
  shares : List LaneShare := []
  hold : Nat := 0
  issueAt : BitVec 64 := 0#64
  /-- Held by R108 at least once (ARRAY_HELD). -/
  held : Bool := false
  done : Bool := false
  /-- Lane and tag of its beats that have been merged with a pigeonhole (R97). -/
  merged : List (Nat × W) := []
deriving DecidableEq, Repr

/-! ## Forms and cores -/

/-- A placed form (R21, R22): its descriptor, its core, its charge. -/
structure Form where
  desc : FormDesc
  /-- Logical core number; berth 0 or 1, or none for a whole core. -/
  core : Nat
  berth : Option Bool
  at_ : BitVec 64
  /-- Charged running time in 32nds of a local count (R201). -/
  charged : Nat := 0
  reissued : Bool := false
  /-- Arithmetic cycles held so far (R199). -/
  acs : Nat := 0
  /-- Placeable and not on a core: its scan found none, or it was torn down (R96, R197). -/
  waiting : Bool := false
  /-- An UP or DXA form whose writes have been sent and not all acknowledged (R85, R327). -/
  wrote : Bool := false
  /-- Writes of an UP or DXA form were sent once, before or after a fault (R97). -/
  sent : Bool := false
  /-- A message of the form was dropped: the acknowledgement never comes, and it does not complete (R327). -/
  unacked : Bool := false
  /-- R281: an uncorrectable read fed the form. -/
  uncorr : Bool := false
  /-- Its conversions are in the step's statistics, which a reissue does not change (R49, R50). -/
  counted : Bool := false
  /-- Firmware recorded it against a step (for rows' failure). -/
  job : Option (BitVec 8) := none
deriving DecidableEq, Repr

/-- Table 15-11: REL_CORE.STATE. -/
inductive CoreState where
  | inService | spare | fenced | testing
deriving DecidableEq, Repr

/-- A physical core (R330 to R336). -/
structure CoreRec where
  st : CoreState
  /-- Fence-table epoch, the same in every replica (R331). -/
  epoch : BitVec 8
  /-- The core's own epoch register. -/
  own : BitVec 8
  /-- Local counts of its berth faults and watchdog expiries (R330). -/
  faults : List (BitVec 64) := []
  /-- A dead letter was logged since the last fencing, or the core was never fenced (R332). -/
  deadLogged : Bool := false
deriving DecidableEq, Repr

/-- Table 15-13: a remap entry. -/
structure Remap where
  prow : BitVec 8
  pcol : BitVec 6
  vacant : Bool
deriving DecidableEq, Repr

/-- Table 15-5. -/
structure LogRec where
  cls : BitVec 6
  page : BitVec 9
  inst : BitVec 16
  detail : W
  time : BitVec 64
deriving DecidableEq, Repr

/-! ## Requests, jobs and steps -/

/-- Table 06-4. -/
inductive ReqState where
  | idle | posted | held | prefill | decode | refill | paused | ended
deriving DecidableEq, Repr

/-- A parcel in poste restante (R168): its page, its first granule, its granules, and what has arrived. -/
structure Parcel where
  page : Nat
  granule : Nat
  count : Nat
  /-- A parcel holding only a token record (R169). -/
  tokOnly : Bool := false
  frame : Nat := 0
  /-- Tags of its frame, which a new frame takes when it returns (R155, R168). -/
  full : Bool := false
  mixed : Bool := false
  postmark : W := 0#32
  gen : W := 0#32
  acked : Bool := false
  back : Bool := false
  /-- Bytes read back so far. -/
  got : Nat := 0
deriving DecidableEq, Repr

/-- An end decided and not yet written (R139). -/
structure EndRec where
  reason : BitVec 8
  cause : BitVec 2 := 0#2
  cancelSeen : Bool := false
deriving DecidableEq, Repr

/-- The block's part of a request slot: SLOT_CTRL, SLOT_STATUS, the words of Table 06-3 the block writes, the sequence
header of R152 and the monitor's and admission's marks. The host's record body is in the register table. -/
structure Slot where
  own : Bool := false
  cmd : BitVec 3 := 0#3
  st : ReqState := .idle
  reason : BitVec 8 := 0#8
  cancelSeen : Bool := false
  tallyFull : Bool := false
  late : Bool := false
  rung : BitVec 2 := 0#2
  endCause : BitVec 2 := 0#2
  len : BitVec 22 := 0#22
  delivered : BitVec 22 := 0#22
  pmCarried : W := 0#32
  pages : BitVec 16 := 0#16
  genCarried : W := 0#32
  lastTok : BitVec 24 := 0#24
  chain : BitVec 64 := 0#64
  chained : Nat := 0
  chainOk : Bool := false
  ownAt : BitVec 64 := 0#64
  acceptAt : BitVec 64 := 0#64
  /-- Order of the admission grant (R130). -/
  grant : Nat := 0
  /-- Local count of the last token-bearing delivery (R141). -/
  lastDeliver : BitVec 64 := 0#64
  /-- Floor of the next rung, the run of on-time token-bearing steps, and the rung of the last of them (R212, R213). -/
  floor : BitVec 2 := 0#2
  onTime : Nat := 0
  tokRung : BitVec 2 := 0#2
  /-- It has taken part in a step (R73, R74). -/
  started : Bool := false
  /-- Length to which a refill prefills (R73, R158). -/
  oldLen : BitVec 22 := 0#22
  spilled : Bool := false
  resumed : Bool := false
  /-- Its prefill runs to position oldLen, whose token is LAST_TOK: a refill, or a request paused in DECODE (R73, R171). -/
  contd : Bool := false
  pauseCount : Nat := 0
  parkAt : Option (BitVec 64) := none
  parcels : List Parcel := []
  /-- Its parcels wait for frames: admission has granted it, and none was FREE yet (R171). -/
  frameless : Bool := false
  /-- Stale frames whose pages have new frames: they lose their holder at the boundary (R158, R162). -/
  staleFrames : List Nat := []
  /-- Its prompt, labels and rung table have been asked of the host, and its drafts for the forming step; the reads still due, and
  whether one failed (R381). -/
  inAsked : Bool := false
  draftAsked : Bool := false
  inDue : Nat := 0
  inBad : Bool := false
  /-- A write of its control tables or token records faulted: its rows fail at its next boundary (R272). -/
  memBad : Bool := false
  /-- State the request had when it paused. -/
  pausedFrom : ReqState := .idle
  /-- A RESUME pending (R129, R171). -/
  pendingEnd : Option EndRec := none
  /-- Tests of R214 put off while ADM is not RUNNING (Table 15-6). -/
  admLater : Bool := false
  /-- Its control SRAM entry was lost: the slot returns to IDLE when the request has ended (R328). -/
  lost : Bool := false
  /-- First test of R214 put off until the model's pool is bound and enabled. -/
  fitLater : Bool := false
deriving DecidableEq, Repr

/-- A form of the step that has completed and whose outputs later forms read (R182, R196). -/
inductive Done where
  | norm (sel : Nat)
  | rotary (sel : Nat)
  | score (kvh b0 nb : Nat)
  /-- A run's partial, or the context of a head group. -/
  | value (kvh run : Nat)
  | context (kvh : Nat)
  | resid (sel : Nat)
  | act (expert : Nat)
  | route
  | down (p expert : Nat)
  | up (p expert col0 : Nat)
  | loss
  | bvec (op p expert : Nat)
  | du (p expert : Nat)
  | battn (kvh : Nat)
  /-- A tensor of a sharded layer has been gathered from every rank (R301): 0 context, 1 O output, 2 activation, 3 down output,
  4 logits. -/
  | gathered (kind : Nat)
deriving DecidableEq, Repr

/-- A row of a step's row table (R130, R133). -/
structure Row where
  slot : BitVec 12
  pos : BitVec 22
  tok : BitVec 24
  draws : Bool
  /-- A decode or verification row (R204). -/
  gen : Bool
  rung : BitVec 2
  done : Bool := false
  /-- Layers the row has finished (R262). -/
  layers : Nat := 0
  fails : List (BitVec 8) := []
  /-- Token drawn, probability and whether NaN handling applied (R191, R192). -/
  result : Option (BitVec 24 × W) := none
  /-- Experts chosen and their weights, by layer (R98). -/
  routes : Tab (List (Nat × W)) := []
  /-- Loss of a VALID row (R225). -/
  loss : Option W := none
  /-- The forms that have completed for the row, with their layers (R182, R196). -/
  marks : List (Nat × Done) := []
deriving DecidableEq, Repr

/-- A rank's part of a gathered row (R301): the tensor (as in `Done.gathered`), the expert, the landing address of the full row,
its first element, how many, and their bytes. -/
structure Piece where
  row : Nat
  layer : Nat
  kind : Nat
  expert : Nat
  place : Nat := 0
  first : Nat
  n : Nat
  bytes : List Byte
deriving DecidableEq, Repr

/-- A full row in a collective's landing space (R297, R301): the array pass it is the output of, as landed. -/
structure FullRow where
  pass : Nat
  layer : Nat
  expert : Nat
  row : Nat
  bytes : List Byte
deriving DecidableEq, Repr

/-- A request named by a step (R130, R134). -/
structure Named where
  slot : BitVec 12
  rung : BitVec 2
  forced : Bool
  rows : Nat
  drafts : List (BitVec 24) := []
  /-- Excluded by the repeated checks of R132, with its reason. -/
  excluded : Option (BitVec 8) := none
  /-- Ends at this boundary for want of a frame (R167). -/
  noFrame : Bool := false
  snapPm : W := 0#32
  snapRankord : Bool := true
  due : Option (BitVec 64) := none
  /-- New frames allocated for the step (page, frame). -/
  frames : List (Nat × Nat) := []
deriving DecidableEq, Repr

/-- A snapshot of a directory entry (R70): the entry as it stood at formation. -/
structure Snap where
  adapter : BitVec 16
  entry : DirEntry
deriving DecidableEq, Repr

/-- Table 06-11's SSTATE. -/
inductive StepState where
  | idle | forming | running | closing | voting
deriving DecidableEq, Repr

/-- A tensor saved for the backward pass (R224), by row-table index, layer and tensor number. -/
structure Saved where
  row : Nat
  layer : Nat
  tensor : Nat
  words : List W
deriving DecidableEq, Repr

/-- A BATTN form that has completed: its tile and blocks, and where its output goes (R227). -/
structure BackForm where
  layer : Nat
  kvh : Nat
  slot : Nat
  p0 : Nat
  m : Nat
  b0 : Nat
  nb : Nat
  dst : Nat
deriving DecidableEq, Repr

/-- A segment of a layer that has had a form placed on a slice: adapter, expert, MLP group, vocabulary (R78). -/
structure SegPlace where
  slice : Nat
  layer : Nat
  adapter : Nat
  expert : Nat
  mlp : Bool
  vocab : Bool
deriving DecidableEq, Repr

/-- An UP or DXA form that will never run: the pigeonholes it would fill are settled (R93). -/
structure DeadForm where
  back : Bool
  p : Nat
  layer : Nat
  expert : Nat
  rows : List Nat
  col0 : Nat
  n : Nat
deriving DecidableEq, Repr

/-- A command of the step submitted to the reservation unit: pass (and projection), layer group, expert, rows (R196). -/
structure Submitted where
  pass : Nat
  proj : Nat
  group : Nat
  expert : Nat
  rows : List Nat
deriving DecidableEq, Repr

/-- A step in flight (R26, R70, R130). -/
structure Step where
  num : BitVec 64
  attempt : BitVec 4 := 0#4
  tForm : BitVec 64
  st : StepState := .running
  model : BitVec 8
  gen : W
  /-- The job's share group at formation: a later UPDATE waits for the next formation (R120). -/
  group : Nat := 0
  /-- SCHED_DELTA_CTRL at formation (R103). -/
  dctrl : W := 0#32
  /-- SAMP_ATTN_CTRL at formation (R180). -/
  actrl : W := 0#32
  rows : List Row
  named : List Named
  snaps : List Snap
  coreCycles : BitVec 64 := 0#64
  saved : List Saved := []
  /-- A new step withdrawn by a rollback (R264). -/
  withdrawn : Bool := false
  /-- Ring entries reserved for its records (R136). -/
  ring : Nat := 0
  /-- NaN-row event raised in this step (R192). -/
  nanRow : Bool := false
  /-- UP and DXA forms that will never run (R93). -/
  dead : List DeadForm := []
  /-- Commands submitted so far (R196). -/
  subs : List Submitted := []
  /-- Layer tensors of a sharded model gathered so far, in the order the layers bring them (R301). -/
  gathered : Nat := 0
  /-- This rank's parts of contexts and activations, and the full rows gathered. -/
  pieces : List Piece := []
  full : List FullRow := []
  /-- Segments by slice and layer (R78). -/
  segs : List SegPlace := []
  /-- BATTN forms that have completed (R227). -/
  backs : List BackForm := []
deriving DecidableEq, Repr

/-! ## Training -/

/-- What the block holds of one adapter's update (R232, R233). -/
structure Upd where
  adapter : BitVec 16
  /-- GRAD and END sent. -/
  sent : Bool := false
  endAt : BitVec 64 := 0#64
  nelem : Nat := 0
  /-- Elements written, with their FP32 values. -/
  written : Tab W := []
  /-- none: nothing recorded yet; some true: OK; some false: ERR. -/
  ack : Option Bool := none
  /-- The unit's ACK has come: END is no longer outstanding (R391). -/
  acked : Bool := false
deriving DecidableEq, Repr

structure VoteRec where
  rank : BitVec 10
  nan : Bool
  reasons : BitVec 8
deriving DecidableEq, Repr

structure Decision where
  commit : Bool
  reasons : BitVec 8
deriving DecidableEq, Repr

/-- R229: the counts of one tensor class. -/
structure StatRow where
  fmt : W := 0#32
  converted : W := 0#32
  overflow : W := 0#32
  vanish : W := 0#32
  nan : W := 0#32
deriving DecidableEq, Repr

/-- A gradient piece a GOUT or MPOOL form has left in the activation area: components k, columns n of a factor of this
width, first element e0, stack address of the first (R226, R231). -/
structure GradPiece where
  adapter : BitVec 16
  e0 : Nat
  k : Nat
  width : Nat
  n : Nat
  addr : Nat
deriving DecidableEq, Repr

/-- The train-mode state of a job (R219, R230 to R240, Table 10-9). -/
structure Train where
  phase : BitVec 3 := 0#3
  stuck : Bool := false
  lsExp : BitVec 8 := 0#8
  attempt : BitVec 4 := 0#4
  run : BitVec 8 := 0#8
  last : BitVec 2 := 0#2
  lastNan : Bool := false
  lastAttempt : BitVec 4 := 0#4
  lstep : BitVec 64 := 0#64
  /-- Reason mask of that decision. -/
  lastReasons : BitVec 8 := 0#8
  nanFlag : Bool := false
  linkFail : Bool := false
  uncorrFail : Bool := false
  nvalid : Nat := 0
  nvalidSum : Nat := 0
  updSet : List (BitVec 16) := []
  grads : List GradPiece := []
  /-- Collectives of the attempt's exchange completed (R231), the sums they gave, and whether all are. -/
  exch : Nat := 0
  sums : Tab (List W) := []
  exchDone : Bool := false
  upds : List Upd := []
  myVote : Option VoteRec := none
  voteAt : BitVec 64 := 0#64
  askAt : BitVec 64 := 0#64
  votes : List VoteRec := []
  decided : Option Decision := none
  /-- Counts of the attempt in flight and of the last closed attempt, by class (R229). -/
  stats : Tab StatRow := []
  lastStats : Tab StatRow := []
  ks : W := 0#32
  /-- The requests of the attempt that aborted, which the next attempt of the step names again (R239). -/
  replay : Option (List (BitVec 12)) := none
deriving DecidableEq, Repr

/-- A job context: the host's image and the block's fields (Table 06-1, R120, R136). -/
structure Job where
  st : BitVec 2 := 0#2
  img : List W := []
  next : BitVec 64 := 0#64
  prod : W := 0#32
  cons : W := 0#32
  batchLo : W := 0#32
  batchHi : W := 0#32
  batchCode : BitVec 4 := 0#4
  batchPend : Bool := false
  /-- A GO whose list is being read: its local count, 1 for the header and 2 for the slots, the reads due, and whether one
  failed (R131, R381). -/
  batchAt : BitVec 64 := 0#64
  batchSrc : BitVec 64 := 0#64
  batchStage : Nat := 0
  batchDue : Nat := 0
  batchBad : Bool := false
  /-- Slots named by the pending list (R131). -/
  batch : List (BitVec 12) := []
  /-- A step formation has met a full ring (R136), or an out-of-step record has (R139): RING_WAIT was raised. -/
  ringWait : Bool := false
  outWait : Bool := false
  cur : Option Step := none
  /-- Slots whose out-of-step record is due, in order (R139). -/
  outQ : List (BitVec 12) := []
  /-- First slot to be considered for drafts (R130). -/
  draftFrom : Nat := 0
  /-- Admission grants that the formation records sent so far have told (R301). -/
  grantBase : Nat := 0
  closeAt : BitVec 64 := 0#64
  train : Train := {}
deriving DecidableEq, Repr

/-! ## Context cache -/

/-- R161: a way of the prefix table. -/
structure PrefixWay where
  tag : BitVec 50
  frame : BitVec 20
  first : Bool
  prev : BitVec 20
  owner : BitVec 16
  model : BitVec 8
  adapter : BitVec 16
  postmark : W
  gen : W
  /-- Recency stamp: the larger, the more recent (R161). -/
  stamp : Nat
deriving DecidableEq, Repr

/-! ## Intake -/

/-- Table 11-5. -/
inductive WfState where
  | idle | checking | advancing | stalled | finishing
deriving DecidableEq, Repr

inductive WfOp where
  | load | replace | rollback
deriving DecidableEq, Repr

/-- The wavefront (R259 to R264, Table 11-8). -/
structure Wavefront where
  st : WfState := .idle
  op : WfOp := .load
  rollback : Bool := false
  w : BitVec 8 := 0#8
  model : BitVec 8 := 0#8
  fault : BitVec 4 := 0#4
  transpose : Bool := false
  src : BitVec 64 := 0#64
  /-- Host address of a rollback's part 0, until it has passed its check. -/
  next : BitVec 64 := 0#64
  /-- The last station to write. -/
  stop : Nat := 0
  gen : W := 0#32
  dst : BitVec 28 := 0#28
  units : W := 0#32
  /-- Staging buffers 0 and 1: the station prepared in it, if any. -/
  buf0 : Option Nat := none
  buf1 : Option Nat := none
  /-- Uncorrectable reads seen in the preparation or copy of the station of buffer 0, and of buffer 1 (R263). -/
  memErr : Nat := 0
  memErr1 : Nat := 0
  /-- Reads of the present record that have failed. -/
  missing : Nat := 0
  /-- Host reads answered since the fetch of the present station or part began. -/
  got : Nat := 0
deriving DecidableEq, Repr

/-- A model: its descriptor, generation and areas (R251, R259, R261, Table 11-4). -/
structure Model where
  loaded : Bool := false
  transposed : Bool := false
  gen : W := 0#32
  genPrev : W := 0#32
  desc : List Byte := []
  nshards : BitVec 16 := 1#16
  shard : BitVec 16 := 0#16
  /-- Key/value heads of this device's shard (R300); 0: all. -/
  kvHeads : Nat := 0
  /-- A shard's own rows of each tensor, first and number, by the key of the tensor (R251, R300); a tensor not listed is whole. -/
  ranges : Tab (Nat × Nat) := []
  dst : BitVec 28 := 0#28
  units : W := 0#32
  /-- Base weights by (station, tensor kind, expert) as stored bytes in the layout of R255, and BF16 gains. -/
  gains : Tab (List (BitVec 16)) := []
deriving DecidableEq, Repr

/-- A model entry of R202. -/
structure ModelRes where
  valid : Bool := false
  model : BitVec 8 := 0#8
  used : Nat := 0
deriving DecidableEq, Repr

/-- An adapter intake queued or running (R258). -/
structure AIntake where
  adapter : BitVec 16
  src : BitVec 64
  work : BitVec 28
  workUnits : W
  job : Option (BitVec 8)
  running : Bool := false
  /-- Stopped by RETIRE or DISCARD: it writes nothing more. -/
  stopped : Bool := false
  /-- An uncorrectable read fed it (class 3). -/
  memErr : Bool := false
  /-- Host reads answered since it started. -/
  got : Nat := 0
deriving DecidableEq, Repr

structure AFault where
  adapter : BitVec 16
  reason : BitVec 4
deriving DecidableEq, Repr

/-! ## Memory -/

/-- An uncorrectable-read record (MEM_UCQ, R280). -/
structure UcRec where
  addr : BitVec 40
  cls : BitVec 4
deriving DecidableEq, Repr

/-- A stack controller (R277 to R290). -/
structure Stack where
  retrain : Bool := false
  /-- RETIRE accepted while retraining, or a copy in progress: the pseudo-channel and the copy pointer. -/
  copying : Bool := false
  copyPc : BitVec 6 := 0#6
  copyPtr : BitVec 22 := 0#22
  /-- A retirement accepted while the stack retrains: its copy starts when the training ends (Table 12-5). -/
  copyWait : Bool := false
  fails : Nat := 0
  trainTemp : BitVec 8 := 0#8
  temp : BitVec 8 := 0#8
  trainAt : BitVec 64 := 0#64
  rate : BitVec 2 := 2#2
  ucq : List UcRec := []
  ucqLatch : Option UcRec := none
  loRead : Bool := false
  /-- Distinct uncorrectable addresses recorded, with their pseudo-channel (R282). -/
  seen : List (Nat × Nat) := []
  /-- Block address from which patrol goes on, and local count of its last read (R279). -/
  patrolAt : Nat := 0
  patrolTime : BitVec 64 := 0#64
deriving DecidableEq, Repr

/-! ## Host port -/

inductive HostUse where
  | parcel (slot : BitVec 12) (page : Nat)
  | intake
  | adapter (adapter : BitVec 16)
  /-- Input of the request that took the slot at a local count (R381). -/
  | tenant (slot : BitVec 12) (since : BitVec 64)
  /-- The batch list of a GO at a local count (R131). -/
  | batch (job : BitVec 8) (since : BitVec 64)
  /-- A SEC command: 0 SEC_KCMD, 1 SEC_ACMD, 2 SEC_LCCMD. -/
  | sec (reg : BitVec 2)
  | firmware
deriving DecidableEq, Repr

/-- A direct-window request not yet answered (R388). -/
structure HwReq where
  we : Bool
  priv : Bool
  addr : BitVec 40
  be : BitVec 128
  data : BitVec 1024
deriving DecidableEq, Repr

/-- An outstanding host-port read (R386). -/
structure HostRead where
  use : HostUse
  addr : BitVec 64
  beats : Nat
  got : Nat := 0
  err : Bool := false
  at_ : BitVec 64
deriving DecidableEq, Repr

/-- A host-port read that waits for a tag (R338, R386). -/
structure ReadReq where
  use : HostUse
  addr : BitVec 64
  beats : Nat
deriving DecidableEq, Repr

/-- A host-port write that waits for a tag: its bytes, and the parcel it ends, if it is a parcel's last (R169, R338, R386). -/
structure WriteReq where
  addr : Nat
  data : List Byte
  parcel : Option (BitVec 12 × Nat) := none
  granule : Nat := 0
deriving DecidableEq, Repr

/-- A SEC command that waits for its host read: the address, the reads still due, whether one failed, and the operation of
SEC_LCCMD (R311, R313, R316). -/
structure SecTask where
  addr : BitVec 64
  due : Nat
  bad : Bool := false
  op : BitVec 3 := 0#3
deriving DecidableEq, Repr

/-- An image being read: by a LOAD for one cluster, or by the bring-up loader for both; the bytes to read and those read (R321,
R340, R354). -/
structure FwTask where
  target : Option Bool
  addr : BitVec 64
  need : Nat := 256
  got : Nat := 0
deriving DecidableEq, Repr

/-- An outstanding host-port write, and the parcel it ends, if it is a parcel's last (R169, R386). -/
structure HostWrite where
  parcel : Option (BitVec 12 × Nat) := none
  /-- First granule of that parcel. -/
  granule : Nat := 0
  at_ : BitVec 64
deriving DecidableEq, Repr

/-! ## Links -/

/-- Table 13-1. -/
inductive LinkState where
  | down | training | up | degraded
deriving DecidableEq, Repr

/-- A link port (R291 to R294). -/
structure Port where
  st : LinkState := .down
  laneOk : BitVec 9 := 0#9
  lanes : BitVec 9 := 0#9
  txSeq : BitVec 12 := 0#12
  rxSeq : BitVec 12 := 0#12
  nakSent : Bool := false
  replay : List (BitVec 2336) := []
  /-- Frames queued and not yet sent (R292, R294). -/
  queue : List (BitVec 2336) := []
  /-- Frames taken over from a port that went DOWN: they go before the queue, in SEQ order (R302, R303). -/
  resend : List (BitVec 2336) := []
  ackAt : BitVec 64 := 0#64
  replays : Nat := 0
  /-- Receive buffers of the far side in use by COLL and P2P frames (R294). -/
  credit : Nat := 0
  /-- Our receive buffers freed since the last CREDIT sent. -/
  freed : BitVec 12 := 0#12
  /-- The last IDLE or NAK frame sent: neither takes a SEQ nor a place in the replay buffer (R293, R294). -/
  bare : Option (BitVec 2336) := none
deriving DecidableEq, Repr

/-- A CTRL message received (R302). -/
inductive CtrlMsg where
  | vote (v : VoteRec)
  | decision (d : Decision)
  | ask (rank : BitVec 10)
deriving DecidableEq, Repr

structure CtrlIn where
  /-- The port it came by; it takes one of that port's 16 receive buffers until it is acted on (R294). -/
  port : BitVec 3
  job : BitVec 8
  step : W
  attempt : BitVec 4
  src : BitVec 10
  msg : CtrlMsg
deriving DecidableEq, Repr

/-- Table 13-2: OP. -/
inductive CollOp where
  | allreduceF32 | allreduceI32 | sumI64 | reduceScatterF32 | allgather | p2p | bcast
deriving DecidableEq, Repr

/-- A collective's landing space on this device (R297, R298). -/
structure Coll where
  job : BitVec 8
  step : W
  attempt : BitVec 4
  coll : BitVec 8
  op : CollOp
  /-- Started locally, with this device's contribution. -/
  started : Bool := false
  startAt : BitVec 64 := 0#64
  mine : List Byte := []
  /-- A P2P of this device's: it sends `mine`, or it receives as many bytes. -/
  sends : Bool := false
  /-- The other rank of a P2P. -/
  peer : BitVec 10 := 0#10
  /-- Payloads landed: sending device, CHUNK, valid bytes. A duplicate lands in its original's place. -/
  landed : List (Nat × Nat × List Byte) := []
  /-- The results of the elements this rank owns have been sent (R298). -/
  sentRes : Bool := false
  failed : Bool := false
  result : Option (List Byte) := none
deriving DecidableEq, Repr

/-- An update-port message from the block (Table 18-6). -/
structure UpdMsg where
  hdr : BitVec 256
  data : BitVec 2048
deriving DecidableEq, Repr

/-! ## Tide -/

/-- Table 09-2. -/
structure TideSlot where
  dur : W := 0#32
  job : BitVec 8 := 0#8
  valid : Bool := false
  mask : BitVec 20 := 0#20
deriving DecidableEq, Repr

/-- The tide slot in progress (R207 to R209). -/
structure TideCur where
  slot : BitVec 12 := 0#12
  fields : TideSlot := {}
  start : BitVec 64 := 0#64
  /-- Local counts deducted from the window (R209). -/
  deduct : Nat := 0
  windowOpen : Bool := false
deriving DecidableEq, Repr

/-! ## Power, clusters, keys, retained settings -/

/-- The power state of a slice (R348 to R352). -/
structure SlicePwr where
  opp : BitVec 2 := 3#2
  duty : BitVec 5 := 16#5
  droop : Bool := false
  /-- The droop input is asserted. -/
  droopIn : Bool := false
  tcrit : Bool := false
  warn : Bool := false
  vwait : Bool := false
  vreq : BitVec 2 := 3#2
  vack : Bool := false
  /-- The operating point whose voltage the last rise of irz_pwr_vack acknowledged (R396). -/
  vlevel : BitVec 2 := 3#2
  /-- Point towards which the ACLK slews, while it slews. -/
  slew : Option (BitVec 2) := none
  lowRun : Nat := 0
  highRun : Nat := 0
  est : BitVec 10 := 0#10
  temp : BitVec 8 := 0#8
deriving DecidableEq, Repr

/-- A control cluster (R321, R340). -/
structure Cluster where
  loaded : Bool := false
  svn : BitVec 7 := 0#7
  digest : BitVec 384 := 0#384
  fault : Bool := false
deriving DecidableEq, Repr

/-- The seven derived keys of a slot and its owner word (R314, R315). -/
structure KeySlot where
  owner : W
  xtsA : BitVec 256
  xtsB : BitVec 256
  hctr : BitVec 256
  dcmc : BitVec 256
  mask : BitVec 256
  kcv : BitVec 256
  prst : BitVec 256
deriving DecidableEq, Repr

/-- A life-cycle transition under way (R309, R394): the bits still to burn and the attempts on the first. -/
structure FuseTask where
  op : BitVec 3
  bits : List (BitVec 9)
  tries : Nat := 0
deriving DecidableEq, Repr

/-- The retained-settings store and its export (R357, R358). -/
structure Retained where
  /-- The image held, header first; empty: none. -/
  image : List W := []
  seq : BitVec 64 := 0#64
  dirty : Bool := false
  full : Bool := false
  exporting : Bool := false
  snapshot : List W := []
  /-- A kept field changed since the image was written. -/
  stale : Bool := false
  changeAt : BitVec 64 := 0#64
  restore : BitVec 2 := 0#2
  ecc : Bool := false
deriving DecidableEq, Repr

structure Beacon where
  count : BitVec 24 := 0#24
  gen : BitVec 6 := 0#6
deriving DecidableEq, Repr

/-- The identity and import key pairs (R312). -/
structure Ident where
  dIdent : BitVec 384
  dImport : BitVec 384
  idPub : BitVec 768
  impPub : BitVec 768
deriving DecidableEq, Repr

/-- A tag set of staged factor bytes (R78). -/
structure StagedKey where
  slice : Nat
  adapter : BitVec 16
  slotB : Bool
  layer : BitVec 7
  expert : BitVec 8
  proj : Nat
  facB : Bool
  base : Nat
  bytes : Nat
  /-- An uncorrectable read brought some of the bytes (R281, class 2). -/
  unc : Bool := false
deriving DecidableEq, Repr

/-- A reserved landing range (R107, R109). -/
structure LandRange where
  addr : Nat
  len : Nat
  job : BitVec 8
  step : BitVec 64
deriving DecidableEq, Repr

/-- The state of the block. -/
structure State where
  /-- model's own: the commands waiting, first in, first out. -/
  pending : List Instr := []
  /-- 00_scope.md R2: the configuration. -/
  part : Part := .irz4F
  /-- 18_ports.md R393: the fuse values (Table 18-9). -/
  fuses : BitVec 512 := 0#512
  /-- 14_security.md R309: the life-cycle transition under way. -/
  fuseTask : Option FuseTask := none
  /-- 14_security.md R306: LC[4:0] as read at the last cold reset. -/
  lc : BitVec 5 := 0#5
  /-- 14_security.md R321: FW_MIN as read at the last cold reset. -/
  fwMin : BitVec 7 := 0#7
  /-- 14_security.md R310: erasure running. -/
  erasing : Bool := false
  /-- 14_security.md R310: ERASE_PCT. -/
  erasePct : BitVec 7 := 0#7
  /-- 14_security.md R312: the identity and import key pairs. -/
  ident : Option Ident := none
  /-- 14_security.md R314: the 1,024 key slots. -/
  keys : Tab KeySlot := []
  /-- 14_security.md R311: SEC_NONCE. -/
  nonce : BitVec 384 := 0#384
  /-- 16_clocks_power_reset.md R347: the local count. -/
  lcount : BitVec 64 := 0#64
  /-- 16_clocks_power_reset.md R354: RST_BOOT.PHASE. -/
  phase : BitVec 4 := 1#4
  /-- 18_ports.md R396: irz_ready. -/
  ready : Bool := false
  /-- 17_registers.md R370: STATUS.STATE, EVT_RAW and ERR_COUNT of each page, by page number. -/
  hdrs : Tab Hdr := []
  /-- 17_registers.md R365: the stored register fields, by privileged byte address; an unlisted register holds its hard default. -/
  regs : Tab W := []
  /-- 17_registers.md R374: the statistics counters, by the address of their LO half. -/
  ctrs : Tab Ctr := []
  /-- 17_registers.md R375: high halves latched by LO reads of 64-bit counters, by the address of the LO half. -/
  latches : Tab W := []
  /-- 09_scheduling.md R199: SCHED_CAP. -/
  cap : BitVec 64 := 0#64
  /-- 09_scheduling.md R199: SCHED_USEDg. -/
  used : Tab (BitVec 64) := []
  /-- 09_scheduling.md R197: the job of each group last served. -/
  served : Tab Nat := []
  /-- 09_scheduling.md R199: local count at which the accounting period began. -/
  periodAt : BitVec 64 := 0#64
  /-- 18_ports.md R385: irz_reg_rdata of the last completed access. -/
  rdata : W := 0#32
  /-- 03_adapter_directory.md R58: the directory entries. -/
  dir : Tab DirEntry := []
  /-- 06_steps.md R120: the job contexts. -/
  jobs : Tab Job := []
  /-- 06_steps.md R127: the request slots. -/
  slots : Tab Slot := []
  /-- 09_scheduling.md R215: grants made so far, which order stage 3 of R130. -/
  grants : Nat := 0
  /-- 05_merge_lanes.md R107: the merge lanes. -/
  lanes : Tab Lane := []
  /-- 05_merge_lanes.md R108: array commands in grant order. -/
  cmds : List Cmd := []
  /-- 18_ports.md R390: identities of issued commands of closed steps, whose irz_acmd_done has not come. -/
  late : List (BitVec 8) := []
  /-- model's own: commands submitted so far. -/
  cmdCount : Nat := 0
  /-- 01_architecture.md R22: the forms placed, by form number. -/
  forms : Tab Form := []
  /-- model's own: forms placed so far. -/
  formCount : Nat := 0
  /-- 15_reliability.md R331: the physical cores that differ from their default. -/
  cores : Tab CoreRec := []
  /-- 15_reliability.md R334: the remap entries that differ from the identity, by logical core number. -/
  remap : Tab Remap := []
  /-- 16_clocks_power_reset.md R357: slice-array resets of each slice, modulo 256 (the base epoch). -/
  baseEpoch : Tab (BitVec 8) := []
  /-- 15_reliability.md R334: logical numbers whose core was fenced and that await a binding. -/
  unbound : List Nat := []
  /-- 15_reliability.md R329: the error log. -/
  log : List LogRec := []
  /-- 15_reliability.md R329: the record latched by the last REL_LOG0 read. -/
  logLatch : Option LogRec := none
  /-- 15_reliability.md R329: REL_LOG0 was read and REL_LOG3 has not been since. -/
  logRead : Bool := false
  /-- 15_reliability.md R329: REL_STATUS.LOG_OVF. -/
  logOvf : Bool := false
  /-- 01_architecture.md R24: the landing buffers' bytes (bits [26:25] of an address select the slice). -/
  landing : Mem := []
  /-- 05_merge_lanes.md R107: landing ranges reserved. -/
  landUse : List LandRange := []
  /-- 03_adapter_directory.md R78: the layer staging caches' bytes, 96 MiB a slice. -/
  staging : Mem := []
  /-- 03_adapter_directory.md R78: what the staging caches hold. -/
  stagedKeys : List StagedKey := []
  /-- 12_memory.md R269: stored bytes of the stacks, by block address. -/
  mem : Mem := []
  /-- 12_memory.md R280: 32-byte words that read uncorrectable until written, by address ÷ 32. -/
  uncorr : List Nat := []
  /-- 12_memory.md R277: the stack controllers. -/
  stk : Tab Stack := []
  /-- 12_memory.md R282: local count at which the MEM_PCERRj.CORR counts were last halved. -/
  halvedAt : BitVec 64 := 0#64
  /-- 12_memory.md R281: frames quarantined until a cold reset. -/
  quarantine : List Nat := []
  /-- 07_context_cache.md R159: the chain-hash key. -/
  sipKey : BitVec 128 := 0#128
  /-- 07_context_cache.md R161: the prefix table, by 8 × set + way. -/
  prefixes : Tab PrefixWay := []
  /-- 07_context_cache.md R161: recency stamps given so far. -/
  stamps : Nat := 0
  /-- 07_context_cache.md R166: CACHE_EVICT_PTR. -/
  evictPtr : BitVec 14 := 0#14
  /-- 07_context_cache.md R154: the translation caches, by 2^27 × slice + 2^15 × slot + page. -/
  tcache : Tab (BitVec 20) := []
  /-- 07_context_cache.md R168: granules of poste restante in use: first granule and count. -/
  granules : List (Nat × Nat) := []
  /-- 07_context_cache.md R170: parcels in transit of requests that have ended, by slot. -/
  orphans : List (Nat × Parcel) := []
  /-- 12_memory.md R281: granules that count as in use until a cold reset. -/
  lostGranules : List Nat := []
  /-- 09_scheduling.md R206: the tide slots that are not all zero. -/
  tide : Tab TideSlot := []
  /-- 09_scheduling.md R207: the tide slot in progress. -/
  tideCur : TideCur := {}
  /-- 09_scheduling.md R209: TIDE_DEBT of each job. -/
  debt : Tab Nat := []
  /-- 09_scheduling.md R209: window ends at which forms of a job were still running: the job and the end of each. -/
  overruns : List (Nat × BitVec 64) := []
  /-- 09_scheduling.md R202: the two model entries. -/
  modelRes : List ModelRes := [{}, {}]
  /-- 11_weight_intake.md R259: the models. -/
  models : Tab Model := []
  /-- 11_weight_intake.md R260: the wavefront. -/
  wf : Wavefront := {}
  /-- 11_weight_intake.md R258: adapter intakes queued and running, in issue order. -/
  intakes : List AIntake := []
  /-- 11_weight_intake.md R266: INTAKE_AFAULTQ. -/
  afaultq : List AFault := []
  /-- 11_weight_intake.md R266: the record latched by the last AFAULTQ_LO read. -/
  afaultLatch : Option AFault := none
  /-- 11_weight_intake.md R266: AFAULTQ_LO was read and HI has not been since. -/
  afaultRead : Bool := false
  /-- 10_training.md R243: POOL_CFG and POOL_SEATj of the circulars, by 65 × circular + k (Table 16-5). -/
  circ : Tab W := []
  /-- 13_links.md R292: the link ports. -/
  ports : Tab Port := []
  /-- 13_links.md R295: the rank tables, by 1,024 × job + rank: VALID in bit 10, the device in bits 9:0. -/
  ranks : Tab (BitVec 11) := []
  /-- 13_links.md R297: the collectives with landing space. -/
  colls : List Coll := []
  /-- 13_links.md R302: CTRL messages received and not yet acted on. -/
  ctrlIn : List CtrlIn := []
  /-- 18_ports.md R391: messages sent on the update port. -/
  updOut : List UpdMsg := []
  /-- 18_ports.md R386: host-port reads outstanding, by tag. -/
  hostReads : Tab HostRead := []
  /-- 18_ports.md R386: host-port writes outstanding, by tag. -/
  hostWrites : Tab HostWrite := []
  /-- 15_reliability.md R338: host-port reads that wait for a tag or for HOST, in order. -/
  readQ : List ReadReq := []
  /-- 15_reliability.md R338: host-port writes that wait for a tag or for HOST, in order. -/
  writeQ : List WriteReq := []
  /-- 14_security.md R316: SEC commands that wait for their host read, by register. -/
  secTasks : Tab SecTask := []
  /-- 15_reliability.md R340: the firmware image being read. -/
  fwTask : Option FwTask := none
  /-- model's own: host memory as the host port presents it. -/
  host : Mem := []
  /-- 18_ports.md R388: the last direct-window response (data and irz_hw_stat). -/
  hwData : BitVec 1024 := 0#1024
  /-- 18_ports.md R388: irz_hw_stat of the last direct-window response. -/
  hwStat : BitVec 2 := 0#2
  /-- 18_ports.md R388: direct-window requests that wait for a stack's training, in request order. -/
  hwQ : List HwReq := []
  /-- 16_clocks_power_reset.md R348: the slices' power state. -/
  pwr : Tab SlicePwr := []
  /-- 16_clocks_power_reset.md R349: local count since which a domain has held no form. -/
  domIdle : Tab (BitVec 64) := []
  /-- 16_clocks_power_reset.md R349: PWR_GATED. -/
  gated : BitVec 20 := 0#20
  /-- 16_clocks_power_reset.md R346: PWR_CLKMON. -/
  clkmon : BitVec 10 := 0#10
  /-- 16_clocks_power_reset.md R346: stacks whose MCLK has failed. -/
  mclkFail : BitVec 16 := 0#16
  /-- 16_clocks_power_reset.md R346: ports whose LCLK has failed. -/
  lclkFail : BitVec 8 := 0#8
  /-- 17_registers.md R377: the control clusters 0 and 1. -/
  cluster0 : Cluster := {}
  /-- 17_registers.md R377: cluster 1. -/
  cluster1 : Cluster := {}
  /-- 17_registers.md R377: CTL_STATUS.DUTY. -/
  duty : BitVec 8 := 0xF0#8
  /-- 17_registers.md R378: CTL_STATUS.TABLES_BAD. -/
  tablesBad : Bool := true
  /-- 17_registers.md R378: CTL_TABLES_MIN. -/
  tablesMin : BitVec 28 := 0#28
  /-- 16_clocks_power_reset.md R357: the retained-settings store. -/
  ret : Retained := {}
  /-- 16_clocks_power_reset.md R361: RST_CAUSE. -/
  cause : BitVec 3 := 0#3
  /-- model's own: the integrator's store, the last image committed (R358, R395). -/
  store : Option (List W) := none
  /-- 17_registers.md R382: the beacons. -/
  beacons : Tab Beacon := []
  /-- 17_registers.md R379: the array declaration as sampled at the last cold reset. -/
  decl : ArrayDecl := ⟨0#13, 0#13, 0#2, false, false, false, 0#4, 0#4, 0#8, 0#16⟩
  /-- model's own: the next free value. -/
  fresh : Nat := 0
deriving DecidableEq, Repr

/-- Reasons a command stops with a fault. No command of this model raises one: the block has no stop (safe). -/
inductive Fault where
  /-- Raised by nothing: kept so that the type has a name for it. -/
  | none_
deriving DecidableEq, Repr

/-- Reasons a command is refused. -/
inductive Refusal where
  /-- Raised by exec for a command whose meaning is not written (safe). -/
  | notModelled (mnemonic : String)
deriving DecidableEq, Repr

/-- The block right after power-on reset: every table empty, every register at its hard default, bring-up phase 1. -/
def State.reset : State := {}

end Sys2Proof.Machine
end

