-- ==== Sys2Proof/Machine/Ops.lean ====
section
/-! DEFINITION. Named operations over tables, memories, registers, counters and events. -/
namespace Sys2Proof.Machine

/-! ## Tables -/

/-- The value at a key, if listed. -/
def tget? {α : Type} : Tab α → Nat → Option α
  | [], _ => none
  | (k, v) :: t, n => if k = n then some v else tget? t n

/-- The value at a key, or the table's default. -/
def tget {α : Type} (d : α) (t : Tab α) (n : Nat) : α := (tget? t n).getD d

/-- The table with a key's value set (keys stay rising). -/
def tput {α : Type} : Tab α → Nat → α → Tab α
  | [], n, v => [(n, v)]
  | (k, w) :: t, n, v =>
    if n < k then (n, v) :: (k, w) :: t
    else if n = k then (n, v) :: t
    else (k, w) :: tput t n v

/-- The table without a key. -/
def tdel {α : Type} (t : Tab α) (n : Nat) : Tab α := t.filter fun (k, _) => k != n

/-! ## Memories -/

/-- The canonical form of a memory: addresses strictly rising, no zero byte listed. -/
def Memory.wf : Mem → Bool
  | [] => true
  | [(_, b)] => b != 0#8
  | (a, b) :: (a', b') :: t => b != 0#8 && decide (a < a') && Memory.wf ((a', b') :: t)

/-- One byte; an unlisted byte reads 0 (DESIGN CHOICE, log 1). -/
def mget : Mem → Nat → Byte
  | [], _ => 0#8
  | (k, v) :: t, n => if n < k then 0#8 else if k = n then v else mget t n

/-- The memory with one byte set. -/
def mset : Mem → Nat → Byte → Mem
  | [], n, v => if v = 0#8 then [] else [(n, v)]
  | (k, w) :: t, n, v =>
    if n < k then (if v = 0#8 then (k, w) :: t else (n, v) :: (k, w) :: t)
    else if n = k then (if v = 0#8 then t else (n, v) :: t)
    else (k, w) :: mset t n v

/-- n bytes from an address on. -/
def mread (m : Mem) (a n : Nat) : List Byte := (List.range n).map fun i => mget m (a + i)

/-- Bytes written from an address on. -/
def mwrite : Mem → Nat → List Byte → Mem
  | m, _, [] => m
  | m, a, b :: bs => mwrite (mset m a b) (a + 1) bs

/-- n zero bytes from an address on. -/
def mclear (m : Mem) (a n : Nat) : Mem := m.filter fun (k, _) => !(a ≤ k && k < a + n)

/-- A little-endian number of n bytes. -/
def mnum (m : Mem) (a n : Nat) : Nat := ofLe (mread m a n)

def mword (m : Mem) (a : Nat) : W := BitVec.ofNat 32 (mnum m a 4)

/-! ## Bits -/

/-- Bits [hi:lo] of a word, as a number. -/
def bitsOf {n : Nat} (w : BitVec n) (hi lo : Nat) : Nat := w.toNat / 2 ^ lo % 2 ^ (hi + 1 - lo)

def bitOf {n : Nat} (w : BitVec n) (i : Nat) : Bool := w.getLsbD i

/-- The word with the bits of a mask taken from another. -/
def mergeBits {n : Nat} (mask old new : BitVec n) : BitVec n := (old &&& ~~~mask) ||| (new &&& mask)

/-- The word with a field at bit lo of the given width set. -/
def setField {n : Nat} (w : BitVec n) (lo width v : Nat) : BitVec n :=
  mergeBits (BitVec.ofNat n ((2 ^ width - 1) * 2 ^ lo)) w (BitVec.ofNat n (v % 2 ^ width * 2 ^ lo))

def b2n (b : Bool) : Nat := if b then 1 else 0

/-- a ÷ b rounded up. -/
def ceilDiv (a b : Nat) : Nat := (a + b - 1) / b

/-- R9: a is later than b. -/
def laterThan {n : Nat} (a b : BitVec n) : Bool :=
  let d := (a - b).toNat
  1 ≤ d && d ≤ 2 ^ (n - 1) - 1

/-- R9: a is earlier than b. -/
def earlierThan {n : Nat} (a b : BitVec n) : Bool :=
  let d := (a - b).toNat
  2 ^ (n - 1) + 1 ≤ d

/-! ## Configuration (Table 00-2) -/

def Part.slices : Part → Nat
  | .irz2F => 2
  | _ => 4

def Part.nStacks (p : Part) : Nat := 4 * p.slices
def Part.nLanes (p : Part) : Nat := 16 * p.slices
def Part.nPorts (p : Part) : Nat := 2 * p.slices
def Part.nCores (p : Part) : Nat := 6400 * p.slices
def Part.nPhys (p : Part) : Nat := 6560 * p.slices
def Part.nCols (p : Part) : Nat := 40 * p.slices
def Part.hasTrain : Part → Bool
  | .irz4FS => false
  | _ => true

/-- TOP_ID.PART (Table 17-9). -/
def Part.number : Part → W
  | .irz4F => 0x4F410001#32
  | .irz4FS => 0x4F410002#32
  | .irz2F => 0x4F410003#32

/-- CONFIG (Tables 14-4 and 17-9). -/
def Part.config : Part → Nat
  | .irz4F => 1
  | .irz4FS => 2
  | .irz2F => 3

/-! ## Pages (Table 17-1) -/

def pgTop : Nat := 0x000
def pgPwr : Nat := 0x001
def pgRst : Nat := 0x002
def pgSec : Nat := 0x003
def pgRel : Nat := 0x004
def pgCtl : Nat := 0x005
def pgSched : Nat := 0x006
def pgTide : Nat := 0x007
def pgAdm : Nat := 0x008
def pgDir : Nat := 0x009
def pgIntake : Nat := 0x00A
def pgStep : Nat := 0x00B
def pgCache : Nat := 0x00C
def pgSamp : Nat := 0x00D
def pgTrain : Nat := 0x00E
def pgPool : Nat := 0x00F
def pgArray : Nat := 0x010
def pgHost : Nat := 0x011
def pgSlice (i : Nat) : Nat := 0x020 + i
def pgMem (i : Nat) : Nat := 0x030 + i
def pgLink (i : Nat) : Nat := 0x040 + i
def pgMerge (lane : Nat) : Nat := 0x050 + lane / 4

inductive PageKind where
  | top | pwr | rst | sec | rel | ctl | sched | tide | adm | dir | intake | step | cache | samp | train | pool
  | array | host | slice | mem | link | merge | beacon | slot
deriving DecidableEq, Repr

/-- The kind of an assigned page (Table 17-1). -/
def pageKind (p : Nat) : Option PageKind :=
  if p < 0x012 then
    [PageKind.top, .pwr, .rst, .sec, .rel, .ctl, .sched, .tide, .adm, .dir, .intake, .step, .cache, .samp, .train,
      .pool, .array, .host][p]?
  else if 0x020 ≤ p ∧ p < 0x024 then some .slice
  else if 0x030 ≤ p ∧ p < 0x040 then some .mem
  else if 0x040 ≤ p ∧ p < 0x048 then some .link
  else if 0x050 ≤ p ∧ p < 0x060 then some .merge
  else if 0x060 ≤ p ∧ p < 0x070 then some .beacon
  else if 0x100 ≤ p ∧ p < 0x200 then some .slot
  else none

/-- An assigned page's unit is present in the configuration (Table 17-1, R3). -/
def pagePresent (part : Part) (p : Nat) : Bool :=
  match pageKind p with
  | none => false
  | some .train => part.hasTrain
  | some .pool => part.hasTrain
  | some .slice => p - 0x020 < part.slices
  | some .mem => p - 0x030 < part.nStacks
  | some .link => p - 0x040 < part.nPorts
  | some .merge => p - 0x050 < 4 * part.slices
  | some _ => true

/-- The page carries the common header (R369). -/
def pageHeader (p : Nat) : Bool :=
  match pageKind p with
  | none => false
  | some .beacon => false
  | some .slot => false
  | some _ => true

/-- Privileged byte address of an offset of a page (R362). -/
def regAt (page off : Nat) : Nat := 0x1000 * page + off

/-! ## Headers, events and counters -/

/-- The state of a page's unit before bring-up has set it: TOP, PWR, RST and SEC run from phase 1 (Table 17-4). -/
def hdrDefault (page : Nat) : Hdr := { st := if page < 4 then .running else .off }

def State.hdr (s : State) (page : Nat) : Hdr := tget (hdrDefault page) s.hdrs page

def State.setHdr (s : State) (page : Nat) (h : Hdr) : State := { s with hdrs := tput s.hdrs page h }

/-- A unit's STATUS.STATE (R3: ABSENT where the configuration lacks it). -/
def State.unit (s : State) (page : Nat) : UnitState :=
  if pagePresent s.part page then (s.hdr page).st else .absent

def State.running (s : State) (page : Nat) : Bool := s.unit page == .running

def State.setUnit (s : State) (page : Nat) (u : UnitState) : State :=
  s.setHdr page { s.hdr page with st := u }

/-- An event of a page occurs (R373). -/
def State.raise (s : State) (page bit : Nat) : State :=
  s.setHdr page { s.hdr page with raw := (s.hdr page).raw ||| BitVec.ofNat 32 (2 ^ bit) }

/-- ERR_COUNT advances; it sticks at 0xFFFF (Table 17-6). -/
def State.errInc (s : State) (page : Nat) : State :=
  let h := s.hdr page
  s.setHdr page { h with err := if h.err = 0xFFFF#16 then h.err else h.err + 1#16 }

def State.ctr (s : State) (addr : Nat) : Ctr := tget {} s.ctrs addr

/-- A stored register without its hard default: 0 where nothing is stored. -/
def State.rawReg (s : State) (addr : Nat) : W := tget 0#32 s.regs addr

/-- A statistics counter advances by n (R374): at all ones it stays, sets SAT, records itself in TOP_SAT and raises SAT once. -/
def State.count (s : State) (addr n : Nat) : State :=
  let c := s.ctr addr
  if c.sat then s
  else
    let v := c.value.toNat + n
    if v < 2 ^ 48 - 1 then { s with ctrs := tput s.ctrs addr { c with value := BitVec.ofNat 48 v } }
    else
      let s := { s with
        ctrs := tput s.ctrs addr { c with value := BitVec.allOnes 48, sat := true }
        regs := tput s.regs (regAt pgTop 0x050)
          (BitVec.ofNat 32 (addr / 0x1000 + addr % 0x1000 / 4 * 2 ^ 9 + 2 ^ 31)) }
      s.raise pgTop 0

/-- One more in the counter of a page at an offset. -/
def State.inc (s : State) (page off : Nat) : State := s.count (regAt page off) 1

/-- A log record is queued, or dropped when the log holds 1,024 (R329). -/
def State.logRec (s : State) (cls page inst : Nat) (detail : W) : State :=
  if s.log.length < 1024 then
    let r : LogRec := { cls := BitVec.ofNat 6 cls, page := BitVec.ofNat 9 page, inst := BitVec.ofNat 16 inst,
                        detail := detail, time := s.lcount }
    ({ s with log := s.log ++ [r] }).raise pgRel 0
  else (({ s with logOvf := true }).inc pgRel 0x238).raise pgRel 1

/-- The clock of bit b of PWR_CLKMON has not failed: a failed clock's units stop (R346). -/
def State.clkUp (s : State) (b : Nat) : Bool := !s.clkmon.getLsbD b

/-- The life-cycle state decoded from LC (Table 14-1). -/
inductive LifeState where
  | blank | unsealed | sealed | returned | void
deriving DecidableEq, Repr

def lifeOf (lc : BitVec 5) : LifeState :=
  if lc = 0b00000#5 then .blank
  else if lc = 0b00001#5 then .unsealed
  else if lc = 0b00011#5 then .sealed
  else if lc = 0b00111#5 then .sealed
  else if lc = 0b01111#5 then .returned
  else .void

def LifeState.code : LifeState → Nat
  | .blank => 0
  | .unsealed => 1
  | .sealed => 2
  | .returned => 3
  | .void => 4

def State.life (s : State) : LifeState := lifeOf s.lc

/-- What the test and debug port takes (Table 14-2, R397): BYPASS alone, every other opcode selecting it; the fuse-programming
instruction; or the private instructions, which reach every store, or all but the key slots, which read as zero. -/
inductive TestPort where
  | bypass | fuses | stores | storesButKeys
deriving DecidableEq, Repr

/-- The life-cycle state opens or closes the test port (R397). -/
def State.testPort (s : State) : TestPort :=
  match s.life with
  | .blank => .fuses
  | .unsealed => .stores
  | .returned => .storesButKeys
  | .sealed | .void => .bypass

/-- SEC_LC.RET_PEND (Table 14-1). -/
def State.retPend (s : State) : Bool := s.lc == 0b00111#5

/-- The next free value's number, taken. -/
def State.tick (s : State) : State := { s with fresh := s.fresh + 1 }

/-- A log record of a class whose DETAIL the spec gives no meaning: a free value (R329, log 2). -/
def State.logOpen (s : State) (cls page inst : Nat) : State :=
  (s.logRec cls page inst (Config.freeWord s.fresh)).tick

end Sys2Proof.Machine
end

