-- ==== Sys2Proof/Machine/RegMap.lean ====
section
/-! DEFINITION. The map of the stored register fields: for each, what a write changes, its hard default, what is kept
(Tables 03-7 to 17-14 and the register lists of the chapters). -/
namespace Sys2Proof.Machine

/-- A stored register: writable bits, bits cleared by writing 1, hard default, kept bits. -/
structure RegInfo where
  rw : W
  hard : W := 0#32
  kept : W := 0#32
  w1c : W := 0#32
deriving DecidableEq, Repr

/-- Registers off, off + stride, …: n of them. -/
structure RegRow where
  off : Nat
  n : Nat := 1
  stride : Nat := 4
  info : RegInfo
deriving DecidableEq, Repr

def w32 : W := 0xFFFFFFFF#32

/-- A register whose writable bits are all kept. -/
def kept (rw hard : W) : RegInfo := { rw := rw, hard := hard, kept := rw }
def plain (rw : W) : RegInfo := { rw := rw }

def rowsPwr : List RegRow := [
  ⟨0x040, 1, 4, { rw := 0x7FF#32, hard := 1200#32 }⟩,
  ⟨0x044, 1, 4, kept 0x3#32 0#32⟩,
  ⟨0x060, 1, 4, kept 0xFFFF#32 0x695F#32⟩,
  ⟨0x068, 1, 4, kept 0x1FFFF#32 0x103E8#32⟩]

def rowsTop : List RegRow := [
  ⟨0x050, 1, 4, { rw := 0#32, w1c := 0x80000000#32 }⟩,
  ⟨0x054, 1, 4, { rw := 0#32, w1c := 0x80000000#32 }⟩]

def rowsRst : List RegRow := [
  ⟨0x040, 1, 4, plain 0x7FF7#32⟩,
  ⟨0x04C, 1, 4, kept 0x1#32 1#32⟩,
  ⟨0x050, 1, 4, kept w32 1000000#32⟩]

def rowsSec : List RegRow := [
  ⟨0x044, 1, 4, plain 0x3#32⟩,
  ⟨0x048, 1, 4, plain 0x3FF#32⟩,
  ⟨0x050, 2, 4, plain w32⟩,
  ⟨0x058, 1, 4, plain 0x3FF#32⟩,
  ⟨0x05C, 1, 4, plain 0x7#32⟩]

def rowsRel : List RegRow := [
  ⟨0x040, 1, 4, plain 0x1FFFF#32⟩,
  ⟨0x044, 1, 4, kept 0xFFF3#32 0x1041#32⟩,
  ⟨0x048, 1, 4, kept w32 100000000#32⟩,
  ⟨0x060, 1, 4, plain 0x7FFF#32⟩]

def rowsCtl : List RegRow := [
  ⟨0x040, 1, 4, plain 0x7#32⟩,
  ⟨0x048, 2, 4, kept w32 0#32⟩,
  ⟨0x058, 2, 4, kept 0x0FFFFFFF#32 0#32⟩]

def rowsSched : List RegRow := [
  ⟨0x040, 1, 4, kept 0x17F#32 16#32⟩,
  ⟨0x044, 1, 4, kept w32 16777216#32⟩,
  ⟨0x048, 1, 4, kept 0x33F#32 32#32⟩,
  ⟨0x04C, 1, 4, { rw := 0#32, hard := 32#32 }⟩,
  ⟨0x058, 1, 4, kept 0x1FFFF#32 100000#32⟩,
  ⟨0x060, 1, 4, kept w32 64#32⟩,
  ⟨0x200, 1, 4, kept 0xFF0303FF#32 0x3B030100#32⟩,
  ⟨0x240, 1, 4, { rw := 0#32 }⟩,
  ⟨0x100, 1, 4, kept 0x01FFFF03#32 0x101#32⟩,
  ⟨0x104, 63, 4, kept 0x01FFFF03#32 0x100#32⟩,
  ⟨0x300, 64, 4, kept w32 0#32⟩]

def rowsTide : List RegRow := [
  ⟨0x040, 1, 4, kept 0x11FFF#32 0x10001#32⟩,
  ⟨0x044, 1, 4, plain 0xFFF#32⟩,
  ⟨0x048, 1, 4, plain w32⟩,
  ⟨0x04C, 1, 4, plain 0x1FF#32⟩,
  ⟨0x050, 1, 4, plain 0xFFFFF#32⟩,
  ⟨0x058, 1, 4, plain 0xFF#32⟩]

def rowsAdm : List RegRow := [
  ⟨0x040, 1, 4, kept 0xFF07#32 0x800#32⟩,
  ⟨0x044, 1, 4, kept w32 365714#32⟩,
  ⟨0x048, 1, 4, kept w32 24576000#32⟩,
  ⟨0x04C, 1, 4, kept w32 1142#32⟩,
  ⟨0x050, 1, 4, kept w32 10000#32⟩,
  ⟨0x054, 1, 4, kept 0x1FFF#32 4096#32⟩,
  ⟨0x058, 1, 4, kept w32 292571#32⟩]

def rowsDir : List RegRow := [
  ⟨0x040, 1, 4, plain 0xFFFFF#32⟩,
  ⟨0x044, 1, 4, { rw := 0#32, w1c := 0x20#32 }⟩,
  ⟨0x080, 16, 4, plain w32⟩]

def rowsIntake : List RegRow := [
  ⟨0x040, 1, 4, plain 0xFFF#32⟩,
  ⟨0x048, 1, 4, kept 0x3FFF#32 0xC00#32⟩,
  ⟨0x050, 2, 4, plain w32⟩,
  ⟨0x058, 1, 4, plain 0x0FFFFFFF#32⟩,
  ⟨0x05C, 1, 4, plain w32⟩,
  ⟨0x060, 1, 4, kept 0x0FFFFFFF#32 0#32⟩,
  ⟨0x064, 1, 4, kept w32 0#32⟩,
  ⟨0x068, 1, 4, kept w32 1000000#32⟩,
  ⟨0x06C, 1, 4, plain 0xFF#32⟩,
  ⟨0x080, 1, 4, plain 0xFFFF#32⟩,
  ⟨0x084, 2, 4, plain w32⟩,
  ⟨0x08C, 1, 4, plain 0x0FFFFFFF#32⟩,
  ⟨0x090, 1, 4, plain w32⟩,
  ⟨0x094, 1, 4, plain 0x1FF#32⟩]

def rowsStep : List RegRow := [
  ⟨0x040, 1, 4, plain 0xFFF#32⟩,
  ⟨0x044, 1, 4, plain 0#32⟩,
  ⟨0x048, 1, 4, plain 0xFF#32⟩,
  ⟨0x080, 16, 4, plain w32⟩]

def rowsCache : List RegRow := [
  ⟨0x040, 1, 4, kept 0x3#32 0x3#32⟩,
  ⟨0x044, 1, 4, kept 0x1FFFFF#32 4096#32⟩,
  ⟨0x048, 1, 4, plain 0x7#32⟩,
  ⟨0x058, 1, 4, plain 0xFFFF#32⟩,
  ⟨0x060, 3, 4, kept 0x0FFFFFFF#32 0#32⟩,
  ⟨0x070, 1, 4, kept 0xFFFFF000#32 0#32⟩,
  ⟨0x074, 2, 4, kept w32 0#32⟩,
  ⟨0x100, 8, 16, kept 0x8FFFFFFF#32 0#32⟩,
  ⟨0x104, 8, 16, kept 0xFFFFF#32 0#32⟩,
  ⟨0x108, 8, 16, kept 0x1FFFFF#32 0#32⟩,
  ⟨0x10C, 8, 16, kept 0x3FFFF#32 0#32⟩,
  ⟨0x180, 32, 4, kept w32 w32⟩]

def rowsSamp : List RegRow := [
  ⟨0x040, 1, 4, kept 0x07FF000F#32 0x04000003#32⟩,
  ⟨0x044, 1, 4, kept 0x0FFFFFFF#32 0#32⟩]

def rowsTrain : List RegRow := [
  ⟨0x040, 1, 4, plain 0x03FFFFFF#32⟩,
  ⟨0x044, 1, 4, plain 0#32⟩,
  ⟨0x048, 1, 4, plain 0xFF#32⟩,
  ⟨0x050, 1, 4, plain 0x3#32⟩,
  ⟨0x054, 1, 4, kept w32 1000000#32⟩,
  ⟨0x058, 1, 4, kept w32 2000000#32⟩,
  ⟨0x05C, 1, 4, kept w32 5000000#32⟩]

def rowsPool : List RegRow := [⟨0x040, 1, 4, plain 0xF#32⟩]

def rowsHost : List RegRow := [
  ⟨0x040, 1, 4, kept 0x107FF#32 1024#32⟩,
  ⟨0x044, 1, 4, kept w32 1000000#32⟩,
  ⟨0x048, 1, 4, plain 0xFFFFFFFC#32⟩,
  ⟨0x04C, 1, 4, plain 0xFF#32⟩,
  ⟨0x054, 1, 4, { rw := 0#32, w1c := 0x3#32 }⟩]

def rowsSlice : List RegRow := [⟨0x044, 1, 4, plain 0x1FFF#32⟩]

def rowsMem : List RegRow := [
  ⟨0x040, 1, 4, { rw := 0x330#32, hard := 0x320#32, kept := 0x330#32 }⟩,
  ⟨0x044, 1, 4, { rw := 0#32, kept := 0x1FC#32, w1c := 0x200#32 }⟩,
  ⟨0x04C, 1, 4, plain 0xFF#32⟩,
  ⟨0x050, 1, 4, kept 0xFFFF#32 64#32⟩,
  ⟨0x054, 1, 4, kept 0xFFFF#32 256#32⟩,
  ⟨0x400, 64, 4, plain 0#32⟩]

/-- The region table, in page MEM0 only (Table 12-10). -/
def rowsMem0 : List RegRow := [
  ⟨0x800, 64, 16, kept 0x8FFFFFFF#32 0#32⟩,
  ⟨0x804, 64, 16, kept 0x1FFFFFFF#32 0#32⟩,
  ⟨0x808, 64, 16, kept 0x03FF001F#32 0#32⟩]

def rowsLink : List RegRow := [
  ⟨0x044, 1, 4, kept 0x3FF#32 0#32⟩,
  ⟨0x048, 1, 4, kept w32 200#32⟩]

/-- LINK0 only (R305). -/
def rowsLink0 : List RegRow := [
  ⟨0x080, 1, 4, kept 0xFFFF#32 0x8400#32⟩,
  ⟨0x084, 1, 4, plain 0x1FFFFFFF#32⟩,
  ⟨0x088, 1, 4, kept w32 1000000#32⟩]

def rowsMerge : List RegRow := [⟨0x100, 4, 256, kept 0x1#32 1#32⟩]

/-- MERGE page 0x050 only (R119). -/
def rowsMerge0 : List RegRow := [
  ⟨0x040, 1, 4, kept w32 100000#32⟩,
  ⟨0x044, 1, 4, kept w32 100000#32⟩]

/-- The record body of a request slot, 0x20 to 0xFF of its 256 bytes (Table 06-3). -/
def rowsSlot : List RegRow := (List.range 16).map fun i => ⟨256 * i + 0x20, 56, 4, plain w32⟩

/-- The stored registers of a page, but for its header. -/
def pageRows (p : Nat) : List RegRow :=
  match pageKind p with
  | none => []
  | some .top => rowsTop
  | some .pwr => rowsPwr
  | some .rst => rowsRst
  | some .sec => rowsSec
  | some .rel => rowsRel
  | some .ctl => rowsCtl
  | some .sched => rowsSched
  | some .tide => rowsTide
  | some .adm => rowsAdm
  | some .dir => rowsDir
  | some .intake => rowsIntake
  | some .step => rowsStep
  | some .cache => rowsCache
  | some .samp => rowsSamp
  | some .train => rowsTrain
  | some .pool => rowsPool
  | some .array => []
  | some .host => rowsHost
  | some .slice => rowsSlice
  | some .mem => if p = 0x030 then rowsMem ++ rowsMem0 else rowsMem
  | some .link => if p = 0x040 then rowsLink ++ rowsLink0 else rowsLink
  | some .merge => if p = 0x050 then rowsMerge ++ rowsMerge0 else rowsMerge
  | some .beacon => []
  | some .slot => rowsSlot

/-- CTRL.ENABLE of a page (Table 17-7): writable and kept on most pages, read-only 1 on the first seven. MERGE pages have
their lanes' ENABLE instead. -/
def enableInfo (p : Nat) : RegInfo :=
  match pageKind p with
  | some .top | some .pwr | some .rst | some .sec | some .rel | some .ctl | some .sched => { rw := 0#32, hard := 1#32 }
  | some .tide => kept 1#32 0#32
  | some .merge => plain 0#32
  | _ => kept 1#32 1#32

/-- The header's stored registers: CTRL, EVT_EN, KEEP_MASK (Tables 17-4 to 17-6). -/
def headerRows (p : Nat) : List RegRow :=
  if pageHeader p then
    [⟨0x00C, 1, 4, enableInfo p⟩, ⟨0x018, 1, 4, kept w32 0#32⟩, ⟨0x024, 1, 4, kept w32 w32⟩]
  else []

def RegRow.covers (r : RegRow) (off : Nat) : Bool :=
  r.off ≤ off && (off - r.off) % r.stride == 0 && (off - r.off) / r.stride < r.n

/-- The stored register at an offset of a page; none where the offset is reserved or the field is computed. -/
def regInfo (p off : Nat) : Option RegInfo :=
  ((headerRows p ++ pageRows p).find? fun r => r.covers off).map (·.info)

/-- Offsets of the LO halves of a page's statistics counters, as runs (first, how many). -/
def counterRuns (p : Nat) : List (Nat × Nat) :=
  match pageKind p with
  | some .top => [(0x200, 2)]
  | some .pwr => [(0x200, 4)]
  | some .sec => [(0x200, 5)]
  | some .rel => [(0x200, 8)]
  | some .ctl => [(0x200, 1)]
  | some .sched => [(0x068, 2), (0x208, 6), (0x248, 1)]
  | some .tide => [(0x060, 2)]
  | some .adm => [(0x200, 6)]
  | some .dir => [(0x050, 1)]
  | some .intake => [(0x200, 4)]
  | some .step => [(0x0C0, 5)]
  | some .cache => [(0x200, 9), (0x280, 4)]
  | some .samp => [(0x200, 8)]
  | some .train => [(0x200, 6)]
  | some .pool => [(0x200, 4)]
  | some .array => [(0x200, 3)]
  | some .host => [(0x200, 6)]
  | some .mem => if p = 0x030 then [(0x200, 8), (0x300, 1)] else [(0x200, 8)]
  | some .link => if p = 0x040 then [(0x200, 6), (0x300, 1)] else [(0x200, 6)]
  | some .merge => [(0x120, 7), (0x220, 7), (0x320, 7), (0x420, 7)]
  | _ => []

/-- The address is the LO half of a statistics counter. -/
def isCounterLo (addr : Nat) : Bool :=
  (counterRuns (addr / 0x1000)).any fun (o, n) =>
    let off := addr % 0x1000
    o ≤ off && (off - o) % 8 == 0 && (off - o) / 8 < n

/-- The hard default of a stored register; PWR_LIMIT's is 600 in IRZ-2F (Table 16-8). -/
def hardOf (part : Part) (addr : Nat) : W :=
  if part = .irz2F ∧ addr = regAt pgPwr 0x040 then 600#32
  else match regInfo (addr / 0x1000) (addr % 0x1000) with
    | some i => i.hard
    | none => 0#32

/-- A stored register's value (R365, R366). -/
def State.reg (s : State) (addr : Nat) : W := tget (hardOf s.part addr) s.regs addr

/-- A register of a page at an offset. -/
def State.rd (s : State) (page off : Nat) : W := s.reg (regAt page off)

/-- The kept bits of a stored register. -/
def keptMask (addr : Nat) : W :=
  match regInfo (addr / 0x1000) (addr % 0x1000) with
  | some i => i.kept
  | none => 0#32

/-- A stored register set; when it is a kept register and changes, the retained image is stale (R357). -/
def State.setReg (s : State) (addr : Nat) (v : W) : State :=
  { s with
    regs := tput s.regs addr v
    ret := if (s.reg addr ^^^ v) &&& keptMask addr = 0#32 then s.ret
      else { s.ret with stale := true, changeAt := s.lcount } }

def State.wr (s : State) (page off : Nat) (v : W) : State := s.setReg (regAt page off) v

/-- A field [lo+width−1:lo] of a stored register set by the block. -/
def State.setFld (s : State) (page off lo width v : Nat) : State :=
  s.wr page off (setField (s.rd page off) lo width v)

/-- A 64-bit pair of registers. -/
def State.rd64 (s : State) (page off : Nat) : Nat := (s.rd page off).toNat + 2 ^ 32 * (s.rd page (off + 4)).toNat

/-- A change of a kept table or field that has no stored register (R357). -/
def State.touch (s : State) : State := { s with ret := { s.ret with stale := true, changeAt := s.lcount } }

def State.enabled (s : State) (page : Nat) : Bool := (s.rd page 0x00C).getLsbD 0

end Sys2Proof.Machine
end

