-- ==== Sys2Proof/Machine/Gate.lean ====
section
/-! DEFINITION. What a command needs before the block serves it: the clocks of the domains it runs in (16_clocks_power_reset.md
R343, R346, Table 16-1) and, for an access to a register, a page that the life-cycle state opens (14_security.md R308, Table
14-2). -/
namespace Sys2Proof.Machine

/-- The life-cycle state gives the page its registers (Table 14-2: TOP and SEC only in states with no work). -/
def State.pageLive (s : State) (p : Nat) : Bool :=
  pagePresent s.part p &&
    (p = pgTop || p = pgSec ||
      (match s.life with
        | .unsealed | .returned => true
        | .sealed => !s.retPend
        | _ => false))

/-! ## Clocks (R346) -/

/-- A clock domain of Table 16-1; `mclks`: every stack's, which what reads or writes stack memory needs, since its addresses
are spread over the stacks (R269). A form's ACLK is looked at where the form completes. -/
inductive Clk where
  | cclk | bclk | hclk | aoclk | mclk (stack : Nat) | mclks | lclk (port : Nat)
deriving DecidableEq, Repr

/-- The clock runs. -/
def State.clockOk (s : State) : Clk → Bool
  | .cclk => s.clkUp 0
  | .bclk => s.clkUp 1
  | .hclk => s.clkUp 2
  | .aoclk => s.clkUp 3
  | .mclk k => !s.mclkFail.getLsbD k
  | .mclks => s.mclkFail == 0#16
  | .lclk p => !s.lclkFail.getLsbD p

/-- Bits of PWR_CLKMON that the configuration has, but for MCLK and LCLK (R399). -/
def clkMask (part : Part) : BitVec 8 := BitVec.ofNat 8 (0x0F + 2 ^ 4 * (2 ^ part.slices - 1))

/-- Clocks fall out of range: their bits of PWR_CLKMON are set and CLKFAIL is raised; their units stop (R346). -/
def clkfailOp (s : State) (c : ClockFail) : State :=
  let x := c.clocks &&& clkMask s.part
  let m := c.mclk &&& BitVec.ofNat 16 (2 ^ s.part.nStacks - 1)
  let l := c.lclk &&& BitVec.ofNat 8 (2 ^ s.part.nPorts - 1)
  if x = 0#8 ∧ m = 0#16 ∧ l = 0#8 then s
  else State.raise { s with
    mclkFail := s.mclkFail ||| m, lclkFail := s.lclkFail ||| l
    clkmon := s.clkmon ||| x.setWidth 10 ||| BitVec.ofNat 10 (2 ^ 8 * b2n (m != 0#16) + 2 ^ 9 * b2n (l != 0#8)) } pgPwr 3

/-- CLKFAIL (R346). -/
def execClkfail (clocks : ClockFail) (s : State) : Host.Outcome State Fault Refusal :=
  let t := clkfailOp s clocks
  .next { s with clkmon := t.clkmon, mclkFail := t.mclkFail, lclkFail := t.lclkFail, hdrs := t.hdrs }

/-! ## What a command needs -/

/-- The clocks of the domains a command runs in (Tables 16-1, 18-1 to 18-10), and the page of a register access. -/
def Instr.needs (part : Part) : Instr → List Clk × Option Nat
  | .registerWrite _ _ _ _ => ([.cclk], none)
  | .badacc _ _ _ _ => ([.cclk], none)
  | .evtPendClear page _ => ([.cclk], some page.toNat)
  | .errCountClr page => ([.cclk], some page.toNat)
  | .counterLoRead _ => ([.cclk], none)
  | .counterSatClear addr => ([.cclk], some (addr.toNat / 0x1000))
  | .dirRead _ => ([.cclk], some pgDir)
  | .dirCreate _ => ([.cclk], some pgDir)
  | .dirStage _ => ([.cclk], some pgDir)
  | .dirPublish _ => ([.cclk], some pgDir)
  | .dirDiscard _ => ([.cclk], some pgDir)
  | .dirRetire _ => ([.cclk], some pgDir)
  | .dirSetPolicy _ => ([.cclk], some pgDir)
  | .dirFlushPrefix _ => ([.cclk], some pgDir)
  | .jobRead _ => ([.cclk], some pgStep)
  | .jobOpen _ => ([.cclk], some pgStep)
  | .jobUpdate _ => ([.cclk], some pgStep)
  | .jobClose _ => ([.cclk], some pgStep)
  | .jobCloseEnds _ => ([.cclk], none)
  | .post slot _ => ([.cclk], some (0x100 + slot.toNat / 16))
  | .postingCheck _ => ([.cclk], none)
  | .outOfStepRecord _ => ([.cclk, .mclks], none)
  | .cancel slot => ([.cclk], some (0x100 + slot.toNat / 16))
  | .pause slot => ([.cclk], some (0x100 + slot.toNat / 16))
  | .resume slot => ([.cclk], some (0x100 + slot.toNat / 16))
  | .trim slot => ([.cclk], some (0x100 + slot.toNat / 16))
  | .cancelTaken _ => ([.cclk], none)
  | .resumeTaken _ => ([.cclk, .mclks], none)
  | .deadlineEnd _ => ([.cclk, .mclks], none)
  | .expired _ => ([.cclk], none)
  | .jconsWrite _ _ => ([.cclk], some pgStep)
  | .batchGo _ => ([.cclk], some pgStep)
  | .stepForm _ => ([.cclk, .mclks], none)
  | .formPlacement _ => ([.cclk, .mclks], none)
  | .down _ => ([.mclks], none)
  | .up _ => ([.mclks], none)
  | .pigeonholeWrite _ => ([.bclk], none)
  | .score _ => ([.mclks], none)
  | .value _ => ([.mclks], none)
  | .smerge _ => ([.mclks], none)
  | .norm _ => ([.mclks], none)
  | .rotary _ => ([.mclks], none)
  | .resid _ => ([.mclks], none)
  | .act _ => ([.mclks], none)
  | .route _ => ([.mclks], none)
  | .sample _ => ([.mclks], none)
  | .loss _ => ([.mclks], none)
  | .du _ => ([.mclks], none)
  | .dxa _ => ([.mclks], none)
  | .gout _ => ([.mclks], none)
  | .bvec _ => ([.mclks], none)
  | .battn _ => ([.mclks], none)
  | .mpool _ => ([.mclks], none)
  | .intakeForm _ => ([.mclks], none)
  | .formFault _ _ => ([.cclk], none)
  | .wdog _ => ([.cclk], none)
  | .commandGrant _ => ([.cclk], none)
  | .commandIssue => ([.bclk], none)
  | .commandDrop => ([.cclk], none)
  | .acmdDone _ => ([.bclk], none)
  | .beat _ _ _ _ => ([.bclk], none)
  | .beatAbsent _ _ => ([.bclk], none)
  | .pigeonholeCredit _ => ([.bclk], none)
  | .landingFree _ => ([.cclk], none)
  | .missDrain _ => ([.cclk], none)
  | .missqLoRead lane => ([.cclk], some (pgMerge lane.toNat))
  | .missqHiRead lane => ([.cclk], some (pgMerge lane.toNat))
  | .laneDisable lane => ([.cclk], some (pgMerge lane.toNat))
  | .laneEnable lane => ([.cclk], some (pgMerge lane.toNat))
  | .laneDrained _ => ([.bclk], none)
  | .laneFault _ => ([.cclk], none)
  | .stepBoundary _ => ([.cclk, .mclks], none)
  | .schedTidelineWrite _ => ([.cclk], some pgSched)
  | .schedGrpWrite _ _ => ([.cclk], some pgSched)
  | .periodEnd => ([.cclk], none)
  | .modelSwitch _ => ([.cclk], none)
  | .tideLoad _ => ([.cclk], some pgTide)
  | .tideCommit _ => ([.cclk], some pgTide)
  | .slotBegin => ([.cclk], none)
  | .windowEnd => ([.cclk], none)
  | .trainTake _ _ => ([.cclk], some pgTrain)
  | .trainRelease _ _ => ([.cclk], some pgTrain)
  | .collectiveDone _ _ => ([.cclk], none)
  | .linkCollTimeout _ _ => ([.cclk], none)
  | .updGrad _ _ => ([.bclk], none)
  | .updWrite _ _ => ([.bclk], none)
  | .updAck _ => ([.bclk], none)
  | .trainUpdTimeout _ _ => ([.cclk], none)
  | .vote _ => ([.cclk], none)
  | .voteFrame _ => ([.cclk], none)
  | .trainVoteTimeout _ => ([.cclk], none)
  | .decision _ => ([.cclk], none)
  | .trainDecideTimeout _ => ([.cclk], none)
  | .ask _ => ([.cclk], none)
  | .resolveCommit _ => ([.cclk], some pgTrain)
  | .resolveAbort _ => ([.cclk], some pgTrain)
  | .trainRetry _ => ([.cclk], some pgTrain)
  | .adapterIntake _ => ([.cclk], some pgIntake)
  | .intakeStart => ([.cclk], none)
  | .intakeComplete _ _ => ([.cclk, .mclks], none)
  | .afaultqLoRead => ([.cclk], some pgIntake)
  | .afaultqHiRead => ([.cclk], some pgIntake)
  | .intakeLoad _ _ => ([.cclk], some pgIntake)
  | .intakeReplace _ => ([.cclk], some pgIntake)
  | .wfRetry => ([.cclk], some pgIntake)
  | .wfRollback => ([.cclk], some pgIntake)
  | .intakeUnload _ => ([.cclk], some pgIntake)
  | .part0Checked => ([.cclk, .mclks], none)
  | .stationPrepared _ => ([.cclk, .mclks], none)
  | .stationCopy => ([.cclk, .mclks], none)
  | .wfFinished => ([.cclk], none)
  | .hostReadResponse _ _ _ _ => ([.hclk], none)
  | .hostWriteAck _ _ => ([.hclk], none)
  | .hostReadTimeout _ => ([.cclk], none)
  | .directWindowRequest _ _ addr _ _ => ([.hclk, .mclk (addr.toNat / 4096 % part.nStacks)], none)
  | .daccRead => ([.cclk], some pgHost)
  | .daccWrite _ => ([.cclk], some pgHost)
  | .memRegWrite _ _ _ => ([.cclk], some 0x030)
  | .stackReadDone addr _ _ _ => ([.mclk (addr.toNat / 4096 % part.nStacks)], none)
  | .patrol stack _ _ => ([.mclk stack.toNat], none)
  | .corrHalving => ([.cclk], none)
  | .memRetrain stack => ([.cclk], some (pgMem stack.toNat))
  | .stackTempRetrain stack _ => ([.mclk stack.toNat], none)
  | .retrainDone stack _ => ([.mclk stack.toNat], none)
  | .memRetire stack _ => ([.cclk], some (pgMem stack.toNat))
  | .pcRetired stack => ([.mclk stack.toNat], none)
  | .ucqLoRead stack => ([.cclk], some (pgMem stack.toNat))
  | .ucqHiRead stack => ([.cclk], some (pgMem stack.toNat))
  | .frameRx port _ => ([.lclk port.toNat], none)
  | .linkAckTimeout _ => ([.cclk], none)
  | .laneFail port _ => ([.lclk port.toNat], none)
  | .linkTrained port _ => ([.lclk port.toNat], none)
  | .linkRcmd _ => ([.cclk], some (pgLink 0))
  | .unitDisable page => ([.cclk], some page.toNat)
  | .unitEnable page => ([.cclk], some page.toNat)
  | .unitDrained _ => ([.cclk], none)
  | .cacheFlush _ => ([.cclk], some pgCache)
  | .cachePoolWrite _ _ => ([.cclk], some pgCache)
  | .lcUnseal _ => ([.cclk], none)
  | .lcSeal => ([.cclk], some pgSec)
  | .lcReturn => ([.cclk], some pgSec)
  | .lcVoid => ([.cclk], some pgSec)
  | .raiseFwMin => ([.cclk], some pgSec)
  | .keyImport => ([.cclk], some pgSec)
  | .keyClear => ([.cclk], some pgSec)
  | .attest => ([.cclk], some pgSec)
  | .fuseBurnAck _ => ([.aoclk], none)
  | .fence _ => ([.cclk], some pgRel)
  | .spareBind _ => ([.cclk], none)
  | .reinstate _ _ => ([.cclk], some pgRel)
  | .nocMessage _ _ _ _ => ([.cclk], none)
  | .ctrlUncorr _ _ => ([.cclk], none)
  | .relLog0Read => ([.cclk], some pgRel)
  | .relLog3Read => ([.cclk], some pgRel)
  | .clusterFault _ => ([.cclk], none)
  | .handover _ => ([.cclk], some pgCtl)
  | .fwLoad _ => ([.cclk], some pgCtl)
  | .split => ([.cclk], some pgCtl)
  | .clkfail _ => ([], none)
  | .powerEstimate _ _ => ([], none)
  | .vack _ _ => ([.aoclk], none)
  | .oppSlewDone _ => ([.aoclk], none)
  | .droopAssert _ => ([], none)
  | .droopDeassert _ => ([], none)
  | .thermSample _ _ => ([.aoclk], none)
  | .gateIdle _ => ([.cclk], none)
  | .powerOnReset => ([], none)
  | .coldResetInput => ([], none)
  | .warmResetInput => ([], none)
  | .bringUp _ => ([], none)
  | .rstCold => ([.cclk], some pgRst)
  | .rstWarm => ([.cclk], some pgRst)
  | .sliceReset _ => ([.cclk], some pgRst)
  | .unitReset _ _ => ([.cclk], some pgRst)
  | .rstExport => ([.cclk], some pgRst)
  | .autoExport => ([.aoclk], none)
  | .imageUpdate => ([.aoclk], none)
  | .exportDone => ([.aoclk], none)
  | .exportFail => ([.aoclk], none)
  | .beaconArm beacon _ => ([.cclk], some (0x060 + beacon.toNat / 1024))
  | .beaconArrive beacon _ => ([.cclk], some (0x060 + beacon.toNat / 1024))
  | .beaconClear beacon => ([.cclk], some (0x060 + beacon.toNat / 1024))
  | .intakeReadTimeout => ([.cclk], none)
  | .phyTrainingTimeout _ => ([.cclk], none)
  | .commandAddressParityError stack _ => ([.mclk stack.toNat], none)
  | .writeDataParityError _ addr _ => ([.mclk (addr.toNat / 4096 % part.nStacks)], none)

/-- The block serves a command: its clocks run and its page is open. -/
def State.serves (s : State) (c : Instr) : Bool :=
  (Instr.needs s.part c).1.all s.clockOk && (match (Instr.needs s.part c).2 with | some p => s.pageLive p | none => true)

/-- A read of a page that is not open returns zero (R308); one whose clock has failed does not complete. -/
def State.shut (s : State) : State := if s.clkUp 0 then { s with rdata := 0#32 } else s

end Sys2Proof.Machine
end

