-- ==== Sys2Proof/Machine/Access.lean ====
section
/-! DEFINITION. Accesses to stack memory (regions, encryption, interleave: R268 to R276), key slots (R314), host memory
(R317) and landing buffers. -/
namespace Sys2Proof.Machine

/-! ## Addresses (R268, R269) -/

/-- Capacity of a MEM_CFG.CAP code, in bytes (Table 12-6). -/
def capBytes (c : Nat) : Nat :=
  match c with
  | 1 => 36 * 2 ^ 30
  | 2 => 48 * 2 ^ 30
  | 3 => 48 * 2 ^ 30
  | 4 => 64 * 2 ^ 30
  | _ => 0

def State.capCode (s : State) (stack : Nat) : Nat := bitsOf (s.rd (pgMem stack) 0x040) 2 0

/-- C: the smallest capacity among the stacks present (R268). -/
def State.stackCap (s : State) : Nat :=
  ((List.range s.part.nStacks).map fun i => capBytes (s.capCode i)).foldl
    (fun m c => if c = 0 then m else if m = 0 then c else min m c) 0

/-- The first address that does not exist (R269). -/
def State.top (s : State) : Nat := s.part.nStacks * s.stackCap * 63 / 64

def State.stackOf (s : State) (a : Nat) : Nat := a / 4096 % s.part.nStacks

/-- N: addressable 256-byte units of a pseudo-channel (R269). -/
def State.pcUnits (s : State) : Nat := s.stackCap / 64 / 256 * 63 / 64

def State.retiredPc (s : State) (stack : Nat) : Option Nat :=
  let w := s.rd (pgMem stack) 0x044
  if w.getLsbD 8 then some (bitsOf w 7 2) else none

/-- Units below the copy pointer of a copy under way have moved already (R284). -/
def State.movedUnit (s : State) (stack pc v : Nat) : Bool :=
  let k := tget {} s.stk stack
  k.copying && k.copyPc.toNat == pc && decide (v < k.copyPtr.toNat)

/-- The pseudo-channel and unit an address reaches (R269, R284). -/
def State.place (s : State) (a : Nat) : Nat × Nat :=
  let n := s.part.nStacks
  let u := ((a / (4096 * n)) * 4096 + a % 4096) / 256
  let pc := u % 64
  let v := u / 64
  if s.retiredPc (s.stackOf a) = some pc ∨ s.movedUnit (s.stackOf a) pc v then
    let i := v % 63
    (if i < pc then i else i + 1, s.pcUnits + v / 63)
  else (pc, v)

/-! ## Regions (R271, Table 12-3) -/

structure Region where
  base : Nat
  size : Nat
  kind : Nat
  enc : Bool
  key : Nat
  valid : Bool
deriving DecidableEq, Repr

def kBase : Nat := 1
def kControl : Nat := 2
def kAdapter : Nat := 3
def kPages : Nat := 4
def kTokens : Nat := 5
def kTally : Nat := 6
def kStaging : Nat := 7

/-- Region entry n, its range in bytes. -/
def State.region (s : State) (n : Nat) : Region :=
  let r0 := s.rd 0x030 (0x800 + 16 * n)
  let r1 := s.rd 0x030 (0x804 + 16 * n)
  let r2 := s.rd 0x030 (0x808 + 16 * n)
  { base := bitsOf r0 27 0 * 4096, size := bitsOf r1 28 0 * 4096, kind := bitsOf r2 3 0,
    enc := r2.getLsbD 4, key := bitsOf r2 25 16, valid := r0.getLsbD 31 }

def Region.covers (r : Region) (a n : Nat) : Bool := r.valid && r.base ≤ a && a + n ≤ r.base + r.size

/-- The valid entry that covers all of a range. -/
def State.regionOf (s : State) (a n : Nat) : Option Region :=
  ((List.range 64).map s.region).find? fun r => r.covers a n

/-- A range lies wholly inside one region of a kind. -/
def State.inKind (s : State) (kind a n : Nat) : Bool :=
  match s.regionOf a n with
  | some r => r.kind == kind
  | none => false

/-! ## Key slots (R314) -/

def ownerTenant (t : Nat) : W := BitVec.ofNat 32 (1 + 4 * t)
def ownerCirc (c : Nat) : W := BitVec.ofNat 32 (2 + 4 * c)
def ownerPair (c i j : Nat) : W := BitVec.ofNat 32 (3 + 4 * c + 64 * i + 4096 * j)

/-- The slot that holds an owner word. -/
def State.slotOfOwner (s : State) (w : W) : Option Nat := (s.keys.find? fun (_, k) => k.owner == w).map (·.1)

def State.tenantSlot (s : State) (t : Nat) : Option Nat := s.slotOfOwner (ownerTenant t)
def State.circSlot (s : State) (c : Nat) : Option Nat := s.slotOfOwner (ownerCirc c)

def keyBytes (k : BitVec 256) : List Byte := leBytes 32 k.toNat

/-! ## Stored bytes and encryption (R274, R275) -/

/-- The result of a read: the data, a region fault (R272), an uncorrectable word (R280). -/
structure MemRes where
  data : List Byte
  fault : Bool := false
  unc : Bool := false
deriving DecidableEq, Repr

def State.stack (s : State) (i : Nat) : Stack := tget {} s.stk i

def State.stackFault (s : State) (i : Nat) : Bool := s.unit (pgMem i) == .fault

/-- Some 32-byte word of a range reads uncorrectable, or its stack is in FAULT (R280, R288). -/
def State.uncIn (s : State) (a n : Nat) : Bool :=
  s.uncorr.any (fun w => a / 32 ≤ w && w * 32 < a + n) ||
    ((List.range (n / 4096 + 2)).any fun i => a / 4096 + i ≤ (a + n - 1) / 4096 && s.stackFault (s.stackOf (a + 4096 * i)))

/-- Address of the first uncorrectable 32-byte word of a range, if any. -/
def State.firstUnc (s : State) (a n : Nat) : Option Nat :=
  if n = 0 then none
  else (((List.range ((a + n - 1) / 32 + 1 - a / 32)).map (a / 32 + ·)).find? fun w =>
    s.uncorr.contains w || s.stackFault (s.stackOf (32 * w))).map (32 * ·)

/-- Stored bytes; a stack in FAULT reads zero (R288). -/
def State.stored (s : State) (a n : Nat) : List Byte :=
  (List.range n).map fun i => if s.stackFault (s.stackOf (a + i)) then 0#8 else mget s.mem (a + i)

/-- Bytes [a, a+n) deciphered block by block. -/
def deciphered (k : KeySlot) (m : Nat → Byte) (a n : Nat) : List Byte :=
  let b0 := a / 16
  let b1 := (a + n + 15) / 16
  let all := (List.range (b1 - b0)).flatMap fun i =>
    let b := b0 + i
    xts false (keyBytes k.xtsA) (keyBytes k.xtsB) (b / 16) (b % 16) ((List.range 16).map fun j => m (16 * b + j))
  (all.drop (a % 16)).take n

/-- The stored image of whole blocks from plaintext. -/
def enciphered (k : KeySlot) (b0 : Nat) (bs : List Byte) : List Byte :=
  ((blocks16 bs).zipIdx).flatMap fun (blk, i) =>
    xts true (keyBytes k.xtsA) (keyBytes k.xtsB) ((b0 + i) / 16) ((b0 + i) % 16) blk

/-- The check of R272: the region, and the key the access needs. `need` is the requester's key slot for the per-access
kinds, none where that owner's slot is empty. -/
def State.checkAccess (s : State) (kind : Nat) (need : Option Nat) (a n : Nat) : Option (Option KeySlot) :=
  match s.regionOf a n with
  | none => none
  | some r =>
    if r.kind ≠ kind ∨ s.top < a + n then none
    else if kind = kBase ∨ kind = kControl ∨ !r.enc then some none
    else
      let slot := if kind = kAdapter ∨ kind = kStaging then some r.key else need
      match slot.bind (tget? s.keys) with
      | none => none
      | some k => some (some k)

/-- A read by a block function (R272, R274, R280). -/
def State.peek (s : State) (kind : Nat) (need : Option Nat) (a n : Nat) : MemRes :=
  if n = 0 then { data := [] } else
  match s.checkAccess kind need a n with
  | none => { data := zeroBytes n, fault := true, unc := true }
  | some none => { data := s.stored a n, unc := s.uncIn a n }
  | some (some k) =>
    { data := ((deciphered k (mget s.mem) a n).zipIdx).map fun (b, i) => if s.stackFault (s.stackOf (a + i)) then 0#8 else b
      unc := s.uncIn a n }

/-- A region fault is counted and raised (R272). -/
def State.regFault (s : State) : State := (s.count (regAt 0x030 0x300) 1).raise 0x030 8

/-- The stored bytes of a range become these; its words are no longer uncorrectable; a stack in FAULT drops the write. -/
def State.store_ (s : State) (a : Nat) (bs : List Byte) : State :=
  { s with
    mem := ((bs.zipIdx).foldl (fun m (b, i) => if s.stackFault (s.stackOf (a + i)) then m else mset m (a + i) b) s.mem)
    uncorr := s.uncorr.filter fun w =>
      !(a / 32 ≤ w && w * 32 < a + bs.length) || s.stackFault (s.stackOf (32 * w)) }

/-- The 256-byte writes of a range are counted, each on its stack (MEM_WR). -/
def State.wrCount (s : State) (a n : Nat) : State :=
  if n = 0 then s
  else (List.range ((a + n - 1) / 256 + 1 - a / 256)).foldl (fun (s : State) i =>
    s.inc (pgMem (s.stackOf (256 * (a / 256 + i)))) 0x208) s

/-- A write by a block function: the state, and whether it faulted (R272, R275). -/
def State.poke (s : State) (kind : Nat) (need : Option Nat) (a : Nat) (bs : List Byte) : State × Bool :=
  if bs = [] then (s, false) else
  match s.checkAccess kind need a bs.length with
  | none => (s.regFault, true)
  | some none => ((s.store_ a bs).wrCount a bs.length, false)
  | some (some k) =>
    let lo := a / 16 * 16
    let hi := (a + bs.length + 15) / 16 * 16
    let old := deciphered k (fun x => mget s.mem x) lo (hi - lo)
    let new := old.take (a - lo) ++ bs ++ old.drop (a - lo + bs.length)
    ((s.store_ lo (enciphered k (lo / 16) new)).wrCount a bs.length, false)

/-- The requester class of a read (Table 12-4). -/
def Requester.cls : Requester → Nat
  | .form _ => 0
  | .feed _ => 1
  | .staging .. => 2
  | .intakeBase => 3
  | .intakeAdapter _ => 3
  | .pageList _ => 4
  | .frameTable _ => 4
  | .prBitmap _ => 4
  | .translation _ => 5
  | .direct => 6
  | .parcel _ => 7
  | .update _ => 8
  | .retireCopy => 9
  | .prefixCompare _ => 10

/-- A stack's MEM_UCQ takes a record, or drops it when it holds 16 (R280, R290). -/
def State.ucPush (s : State) (stack : Nat) (r : UcRec) : State :=
  let k := s.stack stack
  if k.ucq.length < 16 then { s with stk := tput s.stk stack { k with ucq := k.ucq ++ [r] } }
  else ((s.setFld (pgMem stack) 0x044 9 1 1).raise (pgMem stack) 5)

/-- A retirement copy starts on a stack; on one that retrains it waits for the end of the training (R284, Table 12-5). -/
def State.startCopy (s : State) (k pc : Nat) : State :=
  let v := s.stack k
  { s with stk := tput s.stk k { v with
      copying := !v.retrain, copyWait := v.retrain, copyPc := BitVec.ofNat 6 pc, copyPtr := 0#22 } }

/-- A stack may start a retirement (R282). -/
def State.mayRetire (s : State) (k : Nat) : Bool :=
  (s.retiredPc k).isNone && !(s.stack k).copying && !(s.stack k).copyWait && !s.stackFault k

/-- An automatic trigger of R282: a retirement starts, or the THRESH event goes on (R286). -/
def State.autoRetire (s : State) (k pc : Nat) : State :=
  if !(s.rd (pgMem k) 0x040).getLsbD 8 then s
  else if s.mayRetire k then s.startCopy k pc else s.raise (pgMem k) 0

/-- An uncorrectable address is recorded; a second one in a pseudo-channel triggers (R282). -/
def State.seeUnc (s : State) (k pc a : Nat) : State :=
  let v := s.stack k
  let x := (a / 32, pc)
  if v.seen.contains x then s
  else
    let s := { s with stk := tput s.stk k { v with seen := v.seen ++ [x] } }
    if v.seen.any (fun y => y.2 = pc) then s.autoRetire k pc else s

/-- An uncorrectable read is recorded (R280): counted, seen, queued, raised, logged. -/
def State.uncRecord (s : State) (a cls : Nat) : State :=
  let k := s.stackOf a
  let s := s.seeUnc k (s.place a).1 a
  let pc := (s.place a).1
  let s := s.inc (pgMem k) 0x218
  let s := s.setFld (pgMem k) (0x400 + 4 * pc) 16 1 1
  let s := s.ucPush k { addr := BitVec.ofNat 40 a, cls := BitVec.ofNat 4 cls }
  let s := s.raise (pgMem k) 1
  s.logRec 0x0E (pgMem k) k (BitVec.ofNat 32 (a / 256))

/-- Bytes of a range [a, a+n) that lie in its i-th 256-byte unit: address and length. -/
def unitPart (a n i : Nat) : Nat × Nat :=
  let lo := max a (256 * (a / 256 + i))
  (lo, min (a + n) (256 * (a / 256 + i + 1)) - lo)

/-- The uncorrectable reads of a range are recorded: one record for each 256-byte read, with the address of its first bad
word (R280). -/
def State.uncRange (s : State) (a n cls : Nat) : State :=
  if n = 0 then s
  else (List.range ((a + n - 1) / 256 + 1 - a / 256)).foldl (fun (s : State) i =>
    match s.firstUnc (unitPart a n i).1 (unitPart a n i).2 with
    | some w => s.uncRecord w cls
    | none => s) s

/-- A read's region fault or its uncorrectable words recorded. -/
def State.note (s : State) (r : MemRes) (a cls : Nat) : State :=
  if r.fault then s.regFault else if r.unc then s.uncRange a r.data.length cls else s

/-! ## Frames (R146, R147) -/

structure Pool where
  en : Bool
  base : Nat
  first : Nat
  count : Nat
  units : Nat
deriving DecidableEq, Repr

def State.pool (s : State) (p : Nat) : Pool :=
  let r0 := s.rd pgCache (0x100 + 16 * p)
  { en := r0.getLsbD 31, base := bitsOf r0 27 0 * 4096, first := bitsOf (s.rd pgCache (0x104 + 16 * p)) 19 0,
    count := bitsOf (s.rd pgCache (0x108 + 16 * p)) 20 0, units := bitsOf (s.rd pgCache (0x10C + 16 * p)) 17 0 }

/-- The pool a model is bound to by CACHE_MPOOL: bound, enabled (R147). -/
def State.modelPool (s : State) (model : Nat) : Option Nat :=
  let p := bitsOf (s.rd pgCache (0x180 + 4 * (model / 8))) (4 * (model % 8) + 3) (4 * (model % 8))
  if p < 8 ∧ (s.pool p).en then some p else none

def Pool.has (p : Pool) (f : Nat) : Bool := p.en && p.first ≤ f && f < p.first + p.count

/-- The pool of a frame. -/
def State.poolOf (s : State) (f : Nat) : Option Nat := (List.range 8).find? fun p => (s.pool p).has f

/-- Stack address of a frame. -/
def State.frameAddr (s : State) (f : Nat) : Nat :=
  match s.poolOf f with
  | none => 0
  | some p => (s.pool p).base + (f - (s.pool p).first) * 4096 * (s.pool p).units

/-- The frame a stack address lies in. -/
def State.frameAt (s : State) (a : Nat) : Option Nat :=
  (List.range 8).findSome? fun p =>
    let v := s.pool p
    if v.en ∧ v.units ≠ 0 ∧ v.base ≤ a ∧ a < v.base + v.count * 4096 * v.units then
      some (v.first + (a - v.base) / (4096 * v.units))
    else none

/-! ## Host memory (R338, R386, R387) -/

/-- Bytes of host memory as the port's reads have brought them; none while HCLK does not run. -/
def State.hostRead (s : State) (a n : Nat) : Option (List Byte) := if s.clkUp 2 then some (mread s.host a n) else none

/-- Requests for bytes [a, a+n): 128-byte aligned address and beats, none across a 4 KiB boundary (R386, Table 18-2). -/
def hostPieces (a n : Nat) : List (Nat × Nat) :=
  if n = 0 then []
  else (List.range (ceilDiv (a % 4096 + n) 4096)).map fun i =>
    let lo := if i = 0 then a / 128 * 128 else (a / 4096 + i) * 4096
    (lo, ceilDiv (min (a + n) ((a / 4096 + i + 1) * 4096) - lo) 128)

def freeTag {α : Type} (t : Tab α) (n : Nat) : Option Nat := (List.range n).find? fun i => (tget? t i).isNone

/-- New host-port requests go out: HOST is RUNNING, or the block is not READY and the firmware loader reads (R338, R354). -/
def State.hostGoes (s : State) : Bool := s.clkUp 2 && (s.running pgHost || !s.ready)

/-- The oldest waiting read takes a tag, while fewer than RD_TAGS are outstanding. -/
def State.issueRead (s : State) : State :=
  match s.readQ, freeTag s.hostReads (bitsOf (s.rd pgHost 0x040) 10 0) with
  | r :: rest, some t =>
    { s with
      readQ := rest, hostReads := tput s.hostReads t { use := r.use, addr := r.addr, beats := r.beats, at_ := s.lcount } }
  | _, _ => s

/-- The oldest waiting write takes a tag, while fewer than 1,024 are outstanding: its bytes reach host memory in the order in
which the writes were requested (R387). -/
def State.issueWrite (s : State) : State :=
  match s.writeQ, freeTag s.hostWrites 1024 with
  | w :: rest, some t =>
    State.count { s with
      writeQ := rest, host := mwrite s.host w.addr w.data
      hostWrites := tput s.hostWrites t { parcel := w.parcel, granule := w.granule, at_ := s.lcount } }
      (regAt pgHost 0x208) w.data.length
  | _, _ => s

/-- Waiting host-port reads, or writes, go out as far as they may. -/
def State.pumpReads (s : State) : State := if s.hostGoes then s.readQ.foldl (fun (s : State) _ => s.issueRead) s else s
def State.pumpWrites (s : State) : State := if s.hostGoes then s.writeQ.foldl (fun (s : State) _ => s.issueWrite) s else s
def State.pumpHost (s : State) : State := s.pumpReads.pumpWrites

/-- Bytes [a, a+n) of host memory are asked for. -/
def State.askHost (s : State) (use : HostUse) (a n : Nat) : State :=
  State.pumpReads { s with
    readQ := s.readQ ++ (hostPieces a n).map fun (x, b) => { use := use, addr := BitVec.ofNat 64 x, beats := b } }

/-- A read is waiting or outstanding for a use. -/
def State.reading (s : State) (use : HostUse) : Bool :=
  s.readQ.any (fun r => r.use == use) || s.hostReads.any fun (_, r) => r.use == use

/-- The requests of a write of bytes at a: no request crosses a 4 KiB boundary; the last carries the parcel's mark. -/
def writePieces (a : Nat) (bs : List Byte) (parcel : Option (BitVec 12 × Nat)) (granule : Nat) : List WriteReq :=
  let n := ceilDiv (a % 4096 + bs.length) 4096
  (List.range n).map fun i =>
    let lo := if i = 0 then a else (a / 4096 + i) * 4096
    let hi := min (a + bs.length) ((a / 4096 + i + 1) * 4096)
    { addr := lo, data := (bs.drop (lo - a)).take (hi - lo), parcel := if i + 1 = n then parcel else none, granule := granule }

/-- A write of host memory is requested (R387); HOST_WRBYTES counts its bytes as it goes out (R381). -/
def State.hostPut (s : State) (a : Nat) (bs : List Byte) (parcel : Option (BitVec 12 × Nat)) (granule : Nat) : State :=
  if bs = [] then s else State.pumpWrites { s with writeQ := s.writeQ ++ writePieces a bs parcel granule }

def State.hostWrite (s : State) (a : Nat) (bs : List Byte) : State := s.hostPut a bs none 0

/-- A failed host read is counted (R381). -/
def State.hostRdErr (s : State) : State := (s.inc pgHost 0x210).raise pgHost 0

/-- Bytes of an area from byte offset `off` on under AES-256-CTR: counter block n has `lo` in bits 63:0 and `hi n` in bits
127:64 (R317). -/
def ctrXor (key : BitVec 256) (lo : Nat) (hi : Nat → Nat) (off : Nat) (bs : List Byte) : List Byte :=
  (bs.zipIdx).map fun (b, i) =>
    let o := off + i
    b ^^^ (aesEnc (keyBytes key) (leBytes 16 (lo % 2 ^ 64 + 2 ^ 64 * hi (o / 16)))).getD (o % 16) 0#8

/-- High half of a counter block whose bits [127:72] are the block number (Table 14-5). -/
def ctrHi (code : Nat) (n : Nat) : Nat := code + 256 * (n % 2 ^ 56)

end Sys2Proof.Machine
end

