-- ==== Sys2Proof/Machine/Operands.lean ====
section
/-! DEFINITION. The operand forms: request records, job images, model descriptors, directory images and the layout of
an adapter slot (Tables 03-1, 06-1, 06-3, 08-4 and 11-4; R63, R64). -/
namespace Sys2Proof.Machine

/-! ## Words of a job image or a directory image -/

/-- Word i of an image. -/
def imgWord (img : List W) (i : Nat) : W := img.getD i 0#32

def imgPair (img : List W) (i : Nat) : Nat := (imgWord img i).toNat + 2 ^ 32 * (imgWord img (i + 1)).toNat

def State.job (s : State) (j : Nat) : Job := tget {} s.jobs j

def State.setJob (s : State) (j : Nat) (v : Job) : State := { s with jobs := tput s.jobs j v }

def Job.isTrain (j : Job) : Bool := (imgWord j.img 0).getLsbD 2
def Job.fixed (j : Job) : Bool := (imgWord j.img 0).getLsbD 3
def Job.group (j : Job) : Nat := bitsOf (imgWord j.img 0) 9 4
def Job.model (j : Job) : Nat := bitsOf (imgWord j.img 0) 17 10
def Job.slotBase (j : Job) : Nat := bitsOf (imgWord j.img 1) 7 0
def Job.slotPages (j : Job) : Nat := bitsOf (imgWord j.img 1) 16 8
def Job.ringBase (j : Job) : Nat := imgPair j.img 2
def Job.ringLog2 (j : Job) : Nat := bitsOf (imgWord j.img 4) 4 0
def Job.pfChunk (j : Job) : Nat := bitsOf (imgWord j.img 5) 9 0
def Job.rowCap (j : Job) : Nat := bitsOf (imgWord j.img 5) 31 16
def Job.prodAddr (j : Job) : Nat := imgPair j.img 6
def Job.dropD (j : Job) : W := imgWord j.img 8
def Job.firstStep (j : Job) : Nat := imgPair j.img 9

/-- R121: the slots a job owns while it is not FREE. -/
def Job.owns (j : Job) (q : Nat) : Bool :=
  j.st != 0#2 && 16 * j.slotBase ≤ q && q < 16 * (j.slotBase + j.slotPages)

/-- The job that owns a slot. -/
def State.slotJob (s : State) (q : Nat) : Option Nat := (s.jobs.find? fun (_, j) => j.owns q).map (·.1)

def State.slot (s : State) (q : Nat) : Slot := tget {} s.slots q

def State.setSlot (s : State) (q : Nat) (v : Slot) : State := { s with slots := tput s.slots q v }

/-- The slots of a job that hold something, in increasing number. -/
def State.jobSlots (s : State) (j : Nat) : List Nat :=
  (s.slots.filter fun (q, _) => (s.job j).owns q).map (·.1)

/-! ## The request record (Table 06-3) -/

/-- Privileged byte address of offset `off` of slot q (R123). -/
def slotAt (q off : Nat) : Nat := 0x100000 + 256 * q + off

def State.recWord (s : State) (q off : Nat) : W := s.rawReg (slotAt q off)

def State.recPair (s : State) (q off : Nat) : Nat :=
  (s.recWord q off).toNat + 2 ^ 32 * (s.recWord q (off + 4)).toNat

/-- The host's fields of a request record, decoded. -/
structure Req where
  reqId : Nat
  seed : BitVec 64
  orderKey : Nat
  promptAddr : Nat
  promptLen : Nat
  maxNew : Nat
  adapter : Nat
  tenant : Nat
  train : Bool
  hard : Bool
  force : Bool
  frung : Nat
  prefixOk : Bool
  shareCirc : Bool
  probs : Nat
  specMax : Nat
  firstDl : Nat
  nextDl : Nat
  stops : List W
  temp : W
  topK : Nat
  topP : W
  rep : W
  pres : W
  freq : W
  tallyPrompt : Bool
  draftAddr : Nat
  outAddr : Nat
  outRing : Nat
  pauseTtl : Nat
  labelAddr : Nat
  rungAddr : Nat
deriving DecidableEq, Repr

def State.req (s : State) (q : Nat) : Req :=
  let w := s.recWord q
  let p := s.recPair q
  { reqId := p 0x20, seed := BitVec.ofNat 64 (p 0x28), orderKey := p 0x30, promptAddr := p 0x38,
    promptLen := bitsOf (w 0x40) 21 0, maxNew := bitsOf (w 0x44) 21 0, adapter := bitsOf (w 0x48) 15 0,
    tenant := bitsOf (w 0x48) 25 16, train := bitOf (w 0x4C) 0, hard := bitOf (w 0x4C) 1, force := bitOf (w 0x4C) 2,
    frung := bitsOf (w 0x4C) 4 3, prefixOk := bitOf (w 0x4C) 5, shareCirc := bitOf (w 0x4C) 6,
    probs := bitsOf (w 0x4C) 8 7, specMax := bitsOf (w 0x4C) 12 9, firstDl := (w 0x50).toNat, nextDl := (w 0x54).toNat,
    stops := [w 0x58, w 0x5C, w 0x60, w 0x64], temp := w 0x68, topK := bitsOf (w 0x6C) 17 0, topP := w 0x70,
    rep := w 0x74, pres := w 0x78, freq := w 0x7C, tallyPrompt := bitOf (w 0x80) 0, draftAddr := p 0x88,
    outAddr := p 0x90, outRing := (w 0x98).toNat, pauseTtl := p 0xA0, labelAddr := p 0xA8, rungAddr := p 0xB0 }

/-- Bytes [a, b) of a slot's record body. -/
def State.recBytes (s : State) (q a b : Nat) : List Byte :=
  (List.range ((b - a) / 4)).flatMap fun i => leBytes 4 (s.recWord q (a + 4 * i)).toNat

/-- Legal bits of each word of the record body (Tables 06-3 and 08-4); words not listed have every bit legal. -/
def recMasks : List (Nat × W) := [
  (0x40, 0x3FFFFF#32), (0x44, 0x3FFFFF#32), (0x48, 0x03FFFFFF#32), (0x4C, 0x1FFF#32),
  (0x58, 0x80FFFFFF#32), (0x5C, 0x80FFFFFF#32), (0x60, 0x80FFFFFF#32), (0x64, 0x80FFFFFF#32),
  (0x6C, 0x3FFFF#32), (0x80, 1#32), (0x84, 0#32), (0x9C, 0#32),
  (0xB8, 0#32), (0xBC, 0#32), (0xC0, 0#32), (0xC4, 0#32), (0xC8, 0#32), (0xCC, 0#32), (0xD0, 0#32),
  (0xD4, 0#32), (0xD8, 0#32), (0xDC, 0#32), (0xE0, 0#32), (0xE4, 0#32), (0xE8, 0#32), (0xEC, 0#32)]

/-- The legal values of the SAMPLING field (Table 08-4, R186). -/
def Req.samplingOk (r : Req) : Bool :=
  let fin (w : W) := (ofF32 w).isFinite
  let pos (w : W) := fin w && !(ofF32 w).isNeg && !(ofF32 w).isZero
  (r.temp == 0#32 || pos r.temp) && r.topK ≤ 262143 && pos r.topP && (ofF32 r.topP).le (ofF32 f32One) &&
    pos r.rep && fin r.pres && fin r.freq

/-- A VALID stop word's token. -/
def stopTok (w : W) : Option Nat := if w.getLsbD 31 then some (bitsOf w 23 0) else none

/-! ## The model descriptor (Table 11-4) -/

structure ModelDesc where
  layers : Nat
  experts : Nat
  route : Nat
  aux : Bool
  dModel : Nat
  mlp : Nat
  vocab : Nat
  hkv : Nat
  g : Nat
  dsel : Nat
  eps : W
  cscale : W
  ropeBase : W
  swmask : BitVec 128
  window : Nat
  /-- Key/value heads this device holds (R300). -/
  ownKv : Nat
deriving DecidableEq, Repr

def descWord (d : List Byte) (off : Nat) : W := BitVec.ofNat 32 (ofLe ((d.drop off).take 4))

def decodeDesc (d : List Byte) : ModelDesc :=
  let w := descWord d
  { layers := bitsOf (w 0) 7 0, experts := bitsOf (w 0) 15 8, route := bitsOf (w 0) 19 16, aux := bitOf (w 0) 20,
    dModel := bitsOf (w 4) 17 0, mlp := bitsOf (w 8) 17 0, vocab := bitsOf (w 0xC) 18 0, hkv := bitsOf (w 0x10) 7 0,
    g := bitsOf (w 0x10) 15 8, dsel := bitsOf (w 0x10) 17 16, eps := w 0x14, cscale := w 0x18, ropeBase := w 0x1C,
    swmask := BitVec.ofNat 128 (ofLe ((d.drop 0x20).take 16)), window := bitsOf (w 0x30) 14 0,
    ownKv := bitsOf (w 0x10) 7 0 }

/-- Head dimension (DSEL of Table 08-2). -/
def ModelDesc.d (m : ModelDesc) : Nat := 64 * 2 ^ m.dsel
def ModelDesc.hq (m : ModelDesc) : Nat := m.g * m.hkv
/-- Query heads of this device (R300). -/
def ModelDesc.ownQ (m : ModelDesc) : Nat := m.g * m.ownKv
/-- Bytes of a layer block (R146), of the device's own heads (R300). -/
def ModelDesc.lb (m : ModelDesc) : Nat := 128 * m.d * m.ownKv
def ModelDesc.pageBytes (m : ModelDesc) : Nat := m.layers * m.lb
def ModelDesc.sliding (m : ModelDesc) (l : Nat) : Bool := m.swmask.getLsbD l

/-- Widths (in, out) of a projection; 8 is the vocabulary projection (Table 03-3). The auxiliary projection's widths are
in no field of Table 11-4: a constant of the configuration (log 4). -/
def ModelDesc.widths (m : ModelDesc) (p : Nat) : Nat × Nat :=
  match p with
  | 0 => (m.dModel, m.hq * m.d)
  | 1 => (m.dModel, m.hkv * m.d)
  | 2 => (m.dModel, m.hkv * m.d)
  | 3 => (m.hq * m.d, m.dModel)
  | 4 => (m.dModel, m.mlp)
  | 5 => (m.dModel, m.mlp)
  | 6 => (m.mlp, m.dModel)
  | 7 => (32 * Config.auxBlocks m.dModel m.mlp, Config.auxWidth m.dModel m.mlp)
  | _ => (m.dModel, m.vocab)

def State.model (s : State) (m : Nat) : Model := tget {} s.models m

/-- A model's descriptor, with the key/value heads of this device's shard. -/
def State.desc (s : State) (m : Nat) : ModelDesc :=
  let v := s.model m
  let d := decodeDesc v.desc
  if v.kvHeads = 0 then d else { d with ownKv := v.kvHeads }

/-- The key of a tensor: kind, layer and expert. -/
def rangeKey (kind layer expert : Nat) : Nat := kind * 2 ^ 16 + layer * 2 ^ 8 + expert

/-- The tensor kind of a projection, of the auxiliary one (7) and of the vocabulary (8) (Table 11-3). -/
def projKind (p : Nat) : Nat :=
  if p < 4 then 0x12 + p else if p < 7 then 0x13 + p else if p = 7 then 0x1A else 0x1D

/-- The rows of a projection's matrix that this device holds, from the first up to the last exclusive (R251, R300). -/
def State.ownRows (s : State) (model p layer expert : Nat) : Nat × Nat :=
  match tget? (s.model model).ranges (rangeKey (projKind p) (if p = 8 then 0 else layer) expert) with
  | some (a, n) => (a, a + n)
  | none => (0, ((s.desc model).widths p).2)

/-! ## Directory images (Table 03-1) -/

/-- The 16 words of an entry. -/
def DirEntry.words (e : DirEntry) : List W :=
  let st := match e.st with
    | .free => 0 | .loading => 1 | .ready => 2 | .staging => 3 | .staged => 4 | .retiring => 5
  let n (x : Nat) : W := BitVec.ofNat 32 x
  [n (st + 8 * b2n e.live + 16 * b2n e.rankord + 32 * b2n e.pooled + 64 * e.circ.toNat + 1024 * e.cpol.toNat
      + 4096 * e.fmt.toNat + 2 ^ 16 * e.tenant.toNat + 2 ^ 26 * b2n e.trained + 2 ^ 27 * b2n e.pub),
   e.postmark,
   n (e.model.toNat + 2 ^ 8 * e.exp.toNat + 2 ^ 16 * e.vrank.toNat + 2 ^ 24 * e.trainJob.toNat),
   n (e.ranks.toNat % 2 ^ 32), n (e.ranks.toNat / 2 ^ 32),
   n e.slotA.toNat, n e.slotB.toNat,
   n (e.slotPages.toNat + 2 ^ 24 * e.lastJob.toNat),
   n (e.layerMask.toNat % 2 ^ 32), n (e.layerMask.toNat / 2 ^ 32 % 2 ^ 32), n (e.layerMask.toNat / 2 ^ 64 % 2 ^ 32),
   n (e.layerMask.toNat / 2 ^ 96),
   n (e.lastStep.toNat % 2 ^ 32), n (e.lastStep.toNat / 2 ^ 32),
   n (e.pinA.toNat + 2 ^ 16 * e.pinB.toNat),
   e.pmFloor]

/-- The host fields of a command image as an entry in FREE state (R58: block fields are ignored). -/
def dirOfImage (img : List W) : DirEntry :=
  let w := imgWord img
  { pooled := bitOf (w 0) 5, circ := BitVec.ofNat 4 (bitsOf (w 0) 9 6), cpol := BitVec.ofNat 2 (bitsOf (w 0) 11 10),
    fmt := BitVec.ofNat 4 (bitsOf (w 0) 15 12), tenant := BitVec.ofNat 10 (bitsOf (w 0) 25 16), pub := bitOf (w 0) 27,
    postmark := w 1, model := BitVec.ofNat 8 (bitsOf (w 2) 7 0), exp := BitVec.ofNat 8 (bitsOf (w 2) 15 8),
    vrank := BitVec.ofNat 8 (bitsOf (w 2) 23 16), ranks := BitVec.ofNat 64 (imgPair img 3),
    slotA := BitVec.ofNat 28 (bitsOf (w 5) 27 0), slotB := BitVec.ofNat 28 (bitsOf (w 6) 27 0),
    layerMask := BitVec.ofNat 128 (imgPair img 8 + 2 ^ 64 * imgPair img 10) }

/-- v of projection p's rank field (R59). -/
def DirEntry.rankV (e : DirEntry) (p : Nat) : Nat := if p = 8 then e.vrank.toNat else bitsOf e.ranks (8 * p + 7) (8 * p)

/-- Rank of projection p (8: vocabulary). -/
def DirEntry.rank (e : DirEntry) (p : Nat) : Nat := 4 * e.rankV p

def DirEntry.liveSlot (e : DirEntry) : Nat := (if e.live then e.slotB else e.slotA).toNat * 4096
def DirEntry.idleSlot (e : DirEntry) : Nat := (if e.live then e.slotA else e.slotB).toNat * 4096

def State.entry (s : State) (a : Nat) : DirEntry := tget {} s.dir a

def State.setEntry (s : State) (a : Nat) (e : DirEntry) : State := { s with dir := tput s.dir a e }

/-- The owner word of the key slot an entry uses (R65, R252). -/
def DirEntry.ownerWord (e : DirEntry) : W :=
  if e.pub then ownerTenant 0 else if e.pooled then ownerCirc e.circ.toNat else ownerTenant e.tenant.toNat

/-! ## Slot layout (R63, R64) -/

/-- Bytes of a component row of width w in format code f. -/
def rowBytes (f w : Nat) : Nat :=
  match f with
  | 2 => 2 * w
  | 5 => ceilDiv w 2 + ceilDiv w 32
  | _ => w + ceilDiv w 32

/-- Bytes of a factor of r rows of width w. -/
def factorBytes (f r w : Nat) : Nat := ceilDiv (r * rowBytes f w) 256 * 256

/-- A factor pair of a slot: its place and shape. -/
structure FactorPair where
  layer : Nat
  proj : Nat
  expert : Nat
  rank : Nat
  i : Nat
  o : Nat
  offA : Nat
  offB : Nat
deriving DecidableEq, Repr

/-- The (layer, projection, expert) triples of a slot in the order of R64. -/
def DirEntry.pairKeys (e : DirEntry) (m : ModelDesc) : List (Nat × Nat × Nat) :=
  ((List.range 128).filter fun l => e.layerMask.getLsbD l).flatMap (fun l =>
    ((List.range 8).filter fun p => e.rankV p ≠ 0).flatMap fun p =>
      (List.range (if e.exp ≠ 0#8 ∧ 4 ≤ p ∧ p ≤ 6 then e.exp.toNat else 1)).map fun x => (l, p, x)) ++
  (if e.vrank = 0#8 then [] else [(m.layers, 8, 0)])

/-- The factor pairs of a slot, in order, with their offsets. -/
def DirEntry.pairs (e : DirEntry) (m : ModelDesc) : List FactorPair :=
  let f := e.fmt.toNat
  ((e.pairKeys m).foldl (fun (acc : List FactorPair × Nat) (l, p, x) =>
    let r := e.rank p
    let (i, o) := m.widths p
    let a := factorBytes f r i
    let b := factorBytes f r o
    (acc.1 ++ [{ layer := l, proj := p, expert := x, rank := r, i := i, o := o, offA := acc.2, offB := acc.2 + a }],
      acc.2 + a + b)) ([], 0)).1

/-- Bytes of a slot before the final padding. -/
def DirEntry.bytes (e : DirEntry) (m : ModelDesc) : Nat :=
  ((e.pairKeys m).map fun (_, p, _) =>
    factorBytes e.fmt.toNat (e.rank p) (m.widths p).1 + factorBytes e.fmt.toNat (e.rank p) (m.widths p).2).sum

/-- SLOT_PAGES. -/
def DirEntry.pagesFor (e : DirEntry) (m : ModelDesc) : Nat := ceilDiv (e.bytes m) 4096

/-- R82: leading components used at a rung, of a projection of rank r. -/
def rungRank (r rung : Nat) : Nat :=
  match rung with
  | 0 => r
  | 1 => r / 2
  | 2 => r / 4
  | _ => 0

end Sys2Proof.Machine
end

