-- ==== Sys2Proof/Machine/Cache.lean ====
section
/-! DEFINITION. The context cache: frames, page lists, token records, the prefix table, poste restante (07_context_cache.md),
and the CACHE page's commands. -/
namespace Sys2Proof.Machine

/-! ## The frame table (R150, Table 07-1) -/

structure Frame where
  st : Nat := 0
  full : Bool := false
  mixed : Bool := false
  circ : Bool := false
  owner : Nat := 0
  model : Nat := 0
  postmark : W := 0#32
  gen : W := 0#32
  adapter : Nat := 0
  refs : Nat := 0
deriving DecidableEq, Repr

def Frame.bytes (f : Frame) : List Byte :=
  leBytes 4 (f.st + 4 * b2n f.full + 8 * b2n f.mixed + 16 * b2n f.circ + 32 * f.owner + 2 ^ 15 * f.model) ++
  leBytes 4 f.postmark.toNat ++ leBytes 4 f.gen.toNat ++ leBytes 4 (f.adapter + 2 ^ 16 * f.refs)

def frameOf (bs : List Byte) : Frame :=
  let w (i : Nat) : W := BitVec.ofNat 32 (ofLe ((bs.drop (4 * i)).take 4))
  { st := bitsOf (w 0) 1 0, full := bitOf (w 0) 2, mixed := bitOf (w 0) 3, circ := bitOf (w 0) 4,
    owner := bitsOf (w 0) 14 5, model := bitsOf (w 0) 22 15, postmark := w 1, gen := w 2,
    adapter := bitsOf (w 3) 15 0, refs := bitsOf (w 3) 31 16 }

def State.ftabAt (s : State) (f : Nat) : Nat := bitsOf (s.rd pgCache 0x064) 27 0 * 4096 + 16 * f

def State.frame (s : State) (f : Nat) : Frame := frameOf (s.peek kControl none (s.ftabAt f) 16).data

def State.setFrame (s : State) (f : Nat) (v : Frame) : State := (s.poke kControl none (s.ftabAt f) v.bytes).1

/-- A write made for the request in a slot; a fault fails the request's rows at its next boundary (R272). -/
def State.pokeFor (s : State) (q kind : Nat) (need : Option Nat) (a : Nat) (bs : List Byte) : State :=
  let (t, bad) := s.poke kind need a bs
  if bad then t.setSlot q { t.slot q with memBad := true } else t

/-- A frame's entry written for the request in a slot. -/
def State.setFrameFor (s : State) (q f : Nat) (v : Frame) : State := s.pokeFor q kControl none (s.ftabAt f) v.bytes

/-- A frame's entry with a holder less; at none it is FREE (R150). -/
def Frame.dropped (v : Frame) : Frame := if v.refs ≤ 1 then { v with st := 0, refs := 0 } else { v with refs := v.refs - 1 }

/-- A frame loses a holder. -/
def State.dropHolder (s : State) (f : Nat) : State := s.setFrame f (s.frame f).dropped

/-- A frame loses the request in slot q as a holder. -/
def State.dropHolderFor (s : State) (q f : Nat) : State := s.setFrameFor q f (s.frame f).dropped

/-- A frame gains a holder for the request in slot q and is SHARED (R150). -/
def State.addHolder (s : State) (q f : Nat) : State :=
  let v := s.frame f
  s.setFrameFor q f { v with st := 2, refs := v.refs + 1 }

/-- The key slot of a frame's SCOPE and OWNER (R151). -/
def State.frameSlot (s : State) (v : Frame) : Option Nat :=
  if v.circ then s.circSlot (v.owner % 16) else s.tenantSlot v.owner

/-- The lowest-numbered FREE frame of a pool that is not quarantined (R153, R281). -/
def State.freeFrame (s : State) (p : Nat) : Option Nat :=
  ((List.range (s.pool p).count).map fun i => (s.pool p).first + i).find? fun f =>
    (s.frame f).st == 0 && !s.quarantine.contains f

def State.freeCount (s : State) (p : Nat) : Nat :=
  (((List.range (s.pool p).count).map fun i => (s.pool p).first + i).filter fun f =>
    (s.frame f).st == 0 && !s.quarantine.contains f).length

/-- Frames of a pool whose only holder is their own prefix-table entry (R165). -/
def State.evictable (s : State) (p : Nat) : Nat :=
  (s.prefixes.filter fun (_, w) => (s.pool p).has w.frame.toNat && (s.frame w.frame.toNat).refs == 1).length

def State.available (s : State) (p : Nat) : Nat := s.freeCount p + s.evictable p

/-! ## Page lists (R149) and the translation caches (R154) -/

def State.listAt (s : State) (q i : Nat) : Nat := bitsOf (s.rd pgCache 0x060) 27 0 * 4096 + 131072 * q + 4 * i

def State.listEntry (s : State) (q i : Nat) : W :=
  BitVec.ofNat 32 (ofLe (s.peek kControl none (s.listAt q i) 4).data)

def entryFrame (w : W) : Nat := bitsOf w 19 0
def entryValid (w : W) : Bool := w.getLsbD 20
def entryStale (w : W) : Bool := w.getLsbD 21
def mkEntry (f : Nat) (valid stale : Bool) : W := BitVec.ofNat 32 (f + 2 ^ 20 * b2n valid + 2 ^ 21 * b2n stale)

/-- The frame that holds page i of a slot. -/
def State.pageFrame (s : State) (q i : Nat) : Option Nat :=
  let w := s.listEntry q i
  if entryValid w then some (entryFrame w) else none

def tcKey (slice q i : Nat) : Nat := 2 ^ 27 * slice + 2 ^ 15 * q + i

/-- Pages of a slot whose list entry is not zero, in increasing number. -/
def State.listPages (s : State) (q : Nat) : List Nat :=
  let b := s.listAt q 0
  ((s.mem.filter fun (a, _) => b ≤ a && a < b + 131072).map fun (a, _) => (a - b) / 4).dedup

/-- A page list entry changes, and its translation goes from every slice's cache (R154); PAGES follows. -/
def State.setListEntry (s : State) (q i : Nat) (w : W) : State :=
  let s := s.pokeFor q kControl none (s.listAt q i) (leBytes 4 w.toNat)
  let s := { s with tcache := (List.range 4).foldl (fun t k => tdel t (tcKey k q i)) s.tcache }
  s.setSlot q { s.slot q with pages := BitVec.ofNat 16 (s.listPages q).length }

/-- A slot's page list releases page i: its frame drops a holder. -/
def State.dropPage (s : State) (q i : Nat) : State :=
  let w := s.listEntry q i
  if entryValid w || entryStale w then
    (if (s.frame (entryFrame w)).st == 3 then s else s.dropHolderFor q (entryFrame w)).setListEntry q i 0#32
  else s

/-- Every page of a slot is released (R26 stage 3); a frame in transit is freed on its acknowledgement (R170). -/
def State.releasePages (s : State) (q : Nat) : State := (s.listPages q).foldl (fun s i => s.dropPage q i) s

/-- The stale frames whose pages have new frames lose their holder (R158). -/
def State.dropStale (s : State) (q : Nat) : State :=
  let s := (s.slot q).staleFrames.foldl (fun (s : State) f => s.dropHolderFor q f) s
  s.setSlot q { s.slot q with staleFrames := [] }

/-! ## Token records (R151) -/

def State.tokAt (s : State) (f t : Nat) : Nat := bitsOf (s.rd pgCache 0x068) 27 0 * 4096 + 256 * f + 4 * t

/-- Word t of a frame's token record. -/
def State.tokWord (s : State) (f t : Nat) : W :=
  BitVec.ofNat 32 (ofLe (s.peek kTokens (s.frameSlot (s.frame f)) (s.tokAt f t) 4).data)

/-- The 256 bytes of a frame's token record. -/
def State.tokRecord (s : State) (f : Nat) : MemRes := s.peek kTokens (s.frameSlot (s.frame f)) (s.tokAt f 0) 256

/-- Word t of a frame's token record written for the request in a slot. -/
def State.setTokWord (s : State) (q f t tok : Nat) : State :=
  s.pokeFor q kTokens (s.frameSlot (s.frame f)) (s.tokAt f t) (leBytes 4 tok)

/-- The token at position p of a slot's sequence, from its frames. -/
def State.seqTok (s : State) (q p : Nat) : Nat :=
  let w := s.listEntry q (p / 64)
  bitsOf (s.tokWord (entryFrame w) (p % 64)) 23 0

/-! ## Sequence headers (R152) -/

def State.hdrAt (s : State) (q : Nat) : Nat := bitsOf (s.rd pgCache 0x060) 27 0 * 4096 + 0x20000000 + 64 * q

/-- The 64 bytes of a header: GEN_CARRIED; LAST_TOK, CHAIN_OK and the spilled mark; CHAIN; CHAINED; the pause count, the park
time and the number of parcels of poste restante. R152 names the fields and no layout: this one is the model's (DESIGN CHOICE,
log 129). -/
def Slot.hdrBytes (v : Slot) : List Byte :=
  leBytes 4 v.genCarried.toNat ++
    leBytes 4 (v.lastTok.toNat + 2 ^ 24 * b2n v.chainOk + 2 ^ 25 * b2n v.parkAt.isSome + 2 ^ 26 * b2n v.spilled) ++
    leBytes 8 v.chain.toNat ++ leBytes 4 v.chained ++ leBytes 4 v.pauseCount ++ leBytes 8 ((v.parkAt.map (·.toNat)).getD 0) ++
    leBytes 4 v.parcels.length ++ zeroBytes 28

/-- The fields of a slot that a formation takes from its header. -/
def Slot.ofHdr (v : Slot) (bs : List Byte) : Slot :=
  let w (i : Nat) : W := BitVec.ofNat 32 (ofLe ((bs.drop (4 * i)).take 4))
  { v with
    genCarried := w 0, lastTok := (w 1).setWidth 24, chainOk := (w 1).getLsbD 24
    parkAt := if (w 1).getLsbD 25 then some (BitVec.ofNat 64 (ofLe ((bs.drop 24).take 8))) else none
    spilled := (w 1).getLsbD 26, pauseCount := (w 5).toNat
    chain := BitVec.ofNat 64 (ofLe ((bs.drop 8).take 8)), chained := (w 4).toNat }

/-- The header of a slot's request is written. -/
def State.storeHdr (s : State) (q : Nat) : State := s.pokeFor q kControl none (s.hdrAt q) (s.slot q).hdrBytes

/-- A change of the poste restante state of a request that has run goes to its header (R152). -/
def State.keepHdr (s : State) (q : Nat) : State := if (s.slot q).started then s.storeHdr q else s

/-! ## Owner keys and chain hashes (R159, R160) -/

/-- The owner key of a request (Table 07-2). -/
def State.ownerKey (s : State) (r : Req) : BitVec 16 :=
  if r.shareCirc then BitVec.ofNat 16 (0x8000 + (s.entry r.adapter).circ.toNat) else BitVec.ofNat 16 r.tenant

/-- The chain hash of a block: its owner key, model, adapter, postmark, generation, predecessor and 64 tokens. -/
def State.chainHash (s : State) (key : BitVec 16) (model adapter : Nat) (pm gen : W) (h : BitVec 64)
    (toks : List Nat) : BitVec 64 :=
  sipHash s.sipKey (leBytes 2 key.toNat ++ leBytes 1 model ++ [0#8] ++ leBytes 2 adapter ++ [0#8, 0#8] ++
    leBytes 4 (if adapter = 0 then 0 else pm.toNat) ++ leBytes 4 gen.toNat ++ leBytes 8 h.toNat ++
    toks.flatMap (fun t => leBytes 4 (t % 2 ^ 24)))

/-! ## The prefix table (R161 to R164) -/

/-- Ways of a set, most recently used last in stamp order. -/
def State.waysOf (s : State) (set : Nat) : List (Nat × PrefixWay) := s.prefixes.filter fun (k, _) => k / 8 == set

/-- A removed way drops its references. -/
def State.dropWay (s : State) (w : PrefixWay) : State :=
  let s := s.dropHolder w.frame.toNat
  if w.first then s else s.dropHolder w.prev.toNat

/-- A way is removed and its references dropped. -/
def State.removeWay (s : State) (k : Nat) : State :=
  match tget? s.prefixes k with
  | none => s
  | some w => ({ s with prefixes := tdel s.prefixes k }).dropWay w

/-- Every way that meets a condition is removed (R164). -/
def State.removeWays (s : State) (p : PrefixWay → Bool) : State :=
  ((s.prefixes.filter fun (_, w) => p w).map (·.2)).foldl (fun s w => s.dropWay w)
    { s with prefixes := s.prefixes.filter fun (_, w) => !p w }

/-- An uncorrectable read at an address inside a frame takes the frame's entry out (R164). -/
def State.frameWays (s : State) (a : Nat) : State :=
  match s.frameAt a with
  | some f => s.removeWays fun w => w.frame.toNat == f
  | none => s

/-- A way becomes the most recent of its set. -/
def State.stampWay (s : State) (k : Nat) : State :=
  match tget? s.prefixes k with
  | none => s
  | some w => { s with prefixes := tput s.prefixes k { w with stamp := s.stamps + 1 }, stamps := s.stamps + 1 }

/-- The least recently used way of a set that meets a condition. -/
def State.lruWay (s : State) (set : Nat) (p : PrefixWay → Bool) : Option Nat :=
  (((s.waysOf set).filter fun (_, w) => p w).foldl (fun (best : Option (Nat × Nat)) (k, w) =>
    match best with
    | none => some (k, w.stamp)
    | some (_, st) => if w.stamp < st then some (k, w.stamp) else best) none).map (·.1)

/-- The way equal to a candidate but for its stamp. -/
def State.sameWay (s : State) (set : Nat) (c : PrefixWay) : Option Nat :=
  ((s.waysOf set).find? fun (_, w) =>
    w.tag == c.tag && w.first == c.first && w.prev == c.prev && w.owner == c.owner && w.model == c.model &&
      w.adapter == c.adapter && w.postmark == c.postmark && w.gen == c.gen).map (·.1)

/-- An entry is inserted at a way for the request in slot q: its holders are added and the frames are SHARED (R161, R163). REFS already at 65,535 wraps in
its 16 bits: no rule says what an insertion does there (DESIGN CHOICE, log 142). -/
def State.putWay (s : State) (q k : Nat) (c : PrefixWay) : State :=
  let s := { s with prefixes := tput s.prefixes k { c with stamp := s.stamps + 1 }, stamps := s.stamps + 1 }
  let s := s.addHolder q c.frame.toNat
  let s := if c.first then s else s.addHolder q c.prev.toNat
  s.inc pgCache 0x218

/-- R163: a block of the request in slot q is offered. Answers whether the request's CHAIN_OK stays. -/
def State.insertWay (s : State) (q set : Nat) (c : PrefixWay) : State × Bool :=
  match s.sameWay set c with
  | some _ => (s, true)
  | none =>
    match (List.range 8).find? (fun i => (tget? s.prefixes (8 * set + i)).isNone) with
    | some i => (s.putWay q (8 * set + i) c, true)
    | none =>
      match s.lruWay set (fun w => (s.frame w.frame.toNat).refs == 1) with
      | some k => (((s.removeWay k).inc pgCache 0x220).putWay q k c, true)
      | none => (s, false)

/-- R166: one set of the sweep: the least recently used entry of the pool with REFS = 1 goes. -/
def State.sweepSet (s : State) (p set : Nat) : State × Bool :=
  match s.lruWay set (fun w => (s.pool p).has w.frame.toNat && (s.frame w.frame.toNat).refs == 1) with
  | some k => ((s.removeWay k).inc pgCache 0x220, true)
  | none => (s, false)

/-- R166: the sweep over `fuel` sets from CACHE_EVICT_PTR, `idle` sets in a row having removed nothing. -/
def sweepGo (p need : Nat) : Nat → Nat → State → State
  | 0, _, s => s
  | fuel + 1, idle, s =>
    if need ≤ s.freeCount p || 16384 ≤ idle then s
    else
      let (t, r) := s.sweepSet p s.evictPtr.toNat
      sweepGo p need fuel (if r then 0 else idle + 1) { t with evictPtr := s.evictPtr + 1#14 }

/-- The eviction sweep of a pool for `need` FREE frames. Each removal allows one more turn, so the fuel is enough. -/
def State.sweep (s : State) (p need : Nat) : State := sweepGo p need (16384 * (s.prefixes.length + 1)) 0 s

/-! ## Poste restante (R168) -/

def State.prBase (s : State) : Nat := s.rd64 pgCache 0x070
def State.prSize (s : State) : Nat := (s.rd pgCache 0x078).toNat

/-- A run of granules is free. -/
def State.granulesFree (s : State) (g n : Nat) : Bool :=
  g + n ≤ s.prSize && s.granules.all (fun (a, k) => a + k ≤ g || g + n ≤ a) &&
    s.lostGranules.all (fun a => a < g || g + n ≤ a)

/-- The lowest run of n free granules: it starts at 0 or just after a granule in use. -/
def State.findGranules (s : State) (n : Nat) : Option Nat :=
  (((0 :: s.granules.map fun (a, k) => a + k) ++ s.lostGranules.map (· + 1)).filter fun g => s.granulesFree g n).min?

def State.takeGranules (s : State) (g n : Nat) : State := { s with granules := s.granules ++ [(g, n)] }

def State.freeGranules (s : State) (g n : Nat) : State := { s with granules := s.granules.erase (g, n) }

def State.prFree (s : State) : Nat :=
  ((List.range s.prSize).filter fun g => s.granulesFree g 1).length

/-! ## PM_FLOOR (R74) -/

/-- Postmarks that something still holds for an entry. -/
def State.heldPostmarks (s : State) (a : Nat) : List W :=
  ((s.slots.filter fun (q, v) =>
    v.started && v.pendingEnd.isNone && v.st != .idle && v.st != .posted && v.st != .ended &&
      (s.req q).adapter == a).map fun (_, v) => v.pmCarried) ++
  ((s.prefixes.filter fun (_, w) => w.adapter.toNat == a).map fun (_, w) => w.postmark)

/-- PM_FLOOR of an entry recomputed; it only moves later. -/
def State.refloor (s : State) (a : Nat) : State :=
  match tget? s.dir a with
  | none => s
  | some e =>
    if e.st = .free then s
    else
      let lo := (s.heldPostmarks a).foldl (fun m p => if earlierThan p m then p else m) e.postmark
      if laterThan lo e.pmFloor then s.setEntry a { e with pmFloor := lo } else s

/-! ## Ends outside a step (R139) -/

/-- An end is decided for a slot: its out-of-step record is due. -/
def State.queueEnd (s : State) (q : Nat) (r : EndRec) : State :=
  match s.slotJob q with
  | none => s
  | some j =>
    let s := s.setSlot q { s.slot q with pendingEnd := some r }
    s.setJob j { s.job j with outQ := (s.job j).outQ ++ [BitVec.ofNat 12 q] }

/-- What a paused request holds in poste restante goes: granules of acknowledged parcels at once, the others on their
acknowledgement (R170); its frames in the stacks drop a holder. -/
def State.dropParked (s : State) (q : Nat) : State :=
  let v := s.slot q
  let s := (v.parcels.filter (·.acked)).foldl (fun s p => s.freeGranules p.granule p.count) s
  let s := { s with orphans := s.orphans ++ ((v.parcels.filter fun (p : Parcel) => !p.acked).map fun (p : Parcel) => (q, p)) }
  let s := s.setSlot q { s.slot q with parcels := [], frameless := false }
  (s.dropStale q).releasePages q

/-! ## Commands of the CACHE page -/

/-- EXPIRED (R170). -/
def expireSlot (s : State) (q : Nat) : State :=
  let v := s.slot q
  let r := s.req q
  match v.parkAt with
  | none => s
  | some t =>
    if v.st = .paused ∧ !v.spilled ∧ v.pendingEnd = none ∧ v.cmd ≠ 3#3 ∧ t.toNat + r.pauseTtl ≤ s.lcount.toNat then
      let s := s.dropParked q
      let s := s.queueEnd q { reason := 0x0D#8 }
      let s := (s.inc pgCache 0x240).raise pgCache 3
      s.refloor r.adapter
    else s

/-- EXPIRED (R170): the expiry of a parked request. -/
def execExpired (slot : BitVec 12) (s : State) : Host.Outcome State Fault Refusal :=
  if !s.serves (.expired slot) then .next s else
  let t := expireSlot s slot.toNat
  .next { s with
    mem := t.mem, uncorr := t.uncorr, tcache := t.tcache, slots := t.slots, jobs := t.jobs, granules := t.granules, orphans := t.orphans,
    ctrs := t.ctrs, hdrs := t.hdrs, regs := t.regs, dir := t.dir }

/-- CACHE_FLUSH (R164): an owner key's entries go; its register keeps the key. -/
def execCacheFlush (owner : BitVec 16) (s : State) : Host.Outcome State Fault Refusal :=
  if !s.serves (.cacheFlush owner) then .next s else
  let t := (s.wr pgCache 0x058 (owner.setWidth 32)).removeWays fun w => w.owner == owner
  .next { s with
    mem := t.mem, uncorr := t.uncorr, prefixes := t.prefixes, ctrs := t.ctrs, hdrs := t.hdrs, regs := t.regs }

/-- An enable of pool p with a given first word is legal (Table 07-6, R147). -/
def State.poolLegal (s : State) (p : Nat) : Bool :=
  let a := s.pool p
  a.units ≠ 0 && a.first + a.count ≤ 2 ^ 20 &&
    (List.range 8).all fun k => k == p || (let b := s.pool k
      !b.en || a.count = 0 || b.count = 0 || a.first + a.count ≤ b.first || b.first + b.count ≤ a.first)

/-- The region check of R272 on the base of the page lists with their headers, of the frame table and of the token records:
the area R149, R150 or R151 gives lies within one region of its kind. R272 gives a failed check no outcome: the write is
ignored and ERR_COUNT advances, as R148 has it for a write it does not accept (DEDUCED, log 130). -/
def State.baseFits (s : State) (off : Nat) (v : W) : Bool :=
  let a := bitsOf v 27 0 * 4096
  match off with
  | 0x060 => s.inKind kControl a (0x20000000 + 64 * 4096)
  | 0x064 => s.inKind kControl a (16 * 2 ^ 20)
  | 0x068 => s.inKind kTokens a (256 * 2 ^ 20)
  | _ => true

/-- A write of a pool or base register (R148, R272, Tables 07-6 and 07-7). -/
def poolWrite (s : State) (off : Nat) (v : W) : State :=
  if s.unit pgCache ≠ .off then s.errInc pgCache
  else if 0x100 ≤ off ∧ off < 0x180 ∧ off % 16 = 0 then
    let p := (off - 0x100) / 16
    let old := s.rd pgCache off
    let new := mergeBits 0x8FFFFFFF#32 old v
    if v.getLsbD 31 ∧ !s.poolLegal p then
      (s.wr pgCache off (mergeBits 0x0FFFFFFF#32 old v)).errInc pgCache
    else s.wr pgCache off new
  else if !s.baseFits off v then s.errInc pgCache
  else if 0x180 ≤ off ∧ off < 0x200 then
    let old := s.rd pgCache off
    let bad (j : Nat) : Bool := let f := bitsOf v (4 * j + 3) (4 * j); 8 ≤ f && f ≤ 14
    let new := (List.range 8).foldl (fun w j => if bad j then w else setField w (4 * j) 4 (bitsOf v (4 * j + 3) (4 * j))) old
    let s := s.wr pgCache off new
    if (List.range 8).any bad then s.errInc pgCache else s
  else
    match regInfo pgCache off with
    | some i => s.wr pgCache off (mergeBits i.rw (s.rd pgCache off) v)
    | none => s

/-- The registers R148 names. -/
def isPoolReg (off : Nat) : Bool :=
  (0x060 ≤ off && off ≤ 0x068) || (0x070 ≤ off && off ≤ 0x078) || (0x100 ≤ off && off < 0x200)

end Sys2Proof.Machine
end

