-- ==== Sys2Proof/Machine/Directory.lean ====
section
/-! DEFINITION. The adapter directory's commands (03_adapter_directory.md, R56 to R74). -/
namespace Sys2Proof.Machine

/-! ## Circulars (Tables 10-11 and 10-12) -/

def State.poolCfg (s : State) (c : Nat) : W := tget 0#32 s.circ (65 * c)
def State.seat (s : State) (c j : Nat) : W := tget 0#32 s.circ (65 * c + 1 + j)

/-- Tenant t is a member of circular c: some VALID seat holds it. -/
def State.member (s : State) (c t : Nat) : Bool :=
  (List.range 64).any fun j => (s.seat c j).getLsbD 31 && bitsOf (s.seat c j) 9 0 == t

/-- MEMBERS: VALID seats. -/
def State.members (s : State) (c : Nat) : Nat :=
  ((List.range 64).filter fun j => (s.seat c j).getLsbD 31).length

/-! ## Results and checks -/

def DirState.code : DirState → Nat
  | .free => 0
  | .loading => 1
  | .ready => 2
  | .staging => 3
  | .staged => 4
  | .retiring => 5

/-- A directory command ends: CODE and STATE are reported, refusals counted, DONE raised (Table 03-8). -/
def State.dirDone (s : State) (id code : Nat) : State :=
  let s := s.setFld pgDir 0x044 0 4 code
  let s := s.setFld pgDir 0x044 6 3 (s.entry id).st.code
  let s := if code = 0 then s else s.inc pgDir 0x050
  s.raise pgDir 0

/-- DIR_CMD holds the command's ID and OP (Table 03-7). -/
def State.dirCmd (s : State) (id op : Nat) : State :=
  (s.setFld pgDir 0x040 0 16 id).setFld pgDir 0x040 16 4 op

/-- The checks every command makes first (R68); while TRAINED, STAGE, PUBLISH and DISCARD answer DIR_TRAINED. -/
def State.dirCheck (s : State) (id : Nat) (byTrained : Bool) (allowed : DirState → Bool) : Nat :=
  if !s.running pgDir then 0xA
  else if id = 0 then 8
  else if byTrained ∧ (s.entry id).trained then 7
  else if !allowed (s.entry id).st then 1
  else 0

/-- The image registers DIR_IMG0 to DIR_IMG15. -/
def State.dirImg (s : State) : List W := (List.range 16).map fun i => s.rawReg (regAt pgDir (0x080 + 4 * i))

/-- Whenever an entry becomes FREE every field is cleared and FREED is raised (R68). -/
def State.freeEntry (s : State) (id : Nat) : State := ({ s with dir := tdel s.dir id }).raise pgDir 1

/-- Intakes of an adapter that run or wait stop and write nothing more (R258). -/
def State.stopIntake (s : State) (id : Nat) : State :=
  { s with intakes := s.intakes.map fun a => if a.adapter.toNat = id then { a with stopped := true } else a }

/-- A RETIRING entry with both pins 0 becomes FREE (R68). -/
def State.reapEntry (s : State) (id : Nat) : State :=
  let e := s.entry id
  if e.st = .retiring ∧ e.pinA = 0#16 ∧ e.pinB = 0#16 then s.freeEntry id else s

/-! ## CREATE (R60, R65) -/

/-- Reserved fields of a command image (Table 03-1). -/
def imgReserved (img : List W) : Bool :=
  bitsOf (imgWord img 0) 31 28 ≠ 0 || bitsOf (imgWord img 5) 31 28 ≠ 0 || bitsOf (imgWord img 6) 31 28 ≠ 0

/-- R60, check 1. -/
def imgMalformed (img : List W) : Bool :=
  let e := dirOfImage img
  imgReserved img || (List.range 9).any (fun p => 64 < e.rankV p) ||
    !([2, 3, 4, 5, 6].contains e.fmt.toNat) || (e.pub && e.tenant ≠ 0#10) || (!e.pooled && e.circ ≠ 0#4) ||
    1 < e.cpol.toNat

/-- R60, check 4. -/
def DirEntry.badForModel (e : DirEntry) (m : ModelDesc) : Bool :=
  (e.rankV 7 ≠ 0 && !m.aux) || (List.range 128).any (fun l => m.layers ≤ l && e.layerMask.getLsbD l) ||
    (e.exp ≠ 0#8 && (m.experts = 0 || e.exp.toNat ≠ m.experts))

def overlap (a n b k : Nat) : Bool := n ≠ 0 && k ≠ 0 && a < b + k && b < a + n

/-- R65: the key slot an entry's regions must be encrypted under. -/
def State.entryKey (s : State) (e : DirEntry) : Option Nat :=
  if e.pub then some 0 else s.slotOfOwner e.ownerWord

/-- One slot lies wholly in an adapter region encrypted under the owner's key slot. -/
def State.slotRegion (s : State) (e : DirEntry) (a n : Nat) : Bool :=
  match s.regionOf a n with
  | some r => r.kind == kAdapter && r.enc && s.entryKey e == some r.key
  | none => false

/-- R65. -/
def State.slotsOk (s : State) (id : Nat) (e : DirEntry) : Bool :=
  let n := e.slotPages.toNat * 4096
  let a := e.slotA.toNat * 4096
  let b := e.slotB.toNat * 4096
  n = 0 || (s.slotRegion e a n && s.slotRegion e b n && !overlap a n b n &&
    s.dir.all fun (k, o) => k = id || o.st = .free ||
      (let m := o.slotPages.toNat * 4096
       !overlap a n (o.slotA.toNat * 4096) m && !overlap a n (o.slotB.toNat * 4096) m &&
       !overlap b n (o.slotA.toNat * 4096) m && !overlap b n (o.slotB.toNat * 4096) m))

/-- The code of CREATE's own checks, and the entry it makes (R60). SLOT_PAGES keeps the low 24 bits of the page count: R64 gives
no outcome for a slot of 2^24 or more pages (DESIGN CHOICE, log 143). -/
def State.createCheck (s : State) (id : Nat) (img : List W) : Nat × DirEntry :=
  let e := dirOfImage img
  let m := s.desc e.model.toNat
  let e := { e with st := .loading, open_ := true, pmFloor := e.postmark,
                    slotPages := BitVec.ofNat 24 (e.pagesFor m) }
  if imgMalformed img then (2, e)
  else if e.pooled ∧ !s.part.hasTrain then (9, e)
  else if !(s.model e.model.toNat).loaded then (3, e)
  else if e.badForModel m then (2, e)
  else if e.pooled ∧ !s.member e.circ.toNat e.tenant.toNat then (5, e)
  else if !s.slotsOk id e then (4, e)
  else (0, e)

def dirCreateOp (s : State) (id : Nat) : State :=
  let s := s.dirCmd id 1
  let c := s.dirCheck id false (· == .free)
  if c ≠ 0 then s.dirDone id c
  else
    let (c, e) := s.createCheck id s.dirImg
    (if c = 0 then s.setEntry id e else s).dirDone id c

def execDirCreate (id : BitVec 16) (s : State) : Host.Outcome State Fault Refusal :=
  if !s.serves (.dirCreate id) then .next s else
  let t := dirCreateOp s id.toNat
  .next { s with dir := t.dir, regs := t.regs, hdrs := t.hdrs, ctrs := t.ctrs }

/-! ## The other commands (Tables 03-4 and 03-5) -/

def dirReadOp (s : State) (id : Nat) : State :=
  let s := s.dirCmd id 0
  let c := s.dirCheck id false fun _ => true
  if c ≠ 0 then s.dirDone id c
  else
    let s := (((s.entry id).words).zipIdx).foldl (fun s (w, i) => s.wr pgDir (0x080 + 4 * i) w) s
    s.dirDone id 0

def execDirRead (id : BitVec 16) (s : State) : Host.Outcome State Fault Refusal :=
  if !s.serves (.dirRead id) then .next s else
  let t := dirReadOp s id.toNat
  .next { s with regs := t.regs, hdrs := t.hdrs, ctrs := t.ctrs }

def dirStageOp (s : State) (id : Nat) : State :=
  let s := s.dirCmd id 2
  let c := s.dirCheck id true (· == .ready)
  if c ≠ 0 then s.dirDone id c
  else (s.setEntry id { s.entry id with st := .staging, open_ := true }).dirDone id 0

def execDirStage (id : BitVec 16) (s : State) : Host.Outcome State Fault Refusal :=
  if !s.serves (.dirStage id) then .next s else
  let t := dirStageOp s id.toNat
  .next { s with dir := t.dir, regs := t.regs, hdrs := t.hdrs, ctrs := t.ctrs }

/-- The span rule of R74: (POSTMARK + 1 − PM_FLOOR) mod 2^32 ≥ 2^31. -/
def DirEntry.spanBroken (e : DirEntry) : Bool := (e.postmark + 1#32 - e.pmFloor).getLsbD 31

/-- The flip of PUBLISH and of a commit sweep: the idle slot is live under the next postmark (R71, R237). -/
def DirEntry.flip (e : DirEntry) (rankord : Bool) : DirEntry :=
  { e with live := !e.live, postmark := e.postmark + 1#32, rankord := rankord }

def dirPublishOp (s : State) (id : Nat) : State :=
  let s := s.dirCmd id 3
  let c := s.dirCheck id true (· == .staged)
  let e := s.entry id
  if c ≠ 0 then s.dirDone id c
  else if e.spanBroken then (s.raise pgDir 3).dirDone id 6
  else (s.setEntry id { e.flip e.idleRankord with st := .ready, open_ := false }).dirDone id 0

def execDirPublish (id : BitVec 16) (s : State) : Host.Outcome State Fault Refusal :=
  if !s.serves (.dirPublish id) then .next s else
  let t := dirPublishOp s id.toNat
  .next { s with dir := t.dir, regs := t.regs, hdrs := t.hdrs, ctrs := t.ctrs }

def dirDiscardOp (s : State) (id : Nat) : State :=
  let s := s.dirCmd id 4
  let c := s.dirCheck id true fun st => st == .staging || st == .staged
  if c ≠ 0 then s.dirDone id c
  else ((s.stopIntake id).setEntry id { s.entry id with st := .ready, open_ := false }).dirDone id 0

def execDirDiscard (id : BitVec 16) (s : State) : Host.Outcome State Fault Refusal :=
  if !s.serves (.dirDiscard id) then .next s else
  let t := dirDiscardOp s id.toNat
  .next { s with dir := t.dir, intakes := t.intakes, regs := t.regs, hdrs := t.hdrs, ctrs := t.ctrs }

def dirRetireOp (s : State) (id : Nat) : State :=
  let s := s.dirCmd id 5
  let c := s.dirCheck id false (· != .free)
  if c ≠ 0 then s.dirDone id c
  else
    let e := s.entry id
    let s :=
      if e.st = .loading then (s.stopIntake id).freeEntry id
      else if e.st = .retiring then s
      else
        let s := (s.stopIntake id).setEntry id { e with st := .retiring, open_ := false }
        (s.removeWays fun w => w.adapter.toNat == id).reapEntry id
    s.dirDone id 0

def execDirRetire (id : BitVec 16) (s : State) : Host.Outcome State Fault Refusal :=
  if !s.serves (.dirRetire id) then .next s else
  let t := dirRetireOp s id.toNat
  .next { s with
    dir := t.dir, intakes := t.intakes, prefixes := t.prefixes, mem := t.mem, uncorr := t.uncorr,
    regs := t.regs, hdrs := t.hdrs, ctrs := t.ctrs }

def dirSetPolicyOp (s : State) (id : Nat) : State :=
  let s := s.dirCmd id 6
  let c := s.dirCheck id false fun st => st == .ready || st == .staging || st == .staged
  let cpol := bitsOf (imgWord s.dirImg 0) 11 10
  if c ≠ 0 then s.dirDone id c
  else if imgReserved s.dirImg ∨ 1 < cpol then s.dirDone id 2
  else (s.setEntry id { s.entry id with cpol := BitVec.ofNat 2 cpol }).dirDone id 0

def execDirSetPolicy (id : BitVec 16) (s : State) : Host.Outcome State Fault Refusal :=
  if !s.serves (.dirSetPolicy id) then .next s else
  let t := dirSetPolicyOp s id.toNat
  .next { s with dir := t.dir, regs := t.regs, hdrs := t.hdrs, ctrs := t.ctrs }

def dirFlushPrefixOp (s : State) (id : Nat) : State :=
  let s := s.dirCmd id 7
  let c := s.dirCheck id false (· != .free)
  if c ≠ 0 then s.dirDone id c
  else
    let pm := (s.entry id).postmark
    let s := s.removeWays fun w => w.adapter.toNat == id && w.postmark != pm
    (s.refloor id).dirDone id 0

def execDirFlushPrefix (id : BitVec 16) (s : State) : Host.Outcome State Fault Refusal :=
  if !s.serves (.dirFlushPrefix id) then .next s else
  let t := dirFlushPrefixOp s id.toNat
  .next { s with
    dir := t.dir, prefixes := t.prefixes, mem := t.mem, uncorr := t.uncorr,
    regs := t.regs, hdrs := t.hdrs, ctrs := t.ctrs }

/-- Where intake writes: slot A of a LOADING entry, else the idle slot (Table 03-4); and that slot's pin (R72). -/
def DirEntry.intakeSlot (e : DirEntry) : Nat := if e.st = .loading then e.slotA.toNat * 4096 else e.idleSlot

def DirEntry.intakePin (e : DirEntry) : BitVec 16 :=
  if e.st = .loading then e.pinA else if e.live then e.pinA else e.pinB

/-- The entry's intake-complete transition (Table 03-4). -/
def DirEntry.intakeDone (e : DirEntry) (rankord : Bool) : DirEntry :=
  match e.st with
  | .loading => { e with st := .ready, live := false, rankord := rankord, open_ := false }
  | .staging => { e with st := .staged, idleRankord := rankord, open_ := false }
  | _ => e

end Sys2Proof.Machine
end

