-- ==== Sys2Proof/Machine/Predict.lean ====
section
/-! DEFINITION. The step prediction of admission and the deadline monitor (09_scheduling.md R211, Table 09-4). -/
namespace Sys2Proof.Machine

/-- The rows of one request in a step to predict: consecutive positions from p0. -/
structure PGroup where
  slot : Nat
  p0 : Nat
  n : Nat
  /-- Decode and verification rows: one tile; else prefill tiles. -/
  gen : Bool
  /-- How many of its last rows draw a token. -/
  drawing : Nat
  adapter : Nat
  entry : DirEntry
  rung : Nat
deriving DecidableEq, Repr

/-- Bytes of a row of w elements in the declared X format. -/
def xBytes (fmt w : Nat) : Nat := if fmt = 2 then 2 * w else w + ceilDiv w 32

/-- The array passes of one layer of a row: projections in use, with how many experts each. -/
def ModelDesc.passes (m : ModelDesc) : List (Nat × Nat) :=
  let e := if m.experts = 0 then 1 else m.route
  [(0, 1), (1, 1), (2, 1), (3, 1), (4, e), (5, e), (6, e)] ++ (if m.aux then [(7, 1)] else [])

/-- Weights of one layer's matrices (all experts), and of the router. -/
def ModelDesc.layerWeights (m : ModelDesc) : Nat :=
  let e := if m.experts = 0 then 1 else m.experts
  ((m.passes.map fun (p, _) => (if 4 ≤ p ∧ p ≤ 6 then e else 1) * (m.widths p).2 * xBytes 3 (m.widths p).1).sum) +
    m.experts * xBytes 3 m.dModel

/-- Bytes of the base weights, the gains counted at 8.25 bits as the worked example of Table 09-5 counts them. -/
def ModelDesc.baseBytes (m : ModelDesc) : Nat :=
  m.layers * m.layerWeights + 2 * m.vocab * xBytes 3 m.dModel + (2 * m.layers + 1) * xBytes 3 m.dModel

/-- Bytes the feed lanes stream: every matrix but the input embedding. -/
def ModelDesc.feedBytes (m : ModelDesc) : Nat := m.layers * m.layerWeights + m.vocab * xBytes 3 m.dModel

/-- Positions a row at p sees in a layer (R175). -/
def ModelDesc.seen (m : ModelDesc) (l p : Nat) : Nat := if m.sliding l then min (p + 1) m.window else p + 1

/-- Positions seen by a row, summed over the layers. -/
def ModelDesc.seenAll (m : ModelDesc) (p : Nat) : Nat := ((List.range m.layers).map fun l => m.seen l p).sum

/-- Key and value bytes of a position in one layer. -/
def ModelDesc.kvLayer (m : ModelDesc) : Nat := 2 * m.hkv * m.d

/-- Last row of each attention tile of a group (Table 09-4, term B). -/
def PGroup.tileEnds (g : PGroup) (m : ModelDesc) : List Nat :=
  if g.n = 0 then []
  else if g.gen then [g.p0 + g.n - 1]
  else
    let w := max 1 (16384 / max 1 (m.g * m.d))
    (List.range (ceilDiv g.n w)).map fun k => g.p0 + min ((k + 1) * w) g.n - 1

/-- Factor bytes of an adapter at a rung: 1/2^g of the stored factors for g from 0 to 2, nothing for 3 (R76, R406). -/
def DirEntry.rungBytes (e : DirEntry) (m : ModelDesc) (rung : Nat) : Nat := if rung < 3 then e.bytes m / 2 ^ rung else 0

/-- Distinct adapters of the groups with the lowest rung among their rows. -/
def adapterRungs (gs : List PGroup) : List (Nat × DirEntry × Nat) :=
  gs.foldl (fun acc g =>
    if g.adapter = 0 ∨ g.n = 0 then acc
    else if acc.any (fun (a, _, _) => a == g.adapter) then
      acc.map fun (a, e, r) => if a = g.adapter then (a, e, min r g.rung) else (a, e, r)
    else acc ++ [(g.adapter, g.entry, g.rung)]) []

/-- Delta MACs of a row of an adapter at a rung; the vocabulary adapter's only when the row draws. -/
def deltaMacs (e : DirEntry) (m : ModelDesc) (rung : Nat) (draws : Bool) : Nat :=
  let per (p : Nat) : Nat :=
    let (i, o) := m.widths p
    rungRank (e.rank p) rung * (i + o) * (if 4 ≤ p ∧ p ≤ 6 ∧ m.experts ≠ 0 then m.route else 1)
  ((List.range m.layers).filter fun l => e.layerMask.getLsbD l).length * ((List.range 8).map per).sum +
    (if draws then per 8 else 0)

/-- Columns of a beat in the declared format: FP32 32, BF16 64. -/
def beatCols (code : Nat) : Nat := if code = 1 then 32 else 64

def State.slicePwr (s : State) (i : Nat) : SlicePwr := tget {} s.pwr i

/-- Arithmetic cycles in a local count of 10 ns at an operating point (R348). -/
def pointAcs (opp : Nat) : Nat :=
  match opp with
  | 0 => 30
  | 1 => 26
  | 2 => 22
  | _ => 16

/-- ADM_MACR at the operating points in force: the figure is that of 30 ac a local count on every slice (R211; DEDUCED, log
136: the other three figures are those of clocks that no operating point lowers). -/
def State.macRate (s : State) (macr : Nat) : Nat :=
  macr * ((List.range s.part.slices).map fun i => pointAcs (s.slicePwr i).opp.toNat).sum / (30 * s.part.slices)

/-- D of R211. The four figures are halved in IRZ-2F. -/
def State.predict (s : State) (model : Nat) (train : Bool) (gs : List PGroup) : Nat :=
  let m := s.desc model
  let xf := s.decl.xFmt.toNat
  let half (n : Nat) : Nat := if s.part = .irz2F then n / 2 else n
  let reg (off : Nat) : Nat := max 1 (half (s.rd pgAdm off).toNat)
  let dbl := if train then 2 else 1
  let rows := (gs.map (·.n)).sum
  let draws := (gs.map (·.drawing)).sum
  let kv := m.kvLayer
  let b := dbl * m.baseBytes +
    ((adapterRungs gs).map fun (_, e, r) => e.rungBytes m r).sum +
    (gs.map fun g => ((g.tileEnds m).map fun p => m.seenAll p * kv).sum).sum +
    rows * m.layers * kv + draws * 528384
  let xRow := m.layers * (((m.passes.map fun (p, n) => n * xBytes xf (m.widths p).1).sum) +
    (if m.experts = 0 then 0 else xBytes xf m.dModel))
  let dyRow := m.layers * ((m.passes.map fun (p, n) => n * xBytes xf (m.widths p).2).sum)
  let g := dbl * m.feedBytes + rows * xRow + draws * xBytes xf m.dModel + (if train then rows * dyRow else 0)
  let f := (gs.map fun p => ((List.range p.n).map fun i =>
    (if p.adapter = 0 then 0 else deltaMacs p.entry m p.rung (p.n - p.drawing ≤ i)) +
      m.hq * m.d * 2 * m.seenAll (p.p0 + i)).sum).sum
  let cols := beatCols s.decl.beat.toNat
  let z := rows * m.layers * (((m.passes.map fun (p, n) => n * ceilDiv (m.widths p).2 cols).sum) +
      (if m.experts = 0 then 0 else ceilDiv m.experts cols)) +
    draws * ceilDiv m.vocab 32
  (s.rd pgAdm 0x050).toNat +
    max (max (ceilDiv b (reg 0x044)) (ceilDiv g (reg 0x058))) (max (ceilDiv f (max 1 (s.macRate (reg 0x048)))) (ceilDiv z (reg 0x04C)))

end Sys2Proof.Machine
end

