-- ==== Sys2Proof/Machine/Jobs.lean ====
section
/-! DEFINITION. Job contexts and request slots: job commands, posting and its checks, slot commands, ends outside a step
and their records (06_steps.md R120 to R129, R139 to R141). -/
namespace Sys2Proof.Machine

/-! ## Job contexts (R120) -/

/-- A job command ends: STEP_JRESULT.CODE. -/
def State.jobDone (s : State) (code : Nat) : State := s.setFld pgStep 0x044 0 4 code

def State.jobCmd (s : State) (j op : Nat) : State := (s.setFld pgStep 0x040 0 8 j).setFld pgStep 0x040 8 4 op

def State.jobImg (s : State) : List W := (List.range 16).map fun i => s.rawReg (regAt pgStep (0x080 + 4 * i))

/-- The image of a job with STATE in bits [1:0]. -/
def Job.image (j : Job) : List W := (List.range 16).map fun i =>
  if i = 0 then setField (imgWord j.img 0) 0 2 j.st.toNat else imgWord j.img i

/-- The STEP unit serves: RUNNING, and the control area is good (R378). -/
def State.stepUp (s : State) : Bool := s.running pgStep && !s.tablesBad

/-! Train-mode fields (Table 10-1). -/

def Job.lsInit (j : Job) : Int := (BitVec.ofNat 8 (bitsOf (imgWord j.img 11) 7 0)).toInt
def Job.lsMin (j : Job) : Int := (BitVec.ofNat 8 (bitsOf (imgWord j.img 11) 15 8)).toInt
def Job.lsMax (j : Job) : Int := (BitVec.ofNat 8 (bitsOf (imgWord j.img 11) 23 16)).toInt
def Job.growRun (j : Job) : Nat := bitsOf (imgWord j.img 11) 31 24
def Job.ndev (j : Job) : Nat := bitsOf (imgWord j.img 12) 10 0
def Job.rank (j : Job) : Nat := bitsOf (imgWord j.img 12) 20 11
def Job.replayMax (j : Job) : Nat := bitsOf (imgWord j.img 12) 24 21
def Job.pooled (j : Job) : Bool := (imgWord j.img 12).getLsbD 25
def Job.circ (j : Job) : Nat := bitsOf (imgWord j.img 12) 29 26
def Job.actBase (j : Job) : Nat := bitsOf (imgWord j.img 13) 27 0 * 4096
def Job.actPages (j : Job) : Nat := bitsOf (imgWord j.img 14) 23 0
def Job.tenant (j : Job) : Nat := bitsOf (imgWord j.img 15) 9 0
def Job.beaconBase (j : Job) : Nat := bitsOf (imgWord j.img 15) 23 10

/-- Entry r of a job's rank table: the device, if VALID (R295). -/
def State.rankEntry (s : State) (j r : Nat) : Option Nat :=
  let w := tget 0#11 s.ranks (1024 * j + r)
  if w.getLsbD 10 then some (bitsOf w 9 0) else none

/-- LINK_CFG.DEVID. -/
def State.devid (s : State) : Nat := bitsOf (s.rd (pgLink 0) 0x080) 9 0

/-- R295: entries 0 to NDEV − 1 are VALID and distinct, and entry RANK is this device. -/
def State.rankTableOk (s : State) (j ndev rank : Nat) : Bool :=
  let ds := (List.range ndev).map fun r => s.rankEntry j r
  ds.all (·.isSome) && ds.dedup.length == ndev && s.rankEntry j rank == some s.devid

/-- The checks of an image that need no other state (Table 06-1). -/
def imageOk (j : Job) : Bool :=
  let w := imgWord j.img
  bitsOf (w 0) 31 18 = 0 && bitsOf (w 1) 31 17 = 0 && 1 ≤ j.slotPages && j.slotPages ≤ 256 &&
    j.slotBase + j.slotPages ≤ 256 && j.ringBase % 4096 = 0 && 8 ≤ j.ringLog2 && j.ringLog2 ≤ 20 &&
    bitsOf (w 4) 31 5 = 0 && 1 ≤ j.pfChunk && j.pfChunk ≤ 512 && bitsOf (w 5) 15 10 = 0 &&
    1 ≤ j.rowCap && j.rowCap ≤ 32768 && j.prodAddr % 4 = 0 &&
    (j.isTrain || (j.dropD = 0#32 && (List.range 5).all fun i => w (11 + i) = 0#32))

/-- The checks of a train-mode image (R219, R243, R295, R314, R382). -/
def State.trainImageOk (s : State) (id : Nat) (j : Job) : Bool :=
  let w := imgWord j.img
  j.lsInit ≥ -64 && j.lsInit ≤ 63 && j.lsMin ≤ j.lsInit && j.lsInit ≤ j.lsMax && 1 ≤ j.growRun &&
    1 ≤ j.ndev && j.ndev ≤ 1024 && j.rank < j.ndev && 1 ≤ j.replayMax && bitsOf (w 12) 31 30 = 0 &&
    (j.pooled || j.circ = 0) && (!j.pooled || j.ndev ≤ 64) && bitsOf (w 13) 31 28 = 0 && 1 ≤ j.actPages &&
    bitsOf (w 14) 31 24 = 0 && bitsOf (w 15) 31 24 = 0 && j.beaconBase % 16 = 0 && 1024 ≤ j.beaconBase &&
    (match s.regionOf j.actBase (j.actPages * 4096) with
      | some r => r.kind == kStaging && r.enc && s.tenantSlot j.tenant == some r.key
      | none => false) &&
    (j.ndev = 1 || s.rankTableOk id j.ndev j.rank) &&
    (s.jobs.all fun (k, o) => k = id || o.st = 0#2 || !o.isTrain || o.beaconBase ≠ j.beaconBase) &&
    (!j.pooled ||
      (j.ndev = s.members j.circ && ((List.range j.ndev).all fun k => (s.seat j.circ k).getLsbD 31) &&
        bitsOf (s.seat j.circ j.rank) 9 0 = j.tenant &&
        (List.range j.ndev).all fun k => k = j.rank ||
          s.slotOfOwner (ownerPair j.circ (min j.rank k) (max j.rank k)) == some (bitsOf (s.seat j.circ k) 19 10)))

/-- OPEN's MALFORMED check. A serve job of a sharded model has NDEV = NSHARDS and RANK = SHARD (R300). -/
def State.openOk (s : State) (id : Nat) (j : Job) : Bool :=
  let m := s.model j.model
  imageOk j && (!j.isTrain || s.trainImageOk id j) &&
    (j.isTrain || m.nshards.toNat ≤ 1 || s.rankTableOk id m.nshards.toNat (bitsOf (s.rd pgIntake 0x048) 9 0))

/-- KS of R223: the FP32 value nearest 2^32 ÷ (2^32 − DROP_D). -/
def dropKs (d : W) : W := toF32 (valDiv (.fin false 1 32) (.fin false (2 ^ 32 - d.toNat) 0))

/-- The code of OPEN, in the order of R120. -/
def State.openCode (s : State) (id : Nat) (j : Job) : Nat :=
  let m := s.model j.model
  if !s.openOk id j then 2
  else if j.isTrain ∧ !s.part.hasTrain then 5
  else if s.jobs.any (fun (k, o) => k ≠ id && o.st ≠ 0#2 &&
      o.slotBase < j.slotBase + j.slotPages && j.slotBase < o.slotBase + o.slotPages) then 3
  else if !m.loaded ∨ (j.isTrain ∧ (!m.transposed ∨ (1 < j.ndev ∧ 1 < m.nshards.toNat))) then 4
  else 0

def jobOpenOp (s : State) (id : Nat) : State :=
  let s := s.jobCmd id 1
  let old := s.job id
  if !s.stepUp then s.jobDone 6
  else if old.st ≠ 0#2 then s.jobDone 1
  else
    let j : Job := { img := s.jobImg }
    let c := s.openCode id j
    if c ≠ 0 then s.jobDone c
    else
      let j := { j with
        st := 1#2, next := BitVec.ofNat 64 j.firstStep, batchLo := old.batchLo, batchHi := old.batchHi,
        draftFrom := 16 * j.slotBase, grantBase := s.grants,
        train := { lsExp := BitVec.ofInt 8 j.lsInit, ks := dropKs j.dropD } }
      (s.setJob id j).jobDone 0

def execJobOpen (job : BitVec 8) (s : State) : Host.Outcome State Fault Refusal :=
  if !s.serves (.jobOpen job) then .next s else
  let t := jobOpenOp s job.toNat
  .next { s with jobs := t.jobs, regs := t.regs }

def jobReadOp (s : State) (id : Nat) : State :=
  let s := s.jobCmd id 0
  if !s.stepUp then s.jobDone 6
  else
    let s := (((s.job id).image).zipIdx).foldl (fun s (w, i) => s.wr pgStep (0x080 + 4 * i) w) s
    s.jobDone 0

def execJobRead (job : BitVec 8) (s : State) : Host.Outcome State Fault Refusal :=
  if !s.serves (.jobRead job) then .next s else
  let t := jobReadOp s job.toNat
  .next { s with regs := t.regs }

/-- The image with the fields UPDATE may change taken from the current one. -/
def updateMask (img cur : List W) : List W := (List.range 16).map fun i =>
  if i = 0 then mergeBits 0x3F3#32 (imgWord img 0) (imgWord cur 0)
  else if i = 5 then mergeBits 0xFFFF03FF#32 (imgWord img 5) (imgWord cur 5)
  else imgWord img i

def jobUpdateOp (s : State) (id : Nat) : State :=
  let s := s.jobCmd id 2
  let j := s.job id
  let new := s.jobImg
  if !s.stepUp then s.jobDone 6
  else if j.st ≠ 1#2 then s.jobDone 1
  else if updateMask new j.img ≠ updateMask j.img j.img ∨ !imageOk { j with img := new } then s.jobDone 2
  else (s.setJob id { j with img := new }).jobDone 0

def execJobUpdate (job : BitVec 8) (s : State) : Host.Outcome State Fault Refusal :=
  if !s.serves (.jobUpdate job) then .next s else
  let t := jobUpdateOp s job.toNat
  .next { s with jobs := t.jobs, regs := t.regs }

def jobCloseOp (s : State) (id : Nat) : State :=
  let s := s.jobCmd id 3
  let j := s.job id
  if !s.stepUp then s.jobDone 6
  else if j.st ≠ 1#2 then s.jobDone 1
  else (s.setJob id { j with st := 2#2, closeAt := s.lcount }).jobDone 0

def execJobClose (job : BitVec 8) (s : State) : Host.Outcome State Fault Refusal :=
  if !s.serves (.jobClose job) then .next s else
  let t := jobCloseOp s job.toNat
  .next { s with jobs := t.jobs, regs := t.regs }

/-! ## Ends -/

def ReqState.code : ReqState → Nat
  | .idle => 0 | .posted => 1 | .held => 2 | .prefill => 3 | .decode => 4 | .refill => 5 | .paused => 6 | .ended => 7

/-- The request has not ended and no end of it is decided. -/
def Slot.alive (v : Slot) : Bool := v.st != .idle && v.st != .ended && v.pendingEnd.isNone

/-- PREFILL, DECODE or REFILL. -/
def Slot.active (v : Slot) : Bool := v.st == .prefill || v.st == .decode || v.st == .refill

/-- A request reaches ENDED: REASON is written, OWN and CMD are cleared (R124, R129). A slot whose entry was lost returns
to IDLE (R328). -/
def Slot.end_ (v : Slot) (r : EndRec) : Slot :=
  if v.lost then {}
  else
    { v with
      st := .ended, own := false, cmd := 0#3, reason := r.reason, endCause := r.cause, cancelSeen := r.cancelSeen,
      pendingEnd := none, parkAt := none, spilled := false, resumed := false }

/-- R141: the due time of a request's next token; it counts from the acceptance, so a posted request has none. -/
def State.due (s : State) (q : Nat) : Option Nat :=
  let v := s.slot q
  let r := s.req q
  if r.train ∨ v.st = .posted then none
  else if v.delivered = 0#22 then (if r.firstDl = 0 then none else some (v.acceptAt.toNat + r.firstDl))
  else if r.nextDl = 0 then none else some (v.lastDeliver.toNat + r.nextDl)

/-- Every request of a closing job that has not ended ends JOB_ENDED, in increasing slot number (R122). -/
def State.closeEnds (s : State) (j : Nat) : State :=
  ((s.jobSlots j).filter fun q => (s.slot q).alive).foldl (fun s q =>
    (s.dropParked q).queueEnd q { reason := 0x0F#8 }) s

/-- A closing job with no step in flight and no end record due becomes FREE, releasing the adapters it holds (R122, R220). -/
def State.finishClose (s : State) (j : Nat) : State :=
  let v := s.job j
  if v.st = 2#2 ∧ v.cur.isNone ∧ v.outQ = [] ∧ (s.jobSlots j).all (fun q => !(s.slot q).alive) then
    { s with
      jobs := tput s.jobs j { v with st := 0#2 }
      dir := s.dir.map fun (a, e) =>
        if e.trained ∧ e.trainJob.toNat = j then (a, { e with trained := false, trainJob := 0#8 }) else (a, e) }
  else s

/-- JOB_CLOSE_ENDS (R122). -/
def execJobCloseEnds (job : BitVec 8) (s : State) : Host.Outcome State Fault Refusal :=
  if !s.serves (.jobCloseEnds job) then .next s else
  let j := job.toNat
  let t := if (s.job j).st = 2#2 ∧ (s.job j).cur.isNone then (s.closeEnds j).finishClose j else s
  .next { s with
    jobs := t.jobs, slots := t.slots, dir := t.dir, mem := t.mem, uncorr := t.uncorr, tcache := t.tcache,
    granules := t.granules, orphans := t.orphans, ctrs := t.ctrs, hdrs := t.hdrs, regs := t.regs }

/-! ## Posting and slot commands (R124, R129) -/

/-- A write of SLOT_CTRL.CMD. -/
def State.slotCmd (s : State) (q c : Nat) : State :=
  let v := s.slot q
  let set (c : Nat) : State := s.setSlot q { v with cmd := BitVec.ofNat 3 c }
  if v.cmd = 1#3 then s
  else if c = 0 then set 0
  else if (c = 1 ∧ v.st ≠ .idle ∧ v.st ≠ .ended) ∨ ((c = 2 ∨ c = 4) ∧ v.active) ∨ (c = 3 ∧ v.st = .paused) then set c
  else (set 0).errInc pgStep

/-- POST (R124): a new posting starts the block's part of the slot afresh. -/
def postSlot (s : State) (q c : Nat) : State :=
  if (s.slot q).own then s.slotCmd q c
  else
    let s := s.setSlot q { own := true, st := .posted, ownAt := s.lcount }
    (s.slotCmd q c).inc pgStep 0x0C0

def execPost (slot : BitVec 12) (cmd : BitVec 3) (s : State) : Host.Outcome State Fault Refusal :=
  if !s.serves (.post slot cmd) then .next s else
  let t := postSlot s slot.toNat cmd.toNat
  .next { s with slots := t.slots, hdrs := t.hdrs, ctrs := t.ctrs, regs := t.regs }

/-- CANCEL (R140). -/
def execCancel (slot : BitVec 12) (s : State) : Host.Outcome State Fault Refusal :=
  if !s.serves (.cancel slot) then .next s else
  let t := s.slotCmd slot.toNat 1
  .next { s with slots := t.slots, hdrs := t.hdrs }

/-- PAUSE (R129). -/
def execPause (slot : BitVec 12) (s : State) : Host.Outcome State Fault Refusal :=
  if !s.serves (.pause slot) then .next s else
  let t := s.slotCmd slot.toNat 2
  .next { s with slots := t.slots, hdrs := t.hdrs }

/-- RESUME (R129). -/
def execResume (slot : BitVec 12) (s : State) : Host.Outcome State Fault Refusal :=
  if !s.serves (.resume slot) then .next s else
  let t := s.slotCmd slot.toNat 3
  .next { s with slots := t.slots, hdrs := t.hdrs }

/-- TRIM (R129). -/
def execTrim (slot : BitVec 12) (s : State) : Host.Outcome State Fault Refusal :=
  if !s.serves (.trim slot) then .next s else
  let t := s.slotCmd slot.toNat 4
  .next { s with slots := t.slots, hdrs := t.hdrs }

/-! ## The posting checks (R126) -/

/-- Check 4: the record is well formed (R127, R186, R221). -/
def State.recordOk (s : State) (q : Nat) (j : Job) : Bool :=
  let r := s.req q
  let m := s.desc j.model
  recMasks.all (fun (off, mask) => s.recWord q off &&& ~~~mask = 0#32) &&
    1 ≤ r.promptLen && r.promptLen ≤ 2097151 && 1 ≤ r.maxNew && r.maxNew ≤ 2097151 &&
    (!r.train || r.promptLen ≤ j.rowCap) && r.probs ≠ 3 && (r.probs = 0 || r.outAddr ≠ 0) &&
    (r.probs ≠ 2 || 1 ≤ r.outRing) && (r.force || (r.frung = 0 && r.rungAddr = 0)) &&
    (r.train || r.labelAddr = 0) && (!r.train || r.probs = 0) &&
    (!r.shareCirc || (s.entry r.adapter).pooled) &&
    r.stops.all (fun w => match stopTok w with | some t => t < m.vocab | none => true) && r.samplingOk

/-- Check 5: the AES-CMAC over bytes 0x20 to 0xEF under the tenant's key slot (R318). -/
def State.recordAuth (s : State) (q : Nat) : Bool :=
  match (s.tenantSlot (s.req q).tenant).bind (tget? s.keys) with
  | none => false
  | some k => cmac (keyBytes k.dcmc) (s.recBytes q 0x20 0xF0) == s.recBytes q 0xF0 0x100

/-- Check 7 (R66, R221): the adapter's entry is FREE or RETIRING, or the request may name it. A train request that names no
adapter is held to R221's test of its TENANT, where R126 lets id 0 pass (the model's choice, log 165). -/
def State.adapterAllowed (s : State) (q jn : Nat) : Bool :=
  let r := s.req q
  let j := s.job jn
  let e := s.entry r.adapter
  let gone := r.adapter ≠ 0 && (e.st = .free || e.st = .retiring)
  gone || ((!j.isTrain || r.tenant = j.tenant) &&
    (r.adapter = 0 ||
      ((e.tenant.toNat = r.tenant || e.pub || (e.pooled && s.member e.circ.toNat r.tenant)) &&
        (!j.isTrain || (e.trained && e.trainJob.toNat = jn)))))

/-- Check 8 (R69). -/
def State.adapterGone (s : State) (q : Nat) : Bool :=
  let a := (s.req q).adapter
  a ≠ 0 && ((s.entry a).st = .free || (s.entry a).st = .retiring)

def State.groupLc (s : State) (g : Nat) : Bool := (s.rd pgSched (0x100 + 4 * g)).getLsbD 1

/-- The first test of R214: the request can never fit its model's pool. -/
def State.neverFits (s : State) (q model : Nat) : Bool :=
  let r := s.req q
  match s.modelPool model with
  | none => false
  | some p =>
    (s.pool p).count < ceilDiv (min (r.promptLen + r.maxNew) 2097152) 64 + bitsOf (s.rd pgCache 0x044) 20 0

/-- The third test of R214: the first deadline cannot be met. -/
def State.deadlineLost (s : State) (q jn : Nat) : Bool :=
  let r := s.req q
  let j := s.job jn
  let n := min (64 * j.pfChunk) r.promptLen
  let d := s.predict j.model j.isTrain
    [{ slot := q, p0 := 0, n := n, gen := false, drawing := if n = r.promptLen ∧ !j.isTrain then 1 else 0,
       adapter := r.adapter, entry := s.entry r.adapter, rung := 3 }]
  !j.isTrain && s.groupLc j.group && r.firstDl ≠ 0 && r.firstDl < ceilDiv r.promptLen (64 * j.pfChunk) * d

/-- The tests of R214. -/
def State.admRefuses (s : State) (q jn : Nat) : Bool :=
  s.neverFits q (s.job jn).model ||
    (bitsOf (s.rd pgAdm 0x054) 12 0 ≤ ((s.jobSlots jn).filter fun k => (s.slot k).st == .held).length) ||
    s.deadlineLost q jn

/-- The REASON of the first check that fails (R126); 0 when none does. -/
def State.postReason (s : State) (q : Nat) : Nat :=
  if !s.stepUp then 0x0C
  else match s.slotJob q with
    | none => 0x0B
    | some jn =>
      let j := s.job jn
      let r := s.req q
      if j.st ≠ 1#2 then 0x0A
      else if !s.recordOk q j then 0x07
      else if !s.recordAuth q then 0x08
      else if r.train ≠ j.isTrain then 0x09
      else if !s.adapterAllowed q jn then 0x04
      else if s.adapterGone q then 0x05
      else if r.adapter ≠ 0 ∧ (s.entry r.adapter).model.toNat ≠ j.model then 0x06
      else if s.running pgAdm ∧ s.admRefuses q jn then 0x0E
      else 0

/-- POSTING_CHECK (R126): the request enters HELD, or is refused. -/
def postingCheckOp (s : State) (q : Nat) : State :=
  let v := s.slot q
  if v.st ≠ .posted ∨ v.pendingEnd.isSome then s
  else
    let c := s.postReason q
    if c = 0 then s.setSlot q { v with st := .held, acceptAt := s.lcount, admLater := !s.running pgAdm,
                                       fitLater := (match s.slotJob q with | some j => (s.modelPool (s.job j).model).isNone | none => false) }
    else
      let s := (s.inc pgStep 0x0C8).raise pgStep 0
      let s := if c = 0x08 then (s.inc pgSec 0x208).raise pgSec 1 else s
      let s := if c = 0x0E then s.inc pgAdm 0x218 else s
      let r : EndRec := { reason := BitVec.ofNat 8 c }
      if c = 0x0C ∨ c = 0x0B ∨ c = 0x0A then s.setSlot q ((s.slot q).end_ r) else s.queueEnd q r

def execPostingCheck (slot : BitVec 12) (s : State) : Host.Outcome State Fault Refusal :=
  if !s.serves (.postingCheck slot) then .next s else
  let t := postingCheckOp s slot.toNat
  .next { s with slots := t.slots, jobs := t.jobs, hdrs := t.hdrs, ctrs := t.ctrs, regs := t.regs }

/-! ## Records (R136, R137, R139) -/

/-- Free room of a job's ring. -/
def Job.room (j : Job) : Int := 2 ^ j.ringLog2 - (j.prod - j.cons).toNat

/-- Entries reserved by a step that has not yet written its records. -/
def Job.reserved (j : Job) : Nat := match j.cur with | some st => st.ring | none => 0

/-- STEP_JSTATUS.RING_WAIT (Table 06-12): a step waits for ring room, or an out-of-step record does. -/
def Job.waitsRoom (j : Job) : Bool := j.ringWait || (j.outQ != [] && decide (j.room ≤ j.reserved))

/-- A record goes to the ring; STEP_JPROD advances (R136). -/
def State.ringWrite (s : State) (jn : Nat) (bs : List Byte) : State :=
  let j := s.job jn
  (s.hostWrite (j.ringBase + 128 * (j.prod.toNat % 2 ^ j.ringLog2)) bs).setJob jn { j with prod := j.prod + 1#32 }

/-- The producer mirror is updated. -/
def State.mirror (s : State) (jn : Nat) : State :=
  s.hostWrite (s.job jn).prodAddr (leBytes 4 (s.job jn).prod.toNat)

/-- What a request record reports beside what the slot holds. -/
structure RecInfo where
  kind : Nat
  state : Nat
  final : Bool
  reason : Nat
  late : Bool := false
  cancelSeen : Bool := false
  rung : Nat := 0
  forced : Bool := false
  cause : Nat := 0
  toks : List Nat := []
  kused : Nat := 0
  step : Nat
  postmark : W
  rows : Nat := 0
  due : Option Nat
deriving DecidableEq, Repr

/-- Output encrypted under a tenant's HCTR key; zeros where the slot is empty (R317). -/
def State.encOut (s : State) (tenant lo : Nat) (hi : Nat → Nat) (off : Nat) (bs : List Byte) : List Byte :=
  match (s.tenantSlot tenant).bind (tget? s.keys) with
  | none => zeroBytes bs.length
  | some k => ctrXor k.hctr lo hi off bs

/-- A request record of 128 bytes (Table 06-6). -/
def State.record (s : State) (jn q : Nat) (i : RecInfo) : List Byte :=
  let v := s.slot q
  let r := s.req q
  let toks := (i.toks ++ List.replicate 16 0).take 16
  let blk (n : Nat) : Nat := 0x10 + 2 ^ 8 * jn + 2 ^ 16 * q + 2 ^ 28 * n + 2 ^ 32 * (i.step % 2 ^ 32)
  leBytes 4 (i.kind + 2 ^ 8 * jn + 2 ^ 16 * q) ++
  leBytes 4 (i.state + 2 ^ 4 * i.reason + 2 ^ 12 * b2n i.final + 2 ^ 13 * b2n i.late + 2 ^ 14 * b2n i.cancelSeen +
    2 ^ 15 * b2n v.tallyFull + 2 ^ 16 * i.rung + 2 ^ 18 * b2n i.forced + 2 ^ 19 * i.cause +
    2 ^ 21 * i.toks.length + 2 ^ 26 * i.kused) ++
  leBytes 8 i.step ++ leBytes 8 r.reqId ++ leBytes 4 v.len.toNat ++ leBytes 4 v.delivered.toNat ++
  leBytes 4 (r.tenant + 2 ^ 10 * r.adapter) ++ leBytes 4 i.postmark.toNat ++ leBytes 4 i.rows ++ leBytes 4 0 ++
  leBytes 8 s.lcount.toNat ++ leBytes 8 (match i.due with | some d => d | none => 2 ^ 64 - 1) ++
  s.encOut r.tenant r.reqId blk 0 (toks.flatMap fun t => leBytes 4 t)

/-- OUT_OF_STEP_RECORD (R139): the oldest end due is written, and its slot reaches ENDED. -/
def outOfStepOp (s : State) (jn : Nat) : State :=
  let j := s.job jn
  match j.outQ with
  | [] => s
  | q12 :: rest =>
    let q := q12.toNat
    if !s.running pgHost then s
    else if j.room ≤ j.reserved then
      if j.ringWait ∨ j.outWait then s.setJob jn { j with outWait := true }
      else (s.setJob jn { j with outWait := true }).raise pgStep 2
    else
      match (s.slot q).pendingEnd with
      | none => s.setJob jn { j with outQ := rest }
      | some r =>
        let bs := s.record jn q
          { kind := 2, state := 7, final := true, reason := r.reason.toNat, cancelSeen := r.cancelSeen,
            rung := (s.slot q).rung.toNat, step := j.next.toNat, postmark := (s.slot q).pmCarried, due := s.due q }
        let s := s.setJob jn { j with outQ := rest, outWait := j.outWait && rest != [] }
        let s := (s.ringWrite jn bs).mirror jn
        let s := s.setSlot q ((s.slot q).end_ r)
        s.finishClose jn

def execOutOfStepRecord (job : BitVec 8) (s : State) : Host.Outcome State Fault Refusal :=
  if !s.serves (.outOfStepRecord job) then .next s else
  let t := outOfStepOp s job.toNat
  .next { s with
    jobs := t.jobs, slots := t.slots, host := t.host, writeQ := t.writeQ, hostWrites := t.hostWrites, dir := t.dir, hdrs := t.hdrs, ctrs := t.ctrs, regs := t.regs }

/-- JCONS_WRITE (R136). -/
def execJconsWrite (job : BitVec 8) (value : W) (s : State) : Host.Outcome State Fault Refusal :=
  if !s.serves (.jconsWrite job value) then .next s else
  let j := s.job job.toNat
  let t := if ({ j with cons := value } : Job).room < 0 then s.errInc pgStep
    else s.setJob job.toNat { j with cons := value }
  .next { s with jobs := t.jobs, hdrs := t.hdrs }

/-! ## Ends taken outside a step (R140, R141, R171) -/

/-- CANCEL_TAKEN (R140). -/
def cancelTakenOp (s : State) (q : Nat) : State :=
  let v := s.slot q
  let noStep : Bool := match s.slotJob q with | some j => (s.job j).cur.isNone | none => false
  if v.cmd = 1#3 ∧ v.pendingEnd.isNone ∧ (v.st = .held ∨ v.st = .paused ∨ (v.active ∧ noStep)) then
    (s.dropParked q).queueEnd q { reason := 0x02#8, cancelSeen := true }
  else s

def execCancelTaken (slot : BitVec 12) (s : State) : Host.Outcome State Fault Refusal :=
  if !s.serves (.cancelTaken slot) then .next s else
  let t := cancelTakenOp s slot.toNat
  .next { s with
    jobs := t.jobs, slots := t.slots, mem := t.mem, uncorr := t.uncorr, tcache := t.tcache, granules := t.granules, orphans := t.orphans,
    ctrs := t.ctrs, hdrs := t.hdrs, regs := t.regs }

/-- RESUME_TAKEN (R171). -/
def execResumeTaken (slot : BitVec 12) (s : State) : Host.Outcome State Fault Refusal :=
  if !s.serves (.resumeTaken slot) then .next s else
  let q := slot.toNat
  let v := s.slot q
  let t := if v.st = .paused ∧ v.cmd = 3#3 ∧ v.pendingEnd.isNone then
      (s.setSlot q { v with st := .held, cmd := 0#3, resumed := true, spilled := false }).keepHdr q
    else s
  .next { s with slots := t.slots, mem := t.mem, uncorr := t.uncorr, hdrs := t.hdrs, ctrs := t.ctrs, regs := t.regs }

/-- DEADLINE (R141): a HARD request whose due time has passed while it is HELD. -/
def deadlineOp (s : State) (q : Nat) : State :=
  let v := s.slot q
  let late : Bool := match s.due q with | some d => decide (d < s.lcount.toNat) | none => false
  if v.st = .held ∧ v.pendingEnd.isNone ∧ (s.req q).hard ∧ late then
    (s.dropParked q).queueEnd q { reason := 0x03#8 }
  else s

def execDeadlineEnd (slot : BitVec 12) (s : State) : Host.Outcome State Fault Refusal :=
  if !s.serves (.deadlineEnd slot) then .next s else
  let t := deadlineOp s slot.toNat
  .next { s with
    jobs := t.jobs, slots := t.slots, mem := t.mem, uncorr := t.uncorr, tcache := t.tcache, granules := t.granules, orphans := t.orphans,
    ctrs := t.ctrs, hdrs := t.hdrs, regs := t.regs }

end Sys2Proof.Machine
end

