-- ==== Sys2Proof/Machine/Events.lean ====
section
/-! DEFINITION. The commands of the common header, of the counters, of the beacons and of the direct windows
(17_registers.md R370 to R375, R381, R382; 18_ports.md R388). -/
namespace Sys2Proof.Machine

/-- EVT_PEND_CLEAR (R370): the bits written 1 leave EVT_RAW, enabled or not. -/
def execEvtPendClear (page : BitVec 9) (mask : W) (s : State) : Host.Outcome State Fault Refusal :=
  if !s.serves (.evtPendClear page mask) then .next s else
  let p := page.toNat
  let h := s.hdr p
  let t := if pageHeader p ∧ s.pageLive p then s.setHdr p { h with raw := h.raw &&& ~~~mask } else s
  .next { s with hdrs := t.hdrs }

/-- ERR_COUNT_CLR (R371). -/
def execErrCountClr (page : BitVec 9) (s : State) : Host.Outcome State Fault Refusal :=
  if !s.serves (.errCountClr page) then .next s else
  let p := page.toNat
  let t := if pageHeader p ∧ s.pageLive p then s.setHdr p { s.hdr p with err := 0#16 } else s
  .next { s with hdrs := t.hdrs }

/-- The 64-bit counters of R375, by the address of their LO half: PWR_LCOUNT, SCHED_CAP, SCHED_USEDg, STEP_JNEXT of
the selected job and TRAIN_LSTEP. -/
def State.wide (s : State) (job : Option Nat) (addr : Nat) : Option (BitVec 64) :=
  let off := addr % 0x1000
  if addr = regAt pgPwr 0x078 then some s.lcount
  else if addr = regAt pgSched 0x050 then some s.cap
  else if addr / 0x1000 = pgSched ∧ 0x400 ≤ off ∧ off < 0x600 ∧ off % 8 = 0 then
    some (tget 0#64 s.used ((off - 0x400) / 8))
  else if addr = regAt pgStep 0x050 then some (s.job (job.getD (bitsOf (s.rd pgStep 0x048) 7 0))).next
  else if addr = regAt pgTrain 0x060 then some (s.job (bitsOf (s.rd pgTrain 0x048) 7 0)).train.lstep
  else none

/-- A read of the LO half of a pair: the high half is latched (R374, R375). -/
def State.readLo (s : State) (job : Option Nat) (addr : Nat) : State :=
  if isCounterLo addr then
    let c := s.ctr addr
    { s with
      ctrs := tput s.ctrs addr { c with latchHi := (c.value >>> 32).setWidth 16, latchSat := c.sat }
      rdata := c.value.setWidth 32 }
  else match s.wide job addr with
    | some v => { s with latches := tput s.latches addr ((v >>> 32).setWidth 32), rdata := v.setWidth 32 }
    | none => s

/-- COUNTER_SAT_CLEAR (R374): value and SAT become 0; the latch stays. -/
def execCounterSatClear (addr : BitVec 21) (s : State) : Host.Outcome State Fault Refusal :=
  if !s.serves (.counterSatClear addr) then .next s else
  let a := addr.toNat / 8 * 8
  let t := if isCounterLo a ∧ s.pageLive (a / 0x1000) then
      { s with ctrs := tput s.ctrs a { s.ctr a with value := 0#48, sat := false } }
    else s
  .next { s with ctrs := t.ctrs }

/-! ## Beacons (R382) -/

def State.beacon (s : State) (b : Nat) : Beacon := tget {} s.beacons b

/-- An operation that is not accepted is counted and raised. -/
def State.beaconErr (s : State) : State := (s.inc pgTop 0x208).raise pgTop 2

def State.beaconArm (s : State) (b : Nat) (arg : BitVec 24) : State :=
  let v := s.beacon b
  if v.count = 0#24 ∧ arg ≠ 0#24 then { s with beacons := tput s.beacons b { v with count := arg } } else s.beaconErr

def State.beaconArrive (s : State) (b : Nat) (arg : BitVec 24) : State :=
  let v := s.beacon b
  if arg ≠ 0#24 ∧ arg.toNat ≤ v.count.toNat then
    let c := v.count - arg
    { s with beacons := tput s.beacons b { count := c, gen := if c = 0#24 then v.gen + 1#6 else v.gen } }
  else s.beaconErr

/-- ARM (R382). -/
def execBeaconArm (beacon : BitVec 14) (arg : BitVec 24) (s : State) : Host.Outcome State Fault Refusal :=
  if !s.serves (.beaconArm beacon arg) then .next s else
  let t := s.beaconArm beacon.toNat arg
  .next { s with beacons := t.beacons, ctrs := t.ctrs, hdrs := t.hdrs, regs := t.regs }

/-- ARRIVE (R382). -/
def execBeaconArrive (beacon : BitVec 14) (arg : BitVec 24) (s : State) : Host.Outcome State Fault Refusal :=
  if !s.serves (.beaconArrive beacon arg) then .next s else
  let t := s.beaconArrive beacon.toNat arg
  .next { s with beacons := t.beacons, ctrs := t.ctrs, hdrs := t.hdrs, regs := t.regs }

/-- CLEAR (R382): COUNT becomes 0, GEN stays. -/
def execBeaconClear (beacon : BitVec 14) (s : State) : Host.Outcome State Fault Refusal :=
  if !s.serves (.beaconClear beacon) then .next s else
  .next { s with beacons := tput s.beacons beacon.toNat { s.beacon beacon.toNat with count := 0#24 } }

/-! ## Direct windows (R276, R381, R388) -/

/-- R276: a direct write is accepted only within a BASE region that overlaps no loaded model's area and no intake staging. -/
def State.directWriteOk (s : State) (a n : Nat) : Bool :=
  match s.regionOf a n with
  | none => false
  | some r =>
    r.kind == kBase &&
      (s.models.all fun (_, m) => !m.loaded || !overlap r.base r.size (m.dst.toNat * 4096) (m.units.toNat * 4096)) &&
      !overlap r.base r.size (bitsOf (s.rd pgIntake 0x060) 27 0 * 4096) ((s.rd pgIntake 0x064).toNat * 4096)

/-- An uncorrectable direct read: its status, its record, and the prefix entry of a frame it lies in (Table 12-4 class 6;
R164, R276). -/
def State.directUnc (s : State) (a n : Nat) : State :=
  (((s.setFld pgHost 0x054 0 1 1).uncRange a n 6).frameWays a)

/-- A refused direct access: at or above top it faults as R272 describes, else MEM_REGFAULT advances (R276). -/
def State.directRefuse (s : State) (a : Nat) : State :=
  let s := s.setFld pgHost 0x054 1 1 1
  if s.top ≤ a then s.regFault else s.count (regAt 0x030 0x300) 1

/-- ADDR of the register port's direct window, and its advance by 4. -/
def State.daccAddr (s : State) : Nat := (s.rd pgHost 0x048).toNat + 2 ^ 32 * bitsOf (s.rd pgHost 0x04C) 7 0

def State.daccStep (s : State) (a : Nat) : State :=
  let b := (a + 4) % 2 ^ 40
  ((s.wr pgHost 0x048 (BitVec.ofNat 32 b)).wr pgHost 0x04C (BitVec.ofNat 32 (b / 2 ^ 32))).inc pgHost 0x228

/-- DACC_READ (R381). -/
def daccReadOp (s : State) : State :=
  let a := s.daccAddr
  if s.top ≤ a then { (s.directRefuse a).daccStep a with rdata := 0#32 }
  else
    let v := BitVec.ofNat 32 (ofLe (s.stored a 4))
    let t := if s.uncIn a 4 then s.directUnc a 4 else s
    { t.daccStep a with rdata := v }

def execDaccRead (s : State) : Host.Outcome State Fault Refusal :=
  if !s.serves .daccRead then .next s.shut else
  let t := daccReadOp s
  .next { s with
    mem := t.mem, uncorr := t.uncorr, prefixes := t.prefixes, regs := t.regs, hdrs := t.hdrs, ctrs := t.ctrs, ret := t.ret,
    log := t.log, logOvf := t.logOvf, stk := t.stk, rdata := t.rdata }

/-- DACC_WRITE (R381). -/
def daccWriteOp (s : State) (v : W) : State :=
  let a := s.daccAddr
  (if a + 4 ≤ s.top ∧ s.directWriteOk a 4 then (s.store_ a (leBytes 4 v.toNat)).wrCount a 4 else s.directRefuse a).daccStep a

def execDaccWrite (value : W) (s : State) : Host.Outcome State Fault Refusal :=
  if !s.serves (.daccWrite value) then .next s else
  let t := daccWriteOp s value
  .next { s with
    mem := t.mem, uncorr := t.uncorr, regs := t.regs, hdrs := t.hdrs, ctrs := t.ctrs, ret := t.ret }

/-- The bytes a host-port write enables, written one by one. -/
def storeEnabled (s : State) (a : Nat) (be : BitVec 128) (bs : List Byte) : State :=
  (bs.zipIdx).foldl (fun s (b, i) => if be.getLsbD i then s.store_ (a + i) [b] else s) s

/-- A direct-window request is answered (R388, Table 18-15). -/
def State.answerHw (s : State) (r : HwReq) : State :=
  let a := r.addr.toNat / 128 * 128
  if !r.priv ∨ !(s.rd pgHost 0x040).getLsbD 16 ∨ !s.running pgHost ∨ s.top < a + 128 ∨
      (r.we ∧ (!s.directWriteOk a 128 ∨ s.stackFault (s.stackOf a))) then
    { s.directRefuse a with hwData := 0#1024, hwStat := 2#2 }
  else if r.we then { (storeEnabled s a r.be (leBytes 128 r.data.toNat)).wrCount a 128 with hwData := 0#1024, hwStat := 0#2 }
  else
    let v := BitVec.ofNat 1024 (ofLe (s.stored a 128))
    if s.uncIn a 128 then
      { s.directUnc a 128 with hwData := v, hwStat := 1#2 }
    else { s with hwData := v, hwStat := 0#2 }

/-- A request waits while the stack of its address trains (R287). -/
def State.hwWaits (s : State) (r : HwReq) : Bool := (s.stack (s.stackOf r.addr.toNat)).retrain

/-- DIRECT_WINDOW_REQUEST (R388): answered in request order; one behind a request that waits, waits too. At most 16 are
outstanding, and a further one is not accepted. -/
def directWindowOp (s : State) (we priv : Bool) (addr : BitVec 40) (be : BitVec 128) (data : BitVec 1024) : State :=
  let r : HwReq := { we := we, priv := priv, addr := addr, be := be, data := data }
  if s.hwQ = [] ∧ !s.hwWaits r then s.answerHw r
  else if s.hwQ.length < 16 then { s with hwQ := s.hwQ ++ [r] } else s

/-- The oldest waiting request is answered once its stack has trained. -/
def State.pumpHw (s : State) : State :=
  match s.hwQ with
  | [] => s
  | r :: rest => if s.hwWaits r then s else State.answerHw { s with hwQ := rest } r

def execDirectWindowRequest (we priv : Bool) (addr : BitVec 40) (be : BitVec 128) (data : BitVec 1024) (s : State) :
    Host.Outcome State Fault Refusal :=
  if !s.serves (.directWindowRequest we priv addr be data) then .next s else
  let t := directWindowOp s we priv addr be data
  .next { s with
    mem := t.mem, uncorr := t.uncorr, prefixes := t.prefixes, regs := t.regs, hdrs := t.hdrs, ctrs := t.ctrs, ret := t.ret, log := t.log,
    logOvf := t.logOvf, stk := t.stk, hwData := t.hwData, hwStat := t.hwStat, hwQ := t.hwQ }

end Sys2Proof.Machine
end

