-- ==== Sys2Proof/Machine/Desc.lean ====
section
/-! DEFINITION. Form descriptors: the layouts of Tables 04-2, 08-2 and 10-3, what makes one malformed, the rows it names;
and the rows of a step in flight. -/
namespace Sys2Proof.Machine

/-! ## Rows of the step in flight -/

/-- The step in flight of a job, when its low 32 bits are these (R87, STEP). -/
def State.stepAt (s : State) (j : Nat) (lo : W) : Option Step :=
  (s.job j).cur.filter fun st => st.num.setWidth 32 == lo

def State.setStep (s : State) (j : Nat) (st : Step) : State := s.setJob j { s.job j with cur := some st }

/-- A row gains a failure code. -/
def Row.fail (r : Row) (code : Nat) : Row :=
  if r.fails.contains (BitVec.ofNat 8 code) then r else { r with fails := r.fails ++ [BitVec.ofNat 8 code] }

/-- Rows of a step, by row-table index, gain a failure code. -/
def Step.failRows (st : Step) (rows : List Nat) (code : Nat) : Step :=
  { st with rows := (st.rows.zipIdx).map fun (r, i) => if rows.contains i then r.fail code else r }

/-- Rows of a job's step in flight fail; in a train-mode step a failed row fails every row on the device (R114). -/
def State.failRows (s : State) (j : Nat) (rows : List Nat) (code : Nat) : State :=
  match (s.job j).cur with
  | some st =>
    if rows = [] then s
    else s.setStep j (st.failRows (if (s.job j).isTrain then List.range st.rows.length else rows) code)
  | none => s

def cRung : Nat := 0x10
def cDesc : Nat := 0x11
def cForm : Nat := 0x12
def cMem : Nat := 0x13
def cMiss : Nat := 0x14
def cOff : Nat := 0x15

/-- The snapshot entry of an adapter in a step (R70). -/
def Step.snap (st : Step) (a : Nat) : DirEntry :=
  match st.snaps.find? fun p => p.adapter.toNat == a with
  | some p => p.entry
  | none => {}

/-- The experts a row chose in a layer, in increasing index, and their weights (R98). -/
def Row.expertsAt (r : Row) (layer : Nat) : List (Nat × W) := tget [] r.routes layer

/-- The experts whose outputs a row takes in a layer: 0 in a dense model. -/
def Row.expertIds (r : Row) (m : ModelDesc) (layer : Nat) : List Nat :=
  if m.experts = 0 then [0] else (r.expertsAt layer).map (·.1)

/-- Row i of a step. -/
def Step.row (st : Step) (i : Nat) : Row := st.rows.getD i ⟨0#12, 0#22, 0#24, false, false, 0#2, false, 0, [], none, [], none, []⟩

/-- A completed form is entered for its rows (R182, R196). -/
def Step.markRows (st : Step) (rows : List Nat) (layer : Nat) (d : Done) : Step :=
  { st with rows := (st.rows.zipIdx).map fun (r, i) => if rows.contains i then { r with marks := r.marks ++ [(layer, d)] } else r }

/-- A completed form is entered for the rows of a job's step in flight. -/
def State.markRows (s : State) (j : Nat) (rows : List Nat) (layer : Nat) (d : Done) : State :=
  match (s.job j).cur with
  | some st => s.setStep j (st.markRows rows layer d)
  | none => s

/-- A form has completed for a row. -/
def Step.marked (st : Step) (row layer : Nat) (d : Done) : Bool := (st.row row).marks.contains (layer, d)

/-- Fields of SCHED_DELTA_CTRL as the step latched it (R103, Table 04-6). -/
def Step.lead (st : Step) : Nat := bitsOf st.dctrl 9 0
def Step.shoal (st : Step) : Bool := st.dctrl.getLsbD 16
def Step.stageEn (st : Step) : Bool := st.dctrl.getLsbD 17
def Step.target (st : Step) : Nat := bitsOf st.dctrl 31 24 * 1024

def State.rowAdapter (s : State) (st : Step) (i : Nat) : Nat := (s.req (st.row i).slot.toNat).adapter

/-- Components a row uses on a projection of a layer (R82); 0 where no delta form runs, as for a rung the snapshot cannot
honour (R102). -/
def State.rowRank (s : State) (st : Step) (i proj layer : Nat) : Nat :=
  let a := s.rowAdapter st i
  if a = 0 ∨ (st.row i).fails.contains (BitVec.ofNat 8 cRung) then 0
  else
    let e := st.snap a
    if proj = 8 ∨ e.layerMask.getLsbD layer then rungRank (e.rank proj) (st.row i).rung.toNat else 0

/-! ## Raw descriptors -/

/-- Word i of a 64-byte descriptor. -/
def dword (d : BitVec 512) (i : Nat) : W := (d >>> (32 * i)).setWidth 32

def descCrcOk (d : BitVec 512) : Bool := crc32 ((leBytes 64 d.toNat).take 60) == dword d 15

def dForm (d : BitVec 512) : Nat := bitsOf (dword d 0) 7 0
def dBerth (d : BitVec 512) : Bool := bitOf (dword d 0) 8
def dJob (d : BitVec 512) : Nat := bitsOf (dword d 12) 7 0
def dStep (d : BitVec 512) : W := dword d 13

/-- The fields of Table 04-2. -/
structure DeltaDesc where
  form : Nat
  berth : Bool
  proj : Nat
  vocab : Bool
  train : Bool
  xfmt : Nat
  wfmt : Nat
  adapter : Nat
  expert : Nat
  layer : Nat
  m : Nat
  k : Nat
  width : Nat
  col0 : Nat
  n : Nat
  factor : Nat
  staged : Bool
  src : Nat
  stride : Nat
  dst : Nat
  rowlist : Nat
  nrows : Nat
  bvec : Nat
deriving DecidableEq, Repr

def deltaDesc (d : BitVec 512) : DeltaDesc :=
  let w := dword d
  { form := bitsOf (w 0) 7 0, berth := bitOf (w 0) 8, proj := bitsOf (w 0) 11 9, vocab := bitOf (w 0) 12,
    train := bitOf (w 0) 13, xfmt := bitsOf (w 0) 19 16, wfmt := bitsOf (w 0) 23 20, adapter := bitsOf (w 1) 15 0,
    expert := bitsOf (w 1) 23 16, layer := bitsOf (w 1) 30 24, m := bitsOf (w 2) 6 0, k := bitsOf (w 2) 16 8,
    width := bitsOf (w 3) 18 0, col0 := bitsOf (w 4) 18 0, n := bitsOf (w 5) 18 0,
    factor := (w 6).toNat + 2 ^ 32 * bitsOf (w 7) 7 0, staged := bitOf (w 7) 8, src := bitsOf (w 8) 26 0,
    stride := bitsOf (w 9) 23 0, dst := bitsOf (w 10) 26 0, rowlist := bitsOf (w 11) 26 0,
    nrows := bitsOf (w 14) 15 0, bvec := bitsOf (w 14) 19 16 }

/-- Projection number with 8 for the vocabulary adapter. -/
def DeltaDesc.p (d : DeltaDesc) : Nat := if d.vocab then 8 else d.proj

/-- Beat width of a format code. -/
def DeltaDesc.bw (d : DeltaDesc) : Nat := beatCols d.xfmt

/-- Reserved bits of Table 04-2, by word. -/
def deltaReserved (d : BitVec 512) : Bool :=
  let w := dword d
  ([(0, 0xFF00C000#32), (1, 0x80000000#32), (2, 0xFFFE0080#32), (3, 0xFFF80000#32), (4, 0xFFF80000#32),
    (5, 0xFFF80000#32), (7, 0xFFFFFE00#32), (8, 0xF8000000#32), (9, 0xFF000000#32), (10, 0xF8000000#32),
    (11, 0xF8000000#32), (12, 0xFFFFFF00#32), (14, 0xFFF00000#32)] : List (Nat × W)).any fun (i, m) => w i &&& m ≠ 0#32

/-- Output columns of an UP or DXA form over a width. -/
def DeltaDesc.colsOk (d : DeltaDesc) : Bool :=
  d.col0 % d.bw = 0 && d.col0 < d.width && d.col0 + d.n ≤ d.width && (d.n % d.bw = 0 || d.col0 + d.n = d.width)

/-- The operands of a delta-shaped form are in range (Tables 04-2 and 10-3, R31, R88). Of the delta forms
proper, DOWN reduces over WIDTH and UP over K, and a reduction length of 0 is legal there (R55, Table 02-6). -/
def DeltaDesc.ok (d : DeltaDesc) : Bool :=
  let codes := 1 ≤ d.xfmt && d.xfmt ≤ 8 && 1 ≤ d.wfmt && d.wfmt ≤ 8
  let tile := 1 ≤ d.m && d.m ≤ 64 && 1 ≤ d.k && d.k ≤ 256 && (if d.berth then d.k ≤ 16 else d.m * d.k ≤ 2048)
  let xIn := [2, 3, 4, 6].contains d.xfmt
  let beat := d.xfmt = 1 || d.xfmt = 2
  let fac := 2 ≤ d.wfmt && d.wfmt ≤ 6 && 1 ≤ d.adapter && d.expert ≤ 254 &&
    (!d.vocab || (d.proj = 0 && d.layer = 0)) && ((!d.vocab && 4 ≤ d.proj && d.proj ≤ 6) || d.expert = 0)
  let inW := d.width % 32 = 0 && 32 ≤ d.width && d.width ≤ 65536
  let outW := 1 ≤ d.width && d.width ≤ 262144
  let noCols := d.col0 = 0 && d.n = 0
  let noTail := d.nrows = 0 && d.bvec = 0
  match d.form with
  | 0x10 => tile && xIn && fac && (inW || d.width = 0) && noCols && noTail
  | 0x11 => (tile || (d.k = 0 && 1 ≤ d.m && d.m ≤ 64)) && beat && fac && outW && d.colsOk && noTail && !d.train
  | 0x40 => tile && xIn && fac && outW && noCols && noTail && d.train
  | 0x41 => tile && beat && fac && inW && d.colsOk && noTail && d.train
  | 0x42 | 0x50 =>
    codes && d.berth && d.m = 0 && 1 ≤ d.k && d.k ≤ 256 && fac && outW && d.col0 + d.n ≤ d.width && d.dst = 0 &&
      1 ≤ d.nrows && d.nrows ≤ 32768 && d.bvec = 0 && !d.staged
  | 0x43 => codes && !d.berth && 1 ≤ d.m && d.m ≤ 64 && d.k = 0 && noCols && outW && d.factor = 0 && !d.staged && noTail && !d.train
  | 0x44 =>
    codes && 1 ≤ d.m && d.m ≤ 64 && d.k = 0 && noCols && 1 ≤ d.width && d.factor = 0 && !d.staged && d.nrows = 0 && d.bvec ≤ 3 &&
      !d.train
  | _ => false

/-- The fields of Table 08-2. -/
structure AttnDesc where
  form : Nat
  berth : Bool
  sliding : Bool
  dsel : Nat
  final : Bool
  g : Nat
  ofmt : Nat
  layer : Nat
  kvh : Nat
  slot : Nat
  p0 : Nat
  m : Nat
  b0 : Nat
  nb : Nat
  w : Nat
  cscale : W
  npart : Nat
  src : Nat
  stride : Nat
  dst : Nat
deriving DecidableEq, Repr

def attnDesc (d : BitVec 512) : AttnDesc :=
  let w := dword d
  { form := bitsOf (w 0) 7 0, berth := bitOf (w 0) 8, sliding := bitOf (w 0) 9, dsel := bitsOf (w 0) 11 10,
    final := bitOf (w 0) 12, g := bitsOf (w 0) 23 16, ofmt := bitsOf (w 0) 27 24, layer := bitsOf (w 1) 6 0,
    kvh := bitsOf (w 1) 14 8, slot := bitsOf (w 1) 27 16, p0 := bitsOf (w 2) 21 0, m := bitsOf (w 2) 28 22,
    b0 := bitsOf (w 3) 14 0, nb := bitsOf (w 3) 31 16, w := bitsOf (w 4) 21 0, cscale := w 5,
    npart := bitsOf (w 6) 10 0, src := bitsOf (w 7) 26 0, stride := bitsOf (w 8) 23 0, dst := bitsOf (w 9) 26 0 }

/-- Head dimension. -/
def AttnDesc.d (a : AttnDesc) : Nat := 64 * 2 ^ a.dsel

def attnReserved (d : BitVec 512) : Bool :=
  let w := dword d
  ([(0, 0xF000E000#32), (1, 0xF0008080#32), (2, 0xE0000000#32), (3, 0x00008000#32), (4, 0xFFC00000#32),
    (6, 0xFFFFF800#32), (7, 0xF8000000#32), (8, 0xFF000000#32), (9, 0xF8000000#32), (10, w32), (11, w32),
    (12, 0xFFFFFF00#32), (14, w32)] : List (Nat × W)).any fun (i, m) => w i &&& m ≠ 0#32

/-- The operands of an attention form are in range (Tables 08-1 and 08-2). -/
def AttnDesc.ok (a : AttnDesc) : Bool :=
  let shape := a.dsel ≤ 2 && 1 ≤ a.g && a.g ≤ 128 && 1 ≤ a.m && a.m ≤ 64 &&
    (if a.sliding then 1 ≤ a.w && a.w ≤ 16384 else a.w = 0)
  let tile := a.m * a.g * a.d ≤ (if a.berth then 8192 else 16384) && 1 ≤ a.nb && a.nb ≤ 32768 && a.npart = 0
  let out := [2, 3, 4, 6].contains a.ofmt
  match a.form with
  | 0x20 => shape && tile && a.ofmt = 0 && !a.final
  | 0x21 => shape && tile && a.cscale = 0#32 && (if a.final then out else a.ofmt = 0)
  | 0x22 => shape && a.berth && a.b0 = 0 && a.nb = 0 && a.cscale = 0#32 && !a.final && out && 2 ≤ a.npart && a.npart ≤ 1024 &&
      a.m * a.g ≤ 64
  | 0x45 => shape && tile && a.ofmt = 0 && a.cscale = 0#32 && !a.final
  | _ => false

/-- The form code uses the layout of Table 08-2: the attention family, its reserved codes too, and BATTN (R177, R228). -/
def isAttn (f : Nat) : Bool := (0x20 ≤ f && f ≤ 0x2F) || f = 0x45

/-- A raw descriptor that passes its CRC is malformed (R87, R177, R228). -/
def rawMalformed (d : BitVec 512) : Bool :=
  if isAttn (dForm d) then attnReserved d || !(attnDesc d).ok
  else deltaReserved d || !(deltaDesc d).ok

/-! ## Landing buffers (R24) -/

def State.land (s : State) (a n : Nat) : List Byte := mread s.landing a n

def State.landW (s : State) (a : Nat) : W := mword s.landing a

def State.landH (s : State) (a : Nat) : BitVec 16 := BitVec.ofNat 16 (mnum s.landing a 2)

def State.setLand (s : State) (a : Nat) (bs : List Byte) : State := { s with landing := mwrite s.landing a bs }

/-! ## What a descriptor names -/

def descJob : FormDesc → Option Nat
  | .raw d => some (dJob d)
  | .vec v => some v.job.toNat
  | .intake d => d.job.map (·.toNat)

/-- The step a form belongs to. -/
def descStep : FormDesc → Option W
  | .raw d => some (dStep d)
  | .vec v => some v.step
  | .intake _ => none

/-- A delta form of reduction length 0: it writes no ΔY, and the beats of its rows pass as for rank 0 (R55, Table 02-6). -/
def emptySum : FormDesc → Bool
  | .raw b => let d := deltaDesc b; !isAttn d.form && ((d.form = 0x10 && d.width = 0) || (d.form = 0x11 && d.k = 0))
  | _ => false

/-- The form runs on one berth; a sample form takes a whole core (R191). -/
def descBerth : FormDesc → Bool
  | .raw d => dBerth d
  | .vec v => v.berth && v.kind ≠ .sample
  | .intake d => d.berth

/-- Landing addresses a form reads its input rows from. -/
def descSrcs : FormDesc → List Nat
  | .raw d => [if isAttn (dForm d) then (attnDesc d).src else (deltaDesc d).src]
  | .vec v => [v.src.toNat, v.src2.toNat]
  | .intake _ => []

def State.formStep (s : State) (d : FormDesc) : Option (Nat × Step) :=
  match descJob d, descStep d with
  | some j, some lo => (s.stepAt j lo).map fun st => (j, st)
  | _, _ => none

/-- Row-table indices a raw descriptor's row list holds. -/
def State.rowList (s : State) (a n : Nat) : List Nat := (List.range n).map fun i => mnum s.landing (a + 2 * i) 2

/-- Row-table indices of rows at consecutive positions of a slot. -/
def Step.rowsAt (st : Step) (slot p0 m : Nat) : List Nat :=
  ((st.rows.zipIdx).filter fun (r, _) => r.slot.toNat = slot && p0 ≤ r.pos.toNat && r.pos.toNat < p0 + m).map (·.2)

/-- Row-table indices a form's descriptor names. -/
def State.formRows (s : State) (d : FormDesc) : List Nat :=
  match d with
  | .raw b =>
    if isAttn (dForm b) then
      let a := attnDesc b
      match s.stepAt (dJob b) (dStep b) with
      | some st => st.rowsAt a.slot a.p0 a.m
      | none => []
    else
      let e := deltaDesc b
      s.rowList e.rowlist (if e.form = 0x42 ∨ e.form = 0x50 then e.nrows else e.m)
  | .vec v => v.rows.map (·.toNat)
  | .intake _ => []

/-- Bytes of an input row of an attention form: queries, block records, partials or dO (Table 08-1). -/
def AttnDesc.srcBytes (a : AttnDesc) : Nat :=
  match a.form with
  | 0x20 => a.g * a.d * 2
  | 0x21 => a.g * a.nb * 136
  | 0x22 => a.g * (2 + a.d) * 4
  | _ => a.g * a.d * 4

/-- Bytes of an input row of a delta-shaped form: X, U, dY, dU_raw, logits or gradients (Tables 04-2, 10-3). -/
def DeltaDesc.srcBytes (d : DeltaDesc) : Nat :=
  let row (code w : Nat) : Nat := if code = 1 then 4 * w else rowBytes code w
  match d.form with
  | 0x10 | 0x40 => row d.xfmt d.width
  | 0x11 | 0x41 => 4 * d.k
  | 0x42 | 0x50 => if d.train then row d.xfmt d.width else 4 * d.k
  | _ => 4 * d.width

/-- The rows a form reads from landing space (R109): where the first starts, their distance, how many, and the bytes of each. A
vector form's rows lie STRIDE bytes apart at its two sources. -/
def State.descRows (s : State) (d : FormDesc) : List (Nat × Nat × Nat × Nat) :=
  match d with
  | .raw b =>
    if isAttn (dForm b) then let a := attnDesc b; [(a.src, a.stride, a.m * max 1 a.npart, a.srcBytes)]
    else let e := deltaDesc b; [(e.src, e.stride, (s.formRows d).length, e.srcBytes)]
  | .vec v => [v.src, v.src2].map fun a => (a.toNat, v.stride.toNat, v.rows.length, max 1 v.stride.toNat)
  | .intake _ => []

/-- The rows a form names fail at their step's boundary. -/
def State.failForm (s : State) (d : FormDesc) (code : Nat) : State :=
  match s.formStep d with
  | some (j, _) => s.failRows j (s.formRows d) code
  | none => s

/-! ## Stations of a model being replaced (R262) -/

/-- A step may run a station: a new step waits while the wavefront has not passed it, and its backward pass waits until the
wavefront is IDLE. -/
def State.stationOpen (s : State) (st : Step) (k : Nat) (back : Bool) : Bool :=
  let w := s.wf
  let busy := w.st == .advancing || w.st == .stalled || w.st == .finishing || (w.st == .checking && w.rollback)
  !st.withdrawn && !(busy && w.model == st.model && st.gen == (s.model st.model.toNat).gen && (back || (w.w.toNat ≤ k && k ≤ w.stop)))

/-- The station a form belongs to, and whether it is of the backward pass. -/
def formStation (m : ModelDesc) : FormDesc → Nat × Bool
  | .raw b =>
    if isAttn (dForm b) then ((attnDesc b).layer + 1, dForm b = 0x45)
    else ((if (deltaDesc b).vocab ∨ dForm b = 0x43 then m.layers + 1 else (deltaDesc b).layer + 1), 0x40 ≤ dForm b)
  | .vec v => ((if v.kind = .sample ∨ (v.kind = .norm ∧ v.sel = 2#2) then m.layers + 1 else v.layer.toNat + 1), false)
  | .intake _ => (0, false)

/-- The station an array command reads the weights of. -/
def ModelDesc.cmdStation (m : ModelDesc) (c : ArrayCmd) : Nat := if c.pass = 8#4 then m.layers + 1 else c.layer.toNat + 1

/-- A form's station is open to its step. -/
def State.formOpen (s : State) (d : FormDesc) : Bool :=
  match s.formStep d with
  | some (_, st) => let x := formStation (s.desc st.model.toNat) d; s.stationOpen st x.1 x.2
  | none => true

/-! ## Pigeonhole maps (R87) -/

/-- A map entry: tag, lane, pigeonhole. -/
structure MapEntry where
  tag : W
  lane : Nat
  ph : Nat
deriving DecidableEq, Repr

def MapEntry.bytes (e : MapEntry) : List Byte := leBytes 8 (e.tag.toNat + 2 ^ 32 * e.lane + 2 ^ 38 * e.ph)

def State.mapEntry (s : State) (a : Nat) : MapEntry :=
  let v := mnum s.landing a 8
  { tag := BitVec.ofNat 32 v, lane := v / 2 ^ 32 % 64, ph := v / 2 ^ 38 % 1024 }

/-- Gate or up in a routed model, of an adapter with one factor pair for every expert: the delta is computed once for each
row (R100). -/
def State.sharedGate (s : State) (st : Step) (a p : Nat) : Bool :=
  (p = 4 || p = 5) && (s.desc st.model.toNat).experts ≠ 0 && (st.snap a).exp == 0#8

/-- One factor pair serves every expert of a routed MLP projection (R61, R100). -/
def State.sharedPair (s : State) (st : Step) (a p : Nat) : Bool :=
  4 ≤ p && p ≤ 6 && (s.desc st.model.toNat).experts ≠ 0 && (st.snap a).exp == 0#8

/-- Pigeonholes each row has in each block of an UP form: one for each of its experts where gate and up share one factor
pair (R100), else one. -/
def State.perRow (s : State) (d : DeltaDesc) (st : Step) : Nat :=
  if d.form = 0x11 ∧ s.sharedGate st d.adapter d.p then (s.desc st.model.toNat).route else 1

/-- Entries of the map of an UP or DXA form, in the fill order of R85. -/
def State.formMap (s : State) (d : FormDesc) : List MapEntry :=
  match d, s.formStep d with
  | .raw b, some (_, st) =>
    let e := deltaDesc b
    if e.form = 0x11 ∨ e.form = 0x41 then
      (List.range (ceilDiv e.n e.bw * e.m * s.perRow e st)).map fun i => s.mapEntry (e.dst + 8 * i)
    else []
  | _, _ => []

/-! ## Uncorrectable reads of the control tables (Table 12-4, class 4) -/

/-- Rows of a request in a step, with their row-table indices. -/
def Step.rowsOf (st : Step) (slot : BitVec 12) : List (Row × Nat) := st.rows.zipIdx.filter fun (r, _) => r.slot == slot

/-- The request in a slot fails: at its job's next boundary if it has rows in flight, else at once (class 4). -/
def State.slotUnc (s : State) (q : Nat) : State :=
  match s.slotJob q with
  | none => s
  | some j =>
    let rows : List Nat := match (s.job j).cur with
      | some st => (st.rowsOf (BitVec.ofNat 12 q)).map (·.2)
      | none => []
    if rows ≠ [] then s.failRows j rows cMem
    else if (s.slot q).alive ∧ (s.slot q).pendingEnd.isNone then (s.dropParked q).queueEnd q { reason := 0x13#8 }
    else s

/-- Slots whose page list names a frame. -/
def State.holders (s : State) (f : Nat) : List Nat :=
  (s.slots.map (·.1)).filter fun q => (s.slot q).alive && (s.listPages q).any fun i => s.pageFrame q i == some f

/-- A frame is quarantined; its holders fail and its prefix entry goes (class 4). -/
def State.frameUnc (s : State) (k f : Nat) : State :=
  let hs := s.holders f
  let s := if s.quarantine.contains f then s else State.inc { s with quarantine := s.quarantine ++ [f] } (pgMem k) 0x238
  let s := hs.foldl (fun (s : State) q => s.slotUnc q) s
  s.removeWays fun w => w.frame.toNat == f

/-- The granules a word of the poste restante bitmap describes count as in use. -/
def State.granulesLost (s : State) (g : Nat) : State :=
  let gs := (List.range 256).map fun i => g / 256 * 256 + i
  { s with lostGranules := s.lostGranules ++ gs.filter fun x => !s.lostGranules.contains x }

/-- A read of the control tables is recorded where it fails (R272, R280); and whether it does. -/
def State.tableRead (s : State) (a n : Nat) : State × Bool :=
  let r := s.peek kControl none a n
  (if r.unc then s.note r a 4 else s, r.unc)

/-- A formation reads a request's page list, in 256-byte reads, and the frame-table entries of its frames; a read that fails
has its consequence (Table 12-4, class 4). -/
def State.readTables (s : State) (q : Nat) : State :=
  let t := (((s.listPages q).map (· / 64)).dedup).foldl (fun (t : State) b =>
    let r := t.tableRead (s.listAt q (64 * b)) 256
    if r.2 then r.1.slotUnc q else r.1) s
  ((s.listPages q).filterMap (s.pageFrame q)).foldl (fun (t : State) f =>
    let r := t.tableRead (s.ftabAt f) 16
    if r.2 then r.1.frameUnc (s.stackOf (s.ftabAt f)) f else r.1) t

/-- A formation reads the header and the tables of a request that has run before; a read that fails fails the request
(R152, R281). -/
def State.loadHdr (s : State) (q : Nat) : State :=
  let r := s.peek kControl none (s.hdrAt q) 64
  let s := s.setSlot q ((s.slot q).ofHdr r.data)
  (if r.unc then (s.note r (s.hdrAt q) 4).slotUnc q else s).readTables q

end Sys2Proof.Machine
end

