-- ==== Sys2Proof/Machine/Merge.lean ====
section
/-! DEFINITION. The merge lanes: what a reservation takes, beats, misses, enable and drain (05_merge_lanes.md R104 to R119,
04_delta_path.md R94; 17_registers.md R380). -/
namespace Sys2Proof.Machine

def State.lane (s : State) (l : Nat) : Lane := tget {} s.lanes l

def State.setLane (s : State) (l : Nat) (v : Lane) : State := { s with lanes := tput s.lanes l v }

/-- Offset of a lane's block in its page. -/
def laneOff (l : Nat) : Nat := 0x100 + 0x100 * (l % 4)

def State.laneInc (s : State) (l off : Nat) : State := s.inc (pgMerge l) (laneOff l + off)

/-- Event e of a lane (R119). -/
def State.laneEvent (s : State) (l e : Nat) : State := s.raise (pgMerge l) (4 * (l % 4) + e)

/-- The lane is present and its registers are live. -/
def State.laneUp (s : State) (l : Nat) : Bool := l < s.part.nLanes && s.pageLive (pgMerge l)

/-! ## Beats of a command (R104, R380) -/

/-- The output columns of a forward projection that this device computes, from the first up to the last exclusive. -/
def State.ownCols (s : State) (model p layer expert : Nat) : Nat × Nat := s.ownRows model p layer expert

/-- Columns of a command's output. -/
def State.cmdWidth (s : State) (c : ArrayCmd) (st : Step) : Nat :=
  let m := s.desc st.model.toNat
  match c.pass.toNat with
  | 9 => m.experts
  | 10 => (m.widths c.proj.toNat).1
  | p => let x := s.ownCols st.model.toNat p c.layer.toNat c.expert.toNat; x.2 - x.1

/-- Beats are FP32 when the declaration says so, and in the vocabulary pass (R101). -/
def State.cmdFp32 (s : State) (c : ArrayCmd) : Bool := c.pass = 8#4 || s.decl.beat = 1#4

def State.cmdBw (s : State) (c : ArrayCmd) : Nat := if s.cmdFp32 c then 32 else 64

/-- Beats of each row. -/
def State.cmdBlocks (s : State) (c : ArrayCmd) (st : Step) : Nat := ceilDiv (s.cmdWidth c st) (s.cmdBw c)

/-- Row i carries a delta in this command (R25, R102). -/
def State.cmdDelta (s : State) (c : ArrayCmd) (st : Step) (i : Nat) : Bool :=
  match c.pass.toNat with
  | 9 => false
  | 8 => s.rowRank st i 8 0 ≠ 0
  | 10 => s.rowRank st i c.proj.toNat c.layer.toNat ≠ 0
  | p => s.rowRank st i p c.layer.toNat ≠ 0

/-- Beats 0, 1, …: the row-table index, the block, whether it carries a delta. -/
def State.cmdBeats (s : State) (c : ArrayCmd) (st : Step) : List (Nat × Nat × Bool) :=
  let nb := s.cmdBlocks c st
  c.rows.flatMap fun r =>
    let d := s.cmdDelta c st r.toNat
    (List.range nb).map fun b => (r.toNat, b, d)

/-- The beats that travel on a lane: those with j mod NL = lane. -/
def laneBeats (nl l : Nat) (bs : List (Nat × Nat × Bool)) : List (Nat × Nat × Bool) :=
  ((bs.zipIdx).filter fun (_, j) => j % nl = l).map (·.1)

/-! ## Reservation (R107 to R109) -/

/-- Commands holding reservations on a lane. -/
def Lane.holders (v : Lane) : List Nat := (v.ledger.map fun (_, e) => e.cmd).dedup

def Lane.reservedPhs (v : Lane) : Nat := (v.phs.filter fun (_, p) => p.reserved).length

/-- MERGE_LSTATUS.CREDIT: free pigeonholes whose release has crossed. -/
def Lane.credit (v : Lane) : Nat := 1024 - v.reservedPhs - v.returning.length

def Lane.phFree (v : Lane) (i : Nat) : Bool :=
  (match tget? v.phs i with | some p => !p.reserved | none => true) && !v.returning.contains i

/-- The n lowest free pigeonholes: R107 does not say which of the free pool a grant takes (DESIGN CHOICE, log 134). -/
def Lane.takePhs (v : Lane) (n : Nat) : List Nat := ((List.range 1024).filter v.phFree).take n

/-- The lowest free landing range of n bytes in a slice's 32 MiB: R107 does not say which (DESIGN CHOICE, log 134). -/
def landFit (use : List LandRange) (slice n : Nat) : Option Nat :=
  let lo := slice * 2 ^ 25
  let hi := lo + 2 ^ 25
  let inS := use.filter fun r => lo ≤ r.addr && r.addr < hi
  ((lo :: inS.map fun r => r.addr + r.len).filter fun a =>
    a + n ≤ hi && inS.all fun r => r.addr + r.len ≤ a || a + n ≤ r.addr).min?

/-- A command's share of one lane, taken in the state; none when the lane or its slice's landing buffer cannot supply it. -/
def State.takeLane (s : State) (key : Nat) (c : ArrayCmd) (num : BitVec 64) (l : Nat) (bs : List (Nat × Nat × Bool)) :
    Option (State × LaneShare) :=
  let v := s.lane l
  let n := bs.length
  let nd := (bs.filter fun x => x.2.2).length
  let phs := v.takePhs nd
  let at_ (k : Nat) : Nat := (v.nextSerial + BitVec.ofNat 32 k).toNat % 4096
  if v.st ≠ .running ∨ 2 ≤ v.holders.length ∨ phs.length < nd ∨
      (List.range n).any (fun k => (tget? v.ledger (at_ k)).isSome) then none
  else match landFit s.landUse (l / 16) (128 * n) with
    | none => none
    | some a =>
      let go := (bs.zipIdx).foldl (fun (acc : Lane × List Nat) (x, k) =>
        let tag := v.nextSerial + BitVec.ofNat 32 k
        match x.2.2, acc.2 with
        | true, p :: ps =>
          ({ acc.1 with
              ledger := tput acc.1.ledger (tag.toNat % 4096) { tag := tag, cmd := key, delta := true, ph := p }
              phs := tput acc.1.phs p { tag := tag, filled := false, reserved := true, data := 0#1024 } }, ps)
        | _, ps =>
          ({ acc.1 with
              ledger := tput acc.1.ledger (tag.toNat % 4096) { tag := tag, cmd := key, delta := false, ph := 0 } }, ps))
        (v, phs)
      let w := { go.1 with nextSerial := v.nextSerial + BitVec.ofNat 32 n }
      let w := { w with peak := BitVec.ofNat 11 (max w.peak.toNat w.reservedPhs) }
      some ({ s.setLane l w with
          landUse := s.landUse ++ [{ addr := a, len := 128 * n, job := c.job, step := num }] },
        { lane := l, tag0 := v.nextSerial, beats := n, land := a })

/-- The share of every lane a command uses, or none. -/
def State.takeLanes (s : State) (key : Nat) (c : ArrayCmd) (num : BitVec 64) (bs : List (Nat × Nat × Bool)) :
    List Nat → Option (State × List LaneShare)
  | [] => some (s, [])
  | l :: ls =>
    let b := laneBeats s.part.nLanes l bs
    if b = [] then s.takeLanes key c num bs ls
    else match s.takeLane key c num l b with
      | none => none
      | some (t, sh) => (t.takeLanes key c num bs ls).map fun (u, shs) => (u, sh :: shs)

/-- The step in flight a command belongs to; none once it has closed. -/
def State.cmdStep (s : State) (c : Cmd) : Option Step := (s.job c.arr.job.toNat).cur.filter fun st => st.num == c.step

/-- The share of a lane. -/
def Cmd.share (c : Cmd) (l : Nat) : Option LaneShare := c.shares.find? fun x => x.lane = l

/-- The tag of beat j. -/
def State.beatTag (s : State) (c : Cmd) (j : Nat) : Option (Nat × W) :=
  (c.share (j % s.part.nLanes)).map fun x => (x.lane, x.tag0 + BitVec.ofNat 32 (j / s.part.nLanes))

/-- Landing address of beat j (R110). -/
def State.beatLand (s : State) (c : Cmd) (j : Nat) : Nat :=
  match c.share (j % s.part.nLanes) with
  | some x => x.land + 128 * (j / s.part.nLanes)
  | none => 0

/-- Entries that a row has in each block of the map of a command's UP or DXA form, and which of them is the command's: where gate
and up share one factor pair, one for each expert of the row, in increasing expert index (R100). -/
def State.mapSeat (s : State) (c : ArrayCmd) (st : Step) (row : Nat) : Nat × Nat :=
  if c.pass ≠ 10#4 && s.sharedGate st (s.rowAdapter st row) c.pass.toNat then
    ((s.desc st.model.toNat).route, (((st.row row).expertsAt c.layer.toNat).map (·.1)).findIdx (· == c.expert.toNat))
  else (1, 0)

/-- Firmware writes the pigeonhole maps of the command's UP or DXA forms (R87, R90). -/
def State.writeMaps (s : State) (c : Cmd) (st : Step) : State :=
  let nb := s.cmdBlocks c.arr st
  let bw := s.cmdBw c.arr
  let rows := c.arr.rows.map (·.toNat)
  let first := if c.arr.pass = 10#4 then 0 else (s.ownCols st.model.toNat c.arr.pass.toNat c.arr.layer.toNat c.arr.expert.toNat).1
  c.arr.maps.foldl (fun s a =>
    (List.range (ceilDiv a.n.toNat bw)).foldl (fun s b =>
      ((a.rows.zipIdx).foldl (fun s (r, i) =>
        match rows.findIdx? (· == r.toNat) with
        | none => s
        | some k =>
          let (per, pos) := s.mapSeat c.arr st r.toNat
          match s.beatTag c (k * nb + (a.col0.toNat - first) / bw + b) with
          | none => s
          | some (l, tag) =>
            match tget? (s.lane l).ledger (tag.toNat % 4096) with
            | some e =>
              if e.delta then
                s.setLand (a.at_.toNat + 8 * ((b * a.rows.length + i) * per + pos))
                  ({ tag := tag, lane := l, ph := e.ph } : MapEntry).bytes
              else s
            | none => s) s)) s) s

def State.setCmd (s : State) (c : Cmd) : State := { s with cmds := s.cmds.map fun x => if x.key = c.key then c else x }

/-! ## Commands at the arrays (R116, R390) -/

/-- Commands of the steps in flight that are outstanding at the arrays. -/
def State.outstanding (s : State) : List Cmd := s.cmds.filter fun c => c.stage = .issued && !c.done

/-- Identities of every command outstanding at the arrays, those of closed steps too (R390). -/
def State.idsOut (s : State) : List (BitVec 8) := s.outstanding.map (·.id) ++ s.late

/-- MERGE_HOLD_LIMIT. -/
def State.holdLimit (s : State) : Nat := (s.rd (pgMerge 0) 0x044).toNat

def commandDropOp (s : State) : State :=
  match s.cmds.find? fun c => c.stage = .ready with
  | none => s
  | some c =>
    if c.hold < s.holdLimit then s
    else
      State.failRows { s with cmds := s.cmds.filter fun x => x.key ≠ c.key } c.arr.job.toNat
        (c.arr.rows.map fun r => r.toNat) cOff

/-- COMMAND_DROP (R116). -/
def execCommandDrop (s : State) : Host.Outcome State Fault Refusal :=
  if !s.serves .commandDrop then .next s else
  let t := commandDropOp s
  .next { s with cmds := t.cmds, jobs := t.jobs }

/-- ACMD_DONE (R390). -/
def execAcmdDone (id : BitVec 8) (s : State) : Host.Outcome State Fault Refusal :=
  if !s.serves (.acmdDone id) then .next s else
  let t := if !s.clkUp 1 then s
    else match s.outstanding.find? fun c => c.id = id with
      | some c => s.setCmd { c with done := true }
      | none => if s.late.contains id then { s with late := s.late.erase id } else s.errInc pgArray
  .next { s with cmds := t.cmds, late := t.late, hdrs := t.hdrs }

/-! ## Misses (R111, R112) -/

/-- The rows of a command with a beat on a lane. -/
def State.rowsOnLane (s : State) (c : Cmd) (l : Nat) : List Nat :=
  match s.cmdStep c with
  | some st => ((laneBeats s.part.nLanes l (s.cmdBeats c.arr st)).map (·.1)).dedup
  | none => []

/-- Every row with a beat on a lane, in every command holding a reservation there, fails (R112). -/
def State.failLane (s : State) (l : Nat) : State :=
  ((s.cmds.filter fun c => (s.lane l).holders.contains c.key).foldl (fun s c =>
    s.failRows c.arr.job.toNat (s.rowsOnLane c l) cMiss) s)

/-- An irregular arrival is recorded (R111, R112). -/
def State.miss (s : State) (l : Nat) (tag : W) (r : MissReason) : State :=
  let s := match r with
    | .tagParity => s.laneInc l 0x50
    | .stray => s.laneInc l 0x48
    | _ => s.laneInc l 0x38
  let v := s.lane l
  if v.missq.length < 64 then s.setLane l { v with missq := v.missq ++ [{ tag := tag, reason := r }] }
  else ((s.setLane l { v with ovf := true }).laneEvent l 1).failLane l

/-- A beat's entry and pigeonhole are released; the release has still to cross (R109). -/
def Lane.release (v : Lane) (e : LedgerEntry) : Lane :=
  let v := { v with ledger := tdel v.ledger (e.tag.toNat % 4096) }
  if e.delta then
    { v with phs := tput v.phs e.ph { tget {} v.phs e.ph with filled := false, reserved := false },
             returning := v.returning ++ [e.ph] }
  else v

/-! ## The merge (R110, R43) -/

/-- R106. -/
def tagParityOk (tag : W) (tpar : BitVec 4) : Bool :=
  (List.range 4).all fun j => ((List.range 8).foldl (fun p i => p ^^ tag.getLsbD (8 * j + i)) (tpar.getLsbD j)) == false

/-- Y + ΔY of each element of a beat. -/
def mergeBeat (isF32 : Bool) (y d : BitVec 1024) : BitVec 1024 :=
  let n := if isF32 then 32 else 64
  let w := if isF32 then 32 else 16
  (List.range n).foldl (fun (acc : BitVec 1024) i =>
    let a := y.toNat / 2 ^ (w * i) % 2 ^ w
    let b := d.toNat / 2 ^ (w * i) % 2 ^ w
    let r := if isF32 then (tapF32 (BitVec.ofNat 32 a) (BitVec.ofNat 32 b)).toNat
      else (tapBf16 (BitVec.ofNat 16 a) (BitVec.ofNat 16 b)).toNat
    acc ||| BitVec.ofNat 1024 (r * 2 ^ (w * i))) 0#1024

/-- The command a live tag belongs to. -/
def State.cmdOf (s : State) (key : Nat) : Option Cmd := s.cmds.find? fun c => c.key = key

/-- Beat number of the k-th beat on a lane. -/
def State.beatNo (s : State) (x : LaneShare) (tag : W) : Nat := (tag - x.tag0).toNat * s.part.nLanes + x.lane

/-- Bytes of a beat that hold columns of the output (R85: the positions beyond the width are discarded). -/
def State.validBytes (s : State) (c : Cmd) (x : LaneShare) (tag : W) : Nat :=
  match s.cmdStep c with
  | none => 128
  | some st =>
    let nb := s.cmdBlocks c.arr st
    let bw := s.cmdBw c.arr
    let b := s.beatNo x tag % max 1 nb
    min bw (s.cmdWidth c.arr st - b * bw) * (128 / bw)

/-- A beat's data is written to its place in the landing buffer (R110). -/
def State.landBeat (s : State) (e : LedgerEntry) (l : Nat) (data : BitVec 1024) : State :=
  match s.cmdOf e.cmd with
  | none => s
  | some c =>
    match c.share l with
    | none => s
    | some x => s.setLand (x.land + 128 * (e.tag - x.tag0).toNat) ((leBytes 128 data.toNat).take (s.validBytes c x e.tag))

/-- A merged beat is entered with its command (R97). -/
def State.noteMerged (s : State) (e : LedgerEntry) (l : Nat) : State :=
  { s with cmds := s.cmds.map fun c => if c.key = e.cmd then { c with merged := c.merged ++ [(l, e.tag)] } else c }

/-- What the tap does with a delta beat: the data it captures, and the miss, if any. -/
def tapOf (st : UnitState) (p : Pigeonhole) (isF32 : Bool) (data : BitVec 1024) : BitVec 1024 × Option MissReason :=
  match st with
  | .draining => (data, some .disabled)
  | .fault => (data, some .fault)
  | _ => if p.filled then (mergeBeat isF32 data p.data, none) else (data, some .unfilled)

/-- The error that a lookup met left the beat's delta flag unknown: the rule allows both outcomes (R118, a free value). -/
def State.flagUnknown (s : State) : Bool := (Config.freeWord s.fresh).getLsbD 0

def beatOp (s : State) (l : Nat) (data : BitVec 1024) (tag : W) (tpar : BitVec 4) : State :=
  if !s.laneUp l then s
  else if !tagParityOk tag tpar then s.miss l tag .tagParity
  else
    let s := s.laneInc l 0x20
    let v := s.lane l
    match (tget? v.ledger (tag.toNat % 4096)).filter (fun e => e.tag == tag) with
    | none => s.miss l tag .stray
    | some e =>
      let t :=
        if !e.delta then (s.laneInc l 0x30).landBeat e l data
        else
          let isF32 := match s.cmdOf e.cmd with | some c => s.cmdFp32 c.arr | none => false
          if v.st = .fault ∧ v.metErr == some s.lcount ∧ s.flagUnknown then State.tick (s.landBeat e l data)
          else match tapOf v.st (tget {} v.phs e.ph) isF32 data with
          | (out, none) => ((s.laneInc l 0x28).landBeat e l out).noteMerged e l
          | (out, some r) =>
            let s := s.landBeat e l out
            let s := if r = .disabled ∧ !v.disSeen then s.setLane l { v with disSeen := true, ldisTag := tag } else s
            s.miss l tag r
      t.setLane l { (t.lane l).release e with metErr := none }

/-- BEAT (R110). -/
def execBeat (lane : BitVec 6) (data : BitVec 1024) (tag : W) (tpar : BitVec 4) (s : State) :
    Host.Outcome State Fault Refusal :=
  if !s.serves (.beat lane data tag tpar) then .next s else
  let t := if s.clkUp 1 then beatOp s lane.toNat data tag tpar else s
  .next { s with
    lanes := t.lanes, cmds := t.cmds, landing := t.landing, fresh := t.fresh, jobs := t.jobs, ctrs := t.ctrs, hdrs := t.hdrs, regs := t.regs }

/-- ABSENT (R111, R113): the deadline of a reserved tag has passed. -/
def beatAbsentOp (s : State) (l : Nat) (tag : W) : State :=
  let v := s.lane l
  match (tget? v.ledger (tag.toNat % 4096)).filter (fun e => e.tag == tag) with
  | none => s
  | some e =>
    match s.cmdOf e.cmd with
    | none => s
    | some c =>
      if c.stage = .issued ∧ c.issueAt.toNat + (s.rd (pgMerge 0) 0x040).toNat ≤ s.lcount.toNat then
        let t := s.miss l tag .absent
        t.setLane l ((t.lane l).release e)
      else s

def execBeatAbsent (lane : BitVec 6) (tag : W) (s : State) : Host.Outcome State Fault Refusal :=
  if !s.serves (.beatAbsent lane tag) then .next s else
  let t := beatAbsentOp s lane.toNat tag
  .next { s with lanes := t.lanes, jobs := t.jobs, ctrs := t.ctrs, hdrs := t.hdrs, regs := t.regs }

/-! ## Pigeonholes and landing space (R94, R109) -/

/-- PIGEONHOLE_WRITE (R94): the oldest write in the lane's queue enters its pigeonhole, or is dropped. -/
def pigeonholeWriteOp (s : State) (l : Nat) : State :=
  let v := s.lane l
  match v.crossing with
  | [] => s
  | w :: ws =>
    let v := { v with crossing := ws }
    let p := tget {} v.phs w.ph
    if p.reserved ∧ p.tag = w.tag then
      s.setLane l { v with phs := tput v.phs w.ph { p with data := w.data, filled := true } }
    else (s.setLane l v).laneInc l 0x40

/-- PIGEONHOLE_CREDIT (R109): the oldest release has crossed. -/
def execPigeonholeCredit (lane : BitVec 6) (s : State) : Host.Outcome State Fault Refusal :=
  if !s.serves (.pigeonholeCredit lane) then .next s else
  let v := s.lane lane.toNat
  let t := match v.returning, s.clkUp 1 with
    | _ :: rest, true => s.setLane lane.toNat { v with returning := rest }
    | _, _ => s
  .next { s with lanes := t.lanes }

/-- A form reads the landed output of a command, by the command's place in the step: ROTARY of Q, K and V; RESID of O or down;
ACT of gate and up; ROUTE of the router; SAMPLE and LOSS of the vocabulary pass; BVEC of a backward pass; BATTN of that of O. -/
def readsPass (d : FormDesc) (c : ArrayCmd) : Bool :=
  let p := c.pass.toNat
  match d with
  | .vec v =>
    let at_ (ps : List Nat) : Bool := ps.contains p && c.layer == v.layer
    match v.kind with
    | .rotary => at_ [min 2 v.sel.toNat]
    | .resid => at_ [if v.sel = 0#2 then 3 else 6]
    | .act => at_ [4, 5] && c.expert == v.expert
    | .route => at_ [9]
    | .sample => p = 8
    | .norm => false
  | .raw b =>
    let e := deltaDesc b
    if dForm b = 0x43 then p = 8
    else if dForm b = 0x45 then p = 10 && c.proj = 3#4 && c.layer.toNat = (attnDesc b).layer
    else dForm b = 0x44 && p = 10 && c.layer.toNat = e.layer
  | .intake _ => false

/-- A form reads a landing range: one of its input rows lies partly in it, or it reads the output a command landed there. -/
def State.formReads (s : State) (f : FormDesc) (r : LandRange) : Bool :=
  (s.descRows f).any (fun (a, stride, n, len) =>
    (List.range n).any fun i => r.addr < a + i * stride + len && a + i * stride < r.addr + r.len) ||
  s.cmds.any fun c => c.shares.any (fun x => x.land = r.addr && x.beats ≠ 0) && some c.arr.job.toNat = descJob f &&
    readsPass f c.arr && (s.formRows f).any fun i => (c.arr.rows.map (·.toNat)).contains i

/-- A landing range may be freed: no live ledger entry lands in it and no placed form reads it (R109). -/
def State.landIdle (s : State) (r : LandRange) : Bool :=
  (s.cmds.all fun c => c.shares.all fun x =>
    x.land ≠ r.addr || (s.lane x.lane).ledger.all fun (_, e) => e.cmd ≠ c.key) &&
    s.forms.all fun (_, f) => !s.formReads f.desc r

def landingFreeOp (s : State) (a : Nat) : State :=
  match s.landUse.find? fun r => r.addr = a with
  | none => s
  | some r => if s.landIdle r then { s with landUse := s.landUse.erase r } else s

/-- LANDING_FREE (R109). -/
def execLandingFree (addr : BitVec 27) (s : State) : Host.Outcome State Fault Refusal :=
  if !s.serves (.landingFree addr) then .next s else
  .next { s with landUse := (landingFreeOp s addr.toNat).landUse }

/-! ## The miss log (R112, R119) -/

/-- The command and row a missed tag belonged to, from the issue records: the latest command whose share of the lane holds the
tag, since serials begin again at 0 with a reset of the lane (R105, R112). -/
def State.rowOfTag (s : State) (l : Nat) (tag : W) : Option (Nat × Nat) :=
  (s.cmds.reverse.findSome? fun c => (c.share l).bind fun x =>
    if (tag - x.tag0).toNat < x.beats then
      (s.cmdStep c).bind fun st =>
        (c.arr.rows[s.beatNo x tag / max 1 (s.cmdBlocks c.arr st)]?).map fun r => (c.arr.job.toNat, r.toNat)
    else none)

/-- Reasons that fail the beat's row (Table 05-2). -/
def MissReason.fails : MissReason → Bool
  | .unfilled | .disabled | .fault | .absent => true
  | .tagParity | .stray => false

def MissReason.code : MissReason → Nat
  | .unfilled => 0
  | .disabled => 1
  | .fault => 2
  | .tagParity => 3
  | .stray => 4
  | .absent => 5

def missDrainOp (s : State) (l : Nat) : State :=
  let v := s.lane l
  match v.missq with
  | [] => s
  | r :: rest =>
    let s := s.setLane l { v with missq := rest }
    let s := match (if r.reason.fails then s.rowOfTag l r.tag else none) with
      | some (j, i) => s.failRows j [i] cMiss
      | none => s
    let v := s.lane l
    if v.missLog.length < 64 then (s.setLane l { v with missLog := v.missLog ++ [r] }).laneEvent l 0 else s

/-- MISS_DRAIN (R112). -/
def execMissDrain (lane : BitVec 6) (s : State) : Host.Outcome State Fault Refusal :=
  if !s.serves (.missDrain lane) then .next s else
  let t := missDrainOp s lane.toNat
  .next { s with lanes := t.lanes, jobs := t.jobs, hdrs := t.hdrs }

/-- MISSQ_LO_READ (Table 05-6). -/
def missqLoOp (s : State) (l : Nat) : State :=
  if !s.laneUp l then { s with rdata := 0#32 }
  else
    let v := s.lane l
    let r := v.missLog.head?
    { s.setLane l { v with latched := r, loRead := true } with
      rdata := match r with | some r => r.tag | none => 0#32 }

def execMissqLoRead (lane : BitVec 6) (s : State) : Host.Outcome State Fault Refusal :=
  if !s.serves (.missqLoRead lane) then .next s.shut else
  let t := missqLoOp s lane.toNat
  .next { s with lanes := t.lanes, rdata := t.rdata }

/-- MISSQ_HI_READ (Table 05-6). -/
def missqHiOp (s : State) (l : Nat) : State :=
  let v := s.lane l
  if !s.laneUp l ∨ !v.loRead then { s with rdata := 0#32 }
  else match v.latched with
    | none => { s.setLane l { v with loRead := false } with rdata := 0#32 }
    | some r =>
      { s.setLane l { v with loRead := false, latched := none, missLog := v.missLog.drop 1 } with
        rdata := BitVec.ofNat 32 (r.reason.code + 16) }

def execMissqHiRead (lane : BitVec 6) (s : State) : Host.Outcome State Fault Refusal :=
  if !s.serves (.missqHiRead lane) then .next s.shut else
  let t := missqHiOp s lane.toNat
  .next { s with lanes := t.lanes, rdata := t.rdata }

/-! ## Enable and drain (R115, R117) -/

/-- LCTRL.ENABLE of a lane is written. -/
def State.setLaneEnable (s : State) (l : Nat) (on : Bool) : State :=
  s.wr (pgMerge l) (laneOff l) (if on then 1#32 else 0#32)

def laneDisableOp (s : State) (l : Nat) : State :=
  if !s.laneUp l then s
  else
    let s := s.setLaneEnable l false
    let v := s.lane l
    s.setLane l { v with reEnable := false, st := if v.st = .running then .draining else v.st }

/-- LANE_DISABLE (R115). -/
def execLaneDisable (lane : BitVec 6) (s : State) : Host.Outcome State Fault Refusal :=
  if !s.serves (.laneDisable lane) then .next s else
  let t := laneDisableOp s lane.toNat
  .next { s with lanes := t.lanes, regs := t.regs, ret := t.ret }

/-- A write of 1 to a lane's ENABLE takes effect on the lane (R115, R117). MERGE_LDIS_TAG keeps the tag of the last drain, and is
0 after reset: R119 gives it no value before a DISABLED beat (DESIGN CHOICE, log 144). -/
def State.laneOn (s : State) (l : Nat) : State :=
  let v := s.lane l
  match v.st with
  | .off => s.setLane l { v with disSeen := false, st := if s.ready then .running else .off }
  | .draining => s.setLane l { v with disSeen := false, reEnable := true }
  | _ => s.setLane l { v with disSeen := false }

def laneEnableOp (s : State) (l : Nat) : State :=
  if !s.laneUp l then s else (s.setLaneEnable l true).laneOn l

/-- LANE_ENABLE (R115). -/
def execLaneEnable (lane : BitVec 6) (s : State) : Host.Outcome State Fault Refusal :=
  if !s.serves (.laneEnable lane) then .next s else
  let t := laneEnableOp s lane.toNat
  .next { s with lanes := t.lanes, regs := t.regs, ret := t.ret }

def laneDrainedOp (s : State) (l : Nat) : State :=
  let v := s.lane l
  if v.st = .draining ∧ v.ledger = [] then
    (s.setLane l { v with st := if v.reEnable then .running else .off, reEnable := false }).laneEvent l 2
  else s

/-- DRAINED (R115). -/
def execLaneDrained (lane : BitVec 6) (s : State) : Host.Outcome State Fault Refusal :=
  if !s.serves (.laneDrained lane) then .next s else
  let t := laneDrainedOp s lane.toNat
  .next { s with lanes := t.lanes, hdrs := t.hdrs }

/-- A lane enters FAULT (R117, Table 15-4). -/
def State.laneFault (s : State) (l : Nat) : State :=
  let v := s.lane l
  if !s.laneUp l ∨ v.st = .fault then s
  else ((s.setLane l { v with st := .fault, metErr := some s.lcount }).laneEvent l 3).logOpen 0x12 (pgMerge l) l

/-- LANE_FAULT (R117). -/
def execLaneFault (lane : BitVec 6) (s : State) : Host.Outcome State Fault Refusal :=
  if !s.serves (.laneFault lane) then .next s else
  let t := s.laneFault lane.toNat
  .next { s with
    lanes := t.lanes, hdrs := t.hdrs, log := t.log, logOvf := t.logOvf, fresh := t.fresh, ctrs := t.ctrs,
    regs := t.regs }

/-- STATE of a MERGE page, in the order of precedence of R115. -/
def State.mergePage (s : State) (page : Nat) : UnitState :=
  let st (q : Nat) : UnitState := (s.lane (4 * (page - 0x050) + q)).st
  let any (u : UnitState) : Bool := (List.range 4).any fun q => st q == u
  if any .fault then .fault else if any .running then .running else if any .draining then .draining else .off

end Sys2Proof.Machine
end

