-- ==== Sys2Proof/Machine/Links.lean ====
section
/-! DEFINITION. Kamfen links: frames, go-back-N, training, routes, collectives (13_links.md R291 to R305). -/
namespace Sys2Proof.Machine

def State.port (s : State) (p : Nat) : Port := tget {} s.ports p

def State.setPort (s : State) (p : Nat) (v : Port) : State := { s with ports := tput s.ports p v }

/-- The port carries frames (Table 13-1). -/
def Port.up (v : Port) : Bool := v.st == .up || v.st == .degraded

/-! ## Frames (R293, Table 13-2) -/

structure FrameHdr where
  type : Nat
  seq : Nat := 0
  ack : Nat := 0
  src : Nat := 0
  dst : Nat := 0
  job : Nat := 0
  attempt : Nat := 0
  step : Nat := 0
  op : Nat := 0
  coll : Nat := 0
  len : Nat := 0
  credit : Nat := 0
  chunk : Nat := 0
deriving DecidableEq, Repr

def FrameHdr.bytes (h : FrameHdr) : List Byte :=
  leBytes 4 (h.type + 2 ^ 4 * (h.seq % 4096) + 2 ^ 16 * (h.ack % 4096)) ++
  leBytes 4 (h.src + 2 ^ 10 * h.dst + 2 ^ 20 * h.job + 2 ^ 28 * h.attempt) ++
  leBytes 4 (h.step % 2 ^ 32) ++ leBytes 4 (h.op + 2 ^ 4 * h.coll + 2 ^ 12 * h.len + 2 ^ 20 * (h.credit % 4096)) ++
  leBytes 5 h.chunk ++ zeroBytes 11

/-- A frame of 292 bytes with its CRC, byte i in bits 8i+7:8i. -/
def mkFrame (h : FrameHdr) (payload : List Byte) : BitVec 2336 :=
  let b := h.bytes ++ (payload ++ zeroBytes 256).take 256
  BitVec.ofNat 2336 (ofLe (b ++ leBytes 4 (crc32 b).toNat))

def frameBytes (f : BitVec 2336) : List Byte := leBytes 292 f.toNat

def frameCrcOk (f : BitVec 2336) : Bool :=
  let b := frameBytes f
  crc32 (b.take 288) == BitVec.ofNat 32 (ofLe (b.drop 288))

def frameHdr (f : BitVec 2336) : FrameHdr :=
  let w (i : Nat) : W := (f >>> (32 * i)).setWidth 32
  { type := bitsOf (w 0) 3 0, seq := bitsOf (w 0) 15 4, ack := bitsOf (w 0) 27 16, src := bitsOf (w 1) 9 0,
    dst := bitsOf (w 1) 19 10, job := bitsOf (w 1) 27 20, attempt := bitsOf (w 1) 31 28, step := (w 2).toNat,
    op := bitsOf (w 3) 3 0, coll := bitsOf (w 3) 11 4, len := bitsOf (w 3) 19 12, credit := bitsOf (w 3) 31 20,
    chunk := (w 4).toNat + 2 ^ 32 * bitsOf (w 5) 7 0 }

def framePayload (f : BitVec 2336) : List Byte := ((frameBytes f).drop 32).take 256

/-- The frame carries no valid TYPE or OP (R293). -/
def FrameHdr.reserved (h : FrameHdr) : Bool := h.type = 0 || decide (5 < h.type) || decide (6 < h.op)

def tColl : Nat := 1
def tP2p : Nat := 2
def tCtrl : Nat := 3
def tIdle : Nat := 4
def tNak : Nat := 5

/-! ## Sending (R294, R296) -/

/-- The port may send its next queued frame: it carries frames, its replay buffer holds fewer than 1,024, and a COLL or
P2P frame has credit. -/
def Port.canSend (v : Port) (f : BitVec 2336) : Bool :=
  v.up && v.replay.length < 1024 && ((frameHdr f).type = tCtrl || v.credit < 2048)

/-- Queued frames go out while they may; each takes the next SEQ and carries ACK and CREDIT. -/
def State.pumpPort (p : Nat) : Nat → State → State
  | 0, s => s
  | fuel + 1, s =>
    let v := s.port p
    match v.resend ++ v.queue with
    | [] => s
    | f :: _ =>
      if v.canSend f then
        let h := frameHdr f
        let g := mkFrame { h with seq := v.txSeq.toNat, ack := v.rxSeq.toNat, credit := v.freed.toNat } (framePayload f)
        let s := s.setPort p { v with
          resend := v.resend.drop 1, queue := if v.resend = [] then v.queue.drop 1 else v.queue,
          replay := v.replay ++ [g], txSeq := v.txSeq + 1#12, freed := 0#12
          ackAt := if v.replay = [] then s.lcount else v.ackAt
          credit := if h.type = tCtrl then v.credit else v.credit + 1 }
        State.pumpPort p fuel (s.inc (pgLink p) 0x200)
      else s

def State.pump (s : State) (p : Nat) : State := s.pumpPort p ((s.port p).resend.length + (s.port p).queue.length)

/-- An IDLE or NAK frame goes out: a zero payload, the next SEQ to be used, ACK and CREDIT (R293). -/
def State.sendBare (s : State) (p type : Nat) : State :=
  let v := s.port p
  let f := mkFrame { type := type, seq := v.txSeq.toNat, ack := v.rxSeq.toNat, src := s.devid, credit := v.freed.toNat } []
  (s.setPort p { v with bare := some f, freed := 0#12 }).inc (pgLink p) 0x200

/-- LINK_CFG.TOPO = 1. -/
def State.fabric (s : State) : Bool := bitsOf (s.rd (pgLink 0) 0x080) 11 10 = 1

/-- The port accepts new frames: not DRAINING or OFF (R304). -/
def State.portOpen (s : State) (p : Nat) : Bool := p < s.part.nPorts && s.running (pgLink p)

/-- The port a new frame takes, of those that accept frames (R296, R304): under FABRIC the first of the scan that is UP or
DEGRADED, or one that trains where none is; under FULL the port of the peer. Where none accepts it the frame goes nowhere. -/
def State.route (s : State) (dst chunk : Nat) : Option Nat :=
  if s.fabric then
    let order := ((List.range 8).map fun i => (dst + chunk + i) % 8).filter s.portOpen
    (order.find? fun p => (s.port p).up).orElse fun _ => order.find? fun p => (s.port p).st == .training
  else (List.range s.part.nPorts).find? fun p => s.portOpen p && bitsOf (s.rd (pgLink p) 0x044) 9 0 == dst

def routeKey (h : FrameHdr) : Nat := if h.type = tCtrl then 0 else h.chunk

/-- A frame is queued on its port: CTRL ahead of queued COLL and P2P frames (R302). -/
def State.sendFrame (s : State) (h : FrameHdr) (payload : List Byte) : State :=
  match s.route h.dst (routeKey h) with
  | none => s
  | some p =>
    let v := s.port p
    let f := mkFrame h payload
    let isCtrl (g : BitVec 2336) : Bool := (frameHdr g).type = tCtrl
    let q := if h.type = tCtrl then v.queue.takeWhile isCtrl ++ [f] ++ v.queue.dropWhile isCtrl else v.queue ++ [f]
    (s.setPort p { v with queue := q }).pump p

/-- An unacknowledged frame of a port that went DOWN is resent on another port, behind those resent before it and ahead of every
queued frame (R302, R303). -/
def State.resendFrame (s : State) (f : BitVec 2336) : State :=
  let h := frameHdr f
  match s.route h.dst (routeKey h) with
  | none => s
  | some p => (s.setPort p { s.port p with resend := (s.port p).resend ++ [f] }).pump p

/-! ## Collectives (R297, R298) -/

def CollOp.code : CollOp → Nat
  | .allreduceF32 => 0 | .allreduceI32 => 1 | .sumI64 => 2 | .reduceScatterF32 => 3 | .allgather => 4 | .p2p => 5 | .bcast => 6

def collOpOf (n : Nat) : Option CollOp :=
  [CollOp.allreduceF32, .allreduceI32, .sumI64, .reduceScatterF32, .allgather, .p2p, .bcast][n]?

/-- NDEV and RANK of a job: the image's in train mode, the shard's in serving (R300). -/
def State.jobNdev (s : State) (j : Nat) : Nat :=
  let v := s.job j
  if v.isTrain then v.ndev else max 1 (s.model v.model).nshards.toNat

def State.jobRank (s : State) (j : Nat) : Nat :=
  let v := s.job j
  if v.isTrain then v.rank else if s.jobNdev j = 1 then 0 else bitsOf (s.rd pgIntake 0x048) 9 0

/-- Device of a rank of a job. -/
def State.deviceOf (s : State) (j r : Nat) : Nat := (s.rankEntry j r).getD 0

/-- The (STEP, ATTEMPT) a job is at. -/
def State.stepKey (s : State) (j : Nat) : BitVec 64 × BitVec 4 :=
  let v := s.job j
  match v.cur with
  | some st => (st.num, st.attempt)
  | none => (v.next, v.train.attempt)

def State.coll? (s : State) (j : Nat) (step : W) (attempt : BitVec 4) (c : Nat) : Option Coll :=
  s.colls.find? fun x => x.job.toNat = j && x.step == step && x.attempt == attempt && x.coll.toNat = c

def State.setColl (s : State) (v : Coll) : State :=
  let same (x : Coll) : Bool := x.job == v.job && x.step == v.step && x.attempt == v.attempt && x.coll == v.coll
  if s.colls.any same then { s with colls := s.colls.map fun x => if same x then v else x }
  else { s with colls := s.colls ++ [v] }

/-- Bytes of an element of a reduction. -/
def CollOp.elem : CollOp → Nat
  | .sumI64 => 8
  | _ => 4

/-- Byte range a rank owns of n bytes (R298). -/
def ownRange (op : CollOp) (n ndev r : Nat) : Nat × Nat :=
  let w := op.elem
  let e := n / w
  (r * e / ndev * w, (r + 1) * e / ndev * w)

/-- A reduction of the bytes of one range over the ranks' partials, in rank order. -/
def reduceBytes (op : CollOp) (parts : List (List Byte)) : List Byte :=
  let w := op.elem
  let n := ((parts.headD []).length) / w
  (List.range n).flatMap fun i =>
    let vs := parts.map fun p => ofLe ((p.drop (w * i)).take w)
    match op with
    | .allreduceI32 => leBytes 4 (vs.sum % 2 ^ 32)
    | .sumI64 => leBytes 8 (vs.sum % 2 ^ 64)
    | _ => leBytes 4 ((treeSum (vs.map (BitVec.ofNat 32))).getD 0x80000000#32).toNat

/-- A payload lands: its place is fixed by who sent it, its CHUNK and its LEN, so a duplicate changes nothing (R297). -/
def Coll.land (c : Coll) (dev chunk : Nat) (b : List Byte) : Coll :=
  let same (x : Nat × Nat × List Byte) : Bool := x.1 = dev && x.2.1 = chunk && x.2.2.length = b.length
  if c.landed.any same then { c with landed := c.landed.map fun x => if same x then (dev, chunk, b) else x }
  else { c with landed := c.landed ++ [(dev, chunk, b)] }

/-- The payloads of a chunk landed from a device. -/
def Coll.from_ (c : Coll) (dev chunk : Nat) : List (List Byte) :=
  (c.landed.filter fun (d, k, _) => d = dev && k = chunk).map fun (_, _, b) => b

/-- Bytes [lo, hi) that a device sent as one range; none while a chunk is missing. A chunk's valid bytes end with its range, so
a chunk in which this rank's elements and the sender's meet comes once for each, and its LEN tells which is which (DESIGN
CHOICE, log 151). -/
def Coll.bytesFrom (c : Coll) (dev lo hi : Nat) : Option (List Byte) :=
  let ks := (List.range (ceilDiv hi 256)).filter fun k => lo / 256 ≤ k && lo < hi
  let got := ks.map fun k => (c.from_ dev k).find? fun b => b.length = min 256 (hi - 256 * k)
  if got.all (·.isSome) then some (((got.flatMap (·.getD [])).drop (lo - lo / 256 * 256)).take (hi - lo)) else none

/-- Bytes a device sent from a chunk on, as far as every chunk has landed. -/
def Coll.streamFrom (c : Coll) (dev base : Nat) : List Byte :=
  (((List.range c.landed.length).map fun k => (c.from_ dev (base + k)).getLast?).takeWhile (·.isSome)).flatMap (·.getD [])

/-- The reduced bytes of this rank's own range, once every partial has landed. -/
def State.ownResult (s : State) (c : Coll) : Option (List Byte) :=
  let j := c.job.toNat
  let n := s.jobNdev j
  let me := s.jobRank j
  let (lo, hi) := ownRange c.op c.mine.length n me
  if !c.started then none
  else
    let parts := (List.range n).map fun r =>
      if r = me then some ((c.mine.drop lo).take (hi - lo))
      else c.bytesFrom (s.deviceOf j r) lo hi
    if parts.all (·.isSome) then some (reduceBytes c.op (parts.map (·.getD []))) else none

/-- Chunks of a byte range of some data are sent to a rank, their valid bytes up to the end of the range. -/
def State.sendRange (s : State) (c : Coll) (data : List Byte) (lo hi base r : Nat) : State :=
  let j := c.job.toNat
  ((List.range (ceilDiv hi 256)).filter fun k => lo / 256 ≤ k && lo < hi).foldl (fun (s : State) k =>
    let p := (data.drop (256 * k)).take (min 256 (hi - 256 * k))
    s.sendFrame { type := if c.op = .p2p then tP2p else tColl, src := s.devid, dst := s.deviceOf j r, job := j, attempt := c.attempt.toNat,
                  step := c.step.toNat, op := c.op.code, coll := c.coll.toNat, len := p.length - 1, chunk := base + k } p) s

def CollOp.reduces : CollOp → Bool
  | .allreduceF32 | .allreduceI32 | .sumI64 | .reduceScatterF32 => true
  | _ => false

/-- An owner whose partials are all present sends its results to every other rank (R298). -/
def State.sendResults (s : State) (c : Coll) : State :=
  if !c.op.reduces ∨ c.op = .reduceScatterF32 ∨ c.sentRes ∨ c.failed then s
  else match s.ownResult c with
    | none => s
    | some b =>
      let j := c.job.toNat
      let n := s.jobNdev j
      let me := s.jobRank j
      let (lo, hi) := ownRange c.op c.mine.length n me
      let data := c.mine.take lo ++ b ++ c.mine.drop hi
      let s := s.setColl { c with sentRes := true }
      ((List.range n).filter (· ≠ me)).foldl (fun (s : State) r => s.sendRange c data lo hi 0 r) s

/-- A serve job whose model is sharded (R300). -/
def State.sharded (s : State) (j : Nat) : Bool := !(s.job j).isTrain && decide (1 < s.jobNdev j)

/-- The chunk at which a rank's contribution to an ALLGATHER of n bytes begins. Contributions of a sharded layer differ in
length, and no rank knows the others': each has 2^26 chunks (DESIGN CHOICE, log 152). -/
def State.gatherBase (s : State) (j r n : Nat) : Nat := if s.sharded j then r * 2 ^ 26 else r * ceilDiv n 256

/-- A collective fails on this device (R303). One of a train attempt that has yet to form fails that attempt when its turn in
the exchange comes (R231, R242). -/
def State.collFail (s : State) (v : Coll) : State :=
  let j := v.job.toNat
  let s := ((s.setColl { v with failed := true }).inc (pgLink 0) 0x300).raise (pgLink 0) 8
  let w := s.job j
  let (num, att) := s.stepKey j
  if w.isTrain then
    if w.cur.isSome ∧ v.step = num.setWidth 32 ∧ v.attempt = att then s.setJob j { w with train := { w.train with linkFail := true } }
    else s
  else match w.cur with
    | some st => if st.num.setWidth 32 = v.step then s.failRows j (List.range st.rows.length) cForm else s
    | none => s

/-- The device's port went DOWN under FULL: it is unreachable until the port is up again (R303). -/
def State.cutOff (s : State) (dev : Nat) : Bool :=
  !s.fabric && (List.range s.part.nPorts).any fun p =>
    bitsOf (s.rd (pgLink p) 0x044) 9 0 == dev && s.unit (pgLink p) == .fault && (s.port p).st == .down

/-- Ranks a collective must send to or receive from on this device (R298). -/
def State.collNeeds (s : State) (v : Coll) : List Nat :=
  let me := s.jobRank v.job.toNat
  let others := (List.range (s.jobNdev v.job.toNat)).filter (· ≠ me)
  match v.op with
  | .bcast => if me = 0 then others else [0]
  | .p2p => if v.peer.toNat = me then [] else [v.peer.toNat]
  | _ => others

/-- A collective under way fails where a rank it needs is unreachable (R303). -/
def State.collCheck (s : State) (v : Coll) : State :=
  if v.started ∧ !v.failed ∧ v.result.isNone ∧
      (s.collNeeds v).any (fun r => s.cutOff (s.deviceOf v.job.toNat r)) then s.collFail v else s

/-- A collective starts on this device with its contribution (R297, R298). A P2P names its other rank, and starts on the one that
receives with as many bytes as are to come; no rule has a step run one. -/
def State.startColl (s : State) (j c : Nat) (op : CollOp) (mine : List Byte) (peer : Nat := 0) (sends : Bool := true) : State :=
  let (num, att) := s.stepKey j
  let step : W := num.setWidth 32
  let old : Coll := (s.coll? j step att c).getD
    { job := BitVec.ofNat 8 j, step := step, attempt := att, coll := BitVec.ofNat 8 c, op := op }
  let v := { old with op := op, started := true, startAt := s.lcount, mine := mine, sends := sends, peer := BitVec.ofNat 10 peer }
  let s := s.setColl v
  let n := s.jobNdev j
  let me := s.jobRank j
  let others := (List.range n).filter (· ≠ me)
  let s :=
    match op with
    | .allgather => others.foldl (fun (s : State) r => s.sendRange v mine 0 mine.length (s.gatherBase j me mine.length) r) s
    | .bcast => if me = 0 then others.foldl (fun (s : State) r => s.sendRange v mine 0 mine.length 0 r) s else s
    | .p2p => if peer = me ∨ !sends then s else s.sendRange v mine 0 mine.length 0 peer
    | _ => others.foldl (fun (s : State) r =>
        s.sendRange v mine (ownRange op mine.length n r).1 (ownRange op mine.length n r).2 0 r) s
  (s.sendResults v).collCheck v

/-- A collective's result on this device, once everything it needs has landed (R298). -/
def State.collResult (s : State) (c : Coll) : Option (List Byte) :=
  let j := c.job.toNat
  let n := s.jobNdev j
  let me := s.jobRank j
  if c.failed then none
  else match c.op with
    | .allgather =>
      if !c.started then none
      else
        let k := ceilDiv c.mine.length 256
        let parts := (List.range n).map fun r =>
          if r = me then some c.mine
          else (c.bytesFrom (s.deviceOf j r) (256 * k * r) (256 * k * r + c.mine.length))
        if parts.all (·.isSome) then some (parts.flatMap (·.getD [])) else none
    | .bcast =>
      if me = 0 then (if c.started then some c.mine else none)
      else
        match (c.from_ (s.deviceOf j 0) 0).head? with
        | none => none
        | some b =>
          let len := ofLe (b.take 4)
          c.bytesFrom (s.deviceOf j 0) 0 len
    | .p2p =>
      if !c.started then none
      else if c.sends ∨ c.peer.toNat = me then some c.mine
      else c.bytesFrom (s.deviceOf j c.peer.toNat) 0 c.mine.length
    | _ =>
      match s.ownResult c with
      | none => none
      | some own =>
        if c.op = .reduceScatterF32 then some own
        else
          let parts := (List.range n).map fun r =>
            if r = me then some own
            else
              let (lo, hi) := ownRange c.op c.mine.length n r
              c.bytesFrom (s.deviceOf j r) lo hi
          if parts.all (·.isSome) then some (parts.flatMap (·.getD [])) else none

def collectiveDoneOp (s : State) (j c : Nat) : State :=
  let (num, att) := s.stepKey j
  match s.coll? j (num.setWidth 32) att c with
  | none => s
  | some v =>
    if v.result.isSome then s
    else match s.collResult v with
      | some b => s.setColl { v with result := some b }
      | none => s

def linkCollTimeoutOp (s : State) (j c : Nat) : State :=
  let (num, att) := s.stepKey j
  match s.coll? j (num.setWidth 32) att c with
  | none => s
  | some v =>
    if v.started ∧ v.result.isNone ∧ !v.failed ∧
        v.startAt.toNat + (s.rd (pgLink 0) 0x088).toNat ≤ s.lcount.toNat then s.collFail v
    else s

/-- LINK_COLL_TIMEOUT (R303). -/
def execLinkCollTimeout (job coll : BitVec 8) (s : State) : Host.Outcome State Fault Refusal :=
  if !s.serves (.linkCollTimeout job coll) then .next s else
  let t := linkCollTimeoutOp s job.toNat coll.toNat
  .next { s with colls := t.colls, jobs := t.jobs, ctrs := t.ctrs, hdrs := t.hdrs, regs := t.regs }

/-- The landing space of a job's collectives of an ended step or attempt is released (R297). -/
def State.releaseColls (s : State) (j : Nat) (step : W) (attempt : BitVec 4) : State :=
  { s with colls := s.colls.filter fun c => !(c.job.toNat = j && c.step == step && c.attempt == attempt) }

/-! ## Replay and training (R292, R294) -/

/-- The port trains. -/
def State.trainPort (s : State) (p : Nat) : State :=
  (s.setPort p { s.port p with st := .training, lanes := 0#9, replays := 0 }).inc (pgLink p) 0x228

/-- Every outstanding frame is resent; REPLAY_MAX replays of one SEQ make the port train. -/
def State.replayPort (s : State) (p : Nat) : State :=
  let v := s.port p
  if v.replay = [] then s
  else
    let s := s.count (regAt (pgLink p) 0x218) v.replay.length
    let v := { v with replays := v.replays + 1, ackAt := s.lcount }
    let s := s.setPort p v
    if bitsOf (s.rd (pgLink 0) 0x080) 15 12 ≤ v.replays then s.trainPort p else s

/-- A frame whose CRC failed: one NAK until the expected SEQ is accepted (R294). -/
def State.badFrame (s : State) (p : Nat) : State :=
  let s := s.inc (pgLink p) 0x210
  let v := s.port p
  if v.nakSent then s else (s.setPort p { v with nakSent := true }).sendBare p tNak

/-- ACK and CREDIT of a good frame. -/
def Port.honour (v : Port) (h : FrameHdr) (now : BitVec 64) : Port :=
  let first := (v.txSeq.toNat + 4096 - v.replay.length) % 4096
  let n := (h.ack + 4096 - first) % 4096
  let v := { v with credit := v.credit - h.credit }
  if 0 < n ∧ n ≤ v.replay.length then { v with replay := v.replay.drop n, ackAt := now, replays := 0 } else v

/-- How a (STEP, ATTEMPT) compares with the job's current one (R297, R9): of an earlier step or attempt, or not. -/
def State.staleKey (s : State) (j : Nat) (step : W) (attempt : Nat) : Bool :=
  let (num, att) := s.stepKey j
  let cur : W := num.setWidth 32
  !((step = cur && att.toNat ≤ attempt) || step = cur + 1#32)

/-- A COLL or P2P frame accepted: landed, or discarded as stale (R297). -/
def State.landFrame (s : State) (p : Nat) (h : FrameHdr) (op : CollOp) (payload : List Byte) : State :=
  let step : W := BitVec.ofNat 32 h.step
  if s.staleKey h.job step h.attempt then s.inc (pgLink p) 0x220
  else
    let att := BitVec.ofNat 4 h.attempt
    let old : Coll := (s.coll? h.job step att h.coll).getD
      { job := BitVec.ofNat 8 h.job, step := step, attempt := att, coll := BitVec.ofNat 8 h.coll, op := op }
    if old.failed then s
    else
      let v := old.land h.src h.chunk (payload.take (h.len + 1))
      (s.setColl v).sendResults v

/-- A CTRL frame accepted (R302): votes, decisions and questions wait to be acted on; another kind, and a vote or decision of an
earlier step or attempt, is discarded and counted (R297). A question asks of an attempt that rank 0 may have left. -/
def State.landCtrl (s : State) (p : Nat) (h : FrameHdr) (b : List Byte) : State :=
  let byte (i : Nat) : Byte := b.getD i 0#8
  let w : W := BitVec.ofNat 32 (ofLe ((b.drop 4).take 4))
  let put (m : CtrlMsg) : State :=
    { s with ctrlIn := s.ctrlIn ++
        [{ port := BitVec.ofNat 3 p, job := BitVec.ofNat 8 h.job, step := BitVec.ofNat 32 h.step, attempt := BitVec.ofNat 4 h.attempt,
           src := BitVec.ofNat 10 h.src, msg := m }] }
  let stale := !(s.job h.job).isTrain || s.staleKey h.job (BitVec.ofNat 32 h.step) h.attempt
  match ofLe (b.take 4) with
  | 1 => if stale then s.inc (pgLink p) 0x220 else put (.vote { rank := BitVec.ofNat 10 (bitsOf w 9 0), nan := bitOf w 10, reasons := byte 6 })
  | 2 => if stale then s.inc (pgLink p) 0x220 else put (.decision { commit := !bitOf w 0, reasons := byte 5 })
  | 3 => put (.ask (BitVec.ofNat 10 (bitsOf w 9 0)))
  | _ => s.inc (pgLink p) 0x220

/-- The 16 receive buffers of a port for CTRL frames hold messages still to be acted on: the rule gives no credit for them, and a
frame that finds none is not accepted, to be resent (DESIGN CHOICE, log 150). -/
def State.ctrlFull (s : State) (p : Nat) : Bool := decide (16 ≤ (s.ctrlIn.filter fun m => m.port.toNat = p).length)

/-- A frame received. One accepted while nothing is queued is answered by an IDLE frame, which carries its ACK and CREDIT: the
rules say what an IDLE frame holds and not when it is sent (DESIGN CHOICE, log 150). A NAK for a SEQ that an ACK timeout has
already had replayed starts no second replay (Table 13-3). -/
def frameRxOp (s : State) (p : Nat) (f : BitVec 2336) : State :=
  let v := s.port p
  let h := frameHdr f
  if !(p < s.part.nPorts && v.up) then s
  else if !frameCrcOk f ∨ h.reserved then s.badFrame p
  else
    let v := v.honour h s.lcount
    let s := s.setPort p v
    if h.type = tNak then (if v.replays = 0 then s.replayPort p else s).pump p
    else if h.type = tIdle then s.pump p
    else if h.seq ≠ v.rxSeq.toNat ∨ (h.type = tCtrl ∧ s.ctrlFull p) then s.pump p
    else
      let v := { v with rxSeq := v.rxSeq + 1#12, nakSent := false,
                        freed := if h.type = tCtrl then v.freed else v.freed + 1#12 }
      let s := (s.setPort p v).inc (pgLink p) 0x208
      let s := if h.type = tCtrl then s.landCtrl p h (framePayload f)
        else match collOpOf h.op with
          | some op => s.landFrame p h op (framePayload f)
          | none => s
      let s := s.pump p
      if (s.port p).queue = [] then s.sendBare p tIdle else s

/-- FRAME_RX (R294). -/
def execFrameRx (port : BitVec 3) (bits : BitVec 2336) (s : State) : Host.Outcome State Fault Refusal :=
  if !s.serves (.frameRx port bits) then .next s else
  let t := frameRxOp s port.toNat bits
  .next { s with
    ports := t.ports, colls := t.colls, ctrlIn := t.ctrlIn, ctrs := t.ctrs, hdrs := t.hdrs, regs := t.regs }

def linkAckTimeoutOp (s : State) (p : Nat) : State :=
  let v := s.port p
  if v.up ∧ v.replay ≠ [] ∧ v.ackAt.toNat + (s.rd (pgLink p) 0x048).toNat ≤ s.lcount.toNat then s.replayPort p else s

/-- LINK_ACK_TIMEOUT (R294). -/
def execLinkAckTimeout (port : BitVec 3) (s : State) : Host.Outcome State Fault Refusal :=
  if !s.serves (.linkAckTimeout port) then .next s else
  let t := linkAckTimeoutOp s port.toNat
  .next { s with ports := t.ports, ctrs := t.ctrs, hdrs := t.hdrs, regs := t.regs }

def laneFailOp (s : State) (p lane : Nat) : State :=
  let v := s.port p
  if v.up ∧ lane < 9 then s.trainPort p else s

/-- LANE_FAIL (R292). LANE_OK keeps the lanes' last check until the training has checked them again. -/
def execLaneFail (port : BitVec 3) (lane : BitVec 4) (s : State) : Host.Outcome State Fault Refusal :=
  if !s.serves (.laneFail port lane) then .next s else
  let t := laneFailOp s port.toNat lane.toNat
  .next { s with ports := t.ports, ctrs := t.ctrs, hdrs := t.hdrs, regs := t.regs }

/-- A port goes DOWN: its page's STATE is FAULT (R292). Under FABRIC its unacknowledged frames are resent, in SEQ order, and then
its queued ones go elsewhere; under FULL the peer is unreachable, and the collectives under way that need it fail (R303). -/
def State.portDown (s : State) (p : Nat) : State :=
  let v := s.port p
  let s := s.setPort p { v with st := .down, lanes := 0#9, replay := [], resend := [], queue := [], credit := 0 }
  let s := (s.setUnit (pgLink p) .fault).raise (pgLink p) 0
  if s.fabric then
    let s := (v.replay ++ v.resend).foldl (fun (s : State) f => s.resendFrame f) s
    v.queue.foldl (fun (s : State) f => s.sendFrame (frameHdr f) (framePayload f)) s
  else s.colls.foldl (fun (s : State) c => s.collCheck c) s

/-- Lanes that carry frames, of those healthy: eight, or the four lowest (R292). -/
def activeLanes (ok : BitVec 9) : Option (List Nat) :=
  let h := (List.range 9).filter ok.getLsbD
  if 8 ≤ h.length then some (h.take 8) else if 4 ≤ h.length then some (h.take 4) else none

def lanesBits (l : List Nat) : BitVec 9 := l.foldl (fun w i => w ||| BitVec.ofNat 9 (2 ^ i)) 0#9

/-- Training of a port ends with these healthy lanes (R292). -/
def State.portTrained (s : State) (p : Nat) (ok : BitVec 9) : State :=
  let old := (s.port p).laneOk
  let s := s.setPort p { s.port p with laneOk := ok }
  let out := (List.range 9).filter fun i => !ok.getLsbD i && (old.getLsbD i || old = 0#9)
  let s := out.foldl (fun (s : State) _ => (s.raise (pgLink p) 2).logOpen 0x11 (pgLink p) p) s
  let s := s.raise (pgLink p) 3
  match activeLanes ok with
  | none => s.portDown p
  | some l =>
    let up := l.length = 8
    let s := s.setPort p { s.port p with st := if up then .up else .degraded, lanes := lanesBits l, ackAt := s.lcount }
    let s := if up then s else s.raise (pgLink p) 1
    s.pump p

def linkTrainedOp (s : State) (p : Nat) (ok : BitVec 9) : State :=
  if p < s.part.nPorts ∧ (s.port p).st = .training then s.portTrained p ok else s

/-- LINK_TRAINED (R292). -/
def execLinkTrained (port : BitVec 3) (laneOk : BitVec 9) (s : State) : Host.Outcome State Fault Refusal :=
  if !s.serves (.linkTrained port laneOk) then .next s else
  let t := linkTrainedOp s port.toNat laneOk
  .next { s with
    ports := t.ports, colls := t.colls, jobs := t.jobs, log := t.log, logOvf := t.logOvf, fresh := t.fresh,
    ctrs := t.ctrs, hdrs := t.hdrs, regs := t.regs }

/-! ## The rank table (R295) -/

def linkRcmdOp (s : State) (v : W) : State :=
  let s := s.wr (pgLink 0) 0x084 (v &&& 0x1FFFFFFF#32)
  if !v.getLsbD 31 then s
  else
    let j := bitsOf v 7 0
    if (s.job j).st ≠ 0#2 then s.setFld (pgLink 0) 0x084 30 1 1
    else
      let e : BitVec 11 := BitVec.ofNat 11 (bitsOf v 27 18 + 1024 * b2n (bitOf v 28))
      { s with ranks := if e = 0#11 then tdel s.ranks (1024 * j + bitsOf v 17 8) else tput s.ranks (1024 * j + bitsOf v 17 8) e }

/-- LINK_RCMD (R295). -/
def execLinkRcmd (value : W) (s : State) : Host.Outcome State Fault Refusal :=
  if !s.serves (.linkRcmd value) then .next s else
  let t := linkRcmdOp s value
  .next { s with ranks := t.ranks, regs := t.regs }

end Sys2Proof.Machine
end

