-- ==== Sys2Proof/Machine/HostIo.lean ====
section
/-! DEFINITION. Tenant data and parcels over the host port (14_security.md R317; 07_context_cache.md R168 to R171). -/
namespace Sys2Proof.Machine

/-! ## Tenant input and output (R317) -/

/-- Bytes [off, off+n) of an area of tenant input, deciphered; none where a read fails or the tenant has no key slot. -/
def State.tenantIn (s : State) (r : Req) (hi : Nat → Nat) (addr off n : Nat) : Option (List Byte) :=
  match (s.tenantSlot r.tenant).bind (tget? s.keys), s.hostRead (addr + off) n with
  | some k, some bs => some (ctrXor k.hctr r.reqId hi off bs)
  | _, _ => none

/-- Word i of an area of tenant input. -/
def State.tenantWord (s : State) (r : Req) (hi : Nat → Nat) (addr i : Nat) : Option W :=
  (s.tenantIn r hi addr (4 * i) 4).map fun b => BitVec.ofNat 32 (ofLe b)

def State.promptTok (s : State) (r : Req) (p : Nat) : Option Nat :=
  (s.tenantWord r (ctrHi 1) r.promptAddr p).map fun w => bitsOf w 23 0

/-- The word of row p of the labels (R225). -/
def State.labelWord (s : State) (r : Req) (p : Nat) : Option W := s.tenantWord r (ctrHi 4) r.labelAddr p

/-- The rung the table at RUNG_ADDR forces at a position (R133). -/
def State.rungByte (s : State) (r : Req) (p : Nat) : Option Nat :=
  (s.tenantIn r (ctrHi 3) r.rungAddr p 1).map fun b => (b.headD 0#8).toNat % 4

/-- Areas of tenant input a request reads once, before its first row: its prompt, its labels, its rung table, a byte for every
position it can reach (R133, R225). When they are read is the model's choice (DESIGN CHOICE, log 169). -/
def Req.areas (r : Req) : List (Nat × Nat) :=
  [(r.promptAddr, 4 * r.promptLen)] ++ (if r.train then [(r.labelAddr, 4 * r.promptLen)] else []) ++
    (if r.force ∧ r.rungAddr ≠ 0 then [(r.rungAddr, r.promptLen + r.maxNew)] else [])

/-- Input of the request in a slot is asked for. -/
def State.askInput (s : State) (q : Nat) (xs : List (Nat × Nat)) : State :=
  let v := s.slot q
  let n := (xs.map fun (a, n) => (hostPieces a n).length).sum
  xs.foldl (fun (s : State) (a, n) => s.askHost (.tenant (BitVec.ofNat 12 q) v.acceptAt) a n)
    (s.setSlot q { v with inDue := v.inDue + n })

/-- Before a formation, the input of a running request is asked for: its areas once, its draft block for every step (R134). -/
def State.askInputs (s : State) (drafts : Bool) (q : Nat) : State :=
  let v := s.slot q
  let r := s.req q
  let draft : Bool := drafts && v.st == .decode && r.draftAddr != 0 && r.specMax != 0 && !v.draftAsked
  let xs := (if v.inAsked then [] else r.areas) ++ (if draft then [(r.draftAddr, 8 + 4 * r.specMax)] else [])
  if xs = [] then s
  else (s.setSlot q { v with inAsked := true, draftAsked := v.draftAsked || draft }).askInput q xs

/-- A read of the input of a slot's request is answered, or has failed. -/
def State.inputCame (s : State) (q : Nat) (since : BitVec 64) (ok : Bool) : State :=
  let v := s.slot q
  if v.acceptAt = since ∧ v.inDue ≠ 0 then s.setSlot q { v with inDue := v.inDue - 1, inBad := v.inBad || !ok } else s

/-! ## Parcels (R168) -/

def State.prAddr (s : State) (p : Parcel) : Nat := s.prBase + 4096 * p.granule

def State.frameBytes (s : State) (f : Nat) : Nat :=
  match s.poolOf f with
  | some p => 4096 * (s.pool p).units
  | none => 0

/-- Plain bytes of a parcel: its frame and its token record, or the token record alone. -/
def State.parcelPlain (s : State) (p : Parcel) : List Byte :=
  let rec_ := (s.tokRecord p.frame).data
  if p.tokOnly then rec_
  else (s.peek kPages (s.frameSlot (s.frame p.frame)) (s.frameAddr p.frame) (s.frameBytes p.frame)).data ++ rec_

/-- A parcel enciphered or deciphered: AES-256-XTS under the owner's key slot; zeros where the slot is empty. -/
def State.parcelXts (s : State) (enc : Bool) (key : Option Nat) (q : Nat) (p : Parcel) (bs : List Byte) : List Byte :=
  match key.bind (tget? s.keys) with
  | none => zeroBytes bs.length
  | some k =>
    xts enc (keyBytes k.xtsA) (keyBytes k.xtsB) (Config.parcelTweak q p.page (s.slot q).pauseCount).toNat 0 bs

/-- Owner key slot of a request's parcels (R151, R160). -/
def State.reqSlot (s : State) (r : Req) : Option Nat :=
  if r.shareCirc then s.circSlot (s.entry r.adapter).circ.toNat else s.tenantSlot r.tenant

/-! ## Parcels over the port -/

/-- Bytes of a parcel in host memory. -/
def Parcel.bytes (p : Parcel) : Nat := 4096 * p.count

/-- The last write of the parcel at a granule is waiting or outstanding. -/
def State.writing (s : State) (g : Nat) : Bool :=
  s.writeQ.any (fun w => w.parcel.isSome && w.granule == g) || s.hostWrites.any fun (_, w) => w.parcel.isSome && w.granule == g

/-- The reads of a parcel that leaves are recorded: an uncorrectable one, or one that faults, ends the paused request with
MEM_UNCORR in an out-of-step record, and takes the frame's entry out (Table 12-4 class 7; R164). -/
def State.noteParcel (s : State) (q : Nat) (p : Parcel) : State :=
  let a := s.tokRecord p.frame
  let b : MemRes := if p.tokOnly then { data := [] }
    else s.peek kPages (s.frameSlot (s.frame p.frame)) (s.frameAddr p.frame) (s.frameBytes p.frame)
  if !a.unc ∧ !b.unc then s
  else
    let s := (s.note a (s.tokAt p.frame 0) 7).note b (s.frameAddr p.frame) 7
    let s := if b.unc ∧ !b.fault then s.removeWays fun w => w.frame.toNat == p.frame else s
    if (s.slot q).parcels.contains p ∧ (s.slot q).st = .paused ∧ (s.slot q).pendingEnd.isNone then (s.dropParked q).queueEnd q { reason := 0x13#8 } else s

/-- An outbound parcel is written (R169). -/
def State.sendParcel (s : State) (q : Nat) (p : Parcel) : State :=
  if s.writing p.granule then s
  else
    let bs := s.parcelXts true (s.frameSlot (s.frame p.frame)) q p (s.parcelPlain p)
    (s.noteParcel q p).hostPut (s.prAddr p) bs (some (BitVec.ofNat 12 q, p.page)) p.granule

/-- A returning parcel's next read of 4 KiB (R171). -/
def State.fetchParcel (s : State) (q : Nat) (p : Parcel) : State :=
  let u : HostUse := .parcel (BitVec.ofNat 12 q) p.page
  if s.reading u then s else s.askHost u (s.prAddr p + p.got) 4096

/-- The slot's parcels come back: it is no longer PAUSED or HELD. -/
def Slot.returning (v : Slot) : Bool := v.active && v.pendingEnd.isNone && !v.frameless

/-- Parcels that wait for the port move on: outbound ones are written, returning ones are read. -/
def State.pumpParcels (s : State) : State :=
  let out := (s.slots.flatMap fun (q, v) => (v.parcels.filter fun p => !p.acked).map fun p => (q, p)) ++ s.orphans
  let s := out.foldl (fun (s : State) (q, p) => s.sendParcel q p) s
  let back := s.slots.flatMap fun (q, v) =>
    if v.returning then (v.parcels.filter fun p => p.acked && !p.back).map fun p => (q, p) else []
  back.foldl (fun (s : State) (q, p) => s.fetchParcel q p) s

/-! ## Pausing (R169) -/

/-- Granules for parcels of these sizes, each at the lowest run that fits; none when one does not. -/
def State.placeGranules (s : State) : List (Nat × Nat × Bool × Nat) → Option (State × List Parcel)
  | [] => some (s, [])
  | (page, f, tok, n) :: rest =>
    match s.findGranules n with
    | none => none
    | some g =>
      ((s.takeGranules g n).placeGranules rest).map fun (t, ps) =>
        let v := s.frame f
        (t, { page := page, granule := g, count := n, tokOnly := tok, frame := f, full := v.full, mixed := v.mixed,
              postmark := v.postmark, gen := v.gen } :: ps)

/-- Pages of a slot that leave as parcels: page, frame, token record only, granules. -/
def State.parcelsOf (s : State) (q : Nat) : List (Nat × Nat × Bool × Nat) :=
  (s.listPages q).filterMap fun i =>
    let w := s.listEntry q i
    let f := entryFrame w
    if entryStale w then some (i, f, true, 1)
    else if entryValid w ∧ (s.frame f).st = 1 then some (i, f, false, ceilDiv (s.frameBytes f + 256) 4096)
    else none

/-- A request is paused to poste restante; none when its parcels do not fit (R169). With no parcel to send, T_PARK is the local count
of the pause (DESIGN CHOICE, log 177). A TRIM that waits for a boundary stays pending until the request runs again (DESIGN CHOICE,
log 176). -/
def State.pauseSlot (s : State) (q : Nat) (spilled : Bool) : Option State :=
  (s.placeGranules (s.parcelsOf q)).map fun (s, ps) =>
    let v := s.slot q
    let s := s.setSlot q { v with
      st := .paused, pausedFrom := v.st, spilled := spilled, resumed := false, parcels := ps, pauseCount := v.pauseCount + 1,
      contd := v.contd || v.st == .decode, oldLen := if v.st = .decode then v.len else v.oldLen,
      parkAt := if ps = [] then some s.lcount else none, cmd := if v.cmd = 2#3 then 0#3 else v.cmd }
    let s := ps.foldl (fun (s : State) p =>
      let s := if p.tokOnly then s else s.setFrameFor q p.frame { s.frame p.frame with st := 3 }
      s.setListEntry q p.page 0#32) s
    let s := s.storeHdr q
    (if ps = [] then s else s.count (regAt pgCache 0x230) ps.length).pumpParcels

/-- A parcel's last write is acknowledged: its frame leaves, or its stale frame loses a holder (R169). -/
def State.parcelGone (s : State) (p : Parcel) : State :=
  if p.tokOnly then s.dropHolder p.frame else s.setFrame p.frame { s.frame p.frame with st := 0, refs := 0 }

/-- The acknowledgement of the last write of the parcel at a granule (R169, R170). -/
def State.parcelAck (s : State) (q page g : Nat) : State :=
  let v := s.slot q
  match v.parcels.find? fun p => p.page = page && p.granule = g && !p.acked with
  | some p =>
    let s := s.parcelGone p
    let ps := v.parcels.map fun x => if x = p then { x with acked := true } else x
    let home : Bool := v.st == .paused && ps.all (·.acked)
    let s := s.setSlot q { s.slot q with parcels := ps, parkAt := if home then some s.lcount else v.parkAt }
    if home then s.storeHdr q else s
  | none =>
    match s.orphans.find? fun (k, p) => k = q && p.page = page && p.granule = g with
    | none => s
    | some (k, p) => ((s.parcelGone p).freeGranules p.granule p.count |> fun s => { s with orphans := s.orphans.erase (k, p) })

/-! ## Returning (R171) -/

/-- Frames for the parcels of a request whose return has begun, in order; none when too few can be had. A frame takes back
the tags its contents left with; its key is the request's owner's (R155, R160). -/
def State.returnFrames (s : State) (q pool : Nat) (r : Req) (model : Nat) : List Parcel → Option (State × List Parcel)
  | [] => some (s, [])
  | p :: rest =>
    match s.freeFrame pool with
    | none => none
    | some f =>
      let s := s.setFrameFor q f { st := 1, refs := 1, circ := r.shareCirc,
                                   owner := if r.shareCirc then (s.entry r.adapter).circ.toNat else r.tenant, model := model,
                                   postmark := p.postmark, gen := p.gen, adapter := r.adapter, full := p.full, mixed := p.mixed }
      let s := s.setListEntry q p.page (mkEntry f (!p.tokOnly) p.tokOnly)
      (s.returnFrames q pool r model rest).map fun (s, ps) => (s, { p with frame := f, got := 0, back := false } :: ps)

/-- The parcels of a granted request take their frames, all or none, and start to return (R171). -/
def State.takeFrames (s : State) (q pool model : Nat) : State :=
  let v := s.slot q
  if !v.frameless then s
  else match s.returnFrames q pool (s.req q) model v.parcels with
    | none => s
    | some (t, ps) => (t.setSlot q { t.slot q with parcels := ps, frameless := false }).pumpParcels

/-- A returned parcel fills its frame (R171). -/
def State.fillParcel (s : State) (q : Nat) (p : Parcel) : State :=
  let key := s.frameSlot (s.frame p.frame)
  let n := if p.tokOnly then 0 else s.frameBytes p.frame
  let bs := s.parcelXts false key q p (mread s.host (s.prAddr p) (n + 256))
  let s := if p.tokOnly then s else s.pokeFor q kPages key (s.frameAddr p.frame) (bs.take n)
  let s := s.pokeFor q kTokens key (s.tokAt p.frame 0) (bs.drop n)
  s.inc pgCache 0x238

/-- Once every parcel has returned, their granules are freed. -/
def State.parcelsHome (s : State) (q : Nat) : State :=
  let v := s.slot q
  if v.parcels.all (·.back) then
    ((v.parcels.foldl (fun (s : State) p => s.freeGranules p.granule p.count) s).setSlot q { v with parcels := [] }).keepHdr q
  else s

end Sys2Proof.Machine
end

