-- ==== Sys2Proof/Machine/Tally.lean ====
section
/-! DEFINITION. Tallies: the count of a request's tokens for the penalties (08_attention_sampling.md R187 to R190). -/
namespace Sys2Proof.Machine

/-- Stack address of a slot's tally. -/
def State.tallyAt (s : State) (q : Nat) : Nat := bitsOf (s.rd pgSamp 0x044) 27 0 * 4096 + 528384 * q

def State.tallyKey (s : State) (q : Nat) : Option Nat := s.tenantSlot (s.req q).tenant

/-- The tally area may be read and written (R272). -/
def State.tallyOk (s : State) (q : Nat) : Bool := (s.checkAccess kTally (s.tallyKey q) (s.tallyAt q) 528384).isSome

def State.tallyRead (s : State) (q off n : Nat) : List Byte := (s.peek kTally (s.tallyKey q) (s.tallyAt q + off) n).data

def State.tallyWrite (s : State) (q off : Nat) (bs : List Byte) : State :=
  (s.poke kTally (s.tallyKey q) (s.tallyAt q + off) bs).1

/-- DISTINCT and FULL. -/
def State.tallyHead (s : State) (q : Nat) : Nat × Bool :=
  let w : W := BitVec.ofNat 32 (ofLe (s.tallyRead q 0 4))
  (bitsOf w 15 0, bitOf w 16)

def State.setTallyHead (s : State) (q distinct : Nat) (full : Bool) : State :=
  s.tallyWrite q 0 (leBytes 4 (distinct + 65536 * b2n full))

/-- Entry i of the table: token, used, count. -/
def State.tallyEntry (s : State) (q i : Nat) : Nat × Bool × Nat :=
  let v : BitVec 64 := BitVec.ofNat 64 (ofLe (s.tallyRead q (4096 + 8 * i) 8))
  (bitsOf v 23 0, bitOf v 24, bitsOf v 47 32)

def State.setTallyEntry (s : State) (q i tok count : Nat) : State :=
  s.tallyWrite q (4096 + 8 * i) (leBytes 8 (tok + 2 ^ 24 + 2 ^ 32 * count))

def tallyHome (tok : Nat) : Nat := tok * 0x9E3779B1 % 2 ^ 32 / 2 ^ 16

/-- The probe of R187: the entry that holds the token with its count, or the unused entry that ends the probe. -/
def State.tallyProbe (s : State) (q tok : Nat) : Nat → Nat → Option (Nat × Nat)
  | 0, _ => none
  | fuel + 1, i =>
    let (t, used, c) := s.tallyEntry q i
    if !used then some (i, 0) else if t = tok then some (i, c) else s.tallyProbe q tok fuel ((i + 1) % 65536)

def State.tallyFind (s : State) (q tok : Nat) : Option (Nat × Nat) := s.tallyProbe q tok 65536 (tallyHome tok)

def State.tallyCount (s : State) (q tok : Nat) : Nat := ((s.tallyFind q tok).map (·.2)).getD 0

/-- R188, R189: one token is counted. -/
def State.tally1 (s : State) (q tok : Nat) : State :=
  match s.tallyFind q tok with
  | none => s
  | some (i, c) =>
    if 65535 ≤ c then s
    else if 0 < c then s.setTallyEntry q i tok (c + 1)
    else
      let (d, full) := s.tallyHead q
      if 32768 ≤ d then
        let s := s.inc pgSamp 0x210
        if full then s
        else ((s.setTallyHead q d true).setSlot q { s.slot q with tallyFull := true }).raise pgSamp 0
      else (s.setTallyEntry q i tok 1).setTallyHead q (d + 1) full

def State.tallyAll (s : State) (q : Nat) (toks : List Nat) : State :=
  if s.tallyOk q then toks.foldl (fun (s : State) t => s.tally1 q t) s else s

/-- The header and the table are cleared. A clear that faults fails the request's rows, but for a train request, none of
whose rows uses the tally (R272; DEDUCED, log 131). -/
def State.tallyClear (s : State) (q : Nat) : State :=
  if (s.req q).train then s.tallyWrite q 0 (zeroBytes 528384)
  else s.pokeFor q kTally (s.tallyKey q) (s.tallyAt q) (zeroBytes 528384)

/-- The tally with an overlay of drafts (R190): new counts of the tokens overlaid, DISTINCT. -/
structure Overlay where
  counts : List (Nat × Nat) := []
  distinct : Nat
deriving DecidableEq, Repr

/-- A token's count with the overlay. -/
def State.overCount (s : State) (q : Nat) (o : Overlay) (tok : Nat) : Nat :=
  match o.counts.find? fun (t, _) => t = tok with
  | some (_, c) => c
  | none => s.tallyCount q tok

def State.overlay (s : State) (q : Nat) (drafts : List Nat) : Overlay :=
  drafts.foldl (fun (o : Overlay) t =>
    let c := s.overCount q o t
    let put (n : Nat) : List (Nat × Nat) := (t, n) :: o.counts.filter fun (x, _) => x ≠ t
    if 65535 ≤ c then o
    else if 0 < c then { o with counts := put (c + 1) }
    else if 32768 ≤ o.distinct then o
    else { counts := put 1, distinct := o.distinct + 1 }) { distinct := (s.tallyHead q).1 }

end Sys2Proof.Machine
end

