-- ==== Sys2Proof/Machine/Former.lean ====
section
/-! DEFINITION. Parts of a step formation: grants among jobs, admission, rows, carried postmarks and generations, prefix
lookup, frames, rungs (06_steps.md R130 to R134; 07_context_cache.md R153 to R167; 09_scheduling.md R196 to R200, R211 to
R216; 03_adapter_directory.md R70, R73, R77, R81). -/
namespace Sys2Proof.Machine

/-! ## Grants among jobs (R196, R197, R200) -/

def State.grpWord (s : State) (g : Nat) : W := s.rd pgSched (0x100 + 4 * g)
def State.grpEn (s : State) (g : Nat) : Bool := bitOf (s.grpWord g) 0
def State.grpWeight (s : State) (g : Nat) : Nat := bitsOf (s.grpWord g) 15 8
def State.grpShare (s : State) (g : Nat) : Nat := bitsOf (s.grpWord g) 24 16
def State.usedOf (s : State) (g : Nat) : Nat := (tget 0#64 s.used g).toNat

/-- The TIDE unit's windows are in force (Table 09-6: a window in progress runs to its end). -/
def State.tideOn (s : State) : Bool := s.running pgTide || s.unit pgTide == .draining

/-- The job has the tide slot in progress, inside its window (R208). -/
def State.inWindow (s : State) (j : Nat) : Bool :=
  s.tideOn && s.tideCur.windowOpen && s.tideCur.fields.valid && s.tideCur.fields.job.toNat == j

/-- Local count at which the window in progress ends (R208, R209). -/
def State.windowEndAt (s : State) : Nat :=
  s.tideCur.start.toNat + s.tideCur.fields.dur.toNat - s.tideCur.deduct

/-- Class of a share group under R197, 2 to 5. -/
def State.groupClass (s : State) (g : Nat) : Nat :=
  if !s.grpEn g then 5
  else if s.groupLc g then (if s.usedOf g * 256 ≤ s.grpShare g * s.cap.toNat then 2 else 4)
  else 3

/-- The share group of a job: for the forms of its step in flight, the one the step was formed under (R120). -/
def State.groupOf (s : State) (j : Nat) (forms : Bool) : Nat :=
  match forms, (s.job j).cur with
  | true, some st => st.group
  | _, _ => (s.job j).group

/-- Class of a job under R197, 1 to 5: its tide window goes first. -/
def State.jobClass (s : State) (j : Nat) (forms : Bool := false) : Nat :=
  if s.inWindow j then 1 else s.groupClass (s.groupOf j forms)

/-- Turn of a job within its group: 0 is the job after the one last served. -/
def State.turn (s : State) (j : Nat) (forms : Bool := false) : Nat := (j + 256 - tget 255 s.served (s.groupOf j forms) - 1) % 256

/-- Job a goes before job b, in step grants or in the dispatch of forms (R197, R200). -/
def State.jobBefore (s : State) (a b : Nat) (forms : Bool := false) : Bool :=
  let ca := s.jobClass a forms
  let cb := s.jobClass b forms
  let ga := s.groupOf a forms
  let gb := s.groupOf b forms
  if ca ≠ cb then ca < cb
  else if ga = gb then s.turn a forms < s.turn b forms
  else
    let (x, y) :=
      if ca = 2 ∨ ca = 4 then (s.usedOf ga * s.grpShare gb, s.usedOf gb * s.grpShare ga)
      else (s.usedOf ga * s.grpWeight gb, s.usedOf gb * s.grpWeight ga)
    if x ≠ y then x < y else ga < gb

def State.stepsInFlight (s : State) : Nat := (s.jobs.filter fun (_, j) => j.cur.isSome).length

def State.resident (s : State) (m : Nat) : Bool := s.modelRes.any fun e => e.valid && e.model.toNat == m

/-- The model's pool is bound, enabled and large enough (R147). -/
def State.poolGood (s : State) (model : Nat) : Option Nat :=
  (s.modelPool model).filter fun p => decide ((s.desc model).pageBytes ≤ (s.pool p).units * 4096)

/-- Nothing but its rows, its model's entry and the jobs before it keeps a job from a step (R130, R196, R208, R239). R197 puts a train
job inside its tide window in class 1 and a job of a disabled group in class 5: the window decides (DESIGN CHOICE, log 178). -/
def State.mayStep (s : State) (j : Nat) : Bool :=
  let v := s.job j
  s.stepUp && s.ready && v.st == 1#2 && v.cur.isNone && (!v.fixed || v.batchPend) && (s.grpEn v.group || s.inWindow j) &&
    s.stepsInFlight < bitsOf (s.rd pgSched 0x040) 6 0 &&
    (!v.isTrain || (!v.train.stuck && s.running pgTrain && (!s.running pgTide || s.inWindow j)))

/-! ## Positions still to prefill -/

/-- Positions a prefill covers: the prompt, or a continued sequence up to and with position oldLen. -/
def State.target (s : State) (q : Nat) : Nat :=
  let v := s.slot q
  if v.contd then v.oldLen.toNat + 1 else (s.req q).promptLen

def State.chunk (s : State) (j : Job) (q left : Nat) : Nat :=
  min (min (64 * j.pfChunk) (s.target q - (s.slot q).len.toNat)) left

/-- Token at position p of a slot's prefill: below the old LEN of a refill it stands in the token records, at the old LEN of
a sequence that has drawn it is LAST_TOK, and the rest of a prompt comes from the host (R127, R158, R171). -/
def State.prefillTok (s : State) (q p : Nat) : Option Nat :=
  let v := s.slot q
  if p < v.oldLen.toNat then some (s.seqTok q p)
  else if v.contd then some v.lastTok.toNat
  else s.promptTok (s.req q) p

/-- Pages of positions [p0, p0+n) with no VALID entry. -/
def State.newPages (s : State) (q p0 n : Nat) : List Nat :=
  if n = 0 then []
  else ((List.range ((p0 + n - 1) / 64 + 1)).filter fun i => p0 / 64 ≤ i).filter fun i => (s.pageFrame q i).isNone

/-! ## Forced rungs (R77, R133) -/

/-- The rung forced at a position, and whether the table could not be read. -/
def State.forcedAt (s : State) (r : Req) (p : Nat) : Option (Nat × Bool) :=
  if !r.force then none
  else if r.rungAddr = 0 then some (r.frung, false)
  else match s.rungByte r p with
    | some g => some (g, false)
    | none => some (0, true)

/-- Rows from p0 on, at most n, that share one forced value. -/
def State.sameRung (s : State) (r : Req) (p0 n : Nat) : Nat :=
  if r.force ∧ r.rungAddr ≠ 0 then
    ((List.range n).takeWhile fun i => s.forcedAt r (p0 + i) == s.forcedAt r p0).length
  else n

/-! ## Admission (R214, R215) -/

/-- Reserve of CACHE_RESERVE. -/
def State.reserve (s : State) : Nat := bitsOf (s.rd pgCache 0x044) 20 0

/-- The floor a request's rung starts from (R212, R77). -/
def State.floorOf (s : State) (q : Nat) : Nat :=
  let r := s.req q
  let f := if (s.due q).isNone then 0 else (s.slot q).floor.toNat
  if f ≠ 0 ∧ r.adapter ≠ 0 ∧ !(s.entry r.adapter).rankord then 3 else f

/-- A request joins with this rung in the time test (R215). -/
def State.admitRung (s : State) (q p : Nat) : Nat :=
  match s.forcedAt (s.req q) p with
  | some (g, _) => g
  | none => max (s.floorOf q) (bitsOf (s.rd pgAdm 0x040) 1 0)

/-- The rows a slot brings to a predicted step. -/
def State.group (s : State) (q p0 n : Nat) (gen : Bool) (rung : Nat) (train : Bool) : PGroup :=
  let r := s.req q
  { slot := q, p0 := p0, n := n, gen := gen,
    drawing := if train then 0 else if gen then n else if p0 + n = s.target q ∧ n ≠ 0 then 1 else 0,
    adapter := r.adapter, entry := s.entry r.adapter, rung := rung }

/-- A slot by the order of its admission grant, ties by slot. -/
def insertBy (key : Nat → Nat) (x : Nat) : List Nat → List Nat
  | [] => [x]
  | y :: ys => if key x < key y then x :: y :: ys else y :: insertBy key x ys

def sortBy (key : Nat → Nat) (l : List Nat) : List Nat := l.foldl (fun acc x => insertBy key x acc) []

/-- Requests in PREFILL or REFILL in the order of stage 3; of those, the ones whose parcels have all returned. -/
def State.prefilling (s : State) (jn : Nat) : List Nat :=
  sortBy (fun q => (s.slot q).grant * 4096 + q)
    ((s.jobSlots jn).filter fun q =>
      ((s.slot q).st == .prefill || (s.slot q).st == .refill) && (s.slot q).pendingEnd.isNone)

def State.prefills (s : State) (jn : Nat) : List Nat := (s.prefilling jn).filter fun q => (s.slot q).parcels = []

def State.decodes (s : State) (jn : Nat) : List Nat :=
  (s.jobSlots jn).filter fun q => (s.slot q).st == .decode && (s.slot q).pendingEnd.isNone

/-- Groups cut to a row budget, in order. -/
def cutGroups : Nat → List PGroup → List PGroup
  | _, [] => []
  | left, g :: gs =>
    let n := min g.n left
    { g with n := n, drawing := if n = g.n then g.drawing else if g.gen then n else 0 } :: cutGroups (left - n) gs

/-- D′: the prediction with a request's first chunk added (R215). -/
def State.timeD (s : State) (jn q : Nat) (granted : List Nat) : Nat :=
  let j := s.job jn
  let one (k : Nat) : PGroup :=
    let v := s.slot k
    s.group k v.len.toNat 1 true (s.admitRung k v.len.toNat) j.isTrain
  let chunk (k : Nat) : PGroup :=
    let v := s.slot k
    s.group k v.len.toNat (s.chunk j k (2 ^ 22)) false (s.admitRung k v.len.toNat) j.isTrain
  let gs := (s.decodes jn).map one ++ ((s.prefilling jn).filter (· ∉ granted)).map chunk ++ granted.map chunk ++ [chunk q]
  s.predict j.model j.isTrain (cutGroups (min j.rowCap 32768) gs)

/-- The time test. -/
def State.timeOk (s : State) (jn q : Nat) (granted : List Nat) : Bool :=
  let d := s.timeD jn q granted
  !s.groupLc (s.job jn).group ||
    (s.decodes jn).all fun k => match s.due k with | some t => decide (s.lcount.toNat + d ≤ t) | none => true

/-- Pages a candidate needs (R215). -/
def State.needPages (s : State) (q : Nat) : Nat :=
  let v := s.slot q
  if v.resumed ∨ v.spilled then v.parcels.length + (s.listPages q).length + 1 else ceilDiv ((s.req q).promptLen + 1) 64


/-- The drafts of a DECODE request that are usable, and whether they could not be read (R134). A draft token is the low 24 bits of its
32-bit word (DESIGN CHOICE, log 179). -/
def State.usableDrafts (s : State) (q : Nat) : List Nat × Bool :=
  let r := s.req q
  let v := s.slot q
  if r.draftAddr = 0 ∨ r.specMax = 0 then ([], false)
  else
    let hi (n : Nat) : Nat := 2 + 256 * ((v.delivered.toNat * 8 + n) % 2 ^ 56)
    match s.tenantIn r hi r.draftAddr 0 8 with
    | none => ([], true)
    | some b =>
      let h := ofLe b
      let n := h / 2 ^ 22 % 16
      if h % 2 ^ 22 ≠ v.len.toNat + 1 ∨ 2 ^ 26 ≤ h then ([], false)
      else
        let k := min (min n r.specMax) (min (r.maxNew - v.delivered.toNat - 1) (2097150 - v.len.toNat))
        match s.tenantIn r hi r.draftAddr 8 (4 * k) with
        | none => ([], true)
        | some d => ((List.range k).map fun i => ofLe ((d.drop (4 * i)).take 3), false)

/-- Draft rows a formation grants, by R134 and the row budget. -/
def State.draftRows (s : State) (jn left : Nat) : Nat :=
  min left (((s.decodes jn).map fun q => (s.usableDrafts q).1.length).sum)

/-- Chunks that the row budget reaches, in order: the requests that this formation gives rows (R130, R217). -/
def State.reached (s : State) (j : Job) : Nat → List Nat → List Nat
  | _, [] => []
  | left, q :: qs => if left = 0 then [] else q :: s.reached j (left - s.chunk j q (2 ^ 22)) qs

/-- Frames the forming step needs for its running requests (R215); those of a request the row budget leaves out count only
where it gets rows (R217). -/
def State.commitFrames (s : State) (jn : Nat) : Nat :=
  let j := s.job jn
  let left := min j.rowCap 32768 - (s.decodes jn).length
  ((s.decodes jn).map fun q => (s.newPages q (s.slot q).len.toNat 1).length).sum +
    ((s.reached j (left - s.draftRows jn left) (s.prefills jn)).map fun q =>
      (s.newPages q (s.slot q).len.toNat (s.chunk j q (2 ^ 22))).length).sum

/-- Candidates in increasing acceptance count, ties by slot: HELD requests, and spilled ones that have left (R171). -/
def State.candidates (s : State) (jn : Nat) : List Nat :=
  sortBy (fun q => (s.slot q).acceptAt.toNat * 4096 + q)
    ((s.jobSlots jn).filter fun q =>
      let v := s.slot q
      (v.st == .held || (v.st == .paused && v.spilled)) && v.pendingEnd.isNone && v.cmd != 1#3 && !v.admLater &&
        v.parcels.all (·.acked) && ((s.req q).adapter = 0 || (s.entry (s.req q).adapter).st != .loading))

/-- A request is granted: it enters PREFILL, and its parcels wait for the frames of this formation (R171). -/
def State.grantSlot (s : State) (q : Nat) : State :=
  let v := s.slot q
  { (s.setSlot q { v with
      st := .prefill, frameless := v.parcels ≠ [], grant := s.grants + 1, resumed := false, spilled := false, parkAt := none }).keepHdr q
    with grants := s.grants + 1 }

/-- Admission over the candidates, in order (R215). -/
def State.admitGo (jn pool base : Nat) (overtake : Bool) : List Nat → List Nat → Nat → State → State
  | [], _, _, s => s
  | q :: qs, granted, used, s =>
    let need := s.needPages q
    let fail (off bit : Nat) : State :=
      let t := (s.inc pgAdm off).raise pgAdm bit
      if overtake then State.admitGo jn pool base overtake qs granted used t else t
    if s.available pool < base + used + need + s.reserve then fail 0x208 0
    else if !s.timeOk jn q granted then fail 0x210 1
    else State.admitGo jn pool base overtake qs (granted ++ [q]) (used + need) ((s.grantSlot q).inc pgAdm 0x200)

/-- A request put off for want of a pool fails the first test of R214 now, at the first formation with a pool. -/
def State.fitTests (s : State) (jn : Nat) : State :=
  ((s.jobSlots jn).filter fun q => (s.slot q).st == .held && (s.slot q).fitLater && (s.slot q).pendingEnd.isNone).foldl
    (fun (s : State) q =>
      let s := s.setSlot q { s.slot q with fitLater := false }
      if s.neverFits q (s.job jn).model then (s.inc pgAdm 0x218).queueEnd q { reason := 0x0E#8 } else s) s

/-- The tests of R214 on requests accepted while ADM was not RUNNING (Table 15-6). -/
def State.admTests (s : State) (q : Nat) : State :=
  let v := s.slot q
  match s.slotJob q with
  | none => s
  | some jn =>
    if !v.admLater then s
    else
      let lost := s.neverFits q (s.job jn).model || s.deadlineLost q jn ||
        decide (bitsOf (s.rd pgAdm 0x054) 12 0 < ((s.jobSlots jn).filter fun k => (s.slot k).st == .held).length)
      let s := s.setSlot q { v with admLater := false }
      if v.st = .held ∧ v.pendingEnd.isNone ∧ lost then (s.inc pgAdm 0x218).queueEnd q { reason := 0x0E#8 } else s

/-- Admission at a formation (R215); a replay names the requests of the attempt before it (R239). -/
def State.runAdmission (s : State) (jn pool : Nat) : State :=
  if !s.running pgAdm ∨ (s.job jn).train.replay.isSome then s
  else s.admitGo jn pool (s.commitFrames jn) (bitOf (s.rd pgAdm 0x040) 2) (s.candidates jn) [] 0

/-! ## Prefix lookup (R162) -/

/-- POSTMARK of a block's key: 0 without an adapter. -/
def keyPm (adapter : Nat) (pm : W) : W := if adapter = 0 then 0#32 else pm

/-- The way that holds a block, by hash and by chain of frames. -/
def State.findWay (s : State) (h : BitVec 64) (key : BitVec 16) (model adapter : Nat) (pm gen : W) (prev : Option Nat) :
    Option (Nat × PrefixWay) :=
  (s.waysOf (bitsOf h 13 0)).find? fun (_, w) =>
    w.tag == (h >>> 14).setWidth 50 && w.owner == key && w.model.toNat == model && w.adapter.toNat == adapter &&
      w.postmark == keyPm adapter pm && w.gen == gen &&
      (match prev with | none => w.first | some f => !w.first && w.prev.toNat == f)

/-- What stands on a page that gets a new frame keeps its holder until the boundary (R158). -/
def State.replacePage (s : State) (q i f : Nat) : State :=
  let old := s.listEntry q i
  let s := s.setListEntry q i (mkEntry f true false)
  if entryStale old then s.setSlot q { s.slot q with staleFrames := (s.slot q).staleFrames ++ [entryFrame old] } else s

/-- The loop of R162. Answers the blocks confirmed and the last hash. An uncorrectable read of the token record counts as not
confirmed: the lookup stops and the entry goes (Table 12-4, class 10). -/
def State.lookupGo (q : Nat) (key : BitVec 16) (model adapter : Nat) (pm gen : W) :
    Nat → Nat → BitVec 64 → Option Nat → State → State × Nat × BitVec 64
  | 0, n, h, _, s => (s, n, h)
  | fuel + 1, n, h, prev, s =>
    let toks := (List.range 64).map fun i => (s.prefillTok q (64 * n + i)).getD 0
    let h' := s.chainHash key model adapter pm gen h toks
    let s := s.inc pgCache 0x200
    match s.findWay h' key model adapter pm gen prev with
    | none => (s, n, h)
    | some (k, w) =>
      let f := w.frame.toNat
      let rec_ := s.tokRecord f
      if rec_.unc then ((s.note rec_ (s.tokAt f 0) 10).removeWay k, n, h)
      else if rec_.data ≠ toks.flatMap (fun t => leBytes 4 t) then (s.inc pgCache 0x210, n, h)
      else if (s.frame f).refs = 65535 then (s, n, h)
      else
        let s := ((s.addHolder q f).replacePage q n f).stampWay k
        State.lookupGo q key model adapter pm gen fuel (n + 1) h' (some f) (s.inc pgCache 0x208)

/-- The lookup of a request's leading blocks; `t` is the number of tokens to be prefilled. -/
def State.lookup (s : State) (jn q t : Nat) (pm gen : W) : State :=
  let r := s.req q
  if !r.prefixOk ∨ r.train ∨ !(s.rd pgCache 0x040).getLsbD 0 ∨ !s.running pgCache then s
  else
    let (s, n, h) := s.lookupGo q (s.ownerKey r) (s.job jn).model r.adapter pm gen ((t - 1) / 64) 0 0#64 none
    s.setSlot q { s.slot q with len := BitVec.ofNat 22 (64 * n), chain := if n = 0 then 0#64 else h, chained := n }

/-! ## Carried postmark and generation (R73, R156, R157) -/

/-- Every VALID entry of a page list becomes STALE (R158). -/
def State.staleAll (s : State) (q : Nat) : State :=
  (s.listPages q).foldl (fun (s : State) i =>
    let w := s.listEntry q i
    if entryValid w then s.setListEntry q i (mkEntry (entryFrame w) false true) else s) s

/-- The request must be refilled at this formation. -/
def State.mustRefill (s : State) (q : Nat) (e : DirEntry) (gen : W) : Bool :=
  let v := s.slot q
  v.started && (v.genCarried != gen || ((s.req q).adapter ≠ 0 && v.pmCarried != e.postmark && e.cpol == 1#2))

/-- The tally is cleared at the first formation, and the prompt counted in it (R187, R188); no token is drawn in train mode
and none is counted (R186). -/
def State.firstTally (s : State) (q : Nat) : State :=
  let r := s.req q
  let s := s.tallyClear q
  if r.tallyPrompt ∧ !r.train then s.tallyAll q ((List.range r.promptLen).filterMap fun p => s.promptTok r p) else s

/-- A refill begins: pages stale, LEN 0, the sequence to be prefilled again up to the old LEN (R73, R157, R158). -/
def State.refill (s : State) (jn q : Nat) (pm gen : W) : State :=
  let v := s.slot q
  let dec := v.st == .decode
  let old := if dec then v.len.toNat else max v.oldLen.toNat v.len.toNat
  let s := (s.staleAll q).setSlot q
    { (s.staleAll q).slot q with
      st := if dec ∨ v.genCarried ≠ gen then .refill else v.st, contd := v.contd || dec, oldLen := BitVec.ofNat 22 old,
      len := 0#22, chain := 0#64, chained := 0, chainOk := true, pmCarried := pm, genCarried := gen }
  s.lookup jn q (old + 1) pm gen

/-- What a formation does to a request before its rows are sized: its header is read, its postmark and generation are
carried on or a refill begins, and its header is written. -/
def State.carry (s : State) (jn q : Nat) (gen : W) : State :=
  let a := (s.req q).adapter
  let pm := if a = 0 then 0#32 else (s.entry a).postmark
  let s := if (s.slot q).started then s.loadHdr q else s
  let v := s.slot q
  if v.pendingEnd.isSome then s
  else if !v.started then
    let s := s.setSlot q { v with started := true, pmCarried := pm, genCarried := gen, chainOk := true, floor := 0#2 }
    ((s.firstTally q).lookup jn q (s.req q).promptLen pm gen).storeHdr q
  else if s.mustRefill q (s.entry a) gen then (s.refill jn q pm gen).storeHdr q
  else if a ≠ 0 ∧ v.pmCarried ≠ pm then (s.setSlot q { v with pmCarried := pm, chainOk := false }).storeHdr q
  else s

/-! ## Row choice (R130, R134) -/

/-- The rows of one request in the forming step. -/
structure Pick where
  slot : Nat
  gen : Bool
  p0 : Nat
  n : Nat
  drafts : List Nat := []
  /-- Its input could not be read (R381). -/
  bad : Bool := false
  /-- Failed the repeated checks of R132. -/
  excluded : Option Nat := none
  /-- Ends ADMISSION for want of a frame (R167). -/
  noFrame : Bool := false
  rung : Nat := 0
  forced : Bool := false
  frames : List (Nat × Nat) := []
deriving DecidableEq, Repr

/-- Checks 7 and 8 repeated (R132): the reason of the first that fails. -/
def State.recheck (s : State) (jn q : Nat) : Option Nat :=
  if !s.adapterAllowed q jn then some 4 else if s.adapterGone q then some 5 else none

/-- The first stage: one row for each request in DECODE; a request that must refill, or is excluded, leaves it. A request that
ROW_CAP leaves without a row is carried on, or begins its refill, all the same: R73 speaks of the step, and not of its rows
(DESIGN CHOICE, log 141). -/
def State.stage1 (jn : Nat) (gen : W) : List Nat → Nat → State → List Pick → State × List Pick
  | [], _, s, acc => (s, acc)
  | q :: qs, left, s, acc =>
    match s.recheck jn q with
    | some c => State.stage1 jn gen qs left s (acc ++ [{ slot := q, gen := true, p0 := 0, n := 0, excluded := some c }])
    | none =>
      let s := s.carry jn q gen
      if (s.slot q).st ≠ .decode ∨ (s.slot q).pendingEnd.isSome ∨ left = 0 then State.stage1 jn gen qs left s acc
      else State.stage1 jn gen qs (left - 1) s (acc ++ [{ slot := q, gen := true, p0 := (s.slot q).len.toNat, n := 1 }])

/-- The second stage: drafts, a whole request's at a time, from the slot after the last granted, with wrapping. Answers
the rows left and the last request granted drafts. -/
def State.stage2 (s : State) : List Nat → Nat → List Pick → Option Nat → List Pick × Nat × Option Nat
  | [], left, acc, last => (acc, left, last)
  | q :: qs, left, acc, last =>
    let (ds, bad) := s.usableDrafts q
    let n := min ds.length left
    let n := s.sameRung (s.req q) (s.slot q).len.toNat (n + 1) - 1
    let acc := acc.map fun p =>
      if p.slot = q ∧ p.n = 1 then { p with drafts := ds.take n, n := 1 + n, bad := p.bad || bad } else p
    s.stage2 qs (left - n) acc (if n = 0 then last else some q)

/-- Tensor numbers of what the forward pass saves (R224); an expert's own tensors add 32 × (expert + 1). -/
def tResid : Nat := 0
def tAttnX : Nat := 1
def tQ : Nat := 2
def tMl : Nat := 3
def tCtx : Nat := 4
def tResid2 : Nat := 5
def tMlpX : Nat := 6
def tGate : Nat := 7
def tUp : Nat := 8
def tAct : Nat := 9
def tU (p : Nat) : Nat := 10 + p
def tFinal : Nat := 20
/-- The output of the final norm, the input of the vocabulary projection. -/
def tFinalX : Nat := 21

/-- A row's chosen experts and weights. -/
def tRoute : Nat := 22

/-- What a row saves in one layer, in the order in which it stands there: tensor numbers, an expert's own by its place among the
row's experts, and bytes (R224). -/
def ModelDesc.savedLayer (m : ModelDesc) (e : DirEntry) (a xf beat : Nat) : List (Nat × Nat) :=
  let c := List.range (if m.experts = 0 then 1 else m.route)
  let w := if beat = 1 then 4 else 2
  let u (p : Nat) : Nat := if a = 0 then 0 else 4 * e.rank p
  [(tResid, 2 * m.dModel), (tAttnX, xBytes xf m.dModel), (tQ, 2 * m.hq * m.d), (tMl, 8 * m.hq), (tCtx, xBytes xf (m.hq * m.d)),
    (tResid2, 2 * m.dModel), (tMlpX, xBytes xf m.dModel)] ++
  c.flatMap (fun k => [(tGate + 32 * (k + 1), w * m.mlp), (tUp + 32 * (k + 1), w * m.mlp), (tAct + 32 * (k + 1), xBytes xf m.mlp)]) ++
  [0, 1, 2, 3, 7].map (fun p => (tU p, u p)) ++
  c.flatMap (fun k => [4, 5, 6].map fun p => (tU p + 32 * (k + 1), u p)) ++
  (if m.experts = 0 then [] else [(tRoute, 8 * m.route)])

/-- What a row saves after its layers: the input of the final norm, and U of the vocabulary adapter. -/
def ModelDesc.savedTail (m : ModelDesc) (e : DirEntry) (a : Nat) : List (Nat × Nat) :=
  [(tFinal, 2 * m.dModel), (tU 8, if a = 0 then 0 else 4 * e.rank 8)]

/-- Bytes a row saves for the backward pass (R224). -/
def ModelDesc.savedRow (m : ModelDesc) (e : DirEntry) (a xf beat : Nat) : Nat :=
  m.layers * ((m.savedLayer e a xf beat).map (·.2)).sum + ((m.savedTail e a).map (·.2)).sum

/-- Saved bytes of a train request's rows. -/
def State.savedBytes (s : State) (jn q : Nat) : Nat :=
  let r := s.req q
  r.promptLen * (s.desc (s.job jn).model).savedRow (s.entry r.adapter) r.adapter s.decl.xFmt.toNat s.decl.beat.toNat

/-- The third stage: prefill chunks, in the order of their grants; a train request whole or not at all (R221). -/
def State.stage3 (jn : Nat) (gen : W) : List Nat → Nat → Nat → State → List Pick → State × List Pick
  | [], _, _, s, acc => (s, acc)
  | q :: qs, left, room, s, acc =>
    let j := s.job jn
    match s.recheck jn q with
    | some c => State.stage3 jn gen qs left room s (acc ++ [{ slot := q, gen := false, p0 := 0, n := 0, excluded := some c }])
    | none =>
      if left = 0 ∨ (j.isTrain ∧ (left < (s.req q).promptLen ∨ room < s.savedBytes jn q)) then
        State.stage3 jn gen qs left room s acc
      else
        let s := s.carry jn q gen
        if (s.slot q).pendingEnd.isSome then State.stage3 jn gen qs left room s acc
        else
          let p0 := (s.slot q).len.toNat
          let n := if j.isTrain then (s.req q).promptLen else s.sameRung (s.req q) p0 (s.chunk j q left)
          State.stage3 jn gen qs (left - n) (room - (if j.isTrain then s.savedBytes jn q else 0)) s
            (acc ++ [{ slot := q, gen := false, p0 := p0, n := n }])

/-- The job's slots from the draft position on, wrapping. -/
def rotate (qs : List Nat) (from_ : Nat) : List Nat := qs.filter (from_ ≤ ·) ++ qs.filter (· < from_)

/-- The rows of a continuous step, and the next draft position: a job's first is its lowest slot, and a step that grants no
drafts leaves it where it is, since R130 speaks of the previous step's last grant only (DESIGN CHOICE, log 140). -/
def State.chooseRows (s : State) (jn : Nat) (gen : W) : State × List Pick × Nat :=
  let j := s.job jn
  let cap := min j.rowCap 32768
  let (s, p1) := State.stage1 jn gen (s.decodes jn) cap s []
  let left := cap - (p1.map (·.n)).sum
  let dec := (p1.filter fun p => p.excluded.isNone).map (·.slot)
  let (p2, left, last) := s.stage2 (rotate dec j.draftFrom) left p1 none
  let (qs, left, room) := match j.train.replay with
    | some qs => ((qs.map (·.toNat)).filter (s.prefills jn).contains, 2 ^ 22, 2 ^ 64)
    | none => (s.prefills jn, left, j.actPages * 4096)
  let (s, p3) := State.stage3 jn gen qs left room s p2
  (s, p3, match last with | some q => q + 1 | none => j.draftFrom)

/-! ## Segments (R79, R81) -/

/-- Segments a step may hold: one in the attention group for each adapter, and in the MLP group one for each expert its
rows may choose. -/
def State.segments (s : State) (m : ModelDesc) (ps : List Pick) : Nat :=
  let ps := ps.filter fun p => p.n ≠ 0
  let as := ((ps.map fun p => (s.req p.slot).adapter).filter (· ≠ 0)).dedup
  (as.map fun a =>
    let rows := ((ps.filter fun p => (s.req p.slot).adapter = a).map (·.n)).sum
    1 + (if m.experts = 0 then 1 else min m.experts (rows * m.route))).sum

/-- Whole requests are left out, highest slot first, until the step fits (R81). -/
def State.cutSegments (m : ModelDesc) : Nat → List Pick → State → State × List Pick
  | 0, ps, s => (s, ps)
  | fuel + 1, ps, s =>
    if s.segments m ps ≤ 65536 then (s, ps)
    else
      let top := ((ps.filter fun p => p.n ≠ 0).map (·.slot)).foldl max 0
      State.cutSegments m fuel (ps.filter fun p => p.slot ≠ top) (s.inc pgSched 0x248)

/-! ## Frames (R153, R166, R167) -/

/-- A refill's read of a token record that cannot be trusted is recorded, and fails the request's rows (R158, R281). -/
def State.noteRecord (s : State) (q : Nat) (r : MemRes) (a : Nat) : State :=
  if r.unc then (s.note r a 4).setSlot q { (s.note r a 4).slot q with memBad := true } else s

/-- A frame for page i of a slot leaves FREE as PRIVATE with one holder; its tags come with the write of its offset 0 (R150,
R155). A stale frame there keeps its holder until the boundary, and its token record goes with the page, under the
request's own key (R158). -/
def State.allocPage (s : State) (pool q i : Nat) : Option (State × List (Nat × Nat)) :=
  if (s.pageFrame q i).isSome then some (s, [])
  else match s.freeFrame pool with
    | none => none
    | some f =>
      let old := s.listEntry q i
      let rec_ := s.tokRecord (entryFrame old)
      let s := s.setFrameFor q f { s.frame f with st := 1, refs := 1, full := false, mixed := false }
      let s := if entryStale old then
          (s.noteRecord q rec_ (s.tokAt (entryFrame old) 0)).pokeFor q kTokens (s.reqSlot (s.req q)) (s.tokAt f 0) rec_.data
        else s
      some (s.replacePage q i f, [(i, f)])

/-- Frames for the pages of positions [p0, p0+n), as many as can be had in order; answers the positions they cover. -/
def State.allocRange (pool q p0 n : Nat) : List Nat → State → Pick → State × Pick × Nat
  | [], s, p => (s, p, n)
  | i :: is, s, p =>
    match s.allocPage pool q i with
    | none => (s, p, min n (64 * i - p0))
    | some (t, fs) => State.allocRange pool q p0 n is t { p with frames := p.frames ++ fs }

/-- Frames of a pick's rows; the first m of its rows only. -/
def State.allocPick (s : State) (pool m : Nat) (p : Pick) : State × Pick × Nat :=
  State.allocRange pool p.slot p.p0 m (s.newPages p.slot p.p0 m) s p

/-- A request is spilled, where poste restante takes its parcels (R167). -/
def State.spillSlot (s : State) (q : Nat) : Option State :=
  (s.pauseSlot q true).map fun t => (t.inc pgCache 0x228).raise pgCache 1

/-- A DECODE request with no frame is spilled, or ends ADMISSION (R167). A spilled one takes no part in the step, so it keeps
the postmark it carried before the formation (R73). -/
def State.spill (s base : State) (p : Pick) : State × Option Pick :=
  let b := base.slot p.slot
  let u := s.setSlot p.slot { s.slot p.slot with pmCarried := b.pmCarried, chainOk := b.chainOk }
  match (if (s.rd pgCache 0x040).getLsbD 1 then u.spillSlot p.slot else none) with
  | some t => (t, none)
  | none => (s, some { p with n := 0, drafts := [], noFrame := true })

/-- Decode rows take their frames. -/
def State.allocDecodes (base : State) (pool : Nat) : List Pick → State → State × List Pick
  | [], s => (s, [])
  | p :: ps, s =>
    if !p.gen ∨ p.n = 0 then
      let (t, qs) := State.allocDecodes base pool ps s
      (t, p :: qs)
    else
      let (t, p', got) := s.allocPick pool 1 p
      if got = 0 then
        let (t, o) := t.spill base p'
        let (t, qs) := State.allocDecodes base pool ps t
        (t, o.toList ++ qs)
      else
        let (t, qs) := State.allocDecodes base pool ps t
        (t, p' :: qs)

/-- Draft rows, cut to those that fit, or chunks, shortened or left out: the picks of these slots take frames in this
order (R153, R167). -/
def State.allocRest (pool : Nat) (train : Bool) : List Nat → List Pick → State → State × List Pick
  | [], ps, s => (s, ps)
  | q :: qs, ps, s =>
    match ps.find? fun p => p.slot = q && p.n ≠ 0 with
    | none => State.allocRest pool train qs ps s
    | some p =>
      let (t, p', got) := s.allocPick pool p.n p
      if got = 0 ∨ (train ∧ got < p.n) then State.allocRest pool train qs (ps.filter fun x => x.slot ≠ q) s
      else
        State.allocRest pool train qs
          (ps.map fun x => if x.slot = q then { p' with n := got, drafts := p'.drafts.take (got - 1) } else x) t

/-- Slots of a job whose parcels have left and wait for frames, in the order of their grants. -/
def State.frameless (s : State) (jn : Nat) : List Nat :=
  sortBy (fun q => (s.slot q).grant * 4096 + q)
    ((s.jobSlots jn).filter fun q =>
      (s.slot q).frameless && (s.slot q).pendingEnd.isNone && (s.slot q).parcels.all (·.acked))

/-- Frames a formation needs: for the rows of its picks, and for the parcels of the requests it has granted. -/
def State.rowFrames (s : State) (ps : List Pick) : Nat := (ps.map fun p => (s.newPages p.slot p.p0 p.n).length).sum

def State.parcelFrames (s : State) (jn : Nat) : Nat := ((s.frameless jn).map fun q => (s.slot q).parcels.length).sum

/-- The eviction sweep of a formation, where it needs more frames than are FREE (R166). -/
def State.sweepFor (s : State) (jn pool : Nat) (ps : List Pick) : State :=
  let need := s.rowFrames ps + s.parcelFrames jn
  if need ≤ s.freeCount pool then s else s.sweep pool need

/-- After every row of a formation the parcels of granted requests take frames, in the order of their grants, all of a
request's or none: those wait for a later formation. R171 gives neither an order nor what a shortage does (DESIGN CHOICE,
log 171). -/
def State.takeParcels (s : State) (jn pool : Nat) : State :=
  (s.frameless jn).foldl (fun (s : State) q => s.takeFrames q pool (s.job jn).model) s

/-- LOW is raised where a formation leaves fewer frames than the reserve (R215). -/
def State.noteLow (s : State) (pool : Nat) : State := if s.available pool < s.reserve then s.raise pgCache 0 else s

/-- Every frame of the forming step (R153, R166): the sweep after the lookups; then decode rows, draft rows in the order of
R130, chunks; then the parcels of granted requests. -/
def State.allocAll (s base : State) (jn pool : Nat) (ps : List Pick) : State × List Pick :=
  if !s.running pgCache then (s, ps)
  else
    let s := s.sweepFor jn pool ps
    let (s, ps) := State.allocDecodes base pool ps s
    let gens := (ps.filter (·.gen)).map (·.slot)
    let (s, ps) := State.allocRest pool false (rotate gens (s.job jn).draftFrom) ps s
    let (s, ps) := State.allocRest pool (s.job jn).isTrain ((ps.filter fun p => !p.gen).map (·.slot)) ps s
    ((s.takeParcels jn pool).noteLow pool, ps)

/-- A request that this formation was to bring into its first step, and that gets no row in it, has taken part in no step
(R73): the frames its lookup and its rows took lose their holder. -/
def State.uncarry (s base : State) (q : Nat) : State :=
  let v := s.slot q
  if v.started ∧ !(base.slot q).started ∧ v.pendingEnd.isNone then
    (s.releasePages q).setSlot q { base.slot q with memBad := v.memBad }
  else s

/-- The requests of a job that a formation leaves without a row. -/
def State.uncarryAll (s base : State) (jn : Nat) (ps : List Pick) : State :=
  ((s.jobSlots jn).filter fun q => !ps.any fun p => p.slot == q && p.n != 0).foldl (fun (t : State) q => t.uncarry base q) s

/-! ## Frames of an adopted record (R301) -/

/-- Picks of these slots take the frames of their first row, or of all their rows; answers the slots that lack one. -/
def State.allocExact (pool : Nat) (one : Bool) : List Nat → List Pick → List Nat → State → State × List Pick × List Nat
  | [], ps, bad, s => (s, ps, bad)
  | q :: qs, ps, bad, s =>
    match ps.find? fun p => p.slot = q && p.n ≠ 0 with
    | none => State.allocExact pool one qs ps bad s
    | some p =>
      let m := if one then 1 else p.n
      let (t, p', got) := s.allocPick pool m p
      State.allocExact pool one qs (ps.map fun x => if x.slot = q then p' else x) (if got < m then q :: bad else bad) t

/-- The frames of the record's rows, in R153's order; no row is cut, left out or spilled. -/
def State.allocRecord (s : State) (jn pool : Nat) (ps : List Pick) : State × List Pick × List Nat :=
  if !s.running pgCache then (s, ps, [])
  else
    let s := s.sweepFor jn pool ps
    let gens := (ps.filter (·.gen)).map (·.slot)
    let (s, ps, bad) := State.allocExact pool true gens ps [] s
    let (s, ps, bad) := State.allocExact pool false (rotate gens (s.job jn).draftFrom) ps bad s
    let (s, ps, bad) := State.allocExact pool false ((ps.filter fun p => !p.gen).map (·.slot)) ps bad s
    ((s.takeParcels jn pool).noteLow pool, ps, bad)

/-! ## Rungs (R212) -/

/-- The rung a pick starts from. A train-mode request runs at rung 0, and is not reported as forced whatever its FORCE (DESIGN CHOICE,
log 180). -/
def State.startRung (s : State) (train : Bool) (p : Pick) : Pick :=
  let r := s.req p.slot
  if train then { p with rung := 0, forced := false }
  else match s.forcedAt r p.p0 with
    | some (g, bad) => { p with rung := g, forced := true, bad := p.bad || bad }
    | none => { p with rung := s.floorOf p.slot }

/-- The prediction for the picks at their rungs. -/
def State.pickD (s : State) (jn : Nat) (ps : List Pick) : Nat :=
  let j := s.job jn
  s.predict j.model j.isTrain (ps.map fun p => s.group p.slot p.p0 p.n p.gen p.rung j.isTrain)

/-- The request whose rung the monitor lowers next: the earliest due that would be missed, the lowest slot on a tie. -/
def State.latest (s : State) (ps : List Pick) (t : Nat) : Option Nat :=
  ((ps.filter fun p => !p.forced && p.rung < 3 && p.n ≠ 0).foldl (fun (best : Option (Nat × Nat)) p =>
    match s.due p.slot, best with
    | some d, none => if d < t then some (d, p.slot) else none
    | some d, some (b, q) => if d < t ∧ (d < b ∨ (d = b ∧ p.slot < q)) then some (d, p.slot) else best
    | none, _ => best) none).map (·.2)

/-- The deadline monitor's loop: every pass raises a rung, so three passes for each pick are enough. -/
def State.lowerRungs (jn : Nat) : Nat → List Pick → State → State × List Pick
  | 0, ps, s => (s, ps)
  | fuel + 1, ps, s =>
    match s.latest ps (s.lcount.toNat + s.pickD jn ps) with
    | none => (s, ps)
    | some q =>
      let a := (s.req q).adapter
      let ps := ps.map fun p =>
        if p.slot = q then { p with rung := if a ≠ 0 ∧ !(s.entry a).rankord then 3 else p.rung + 1 } else p
      State.lowerRungs jn fuel ps (s.inc pgAdm 0x220)

/-- The rungs of a forming step; the rows of a train step stay at rung 0 (R223). -/
def State.fixRungs (s : State) (jn : Nat) (ps : List Pick) : State × List Pick :=
  let ps := ps.map (s.startRung (s.job jn).isTrain)
  if (s.job jn).isTrain then (s, ps) else
  State.lowerRungs jn (3 * ps.length) ps s

end Sys2Proof.Machine
end

