-- ==== Sys2Proof/Machine/Steps.lean ====
section
/-! DEFINITION. BATCH_GO and STEP_FORM (06_steps.md R130 to R134, 03_adapter_directory.md R70, 13_links.md R301). -/
namespace Sys2Proof.Machine

/-! ## The step that is formed -/

/-- The row-table rows of one request, consecutive. -/
def State.pickRows (s : State) (train : Bool) (p : Pick) : List Row :=
  (List.range p.n).map fun i =>
    let pos := p.p0 + i
    let tok := if p.gen then (if i = 0 then (s.slot p.slot).lastTok.toNat else p.drafts.getD (i - 1) 0)
      else (s.prefillTok p.slot pos).getD 0
    { slot := BitVec.ofNat 12 p.slot, pos := BitVec.ofNat 22 pos, tok := BitVec.ofNat 24 tok,
      draws := !train && (p.gen || pos + 1 == s.target p.slot), gen := p.gen, rung := BitVec.ofNat 2 p.rung }

/-- A prompt, draft or rung table of the pick could not be read (R26, R381). -/
def State.pickBad (s : State) (p : Pick) : Bool :=
  p.bad || (s.slot p.slot).inBad || (!p.gen && (List.range p.n).any fun i => (s.prefillTok p.slot (p.p0 + i)).isNone)

def State.adapterOf (s : State) (q : Nat) : Nat := (s.req q).adapter

/-- What a step says of a request it names. -/
def State.nameOf (s : State) (p : Pick) : Named :=
  let a := s.adapterOf p.slot
  { slot := BitVec.ofNat 12 p.slot, rung := BitVec.ofNat 2 p.rung, forced := p.forced, rows := p.n,
    drafts := p.drafts.map (BitVec.ofNat 24), excluded := p.excluded.map (BitVec.ofNat 8), noFrame := p.noFrame,
    snapPm := if a = 0 then 0#32 else (s.entry a).postmark, snapRankord := if a = 0 then true else (s.entry a).rankord,
    due := (s.due p.slot).map (BitVec.ofNat 64), frames := p.frames }

/-- Rows that the input or a forced rung fails at once (R26, R77). -/
def State.pickFail (s : State) (p : Pick) (rs : List Row) : List Row :=
  let a := s.adapterOf p.slot
  let rs := if s.pickBad p then rs.map fun r => r.fail cDesc else rs
  if p.forced ∧ (p.rung = 1 ∨ p.rung = 2) ∧ a ≠ 0 ∧ !(s.entry a).rankord then rs.map fun r => r.fail cRung else rs

/-- The adapters whose entries a step latches, once each (R70). -/
def State.snapAdapters (s : State) (ps : List Pick) : List Nat :=
  (((ps.filter fun p => p.n ≠ 0).map fun p => s.adapterOf p.slot).filter (· ≠ 0)).dedup

/-- The pin of an entry's live slot moves by one (R70). -/
def DirEntry.pin (e : DirEntry) (live : Bool) (d : BitVec 16) : DirEntry :=
  if live then { e with pinB := e.pinB + d } else { e with pinA := e.pinA + d }

def State.pinAll (s : State) (as : List Nat) : State :=
  as.foldl (fun (s : State) a => s.setEntry a ((s.entry a).pin (s.entry a).live 1#16)) s

/-- What a new attempt starts from (R230, R239). -/
def Train.fresh (t : Train) : Train :=
  { t with nanFlag := false, linkFail := false, uncorrFail := false, nvalid := 0, nvalidSum := 0, updSet := [], grads := [],
           exch := 0, sums := [], exchDone := false, upds := [],
           myVote := none, votes := [], decided := none, stats := [] }

/-- A step has taken the request's input: its drafts are read again for the next one, and so is all of it where a read failed. -/
def Slot.inputsUsed (v : Slot) : Slot := { v with draftAsked := false, inAsked := v.inAsked && !v.inBad, inBad := false }

/-- The step of the chosen rows comes into flight. -/
def State.beginStep (s : State) (jn : Nat) (gen : W) (ps : List Pick) (from_ : Nat) : State :=
  let j := s.job jn
  let as := s.snapAdapters ps
  let st : Step := {
    num := j.next, attempt := j.train.attempt, tForm := s.lcount, model := BitVec.ofNat 8 j.model, gen := gen, group := j.group,
    dctrl := s.rd pgSched 0x200, actrl := s.rd pgSamp 0x040,
    rows := ps.flatMap fun p => s.pickFail p (s.pickRows j.isTrain p), named := ps.map s.nameOf,
    snaps := as.map fun a => { adapter := BitVec.ofNat 16 a, entry := s.entry a }, ring := ps.length + 1 }
  let hurt : Bool := j.isTrain && st.rows.any fun r => r.fails ≠ []
  let st := if hurt then st.failRows (List.range st.rows.length) cDesc else st
  let seg := s.segments (s.desc j.model) ps
  let s := ((s.jobSlots jn).filter fun q => (s.slot q).inAsked).foldl (fun (s : State) q => s.setSlot q (s.slot q).inputsUsed) s
  let s := s.pinAll as
  let s := if (s.rd pgSched 0x240).toNat < seg then s.wr pgSched 0x240 (BitVec.ofNat 32 seg) else s
  let s := s.setJob jn { j with
    cur := some st, next := if j.isTrain then j.next else j.next + 1#64, draftFrom := from_, ringWait := false,
    batch := [], batchPend := false, grantBase := s.grants, train := if j.isTrain then j.train.fresh else j.train }
  { s with
    served := tput s.served j.group jn
    modelRes := s.modelRes.map fun e => if e.valid ∧ e.model.toNat = j.model then { e with used := s.lcount.toNat } else e }

/-! ## The formation record of a sharded job (R301) -/

/-- What rank 0 tells of a formation: its rows, the next draft position, the requests granted since the last record, in the
order of their grants, and the requests that stand spilled. -/
structure Formed where
  picks : List Pick := []
  next : Nat := 0
  grants : List Nat := []
  spills : List Nat := []
deriving DecidableEq, Repr

/-- Words of a pick: slot, flags, first position, rows, drafts (the layout is the model's). -/
def pickWords (p : Pick) : List Nat :=
  [p.slot, b2n p.gen + 2 * b2n p.noFrame + 4 * b2n p.forced + 8 * b2n p.bad + 16 * p.rung + 256 * p.excluded.getD 0, p.p0, p.n,
    p.drafts.length] ++ p.drafts

/-- The record's bytes (DESIGN CHOICE, log 168: R301 gives it no layout). -/
def Formed.bytes (r : Formed) : List Byte :=
  let ws := [r.next, r.grants.length, r.spills.length, r.picks.length] ++ r.grants ++ r.spills ++ r.picks.flatMap pickWords
  (4 * (ws.length + 1) :: ws).flatMap (leBytes 4)

def decodeGo : Nat → List Nat → List Pick
  | 0, _ => []
  | n + 1, q :: f :: p0 :: k :: d :: rest =>
    { slot := q, gen := f % 2 = 1, p0 := p0, n := k, drafts := rest.take d, bad := f / 8 % 2 = 1, noFrame := f / 2 % 2 = 1,
      excluded := if f / 256 = 0 then none else some (f / 256), rung := f / 16 % 4, forced := f / 4 % 2 = 1 } ::
      decodeGo n (rest.drop d)
  | _ + 1, _ => []

def formedOf (bs : List Byte) : Formed :=
  let ws := (List.range (bs.length / 4)).map fun i => ofLe ((bs.drop (4 * i)).take 4)
  let g := ws.getD 2 0
  let p := ws.getD 3 0
  { next := ws.getD 1 0, grants := (ws.drop 5).take g, spills := (ws.drop (5 + g)).take p,
    picks := decodeGo (ws.getD 4 0) (ws.drop (5 + g + p)) }

/-- What rank 0 tells of a formation that leaves state s with these rows. -/
def State.formed (s : State) (jn : Nat) (ps : List Pick) (from_ : Nat) : Formed :=
  let qs := s.jobSlots jn
  { picks := ps, next := from_,
    grants := sortBy (fun q => (s.slot q).grant * 4096 + q)
      (qs.filter fun q => (s.slot q).active && decide ((s.job jn).grantBase < (s.slot q).grant)),
    spills := qs.filter fun q => (s.slot q).st == .paused && (s.slot q).spilled }

/-- The record received from rank 0 for the next step. -/
def State.formRecord (s : State) (jn : Nat) : Option Formed :=
  let (num, att) := s.stepKey jn
  ((s.coll? jn (num.setWidth 32) att 0).bind (·.result)).map formedOf

/-- A spill of the record. A request whose parcels poste restante cannot take here stays, and its rows then differ from the
record's. -/
def State.adoptSpill (s : State) (q : Nat) : State :=
  if (s.slot q).st = .decode ∧ (s.slot q).pendingEnd.isNone then (s.spillSlot q).getD s else s

/-- A grant of the record: the request was HELD, or stood spilled, or was spilled and granted since the last record. -/
def State.adoptGrant (s : State) (q : Nat) : State :=
  let t := s.adoptSpill q
  let v := t.slot q
  if v.pendingEnd.isNone ∧ (v.st = .held ∨ (v.st = .paused ∧ v.spilled)) then t.grantSlot q else t

/-- This rank's slot does not match the record's pick (R301). -/
def State.mismatch (s : State) (p : Pick) : Bool :=
  let v := s.slot p.slot
  p.n ≠ 0 && (!v.alive || v.pendingEnd.isSome || v.len.toNat ≠ p.p0 || (v.st == .decode) != p.gen)

/-- A pick of the record is carried. -/
def State.adoptPick (s : State) (jn : Nat) (gen : W) (p : Pick) : State :=
  if p.excluded.isSome ∨ p.noFrame ∨ !(s.slot p.slot).active ∨ (s.slot p.slot).pendingEnd.isSome then s
  else s.carry jn p.slot gen

/-- The rows of slots that do not match the record, or that find no frame here, fail, and by their status words on every rank
(R301). -/
def State.failMismatch (s : State) (jn : Nat) (bad : List Nat) : State :=
  match (s.job jn).cur with
  | some st => s.failRows jn ((List.range st.rows.length).filter fun i => bad.contains (st.row i).slot.toNat) cForm
  | none => s

/-- The grants and spills of the record adopted. -/
def State.adoptJobs (s : State) (r : Formed) : State :=
  r.spills.foldl (fun (s : State) q => s.adoptSpill q) (r.grants.foldl (fun (s : State) q => s.adoptGrant q) s)

/-- A request with rows in the record has parcels that have not returned here: the step waits for them (R171). -/
def State.parcelsDue (s : State) (r : Formed) : Bool :=
  r.picks.any fun p => p.n ≠ 0 && (s.slot p.slot).active && (s.slot p.slot).parcels != []

/-- The record's rows adopted: every request is carried, then the frames are taken. Answers the rows with the slots that do not
match or lack a frame: R301 leaves this rank no choice, so it neither cuts nor drops nor spills them (DESIGN CHOICE, log 172). -/
def State.adoptAll (s : State) (jn pool : Nat) (gen : W) (ps : List Pick) : State × List Pick × List Nat :=
  let t := ps.foldl (fun (s : State) p => s.adoptPick jn gen p) s
  let r := t.allocRecord jn pool (ps.filter fun p => !t.mismatch p)
  (r.1, ps.map (fun p => (r.2.1.find? fun x => x.slot = p.slot).getD p), (ps.filter t.mismatch).map (·.slot) ++ r.2.2)

/-! ## Rows -/

/-- The HELD requests a batch list names are started (R131). -/
def State.startNamed (s : State) (qs : List Nat) : State :=
  qs.foldl (fun (s : State) q => if (s.slot q).st = .held then s.grantSlot q else s) s

/-- The rows of a named slot of a batch list, without any budget cut (R131); a request that resumes brings none before its
parcels have returned (R171). -/
def State.fixedPick (s : State) (jn : Nat) (gen : W) (q : Nat) : State × List Pick :=
  if !(s.slot q).active ∨ (s.slot q).pendingEnd.isSome ∨ (s.slot q).parcels ≠ [] then (s, [])
  else match s.recheck jn q with
    | some c => (s, [{ slot := q, gen := (s.slot q).st == .decode, p0 := 0, n := 0, excluded := some c }])
    | none =>
      let s := s.carry jn q gen
      let p0 := (s.slot q).len.toNat
      if (s.slot q).pendingEnd.isSome then (s, [])
      else if (s.slot q).st = .decode then
        let (ds, bad) := s.usableDrafts q
        let n := s.sameRung (s.req q) p0 (ds.length + 1)
        (s, [{ slot := q, gen := true, p0 := p0, n := n, drafts := ds.take (n - 1), bad := bad }])
      else
        let n := if (s.job jn).isTrain then (s.req q).promptLen
          else s.sameRung (s.req q) p0 (s.chunk (s.job jn) q (2 ^ 22))
        (s, [{ slot := q, gen := false, p0 := p0, n := n }])

def State.fixedPicks (jn : Nat) (gen : W) : List Nat → State → State × List Pick
  | [], s => (s, [])
  | q :: qs, s =>
    let (s, a) := s.fixedPick jn gen q
    let (s, b) := State.fixedPicks jn gen qs s
    (s, a ++ b)

/-- Chosen rows with their frames and rungs; `base` is the state after the grants. -/
def State.settleRows (s base : State) (jn pool : Nat) (ps : List Pick) : State × List Pick :=
  let (s, ps) := s.allocAll base jn pool ps
  (s.uncarryAll base jn ps).fixRungs jn ps

/-- The requests that are to run: admission grants them, or a batch list names them. -/
def State.grantRows (s : State) (jn pool : Nat) : State :=
  let j := s.job jn
  if j.fixed then s.startNamed (j.batch.map (·.toNat)) else s.runAdmission jn pool

/-- The chosen rows with their frames and rungs, and the next draft position. -/
def State.choose (base : State) (jn pool : Nat) (gen : W) : State × List Pick × Nat :=
  let j := base.job jn
  let m := base.desc j.model
  if j.fixed then
    let (s, ps) := State.fixedPicks jn gen (j.batch.map (·.toNat)) base
    let (s, ps) := s.settleRows base jn pool ps
    (s, ps, j.draftFrom)
  else
    let (s, ps, from_) := base.chooseRows jn gen
    let (s, ps) := State.cutSegments m (ps.length + 1) ps s
    let (s, ps) := s.settleRows base jn pool ps
    (s, ps, from_)

/-- A job's running requests. -/
def State.runningSlots (s : State) (jn : Nat) : List Nat :=
  (s.jobSlots jn).filter fun q => (s.slot q).active && (s.slot q).pendingEnd.isNone

/-- A formation reads the tenant input it needs (R127, R133, R134). -/
def State.askAll (s : State) (jn : Nat) (drafts : Bool) : State :=
  (s.runningSlots jn).foldl (fun (s : State) q => s.askInputs drafts q) s

/-- Tenant input of a running request is still to come: the formation waits for it. -/
def State.inputsDue (s : State) (jn : Nat) : Bool := (s.runningSlots jn).any fun q => (s.slot q).inDue != 0

/-- A unit holds the formation back (R148, R194, Table 15-6): a step that needs a frame does not form while CACHE is not
RUNNING. -/
def State.formHeld (s t : State) (jn : Nat) (ps : List Pick) : Bool :=
  let j := s.job jn
  (!s.running pgCache && t.rowFrames ps ≠ 0) ||
    (!s.running pgSamp && ps.any fun p => (t.pickRows j.isTrain p).any (·.draws))

/-- A formation from chosen rows: nothing, a wait for the ring, or a step in flight (R130, R136). An accepted list whose requests
bring no row stays pending, and a later GO reads BUSY: R131 says nothing of it (DESIGN CHOICE, log 139). -/
def State.finishForm (s t : State) (jn : Nat) (gen : W) (ps : List Pick) (from_ : Nat) : State :=
  let j := s.job jn
  if s.formHeld t jn ps then s
  else if ps = [] ∧ !(j.isTrain ∧ 1 < s.jobNdev jn) then t
  else if j.room < (ps.length + 1 : Nat) then
    let u := s.setJob jn { j with ringWait := true }
    if j.ringWait ∨ j.outWait then u else u.raise pgStep 2
  else
    let rec_ := (t.formed jn ps from_).bytes
    let t := t.beginStep jn gen ps from_
    let t := if !j.isTrain ∧ 1 < s.jobNdev jn ∧ s.jobRank jn = 0 then t.startColl jn 0 .bcast rec_ else t
    if j.batchPend then t.raise pgStep 3 else t

/-- The formation of a job's next step. It waits while tenant input it has asked for is still to come. -/
def State.formBody (s : State) (jn : Nat) : State :=
  let j := s.job jn
  let gen := (s.model j.model).gen
  match s.poolGood j.model with
  | none => s.raise pgCache 4
  | some pool =>
    let s := s.fitTests jn
    if !j.isTrain ∧ 1 < s.jobNdev jn ∧ s.jobRank jn ≠ 0 then
      match s.formRecord jn with
      | none => s
      | some rec_ =>
        let u := (s.adoptJobs rec_).askAll jn false
        if u.inputsDue jn then u
        else if u.parcelsDue rec_ then (if s.running pgCache then (u.sweepFor jn pool []).takeParcels jn pool else u)
        else
          let (t, ps, bad) := u.adoptAll jn pool gen rec_.picks
          (s.finishForm t jn gen ps rec_.next).failMismatch jn bad
    else
      let base := (s.grantRows jn pool).askAll jn true
      if base.inputsDue jn then base
      else
        let (t, ps, from_) := base.choose jn pool gen
        s.finishForm t jn gen ps from_

/-- A formation of the job now would bring a step into flight. -/
def State.wouldForm (s : State) (jn : Nat) : Bool := s.mayStep jn && ((s.formBody jn).job jn).cur.isSome

/-- Jobs that go before a job and would form a step now. -/
def State.ahead (s : State) (jn : Nat) : List (Nat × Job) :=
  s.jobs.filter fun (k, _) => k != jn && s.jobBefore k jn && s.wouldForm k

/-- The grants go in order (R197): a job of higher precedence whose model is resident forms first, and one whose model must be
loaded keeps its grant of STEPS_MAX while it waits (R202). -/
def State.turnOf (s : State) (jn : Nat) : Bool :=
  let qs := s.ahead jn
  qs.all (fun (_, v) => !s.resident v.model) && decide (s.stepsInFlight + qs.length < bitsOf (s.rd pgSched 0x040) 6 0)

/-- A job may be granted a step (R130, R196, R197, R202). -/
def State.grantable (s : State) (jn : Nat) : Bool := s.mayStep jn && s.resident (s.job jn).model && s.turnOf jn

/-- The formation of a job's next step. -/
def State.form (s : State) (jn : Nat) : State := if s.grantable jn then s.formBody jn else s

/-- STEP_FORM (R130). -/
def execStepForm (job : BitVec 8) (s : State) : Host.Outcome State Fault Refusal :=
  if !s.serves (.stepForm job) then .next s else
  let t := s.form job.toNat
  .next { s with
    jobs := t.jobs, slots := t.slots, dir := t.dir, mem := t.mem, uncorr := t.uncorr, prefixes := t.prefixes,
    stamps := t.stamps, evictPtr := t.evictPtr, tcache := t.tcache, granules := t.granules, orphans := t.orphans,
    grants := t.grants, served := t.served, modelRes := t.modelRes, colls := t.colls, ports := t.ports, host := t.host, readQ := t.readQ, hostReads := t.hostReads,
    writeQ := t.writeQ, hostWrites := t.hostWrites, stk := t.stk, log := t.log, logOvf := t.logOvf,
    quarantine := t.quarantine, regs := t.regs, ret := t.ret, hdrs := t.hdrs, ctrs := t.ctrs }

/-! ## BATCH_GO (R131) -/

/-- The list's header, its slots and whether its CRC holds. -/
def State.batchList (s : State) (j : Job) : List Byte × List Nat × Bool :=
  let a := j.batchSrc.toNat
  let h := mread s.host a 16
  let n := ofLe (h.take 4) % 2 ^ 13
  let b := mread s.host (a + 16) (2 * n)
  (h, (List.range n).map fun i => ofLe ((b.drop (2 * i)).take 2), crc32 (h.take 8 ++ b) == BitVec.ofNat 32 (ofLe ((h.drop 8).take 4)))

/-- A named slot is one the list may name (Table 06-5, code 5). -/
def State.batchSlotOk (s : State) (jn q : Nat) : Bool :=
  let v := s.slot q
  (s.job jn).owns q && v.pendingEnd.isNone && (v.active || v.st == .held) &&
    !(v.st == .held && (s.req q).adapter ≠ 0 && (s.entry (s.req q).adapter).st == .loading)

/-- The smallest failing code of a list by itself and its slots (0: it passes). -/
def State.batchListCode (s : State) (jn : Nat) : Nat :=
  let j := s.job jn
  let (h, qs, crcOk) := s.batchList j
  if !crcOk then 2
  else if ofLe (h.take 4) / 2 ^ 13 ≠ 0 ∨ qs.length = 0 ∨ 4096 < qs.length ∨ ofLe ((h.drop 12).take 4) ≠ 0 ∨
      qs.any (fun q => 4096 ≤ q) then 3
  else if BitVec.ofNat 32 (ofLe ((h.drop 4).take 4)) ≠ j.next.setWidth 32 then 4
  else if qs.any (fun q => !s.batchSlotOk jn q) then 5
  else if qs.dedup.length ≠ qs.length then 6
  else 0

/-- The smallest failing code of a list, its rows known (0: it passes). -/
def State.batchCodeOf (s : State) (jn : Nat) : Nat :=
  let j := s.job jn
  let qs := (s.batchList j).2.1
  if s.batchListCode jn ≠ 0 then s.batchListCode jn
  else
    let (t, ps) := State.fixedPicks jn (s.model j.model).gen qs (s.startNamed qs)
    if min j.rowCap 32768 < (ps.map (·.n)).sum then 7
    else if 65536 < t.segments (s.desc j.model) ps then 8
    else match s.poolGood j.model with
      | none => 0
      | some pool =>
        if t.available pool < t.rowFrames ps then 9 else 0

/-- A list is refused: it forms no step and changes no request (R131). -/
def State.batchRefuse (s : State) (jn code : Nat) : State :=
  (s.setJob jn { s.job jn with batchStage := 0, batch := [], batchCode := BitVec.ofNat 4 code }).raise pgStep 3

/-- The list and the input of the requests it names have been read: it is checked, and taken (R131). A GO dropped while the list
waits leaves BUSY in CODE: the rule does not say that the step's formation sets OK then (DESIGN CHOICE, log 166). -/
def State.batchReady (s : State) (jn : Nat) : State :=
  let j := s.job jn
  if j.batchStage ≠ 3 ∨ j.batch.any (fun q => (s.slot q.toNat).inDue != 0) then s
  else
    let c := s.batchCodeOf jn
    if c ≠ 0 then s.batchRefuse jn c
    else (s.setJob jn { j with batchStage := 0, batchCode := 0#4, batchPend := true }).form jn

/-- The list has been read: one that passes by itself has the input of its requests read. -/
def State.batchCheck (s : State) (jn : Nat) : State :=
  let c := s.batchListCode jn
  if c ≠ 0 then s.batchRefuse jn c
  else
    let j := s.job jn
    let qs := (s.batchList j).2.1
    let s := s.setJob jn { j with batchStage := 3, batch := qs.map (BitVec.ofNat 12) }
    (qs.foldl (fun (s : State) q => s.askInputs true q) s).batchReady jn

/-- n bytes of the list from an offset on are asked for. -/
def State.askBatch (s : State) (jn stage off n : Nat) : State :=
  let j := s.job jn
  let a := j.batchSrc.toNat + off
  (s.setJob jn { j with batchStage := stage, batchDue := (hostPieces a n).length }).askHost (.batch (BitVec.ofNat 8 jn) j.batchAt) a n

/-- A read of a list is answered, or has failed: one that cannot be read has the code LIST_CRC (DESIGN CHOICE, log 138: the rule
names none). -/
def State.batchCame (s : State) (jn : Nat) (since : BitVec 64) (ok : Bool) : State :=
  let j := s.job jn
  if j.batchAt ≠ since ∨ j.batchDue = 0 then s
  else
    let j := { j with batchDue := j.batchDue - 1, batchBad := j.batchBad || !ok }
    let s := s.setJob jn j
    if j.batchDue ≠ 0 then s
    else if j.batchBad then s.batchRefuse jn 2
    else
      let n := (s.batchList j).2.1.length
      if j.batchStage = 1 ∧ n ≠ 0 then s.askBatch jn 2 16 (2 * n) else s.batchCheck jn

/-- BATCH_GO: the list is read, checked and taken (R131); GO reads 1 until its code is set. A GO for a job that is not OPEN or not
of fixed batching, or while STEP does not serve, is dropped with an error count (DESIGN CHOICE, log 137): the rule names no code
for it. -/
def batchGoOp (s : State) (jn : Nat) : State :=
  let j := s.job jn
  if j.st ≠ 1#2 ∨ !j.fixed ∨ !s.stepUp then s.errInc pgStep
  else if j.batchPend ∨ j.cur.isSome ∨ j.batchStage ≠ 0 then s.setJob jn { j with batchCode := 1#4 }
  else
    (s.setJob jn { j with batchAt := s.lcount, batchSrc := j.batchHi ++ j.batchLo, batchBad := false }).askBatch jn 1 0 16

/-- BATCH_GO (R131). -/
def execBatchGo (job : BitVec 8) (s : State) : Host.Outcome State Fault Refusal :=
  if !s.serves (.batchGo job) then .next s else
  let t := batchGoOp s job.toNat
  .next { s with
    jobs := t.jobs, slots := t.slots, dir := t.dir, mem := t.mem, uncorr := t.uncorr, prefixes := t.prefixes,
    stamps := t.stamps, evictPtr := t.evictPtr, tcache := t.tcache, granules := t.granules, orphans := t.orphans,
    grants := t.grants, served := t.served, modelRes := t.modelRes, colls := t.colls, ports := t.ports, host := t.host, readQ := t.readQ, hostReads := t.hostReads,
    writeQ := t.writeQ, hostWrites := t.hostWrites, stk := t.stk, log := t.log, logOvf := t.logOvf,
    regs := t.regs, ret := t.ret, hdrs := t.hdrs, ctrs := t.ctrs }

end Sys2Proof.Machine
end

