-- ==== Sys2Proof/Machine/Plan.lean ====
section
/-! DEFINITION. The plan that firmware keeps when it builds, submits and places: segments, rung groups, the cut into forms and
the staged segments (03_adapter_directory.md R78; 04_delta_path.md R79, R80, R82, R88 to R90), the runs of an attention tile
(08_attention_sampling.md R180), what a form waits for (R90, R182, R196), and how long it is planned to take (R209, R210). -/
namespace Sys2Proof.Machine

/-! ## Segments and rung groups (R79, R80, R100) -/

/-- Rows in row-key order (R47), with their places in the list. -/
def State.keyOrder (s : State) (st : Step) (rows : List Nat) : List (Nat × Nat) :=
  let key (i : Nat) : Nat :=
    let r := st.row i
    ((s.req r.slot.toNat).orderKey * 4096 + r.slot.toNat) * 2 ^ 22 + r.pos.toNat
  let xs := rows.zipIdx
  (sortBy (fun n => key ((xs.getD n (0, 0)).1) * 2 ^ 16 + n) (List.range xs.length)).map fun n => xs.getD n (0, 0)

/-- Rows of the segment (adapter, expert) on a projection of a layer (R79): in the MLP group of a routed model the rows that the
layer routes to the expert; on the vocabulary the rows whose logits are taken. The forward forms of gate and up, where one factor
pair serves every expert, run once for each row (R100), and carry EXPERT 0 (DEDUCED, log 173). -/
def State.segRows (s : State) (jn : Nat) (st : Step) (a p layer expert : Nat) (back : Bool := false) : List Nat :=
  let m := s.desc st.model.toNat
  (List.range st.rows.length).filter fun i =>
    s.rowAdapter st i = a && (p ≠ 8 || (st.row i).draws || (s.job jn).isTrain) &&
      (if p < 4 ∨ 6 < p ∨ m.experts = 0 ∨ (!back && s.sharedGate st a p) then decide (expert = 0)
       else ((st.row i).expertsAt layer).any fun x => x.1 = expert)

/-- The rows of a segment that use k components, in the row-key order in which all its forms take them (R80, R82). -/
def State.rungGroup (s : State) (jn : Nat) (st : Step) (a p layer expert k : Nat) (back : Bool := false) : List Nat :=
  (s.keyOrder st ((s.segRows jn st a p layer expert back).filter fun i => k ≠ 0 && s.rowRank st i p layer = k)).map (·.1)

/-- The rows a GOUT or MPOOL form takes (R227): those of its segment. Where one factor pair serves every expert of a routed layer,
it takes the rows of all of them, each row once for each of its experts, in increasing expert index (DEDUCED, log 173). -/
def State.gradGroup (s : State) (jn : Nat) (st : Step) (d : DeltaDesc) : List Nat :=
  if s.sharedPair st d.adapter d.p then
    (s.keyOrder st ((List.range st.rows.length).filter fun i =>
      s.rowAdapter st i = d.adapter && d.expert = 0 && s.rowRank st i d.p d.layer = d.k)).flatMap fun (i, _) =>
        ((st.row i).expertsAt d.layer).map fun _ => i
  else s.rungGroup jn st d.adapter d.p d.layer d.expert d.k true

/-- Order of segments: decreasing row count, then adapter, then expert (R78, R80); the attention group goes before the MLP group's
expert 0 (DEDUCED, log 174). -/
def segKey (rows adapter expert : Nat) (mlp : Bool) : Nat := (((2 ^ 16 - rows) * 2 ^ 16 + adapter) * 2 ^ 8 + expert) * 2 + b2n mlp

/-! ## The cut into forms (R88, R89, Table 04-1) -/

/-- MACs per ac of a DOWN form. -/
def downRate (xf wf : Nat) (berth : Bool) : Nat :=
  let r := if xf = 2 ∨ wf = 2 then 32 else 64
  if berth then r / 2 else r

/-- MACs per ac of an UP form. -/
def upRate (berth : Bool) : Nat := if berth then 16 else 32

/-- Rows a form of k components may have (R88). -/
def capRows (k : Nat) : Nat := if k ≤ 16 then 64 else min 64 (2048 / k)

/-- m of R89: rows of a tile. -/
def tileRows (target k i rate : Nat) : Nat := min (capRows k) (max 1 (target * rate / (k * i)))

/-- n of R89: columns of an UP form of a tile of m rows. -/
def tileCols (target m k bw o rate : Nat) : Nat :=
  min (bw * max 1 (target * rate / (m * k * bw))) (ceilDiv o bw * bw)

/-- The row tiles of a rung group. -/
def State.rowTiles (s : State) (jn : Nat) (st : Step) (a p layer expert k wf : Nat) : List (List Nat) :=
  let g := s.rungGroup jn st a p layer expert k
  let i := ((s.desc st.model.toNat).widths p).1
  chunksOf (tileRows st.target k i (downRate s.decl.xFmt.toNat wf (k ≤ 16))) g.length g

/-- The columns an UP form of a tile of m rows may have: first column and count (R89). -/
def State.colTiles (s : State) (st : Step) (p layer expert m k bw : Nat) : List (Nat × Nat) :=
  let (lo, hi) := s.ownCols st.model.toNat p layer expert
  let n := max 1 (tileCols st.target m k bw (hi - lo) (upRate (k ≤ 16)))
  (List.range (ceilDiv (hi - lo) n)).map fun t => (lo + t * n, min n (hi - lo - t * n))

/-! ## The layer staging cache (R78) -/

/-- Bytes of a slice's staging cache, and the half of it that one layer has. -/
def stagingSize : Nat := 96 * 2 ^ 20
def stagingLayer : Nat := 48 * 2 ^ 20

/-- The factor a descriptor reads, in the snapshot's slot: slot B, its stack address and the bytes of its k rows. -/
def State.segFactor (s : State) (d : DeltaDesc) (st : Step) : Option (Bool × Nat × Nat) :=
  let e := st.snap d.adapter
  let facB : Bool := d.form = 0x11 || d.form = 0x40
  ((e.pairs (s.desc st.model.toNat)).find? fun p =>
    p.proj = d.p && (d.vocab || p.layer = d.layer) && p.expert = (if e.exp = 0#8 then 0 else d.expert)).map fun p =>
      (e.live, e.liveSlot + (if facB then p.offB else p.offA), d.k * rowBytes d.wfmt d.width)

/-- Bytes of a segment's rung-truncated factor rows in a layer, at the lowest rung number among its rows. -/
def State.segBytes (s : State) (jn : Nat) (st : Step) (a layer expert : Nat) (mlp vocab : Bool) : Nat :=
  let m := s.desc st.model.toNat
  let e := st.snap a
  let ps := if vocab then [8] else if mlp then [4, 5, 6] else [0, 1, 2, 3, 7]
  (ps.map fun p =>
    let k := ((s.segRows jn st a p layer expert).map fun i => s.rowRank st i p layer).foldl max 0
    let (i, o) := m.widths p
    k * rowBytes e.fmt.toNat i + k * rowBytes e.fmt.toNat o).sum

/-- The segment of a delta descriptor, on a slice. -/
def DeltaDesc.seg (d : DeltaDesc) (slice : Nat) : SegPlace :=
  { slice := slice, layer := d.layer, adapter := d.adapter, expert := d.expert,
    mlp := !d.vocab && decide (4 ≤ d.proj ∧ d.proj ≤ 6), vocab := d.vocab }

/-- Place of a segment in the order of R80; the vocabulary adapter belongs to the attention group's segment (R79). -/
def State.segPlaceKey (s : State) (jn : Nat) (st : Step) (x : SegPlace) : Nat :=
  segKey (s.segRows jn st x.adapter (if x.mlp then 6 else 0) x.layer x.expert).length x.adapter x.expert x.mlp

/-- A segment is staged on a slice: with the segments before it that the step has placed there it fits the layer's half (R78). -/
def State.stagedOn (s : State) (jn : Nat) (st : Step) (d : DeltaDesc) (slice : Nat) : Bool :=
  let size (x : SegPlace) : Nat := s.segBytes jn st x.adapter x.layer x.expert x.mlp x.vocab
  let me := d.seg slice
  let before := st.segs.filter fun x =>
    x.slice = slice && x.layer = d.layer && x ≠ me && decide (s.segPlaceKey jn st x < s.segPlaceKey jn st me)
  st.stageEn && decide (size me + (before.map size).sum ≤ stagingLayer)

/-! ## Descriptors firmware builds -/

/-- A delta, training or pooling descriptor is one that the plan builds: its shape is the model's and the entry's, its rows are
a tile of a rung group of one segment, its columns a tile of R89; DU and DXA take rows of one group, GOUT and MPOOL every row of
their segment. -/
def State.deltaPlan (s : State) (jn : Nat) (st : Step) (d : DeltaDesc) (rows : List Nat) : Bool :=
  let m := s.desc st.model.toNat
  let e := st.snap d.adapter
  let (i, o) := m.widths d.p
  let group := s.rungGroup jn st d.adapter d.p d.layer d.expert d.k true
  let x : Bool := d.xfmt = s.decl.xFmt.toNat
  let beat : Bool := d.xfmt = (if d.form = 0x11 ∧ d.vocab then 1 else s.decl.beat.toNat)
  let berth : Bool := d.berth == decide (d.k ≤ 16)
  let known : Bool := d.wfmt = e.fmt.toNat &&
    (d.staged || (s.segFactor d st).any fun f => f.2.1 = d.factor)
  match d.form with
  | 0x10 => known && berth && x && d.width = i && d.train == (s.job jn).isTrain &&
      (s.rowTiles jn st d.adapter d.p d.layer d.expert d.k d.wfmt).contains rows
  | 0x11 => known && berth && beat && d.width = o &&
      (s.rowTiles jn st d.adapter d.p d.layer d.expert d.k d.wfmt).contains rows &&
      (s.colTiles st d.p d.layer d.expert rows.length d.k d.bw).contains (d.col0, d.n)
  | 0x40 => known && berth && x && d.width = o && rows.all group.contains
  | 0x41 => known && berth && beat && d.width = i && rows.all group.contains
  | 0x42 | 0x50 => d.wfmt = e.fmt.toNat && d.width = (if d.train then o else i) && d.k = e.rank d.p &&
      rows == s.gradGroup jn st d && e.pooled == decide (d.form = 0x50)
  | 0x43 => d.width = m.vocab && rows.all (· < st.rows.length)
  | _ => rows.all (· < st.rows.length)

/-- Visible blocks of a row at position p in a layer: the first and the last (R175). -/
def ModelDesc.blocksOf (m : ModelDesc) (layer p : Nat) : Nat × Nat :=
  (if m.sliding layer then (p + 1 - m.window) / 64 else 0, p / 64)

/-- j of R180: the run exponent of a request in a layer. In a causal layer B is the number of visible blocks of its last row in the
step, which no other row exceeds. A window may let an earlier row see one block more than the last; every row of a sliding layer is
one run all the same, since every VALUE form carries FINAL = 1 there (DEDUCED, log 108). -/
def State.runLog (s : State) (st : Step) (slot layer : Nat) : Nat :=
  let m := s.desc st.model.toNat
  let most := ((st.rows.filter fun r => r.slot.toNat = slot).map fun r =>
    let (lo, hi) := m.blocksOf layer r.pos.toNat
    hi - lo + 1).foldl max 1
  let least (cap : Nat) : Nat := ((List.range 16).find? fun j => decide (ceilDiv most (2 ^ j) ≤ cap)).getD 15
  if m.sliding layer then least 1 else max (bitsOf st.actrl 3 0) (least (bitsOf st.actrl 26 16))

/-- A VALUE form merges exactly one run of each of its rows that has it; its number, where it does. -/
def AttnDesc.runOf (a : AttnDesc) (m : ModelDesc) (j : Nat) : Option Nat :=
  let cut (p : Nat) : Option (Nat × Nat) :=
    let (lo, hi) := m.blocksOf a.layer p
    let x := max lo a.b0
    let y := min hi (a.b0 + a.nb - 1)
    if x ≤ y then some (x - lo, y - lo) else none
  let last (p : Nat) : Nat := let (lo, hi) := m.blocksOf a.layer p; hi - lo
  let ps := (List.range a.m).map (a.p0 + ·)
  match ps.findSome? cut with
  | none => none
  | some (x, _) =>
    let r := x / 2 ^ j
    let ok (p : Nat) : Bool := match cut p with
      | none => last p < r * 2 ^ j
      | some (u, v) => u = r * 2 ^ j && v = min ((r + 1) * 2 ^ j - 1) (last p)
    let whole : Bool := r = 0 && ps.all fun p => last p < 2 ^ j
    if ps.all ok && a.final == whole then some r else none

/-- Runs of a row: A of R181. -/
def ModelDesc.runsOf (m : ModelDesc) (layer p j : Nat) : Nat :=
  let (lo, hi) := m.blocksOf layer p
  ceilDiv (hi - lo + 1) (2 ^ j)

/-- Largest number of runs among a form's rows. -/
def AttnDesc.mostRuns (a : AttnDesc) (m : ModelDesc) (j : Nat) : Nat :=
  ((List.range a.m).map fun i => m.runsOf a.layer (a.p0 + i) j).foldl max 0

/-- A BATTN form reads every block that one of its rows sees, so that its dQ is whole (R227). -/
def AttnDesc.coversAll (a : AttnDesc) (m : ModelDesc) : Bool :=
  (List.range a.m).all fun i =>
    let (lo, hi) := m.blocksOf a.layer (a.p0 + i)
    decide (a.b0 ≤ lo) && decide (hi < a.b0 + a.nb)

/-- An attention descriptor is one that the plan builds: its shape is the model's, its rows are the step's, and VALUE and SMERGE
keep to the runs of R180. -/
def State.attnPlan (s : State) (st : Step) (a : AttnDesc) : Bool :=
  let m := s.desc st.model.toNat
  let j := s.runLog st a.slot a.layer
  let shape := a.g = m.g && a.d = m.d && a.layer < m.layers && a.kvh < m.ownKv && a.sliding == m.sliding a.layer &&
    a.w = (if a.sliding then m.window else 0) && (st.rowsAt a.slot a.p0 a.m).length = a.m
  let out : Bool := a.ofmt = 0 || a.ofmt = s.decl.xFmt.toNat
  shape && out && (match a.form with
    | 0x20 => a.cscale == m.cscale
    | 0x21 => (a.runOf m j).isSome
    | 0x22 => a.npart = a.mostRuns m j
    | _ => a.coversAll m)

/-- A descriptor that passes its checks is one that firmware builds (R1: scheduling is the block's own). -/
def State.planned (s : State) (d : FormDesc) : Bool :=
  match d, s.formStep d with
  | .raw b, some (jn, st) =>
    if isAttn (dForm b) then s.attnPlan st (attnDesc b) else s.deltaPlan jn st (deltaDesc b) (s.formRows d)
  | .vec v, some (_, st) => v.rows.all fun r => r.toNat < st.rows.length
  | _, _ => true

/-! ## What a form waits for (R90, R182, R196) -/

/-- The issued command that brings a row's output of an array pass. -/
def State.passCmd (s : State) (jn : Nat) (st : Step) (pass proj layer expert row : Nat) : Option Cmd :=
  s.cmds.find? fun (c : Cmd) =>
    c.stage = .issued && c.arr.job.toNat = jn && c.step == st.num && c.arr.pass.toNat = pass &&
      (pass ≠ 10 || c.arr.proj.toNat = proj) && c.arr.layer.toNat = layer && c.arr.expert.toNat = expert &&
      (c.arr.rows.map (·.toNat)).contains row

/-- Every beat of a row of a command has arrived or been declared absent. -/
def State.rowIn (s : State) (c : Cmd) (st : Step) (row : Nat) : Bool :=
  let k := (c.arr.rows.map (·.toNat)).findIdx (· == row)
  let nb := s.cmdBlocks c.arr st
  (List.range nb).all fun b =>
    match s.beatTag c (k * nb + b) with
    | some (l, tag) => (tget? (s.lane l).ledger (tag.toNat % 4096)).all fun e => e.tag != tag
    | none => true

/-- A row's output of an array pass has landed. -/
def State.passIn (s : State) (jn : Nat) (st : Step) (pass proj layer expert row : Nat) : Bool :=
  (s.passCmd jn st pass proj layer expert row).any fun c => s.rowIn c st row

/-- A row of a gathered tensor is full: its model is not sharded, or the ranks have gathered it (R301). -/
def State.fullIn (s : State) (jn : Nat) (st : Step) (row layer kind : Nat) : Bool :=
  !s.sharded jn || st.marked row layer (.gathered kind)

/-- This rank's part of a gathered row is kept until the ranks exchange it. -/
def State.addPart (s : State) (jn : Nat) (x : Piece) : State :=
  match (s.job jn).cur with
  | some st => if s.sharded jn then s.setStep jn { st with pieces := st.pieces ++ [x] } else s
  | none => s

/-- The input X of a projection has been written for a row. -/
def State.xIn (s : State) (jn : Nat) (st : Step) (m : ModelDesc) (row p layer expert : Nat) : Bool :=
  match p with
  | 0 | 1 | 2 => st.marked row layer (.norm 0)
  | 3 => (List.range m.ownKv).all (fun h => st.marked row layer (.context h)) && s.fullIn jn st row layer 0
  | 6 => st.marked row layer (.act expert) && s.fullIn jn st row layer 2
  | 8 => st.marked row m.layers (.norm 2)
  | 4 | 5 => st.marked row layer (.norm 1) && (m.experts = 0 || st.marked row layer .route)
  | _ => st.marked row layer (.norm 1)

/-- The input of a DOWN form has been written for a row; gate and up, where one factor pair serves every expert, do not wait for the
row's routing (R90, R100). -/
def State.downIn (s : State) (jn : Nat) (st : Step) (d : DeltaDesc) (row : Nat) : Bool :=
  if s.sharedGate st d.adapter d.p then st.marked row d.layer (.norm 1)
  else s.xIn jn st (s.desc st.model.toNat) row d.p d.layer d.expert

/-- The gradient of the residual stream that enters the MLP half of a layer from above, or its attention half, has been written for
a row: by the backward pass of the final norm or of the half above (R226, R227). -/
def Step.gradIn (st : Step) (m : ModelDesc) (row layer : Nat) (mlp : Bool) : Bool :=
  if mlp then
    if m.layers ≤ layer + 1 then (st.row row).marks.any fun x => x.2 == .bvec 0 8 0
    else [0, 1, 2, 3].any fun p => st.marked row (layer + 1) (.bvec 2 p 0)
  else [4, 5, 6, 7].any fun p => st.marked row layer (.bvec 2 p 0)

/-- The output gradient dY of a projection has been written for a row. -/
def Step.dyIn (st : Step) (m : ModelDesc) (row p layer expert : Nat) : Bool :=
  match p with
  | 0 | 1 | 2 => st.marked row layer (.bvec 1 p 0)
  | 3 => st.gradIn m row layer false
  | 4 | 5 => st.marked row layer (.bvec 3 6 expert)
  | 8 => st.marked row 0 .loss
  | _ => st.gradIn m row layer true

/-- The residual stream that enters a layer has been written for a row. -/
def Step.streamIn (st : Step) (row layer : Nat) : Bool :=
  if layer = 0 then st.marked row 0 (.norm 0) else st.marked row (layer - 1) (.resid 1)

/-- The inputs of a vector or selection form exist for a row. -/
def State.vecIn (s : State) (jn : Nat) (st : Step) (v : VecDesc) (row : Nat) : Bool :=
  let m := s.desc st.model.toNat
  let l := v.layer.toNat
  let pass (p e : Nat) : Bool := s.passIn jn st p 0 l e row
  match v.kind with
  | .norm => match v.sel.toNat with
    | 0 => l = 0 || st.marked row (l - 1) (.resid 1)
    | 1 => st.marked row l (.resid 0)
    | _ => st.marked row (m.layers - 1) (.resid 1)
  | .rotary => pass (min 2 v.sel.toNat) 0
  | .resid => if v.sel = 0#2 then st.streamIn row l && pass 3 0 && s.fullIn jn st row l 1
    else st.marked row l (.resid 0) && ((st.row row).expertIds m l).all (pass 6) && s.fullIn jn st row l 3
  | .act => pass 4 v.expert.toNat && pass 5 v.expert.toNat
  | .route => pass 9 0
  | .sample => s.passIn jn st 8 0 0 0 row && s.fullIn jn st row m.layers 4

/-- The inputs of an attention form exist: a SCORE or VALUE form follows the ROTARY forms of the layer over every row its
request has in the step (R182). -/
def State.attnIn (s : State) (jn : Nat) (st : Step) (a : AttnDesc) : Bool :=
  let m := s.desc st.model.toNat
  let rows := st.rowsAt a.slot a.p0 a.m
  let kv : Bool := (st.rows.zipIdx).all fun (r, i) =>
    r.slot.toNat ≠ a.slot || (st.marked i a.layer (.rotary 1) && st.marked i a.layer (.rotary 2))
  match a.form with
  | 0x20 => kv && rows.all fun i => st.marked i a.layer (.rotary 0)
  | 0x21 => kv && rows.all fun i => st.marked i a.layer (.score a.kvh a.b0 a.nb)
  | 0x22 => rows.all fun i =>
      (List.range (m.runsOf a.layer (st.row i).pos.toNat (s.runLog st a.slot a.layer))).all fun r =>
        st.marked i a.layer (.value a.kvh r)
  | _ => rows.all fun i => (List.range m.ownKv).all (fun h => st.marked i a.layer (.context h)) &&
      s.passIn jn st 10 3 a.layer 0 i

/-- The pigeonhole now reserved for a row and block of an UP or DXA form, of one expert's command (R87, R90). -/
def State.phFor (s : State) (jn : Nat) (st : Step) (d : DeltaDesc) (row expert block : Nat) : Option MapEntry :=
  let back : Bool := d.form = 0x41
  let first := if back then 0 else (s.ownCols st.model.toNat d.p d.layer expert).1
  let mine (c : Cmd) : Bool :=
    (if back then c.arr.pass = 10#4 && c.arr.proj.toNat = d.p else c.arr.pass.toNat = d.p) && c.arr.job.toNat = jn &&
      c.step == st.num && (d.vocab || (c.arr.layer.toNat = d.layer && c.arr.expert.toNat = expert)) &&
      (c.arr.rows.map (·.toNat)).contains row
  (s.cmds.filter mine).findSome? fun c =>
    let k := (c.arr.rows.map (·.toNat)).findIdx (· == row)
    match s.beatTag c (k * s.cmdBlocks c.arr st + (d.col0 - first) / d.bw + block) with
    | none => none
    | some (l, tag) =>
      ((tget? (s.lane l).ledger (tag.toNat % 4096)).filter fun e => e.tag == tag && e.delta && e.cmd = c.key).map fun e =>
        { tag := tag, lane := l, ph := e.ph }

/-- The experts whose pigeonholes an UP or DXA form fills for a row: the descriptor's, or every one of the row's, in increasing
index, where gate and up share one factor pair (R100). -/
def State.mapExperts (s : State) (st : Step) (d : DeltaDesc) (row : Nat) : List Nat :=
  if d.form = 0x11 ∧ s.sharedGate st d.adapter d.p then ((st.row row).expertsAt d.layer).map (·.1) else [d.expert]

/-- Entry i of the map of an UP or DXA form names the pigeonhole now reserved for its row, block and expert (R87, R90, R100). -/
def State.mapEntryLive (s : State) (jn : Nat) (st : Step) (d : DeltaDesc) (rows : List Nat) (x : MapEntry) (i : Nat) : Bool :=
  let per := s.perRow d st
  let row := rows.getD (i / per % max 1 rows.length) 0
  match (s.mapExperts st d row)[i % per]? with
  | some e => s.phFor jn st d row e (i / (per * max 1 rows.length)) == some x
  | none => false

/-- The pigeonholes of a form's map are reserved: the commands they belong to have been granted (R90, R94). -/
def State.mapLive (s : State) (jn : Nat) (st : Step) (fd : FormDesc) (d : DeltaDesc) : Bool :=
  let rows := s.formRows fd
  ((s.formMap fd).zipIdx).all fun (x, i) => s.mapEntryLive jn st d rows x i

/-- The other rows of a row's request in the step that have not failed. -/
def Step.peers (st : Step) (row : Nat) : List Nat :=
  ((st.rows.zipIdx).filter fun (r, i) => r.slot == (st.row row).slot && i ≠ row && r.fails = []).map (·.2)

/-- The experts for which a GOUT or MPOOL form takes a row: its own, or every one of the row's where one factor pair serves them
all (R227). -/
def State.gradExperts (s : State) (st : Step) (d : DeltaDesc) (row : Nat) : List Nat :=
  if s.sharedPair st d.adapter d.p then ((st.row row).expertsAt d.layer).map (·.1) else [if d.vocab then 0 else d.expert]

/-- The inputs of a delta, training or pooling form exist. The dK and dV that ROTARY backward takes are sums over every row of the
request (R227). -/
def State.deltaIn (s : State) (jn : Nat) (st : Step) (fd : FormDesc) (d : DeltaDesc) : Bool :=
  let m := s.desc st.model.toNat
  let rows := s.formRows fd
  let ex := if d.vocab then 0 else d.expert
  let dx1 (p r : Nat) : Bool := s.passIn jn st 10 p (if p = 8 then 0 else d.layer) ex r
  match d.form with
  | 0x10 => rows.all fun r => s.downIn jn st d r
  | 0x11 => rows.all (fun r => st.marked r d.layer (.down d.p ex)) && s.mapLive jn st fd d
  | 0x40 => rows.all fun r => st.dyIn m r d.p d.layer ex
  | 0x41 => rows.all (fun r => st.marked r d.layer (.du d.p ex)) && s.mapLive jn st fd d
  | 0x42 | 0x50 => rows.all fun r => (s.gradExperts st d r).all fun e =>
      if d.train then st.dyIn m r d.p d.layer e && st.marked r d.layer (.down d.p (if s.sharedGate st d.adapter d.p then 0 else e))
      else st.marked r d.layer (.du d.p e)
  | 0x43 => rows.all fun r => s.passIn jn st 8 0 0 0 r
  | 0x44 => rows.all fun r => match d.bvec with
      | 0 => if !d.vocab && 4 ≤ d.proj then
          ((st.row r).expertIds m d.layer).all fun e => [4, 5].all fun p => s.passIn jn st 10 p d.layer e r
        else (if d.vocab then [8] else [0, 1, 2]).all fun p => dx1 p r
      | 1 => ((if d.proj = 0 then [] else st.peers r) ++ [r]).all fun i => (List.range m.ownKv).all fun h => st.marked i d.layer (.battn h)
      | 2 => st.gradIn m r d.layer (decide (4 ≤ d.proj)) && dx1 d.proj r
      | _ => dx1 6 r
  | _ => true

/-- A form is placeable: its inputs exist (R196). -/
def State.inputsIn (s : State) (fd : FormDesc) : Bool :=
  match fd, s.formStep fd with
  | .raw b, some (jn, st) =>
    if isAttn (dForm b) then s.attnIn jn st (attnDesc b) else s.deltaIn jn st fd (deltaDesc b)
  | .vec v, some (jn, st) => v.rows.all fun r => s.vecIn jn st v r.toNat
  | _, _ => true

/-! ## The order of placement (R80, R90) -/

/-- The segments of a projection of a layer: adapter and expert. -/
def State.layerSegs (s : State) (st : Step) (p : Nat) : List (Nat × Nat) :=
  let m := s.desc st.model.toNat
  (st.snaps.map (·.adapter.toNat)).flatMap fun a =>
    (if p < 4 ∨ 6 < p ∨ m.experts = 0 ∨ s.sharedGate st a p then [0] else List.range m.experts).map fun e => (a, e)

/-- The row tiles of a segment, with the components of each: its rung groups, the longest first (R80, R89). -/
def State.segTiles (s : State) (jn : Nat) (st : Step) (a p layer expert wf : Nat) : List (Nat × List Nat) :=
  let ks := ((s.segRows jn st a p layer expert).map fun i => s.rowRank st i p layer).dedup
  (sortBy (256 - ·) (ks.filter (· ≠ 0))).flatMap fun k => (s.rowTiles jn st a p layer expert k wf).map fun t => (k, t)

/-- An UP or DOWN form of a tile has been placed, has run, or never will (R93). -/
def State.tilePlaced (s : State) (jn : Nat) (st : Step) (d : DeltaDesc) (rows : List Nat) : Bool :=
  let up : Bool := d.form = 0x11
  rows.all (fun r => st.marked r d.layer (if up then .up d.p d.expert d.col0 else .down d.p d.expert)) ||
    (st.dead.any fun x => !x.back && x.p = d.p && x.layer = d.layer && x.expert = d.expert && rows.any x.rows.contains &&
      (if up then decide (x.col0 ≤ d.col0 ∧ d.col0 < x.col0 + x.n) else decide (x.n = 2 ^ 19))) ||
    s.forms.any fun (_, f) => match f.desc with
      | .raw b =>
        let e := deltaDesc b
        dJob b = jn && dStep b == st.num.setWidth 32 && e.form = d.form && e.p = d.p && e.layer = d.layer && e.adapter = d.adapter &&
          e.expert = d.expert && (!up || e.col0 = d.col0) && s.formRows f.desc == rows
      | _ => false

/-- The inputs of an UP or DOWN form of a tile exist. -/
def State.tileReady (s : State) (jn : Nat) (st : Step) (d : DeltaDesc) (rows : List Nat) : Bool :=
  if d.form = 0x10 then rows.all fun r => s.downIn jn st d r
  else rows.all fun r => st.marked r d.layer (.down d.p d.expert) && s.mapExperts st d r ≠ [] && (s.mapExperts st d r).all fun e =>
    (List.range (ceilDiv d.n d.bw)).all fun b => (s.phFor jn st d r e b).isSome

/-- Where an UP or DOWN form stands among those of its projection and layer: segment, tile, first column. -/
def State.tileOrder (s : State) (jn : Nat) (st : Step) (d : DeltaDesc) (rows : List Nat) : Nat :=
  let tile := (s.segTiles jn st d.adapter d.p d.layer d.expert d.wfmt).findIdx (·.2 == rows)
  (s.segPlaceKey jn st (d.seg 0) * 2 ^ 16 + tile) * 2 ^ 20 + d.col0

/-- The UP or DOWN forms of a descriptor's projection and layer, as R89 cuts them. -/
def State.tileForms (s : State) (jn : Nat) (st : Step) (d : DeltaDesc) : List (DeltaDesc × List Nat) :=
  (s.layerSegs st d.p).flatMap fun (a, e) =>
    let wf := (st.snap a).fmt.toNat
    (s.segTiles jn st a d.p d.layer e wf).flatMap fun (k, rows) =>
      let x := { d with adapter := a, expert := e, k := k, wfmt := wf, m := rows.length, berth := decide (k ≤ 16) }
      if d.form = 0x10 then [(x, rows)]
      else (s.colTiles st d.p d.layer e rows.length k d.bw).map fun (c, n) => ({ x with col0 := c, n := n }, rows)

/-- An UP or DOWN form that goes before this one is ready and has not been placed: segments in the order of R80, within one tile by
tile, and within a tile in increasing COL0 (R90). -/
def State.goesLater (s : State) (d : FormDesc) : Bool :=
  match d, s.formStep d with
  | .raw b, some (jn, st) =>
    let e := deltaDesc b
    !isAttn (dForm b) && (e.form = 0x10 || e.form = 0x11) &&
      (s.tileForms jn st e).any fun (x, rows) =>
        decide (s.tileOrder jn st x rows < s.tileOrder jn st e (s.formRows d)) && s.tileReady jn st x rows &&
          !s.tilePlaced jn st x rows
  | _, _ => false

/-! ## Planned times (R209, R210) -/

/-- Arithmetic cycles a form is planned to take: its MACs at the rate of Table 04-1 (R86, R176); of the other forms the spec
states no rate (a constant of Config). -/
def State.plannedAcs (s : State) (d : FormDesc) : Nat :=
  match d with
  | .raw b =>
    if isAttn (dForm b) then
      let a := attnDesc b
      if a.form = 0x20 ∨ a.form = 0x21 then ceilDiv (a.m * a.g * a.d * 64 * a.nb) (upRate a.berth)
      else Config.plannedAcs a.form a.m (a.g * a.d)
    else
      let e := deltaDesc b
      match e.form with
      | 0x10 | 0x40 => ceilDiv (e.m * e.k * e.width) (downRate e.xfmt e.wfmt e.berth)
      | 0x11 | 0x41 => ceilDiv (e.m * e.k * e.n) (upRate e.berth)
      | f => Config.plannedAcs f (s.formRows d).length e.width
  | .vec v => Config.plannedAcs 0x30 v.rows.length v.layer.toNat
  | .intake i => Config.plannedAcs 0x60 i.rows i.cols

/-- A form placed now on a slice is planned to end within the window (R209). -/
def State.endsInWindow (s : State) (d : FormDesc) (slice : Nat) : Bool :=
  decide (s.lcount.toNat + ceilDiv (s.plannedAcs d) (pointAcs (s.slicePwr slice).opp.toNat) ≤ s.windowEndAt)

/-! ## The order of dispatch (R197) -/

/-- Place of a form in its step: layer order, then segments, then tiles, then columns. -/
def State.formOrder (s : State) (d : FormDesc) : Nat :=
  match d, s.formStep d with
  | .raw b, some (jn, st) =>
    let m := s.desc st.model.toNat
    if isAttn (dForm b) then
      let a := attnDesc b
      (if a.form = 0x45 then 2 * m.layers + 1 - a.layer else a.layer) * 2 ^ 80
    else
      let e := deltaDesc b
      let layer := if e.vocab ∨ e.form = 0x43 then m.layers + b2n (0x40 ≤ e.form)
        else if 0x40 ≤ e.form then 2 * m.layers + 1 - e.layer else e.layer
      let seg := if e.form = 0x43 ∨ e.form = 0x44 then 0
        else s.segPlaceKey jn st (e.seg 0)
      let tile := (s.segTiles jn st e.adapter e.p e.layer e.expert e.wfmt).findIdx (·.2.contains ((s.formRows d).headD 0))
      ((layer * 2 ^ 44 + seg) * 2 ^ 16 + tile) * 2 ^ 20 + e.col0
  | .vec v, some (_, st) =>
    (if v.kind = .sample ∨ (v.kind = .norm ∧ v.sel = 2#2) then (s.desc st.model.toNat).layers else v.layer.toNat) * 2 ^ 80
  | _, _ => 0

/-- The class and turn of a form's job; a form with no job behind it is charged to group 0 and follows that group's class. -/
def State.formClass (s : State) (f : Form) : Nat :=
  match f.job with
  | some j => s.jobClass j.toNat true
  | none => s.groupClass 0

/-- Form a is dispatched before form b (R197). -/
def State.formBefore (s : State) (a b : Nat × Form) : Bool :=
  if s.formClass a.2 ≠ s.formClass b.2 then decide (s.formClass a.2 < s.formClass b.2)
  else match a.2.job, b.2.job with
    | some x, some y =>
      if x ≠ y then s.jobBefore x.toNat y.toNat true
      else
        let u := s.formOrder a.2.desc
        let v := s.formOrder b.2.desc
        decide (u < v ∨ (u = v ∧ a.1 < b.1))
    | some _, none => true
    | none, some _ => false
    | none, none => decide (a.1 < b.1)

/-- A form goes before the first that it precedes. -/
def State.insertForm (s : State) (x : Nat × Form) : List (Nat × Form) → List (Nat × Form)
  | [] => [x]
  | y :: ys => if s.formBefore x y then x :: y :: ys else y :: s.insertForm x ys

/-- The forms that wait for a core, in the order of R197. -/
def State.dispatchOrder (s : State) : List (Nat × Form) :=
  (s.forms.filter fun x => x.2.waiting).foldl (fun acc x => s.insertForm x acc) []

end Sys2Proof.Machine
end

