-- ==== Sys2Proof/Machine/Place.lean ====
section
/-! DEFINITION. Cores, placement and the end of a form: FORM_PLACEMENT, FORM_FAULT, WDOG (01_architecture.md R17 to R22;
04_delta_path.md R95 to R97; 09_scheduling.md R199, R201 to R204, R208, R209; 15_reliability.md R330 to R335). -/
namespace Sys2Proof.Machine

/-! ## Cores (R17, R330 to R335) -/

/-- A physical core that has not changed: in service, or a spare in rows 160 to 163 (R357). -/
def State.coreDefault (s : State) (pc : Nat) : CoreRec :=
  let b := tget 0#8 s.baseEpoch (pc / 6560)
  { st := if pc % 6560 < 6400 then .inService else .spare, epoch := b, own := b, deadLogged := true }

def State.core (s : State) (pc : Nat) : CoreRec := tget (s.coreDefault pc) s.cores pc

def State.setCore (s : State) (pc : Nat) (c : CoreRec) : State := { s with cores := tput s.cores pc c }

/-- The binding of a logical core; the identity where the table lists none. -/
def State.binding (s : State) (n : Nat) : Remap :=
  tget { prow := BitVec.ofNat 8 (n % 6400 / 40), pcol := BitVec.ofNat 6 (n % 40), vacant := false } s.remap n

def Remap.phys (r : Remap) (slice : Nat) : Nat := 6560 * slice + 40 * r.prow.toNat + r.pcol.toNat

/-- The physical core that serves a logical number; none where it is vacant or awaits a binding. -/
def State.serving (s : State) (n : Nat) : Option Nat :=
  if (s.binding n).vacant || s.unbound.contains n then none else some ((s.binding n).phys (n / 6400))

/-- The logical number a physical core serves. -/
def State.servedBy (s : State) (pc : Nat) : Option Nat :=
  let sl := pc / 6560
  let id := pc % 6560
  match s.remap.find? fun (n, r) => n / 6400 = sl && !r.vacant && r.phys sl = pc with
  | some (n, _) => some n
  | none =>
    if id < 6400 ∧ (tget? s.remap (6400 * sl + id)).isNone ∧ !s.unbound.contains (6400 * sl + id) then some (6400 * sl + id) else none

/-- Grid column and power domain of a logical core (R17, R349). -/
def gridCol (n : Nat) : Nat := n / 6400 * 40 + n % 40
def powerDomain (n : Nat) : Nat := gridCol n / 8

def State.formsOn (s : State) (n : Nat) : List Form :=
  (s.forms.filter fun (x : Nat × Form) => x.2.core == n && !x.2.waiting).map (·.2)

def State.fidsOn (s : State) (n : Nat) : List Nat :=
  (s.forms.filter fun (x : Nat × Form) => x.2.core == n && !x.2.waiting).map (·.1)

/-- SHOAL_EN for a form: as its step latched it, or the register's where it belongs to no step (R95, R103). -/
def State.shoal (s : State) (d : FormDesc) : Bool :=
  match s.formStep d with
  | some (_, st) => st.shoal
  | none => (s.rd pgSched 0x200).getLsbD 16

/-- A place for a form on a core: none where it is busy; the berth, or none for the whole core (R22, R95). -/
def State.roomOn (s : State) (d : FormDesc) (n : Nat) : Option (Option Bool) :=
  match s.serving n with
  | none => none
  | some pc =>
    if (s.core pc).st ≠ .inService then none
    else match s.formsOn n, descBerth d with
      | [], true => some (some false)
      | [], false => some none
      | [f], true => if s.shoal d then f.berth.map fun b => some !b else none
      | _, _ => none

/-! ## The scan (R22, R203, R204, R208) -/

/-- Columns of a region in scan order. -/
def scanCols (start lo hi : Nat) : List Nat :=
  let cs := (List.range hi).filter (lo ≤ ·)
  if lo ≤ start ∧ start < hi then cs.filter (start ≤ ·) ++ cs.filter (· < start) else cs

/-- SCHED_JCOL of a job. -/
def State.jcol (s : State) (j : Nat) : Nat :=
  bitsOf (s.rd pgSched (0x300 + 4 * (j / 4))) (8 * (j % 4) + 7) (8 * (j % 4))

/-- First column of the generation region, where regions are in force (R203). -/
def State.tideCol (s : State) : Option Nat :=
  let w := s.rd pgSched 0x04C
  if w.getLsbD 8 then some (ceilDiv (bitsOf w 5 0 * s.part.nCols) 64) else none

/-- The form is generation work (R204). -/
def State.isGen (s : State) (d : FormDesc) : Bool :=
  let sel : Bool := match d with
    | .raw b => !isAttn (dForm b) && (deltaDesc b).vocab
    | .vec v => v.kind == .sample
    | .intake _ => false
  sel || (match s.formStep d with
    | some (_, st) => (s.formRows d).any fun i => (st.row i).gen
    | none => false)

/-- Columns that a tide window keeps from other work (R208). -/
def State.maskedCols (s : State) : List Nat :=
  if s.tideOn && s.tideCur.windowOpen && s.tideCur.fields.valid then
    (List.range s.part.nCols).filter fun g => s.tideCur.fields.mask.getLsbD (g / 8)
  else []

/-- The columns a form may be placed in, in scan order. A form with no job starts at column 0: R22 gives the start column of a
job's forms only (DESIGN CHOICE, log 135). -/
def State.formCols (s : State) (d : FormDesc) : List Nat :=
  let n := s.part.nCols
  let j := descJob d
  let start := match j with | some k => s.jcol k | none => 0
  let train : Bool := match j with | some k => (s.job k).isTrain | none => false
  let mine : Bool := match j with | some k => train && s.inWindow k | none => false
  if mine then (scanCols start 0 n).filter fun g => s.maskedCols.contains g
  else if train && s.running pgTide then []
  else
    let keep (g : Nat) : Bool := (s.rd pgTide 0x040).getLsbD 16 || !s.maskedCols.contains g
    let cols := match s.tideCol with
      | none => scanCols start 0 n
      | some p =>
        let (lo, hi, lo', hi') := if s.isGen d && !train then (p, n, 0, p) else (0, p, p, n)
        scanCols start lo hi ++ (if (s.rd pgSched 0x04C).getLsbD 9 then scanCols start lo' hi' else [])
    cols.filter keep

/-- The form belongs to a train-mode job that keeps to its tide windows, the last of them while the unit drains (R208, R209). -/
def State.windowed (s : State) (d : FormDesc) : Bool :=
  match descJob d with
  | some j => (s.job j).isTrain && (s.running pgTide || s.inWindow j)
  | none => false

/-- The first free core of the scan (R22); `avoid` is the core a reissue may not take. A windowed form takes no core on which
it is not planned to end within its window (R209). -/
def State.findCore (s : State) (d : FormDesc) (avoid : Option Nat) : Option (Nat × Option Bool) :=
  (s.formCols d).findSome? fun g =>
    if !s.running (pgSlice (g / 40)) || (s.windowed d && !s.endsInWindow d (g / 40)) then none
    else (List.range 160).findSome? fun r =>
      let n := g / 40 * 6400 + r * 40 + g % 40
      if avoid = some n then none else (s.roomOn d n).map fun b => (n, b)

/-- A form takes its core: its domain is woken, and a pairing of two berths is counted (R95, R349). -/
def State.seatForm (s : State) (fid : Nat) (f : Form) : State :=
  let dom := powerDomain f.core
  let paired : Bool := f.berth.isSome && (s.formsOn f.core) ≠ []
  let s := if paired then s.inc pgSched 0x220 else s
  let s := if s.gated.getLsbD dom then
    ({ s with gated := s.gated &&& ~~~(BitVec.ofNat 20 (2 ^ dom)) }).inc pgPwr 0x218 else s
  { s with forms := tput s.forms fid f, domIdle := tdel s.domIdle dom }

/-! ## The layer staging cache (R78) -/

/-- The staging fill of a placed form that reads the staging cache: the factor's leading rows come from the stacks unless
they are there already (R78). Every form that reads bytes an uncorrectable read brought fails its rows (Table 12-4, class 2). -/
def State.stage (s : State) (d : FormDesc) (slice : Nat) : State :=
  match d, s.formStep d with
  | .raw b, some (_, st) =>
    let e := deltaDesc b
    if isAttn (dForm b) ∨ !e.staged then s
    else match s.segFactor e st with
      | none => s
      | some (live, a, n) =>
        let facB : Bool := e.form = 0x11 || e.form = 0x40
        let k : StagedKey := { slice := slice, adapter := BitVec.ofNat 16 e.adapter, slotB := live, layer := BitVec.ofNat 7 e.layer,
                               expert := BitVec.ofNat 8 e.expert, proj := e.p, facB := facB, base := e.factor, bytes := n }
        match s.stagedKeys.find? fun x => { x with bytes := n, unc := false } == k && n ≤ x.bytes with
        | some x => if x.unc then s.failForm d cMem else s
        | none =>
          let r := s.peek kAdapter none a n
          let s := { s with
            staging := mwrite s.staging (stagingSize * slice + e.factor) r.data
            stagedKeys := (s.stagedKeys.filter fun x => x.slice ≠ slice || !overlap x.base x.bytes e.factor n) ++
              [{ k with unc := r.unc }] }
          if r.unc then (s.note r a 2).failForm d cMem else s
  | _, _ => s

/-- The segment of a placed DOWN or UP form is entered for its slice (R78). -/
def State.addSeg (s : State) (d : FormDesc) (slice : Nat) : State :=
  match d, s.formStep d with
  | .raw b, some (j, st) =>
    let e := deltaDesc b
    if isAttn (dForm b) ∨ (e.form ≠ 0x10 ∧ e.form ≠ 0x11) ∨ st.segs.contains (e.seg slice) then s
    else s.setStep j { st with segs := st.segs ++ [e.seg slice] }
  | _, _ => s

/-- Staged bytes of a slot that no step pins any more are given up. -/
def State.unstage (s : State) : State :=
  { s with stagedKeys := s.stagedKeys.filter fun k =>
      let e := s.entry k.adapter.toNat
      e.st ≠ .free && (if k.slotB then e.pinB else e.pinA) ≠ 0#16 }

/-! ## Placement -/

/-- The descriptor cannot run: its CRC fails or it is malformed (R21, R87, R177, R228). -/
def descBad : FormDesc → Bool
  | .raw b => !descCrcOk b || rawMalformed b
  | .vec v => !v.crcOk
  | .intake i => !i.crcOk

/-- A placement held back: by the wavefront (R262), or while POOL is not RUNNING (Table 15-6). -/
def State.placeHeld (s : State) (d : FormDesc) : Bool :=
  !s.formOpen d ||
    match d with
    | .raw b => dForm b = 0x50 && !s.running pgPool
    | .vec _ => false
    | .intake _ => false

/-- The pigeonholes that depend on a form which will never run are entered as settled: those of its columns for an UP or DXA
form, those of every column for the DOWN or DU form they read (R93). -/
def State.bury (s : State) (d : FormDesc) : State :=
  match d, s.formStep d with
  | .raw b, some (j, st) =>
    let e := deltaDesc b
    let own : DeadForm := { back := e.form = 0x41, p := e.p, layer := e.layer, expert := e.expert, rows := s.formRows d,
                            col0 := e.col0, n := e.n }
    match e.form with
    | 0x11 | 0x41 => s.setStep j { st with dead := st.dead ++ [own] }
    | 0x10 | 0x40 => s.setStep j { st with dead := st.dead ++ [{ own with back := e.form = 0x40, col0 := 0, n := 2 ^ 19 }] }
    | _ => s
  | _, _ => s

/-- Whether a DOWN or UP form placed on a slice reads the staging cache is as R78 chooses. -/
def State.stagedRight (s : State) (d : FormDesc) (slice : Nat) : Bool :=
  match d, s.formStep d with
  | .raw b, some (jn, st) =>
    let e := deltaDesc b
    (e.form ≠ 0x10 && e.form ≠ 0x11) || e.staged == s.stagedOn jn st e slice
  | _, _ => true

/-- The descriptor of a DOWN or UP form whose segment is not staged on the slice it goes to after a fault: firmware builds it again
to gather its factor from the stacks (R22, R78). -/
def State.restage (s : State) (d : FormDesc) (slice : Nat) : FormDesc :=
  match d, s.formStep d with
  | .raw b, some (jn, st) =>
    let e := deltaDesc b
    if isAttn (dForm b) ∨ !e.staged ∨ (e.form ≠ 0x10 ∧ e.form ≠ 0x11) ∨ s.stagedOn jn st e slice then d
    else match s.segFactor e st with
      | none => d
      | some (_, a, _) =>
        let ws := (List.range 16).map fun i => dword b i
        let ws := (ws.set 6 (BitVec.ofNat 32 a)).set 7 (BitVec.ofNat 32 (a / 2 ^ 32))
        let bs := (ws.take 15).flatMap fun w => leBytes 4 w.toNat
        .raw (BitVec.ofNat 512 (ofLe (bs ++ leBytes 4 (crc32 bs).toNat)))
  | _, _ => d

/-- A form takes a core: its segment is entered, and its staging fill made. -/
def State.takeCore (s : State) (fid : Nat) (f : Form) : State :=
  ((s.seatForm fid f).addSeg f.desc (f.core / 6400)).stage f.desc (f.core / 6400)

/-- An adapter intake's forms are charged to the job of its INTAKE_AJOB, and those of a base intake to none (R199, R258). -/
def State.chargeTo (s : State) : FormDesc → FormDesc
  | .intake d => .intake { d with job := (s.intakes.find? fun i => i.running && i.adapter == d.adapter).bind (·.job) }
  | d => d

/-- FORM_PLACEMENT: a descriptor that cannot run fails its rows. One that firmware builds, whose inputs exist and before which no
other is due, takes the first core of its scan, or waits for one (R22, R90, R196, R201). A delta form of reduction length 0 writes
nothing, and takes no core (R55). -/
def formPlacementOp (s : State) (d : FormDesc) : State :=
  let d := s.chargeTo d
  let owned : Bool := match d with
    | .intake _ => true
    | _ => (s.formStep d).isSome
  if !owned then s
  else if descBad d then ((s.logOpen 0x04 pgSched 0).failForm d cDesc).bury d
  else if emptySum d || !s.planned d || !s.inputsIn d || s.placeHeld d || s.goesLater d then s
  else
    let f : Form := { desc := d, core := 0, berth := none, at_ := s.lcount, job := (descJob d).map (BitVec.ofNat 8) }
    match s.findCore d none with
    | none => { s with forms := tput s.forms s.formCount { f with waiting := true }, formCount := s.formCount + 1 }
    | some (n, b) =>
      if !s.stagedRight d (n / 6400) then s
      else { s.takeCore s.formCount { f with core := n, berth := b } with formCount := s.formCount + 1 }

/-- FORM_PLACEMENT (R22). -/
def execFormPlacement (desc : FormDesc) (s : State) : Host.Outcome State Fault Refusal :=
  if !s.serves (.formPlacement desc) then .next s else
  let t := formPlacementOp s desc
  .next { s with
    forms := t.forms, formCount := t.formCount, jobs := t.jobs, gated := t.gated, domIdle := t.domIdle,
    staging := t.staging, stagedKeys := t.stagedKeys, stk := t.stk, log := t.log, logOvf := t.logOvf, fresh := t.fresh,
    ctrs := t.ctrs, hdrs := t.hdrs, regs := t.regs, ret := t.ret }

/-! ## The end of a form -/

/-- A form that cannot complete now: it waits for a core, or an acknowledgement of it never comes (R327). -/
def Form.idle (f : Form) : Bool := f.waiting || f.unacked

/-- A form that its core can complete: it is placed, and its slice's ACLK has not failed (R346). -/
def State.formAt (s : State) (fid : Nat) : Option Form :=
  (tget? s.forms fid).filter fun f => s.clkUp (4 + f.core / 6400)


/-- Waiting forms take cores as they come free, in the order of R197; a form that was torn down takes another core (R22, R96,
R201). A fresh form whose STAGED bit is not as R78 chooses for its slice is given up, and is to be brought again. -/
def State.placeWaiting (s : State) : State :=
  s.dispatchOrder.foldl (fun (s : State) (fid, f) =>
    match (if s.placeHeld f.desc then none else s.findCore f.desc (if f.reissued then some f.core else none)) with
    | none => s
    | some (n, b) =>
      if !f.reissued && !s.stagedRight f.desc (n / 6400) then { s with forms := tdel s.forms fid }
      else
        s.takeCore fid
          { f with desc := s.restage f.desc (n / 6400), core := n, berth := b, at_ := s.lcount, charged := 0, acs := 0
                   waiting := false }) s

/-- The group a form's engine time is charged to: the one its step was formed under, or its job's (R120, R199). -/
def State.formGroup (s : State) (f : Form) : Nat :=
  match s.formStep f.desc, f.job with
  | some (_, st), _ => st.group
  | none, some j => (s.job j.toNat).group
  | none, none => 0

/-- The last form that ran past a window's end has left: its overrun is measured (R209). -/
def State.endOverrun (s : State) (f : Form) (j : Nat) (w : BitVec 64) : State :=
  if s.forms.any fun (_, x) => x.job = f.job && !x.waiting && x.at_.toNat < w.toNat then s
  else
    let late := (s.lcount - w).toNat
    let s := { s with
      overruns := s.overruns.erase (j, w)
      debt := tput s.debt j (min (2 ^ 32 - 1) (tget 0 s.debt j + late)) }
    (s.count (regAt pgTide 0x068) late).raise pgTide 0

/-- A form leaves its core: engine time is charged to its job's group and its step (R199, R138); an overrun of its tide
window is measured when it is the job's last (R209). -/
def State.leaveCore (s : State) (fid : Nat) (f : Form) : State :=
  let g := s.formGroup f
  let w := if f.berth.isSome then 1 else 2
  let s := { s with
    forms := tdel s.forms fid
    used := tput s.used g (BitVec.ofNat 64 (s.usedOf g + w * f.acs)) }
  let s := if (s.forms.any fun (_, x) => powerDomain x.core = powerDomain f.core && !x.waiting) then s
    else { s with domIdle := tput s.domIdle (powerDomain f.core) s.lcount }
  let s := match s.formStep f.desc with
    | some (j, st) => s.setStep j { st with coreCycles := st.coreCycles + BitVec.ofNat 64 f.acs }
    | none => s
  match f.job with
  | none => s
  | some j =>
    (s.overruns.filter (·.1 = j.toNat)).foldl (fun (s : State) x => s.endOverrun f j.toNat x.2) s

/-- A form completes: it leaves its core, and what waits is placed. -/
def State.endForm (s : State) (fid : Nat) : State :=
  match tget? s.forms fid with
  | none => s
  | some f => (s.leaveCore fid f).placeWaiting

/-- A running form whose step has closed completes with no result: its step's rows are gone. -/
def State.endStray (s : State) (fid : Nat) (is : FormDesc → Bool) : State :=
  match s.formAt fid with
  | some f => if f.idle || !is f.desc || (s.formStep f.desc).isSome then s else s.endForm fid
  | none => s

/-- The descriptor is of a raw form code. -/
def isRaw (code : Nat) : FormDesc → Bool
  | .raw b => dForm b = code
  | _ => false

/-- The descriptor is of a vector or selection kind. -/
def isVec (k : VecKind) : FormDesc → Bool
  | .vec v => v.kind = k
  | _ => false

/-- Rows of an UP or DXA form of which a beat was merged from its writes (R97). -/
def State.mergedRows (s : State) (d : FormDesc) : List Nat :=
  match d, s.formStep d with
  | .raw b, some (j, st) =>
    let e := deltaDesc b
    let rows := s.formRows d
    let per := s.perRow e st
    let beats := (s.cmds.filter fun c => c.arr.job.toNat = j && c.step == st.num).flatMap (·.merged)
    (((s.formMap d).zipIdx).filter fun (x, _) => beats.contains (x.lane, x.tag)).map (fun (_, i) =>
      rows.getD (i / per % max 1 rows.length) 0) |>.dedup
  | _, _ => []

/-- A form is torn down by a fault: it goes to another core once; a second fault fails its rows (R22, R96, R97). -/
def State.tearDown (s : State) (fid : Nat) (core : Bool) : State :=
  match tget? s.forms fid with
  | none => s
  | some f =>
    let delta : Bool := match f.desc with | .raw b => !isAttn (dForm b) && (dForm b = 0x10 || dForm b = 0x11) | _ => false
    let hurt := if core && f.sent then s.mergedRows f.desc else []
    let s := s.leaveCore fid f
    let s := if hurt = [] then s
      else match s.formStep f.desc with
        | some (j, _) => (s.failRows j hurt cForm).count (regAt pgSched 0x230) hurt.length
        | none => s
    if f.reissued then (s.failForm f.desc cForm).bury f.desc
    else
      let s := if delta then s.inc pgSched 0x228 else s
      let f := { f with reissued := true, waiting := true, charged := 0, acs := 0, wrote := false, unacked := false }
      { s with forms := tput s.forms fid f }

/-- Berth faults and watchdog expiries of a core that count toward its limit (R330). -/
def State.fault1 (s : State) (pc : Nat) : State :=
  let c := s.core pc
  s.setCore pc { c with faults := c.faults ++ [s.lcount] }

/-- Faults of a core within the last REL_FWINDOW counts. -/
def State.recentFaults (s : State) (pc : Nat) : Nat :=
  ((s.core pc).faults.filter fun t => s.lcount.toNat ≤ t.toNat + (s.rd pgRel 0x048).toNat).length

/-- Free spares of a slice (Table 15-12). -/
def State.sparesFree (s : State) (slice : Nat) : Nat :=
  ((List.range 6560).filter fun i => (s.core (6560 * slice + i)).st == .spare).length

/-- SPARES_LOW is raised when the free spares of a slice fall below SPARE_WARN (R335). -/
def State.sparesLow (s t : State) (slice : Nat) : State :=
  let w := bitsOf (s.rd pgRel 0x044) 15 8
  if w ≤ s.sparesFree slice ∧ t.sparesFree slice < w then t.raise pgRel 4 else t

/-- A core is fenced: its epoch advances in every replica, its logical number awaits a binding, its forms are reissued
(R331). -/
def State.fenceCore (s : State) (pc : Nat) : State :=
  let c := s.core pc
  if c.st = .fenced ∨ c.st = .testing then s
  else
    let n := s.servedBy pc
    let fs := match n with
      | some n => s.fidsOn n
      | none => []
    let s := s.sparesLow (s.setCore pc { c with st := .fenced, epoch := c.epoch + 1#8, deadLogged := false, faults := [] })
      (pc / 6560)
    let s := match n with
      | some n => if (s.binding n).vacant then s else { s with unbound := s.unbound ++ [n] }
      | none => s
    let s := ((s.inc pgRel 0x220).logRec 0x09 pgRel 0 (BitVec.ofNat 32 pc)).raise pgRel 2
    let s := fs.foldl (fun (s : State) fid => s.tearDown fid true) s
    s.touch.placeWaiting

def formFaultOp (s : State) (fid : Nat) (core : Bool) : State :=
  match tget? s.forms fid with
  | none => s
  | some f =>
    if f.waiting then s
    else match s.serving f.core with
      | none => s
      | some pc =>
        if core then
          let fs := s.fidsOn f.core
          let s := s.logRec 0x01 (pgSlice (pc / 6560)) (pc / 6560) (BitVec.ofNat 32 pc)
          if (s.rd pgRel 0x044).getLsbD 0 then s.fenceCore pc
          else (fs.foldl (fun (s : State) k => s.tearDown k true) s).placeWaiting
        else
          let s := (s.logRec 0x02 (pgSlice (pc / 6560)) (pc / 6560) (BitVec.ofNat 32 pc)).fault1 pc
          let s := s.tearDown fid false
          if bitsOf (s.rd pgRel 0x044) 7 4 ≤ s.recentFaults pc then s.fenceCore pc else s.placeWaiting

/-- FORM_FAULT (R96). -/
def execFormFault (form : Nat) (core : Bool) (s : State) : Host.Outcome State Fault Refusal :=
  if !s.serves (.formFault form core) then .next s else
  let t := formFaultOp s form core
  .next { s with
    forms := t.forms, jobs := t.jobs, used := t.used, cores := t.cores, unbound := t.unbound, overruns := t.overruns,
    debt := t.debt, gated := t.gated, domIdle := t.domIdle, staging := t.staging, stagedKeys := t.stagedKeys, stk := t.stk,
    log := t.log, logOvf := t.logOvf, ret := t.ret, ctrs := t.ctrs, hdrs := t.hdrs, regs := t.regs }

def wdogOp (s : State) (fid : Nat) : State :=
  match tget? s.forms fid with
  | none => s
  | some f =>
    if f.waiting ∨ f.charged ≤ 32 * bitsOf (s.rd pgSched 0x058) 16 0 then s
    else match s.serving f.core with
      | none => s
      | some pc =>
        let s := (((s.inc pgSched 0x070).raise pgSched 1).logRec 0x03 (pgSlice (pc / 6560)) (pc / 6560) (BitVec.ofNat 32 pc)).fault1 pc
        let s := s.tearDown fid false
        if bitsOf (s.rd pgRel 0x044) 7 4 ≤ s.recentFaults pc then s.fenceCore pc else s.placeWaiting

/-- WDOG (R201). -/
def execWdog (form : Nat) (s : State) : Host.Outcome State Fault Refusal :=
  if !s.serves (.wdog form) then .next s else
  let t := wdogOp s form
  .next { s with
    forms := t.forms, jobs := t.jobs, used := t.used, cores := t.cores, unbound := t.unbound, overruns := t.overruns,
    debt := t.debt, gated := t.gated, domIdle := t.domIdle, staging := t.staging, stagedKeys := t.stagedKeys, stk := t.stk,
    log := t.log, logOvf := t.logOvf, ret := t.ret, ctrs := t.ctrs, hdrs := t.hdrs, regs := t.regs }

end Sys2Proof.Machine
end

