-- ==== Sys2Proof/Machine/Delta.lean ====
section
/-! DEFINITION. The delta, gradient and pooling forms: DOWN, UP, DU, DXA, GOUT, MPOOL, and the end of an UP form's writes
(04_delta_path.md R83 to R102; 10_training.md R223, R226 to R230, R244, R245). -/
namespace Sys2Proof.Machine

/-! ## Rows in a stored format (R32, R63) -/

/-- Element i of stored element bytes. -/
def elemCode (f : FmtCode) (bs : List Byte) (i : Nat) : Byte :=
  match f with
  | .mxfp4 => let b := bs.getD (i / 2) 0#8; if i % 2 = 0 then b &&& 0x0F#8 else b >>> 4
  | _ => bs.getD i 0#8

/-- The w values of a row stored as element bytes then scales. -/
def decRow (code w : Nat) (bs : List Byte) : List Val :=
  match fmtOfCode code with
  | some .fp32 => (List.range w).map fun i => ofF32 (BitVec.ofNat 32 (ofLe ((bs.drop (4 * i)).take 4)))
  | some .bf16 => (List.range w).map fun i => ofBf16 (BitVec.ofNat 16 (ofLe ((bs.drop (2 * i)).take 2)))
  | some f =>
    let n := if f = .mxfp4 then ceilDiv w 2 else w
    (List.range w).map fun i => mxDecode f (bs.getD (n + i / 32) 0#8) (elemCode f bs i)
  | none => List.replicate w .nan

/-- Element codes packed into bytes. -/
def packElems (f : FmtCode) (es : List Byte) : List Byte :=
  match f with
  | .mxfp4 => (List.range (ceilDiv es.length 2)).map fun i => es.getD (2 * i) 0#8 ||| (es.getD (2 * i + 1) 0#8 <<< 4)
  | _ => es

/-- A row in a stored format (R34 to R37). -/
def encRow (code : Nat) (vs : List Val) : List Byte :=
  match fmtOfCode code with
  | some .fp32 => vs.flatMap fun v => leBytes 4 (toF32 v).toNat
  | some .bf16 => vs.flatMap fun v => leBytes 2 (toBf16 v).toNat
  | some .e4m3 => vs.map toE4m3
  | some f =>
    let bs := (chunksOf 32 vs.length vs).map (mxEncode f)
    packElems f (bs.flatMap (·.2)) ++ bs.map (·.1)
  | none => []

/-- Bytes of a row of w elements. -/
def rowLen (code w : Nat) : Nat := if code = 1 then 4 * w else rowBytes code w

/-! ## Conversion statistics (R229, R230) -/

/-- Counts of one conversion: values, overflows, vanishes, NaN results, and overflows to infinity. -/
structure ConvCount where
  n : Nat := 0
  over_ : Nat := 0
  vanish : Nat := 0
  nan : Nat := 0
  inf : Nat := 0
deriving DecidableEq, Repr

def ConvCount.plus (a b : ConvCount) : ConvCount :=
  { n := a.n + b.n, over_ := a.over_ + b.over_, vanish := a.vanish + b.vanish, nan := a.nan + b.nan, inf := a.inf + b.inf }

/-- Counts of plain conversions: pairs of source and result. -/
def countPairs (ps : List (Val × Val)) : ConvCount :=
  { n := ps.length
    over_ := (ps.filter fun (a, b) => a.isFinite && (b == .inf false || b == .inf true)).length
    vanish := (ps.filter fun (a, b) => a.isFinite && !a.isZero && b.isZero).length
    nan := (ps.filter fun (_, b) => b.isNan).length
    inf := (ps.filter fun (a, b) => a.isFinite && (b == .inf false || b == .inf true)).length }

/-- Counts of one MX block: an overflow is an element that R35 saturates (R229). -/
def countBlock (f : FmtCode) (vs : List Val) : ConvCount :=
  let (s, es) := mxEncode f vs
  if s = 0xFF#8 then { n := vs.length, over_ := (vs.filter Val.isFinite).length, nan := vs.length }
  else
    let ps := vs.zip es
    { n := vs.length
      over_ := (vs.filter fun v => f.exceeds (v.abs.scale (127 - (s.toNat : Int)))).length
      vanish := (ps.filter fun (v, b) => !v.isZero && (f.elem b).isZero).length }

/-- Counts of a row's conversion to a format. -/
def countRow (code : Nat) (vs : List Val) : ConvCount :=
  match fmtOfCode code with
  | some .bf16 => countPairs (vs.map fun v => (v, ofBf16 (toBf16 v)))
  | some .fp32 => countPairs (vs.map fun v => (v, ofF32 (toF32 v)))
  | some .e4m3 => countPairs (vs.map fun v => (v, ofE4m3 (toE4m3 v)))
  | some f => ((chunksOf 32 vs.length vs).map (countBlock f)).foldl ConvCount.plus {}
  | none => {}

/-- A count that sticks at all ones. -/
def stick (w : W) (n : Nat) : W := if 2 ^ 32 - 1 ≤ w.toNat + n then w32 else BitVec.ofNat 32 (w.toNat + n)

/-- Counts join a class's statistics of a train job's attempt, and set its NaN flag (R229, R230). -/
def State.stat (s : State) (jn cls fmt : Nat) (c : ConvCount) : State :=
  let j := s.job jn
  if !j.isTrain ∨ c.n = 0 then s
  else
    let o := tget {} j.train.stats cls
    let r : StatRow := { fmt := BitVec.ofNat 32 fmt, converted := stick o.converted c.n, overflow := stick o.overflow c.over_,
                         vanish := stick o.vanish c.vanish, nan := stick o.nan c.nan }
    let flag := j.train.nanFlag || (2 ≤ cls && cls ≤ 5 && (c.nan ≠ 0 || c.inf ≠ 0))
    s.setJob jn { j with train := { j.train with stats := tput j.train.stats cls r, nanFlag := flag } }

/-! ## Saved tensors (R224) -/

def packWords (bs : List Byte) : List W :=
  (List.range (ceilDiv bs.length 4)).map fun i => BitVec.ofNat 32 (ofLe ((bs.drop (4 * i)).take 4))

def unpackWords (ws : List W) : List Byte := ws.flatMap fun w => leBytes 4 w.toNat

def Step.saved? (st : Step) (row layer tensor : Nat) : Option (List Byte) :=
  (st.saved.find? fun x => x.row = row && x.layer = layer && x.tensor = tensor).map fun x => unpackWords x.words

/-- A tensor of a row is kept in the block until the step closes, whatever the job's mode. -/
def State.keep (s : State) (jn row tensor : Nat) (bs : List Byte) : State :=
  match (s.job jn).cur with
  | some st =>
    let old := st.saved.filter fun x => !(x.row = row && x.layer = 0 && x.tensor = tensor)
    s.setStep jn { st with saved := old ++ [{ row := row, layer := 0, tensor := tensor, words := packWords bs }] }
  | none => s

/-- Bytes that row i of a step saves. -/
def State.rowSaved (s : State) (st : Step) (i : Nat) : Nat :=
  let a := s.rowAdapter st i
  (s.desc st.model.toNat).savedRow (st.snap a) a s.decl.xFmt.toNat s.decl.beat.toNat

/-- Where a tensor of a row stands in the activation area, and its bytes: rows in row-table order, then layers, then tensors
(R224; DESIGN CHOICE, log 147: the rule fixes what the offset depends on, and not the layout). -/
def State.savedPlace (s : State) (jn : Nat) (st : Step) (row layer tensor : Nat) : Option (Nat × Nat) :=
  let m := s.desc st.model.toNat
  let a := s.rowAdapter st row
  let e := st.snap a
  let base := (s.job jn).actBase + ((List.range row).map (s.rowSaved st)).sum
  let es := ((st.row row).expertsAt layer).map (·.1)
  let k := es.findIdx (· == tensor / 32 - 1)
  let key := if tensor < 32 then tensor else tensor % 32 + 32 * ((if k < es.length then k else 0) + 1)
  let lay := m.savedLayer e a s.decl.xFmt.toNat s.decl.beat.toNat
  let find (at_ : Nat) (ts : List (Nat × Nat)) : Option (Nat × Nat) :=
    (ts.find? fun x => x.1 = key).map fun x => (at_ + ((ts.takeWhile fun y => y.1 ≠ key).map (·.2)).sum, x.2)
  if tensor = tFinal ∨ tensor = tU 8 then find (base + m.layers * (lay.map (·.2)).sum) (m.savedTail e a)
  else find (base + layer * (lay.map (·.2)).sum) lay

/-- Bytes of a saved tensor from an offset are written; a write that faults fails the row (R224, R272). -/
def State.saveAt (s : State) (jn : Nat) (row layer tensor off : Nat) (bs : List Byte) : State :=
  match (s.job jn).isTrain, (s.job jn).cur with
  | true, some st =>
    match s.savedPlace jn st row layer tensor with
    | some (a, n) =>
      let (t, bad) := s.poke kStaging none (a + off) (bs.take (n - off))
      if bad then t.failRows jn [row] cMem else t
    | none => s
  | _, _ => s

/-- A tensor of a row is saved (train mode). -/
def State.save (s : State) (jn row layer tensor : Nat) (bs : List Byte) : State := s.saveAt jn row layer tensor 0 bs

/-- The read of a saved tensor, and where it is. -/
def State.savedRead (s : State) (jn : Nat) (st : Step) (row layer tensor : Nat) : Nat × MemRes :=
  match s.savedPlace jn st row layer tensor with
  | some (a, n) => (a, s.peek kStaging none a n)
  | none => (0, { data := [] })

/-- The first n bytes of a saved tensor. -/
def State.savedTensor (s : State) (jn : Nat) (st : Step) (row layer tensor n : Nat) : List Byte :=
  ((s.savedRead jn st row layer tensor).2.data ++ zeroBytes n).take n

/-! ## What feeds a form -/

/-- A read that feeds a form: an uncorrectable word or a region fault fails the rows it names (Table 12-4, class 0). -/
def State.feedForm (s : State) (d : FormDesc) (r : MemRes) (a : Nat) : State :=
  if r.unc then (s.note r a 0).failForm d cMem else s

def State.feedAll (s : State) (d : FormDesc) (rs : List (Nat × MemRes)) : State :=
  rs.foldl (fun (s : State) (a, r) => s.feedForm d r a) s

/-- The saved tensors of some rows feed a form: an uncorrectable word fails its rows. -/
def State.feedSaved (s : State) (d : FormDesc) (jn : Nat) (st : Step) (rows : List Nat) (layer : Nat) (tensors : List Nat) :
    State :=
  s.feedAll d (rows.flatMap fun r => tensors.map (s.savedRead jn st r layer))

/-- A DOWN or DU form reads whole factor rows (R92, R226). -/
def DeltaDesc.whole (d : DeltaDesc) : Bool := d.form = 0x10 || d.form = 0x40

/-- The runs of a factor row that an UP or DXA form reads for its columns: elements, then scales (R92). -/
def DeltaDesc.runs (d : DeltaDesc) : List (Nat × Nat) :=
  let bits := match fmtOfCode d.wfmt with | some f => f.bits | none => 8
  let eb := ceilDiv (d.width * bits) 8
  (d.col0 * bits / 8, ceilDiv ((d.col0 + d.n) * bits) 8) ::
    (if bits = 16 then [] else [(eb + d.col0 / 32, eb + ceilDiv (d.col0 + d.n) 32)])

/-- Runs that a form reads of its factor, in bytes from FACTOR. -/
def DeltaDesc.reads (d : DeltaDesc) : List (Nat × Nat) :=
  let rb := rowBytes d.wfmt d.width
  if d.whole then [(0, d.k * rb)]
  else (List.range d.k).flatMap fun j => d.runs.map fun (a, b) => (j * rb + a, j * rb + b)

/-- A run of the factor, widened to 256-byte boundaries: the read, and the run's bytes. -/
def State.readRun (s : State) (d : DeltaDesc) (a b : Nat) : Nat × MemRes × List Byte :=
  let lo := (d.factor + a) / 256 * 256
  let r := s.peek kAdapter none lo (ceilDiv (d.factor + b) 256 * 256 - lo)
  (lo, r, (r.data.drop (d.factor + a - lo)).take (b - a))

/-- The reads of a form's factor, and its rows with zeros where it reads nothing: from staging or from the stacks (R92). -/
def State.factorRows (s : State) (f : Form) (d : DeltaDesc) : List (Nat × MemRes) × List Byte :=
  let n := d.k * rowBytes d.wfmt d.width
  if d.staged then ([], mread s.staging (stagingSize * (f.core / 6400) + d.factor) n)
  else
    let rs := d.reads.map fun (a, b) => (a, s.readRun d a b)
    (rs.map fun (_, lo, r, _) => (lo, r),
      rs.foldl (fun (bs : List Byte) (a, _, _, x) => bs.take a ++ x ++ bs.drop (a + x.length)) (zeroBytes n))

/-- 256-byte reads of a factor: what a form reads of k rows (R92). -/
def gatherUnits (d : DeltaDesc) : Nat :=
  (d.reads.map fun (a, b) =>
    if d.whole then ceilDiv b 256
    else if a < b then (d.factor + b + 255) / 256 - (d.factor + a) / 256 else 0).sum

/-- Reads are counted (SCHED_DELTA_GATHER, SCHED_DELTA_STAGED). -/
def State.countGather (s : State) (d : DeltaDesc) : State :=
  s.count (regAt pgSched (if d.staged then 0x218 else 0x210)) (gatherUnits d)

/-- The factor's rows, decoded. -/
def factorVals (d : DeltaDesc) (k : Nat) (bs : List Byte) : List (List Val) :=
  let rb := rowBytes d.wfmt d.width
  (List.range k).map fun j => decRow d.wfmt d.width ((bs.drop (j * rb)).take rb)

/-- Row m of a form's landed FP32 input of n words. -/
def State.landF32 (s : State) (a n : Nat) : List W := (List.range n).map fun i => s.landW (a + 4 * i)

/-- Row m of a form's landed input in a format. -/
def State.landRow (s : State) (code a w : Nat) : List Val := decRow code w (s.land a (rowLen code w))

def zipProd (a b : List Val) : List Val := List.zipWith Val.mul a b

/-! ## Drop-out (R53, R223) -/

/-- Element e of a row's adapter input is dropped. -/
def State.dropped (s : State) (jn : Nat) (st : Step) (row layer proj e : Nat) : Bool :=
  let j := s.job jn
  let r := st.row row
  let w := philox (s.req r.slot.toNat).seed
    { c0 := r.pos.setWidth 32, c1 := BitVec.ofNat 32 (0x200 + 2 ^ 16 * layer + 2 ^ 23 * proj), c2 := st.num.setWidth 32,
      c3 := BitVec.ofNat 32 (e / 4) }
  let x := match e % 4 with | 0 => w.c0 | 1 => w.c1 | 2 => w.c2 | _ => w.c3
  x.toNat < j.dropD.toNat

/-- A row's input under the mask: dropped elements become +0. -/
def State.masked (s : State) (jn : Nat) (st : Step) (row layer proj : Nat) (xs : List Val) : List Val :=
  if (s.job jn).dropD = 0#32 ∨ proj = 8 then xs
  else (xs.zipIdx).map fun (x, i) => if s.dropped jn st row layer proj i then .zero else x

/-- U or dU_raw times KS (R223, R226). -/
def State.timesKs (s : State) (jn : Nat) (u : W) : W :=
  if (s.job jn).dropD = 0#32 then u else f32Mul u (s.job jn).train.ks

/-! ## DOWN (R84, R223) -/

/-- The tensor that holds a row's U of a projection: an expert's own, but for gate and up where one factor pair serves every
expert. -/
def State.uTensor (s : State) (st : Step) (d : DeltaDesc) (expert : Nat) : Nat :=
  tU d.p + (if d.vocab ∨ d.proj < 4 ∨ 6 < d.proj then 0
    else 32 * ((if s.sharedGate st d.adapter d.p then 0 else expert) + 1))

/-- A DOWN form's result: U of each row. -/
def State.downRows (s : State) (jn : Nat) (st : Step) (d : DeltaDesc) (rows : List Nat) (fac : List (List Val)) : List (List W) :=
  let train := (s.job jn).isTrain
  let len := match fmtOfCode d.xfmt, fmtOfCode d.wfmt with | some a, some b => chunkLen a b | _, _ => 32
  (rows.zipIdx).map fun (row, m) =>
    let x := s.landRow d.xfmt (d.src + m * d.stride) d.width
    let x := if train then s.masked jn st row d.layer d.p x else x
    fac.map fun a => let u := dot len (zipProd x a); if train then s.timesKs jn u else u

def downOp (s : State) (fid : Nat) : State :=
  match s.formAt fid with
  | some f =>
    match f.desc, s.formStep f.desc with
    | .raw b, some (jn, st) =>
      let d := deltaDesc b
      if f.idle ∨ isAttn (dForm b) ∨ d.form ≠ 0x10 then s
      else
        let rows := s.formRows f.desc
        let (rs, fac) := s.factorRows f d
        let us := s.downRows jn st d rows (factorVals d d.k fac)
        let s := (s.feedAll f.desc rs).countGather d
        let s := ((us.zip rows).zipIdx).foldl (fun (s : State) ((u, row), m) =>
          let bs := u.flatMap fun w => leBytes 4 w.toNat
          let s := s.setLand (d.dst + m * d.k * 4) bs
          if d.train then s.save jn row d.layer (s.uTensor st d d.expert) bs else s) s
        let s := s.markRows jn rows d.layer (.down d.p d.expert)
        (s.inc pgSched 0x208).endForm fid
    | _, _ => s.endStray fid (isRaw 0x10)
  | none => s

/-- DOWN (R84). -/
def execDown (form : Nat) (s : State) : Host.Outcome State Fault Refusal :=
  if !s.serves (.down form) then .next s else
  let t := downOp s form
  .next { s with
    mem := t.mem, uncorr := t.uncorr,
    landing := t.landing, forms := t.forms, jobs := t.jobs, used := t.used, overruns := t.overruns, debt := t.debt,
    gated := t.gated, domIdle := t.domIdle, staging := t.staging, stagedKeys := t.stagedKeys, stk := t.stk, log := t.log,
    logOvf := t.logOvf, ret := t.ret, ctrs := t.ctrs, hdrs := t.hdrs, regs := t.regs }

/-! ## UP and DXA (R85, R94, R226) -/

/-- A beat of bw columns from a row's values: −0 beyond the width. -/
def beatBits (fp32 : Bool) (vs : List W) : BitVec 1024 :=
  let n := if fp32 then 32 else 64
  BitVec.ofNat 1024 (((List.range n).map fun i =>
    match vs[i]? with
    | some v => if fp32 then v.toNat * 2 ^ (32 * i) else (toBf16 (ofF32 v)).toNat * 2 ^ (16 * i)
    | none => if fp32 then 2 ^ (32 * i + 31) else 2 ^ (16 * i + 15)).sum)

/-- The writes of a form's rows, in the order of R85: for each block, each row, each of its pigeonholes. -/
def fillWrites (d : DeltaDesc) (per : Nat) (map : List MapEntry) (ys : List (List W)) : List (Nat × CrossWrite) :=
  let nb := ceilDiv d.n d.bw
  (List.range nb).flatMap fun b => ((ys.zipIdx).flatMap fun (y, m) =>
    let data := beatBits (d.xfmt == 1) ((y.drop (b * d.bw)).take d.bw)
    (List.range per).filterMap fun e =>
      (map[(b * ys.length + m) * per + e]?).map fun x => (x.lane, { ph := x.ph, tag := x.tag, data := data }))

/-- Writes enter their lanes' queues. -/
def State.pushWrites (s : State) (ws : List (Nat × CrossWrite)) : State :=
  ws.foldl (fun (s : State) (l, w) => s.setLane l { s.lane l with crossing := (s.lane l).crossing ++ [w] }) s

/-- Writes of a form still in a lane's queue. -/
def State.stillCrossing (s : State) (d : FormDesc) : Bool :=
  (s.formMap d).any fun x => (s.lane x.lane).crossing.any fun w => w.tag == x.tag && w.ph == x.ph

/-- An UP form that completes is counted, and entered for its rows. -/
def State.endUp (s : State) (d : FormDesc) : State :=
  match d, s.formStep d with
  | .raw b, some (jn, _) =>
    let e := deltaDesc b
    if e.form = 0x11 then (s.inc pgSched 0x208).markRows jn (s.formRows d) e.layer (.up e.p e.expert e.col0) else s
  | .raw b, none => if dForm b = 0x11 then s.inc pgSched 0x208 else s
  | _, _ => s

/-- UP and DXA forms whose every write has been acknowledged complete (R85, R327). -/
def State.endWrites (s : State) : State :=
  ((s.forms.filter fun (x : Nat × Form) => x.2.wrote && !x.2.unacked && !s.stillCrossing x.2.desc).map (·.1)).foldl
    (fun (s : State) fid =>
      match s.formAt fid with
      | some f => (s.endUp f.desc).endForm fid
      | none => s) s

/-- PIGEONHOLE_WRITE (R94): the oldest write of a lane's queue enters its pigeonhole or is dropped, and a form whose last
write it was completes. -/
def execPigeonholeWrite (lane : BitVec 6) (s : State) : Host.Outcome State Fault Refusal :=
  if !s.serves (.pigeonholeWrite lane) then .next s else
  let t := if s.clkUp 1 then (pigeonholeWriteOp s lane.toNat).endWrites else s
  .next { s with
    lanes := t.lanes, forms := t.forms, jobs := t.jobs, used := t.used, overruns := t.overruns, debt := t.debt,
    gated := t.gated, domIdle := t.domIdle, staging := t.staging, stagedKeys := t.stagedKeys, stk := t.stk, log := t.log,
    logOvf := t.logOvf, ret := t.ret, ctrs := t.ctrs, hdrs := t.hdrs, regs := t.regs }

/-- ΔY of each row over the form's columns. -/
def State.upRows (s : State) (d : DeltaDesc) (m : Nat) (fac : List (List Val)) : List (List W) :=
  (List.range m).map fun i =>
    let u := (s.landF32 (d.src + i * d.stride) d.k).map ofF32
    (List.range d.n).map fun c => dot 4 (zipProd u (fac.map fun b => b.getD (d.col0 + c) .zero))

/-- dXA of each row: a dropped column is −0. -/
def State.dxaRows (s : State) (jn : Nat) (st : Step) (d : DeltaDesc) (rows : List Nat) (fac : List (List Val)) : List (List W) :=
  ((s.upRows d rows.length fac).zip rows).map fun (y, row) =>
    (y.zipIdx).map fun (v, c) =>
      if (s.job jn).dropD ≠ 0#32 ∧ d.p ≠ 8 ∧ s.dropped jn st row d.layer d.p (d.col0 + c) then 0x80000000#32 else v

/-- An UP (code 0x11) or DXA (0x41) form computes and sends its writes. -/
def fillOp (s : State) (fid code : Nat) : State :=
  match s.formAt fid with
  | some f =>
    match f.desc, s.formStep f.desc with
    | .raw b, some (jn, st) =>
      let d := deltaDesc b
      if f.idle ∨ f.wrote ∨ isAttn (dForm b) ∨ d.form ≠ code then s
      else
        let rows := s.formRows f.desc
        let (rs, bs) := s.factorRows f d
        let fac := factorVals d d.k bs
        let ys := if code = 0x41 then s.dxaRows jn st d rows fac else s.upRows d rows.length fac
        let ws := fillWrites d (s.perRow d st) (s.formMap f.desc) ys
        let s := (s.feedAll f.desc rs).countGather d
        let c := (ys.map fun y => countRow (if d.xfmt = 1 then 1 else 2) (y.map ofF32)).foldl ConvCount.plus {}
        let s := (if f.counted then s else s.stat jn 1 d.xfmt c).pushWrites ws
        { s with forms := tput s.forms fid { f with wrote := true, sent := true, counted := true } }.endWrites
    | _, _ => s.endStray fid (isRaw code)
  | none => s

/-- UP (R85). -/
def execUp (form : Nat) (s : State) : Host.Outcome State Fault Refusal :=
  if !s.serves (.up form) then .next s else
  let t := fillOp s form 0x11
  .next { s with
    lanes := t.lanes, forms := t.forms, jobs := t.jobs, used := t.used, overruns := t.overruns, debt := t.debt,
    gated := t.gated, domIdle := t.domIdle, staging := t.staging, stagedKeys := t.stagedKeys, stk := t.stk, log := t.log,
    logOvf := t.logOvf, ret := t.ret, ctrs := t.ctrs, hdrs := t.hdrs, regs := t.regs }

/-- DXA (R226). -/
def execDxa (form : Nat) (s : State) : Host.Outcome State Fault Refusal :=
  if !s.serves (.dxa form) then .next s else
  let t := fillOp s form 0x41
  .next { s with
    lanes := t.lanes, forms := t.forms, jobs := t.jobs, used := t.used, overruns := t.overruns, debt := t.debt,
    gated := t.gated, domIdle := t.domIdle, staging := t.staging, stagedKeys := t.stagedKeys, stk := t.stk, log := t.log,
    logOvf := t.logOvf, ret := t.ret, ctrs := t.ctrs, hdrs := t.hdrs, regs := t.regs }

/-! ## DU (R226) -/

def duOp (s : State) (fid : Nat) : State :=
  match s.formAt fid with
  | some f =>
    match f.desc, s.formStep f.desc with
    | .raw b, some (jn, _) =>
      let d := deltaDesc b
      if f.idle ∨ isAttn (dForm b) ∨ d.form ≠ 0x40 then s
      else
        let rows := s.formRows f.desc
        let (rs, bs) := s.factorRows f d
        let fac := factorVals d d.k bs
        let len := if d.xfmt = 2 ∧ d.wfmt = 2 then 16 else 32
        let us := (List.range rows.length).map fun m =>
          let y := s.landRow d.xfmt (d.src + m * d.stride) d.width
          fac.map fun b => s.timesKs jn (dot len (zipProd y b))
        let s := (s.feedAll f.desc rs).countGather d
        let s := (us.zipIdx).foldl (fun (s : State) (u, m) =>
          s.setLand (d.dst + m * d.k * 4) (u.flatMap fun w => leBytes 4 w.toNat)) s
        (s.markRows jn rows d.layer (.du d.p d.expert)).endForm fid
    | _, _ => s.endStray fid (isRaw 0x40)
  | none => s

/-- DU (R226). -/
def execDu (form : Nat) (s : State) : Host.Outcome State Fault Refusal :=
  if !s.serves (.du form) then .next s else
  let t := duOp s form
  .next { s with
    landing := t.landing, forms := t.forms, jobs := t.jobs, used := t.used, overruns := t.overruns, debt := t.debt,
    gated := t.gated, domIdle := t.domIdle, staging := t.staging, stagedKeys := t.stagedKeys, stk := t.stk, log := t.log,
    logOvf := t.logOvf, ret := t.ret, ctrs := t.ctrs, hdrs := t.hdrs, regs := t.regs }

/-! ## GOUT and MPOOL (R226, R227, R244, R245) -/

/-- A sum over rows: parts of 256, chunks of 4, combined by the tree (R227). -/
def rowSum (ps : List Val) : W :=
  (treeSum ((chunksOf 256 ps.length ps).map (dot 4))).getD 0#32

/-- The tensor that holds the input X of a projection. -/
def xTensor (p expert : Nat) : Nat :=
  if p ≤ 2 then tAttnX else if p = 3 then tCtx else if p = 4 ∨ p = 5 then tMlpX
  else if p = 6 then tAct + 32 * (expert + 1) else if p = 8 then tFinalX else tMlpX

/-- The tensors a GOUT or MPOOL form reads of a row (R227). -/
def State.gradTensors (s : State) (st : Step) (d : DeltaDesc) (row : Nat) : List Nat :=
  (s.gradExperts st d row).map fun e => if d.train then s.uTensor st d e else xTensor d.p e

/-- A row's saved input X of a projection; that of the vocabulary projection is kept in the block, since R224 saves the input of
the final norm. -/
def State.savedX (s : State) (jn : Nat) (st : Step) (d : DeltaDesc) (row expert n : Nat) : List Byte :=
  if d.p = 8 then (st.saved? row 0 tFinalX).getD (zeroBytes n)
  else s.savedTensor jn st row d.layer (xTensor d.p expert) n

/-- What a GOUT or MPOOL form sums over, in row-key order: the row, the expert it is taken for, and its place in the row list. -/
def State.gradTerms (s : State) (st : Step) (d : DeltaDesc) (rows : List Nat) : List (Nat × Nat × Nat) :=
  (s.keyOrder st rows).map fun (row, n) =>
    (row, (s.gradExperts st d row).getD ((rows.take n).count row) 0, n)

/-- The saved tensors a GOUT or MPOOL form reads feed it. -/
def State.feedGrad (s : State) (fd : FormDesc) (jn : Nat) (st : Step) (d : DeltaDesc) (rows : List Nat) : State :=
  s.feedAll fd (rows.dedup.flatMap fun r => (s.gradTensors st d r).map (s.savedRead jn st r d.layer))

/-- The gradients of a GOUT or MPOOL form: component by component, over its columns. -/
def State.gradRows (s : State) (jn : Nat) (st : Step) (d : DeltaDesc) (rows : List Nat) : List (List W) :=
  let xf := s.decl.xFmt.toNat
  let ord := s.gradTerms st d rows
  if d.train then
    let us := ord.map fun (row, e, _) => decRow 1 d.k (s.savedTensor jn st row d.layer (s.uTensor st d e) (4 * d.k))
    let ys := ord.map fun (_, _, m) => s.landRow xf (d.src + m * d.stride) d.width
    (List.range d.k).map fun j => (List.range d.n).map fun c =>
      rowSum (List.zipWith (fun u y => (u.getD j .zero).mul (y.getD (d.col0 + c) .zero)) us ys)
  else
    let xs := ord.map fun (row, e, _) => s.masked jn st row d.layer d.p
      (decRow xf d.width (s.savedX jn st d row e (rowLen xf d.width)))
    let us := ord.map fun (_, _, m) => (s.landF32 (d.src + m * d.stride) d.k).map ofF32
    (List.range d.k).map fun j => (List.range d.n).map fun c =>
      rowSum (List.zipWith (fun x u => (x.getD (d.col0 + c) .zero).mul (u.getD j .zero)) xs us)

/-- A form's gradient words go to the activation area, row by row of the factor. -/
def State.putGrad (s : State) (f : Form) (d : DeltaDesc) (gs : List (List W)) : State :=
  (gs.zipIdx).foldl (fun (s : State) (g, j) =>
    let (t, bad) := s.poke kStaging none (d.factor + 4 * (j * d.width + d.col0)) (g.flatMap fun w => leBytes 4 w.toNat)
    if bad then t.failForm f.desc cMem else t) s

/-- First gradient element of a factor: its place in the slot, counted in elements (R231). -/
def State.elemBase (s : State) (st : Step) (d : DeltaDesc) : Nat :=
  let e := st.snap d.adapter
  let m := s.desc st.model.toNat
  let ps := e.pairs m
  let me (p : FactorPair) : Bool :=
    p.proj = d.p && (d.vocab || p.layer = d.layer) && p.expert = (if e.exp = 0#8 then 0 else d.expert)
  ((ps.takeWhile fun p => !me p).map fun p => p.rank * (p.i + p.o)).sum +
    (if d.train then match ps.find? me with | some p => p.rank * p.i | none => 0 else 0)

/-- The piece of an adapter's gradient a form leaves is entered, once (R231). -/
def State.addPiece (s : State) (jn : Nat) (st : Step) (d : DeltaDesc) : State :=
  let j := s.job jn
  let p : GradPiece := { adapter := BitVec.ofNat 16 d.adapter, e0 := s.elemBase st d + d.col0, k := d.k, width := d.width,
                         n := d.n, addr := d.factor + 4 * d.col0 }
  s.setJob jn { j with train := { j.train with grads := j.train.grads.filter (· ≠ p) ++ [p] } }

/-- Counts of class GRAD, which is not converted: infinities and NaNs (R229). -/
def countGrad (gs : List W) : ConvCount :=
  let infs := (gs.filter fun g => ofF32 g == .inf false || ofF32 g == .inf true).length
  { n := gs.length, over_ := infs, nan := (gs.filter fun g => (ofF32 g).isNan).length, inf := infs }

def goutOp (s : State) (fid : Nat) : State :=
  match s.formAt fid with
  | some f =>
    match f.desc, s.formStep f.desc with
    | .raw b, some (jn, st) =>
      let d := deltaDesc b
      if f.idle ∨ isAttn (dForm b) ∨ d.form ≠ 0x42 then s
      else
        let rows := s.formRows f.desc
        let gs := s.gradRows jn st d rows
        let s := s.feedGrad f.desc jn st d rows
        let all := gs.flatten
        let s := s.stat jn 3 1 (countGrad all)
        ((s.addPiece jn st d).putGrad f d gs).endForm fid
    | _, _ => s.endStray fid (isRaw 0x42)
  | none => s

/-- GOUT (R227). -/
def execGout (form : Nat) (s : State) : Host.Outcome State Fault Refusal :=
  if !s.serves (.gout form) then .next s else
  let t := goutOp s form
  .next { s with
    mem := t.mem, uncorr := t.uncorr, forms := t.forms, jobs := t.jobs, used := t.used, overruns := t.overruns,
    debt := t.debt, gated := t.gated, domIdle := t.domIdle, staging := t.staging, stagedKeys := t.stagedKeys, stk := t.stk,
    log := t.log, logOvf := t.logOvf, ret := t.ret, ctrs := t.ctrs, hdrs := t.hdrs, regs := t.regs }

/-- K_ij(e) under the pair key of seat j (R245). -/
def State.maskWord (s : State) (c seat adapter attempt e : Nat) (step : BitVec 64) : W :=
  match tget? s.keys (bitsOf (s.seat c seat) 19 10) with
  | none => 0#32
  | some k =>
    let blk := aesEnc (keyBytes k.mask)
      (leBytes 16 (step.toNat + 2 ^ 64 * adapter + 2 ^ 80 * attempt + 2 ^ 88 * (e / 4)))
    BitVec.ofNat 32 (ofLe ((blk.drop (4 * (e % 4))).take 4))

/-- A masked value of this device's seat (R245). -/
def State.maskOf (s : State) (jn : Nat) (st : Step) (adapter e : Nat) (q : W) : W :=
  let j := s.job jn
  ((List.range 64).filter fun k => (s.seat j.circ k).getLsbD 31 && k ≠ j.rank).foldl (fun (x : W) k =>
    let w := s.maskWord j.circ k adapter st.attempt.toNat e st.num
    if j.rank < k then x + w else x - w) q

/-- A gradient clipped to [−C, C] (R244). -/
def clipPool (c : Int) (q : W) : W × Bool :=
  if q.toInt > c then (BitVec.ofInt 32 c, true) else if q.toInt < -c then (BitVec.ofInt 32 (-c), true) else (q, false)

/-- A gradient in a pool's fixed-point format: the source, the converted word, the clipped one, and what was counted (R44, R244). -/
structure PoolVal where
  src : W
  conv : W
  out : W
  clip : Bool
  sat : Bool
  nan : Bool
deriving DecidableEq, Repr

/-- The gradients of an MPOOL form converted and clipped for its circular (R244). -/
def State.poolVals (s : State) (jn : Nat) (gs : List (List W)) : List (List PoolVal) :=
  let c := (s.job jn).circ
  let lim : Int := ((2 ^ 31 - 1) / max 1 (s.members c) : Nat)
  gs.map fun g => g.map fun x =>
    let (q, sat, nan) := toPool (bitsOf (s.poolCfg c) 13 8) x
    { src := x, conv := q, out := (clipPool lim q).1, clip := (clipPool lim q).2, sat := sat, nan := nan }

/-- The masked words an MPOOL form leaves, row by row of the factor (R245). -/
def State.maskedRows (s : State) (jn : Nat) (st : Step) (d : DeltaDesc) (vs : List (List PoolVal)) : List (List W) :=
  let base := s.elemBase st d
  (vs.zipIdx).map fun (g, r) => (g.zipIdx).map fun (v, c) => s.maskOf jn st d.adapter (base + r * d.width + d.col0 + c) v.out

/-- Class POOL of a form's values: an overflow is a finite source that saturated or was clipped (R229). -/
def countPool (vs : List PoolVal) : ConvCount :=
  { n := vs.length
    over_ := (vs.filter fun v => (v.sat || v.clip) && (ofF32 v.src).isFinite).length
    vanish := (vs.filter fun v => !v.nan && !(ofF32 v.src).isZero && v.conv == 0#32).length
    nan := (vs.filter (·.nan)).length }

def mpoolOp (s : State) (fid : Nat) : State :=
  match s.formAt fid with
  | some f =>
    match f.desc, s.formStep f.desc with
    | .raw b, some (jn, st) =>
      let d := deltaDesc b
      if f.idle ∨ isAttn (dForm b) ∨ d.form ≠ 0x50 then s
      else
        let rows := s.formRows f.desc
        let gs := s.gradRows jn st d rows
        let s := s.feedGrad f.desc jn st d rows
        let vs := s.poolVals jn gs
        let xs := s.maskedRows jn st d vs
        let n (p : PoolVal → Bool) : Nat := (vs.flatten.filter p).length
        let s := ((s.count (regAt pgPool 0x200) (n (·.sat))).count (regAt pgPool 0x208) (n (·.nan))).count
          (regAt pgPool 0x210) (n (·.clip))
        let s := (s.stat jn 3 1 (countGrad gs.flatten)).stat jn 5 8 (countPool vs.flatten)
        ((s.addPiece jn st d).putGrad f d xs).endForm fid
    | _, _ => s.endStray fid (isRaw 0x50)
  | none => s

/-- MPOOL (R245). -/
def execMpool (form : Nat) (s : State) : Host.Outcome State Fault Refusal :=
  if !s.serves (.mpool form) then .next s else
  let t := mpoolOp s form
  .next { s with
    mem := t.mem, uncorr := t.uncorr, forms := t.forms, jobs := t.jobs, used := t.used, overruns := t.overruns,
    debt := t.debt, gated := t.gated, domIdle := t.domIdle, staging := t.staging, stagedKeys := t.stagedKeys, stk := t.stk,
    log := t.log, logOvf := t.logOvf, ret := t.ret, ctrs := t.ctrs, hdrs := t.hdrs, regs := t.regs }

end Sys2Proof.Machine
end

