-- ==== Sys2Proof/Machine/Layout.lean ====
section
/-! DEFINITION. The layout of a model's area: stations, tensors and tiles (11_weight_intake.md R250, R255, Table 11-3). -/
namespace Sys2Proof.Machine

/-- A base tensor: its kind (Table 11-3), layer, expert, rows (outputs) and columns (inputs). -/
structure Tensor where
  kind : Nat
  layer : Nat
  expert : Nat
  out : Nat
  inn : Nat
deriving DecidableEq, Repr

def Tensor.isGain (t : Tensor) : Bool := t.kind = 0x11 || t.kind = 0x16 || t.kind = 0x1C

/-- The arrays use it, so that TRANSPOSE copies it (R255). -/
def Tensor.transposed (t : Tensor) : Bool := !t.isGain && t.kind ≠ 0x10

/-- The tensors of a station, in the order of their kinds and experts. -/
def ModelDesc.station (m : ModelDesc) (k : Nat) : List Tensor :=
  let l := k - 1
  let proj (kind p e : Nat) : Tensor := { kind := kind, layer := l, expert := e, out := (m.widths p).2, inn := (m.widths p).1 }
  let gain (kind l : Nat) : Tensor := { kind := kind, layer := l, expert := 0, out := 1, inn := m.dModel }
  if k = 0 then [{ kind := 0x10, layer := 0, expert := 0, out := m.vocab, inn := m.dModel }]
  else if k = m.layers + 1 then
    [gain 0x1C 0, { kind := 0x1D, layer := 0, expert := 0, out := m.vocab, inn := m.dModel }]
  else
    [gain 0x11 l] ++ (List.range 4).map (fun p => proj (0x12 + p) p 0) ++ [gain 0x16 l] ++
      [4, 5, 6].flatMap (fun p => (List.range (max 1 m.experts)).map fun e => proj (0x13 + p) p e) ++
      (if m.aux then [proj 0x1A 7 0] else []) ++
      (if m.experts = 0 then [] else [{ kind := 0x1B, layer := l, expert := 0, out := m.experts, inn := m.dModel }])

/-- Station of a kind and layer (Table 11-3). -/
def ModelDesc.stationOf (m : ModelDesc) (kind layer : Nat) : Nat :=
  if kind = 0x10 then 0 else if kind = 0x1C ∨ kind = 0x1D then m.layers + 1 else layer + 1

/-- Bytes of a tile: its elements, then their scales. -/
def State.tileBytes (s : State) : Nat :=
  s.decl.rows.toNat * s.decl.cols.toNat + ceilDiv s.decl.rows.toNat 32 * s.decl.cols.toNat

/-- Bytes of a matrix in tiles, padding included. -/
def State.matBytes (s : State) (out inn : Nat) : Nat :=
  ceilDiv out s.decl.cols.toNat * ceilDiv inn s.decl.rows.toNat * s.tileBytes

def State.tensorBytes (s : State) (t : Tensor) : Nat := if t.isGain then 2 * t.inn else s.matBytes t.out t.inn

/-- Byte offset of element (o, i) in a matrix, and of its scale. -/
def State.elemOff (s : State) (inn o i : Nat) : Nat × Nat :=
  let r := s.decl.rows.toNat
  let c := s.decl.cols.toNat
  let t := (o / c * ceilDiv inn r + i / r) * s.tileBytes
  let b := i % r / 32
  if s.decl.order = 0#2 then (t + o % c * r + i % r, t + r * c + o % c * ceilDiv r 32 + b)
  else (t + i % r * c + o % c, t + r * c + b * c + o % c)

/-- Bytes of a station, transposed copies included. -/
def State.stationBytes (s : State) (m : ModelDesc) (tr : Bool) (k : Nat) : Nat :=
  ((m.station k).map fun t =>
    s.tensorBytes t + (if tr && t.transposed then s.matBytes t.inn t.out else 0)).sum

/-- Byte offset of a station in the model's area. -/
def State.stationOff (s : State) (m : ModelDesc) (tr : Bool) (k : Nat) : Nat :=
  ((List.range k).map fun i => s.stationBytes m tr i).sum

/-- Byte offset of a tensor in its station. -/
def State.tensorOff (s : State) (m : ModelDesc) (k : Nat) (t : Tensor) : Nat :=
  (((m.station k).takeWhile fun x => x ≠ t).map s.tensorBytes).sum

/-- The row of the input embedding for a token: its values, and whether a read was uncorrectable. -/
def State.embedRow (s : State) (model tok : Nat) : List Val × Bool :=
  let md := s.model model
  let m := s.desc model
  let base := md.dst.toNat * 4096
  let rd (a : Nat) : MemRes := s.peek kBase none (base + a) 1
  let rs := (List.range m.dModel).map fun i =>
    let (e, c) := s.elemOff m.dModel tok i
    (rd e, rd c)
  (rs.map fun (e, c) => mxDecode .mxE4m3 (c.data.headD 0#8) (e.data.headD 0#8), rs.any fun (e, c) => e.unc || c.unc)

/-- Bytes of a token's embedding row: elements and scales. -/
def State.embedAt (s : State) (model tok : Nat) : List Nat :=
  let m := s.desc model
  (List.range m.dModel).flatMap fun i =>
    let (e, c) := s.elemOff m.dModel tok i
    [(s.model model).dst.toNat * 4096 + e, (s.model model).dst.toNat * 4096 + c]

/-- The uncorrectable reads of an embedding row are recorded, one for each 256-byte read; a region fault once (R272, R280). -/
def State.noteEmbed (s : State) (model tok : Nat) : State :=
  let as := s.embedAt model tok
  if as.any fun a => (s.peek kBase none a 1).fault then s.regFault
  else
    let bad := as.filter fun a => (s.firstUnc a 1).isSome
    ((bad.map (· / 256)).dedup).foldl (fun (s : State) u =>
      match bad.find? fun a => a / 256 = u with
      | some a => s.uncRecord (a / 32 * 32) 0
      | none => s) s

/-- Key of a norm gain in a model's gains: 2 × layer for attention, 2 × layer + 1 for the MLP, 2 × layers for the final. -/
def ModelDesc.gainKey (m : ModelDesc) (kind layer : Nat) : Nat :=
  if kind = 0x1C then 2 * m.layers else 2 * layer + (if kind = 0x16 then 1 else 0)

/-- A norm gain in FP32. -/
def State.gain (s : State) (model key : Nat) : List W := (tget [] (s.model model).gains key).map fun b => toF32 (ofBf16 b)

end Sys2Proof.Machine
end

