-- ==== Sys2Proof/Machine/Attn.lean ====
section
/-! DEFINITION. The attention forms SCORE, VALUE, SMERGE and BATTN (08_attention_sampling.md R174 to R183; 10_training.md
R227). -/
namespace Sys2Proof.Machine

/-! ## Masks (R175) -/

/-- A row at position p sees position j. -/
def AttnDesc.sees (a : AttnDesc) (p j : Nat) : Bool := decide (j ≤ p) && (!a.sliding || decide (p < j + a.w))

/-- First visible block of a row. -/
def AttnDesc.lo (a : AttnDesc) (p : Nat) : Nat := if a.sliding then (p + 1 - a.w) / 64 else 0

def AttnDesc.seesBlock (a : AttnDesc) (p b : Nat) : Bool := decide (a.lo p ≤ b) && decide (b ≤ p / 64)

/-- Positions of the form's rows. -/
def AttnDesc.positions (a : AttnDesc) : List Nat := (List.range a.m).map fun i => a.p0 + i

/-- Blocks of the form that some row sees. -/
def AttnDesc.blocks (a : AttnDesc) : List Nat :=
  ((List.range a.nb).map fun i => a.b0 + i).filter fun b => a.positions.any fun p => a.seesBlock p b

/-! ## Keys and values (R146, R154) -/

/-- The translation a slice's cache gives a page, or the page list where the cache has none. -/
def State.translate (s : State) (slice q b : Nat) : Option Nat :=
  match tget? s.tcache (tcKey slice q b) with
  | some f => some f.toNat
  | none => s.pageFrame q b

/-- Frame and stack address of the keys (or values) of a block: 64 rows of D bytes. -/
def State.kvAt (s : State) (slice : Nat) (a : AttnDesc) (lb b : Nat) (values : Bool) : Option (Nat × Nat) :=
  (s.translate slice a.slot b).map fun f =>
    (f, s.frameAddr f + a.layer * lb + a.kvh * 128 * a.d + (if values then 64 * a.d else 0))

/-- Offsets of a block that some row of the form sees: the first, and how many (they follow each other). -/
def AttnDesc.span (a : AttnDesc) (b : Nat) : Nat × Nat :=
  let ts := (List.range 64).filter fun t => a.positions.any fun p => a.sees p (64 * b + t)
  (ts.headD 0, ts.length)

/-- The keys or values of a block: what stands at an offset that no row sees is not read (R179). -/
def State.kvBytes (s : State) (slice : Nat) (a : AttnDesc) (lb b : Nat) (values : Bool) : MemRes :=
  let (t, n) := a.span b
  match s.kvAt slice a lb b values with
  | some (f, x) =>
    let r := s.peek kPages (s.frameSlot (s.frame f)) (x + t * a.d) (n * a.d)
    { r with data := zeroBytes (t * a.d) ++ r.data ++ zeroBytes ((64 - t - n) * a.d) }
  | none => { data := zeroBytes (64 * a.d) }

/-- Row t of a block's keys or values. -/
def kvRow (d : Nat) (bs : List Byte) (t : Nat) : List Val := ((bs.drop (t * d)).take d).map ofE4m3

/-- Keys of a slice's cache that lie in the set of a page (R154: 8 ways). -/
def State.tcWays (s : State) (slice q i : Nat) : List Nat :=
  (s.tcache.map (·.1)).filter fun k =>
    k / 2 ^ 27 = slice && Config.tcacheSet (k / 2 ^ 15 % 4096) (k % 2 ^ 15) % 2048 == Config.tcacheSet q i % 2048

/-- A translation enters a slice's cache; a full set gives one up. -/
def State.tcPut (s : State) (slice q i f : Nat) : State :=
  let ways := s.tcWays slice q i
  let t := if 8 ≤ ways.length ∧ !ways.contains (tcKey slice q i) then
      tdel s.tcache (ways.getD (Config.tcacheVictim i ways.length % ways.length) 0)
    else s.tcache
  { s with tcache := tput t (tcKey slice q i) (BitVec.ofNat 20 f) }

/-- A translation that misses is counted and comes into a slice's cache with the 64 entries of the 256-byte read that holds
it; an uncorrectable read fails the slot's rows in the step (R154, R173, Table 12-4 class 5). -/
def State.fillTranslation (s : State) (fd : FormDesc) (slice q b : Nat) : State :=
  if (tget? s.tcache (tcKey slice q b)).isSome then s
  else
    let base := b / 64 * 64
    let r := s.peek kControl none (s.listAt q base) 256
    let entry (i : Nat) : W := BitVec.ofNat 32 (ofLe ((r.data.drop (4 * (i - base))).take 4))
    let s := s.inc pgCache (0x280 + 8 * slice)
    let s := (((List.range 64).map (base + ·)).filter (· ≠ b) ++ [b]).foldl (fun (s : State) i =>
      if entryValid (entry i) then s.tcPut slice q i (entryFrame (entry i)) else s) s
    if r.unc then
      let s := s.note r (s.listAt q base) 5
      match s.formStep fd with
      | some (j, st) => s.failRows j ((st.rowsOf (BitVec.ofNat 12 q)).map (·.2)) cMem
      | none => s
    else s

/-- The blocks a form reads are translated through its slice's cache. -/
def State.translateKv (s : State) (fd : FormDesc) (slice : Nat) (a : AttnDesc) : State :=
  a.blocks.foldl (fun (s : State) b => s.fillTranslation fd slice a.slot b) s

/-- 256-byte reads that cover n bytes from an address. -/
def readsOf (a n : Nat) : Nat := if n = 0 then 0 else (a + n - 1) / 256 + 1 - a / 256

/-- What reading a block's keys or values leaves: the count of 256-byte reads, and, for an uncorrectable word, failed rows
and the removal of the frame's prefix entry (R164, R172, R281). -/
def State.touchKv (s : State) (fd : FormDesc) (a : AttnDesc) (slice lb : Nat) (values : Bool) : State :=
  a.blocks.foldl (fun (s : State) b =>
    match s.kvAt slice a lb b values with
    | none => s
    | some (f, x) =>
      let x := x + (a.span b).1 * a.d
      let n := (a.span b).2 * a.d
      let s := s.count (regAt pgSamp 0x238) (readsOf x n)
      let r := s.peek kPages (s.frameSlot (s.frame f)) x n
      if r.unc then ((s.note r x 0).failForm fd cMem).removeWays fun w => w.frame.toNat == f else s) s

/-! ## SCORE (R178) -/

def negInf : W := 0xFF800000#32

/-- The scores of a query against the visible offsets of a block. -/
def scoresOf (q : List Val) (rows : List (List Val)) (cscale : W) (vis : Nat → Bool) : List (Option W) :=
  (rows.zipIdx).map fun (k, t) => if vis t then some (f32Mul (dot 32 (zipProd q k)) cscale) else none

/-- A block record: m_b, l_b and the 64 BF16 weights. -/
def blockRecord (ts : List (Option W)) : W × W × List (BitVec 16) :=
  match ts.filterMap id with
  | [] => (negInf, 0#32, ts.map fun _ => 0#16)
  | t :: rest =>
    let m := rest.foldl f32Max t
    let ps := ts.map fun x => match x with
      | some t => toBf16 (ofF32 (f32Exp2 (f32Sub t m)))
      | none => 0#16
    (m, (treeSum (ps.map fun p => toF32 (ofBf16 p))).getD 0#32, ps)

def recordBytes (r : W × W × List (BitVec 16)) : List Byte :=
  leBytes 4 r.1.toNat ++ leBytes 4 r.2.1.toNat ++ r.2.2.flatMap fun p => leBytes 2 p.toNat

/-- The block records of a SCORE form, row by row, head by head, block by block. -/
def State.scoreRecords (s : State) (slice : Nat) (a : AttnDesc) (lb : Nat) : List Byte :=
  let keys := (List.range a.nb).map fun i =>
    if a.positions.any (fun p => a.seesBlock p (a.b0 + i)) then (s.kvBytes slice a lb (a.b0 + i) false).data else []
  (List.range a.m).flatMap fun m => (List.range a.g).flatMap fun g =>
    let q := decRow 2 a.d (s.land (a.src + m * a.stride + g * a.d * 2) (2 * a.d))
    (keys.zipIdx).flatMap fun (bs, i) =>
      let b := a.b0 + i
      let p := a.p0 + m
      if a.seesBlock p b then
        recordBytes (blockRecord (scoresOf q ((List.range 64).map (kvRow a.d bs)) a.cscale fun t => a.sees p (64 * b + t)))
      else recordBytes (negInf, 0#32, List.replicate 64 0#16)

/-- The attention form a number places, with its step, where its code is `code`. -/
def State.attnForm (s : State) (fid code : Nat) : Option (Form × BitVec 512 × AttnDesc × Nat × Step) :=
  match s.formAt fid with
  | some f =>
    match f.desc, s.formStep f.desc with
    | .raw b, some (jn, st) => if f.idle ∨ dForm b ≠ code then none else some (f, b, attnDesc b, jn, st)
    | _, _ => none
  | none => none

def scoreOp (s : State) (fid : Nat) : State :=
  match s.attnForm fid 0x20 with
  | none => s.endStray fid (isRaw 0x20)
  | some (f, _, a, jn, st) =>
    let lb := (s.desc st.model.toNat).lb
    let s := s.translateKv f.desc (f.core / 6400) a
    let bs := s.scoreRecords (f.core / 6400) a lb
    let s := (s.touchKv f.desc a (f.core / 6400) lb false).setLand a.dst bs
    let s := s.markRows jn (st.rowsAt a.slot a.p0 a.m) a.layer (.score a.kvh a.b0 a.nb)
    (s.inc pgSamp 0x220).endForm fid

/-- SCORE (R178). -/
def execScore (form : Nat) (s : State) : Host.Outcome State Fault Refusal :=
  if !s.serves (.score form) then .next s else
  let t := scoreOp s form
  .next { s with
    landing := t.landing, tcache := t.tcache, prefixes := t.prefixes, mem := t.mem, uncorr := t.uncorr, forms := t.forms,
    jobs := t.jobs, used := t.used, overruns := t.overruns, debt := t.debt, gated := t.gated, domIdle := t.domIdle,
    staging := t.staging, stagedKeys := t.stagedKeys, stk := t.stk, log := t.log, logOvf := t.logOvf, ret := t.ret,
    ctrs := t.ctrs, hdrs := t.hdrs, regs := t.regs }

/-! ## The merge operator and its tree (R179, R180) -/

/-- A partial of a row and head. -/
structure Partial where
  m : W
  l : W
  o : List W
deriving DecidableEq, Repr

/-- ⊕ of R179. -/
def Partial.merge (x y : Partial) : Partial :=
  let m := f32Max x.m y.m
  let a1 := f32Exp2 (f32Sub x.m m)
  let a2 := f32Exp2 (f32Sub y.m m)
  { m := m, l := f32Fma y.l a2 (f32Mul x.l a1), o := List.zipWith (fun o1 o2 => f32Fma o2 a2 (f32Mul o1 a1)) x.o y.o }

/-- One level of the tree of R45 over partials. -/
def mergeLevel : List Partial → List Partial
  | a :: b :: rest => a.merge b :: mergeLevel rest
  | rest => rest

def mergeGo : Nat → List Partial → List Partial
  | 0, p => p
  | fuel + 1, p => match p with
    | [] => []
    | [x] => [x]
    | p => mergeGo fuel (mergeLevel p)

/-- The partials of a run, or of all runs, combined by R45. -/
def mergeTree (p : List Partial) : Option Partial := (mergeGo p.length p).head?

def Partial.bytes (p : Partial) : List Byte := (p.m :: p.l :: p.o).flatMap fun w => leBytes 4 w.toNat

/-- A stored partial of D values. -/
def State.landPartial (s : State) (a d : Nat) : Partial :=
  { m := s.landW a, l := s.landW (a + 4), o := s.landF32 (a + 8) d }

/-! ## Context (R181) -/

/-- The D context values of a head. -/
def Partial.context (p : Partial) : List Val := p.o.map fun o => ofF32 (f32Div o p.l)

/-- A head's D values in a row of `width` values in a format: where each run of bytes goes in the row. -/
def headBytes (code width d h : Nat) (vs : List Val) : List (Nat × List Byte) :=
  let bits := match fmtOfCode code with | some f => f.bits | none => 8
  let bs := encRow code vs
  let n := d * bits / 8
  if code = 2 then [(h * n, bs)] else [(h * n, bs.take n), (width * bits / 8 + h * d / 32, bs.drop n)]

/-- The first key/value head of this device's shard (R300). -/
def State.firstKv (s : State) (st : Step) (layer : Nat) : Nat :=
  (s.ownCols st.model.toNat 1 layer 0).1 / (s.desc st.model.toNat).d

/-- A head's context is written to its place in the full row, and saved with (m, l) in train mode. -/
def State.putContext (s : State) (jn : Nat) (st : Step) (a : AttnDesc) (hq m g : Nat) (p : Partial) : State :=
  let w := hq * a.d
  let h := (s.firstKv st a.layer + a.kvh) * a.g + g
  let vs := p.context
  let ps := headBytes a.ofmt w a.d h vs
  let n := rowLen a.ofmt w
  let s := ps.foldl (fun (s : State) (o, bs) => s.setLand (a.dst + m * n + o) bs) s
  let s := s.stat jn 0 a.ofmt (countRow a.ofmt vs)
  (st.rowsAt a.slot (a.p0 + m) 1).foldl (fun (s : State) row =>
    let s := s.addPart jn { row := row, layer := a.layer, kind := 0, expert := 0, place := a.dst + m * n, first := h * a.d,
                            n := a.d, bytes := encRow a.ofmt vs }
    (ps.foldl (fun (s : State) (o, bs) => s.saveAt jn row a.layer tCtx o bs) s).saveAt jn row a.layer tMl (8 * h)
      (leBytes 4 p.m.toNat ++ leBytes 4 p.l.toNat)) s

/-! ## VALUE (R179) -/

/-- The block partial of a row and head from its record and the block's values. -/
def blockPartial (s : State) (a : AttnDesc) (at_ p b : Nat) (bs : List Byte) : Partial :=
  let ps := (List.range 64).map fun t => if a.sees p (64 * b + t) then ofBf16 (s.landH (at_ + 8 + 2 * t)) else .zero
  let vs := (List.range 64).map (kvRow a.d bs)
  { m := s.landW at_, l := s.landW (at_ + 4)
    o := (List.range a.d).map fun e =>
      dot 32 ((List.range 64).map fun t =>
        if a.sees p (64 * b + t) then (ps.getD t .zero).mul ((vs.getD t []).getD e .zero) else .zero) }

/-- The partial of row m, head g over the form's visible blocks. -/
def State.runPartial (s : State) (a : AttnDesc) (vals : List (List Byte)) (m g : Nat) : Option Partial :=
  mergeTree (((vals.zipIdx).filter fun (_, i) => a.seesBlock (a.p0 + m) (a.b0 + i)).map fun (bs, i) =>
    blockPartial s a (a.src + m * a.stride + (g * a.nb + i) * 136) (a.p0 + m) (a.b0 + i) bs)

def valueOp (s : State) (fid : Nat) : State :=
  match s.attnForm fid 0x21 with
  | none => s.endStray fid (isRaw 0x21)
  | some (f, _, a, jn, st) =>
    let md := s.desc st.model.toNat
    let s := s.translateKv f.desc (f.core / 6400) a
    let vals := (List.range a.nb).map fun i =>
      if a.positions.any (fun p => a.seesBlock p (a.b0 + i)) then (s.kvBytes (f.core / 6400) a md.lb (a.b0 + i) true).data else []
    let outs := (List.range a.m).flatMap fun m => (List.range a.g).map fun g => (m, g, s.runPartial a vals m g)
    let s := s.touchKv f.desc a (f.core / 6400) md.lb true
    let s := outs.foldl (fun (s : State) (m, g, p) =>
      match p with
      | none => s
      | some p =>
        if a.final then s.putContext jn st a md.hq m g p
        else s.setLand (a.dst + (m * a.g + g) * (2 + a.d) * 4) p.bytes) s
    let done : Done := if a.final then .context a.kvh else .value a.kvh ((a.runOf md (s.runLog st a.slot a.layer)).getD 0)
    let s := s.markRows jn (st.rowsAt a.slot a.p0 a.m) a.layer done
    (s.inc pgSamp 0x228).endForm fid

/-- VALUE (R179). -/
def execValue (form : Nat) (s : State) : Host.Outcome State Fault Refusal :=
  if !s.serves (.value form) then .next s else
  let t := valueOp s form
  .next { s with
    landing := t.landing, tcache := t.tcache, prefixes := t.prefixes, mem := t.mem, uncorr := t.uncorr, forms := t.forms,
    jobs := t.jobs, used := t.used, overruns := t.overruns, debt := t.debt, gated := t.gated, domIdle := t.domIdle,
    staging := t.staging, stagedKeys := t.stagedKeys, stk := t.stk, log := t.log, logOvf := t.logOvf, ret := t.ret,
    ctrs := t.ctrs, hdrs := t.hdrs, regs := t.regs }

/-! ## SMERGE (R181) -/

def smergeOp (s : State) (fid : Nat) : State :=
  match s.attnForm fid 0x22 with
  | none => s.endStray fid (isRaw 0x22)
  | some (_, _, a, jn, st) =>
    let md := s.desc st.model.toNat
    let outs := (List.range a.m).flatMap fun m => (List.range a.g).map fun g =>
      (m, g, mergeTree ((List.range (md.runsOf a.layer (a.p0 + m) (s.runLog st a.slot a.layer))).map fun r =>
        s.landPartial (a.src + (r * a.m + m) * a.stride + g * (2 + a.d) * 4) a.d))
    let s := outs.foldl (fun (s : State) (m, g, p) =>
      match p with
      | none => s
      | some p => s.putContext jn st a md.hq m g p) s
    let s := s.markRows jn (st.rowsAt a.slot a.p0 a.m) a.layer (.context a.kvh)
    (s.inc pgSamp 0x230).endForm fid

/-- SMERGE (R181). -/
def execSmerge (form : Nat) (s : State) : Host.Outcome State Fault Refusal :=
  if !s.serves (.smerge form) then .next s else
  let t := smergeOp s form
  .next { s with
    mem := t.mem, uncorr := t.uncorr,
    landing := t.landing, forms := t.forms, jobs := t.jobs, used := t.used, overruns := t.overruns, debt := t.debt,
    gated := t.gated, domIdle := t.domIdle, staging := t.staging, stagedKeys := t.stagedKeys, stk := t.stk, log := t.log,
    logOvf := t.logOvf, ret := t.ret, ctrs := t.ctrs, hdrs := t.hdrs, regs := t.regs }

/-! ## Rotary angles (R185) -/

/-- cos and sin of position p for pair i. -/
def ModelDesc.rope (m : ModelDesc) (p i : Nat) : W × W :=
  let (ch, sh) := ropeEntry m.ropeBase m.d (2048 * (p / 2048)) i
  let (cl, sl) := ropeEntry m.ropeBase m.d (p % 2048) i
  (f32Fma ch cl (f32Neg (f32Mul sh sl)), f32Fma sh cl (f32Mul ch sl))

/-- A head rotated forward. -/
def ModelDesc.rotate (m : ModelDesc) (p : Nat) (x : List W) : List W :=
  let h := m.d / 2
  let at_ (i : Nat) : W := x.getD i 0#32
  (List.range m.d).map fun e =>
    let i := e % h
    let (c, s) := m.rope p i
    if e < h then f32Fma (at_ i) c (f32Neg (f32Mul (at_ (i + h)) s)) else f32Fma (at_ (i + h)) c (f32Mul (at_ i) s)

/-- ROTARY backward (R227). -/
def ModelDesc.unrotate (m : ModelDesc) (p : Nat) (x : List W) : List W :=
  let h := m.d / 2
  let at_ (i : Nat) : W := x.getD i 0#32
  (List.range m.d).map fun e =>
    let i := e % h
    let (c, s) := m.rope p i
    if e < h then f32Fma (at_ i) c (f32Mul (at_ (i + h)) s) else f32Fma (at_ (i + h)) c (f32Neg (f32Mul (at_ i) s))

/-! ## BATTN (R227) -/

/-- What BATTN holds of one (row, head): its position, q, dO, δ, m and l. -/
structure BackRow where
  p : Nat
  q : List Val
  dO : List Val
  delta : W
  m : W
  l : W
deriving DecidableEq, Repr

def State.backRow (s : State) (jn : Nat) (st : Step) (md : ModelDesc) (a : AttnDesc) (m g : Nat) : BackRow :=
  let row := ((st.rowsAt a.slot (a.p0 + m) 1).headD 0)
  let h := a.kvh * a.g + g
  let cut (bs : List Val) : List Val := (bs.drop (h * a.d)).take a.d
  let q := decRow 2 (md.ownQ * a.d) (s.savedTensor jn st row a.layer tQ (2 * md.ownQ * a.d))
  let xf := s.decl.xFmt.toNat
  let o := decRow xf (md.hq * a.d) (s.savedTensor jn st row a.layer tCtx (rowLen xf (md.hq * a.d)))
  let ml := (s.savedTensor jn st row a.layer tMl (8 * md.hq)).drop (8 * h)
  let w (i : Nat) : W := BitVec.ofNat 32 (ofLe ((ml.drop (4 * i)).take 4))
  let dO := s.landF32 (a.src + m * a.stride + g * a.d * 4) a.d
  { p := a.p0 + m, q := cut q, dO := dO.map ofF32
    delta := (treeSum (List.zipWith f32Mul dO ((cut o).map toF32))).getD 0#32, m := w 0, l := w 1 }

/-- p_t and dS_t of a row at an offset of a block. -/
def BackRow.at_ (r : BackRow) (cscale : W) (k v : List Val) : W × W :=
  let t := f32Mul (dot 32 (zipProd r.q k)) cscale
  let p := f32Div (f32Exp2 (f32Sub t r.m)) r.l
  (p, f32Mul p (f32Sub (dot 4 (zipProd r.dO v)) r.delta))

/-- What the form holds of each (row, head): p_t and dS_t at the offsets of its blocks that the row sees. -/
def State.backWeights (s : State) (slice : Nat) (md : ModelDesc) (a : AttnDesc) (rs : List BackRow) :
    List (List (List Val × List Val)) × List (List (List (Option (W × W)))) :=
  let blk := (List.range a.nb).map fun i =>
    let seen := a.positions.any fun p => a.seesBlock p (a.b0 + i)
    if seen then ((s.kvBytes slice a md.lb (a.b0 + i) false).data, (s.kvBytes slice a md.lb (a.b0 + i) true).data) else ([], [])
  let kv := blk.map fun (k, v) => (List.range 64).map fun t => (kvRow a.d k t, kvRow a.d v t)
  (kv, rs.map fun r => (kv.zipIdx).map fun (x, i) => (x.zipIdx).map fun ((k, v), t) =>
    if a.seesBlock r.p (a.b0 + i) && a.sees r.p (64 * (a.b0 + i) + t) then some (r.at_ md.cscale k v) else none)

/-- dQ of the form's rows: over the blocks in order, each by R39 in offset order. -/
def backQ (md : ModelDesc) (a : AttnDesc) (rs : List BackRow) (kv : List (List (List Val × List Val)))
    (pd : List (List (List (Option (W × W))))) : List W :=
  (rs.zip pd).flatMap fun (r, ps) => (List.range a.d).map fun e =>
    let parts := ((ps.zip kv).zipIdx).filterMap fun ((xs, x), i) =>
      if a.seesBlock r.p (a.b0 + i) then
        some (dot 4 (List.zipWith (fun (y : Option (W × W)) (z : List Val × List Val) =>
          match y with
          | some (_, ds) => (ofF32 ds).mul (z.1.getD e .zero)
          | none => .zero) xs x))
      else none
    f32Mul md.cscale ((treeSum parts).getD 0#32)

/-- Number of the tensor in which a row's share of dK and dV of a block stands until every form of the request has run. -/
def tBack (h b : Nat) : Nat := 2 ^ 20 + 2 ^ 15 * h + b

/-- A row's share of a block: dS_t and p_t of each offset, then dO. -/
def shareBytes (ps : List (Option (W × W))) (dO : List Val) : List Byte :=
  (ps.flatMap fun x => leBytes 4 (((x.map (·.2)).getD 0#32).toNat) ++ leBytes 4 (((x.map (·.1)).getD 0#32).toNat)) ++
    dO.flatMap fun v => leBytes 4 (toF32 v).toNat

/-- A share is kept in the block. -/
def State.keepShare (s : State) (jn row layer tensor : Nat) (bs : List Byte) : State :=
  match (s.job jn).cur with
  | some st =>
    let old := st.saved.filter fun x => !(x.row = row && x.layer = layer && x.tensor = tensor)
    s.setStep jn { st with saved := old ++ [{ row := row, layer := layer, tensor := tensor, words := packWords bs }] }
  | none => s

/-- The shares of a form's rows are kept. -/
def State.saveShares (s : State) (jn : Nat) (st : Step) (a : AttnDesc) (rs : List BackRow)
    (pd : List (List (List (Option (W × W))))) : State :=
  (((rs.zip pd).zipIdx)).foldl (fun (s : State) ((r, ps), n) =>
    let row := ((st.rowsAt a.slot r.p 1).headD 0)
    (ps.zipIdx).foldl (fun (s : State) (xs, i) =>
      if a.seesBlock r.p (a.b0 + i) then
        s.keepShare jn row a.layer (tBack (a.kvh * a.g + n % a.g) (a.b0 + i)) (shareBytes xs r.dO)
      else s) s) s

/-- What a query row brings to dK and dV at an offset of a block: for each of its heads, in increasing head, dS_t × q and p_t × dO,
element by element. -/
def State.shareTerms (s : State) (jn : Nat) (st : Step) (md : ModelDesc) (x : BackForm) (row b t : Nat) : List (List Val × List Val) :=
  (List.range md.g).filterMap fun g =>
    let h := x.kvh * md.g + g
    (st.saved? row x.layer (tBack h b)).map fun bs =>
      let w (i : Nat) : Val := ofF32 (BitVec.ofNat 32 (ofLe ((bs.drop (4 * i)).take 4)))
      let q := ((decRow 2 (md.ownQ * md.d) (s.savedTensor jn st row x.layer tQ (2 * md.ownQ * md.d))).drop (h * md.d)).take md.d
      (q.map fun y => (w (2 * t)).mul y, (List.range md.d).map fun e => (w (2 * t + 1)).mul (w (128 + e)))

/-- The query rows of a request that see a position of a layer, in increasing position (R175). -/
def Step.seers (st : Step) (md : ModelDesc) (slot layer t : Nat) : List Nat :=
  let rows := (st.rows.zipIdx).filter fun (r, _) =>
    r.slot.toNat = slot && decide (t ≤ r.pos.toNat) && (!md.sliding layer || decide (r.pos.toNat < t + md.window))
  (sortBy (fun i => (st.row i).pos.toNat) (rows.map (·.2)))

/-- A sum over query rows: parts of 256 rows, each by R39 in chunks of 4 over the products its rows bring, combined by R45 (R227). A
row brings the products of the G heads that share the key/value head, in increasing head (DEDUCED, log 132). -/
def partSum (rows : List (List Val)) : W :=
  if rows = [] then 0#32 else (treeSum ((chunksOf 256 rows.length rows).map fun p => dot 4 p.flatten)).getD 0#32

/-- dK (before its ROTARY backward) and dV of a form's blocks, over all the query rows of the request that see each position. -/
def State.backKv (s : State) (jn : Nat) (st : Step) (md : ModelDesc) (x : BackForm) : List W :=
  let terms := (List.range x.nb).map fun i => (List.range 64).map fun t =>
    (st.seers md x.slot x.layer (64 * (x.b0 + i) + t)).map fun row => s.shareTerms jn st md x row (x.b0 + i) t
  let sums (f : List Val × List Val → List Val) (c : W → W) : List W :=
    terms.flatMap fun ts => ts.flatMap fun xs => (List.range md.d).map fun e =>
      c (partSum (xs.map fun ys => ys.map fun y => (f y).getD e .zero))
  sums (·.1) (f32Mul md.cscale) ++ sums (·.2) id

/-- dQ of a BATTN form, with the shares of its rows kept. -/
def State.backward (s : State) (slice jn : Nat) (st : Step) (md : ModelDesc) (a : AttnDesc) : State × List W :=
  let rs := (List.range a.m).flatMap fun m => (List.range a.g).map fun g => s.backRow jn st md a m g
  let (kv, pd) := s.backWeights slice md a rs
  (s.saveShares jn st a rs pd, backQ md a rs kv pd)

/-- Every row of a request, but for failed ones, has had its BATTN form of a head (R227). -/
def Step.backWhole (st : Step) (slot layer kvh : Nat) : Bool :=
  (st.rows.zipIdx).all fun (r, i) => r.slot.toNat ≠ slot || r.fails ≠ [] || st.marked i layer (.battn kvh)

/-- A BATTN form is entered. With the last of its request in a layer and head, the dK and dV of every one of them are whole and go to
their places after dQ: the sums have every query row of the request, whatever order the forms ran in (R46, R227). -/
def State.endBack (s : State) (jn : Nat) (md : ModelDesc) (x : BackForm) : State :=
  match (s.job jn).cur with
  | none => s
  | some st =>
    let st := { st with backs := st.backs.filter (fun y => y ≠ x) ++ [x] }
    let s := s.setStep jn st
    if !st.backWhole x.slot x.layer x.kvh then s
    else (st.backs.filter fun y => y.slot = x.slot && y.layer = x.layer && y.kvh = x.kvh).foldl (fun (s : State) y =>
      s.setLand (y.dst + 4 * (y.m * md.g * md.d)) ((s.backKv jn st md y).flatMap fun w => leBytes 4 w.toNat)) s

def battnOp (s : State) (fid : Nat) : State :=
  match s.attnForm fid 0x45 with
  | none => s.endStray fid (isRaw 0x45)
  | some (f, _, a, jn, st) =>
    let md := s.desc st.model.toNat
    let s := s.translateKv f.desc (f.core / 6400) a
    let (s, ws) := s.backward (f.core / 6400) jn st md a
    let s := s.feedSaved f.desc jn st (st.rowsAt a.slot a.p0 a.m) a.layer [tQ, tCtx, tMl]
    let s := (s.touchKv f.desc a (f.core / 6400) md.lb false).touchKv f.desc a (f.core / 6400) md.lb true
    let s := s.markRows jn (st.rowsAt a.slot a.p0 a.m) a.layer (.battn a.kvh)
    let s := s.setLand a.dst (ws.flatMap fun w => leBytes 4 w.toNat)
    (s.endBack jn md { layer := a.layer, kvh := a.kvh, slot := a.slot, p0 := a.p0, m := a.m, b0 := a.b0, nb := a.nb,
                       dst := a.dst }).endForm fid

/-- BATTN (R227). -/
def execBattn (form : Nat) (s : State) : Host.Outcome State Fault Refusal :=
  if !s.serves (.battn form) then .next s else
  let t := battnOp s form
  .next { s with
    landing := t.landing, tcache := t.tcache, prefixes := t.prefixes, mem := t.mem, uncorr := t.uncorr, forms := t.forms,
    jobs := t.jobs, used := t.used, overruns := t.overruns, debt := t.debt, gated := t.gated, domIdle := t.domIdle,
    staging := t.staging, stagedKeys := t.stagedKeys, stk := t.stk, log := t.log, logOvf := t.logOvf, ret := t.ret,
    ctrs := t.ctrs, hdrs := t.hdrs, regs := t.regs }

end Sys2Proof.Machine
end

