-- ==== Sys2Proof/Machine/Vec.lean ====
section
/-! DEFINITION. The vector, routing and selection forms NORM, ROTARY, RESID, ACT, ROUTE, SAMPLE, and LOSS and BVEC of the
backward pass (08_attention_sampling.md R184 to R193; 04_delta_path.md R98, R99; 10_training.md R225, R227). -/
namespace Sys2Proof.Machine

/-! ## Landed array output (R110) -/

/-- The values of a row that an array command brought: beat by beat, from where each beat landed; none without such a
command. -/
def State.landedRow (s : State) (jn : Nat) (st : Step) (pass proj layer expert row : Nat) : Option (List Val) :=
  (s.passCmd jn st pass proj layer expert row).map fun c =>
    let k := (c.arr.rows.map (·.toNat)).findIdx (· == row)
    let nb := s.cmdBlocks c.arr st
    let fp := s.cmdFp32 c.arr
    ((List.range nb).flatMap fun b => decRow (if fp then 1 else 2) (s.cmdBw c.arr) (s.land (s.beatLand c (k * nb + b)) 128)).take
      (s.cmdWidth c.arr st)

/-- The format of a pass's output as landed: FP32 in the vocabulary pass, else the declared beat format. -/
def State.landCode (s : State) (pass : Nat) : Nat := if pass = 8 then 1 else s.decl.beat.toNat

/-- A row that a sharded model's ranks have gathered (R301). -/
def State.gatheredRow (s : State) (st : Step) (pass layer expert row : Nat) : Option (List Val) :=
  (st.full.find? fun x => x.pass = pass && x.layer = layer && x.expert = expert && x.row = row).map fun x =>
    let w := if s.landCode pass = 1 then 4 else 2
    decRow (s.landCode pass) (x.bytes.length / w) x.bytes

/-- The landed values of a row, gathered where the model is sharded, or the row a landing address names where no command
brought them. -/
def State.landedOr (s : State) (jn : Nat) (st : Step) (pass proj layer expert row at_ w : Nat) : List Val :=
  ((s.gatheredRow st pass layer expert row).orElse fun _ => s.landedRow jn st pass proj layer expert row).getD
    (s.landRow (s.landCode pass) at_ w)

/-- The vector form a number places, with its step, where it is of a kind. -/
def State.vecForm (s : State) (fid : Nat) (k : VecKind) : Option (VecDesc × Nat × Step) :=
  match s.formAt fid with
  | some f =>
    match f.desc, s.formStep f.desc with
    | .vec v, some (jn, st) => if f.idle ∨ v.kind ≠ k then none else some (v, jn, st)
    | _, _ => none
  | none => none

/-- Rows of a vector form with their places. -/
def vecTile (v : VecDesc) : List (Nat × Nat) := (v.rows.map (·.toNat)).zipIdx

/-- One row of a job's step changes. -/
def State.setRow (s : State) (jn i : Nat) (f : Row → Row) : State :=
  match (s.job jn).cur with
  | some st => s.setStep jn { st with rows := (st.rows.zipIdx).map fun (r, k) => if k = i then f r else r }
  | none => s

/-- A row in the declared X format is written, and counted (class X). -/
def State.putX (s : State) (jn at_ cls : Nat) (vs : List Val) : State :=
  let xf := s.decl.xFmt.toNat
  (s.stat jn cls xf (countRow xf vs)).setLand at_ (encRow xf vs)

def f32Nat (n : Nat) : W := toF32 (Val.ofInt n)

/-! ## NORM (R184) -/

/-- r of the RMS norm. -/
def rmsR (eps : W) (x : List W) : W :=
  f32Rsqrt (f32Add (f32Div ((treeSum (x.map fun a => f32Mul a a)).getD 0#32) (f32Nat x.length)) eps)

def rmsNorm (eps : W) (x g : List W) : List W :=
  let r := rmsR eps x
  List.zipWith (fun a b => f32Mul (f32Mul a r) b) x g

/-- Kind of a norm's gain. -/
def normKind (sel : Nat) : Nat := match sel with | 0 => 0x11 | 1 => 0x16 | _ => 0x1C

/-- The residual row a NORM form reads: at the first norm of the first layer it is the token's embedding, rounded to
BF16, which the form writes there. -/
def State.normInput (s : State) (fd : FormDesc) (v : VecDesc) (st : Step) (row m : Nat) : State × List Val :=
  let d := (s.desc st.model.toNat).dModel
  let a := v.src.toNat + m * v.stride.toNat
  if v.sel = 0#2 ∧ v.layer = 0#7 then
    let (xs, bad) := s.embedRow st.model.toNat (st.row row).tok.toNat
    let bs := encRow 2 xs
    let s := if bad then (s.noteEmbed st.model.toNat (st.row row).tok.toNat).failForm fd cMem else s
    (s.setLand a bs, decRow 2 d bs)
  else (s, s.landRow 2 a d)

def normOp (s : State) (fid : Nat) : State :=
  match s.vecForm fid .norm with
  | none => s.endStray fid (isVec .norm)
  | some (v, jn, st) =>
    let md := s.desc st.model.toNat
    let g := s.gain st.model.toNat (md.gainKey (normKind v.sel.toNat) v.layer.toNat)
    let (tr, tx) := match v.sel.toNat with
      | 0 => (tResid, tAttnX)
      | 1 => (tResid2, tMlpX)
      | _ => (tFinal, tFinalX)
    let s := (vecTile v).foldl (fun (s : State) (row, m) =>
      let (s, xs) := s.normInput (.vec v) v st row m
      let ys := (rmsNorm md.eps (xs.map toF32) g).map ofF32
      let s := s.putX jn (v.dst.toNat + m * v.dstStride.toNat) 0 ys
      let s := s.save jn row v.layer.toNat tr (encRow 2 xs)
      let y := encRow s.decl.xFmt.toNat ys
      if tx = tFinalX then (if (s.job jn).isTrain then s.keep jn row tx y else s) else s.save jn row v.layer.toNat tx y) s
    let sel := min 2 v.sel.toNat
    (s.markRows jn (v.rows.map (·.toNat)) (if sel = 2 then md.layers else v.layer.toNat) (.norm sel)).endForm fid

/-- NORM (R184). -/
def execNorm (form : Nat) (s : State) : Host.Outcome State Fault Refusal :=
  if !s.serves (.norm form) then .next s else
  let t := normOp s form
  .next { s with
    mem := t.mem, uncorr := t.uncorr,
    landing := t.landing, forms := t.forms, jobs := t.jobs, used := t.used, overruns := t.overruns, debt := t.debt,
    gated := t.gated, domIdle := t.domIdle, staging := t.staging, stagedKeys := t.stagedKeys, stk := t.stk, log := t.log,
    logOvf := t.logOvf, ret := t.ret, ctrs := t.ctrs, hdrs := t.hdrs, regs := t.regs }

/-! ## ROTARY (R146, R151, R155, R184, R185) -/

/-- Heads of a row. -/
def headsOf (d n : Nat) (x : List W) : List (List W) := (List.range n).map fun h => (x.drop (h * d)).take d

/-- A row's keys or values enter its request's frame, whose page the slice's cache translates; a faulting write fails the
row (R154, R272). The key is the request's owner's (R155, R160). -/
def State.putKv (s : State) (slice jn : Nat) (md : ModelDesc) (r : Row) (row layer : Nat) (values : Bool)
    (hs : List (List W)) : State :=
  let p := r.pos.toNat
  let q := r.slot.toNat
  match s.translate slice q (p / 64) with
  | none => s
  | some f =>
    (hs.zipIdx).foldl (fun (s : State) (x, h) =>
      let at_ := s.frameAddr f + layer * md.lb + h * 128 * md.d + (if values then 64 * md.d else 0) + p % 64 * md.d
      let (t, bad) := s.poke kPages (s.reqSlot (s.req q)) at_ (x.map fun w => toE4m3 (ofF32 w))
      if bad then t.failRows jn [row] cMem else t) s

/-- The tags of a frame whose offset 0 is written, or MIXED where the position is written under another postmark; and the
token of the position (R151, R155). -/
def State.tagFrame (s : State) (st : Step) (r : Row) (row : Nat) : State :=
  let p := r.pos.toNat
  let q := r.slot.toNat
  match s.pageFrame q (p / 64) with
  | none => s
  | some f =>
    let req := s.req q
    let a := s.rowAdapter st row
    let pm := if a = 0 then 0#32 else (st.snap a).postmark
    let v := s.frame f
    let s := if p % 64 = 0 then s.setFrameFor q f { v with
        postmark := pm, adapter := a, gen := st.gen, mixed := false, circ := req.shareCirc,
        owner := if req.shareCirc then (s.entry req.adapter).circ.toNat else req.tenant, model := st.model.toNat }
      else if v.postmark ≠ pm then s.setFrameFor q f { v with mixed := true } else s
    s.pokeFor q kTokens (s.reqSlot req) (s.tokAt f (p % 64)) (leBytes 4 r.tok.toNat)

/-- Once the last offset of a frame is written in the last layer the frame is FULL. -/
def State.fullFrame (s : State) (r : Row) : State :=
  if r.pos.toNat % 64 ≠ 63 then s
  else match s.pageFrame r.slot.toNat (r.pos.toNat / 64) with
    | none => s
    | some f => s.setFrameFor r.slot.toNat f { s.frame f with full := true }

/-- The rows of a ROTARY form that writes keys or values are translated through the cache of its slice (R154). -/
def State.translateRows (s : State) (fd : FormDesc) (slice : Nat) (st : Step) (rows : List Nat) : State :=
  rows.foldl (fun (s : State) i => s.fillTranslation fd slice (st.row i).slot.toNat ((st.row i).pos.toNat / 64)) s

def rotaryOp (s : State) (fid : Nat) : State :=
  match s.vecForm fid .rotary with
  | none => s.endStray fid (isVec .rotary)
  | some (v, jn, st) =>
    let md := s.desc st.model.toNat
    let l := v.layer.toNat
    let slice := ((s.formAt fid).map fun f => f.core / 6400).getD 0
    let nh := if v.sel = 0#2 then md.ownQ else md.ownKv
    let s := if v.sel = 0#2 then s else s.translateRows (.vec v) slice st (v.rows.map (·.toNat))
    let s := (vecTile v).foldl (fun (s : State) (row, m) =>
      let r := st.row row
      let x := (s.landedOr jn st (min 2 v.sel.toNat) 0 l 0 row (v.src.toNat + m * v.stride.toNat) (nh * md.d)).map toF32
      let hs := headsOf md.d nh x
      match v.sel.toNat with
      | 0 =>
        let bs := encRow 2 ((hs.flatMap fun h => md.rotate r.pos.toNat h).map ofF32)
        (s.setLand (v.dst.toNat + m * v.dstStride.toNat) bs).save jn row l tQ bs
      | 1 =>
        let s := if l = 0 then s.tagFrame st r row else s
        s.putKv slice jn md r row l false (hs.map fun h => md.rotate r.pos.toNat h)
      | _ =>
        let s := if l = 0 then s.tagFrame st r row else s
        let s := s.putKv slice jn md r row l true hs
        if l + 1 = md.layers then s.fullFrame r else s) s
    (s.markRows jn (v.rows.map (·.toNat)) l (.rotary (min 2 v.sel.toNat))).endForm fid

/-- ROTARY (R184, R185). -/
def execRotary (form : Nat) (s : State) : Host.Outcome State Fault Refusal :=
  if !s.serves (.rotary form) then .next s else
  let t := rotaryOp s form
  .next { s with
    landing := t.landing, mem := t.mem, uncorr := t.uncorr, tcache := t.tcache, slots := t.slots, forms := t.forms, jobs := t.jobs, used := t.used,
    overruns := t.overruns, debt := t.debt, gated := t.gated, domIdle := t.domIdle, staging := t.staging,
    stagedKeys := t.stagedKeys, stk := t.stk, log := t.log, logOvf := t.logOvf, ret := t.ret, ctrs := t.ctrs,
    hdrs := t.hdrs, regs := t.regs }

/-! ## RESID (R99, R184) -/

/-- The landed value of the residual: O's output, or the MLP's, over the row's experts where the model has them. -/
def State.branch (s : State) (jn : Nat) (st : Step) (md : ModelDesc) (v : VecDesc) (row m : Nat) : List Val :=
  let at_ := v.src2.toNat + m * v.stride.toNat
  let l := v.layer.toNat
  if v.sel = 0#2 then s.landedOr jn st 3 0 l 0 row at_ md.dModel
  else if md.experts = 0 then s.landedOr jn st 6 0 l 0 row at_ md.dModel
  else
    let outs := ((st.row row).expertsAt l).map fun (e, w) => (w, s.landedOr jn st 6 0 l e row at_ md.dModel)
    (List.range md.dModel).map fun i =>
      ofF32 ((treeSum (outs.map fun (w, o) => f32Mul w (toF32 (o.getD i .zero)))).getD 0#32)

def residOp (s : State) (fid : Nat) : State :=
  match s.vecForm fid .resid with
  | none => s.endStray fid (isVec .resid)
  | some (v, jn, st) =>
    let md := s.desc st.model.toNat
    let s := (vecTile v).foldl (fun (s : State) (row, m) =>
      let x := s.landRow 2 (v.src.toNat + m * v.stride.toNat) md.dModel
      let y := s.branch jn st md v row m
      let s := s.setLand (v.dst.toNat + m * v.dstStride.toNat) (encRow 2 (List.zipWith Val.add x y))
      if v.sel = 0#2 then s
      else s.setRow jn row fun r =>
        { r with layers := v.layer.toNat + 1, done := r.done || (!r.draws && v.layer.toNat + 1 == md.layers) }) s
    (s.markRows jn (v.rows.map (·.toNat)) v.layer.toNat (.resid (min 1 v.sel.toNat))).endForm fid

/-- RESID (R184). -/
def execResid (form : Nat) (s : State) : Host.Outcome State Fault Refusal :=
  if !s.serves (.resid form) then .next s else
  let t := residOp s form
  .next { s with
    landing := t.landing, forms := t.forms, jobs := t.jobs, used := t.used, overruns := t.overruns, debt := t.debt,
    gated := t.gated, domIdle := t.domIdle, staging := t.staging, stagedKeys := t.stagedKeys, stk := t.stk, log := t.log,
    logOvf := t.logOvf, ret := t.ret, ctrs := t.ctrs, hdrs := t.hdrs, regs := t.regs }

/-! ## ACT (R184) -/

/-- σ of the gate. -/
def sigmoid (g : W) : W := f32Div f32One (f32Add f32One (f32Exp (f32Neg g)))

def gatedSilu (g u : W) : W := f32Mul (f32Mul g (sigmoid g)) u

def actOp (s : State) (fid : Nat) : State :=
  match s.vecForm fid .act with
  | none => s.endStray fid (isVec .act)
  | some (v, jn, st) =>
    let l := v.layer.toNat
    let e := v.expert.toNat
    let bf := s.decl.beat.toNat
    let (lo, hi) := s.ownCols st.model.toNat 4 l e
    let n := hi - lo
    let s := (vecTile v).foldl (fun (s : State) (row, m) =>
      let g := s.landedOr jn st 4 0 l e row (v.src.toNat + m * v.stride.toNat) n
      let u := s.landedOr jn st 5 0 l e row (v.src2.toNat + m * v.stride.toNat) n
      let a := (List.zipWith (fun g u => gatedSilu (toF32 g) (toF32 u)) g u).map ofF32
      let at_ := v.dst.toNat + m * v.dstStride.toNat
      let s := s.putX jn at_ 0 a
      let s := s.addPart jn { row := row, layer := l, kind := 2, expert := e, place := at_, first := lo, n := n,
                              bytes := encRow s.decl.xFmt.toNat a }
      let x := 32 * (e + 1)
      ((s.save jn row l (tGate + x) (encRow bf g)).save jn row l (tUp + x) (encRow bf u)).save jn row l (tAct + x)
        (encRow s.decl.xFmt.toNat a)) s
    (s.markRows jn (v.rows.map (·.toNat)) l (.act e)).endForm fid

/-- ACT (R184). -/
def execAct (form : Nat) (s : State) : Host.Outcome State Fault Refusal :=
  if !s.serves (.act form) then .next s else
  let t := actOp s form
  .next { s with
    mem := t.mem, uncorr := t.uncorr,
    landing := t.landing, forms := t.forms, jobs := t.jobs, used := t.used, overruns := t.overruns, debt := t.debt,
    gated := t.gated, domIdle := t.domIdle, staging := t.staging, stagedKeys := t.stagedKeys, stk := t.stk, log := t.log,
    logOvf := t.logOvf, ret := t.ret, ctrs := t.ctrs, hdrs := t.hdrs, regs := t.regs }

/-! ## ROUTE (R98) -/

/-- FP32 words in rising numeric order; NaN lowest, the zeros equal. -/
def f32Rank (w : W) : Nat :=
  if (ofF32 w).isNan then 0
  else if w.getLsbD 31 then 2 ^ 31 - bitsOf w 30 0 else 2 ^ 31 + bitsOf w 30 0

/-- Indices by decreasing value, ties to the lower index. -/
def byValue (z : List W) (idx : List Nat) : List Nat :=
  sortBy (fun i => (2 ^ 32 - f32Rank (z.getD i 0#32)) * 2 ^ 20 + i) idx

/-- The c experts of a row's logits and their weights. -/
def routeRow (z : List W) (c : Nat) : List (Nat × W) :=
  let es := sortBy id ((byValue z (List.range z.length)).take c)
  let zs := es.map fun e => z.getD e 0#32
  let m := match zs with | [] => 0#32 | x :: xs => xs.foldl f32Max x
  let ex := zs.map fun x => f32Exp (f32Sub x m)
  let sum := (treeSum ex).getD 0#32
  es.zip (ex.map fun x => f32Div x sum)

def routeOp (s : State) (fid : Nat) : State :=
  match s.vecForm fid .route with
  | none => s.endStray fid (isVec .route)
  | some (v, jn, st) =>
    let md := s.desc st.model.toNat
    let s := (vecTile v).foldl (fun (s : State) (row, m) =>
      let z := (s.landedOr jn st 9 0 v.layer.toNat 0 row (v.src.toNat + m * v.stride.toNat) md.experts).map toF32
      let es := routeRow z md.route
      (s.setRow jn row fun r => { r with routes := tput r.routes v.layer.toNat es }).save jn row v.layer.toNat tRoute
        (es.flatMap fun (e, w) => leBytes 4 e ++ leBytes 4 w.toNat)) s
    (s.markRows jn (v.rows.map (·.toNat)) v.layer.toNat .route).endForm fid

/-- ROUTE (R98). -/
def execRoute (form : Nat) (s : State) : Host.Outcome State Fault Refusal :=
  if !s.serves (.route form) then .next s else
  let t := routeOp s form
  .next { s with
    mem := t.mem, uncorr := t.uncorr,
    forms := t.forms, jobs := t.jobs, used := t.used, overruns := t.overruns, debt := t.debt, gated := t.gated,
    domIdle := t.domIdle, staging := t.staging, stagedKeys := t.stagedKeys, stk := t.stk, log := t.log,
    logOvf := t.logOvf, ret := t.ret, ctrs := t.ctrs, hdrs := t.hdrs, regs := t.regs }

/-! ## SAMPLE (R190 to R193) -/

/-- How a row's token was selected. -/
inductive Chosen where
  | drawn | greedy | odd
deriving DecidableEq, Repr

def f32Pos (z : W) : Bool := Val.lt .zero (ofF32 z)

/-- Penalised logits. -/
def penalise (r : Req) (count : Nat → Nat) (z : List W) : List W :=
  (z.zipIdx).map fun (x, v) =>
    let c := count v
    if c = 0 then x
    else f32Sub (if f32Pos x then f32Div x r.rep else f32Mul x r.rep) (f32Fma r.freq (f32Nat c) r.pres)

/-- The walk that keeps the nucleus: cumulative sums of the kept candidates, in order. -/
def nucleus (topP : W) : W → List W → List W
  | _, [] => []
  | cum, p :: ps =>
    let c := f32Add cum p
    if (ofF32 topP).lt (ofF32 f32One) && (ofF32 topP).le (ofF32 c) then [c] else c :: nucleus topP c ps

/-- Selection where the values are not all finite (R192), or none. -/
def oddChoice (vals : List W) (top : Option Nat) (head : Nat) : Option (Nat × W) :=
  match top with
  | none => some (0, 0x7FC00000#32)
  | some v =>
    if vals.getD v 0#32 = 0xFF800000#32 then some (head, 0x7FC00000#32)
    else if vals.getD v 0#32 = 0x7F800000#32 then some (v, f32One) else none

/-- The draw of a row: token, probability, how (R191, R192); u is the uniform value of R53. -/
def drawToken (r : Req) (z : List W) (u : W) : Nat × W × Chosen :=
  let live (xs : List W) : List Nat := (List.range xs.length).filter fun v => !(ofF32 (xs.getD v 0#32)).isNan
  if r.temp = 0#32 then
    let top := (byValue z (live z)).head?
    match oddChoice z top (top.getD 0) with
    | some (v, p) => (v, p, .odd)
    | none => (top.getD 0, f32One, .greedy)
  else
    let y := z.map fun x => f32Div x r.temp
    let ord := byValue y (live y)
    let cand := if r.topK = 0 ∨ z.length ≤ r.topK then ord else ord.take r.topK
    match oddChoice y cand.head? ((sortBy id cand).headD 0) with
    | some (v, p) => (v, p, .odd)
    | none =>
      let m := y.getD (cand.headD 0) 0#32
      let e (v : Nat) : W := f32Exp (f32Sub (y.getD v 0#32) m)
      let sum := (treeSum ((sortBy id cand).map e)).getD 0#32
      let ps := cand.map fun v => f32Div (e v) sum
      let cums := nucleus r.topP 0#32 ps
      let c := cums.getLastD 0#32
      let target := f32Mul u c
      let n := (cums.findIdx? fun x => (ofF32 target).lt (ofF32 x)).getD (cums.length - 1)
      (cand.getD n 0, f32Div (ps.getD n 0#32) c, .drawn)

/-- The uniform value of the draw for position p + 1 (R52, R53, R133). -/
def uniformAt (r : Req) (p : Nat) : W :=
  let w := philox r.seed { c0 := BitVec.ofNat 32 (p + 1), c1 := BitVec.ofNat 32 (0x100 + (p + 1 - r.promptLen) % 16),
                           c2 := 0#32, c3 := 0#32 }
  toF32 (.fin false (w.c0.toNat / 2 ^ 8) (-24))

/-- Tensor number of logits kept for delivery (PROBS = 2). -/
def tLogits : Nat := 23

/-- A row samples its token. -/
def State.sampleRow (s : State) (jn : Nat) (st : Step) (fd : FormDesc) (v : VecDesc) (row m : Nat) : State :=
  let r := st.row row
  let q := r.slot.toNat
  let req := s.req q
  let raw := (s.landedOr jn st 8 0 0 0 row (v.src.toNat + m * v.stride.toNat) (s.desc st.model.toNat).vocab).map toF32
  let drafts := match st.named.find? fun n => n.slot == r.slot with
    | some n => (n.drafts.map (·.toNat)).take (r.pos.toNat - (s.slot q).len.toNat)
    | none => []
  let o := s.overlay q (if r.gen then drafts else [])
  let tr := s.peek kTally (s.tallyKey q) (s.tallyAt q) 528384
  let (tok, prob, how) := drawToken req (penalise req (s.overCount q o) raw) (uniformAt req r.pos.toNat)
  let s := if tr.unc then (s.note tr (s.tallyAt q) 0).failForm fd cMem else s
  let s := s.setRow jn row fun r => { r with result := some (BitVec.ofNat 24 tok, prob), done := true }
  let s := if req.probs = 2 then s.keep jn row tLogits (raw.flatMap fun w => leBytes 4 w.toNat) else s
  match how with
  | .drawn => s.inc pgSamp 0x200
  | .greedy => s.inc pgSamp 0x208
  | .odd =>
    let s := s.inc pgSamp 0x218
    match (s.job jn).cur with
    | some st => if st.nanRow then s else (s.setStep jn { st with nanRow := true }).raise pgSamp 1
    | none => s

def sampleOp (s : State) (fid : Nat) : State :=
  match s.vecForm fid .sample with
  | none => s.endStray fid (isVec .sample)
  | some (v, jn, st) =>
    let s := (vecTile v).foldl (fun (s : State) (row, m) =>
      if (st.row row).draws then s.sampleRow jn st (.vec v) v row m else s) s
    s.endForm fid

/-- SAMPLE (R191). -/
def execSample (form : Nat) (s : State) : Host.Outcome State Fault Refusal :=
  if !s.serves (.sample form) then .next s else
  let t := sampleOp s form
  .next { s with
    forms := t.forms, jobs := t.jobs, used := t.used, overruns := t.overruns, debt := t.debt, gated := t.gated,
    domIdle := t.domIdle, staging := t.staging, stagedKeys := t.stagedKeys, stk := t.stk, log := t.log,
    logOvf := t.logOvf, ret := t.ret, ctrs := t.ctrs, hdrs := t.hdrs, regs := t.regs }

/-! ## LOSS (R225, R230) -/

/-- Loss and scaled logit gradient of a row with a VALID target. -/
def lossRow (z : List W) (target : Nat) (lsExp : Int) : W × List W :=
  let m := match z with | [] => 0#32 | x :: xs => xs.foldl f32Max x
  let e := z.map fun x => f32Exp (f32Sub x m)
  let sum := (treeSum e).getD 0#32
  let loss := f32Sub (f32Add m (f32Mul (f32Log2 sum) 0x3F317218#32)) (z.getD target 0#32)
  let dz := (e.zipIdx).map fun (x, v) =>
    toF32 ((ofF32 (f32Sub (f32Div x sum) (if v = target then f32One else 0#32))).scale lsExp)
  (loss, dz)

/-- The label of a row could not be read: its input failed (R26, R381). -/
def State.labelLost (s : State) (r : Row) : Bool := (s.labelWord (s.req r.slot.toNat) r.pos.toNat).isNone

/-- A row's VALID target, and whether its label was bad. Bits [30:24] of a label word, which its table gives as 0, are not looked at
(DESIGN CHOICE, log 167: R225 names no outcome for them). -/
def State.targetOf (s : State) (r : Row) (vocab : Nat) : Option Nat × Bool :=
  match s.labelWord (s.req r.slot.toNat) r.pos.toNat with
  | none => (none, false)
  | some w =>
    if !w.getLsbD 31 then (none, false)
    else if vocab ≤ bitsOf w 23 0 then (none, true) else (some (bitsOf w 23 0), false)

/-- The training state of a job changes. -/
def State.setTrain (s : State) (jn : Nat) (f : Train → Train) : State := s.setJob jn { s.job jn with train := f (s.job jn).train }

/-- The delta-shaped form a number places, with its step, where its code is `code`. -/
def State.deltaForm (s : State) (fid code : Nat) : Option (Form × BitVec 512 × DeltaDesc × Nat × Step) :=
  match s.formAt fid with
  | some f =>
    match f.desc, s.formStep f.desc with
    | .raw b, some (jn, st) => if f.idle ∨ dForm b ≠ code then none else some (f, b, deltaDesc b, jn, st)
    | _, _ => none
  | none => none

def State.lossOne (s : State) (jn : Nat) (st : Step) (d : DeltaDesc) (row m : Nat) : State :=
  let z := (s.landedOr jn st 8 0 0 0 row (d.src + m * d.stride) d.width).map toF32
  let (target, bad) := s.targetOf (st.row row) (s.desc st.model.toNat).vocab
  let s := if bad then s.inc pgTrain 0x228 else s
  let s := if s.labelLost (st.row row) then s.failRows jn [row] cDesc else s
  let n := rowLen s.decl.xFmt.toNat d.width
  match target with
  | none => s.putX jn (d.dst + m * n) 2 (List.replicate d.width .zero)
  | some v =>
    let (loss, dz) := lossRow z v (s.job jn).train.lsExp.toInt
    let s := s.setTrain jn fun t => { t with nvalid := t.nvalid + 1, nanFlag := t.nanFlag || !(ofF32 loss).isFinite }
    let s := s.setRow jn row fun r => { r with loss := some loss }
    s.putX jn (d.dst + m * n) 2 (dz.map ofF32)

def lossOp (s : State) (fid : Nat) : State :=
  match s.deltaForm fid 0x43 with
  | none => s.endStray fid (isRaw 0x43)
  | some (f, _, d, jn, st) =>
    let rows := s.formRows f.desc
    (((rows.zipIdx).foldl (fun (s : State) (row, m) => s.lossOne jn st d row m) s).markRows jn rows 0 .loss).endForm fid

/-- LOSS (R225). -/
def execLoss (form : Nat) (s : State) : Host.Outcome State Fault Refusal :=
  if !s.serves (.loss form) then .next s else
  let t := lossOp s form
  .next { s with
    landing := t.landing, forms := t.forms, jobs := t.jobs, used := t.used, overruns := t.overruns, debt := t.debt,
    gated := t.gated, domIdle := t.domIdle, staging := t.staging, stagedKeys := t.stagedKeys, stk := t.stk, log := t.log,
    logOvf := t.logOvf, ret := t.ret, ctrs := t.ctrs, hdrs := t.hdrs, regs := t.regs }

/-! ## BVEC (R227) -/

/-- NORM backward. -/
def normBack (eps : W) (x g dy : List W) : List W :=
  let r := rmsR eps x
  let gd := List.zipWith f32Mul g dy
  let a := (treeSum (List.zipWith f32Mul gd x)).getD 0#32
  let c := f32Div (f32Mul (f32Mul a r) (f32Mul r r)) (f32Nat x.length)
  List.zipWith (fun p xi => f32Fma p r (f32Neg (f32Mul xi c))) gd x

/-- ACT backward: dg and du. -/
def actBack (da g u : W) : W × W :=
  let sg := sigmoid g
  (f32Mul (f32Mul da u) (f32Mul sg (f32Add f32One (f32Mul g (f32Sub f32One sg)))), f32Mul (f32Mul da g) sg)

/-- The gradient that reaches a form's rows: landed dX of these projections, and their experts, summed in their order, or the landing
row. -/
def State.backIn (s : State) (jn : Nat) (st : Step) (projs : List (Nat × Nat)) (layer row at_ w : Nat) : List W :=
  let xs := projs.filterMap fun (p, e) => s.landedRow jn st 10 p layer e row
  if xs = [] then s.landF32 at_ w
  else (List.range w).map fun i => (treeSum (xs.map fun x => toF32 (x.getD i .zero))).getD 0#32

def State.bvecOne (s : State) (jn : Nat) (st : Step) (d : DeltaDesc) (total row m : Nat) : State :=
  let md := s.desc st.model.toNat
  let src := d.src + m * d.stride
  let w := d.width
  let sv (t : Nat) (code n : Nat) : List W :=
    (decRow code n (s.savedTensor jn st row d.layer t (rowLen code n))).map toF32
  let f32 (xs : List W) : List Byte := xs.flatMap fun x => leBytes 4 x.toNat
  let n := rowLen s.decl.xFmt.toNat w
  match d.bvec with
  | 0 =>
    let (kind, t, projs) := if d.vocab then (0x1C, tFinal, [(8, 0)])
      else if 4 ≤ d.proj then (0x16, tResid2, ((st.row row).expertIds md d.layer).flatMap fun e => [(4, e), (5, e)])
      else (0x11, tResid, [(0, 0), (1, 0), (2, 0)])
    let dy := s.backIn jn st projs d.layer row src w
    let dx := normBack md.eps (sv t 2 w) (s.gain st.model.toNat (md.gainKey kind d.layer)) dy
    s.setLand (d.dst + m * w * 4) (f32 dx)
  | 1 =>
    let x := s.landF32 src w
    let y := if d.proj = 2 then x
      else (headsOf md.d (w / md.d) x).flatMap fun h => md.unrotate (st.row row).pos.toNat h
    s.putX jn (d.dst + m * n) 2 (y.map ofF32)
  | 2 =>
    let x := (s.landF32 src w).map ofF32
    let b := (s.landedRow jn st 10 d.proj d.layer d.expert row).getD (List.replicate w .zero)
    let y := (List.zipWith Val.add x b).map toF32
    (s.setLand (d.dst + m * w * 4) (f32 y)).putX jn (d.dst + total * w * 4 + m * n) 2 (y.map ofF32)
  | _ =>
    let bf := s.decl.beat.toNat
    let x := 32 * (d.expert + 1)
    let da := s.backIn jn st [(6, d.expert)] d.layer row src w
    let gu := List.zipWith (fun a (b : W × W) => actBack a b.1 b.2) da ((sv (tGate + x) bf w).zip (sv (tUp + x) bf w))
    let s := s.putX jn (d.dst + 2 * m * n) 2 (gu.map fun y => ofF32 y.1)
    s.putX jn (d.dst + (2 * m + 1) * n) 2 (gu.map fun y => ofF32 y.2)

def bvecOp (s : State) (fid : Nat) : State :=
  match s.deltaForm fid 0x44 with
  | none => s.endStray fid (isRaw 0x44)
  | some (f, _, d, jn, st) =>
    let rows := s.formRows f.desc
    let act : Bool := d.bvec = 3
    let x := 32 * (d.expert + 1)
    let ts := match d.bvec with
      | 0 => [if d.vocab then tFinal else if 4 ≤ d.proj then tResid2 else tResid]
      | 3 => [tGate + x, tUp + x]
      | _ => []
    let s := s.feedSaved f.desc jn st rows d.layer ts
    (((rows.zipIdx).foldl (fun (s : State) (row, m) => s.bvecOne jn st d d.m row m) s).markRows jn rows d.layer
      (.bvec d.bvec (if act then 6 else d.p) (if act then d.expert else 0))).endForm fid

/-- BVEC (R227). -/
def execBvec (form : Nat) (s : State) : Host.Outcome State Fault Refusal :=
  if !s.serves (.bvec form) then .next s else
  let t := bvecOp s form
  .next { s with
    landing := t.landing, forms := t.forms, jobs := t.jobs, used := t.used, overruns := t.overruns, debt := t.debt,
    gated := t.gated, domIdle := t.domIdle, staging := t.staging, stagedKeys := t.stagedKeys, stk := t.stk, log := t.log,
    logOvf := t.logOvf, ret := t.ret, ctrs := t.ctrs, hdrs := t.hdrs, regs := t.regs }

end Sys2Proof.Machine
end

