-- ==== Sys2Proof/Machine/Boundary.lean ====
section
/-! DEFINITION. The step boundary: outcomes, ends, pages, roll-back, records, deadlines, the tideline (01_architecture.md
R26; 06_steps.md R128, R129, R135 to R143; 07_context_cache.md R156, R158, R163; 09_scheduling.md R205, R212, R213). -/
namespace Sys2Proof.Machine

/-! ## Outcomes (stages 1 and 2) -/

/-- What a boundary decides of a named request. -/
structure Close where
  named : Named
  fail : Option Nat
  /-- Tokens delivered, with their probabilities and row-table indices. -/
  toks : List (Nat × W × Nat)
  len : Nat
  late : Bool
  final : Option EndRec
deriving DecidableEq, Repr

/-- Drafts accepted: drawn tokens equal to their drafts, in order (R135). -/
def acceptLen : List Nat → List Nat → Nat
  | t :: ts, d :: ds => if t = d then 1 + acceptLen ts ds else 0
  | _, _ => 0

/-- Tokens up to and with the first stop token. -/
def cutStop (stops : List W) : List (Nat × W × Nat) → List (Nat × W × Nat)
  | [] => []
  | t :: ts => if (stops.filterMap stopTok).contains t.1 then [t] else t :: cutStop stops ts

/-- The smallest failure code of a request's rows (R142, R143). -/
def Step.failCode (st : Step) (slot : BitVec 12) : Option Nat :=
  ((st.rowsOf slot).flatMap fun (r, _) => r.fails.map (·.toNat)).min?

/-- The tokens a named request delivers when none of its rows failed. -/
def Step.drawn (st : Step) (n : Named) (stops : List W) : List (Nat × W × Nat) :=
  let ts := (st.rowsOf n.slot).filterMap fun (r, i) =>
    if r.draws then r.result.map fun (t, p) => (t.toNat, p, i) else none
  cutStop stops (ts.take (acceptLen (ts.map (·.1)) (n.drafts.map (·.toNat)) + 1))

/-- The decision on a train attempt: committed or not, and its NaN reason bit; none in serve mode. -/
abbrev Verdict := Option (Bool × Bool)

/-- A request's end at the boundary, in the order of R143. A commit completes every request that took part, and one left out
by the repeated checks ends with their reason, unless a deadline or a cancel comes before it (R132); a vetoed attempt ends none (R128). `cancel` marks a cancel taken, `gone` an adapter that has
entered RETIRING or is FREE (R69). -/
def endReason (v : Verdict) (closing : Bool) (fail : Option Nat) (cause : Option Nat) (missed cancel gone : Bool) (n : Named) :
    Option (Nat × Nat) :=
  match v with
  | some (false, _) => if closing then some (0x0F, 0) else none
  | some (true, _) => match n.excluded with
    | some c => some (if missed then (0x03, 0) else if cancel then (0x02, 0) else (c.toNat, 0))
    | none => some (0x01, 3)
  | none =>
    match fail, cause with
    | some c, _ => some (c, 0)
    | none, some c => some (0x01, c)
    | none, none =>
      if missed then some (0x03, 0)
      else if cancel then some (0x02, 0)
      else match n.excluded with
        | some c => some (c.toNat, 0)
        | none =>
          if gone then some (0x05, 0) else if n.noFrame then some (0x0E, 0) else if closing then some (0x0F, 0) else none

/-- A due time has passed. -/
def State.passed (s : State) (due : Option Nat) : Bool :=
  match due with
  | some d => decide (d < s.lcount.toNat)
  | none => false

/-- What the boundary decides of a named request. One whose slot was lost ends MEM_UNCORR, whatever becomes of the attempt (R328). -/
def State.closeOf (s : State) (jn : Nat) (st : Step) (v : Verdict) (n : Named) : Close :=
  let q := n.slot.toNat
  let sl := s.slot q
  let r := s.req q
  let gen : Bool := match st.rowsOf n.slot with | (x, _) :: _ => x.gen | [] => false
  let fail := if v.isSome then none else st.failCode n.slot
  let toks := if v.isSome ∨ fail.isSome then [] else st.drawn n r.stops
  let m := toks.length
  let len := match v with
    | some (false, _) => 0
    | some (true, _) => sl.len.toNat + n.rows
    | none => if fail.isSome then sl.len.toNat else if gen then sl.len.toNat + m else sl.len.toNat + n.rows
  let due := n.due.map (·.toNat)
  let late := m ≠ 0 && s.passed due
  let stop : Bool := match toks.getLast? with | some t => (r.stops.filterMap stopTok).contains t.1 | none => false
  let cause : Option Nat := if stop then some 0 else if m = 0 then none
    else if r.maxNew ≤ sl.delivered.toNat + m then some 1 else if 2097151 ≤ len then some 2 else none
  let cancel : Bool := sl.cmd == 1#3 && (match v with | some (false, _) => false | _ => true)
  let e := if v.isSome ∧ sl.lost then some (0x13, 0) else endReason v ((s.job jn).st == 2#2) fail cause (r.hard && s.passed due) cancel (s.adapterGone q) n
  { named := n, fail := fail, toks := toks, len := len, late := late
    final := e.map fun (c, k) => { reason := BitVec.ofNat 8 c, cause := BitVec.ofNat 2 k, cancelSeen := cancel } }

/-- The end of a request the step did not name, if any (R139, Table 06-4). -/
def State.otherEnd (s : State) (jn q : Nat) : Option EndRec :=
  let v := s.slot q
  let closing : Bool := (s.job jn).st == 2#2
  let denied := if v.active || v.st == .held then s.recheck jn q else none
  let cancel : Bool := v.cmd == 1#3 && v.st != .posted
  if !v.alive then none
  else if (v.active || v.st == .held) && (s.req q).hard && s.passed (s.due q) then some { reason := 0x03#8, cancelSeen := cancel }
  else if cancel then some { reason := 0x02#8, cancelSeen := true }
  else if let some c := denied then some { reason := BitVec.ofNat 8 c }
  else if closing then some { reason := 0x0F#8 } else none

/-! ## Prefix blocks (stage 3, R163) -/

/-- A request's blocks are offered, in increasing order; `fuel` bounds their number. -/
def State.offer (q : Nat) (model : Nat) (pm gen : W) (len : Nat) : Nat → State → State
  | 0, s => s
  | fuel + 1, s =>
    let v := s.slot q
    let n := v.chained
    if len < 64 * (n + 1) ∨ !v.chainOk then s
    else match s.pageFrame q n with
      | none => s
      | some f =>
        if (s.frame f).mixed then s
        else if (s.tokRecord f).unc then
          let t := s.note (s.tokRecord f) (s.tokAt f 0) 4
          t.setSlot q { t.slot q with memBad := true }
        else
          let r := s.req q
          let toks := (List.range 64).map fun i => bitsOf (s.tokWord f i) 23 0
          let h := s.chainHash (s.ownerKey r) model r.adapter pm gen v.chain toks
          let prev := match n with | 0 => 0 | k + 1 => (s.pageFrame q k).getD 0
          let c : PrefixWay := {
            tag := (h >>> 14).setWidth 50, frame := BitVec.ofNat 20 f, first := n == 0, prev := BitVec.ofNat 20 prev,
            owner := s.ownerKey r, model := BitVec.ofNat 8 model, adapter := BitVec.ofNat 16 r.adapter,
            postmark := keyPm r.adapter pm, gen := gen, stamp := 0 }
          let (t, ok) := s.insertWay q (bitsOf h 13 0) c
          let t := t.setSlot q { t.slot q with chain := h, chained := n + 1, chainOk := ok }
          State.offer q model pm gen len fuel t

def State.offerAll (s : State) (st : Step) (cs : List Close) : State :=
  cs.foldl (fun (s : State) c =>
    let q := c.named.slot.toNat
    if c.fail.isSome then s.setSlot q { s.slot q with chainOk := false }
    else if !(s.rd pgCache 0x040).getLsbD 0 ∨ !s.running pgCache ∨ (s.req q).train ∨ c.named.excluded.isSome ∨ s.adapterGone q then s
    else State.offer q st.model.toNat c.named.snapPm st.gen c.len (c.len / 64 + 1) s) s

/-! ## Pages, lengths, TRIM and PAUSE (stages 3 and 4) -/

/-- The stale frames of the job's refilled pages and the pages of ended requests go. -/
def State.freePages (s : State) (jn : Nat) (cs : List Close) : State :=
  let s := ((s.jobSlots jn).filter fun q => (s.slot q).staleFrames ≠ []).foldl (fun (s : State) q => s.dropStale q) s
  cs.foldl (fun (s : State) c => if c.final.isSome then s.releasePages c.named.slot.toNat else s) s

/-- The rows of the requests whose control tables a faulting write did not reach fail (R272). -/
def State.badWrites (s : State) (jn : Nat) (st : Step) : State :=
  st.named.foldl (fun (s : State) n =>
    let q := n.slot.toNat
    if (s.slot q).memBad then
      (s.failRows jn ((st.rowsOf n.slot).map (·.2)) cMem).setSlot q { s.slot q with memBad := false }
    else s) s

/-- The length, the tokens and the state a request has after its rows. -/
def State.settle (s : State) (c : Close) : State :=
  let q := c.named.slot.toNat
  let v := s.slot q
  let m := c.toks.length
  s.setSlot q { v with
    len := BitVec.ofNat 22 c.len, delivered := BitVec.ofNat 22 (v.delivered.toNat + m)
    lastTok := match c.toks.getLast? with | some t => BitVec.ofNat 24 t.1 | none => v.lastTok
    st := if m ≠ 0 then .decode else v.st, contd := v.contd && m = 0 }

/-- TRIM (R129): pages wholly at or above LEN go, but for stale ones. -/
def State.trim (s : State) (q : Nat) : State :=
  let s := (s.listPages q).foldl (fun (s : State) i =>
    if (s.slot q).len.toNat ≤ 64 * i ∧ !entryStale (s.listEntry q i) then s.dropPage q i else s) s
  s.setSlot q { s.slot q with cmd := 0#3 }

/-- TRIM and PAUSE pending for a running request are taken (R129, R169). -/
def State.takeCmd (s : State) (q : Nat) : State :=
  let v := s.slot q
  if !v.active ∨ v.pendingEnd.isSome then s
  else if v.cmd = 4#3 then s.trim q
  else if v.cmd = 2#3 then
    match s.pauseSlot q false with
    | some t => t
    | none => ((s.setSlot q { v with cmd := 0#3 }).errInc pgStep).raise pgCache 2
  else s

/-! ## Records (stage 5) -/

/-- Probabilities, logits and losses delivered at OUT_ADDR (R193, R225, R317). -/
def State.outputs (s : State) (jn : Nat) (st : Step) (v : Verdict) (c : Close) : State :=
  let q := c.named.slot.toNat
  let r := s.req q
  let first := (s.slot q).delivered.toNat - c.toks.length
  let vocab := (s.desc (s.job jn).model).vocab
  match v with
  | some (true, _) =>
    if r.outAddr = 0 then s
    else (st.rowsOf c.named.slot).foldl (fun (s : State) (x, _) =>
      match x.loss with
      | some w => s.hostWrite (r.outAddr + 4 * x.pos.toNat) (s.encOut r.tenant r.reqId (ctrHi 0x11) (4 * x.pos.toNat) (leBytes 4 w.toNat))
      | none => s) s
  | some (false, _) => s
  | none =>
    (c.toks.zipIdx).foldl (fun (s : State) ((_, p, row), i) =>
      let n := first + i
      let s := if r.probs = 0 then s
        else s.hostWrite (r.outAddr + 4 * n) (s.encOut r.tenant r.reqId (ctrHi 0x11) (4 * n) (leBytes 4 p.toNat))
      if r.probs ≠ 2 then s
      else
        let bs := (st.saved? row 0 tLogits).getD []
        s.hostWrite (r.outAddr + 4 * 2 ^ 21 + vocab * 4 * (n % r.outRing))
          (s.encOut r.tenant r.reqId (fun k => ctrHi 0x12 (n * 65536 + k)) 0 bs)) s

/-- A named request's record is written; an ended request reaches ENDED. -/
def State.closeRecord (s : State) (jn : Nat) (st : Step) (c : Close) : State :=
  let q := c.named.slot.toNat
  let v := s.slot q
  let e : EndRec := c.final.getD { reason := 0#8 }
  let i : RecInfo := {
    kind := 1, state := if c.final.isSome then 7 else v.st.code, final := c.final.isSome, reason := e.reason.toNat,
    late := c.late, cancelSeen := e.cancelSeen, rung := c.named.rung.toNat, forced := c.named.forced, cause := e.cause.toNat,
    toks := c.toks.map (·.1), kused := c.named.drafts.length, step := st.num.toNat, postmark := c.named.snapPm,
    rows := c.named.rows, due := c.named.due.map (·.toNat) }
  let s := s.ringWrite jn (s.record jn q i)
  if c.final.isSome then s.setSlot q ((s.slot q).end_ e) else s

/-- Rows that failed: every row of a request one of whose rows did (R142). -/
def Step.failedRows (st : Step) : Nat := (st.rows.filter fun r => (st.failCode r.slot).isSome).length

/-- The summary record (R138). -/
def summary (s : State) (jn : Nat) (st : Step) (v : Verdict) : List Byte :=
  let (nan, veto) := match v with | some (c, n) => (n, !c) | none => (false, false)
  leBytes 4 (3 + 2 ^ 8 * jn) ++ leBytes 4 (st.rows.length + 2 ^ 16 * st.named.length) ++ leBytes 8 st.num.toNat ++
    leBytes 8 st.tForm.toNat ++ leBytes 8 s.lcount.toNat ++ leBytes 8 st.coreCycles.toNat ++
    leBytes 4 (st.failedRows + 2 ^ 16 * b2n nan + 2 ^ 17 * b2n veto) ++ zeroBytes 84

/-! ## Deadlines (stage 6, R212, R213) -/

/-- The floor and the marks a request carries to its next step. -/
def State.deadline (s : State) (c : Close) : State :=
  let q := c.named.slot.toNat
  let v := s.slot q
  let g := c.named.rung.toNat
  let rec_ := bitsOf (s.rd pgAdm 0x040) 15 8
  let token := c.toks ≠ []
  let run := if !token then v.onTime else if c.late then 0 else if v.tokRung.toNat = g then v.onTime + 1 else 1
  let rise := decide (token ∧ !c.late ∧ !c.named.forced ∧ 1 ≤ g ∧ rec_ ≠ 0 ∧ rec_ ≤ run)
  let floor := if c.late ∧ !c.named.forced then min 3 (g + 1) else if rise then (if c.named.snapRankord then g - 1 else 0) else g
  let s := s.setSlot q { v with
    rung := c.named.rung, floor := BitVec.ofNat 2 floor, onTime := run, tokRung := if token then c.named.rung else v.tokRung
    late := if token then c.late else v.late, lastDeliver := if token then s.lcount else v.lastDeliver }
  if rise then s.inc pgAdm 0x228 else s

/-- A pending tideline value takes effect (stage 7, R205). -/
def State.takeTideline (s : State) : State :=
  let w := s.rd pgSched 0x048
  if w.getLsbD 16 then
    (s.wr pgSched 0x04C (w &&& 0x33F#32)).wr pgSched 0x048 (setField w 16 1 0)
  else s

/-! ## The close -/

/-- Forms of a closing step that still wait for a core are withdrawn, and so are its commands; one outstanding at the arrays
counts there until its irz_acmd_done (R390). A form that runs is never pre-empted: it keeps its core, and the landing ranges of its step, until it completes (R109, R201). -/
def State.withdraw (s : State) (jn : Nat) (st : Step) : State :=
  let mine (f : Form) : Bool := f.job == some (BitVec.ofNat 8 jn) && descStep f.desc == some (st.num.setWidth 32)
  let runs := s.forms.any fun (_, f) => mine f && !f.waiting
  { s with
    forms := s.forms.filter fun (_, f) => !(mine f && f.waiting)
    cmds := s.cmds.filter fun c => !(c.arr.job.toNat = jn && c.step == st.num)
    late := s.late ++ (s.outstanding.filter fun c => c.arr.job.toNat = jn && c.step == st.num).map (·.id)
    landUse := if runs then s.landUse else s.landUse.filter fun r => !(r.job.toNat = jn && r.step == st.num) }

/-- The pins a step took fall, and its entries record it (R70, Table 03-1); an entry in RETIRING with no pin goes. -/
def State.unpin (s : State) (jn : Nat) (st : Step) : State :=
  (st.snaps.foldl (fun (s : State) x =>
    let a := x.adapter.toNat
    let e := s.entry a
    if e.st = .free then s
    else (s.setEntry a { e.pin x.entry.live (-1#16) with lastJob := BitVec.ofNat 8 jn, lastStep := st.num }).reapEntry a) s).unstage

/-- PM_FLOOR of every entry, in increasing adapter (R74). -/
def State.refloorAll (s : State) : State := (s.dir.map (·.1)).foldl (fun (s : State) a => s.refloor a) s

/-- The boundary of a job's step in flight, with the verdict on a train attempt. -/
def State.closeStep (s : State) (jn : Nat) (v : Verdict) : State :=
  match (s.job jn).cur with
  | none => s
  | some st0 =>
    let s := (s.withdraw jn st0).badWrites jn st0
    let st := ((s.job jn).cur).getD st0
    let names := (sortBy id (st.named.map (·.slot.toNat))).filterMap fun q => st.named.find? fun n => n.slot.toNat = q
    let cs := names.map (s.closeOf jn st v)
    let abort : Bool := match v with | some (c, _) => !c | none => false
    let others := if abort ∧ (s.job jn).st ≠ 2#2 then [] else
      ((s.jobSlots jn).filter fun q => !(names.any fun n => n.slot.toNat = q)).filterMap fun q =>
        (s.otherEnd jn q).map fun e => (q, e)
    let s := s.offerAll st cs
    let s := s.freePages jn cs
    let s := others.foldl (fun (s : State) (q, e) => (s.dropParked q).queueEnd q e) s
    let s := (cs.filter fun c => c.named.excluded.isNone && !c.named.noFrame).foldl (fun (s : State) c => s.settle c) s
    let s := cs.foldl (fun (s : State) c => if c.toks = [] then s else s.tallyAll c.named.slot.toNat (c.toks.map (·.1))) s
    let ended (q : Nat) : Bool := cs.any fun c => c.named.slot.toNat = q && c.final.isSome
    let s := (names.filter fun n => !ended n.slot.toNat).foldl (fun (s : State) n => s.storeHdr n.slot.toNat) s
    let s := ((s.jobSlots jn).filter fun q => !ended q).foldl (fun (s : State) q => s.takeCmd q) s
    let s := cs.foldl (fun (s : State) c => s.outputs jn st v c) s
    let s := cs.foldl (fun (s : State) c => (s.closeRecord jn st c).deadline c) s
    let s := (s.ringWrite jn (summary s jn st v)).mirror jn
    let failed := st.failedRows
    let s := s.inc pgStep 0x0D0
    let s := if failed = 0 then s else (s.count (regAt pgStep 0x0D8) failed).raise pgStep 1
    let late := (cs.filter (·.late)).length
    let s := if late = 0 then s else s.count (regAt pgStep 0x0E0) late
    let s := s.takeTideline
    let s := s.setJob jn { s.job jn with cur := none }
    let s := ((s.releaseColls jn (st.num.setWidth 32) st.attempt).unpin jn st).refloorAll
    (s.finishClose jn).placeWaiting

/-- Every beat of the step's commands has come or been declared absent, and the misses they made are drained (R112). -/
def State.beatsIn (s : State) (jn : Nat) (st : Step) : Bool :=
  let keys := (s.cmds.filter fun c => c.arr.job.toNat = jn && c.step == st.num).map (·.key)
  s.lanes.all fun (l, v) => v.ledger.all (fun (_, e) => !keys.contains e.cmd) &&
    v.missq.all fun r => match s.rowOfTag l r.tag with | some (j, _) => j ≠ jn | none => true

/-- Every row has finished or failed. -/
def Step.rowsOver (st : Step) : Bool := st.rows.all fun r => r.done || r.fails ≠ []

/-- STEP_BOUNDARY: a serve-mode step closes once every row has finished or failed; a train attempt closes with its decision
(R237, R238). -/
def stepBoundaryOp (s : State) (jn : Nat) : State :=
  match (s.job jn).cur with
  | none => s
  | some st =>
    if (s.job jn).isTrain ∨ !st.rowsOver ∨ !s.beatsIn jn st ∨ !s.running pgHost then s else s.closeStep jn none

/-- STEP_BOUNDARY (R26). -/
def execStepBoundary (job : BitVec 8) (s : State) : Host.Outcome State Fault Refusal :=
  if !s.serves (.stepBoundary job) then .next s else
  let t := stepBoundaryOp s job.toNat
  .next { s with
    jobs := t.jobs, slots := t.slots, dir := t.dir, mem := t.mem, uncorr := t.uncorr, prefixes := t.prefixes,
    stamps := t.stamps, tcache := t.tcache, granules := t.granules, orphans := t.orphans, colls := t.colls, host := t.host,
    readQ := t.readQ, hostReads := t.hostReads, writeQ := t.writeQ, hostWrites := t.hostWrites, forms := t.forms, cmds := t.cmds, landUse := t.landUse,
    used := t.used, overruns := t.overruns, debt := t.debt, gated := t.gated, domIdle := t.domIdle, staging := t.staging,
    stagedKeys := t.stagedKeys, stk := t.stk, log := t.log, logOvf := t.logOvf, ret := t.ret, ctrs := t.ctrs,
    late := t.late, hdrs := t.hdrs, regs := t.regs }

end Sys2Proof.Machine
end

