-- ==== Sys2Proof/Machine/Gather.lean ====
section
/-! DEFINITION. The ALLGATHERs of a sharded model: the ranks of a serve job exchange their parts of each layer's tensors, and a
row that fails on one rank fails on every rank (13_links.md R298, R300, R301, R303). -/
namespace Sys2Proof.Machine

/-! ## The order of the gathers (R301) -/

/-- The n-th gather of a step: its layer and tensor. A layer brings its context, its O output, its activation and its down
output, in this order; the logits come last. -/
def ModelDesc.gatherOf (m : ModelDesc) (n : Nat) : Option (Nat × Nat) :=
  if n < 4 * m.layers then some (n / 4, n % 4) else if n = 4 * m.layers then some (m.layers, 4) else none

/-- COLL of the n-th gather. COLL 0 is the formation record's; a step has more gathers than COLL has values, so the others are
used in turn (DESIGN CHOICE, log 152). -/
def gatherNum (n : Nat) : Nat := 1 + n % 255

/-- The array pass whose output a gathered tensor is. -/
def gatherPass (kind : Nat) : Nat := if kind = 1 then 3 else if kind = 3 then 6 else 8

/-- The format a gathered tensor travels in: the declared X format, or as landed. -/
def State.gatherCode (s : State) (kind : Nat) : Nat :=
  if kind = 0 ∨ kind = 2 then s.decl.xFmt.toNat else s.landCode (gatherPass kind)

/-! ## This rank's contribution -/

/-- A row's part of a tensor is whole on this rank, or the row has failed. -/
def State.partIn (s : State) (jn : Nat) (st : Step) (layer kind i : Nat) : Bool :=
  let m := s.desc st.model.toNat
  let r := st.row i
  let routed : Bool := m.experts = 0 || r.expertsAt layer ≠ []
  r.fails ≠ [] || match kind with
    | 0 => (List.range m.ownKv).all fun h => st.marked i layer (.context h)
    | 1 => s.passIn jn st 3 0 layer 0 i
    | 2 => routed && (r.expertIds m layer).all fun e => st.marked i layer (.act e)
    | 3 => routed && (r.expertIds m layer).all fun e => s.passIn jn st 6 0 layer e i
    | _ => !r.draws || s.passIn jn st 8 0 0 0 i

/-- This rank's columns of a row that an array pass brought. -/
def State.passPiece (s : State) (jn : Nat) (st : Step) (layer kind expert i : Nat) : Option Piece :=
  let p := gatherPass kind
  let l := if p = 8 then 0 else layer
  (s.landedRow jn st p 0 l expert i).map fun vs =>
    { row := i, layer := layer, kind := kind, expert := expert, first := (s.ownCols st.model.toNat p l expert).1, n := vs.length,
      bytes := encRow (s.gatherCode kind) vs }

/-- This rank's pieces of a row. -/
def State.piecesOf (s : State) (jn : Nat) (st : Step) (layer kind i : Nat) : List Piece :=
  let r := st.row i
  if r.fails ≠ [] then []
  else match kind with
    | 0 | 2 => st.pieces.filter fun x => x.row = i && x.layer = layer && x.kind = kind
    | 3 => (r.expertIds (s.desc st.model.toNat) layer).filterMap fun e => s.passPiece jn st layer kind e i
    | _ => if kind = 4 && !r.draws then [] else (s.passPiece jn st layer kind 0 i).toList

/-- The status word of a row: the code of its failure, or 0 (R301 gives its width; DESIGN CHOICE, log 152). -/
def Row.status (r : Row) : Nat := (r.fails.head?.map (·.toNat)).getD 0

/-- A row of a contribution: its status word and its pieces, each with expert, first element and length (DESIGN CHOICE, log
152). -/
def rowMsg (status : Nat) (ps : List Piece) : List Byte :=
  leBytes 4 status ++ leBytes 4 ps.length ++
    ps.flatMap fun x => leBytes 4 x.expert ++ leBytes 4 x.first ++ leBytes 4 x.n ++ x.bytes

def State.contribution (s : State) (jn : Nat) (st : Step) (layer kind : Nat) : List Byte :=
  (List.range st.rows.length).flatMap fun i => rowMsg (st.row i).status (s.piecesOf jn st layer kind i)

/-! ## The ranks' contributions -/

/-- Pieces read from a contribution, and what follows them; none while bytes are missing. -/
def readPieces (code row layer kind : Nat) : Nat → List Byte → Option (List Piece × List Byte)
  | 0, bs => some ([], bs)
  | k + 1, bs =>
    let w (i : Nat) : Nat := ofLe ((bs.drop (4 * i)).take 4)
    let n := rowLen code (w 2)
    if bs.length < 12 + n then none
    else (readPieces code row layer kind k (bs.drop (12 + n))).map fun (ps, rest) =>
      ({ row := row, layer := layer, kind := kind, expert := w 0, first := w 1, n := w 2, bytes := (bs.drop 12).take n } :: ps,
        rest)

/-- The rows of a contribution from row i on: status words and pieces; none while bytes are missing. -/
def readRows (code layer kind : Nat) : Nat → Nat → List Byte → Option (List (Nat × List Piece))
  | 0, _, _ => some []
  | k + 1, i, bs =>
    if bs.length < 8 then none
    else match readPieces code i layer kind (ofLe ((bs.drop 4).take 4)) (bs.drop 8) with
      | none => none
      | some (ps, rest) => (readRows code layer kind k (i + 1) rest).map fun xs => (ofLe (bs.take 4), ps) :: xs

/-- Every rank's rows, in rank order, once all have landed. -/
def State.gatherRows (s : State) (jn : Nat) (st : Step) (layer kind : Nat) (c : Coll) : Option (List (List (Nat × List Piece))) :=
  let me := s.jobRank jn
  let xs := (List.range (s.jobNdev jn)).map fun r =>
    readRows (s.gatherCode kind) layer kind st.rows.length 0
      (if r = me then c.mine else c.streamFrom (s.deviceOf jn r) (s.gatherBase jn r 0))
  if xs.all (·.isSome) then some (xs.map (·.getD [])) else none

/-! ## The full rows -/

/-- The pieces of an expert's row, joined by their first elements. -/
def joinPieces (code : Nat) (ps : List Piece) : List Val :=
  ((sortBy (fun n => (ps[n]?.map (·.first)).getD 0) (List.range ps.length)).filterMap fun n => ps[n]?).flatMap fun x =>
    decRow code x.n x.bytes

/-- One expert's full row: at its landing address in the X format, or in the collective's landing space as landed. -/
def State.putFull (s : State) (jn layer kind i expert : Nat) (own : Option Piece) (vs : List Val) : State :=
  let bs := encRow (s.gatherCode kind) vs
  if kind = 0 ∨ kind = 2 then
    match own with
    | some x => s.setLand x.place bs
    | none => s
  else match (s.job jn).cur with
    | some st => s.setStep jn { st with full := st.full ++
        [{ pass := gatherPass kind, layer := if kind = 4 then 0 else layer, expert := expert, row := i, bytes := bs }] }
    | none => s

/-- A row gathered: it fails with the first rank's code that failed it, or becomes full (R301). -/
def State.gatherRow (s : State) (jn : Nat) (st : Step) (layer kind i : Nat) (xs : List (Nat × List Piece)) : State :=
  match xs.find? fun x => x.1 ≠ 0 with
  | some x => if (st.row i).fails = [] then s.failRows jn [i] (x.1 % 256) else s
  | none =>
    let ps := xs.flatMap (·.2)
    let s := ((ps.map (·.expert)).dedup).foldl (fun (s : State) e =>
      let mine := st.pieces.find? fun x => x.row = i && x.layer = layer && x.kind = kind && x.expert = e
      s.putFull jn layer kind i e mine (joinPieces (s.gatherCode kind) (ps.filter fun x => x.expert = e))) s
    s.markRows jn [i] layer (.gathered kind)

/-- A gather ends on this rank: its landing space is released and the next one's turn comes. -/
def State.endGather (s : State) (jn layer kind : Nat) (c : Coll) : State :=
  match (s.job jn).cur with
  | some st =>
    let s := s.setStep jn { st with
      gathered := st.gathered + 1, pieces := st.pieces.filter fun x => !(x.layer = layer && x.kind = kind) }
    { s with colls := s.colls.erase c }
  | none => s

/-- The turn of a sharded step's next gather: it starts once every row's part is whole on this rank, and ends once every rank's
contribution has landed, or when it has failed (R301, R303). -/
def gatherOp (s : State) (jn c : Nat) (st : Step) : State :=
  match (s.desc st.model.toNat).gatherOf st.gathered with
  | none => s
  | some (layer, kind) =>
    let find (s : State) : Option Coll := s.coll? jn (st.num.setWidth 32) st.attempt c
    let begun : Bool := (find s).any (·.started)
    if c ≠ gatherNum st.gathered ∨ (!begun ∧ !(List.range st.rows.length).all (s.partIn jn st layer kind)) then s
    else
      let s := if begun then s else s.startColl jn c .allgather (s.contribution jn st layer kind)
      match find s with
      | none => s
      | some v =>
        if v.failed then s.endGather jn layer kind v
        else match s.gatherRows jn st layer kind v with
          | none => s
          | some rs =>
            ((List.range st.rows.length).foldl (fun (s : State) i =>
              s.gatherRow jn st layer kind i (rs.map fun r => r.getD i (0, []))) s).endGather jn layer kind v

end Sys2Proof.Machine
end

