-- ==== Sys2Proof/Machine/Training.lean ====
section
/-! DEFINITION. Adapter training: taking an adapter, the exchange, the update port, the vote and the decision
(10_training.md R220, R231 to R242; 18_ports.md R391; 13_links.md R302). -/
namespace Sys2Proof.Machine

/-! ## TRAIN_ACMD (R220) -/

/-- TRAIN_ACMD holds the command's fields; the command ends with its code in TRAIN_ARESULT. -/
def State.acmdDone (s : State) (job adapter op code : Nat) : State :=
  ((((s.setFld pgTrain 0x040 0 16 adapter).setFld pgTrain 0x040 16 8 job).setFld pgTrain 0x040 24 2 op)).setFld pgTrain 0x044 0 5 code

/-- The code of a TAKE (1) or RELEASE (2). -/
def State.acmdCode (s : State) (jn a op : Nat) : Nat :=
  let j := s.job jn
  let e := s.entry a
  let mine : Bool := e.trained && e.trainJob.toNat = jn
  if !s.running pgTrain then 5
  else if j.cur.isSome then 1
  else if j.st ≠ 1#2 ∨ !j.isTrain ∨ e.st ≠ .ready ∨ (op = 1 ∧ e.trained ∧ !mine) ∨ (op = 2 ∧ !mine) then 2
  else if !j.pooled ∧ (e.pooled ∨ e.tenant.toNat ≠ j.tenant) then 3
  else if j.pooled ∧ (!e.pooled ∨ e.circ.toNat ≠ j.circ ∨ !(s.seat j.circ j.rank).getLsbD 31 ∨
      bitsOf (s.seat j.circ j.rank) 9 0 ≠ j.tenant) then 3
  else 0

def acmdOp (s : State) (jn a op : Nat) : State :=
  let c := s.acmdCode jn a op
  let s := s.acmdDone jn a op c
  if c ≠ 0 then s
  else if op = 1 then s.setEntry a { s.entry a with trained := true, trainJob := BitVec.ofNat 8 jn }
  else s.setEntry a { s.entry a with trained := false, trainJob := 0#8 }

/-- TAKE (R220). -/
def execTrainTake (job : BitVec 8) (adapter : BitVec 16) (s : State) : Host.Outcome State Fault Refusal :=
  if !s.serves (.trainTake job adapter) then .next s else
  let t := acmdOp s job.toNat adapter.toNat 1
  .next { s with dir := t.dir, regs := t.regs, ret := t.ret }

/-- RELEASE (R220). -/
def execTrainRelease (job : BitVec 8) (adapter : BitVec 16) (s : State) : Host.Outcome State Fault Refusal :=
  if !s.serves (.trainRelease job adapter) then .next s else
  let t := acmdOp s job.toNat adapter.toNat 2
  .next { s with dir := t.dir, regs := t.regs, ret := t.ret }

/-! ## The exchange (R231, R299) -/

/-- Elements of an adapter's gradient (R231). -/
def State.nelem (s : State) (a : Nat) : Nat :=
  let e := s.entry a
  ((e.pairs (s.desc e.model.toNat)).map fun p => p.rank * (p.i + p.o)).sum

/-- The adapters this device has rows for. -/
def Step.adapters (st : Step) : List Nat := st.snaps.map (·.adapter.toNat)

/-- Elements of an adapter's gradient that GOUT or MPOOL forms write: those of the factor pairs whose segment has a row. A segment of
zero rows gives +0 for every element, and no form runs for it (R227, Table 02-6). -/
def State.gradElems (s : State) (jn : Nat) (st : Step) (a : Nat) : Nat :=
  let e := st.snap a
  ((e.pairs (s.desc st.model.toNat)).map fun p =>
    if s.sharedPair st a p.proj ∨ s.segRows jn st a p.proj p.layer p.expert true ≠ [] then p.rank * (p.i + p.o) else 0).sum

/-- Every element of an adapter's gradient that a form writes is in the activation area. -/
def Train.covers (t : Train) (a n : Nat) : Bool :=
  ((t.grads.filter fun p => p.adapter.toNat = a).map fun p => p.k * p.n).sum == n

/-- The backward pass of the attempt has ended on this device: nothing of it runs, and every gradient is there, but for what
a failed row or a POOL unit out of service keeps back. -/
def State.backDone (s : State) (jn : Nat) (st : Step) : Bool :=
  let j := s.job jn
  let quiet := s.forms.all fun (_, f) => !(f.job == some (BitVec.ofNat 8 jn) && descStep f.desc == some (st.num.setWidth 32))
  quiet && st.rowsOver && s.beatsIn jn st &&
    (st.adapters.all (fun a => j.train.covers a (s.gradElems jn st a)) || st.rows.any (fun r => r.fails ≠ []) ||
      (j.pooled && !s.running pgPool))

/-- COLL number of the exchange's collective i: in order from 0, in eight bits. -/
def collNum (i : Nat) : Nat := i % 256

/-- The bitmap of the adapters a device has rows for (65,536 bits). -/
def bitmap (as : List Nat) : List Byte :=
  (List.range 8192).map fun i => BitVec.ofNat 8 (((List.range 8).filter fun b => as.contains (8 * i + b)).map (2 ^ ·)).sum

/-- The adapters set in one of the gathered bitmaps, in increasing id. -/
def fromBitmaps (bs : List Byte) : List Nat :=
  sortBy id (((bs.zipIdx).flatMap fun (b, i) =>
    if b = 0#8 then [] else ((List.range 8).filter b.getLsbD).map fun k => 8 * (i % 8192) + k).dedup)

/-- This device's gradient words of an adapter: +0 where it has none, under the masks of its seat in a pooled job (R245, R246);
and whether a read failed. -/
def State.myGrad (s : State) (jn : Nat) (st : Step) (a : Nat) : List W × Bool :=
  let ps := (s.job jn).train.grads.filter fun p => p.adapter.toNat = a
  let rows := ps.flatMap fun p => (List.range p.k).map fun r =>
    (p.e0 + r * p.width, p.n, s.peek kStaging none (p.addr + 4 * r * p.width) (4 * p.n))
  ((List.range (s.nelem a)).map fun e =>
    match rows.find? fun (lo, n, _) => lo ≤ e && e < lo + n with
    | some (lo, _, r) => BitVec.ofNat 32 (ofLe ((r.data.drop (4 * (e - lo))).take 4))
    | none => if (s.job jn).pooled then s.maskOf jn st a e 0#32 else 0#32, rows.any fun (_, _, r) => r.unc)

/-- The uncorrectable reads of an adapter's gradient are recorded (R280, class 8). -/
def State.noteGrad (s : State) (jn a : Nat) : State :=
  (((s.job jn).train.grads.filter fun p => p.adapter.toNat = a)).foldl (fun (s : State) p =>
    (List.range p.k).foldl (fun (s : State) r =>
      let x := p.addr + 4 * r * p.width
      s.note (s.peek kStaging none x (4 * p.n)) x 8) s) s

/-- The next collective of an attempt's exchange starts; one whose early frames met a failed link has failed already, and the
exchange with it (R231, R242). -/
def State.startExch (s : State) (jn : Nat) (st : Step) : State :=
  let t := (s.job jn).train
  let i := t.exch
  let s := { s with colls := s.colls.filter fun c =>
    !(c.job.toNat = jn && c.step == st.num.setWidth 32 && c.attempt == st.attempt && c.coll.toNat = collNum i && c.result.isSome) }
  let s :=
    if i = 0 then (s.startColl jn (collNum 0) .allgather (bitmap st.adapters)).setTrain jn fun t => { t with phase := 3#3 }
    else if i = 1 then s.startColl jn (collNum 1) .sumI64 (leBytes 8 t.nvalid)
    else
      let a := ((t.updSet[i - 2]?).getD 0#16).toNat
      let (g, bad) := s.myGrad jn st a
      let s := if bad then (s.noteGrad jn a).setTrain jn fun t => { t with uncorrFail := true } else s
      s.startColl jn (collNum i) (if (s.job jn).pooled then .allreduceI32 else .allreduceF32)
        (g.flatMap fun w => leBytes 4 w.toNat)
  match s.coll? jn (st.num.setWidth 32) st.attempt (collNum i) with
  | some v => if v.failed then s.setTrain jn fun t => { t with linkFail := true } else s
  | none => s

/-- Words of a result. -/
def wordsOf (bs : List Byte) : List W := (chunksOf 4 bs.length bs).map fun b => BitVec.ofNat 32 (ofLe b)

/-- A completed collective's result is taken (R231, R246), and the next one starts. -/
def State.takeExch (s : State) (jn : Nat) (st : Step) (b : List Byte) : State :=
  let t := (s.job jn).train
  let i := t.exch
  let s :=
    if i = 0 then s.setTrain jn fun t => { t with updSet := (fromBitmaps b).map (BitVec.ofNat 16) }
    else if i = 1 then s.setTrain jn fun t => { t with nvalidSum := ofLe b }
    else
      let a := ((t.updSet[i - 2]?).getD 0#16).toNat
      let fx : Int := bitsOf (s.poolCfg (s.job jn).circ) 13 8
      let ws := if (s.job jn).pooled then (wordsOf b).map (ofPool fx) else wordsOf b
      let infs := (ws.filter fun g => ofF32 g == .inf false || ofF32 g == .inf true).length
      let s := s.stat jn 3 1 { n := ws.length, over_ := infs, nan := (ws.filter fun g => (ofF32 g).isNan).length, inf := infs }
      s.setTrain jn fun t => { t with sums := tput t.sums a ws }
  let s := s.setTrain jn fun t => { t with exch := i + 1 }
  let t := (s.job jn).train
  if 2 ≤ t.exch ∧ t.exch = 2 + t.updSet.length then s.setTrain jn fun t => { t with exchDone := true, phase := 4#3 }
  else s.startExch jn st

/-- A collective of a train attempt: the exchange begins once the backward pass has ended, and goes on in order (R231). -/
def exchOp (s : State) (jn c : Nat) (st : Step) : State :=
  let t := (s.job jn).train
  if t.exchDone ∨ t.linkFail ∨ c ≠ collNum t.exch then s
  else
    let begun : Bool := match s.coll? jn (st.num.setWidth 32) st.attempt c with | some v => v.started && v.result.isNone | none => false
    if !begun ∧ (0 < t.exch ∨ !s.backDone jn st) then s
    else
      let s := if begun then s else s.startExch jn st
      let s := collectiveDoneOp s jn c
      match (s.coll? jn (st.num.setWidth 32) st.attempt c).bind (·.result) with
      | some b => s.takeExch jn st b
      | none => s

def trainCollOp (s : State) (jn c : Nat) : State :=
  match (s.job jn).isTrain, (s.job jn).cur with
  | true, some st => exchOp s jn c st
  | true, none => s
  | false, some st => if c ≠ 0 ∧ s.sharded jn then gatherOp s jn c st else collectiveDoneOp s jn c
  | false, none => collectiveDoneOp s jn c

/-- COLLECTIVE_DONE (R298). -/
def execCollectiveDone (job coll : BitVec 8) (s : State) : Host.Outcome State Fault Refusal :=
  if !s.serves (.collectiveDone job coll) then .next s else
  let t := trainCollOp s job.toNat coll.toNat
  .next { s with
    colls := t.colls, jobs := t.jobs, ports := t.ports, landing := t.landing, stk := t.stk, log := t.log, logOvf := t.logOvf,
    ctrs := t.ctrs, hdrs := t.hdrs, regs := t.regs }

/-! ## The update port (R232, R233, R391) -/

/-- Header of a message (Table 18-6). -/
def updHdr (type adapter : Nat) (st : Step) : Nat :=
  type + 2 ^ 3 * adapter + 2 ^ 19 * st.num.toNat + 2 ^ 83 * (st.num.toNat % 2) + 2 ^ 84 * st.attempt.toNat

def State.sendUpd (s : State) (hdr : Nat) (data : List W) : State :=
  { s with updOut := s.updOut ++ [{ hdr := BitVec.ofNat 256 hdr, data := BitVec.ofNat 2048 (ofLe (data.flatMap fun w => leBytes 4 w.toNat)) }] }

/-- COMMIT (4) or ABORT (5): ADAPTER 0. -/
def State.sendVerdict (s : State) (st : Step) (commit : Bool) : State :=
  if commit then s.sendUpd (4 + 2 ^ 19 * st.num.toNat + 2 ^ 83 * (st.num.toNat % 2)) [] else s.sendUpd (updHdr 5 0 st) []

/-- A row of a factor in a slot: its first element, its width, its place in the slot. -/
structure SlotRow where
  e0 : Nat
  w : Nat
  off : Nat
deriving DecidableEq, Repr

/-- The factor rows of a slot in element order (R64, R231). -/
def slotRows (f : Nat) (ps : List FactorPair) : List SlotRow :=
  (ps.foldl (fun (acc : List SlotRow × Nat) p =>
    let a := (List.range p.rank).map fun j => { e0 := acc.2 + j * p.i, w := p.i, off := p.offA + j * rowBytes f p.i : SlotRow }
    let e1 := acc.2 + p.rank * p.i
    let b := (List.range p.rank).map fun j => { e0 := e1 + j * p.o, w := p.o, off := p.offB + j * rowBytes f p.o : SlotRow }
    (acc.1 ++ a ++ b, e1 + p.rank * p.o)) ([], 0)).1

def State.rowsOfSlot (s : State) (a : Nat) : List SlotRow :=
  let e := s.entry a
  slotRows e.fmt.toNat (e.pairs (s.desc e.model.toNat))

/-- Blocks of a row: first column and columns. -/
def rowBlocks (w : Nat) : List (Nat × Nat) := (List.range (ceilDiv w 32)).map fun b => (32 * b, min 32 (w - 32 * b))

def pairUp : List W → List W → List W
  | a :: as, b :: bs => a :: b :: pairUp as bs
  | _, _ => []

/-- The GRAD messages of an adapter, in element order, then END (R232, R233). -/
def State.sendGrad (s : State) (jn a : Nat) (st : Step) : State :=
  let e := s.entry a
  let t := (s.job jn).train
  let g := tget [] t.sums a
  let s := (s.rowsOfSlot a).foldl (fun (s : State) r =>
    let m := s.peek kAdapter none (e.liveSlot + r.off) (rowBytes e.fmt.toNat r.w)
    let live := (decRow e.fmt.toNat r.w m.data).map toF32
    let s := if m.unc then (s.note m (e.liveSlot + r.off) 8).setTrain jn fun t => { t with uncorrFail := true } else s
    (rowBlocks r.w).foldl (fun (s : State) (c, n) =>
      s.sendUpd (updHdr 0 a st + 2 ^ 88 * (r.e0 + c) + 2 ^ 120 * n)
        (pairUp ((live.drop c).take n) ((g.drop (r.e0 + c)).take n))) s) s
  s.sendUpd (updHdr 1 a st + 2 ^ 126 * s.nelem a + 2 ^ 158 * min t.nvalidSum (2 ^ 32 - 1) + 2 ^ 190 * t.lsExp.toNat) []

/-- What is held of an adapter's update. -/
def Train.upd? (t : Train) (a : Nat) : Option Upd := t.upds.find? fun u => u.adapter.toNat = a

def State.setUpd (s : State) (jn : Nat) (u : Upd) : State :=
  s.setTrain jn fun t => { t with upds := t.upds.filter (fun v => v.adapter ≠ u.adapter) ++ [u] }

/-- PIN of an entry's idle slot (R72). -/
def DirEntry.idlePin (e : DirEntry) : BitVec 16 := if e.live then e.pinA else e.pinB

def updGradOp (s : State) (jn a : Nat) : State :=
  let j := s.job jn
  let t := j.train
  match j.cur with
  | none => s
  | some st =>
    if !j.isTrain ∨ !t.exchDone ∨ t.linkFail ∨ (t.upd? a).isSome ∨ !t.updSet.any (fun x => x.toNat = a) ∨
        t.updSet.any (fun x => x.toNat < a && (t.upd? x.toNat).isNone) ∨ (s.entry a).idlePin ≠ 0#16 then s
    else
      (s.sendGrad jn a st).setUpd jn { adapter := BitVec.ofNat 16 a, sent := true, endAt := s.lcount, nelem := s.nelem a }

/-- GRAD (R233). -/
def execUpdGrad (job : BitVec 8) (adapter : BitVec 16) (s : State) : Host.Outcome State Fault Refusal :=
  if !s.serves (.updGrad job adapter) then .next s else
  let t := updGradOp s job.toNat adapter.toNat
  .next { s with
    updOut := t.updOut, jobs := t.jobs, stk := t.stk, log := t.log, logOvf := t.logOvf, ret := t.ret, ctrs := t.ctrs,
    hdrs := t.hdrs, regs := t.regs }

/-- A message from the unit that is discarded is counted (R391). -/
def State.updDrop (s : State) : State := s.inc pgTrain 0x220

/-- The job and step that wait for an adapter's ACK: END outstanding, whether or not ERR has been recorded, PARITY as the step's. -/
def State.updFor (s : State) (a parity : Nat) : Option (Nat × Step × Upd) :=
  let jn := (s.entry a).trainJob.toNat
  match (s.job jn).cur, (s.job jn).train.upd? a with
  | some st, some u =>
    if (s.entry a).trained ∧ u.sent ∧ !u.acked ∧ st.num.toNat % 2 = parity then some (jn, st, u) else none
  | _, _ => none

/-- A converted block of an idle slot: FMT under R35, at its place, under the entry's key (R233). -/
def State.writeBlock (s : State) (jn a : Nat) (r : SlotRow) (c n : Nat) (ws : List W) : State :=
  let e := s.entry a
  let f := e.fmt.toNat
  let vs := ws.map ofF32
  let bs := encRow f vs
  let s := s.stat jn 4 f (countRow f vs)
  let base := e.idleSlot + r.off
  let put (s : State) (x : Nat) (bs : List Byte) : State :=
    let (s, lost) := s.poke kAdapter none x bs
    if lost then s.setTrain jn fun t => { t with uncorrFail := true } else s
  if f = 2 then put s (base + 2 * c) bs
  else
    let el := if f = 5 then ceilDiv n 2 else n
    let s := put s (base + (if f = 5 then c / 2 else c)) (bs.take el)
    put s (base + (if f = 5 then ceilDiv r.w 2 else r.w) + c / 32) (bs.drop el)

/-- The blocks of a slot that meet elements [lo, hi). -/
def blocksMeeting (rows : List SlotRow) (lo hi : Nat) : List (SlotRow × Nat × Nat) :=
  (rows.filter fun r => r.e0 < hi && lo < r.e0 + r.w).flatMap fun r =>
    ((rowBlocks r.w).filter fun (c, n) => r.e0 + c < hi && lo < r.e0 + c + n).map fun (c, n) => (r, c, n)

/-- WRITE: of a configuration without the port, nothing (R399). -/
def updWriteOp (s : State) (hdr : BitVec 256) (data : BitVec 1024) : State :=
  if !s.part.hasTrain then s else
  let a := bitsOf hdr 18 3
  let e0 := bitsOf hdr 119 88
  let n := bitsOf hdr 125 120
  if bitsOf hdr 2 0 ≠ 2 ∨ bitsOf hdr 255 199 ≠ 0 ∨ n = 0 ∨ 32 < n then s.updDrop
  else match s.updFor a (bitsOf hdr 83 83) with
    | none => s.updDrop
    | some (jn, _, u) =>
      if u.nelem < e0 + n ∨ (List.range n).any (fun i => (tget? u.written (e0 + i)).isSome) then
        s.setUpd jn { u with ack := some false }
      else
        let ws := (List.range n).map fun i => (data >>> (32 * i)).setWidth 32
        let written := (ws.zipIdx).foldl (fun t (w, i) => tput t (e0 + i) w) u.written
        let s := s.setUpd jn { u with written := written }
        (blocksMeeting (s.rowsOfSlot a) e0 (e0 + n)).foldl (fun (s : State) (r, c, k) =>
          let vs := (List.range k).map fun i => tget? written (r.e0 + c + i)
          if vs.all (·.isSome) then s.writeBlock jn a r c k (vs.map (·.getD 0#32)) else s) s

/-- WRITE (R233, R391). -/
def execUpdWrite (hdr : BitVec 256) (data : BitVec 1024) (s : State) : Host.Outcome State Fault Refusal :=
  if !s.serves (.updWrite hdr data) then .next s else
  let t := updWriteOp s hdr data
  .next { s with mem := t.mem, uncorr := t.uncorr, jobs := t.jobs, ctrs := t.ctrs, hdrs := t.hdrs, regs := t.regs }

/-- ACK: of a step or attempt whose END is not outstanding, discarded (DEDUCED, log 175). An ERR recorded before it stays. -/
def updAckOp (s : State) (hdr : BitVec 256) : State :=
  if !s.part.hasTrain then s else
  let a := bitsOf hdr 18 3
  if bitsOf hdr 2 0 ≠ 3 ∨ bitsOf hdr 255 199 ≠ 0 then s.updDrop
  else match s.updFor a (bitsOf hdr 83 83) with
    | none => s.updDrop
    | some (jn, st, u) =>
      if bitsOf hdr 82 19 ≠ st.num.toNat ∨ bitsOf hdr 87 84 ≠ st.attempt.toNat then s.updDrop
      else s.setUpd jn { u with
        acked := true
        ack := if u.ack == some false then some false else some (bitsOf hdr 198 198 = 0 && u.written.length = u.nelem) }

/-- ACK (R233, R391). -/
def execUpdAck (hdr : BitVec 256) (s : State) : Host.Outcome State Fault Refusal :=
  if !s.serves (.updAck hdr) then .next s else
  let t := updAckOp s hdr
  .next { s with jobs := t.jobs, ctrs := t.ctrs, hdrs := t.hdrs, regs := t.regs }

def trainUpdTimeoutOp (s : State) (jn a : Nat) : State :=
  match (s.job jn).cur, (s.job jn).train.upd? a with
  | some _, some u =>
    if u.sent ∧ u.ack.isNone ∧ u.endAt.toNat + (s.rd pgTrain 0x05C).toNat ≤ s.lcount.toNat then
      s.setUpd jn { u with ack := some false }
    else s
  | _, _ => s

/-- TRAIN_UPD_TIMEOUT (R233). -/
def execTrainUpdTimeout (job : BitVec 8) (adapter : BitVec 16) (s : State) : Host.Outcome State Fault Refusal :=
  if !s.serves (.trainUpdTimeout job adapter) then .next s else
  .next { s with jobs := (trainUpdTimeoutOp s job.toNat adapter.toNat).jobs }

/-! ## Applying a decision (R236 to R240) -/

/-- LS_EXP and RUN after a decision (R240). -/
def Train.scale (t : Train) (j : Job) (commit : Bool) : Train :=
  let x := t.lsExp.toInt
  if commit then
    if j.growRun ≤ t.run.toNat + 1 then { t with lsExp := BitVec.ofInt 8 (min (x + 1) j.lsMax), run := 0#8 }
    else { t with run := t.run + 1#8 }
  else { t with lsExp := BitVec.ofInt 8 (max (x - 1) j.lsMin), run := 0#8 }

/-- The decision is recorded in TRAIN_JSTATUS and TRAIN_LSTEP (R235, R236). -/
def State.recordDecision (s : State) (jn : Nat) (st : Step) (d : Decision) : State :=
  s.setTrain jn fun t => { t with
    last := if d.commit then 1#2 else 2#2, lastNan := !d.commit && d.reasons.getLsbD 0, lastAttempt := st.attempt,
    lstep := st.num, lastReasons := d.reasons }

/-- The commit sweep: every adapter of the update set (R237, R71, R77). -/
def State.sweepCommit (s : State) (as : List (BitVec 16)) : State :=
  as.foldl (fun (s : State) a =>
    let e := s.entry a.toNat
    if e.st = .free then s else s.setEntry a.toNat (e.flip false)) s

def State.resetBeacons (s : State) (base : Nat) : State :=
  { s with beacons := (List.range 16).foldl (fun t i => tdel t (base + i)) s.beacons }

/-- The counters and events of a decision applied. -/
def State.countVerdict (s : State) (jn : Nat) (d : Decision) : State :=
  let nan : Bool := !d.commit && d.reasons.getLsbD 0
  let s := s.inc pgTrain (if d.commit then 0x200 else 0x208)
  let s := if d.commit then s else s.raise pgTrain 0
  let s := if nan then (s.inc pgTrain 0x210).raise pgTrain 1 else s
  if (s.job jn).pooled then s.inc pgPool 0x218 else s

/-- The decision on the attempt in flight is applied (R237, R238). -/
def State.applyDecision (s : State) (jn : Nat) (d : Decision) : State :=
  let j := s.job jn
  match j.cur with
  | none => s
  | some st =>
    let s := s.recordDecision jn st d
    let s := if d.commit then s.sweepCommit j.train.updSet else s
    let s := (s.sendVerdict st d.commit).countVerdict jn d
    let n := (j.train.attempt + 1#4)
    let stuck : Bool := !d.commit && j.replayMax ≤ n.toNat
    let s := s.setTrain jn fun t => { (t.scale j d.commit) with
      attempt := if d.commit then 0#4 else n, stuck := t.stuck || stuck, lastStats := t.stats, phase := 0#3
      myVote := none, decided := none, replay := if d.commit then none else some (st.named.map (·.slot)) }
    let s := if stuck then s.raise pgTrain 3 else s
    let s := if d.commit then s.setJob jn { s.job jn with next := j.next + 1#64 } else s.resetBeacons j.beaconBase
    s.closeStep jn (some (d.commit, !d.commit && d.reasons.getLsbD 0))

/-! ## Votes (R234 to R236, R302) -/

def ctrlFrame (s : State) (jn dst kind : Nat) (num : BitVec 64) (attempt : BitVec 4) (w : Nat) : State :=
  s.sendFrame { type := tCtrl, src := s.devid, dst := s.deviceOf jn dst, job := jn, attempt := attempt.toNat,
                step := num.toNat % 2 ^ 32, len := 7 } (leBytes 4 kind ++ leBytes 4 w)

/-- A vote joins rank 0's. -/
def State.holdVote (s : State) (jn : Nat) (v : VoteRec) : State :=
  s.setTrain jn fun t => { t with votes := t.votes.filter (fun x => x.rank ≠ v.rank) ++ [v] }

/-- The decision rank 0 can take from the votes it holds (R235). -/
def Train.verdict (t : Train) (ndev : Nat) : Option Decision :=
  let or_ := t.votes.foldl (fun w v => w ||| v.reasons) 0#8
  if t.votes.any (fun v => v.reasons ≠ 0#8) then some { commit := false, reasons := or_ }
  else if (List.range ndev).all (fun r => t.votes.any fun v => v.rank.toNat = r) then some { commit := true, reasons := 0#8 }
  else none

/-- Rank 0 records its decision, sends it, and applies it once it has voted itself (R235). -/
def State.decide0 (s : State) (jn : Nat) (st : Step) (d : Decision) : State :=
  let s := s.recordDecision jn st d
  let s := ((List.range (s.job jn).ndev).filter (· ≠ 0)).foldl (fun (s : State) r =>
    ctrlFrame s jn r 2 st.num st.attempt (b2n (!d.commit) + 2 ^ 8 * d.reasons.toNat)) s
  if (s.job jn).train.myVote.isSome then s.applyDecision jn d
  else s.setTrain jn fun t => { t with decided := some d }

/-- Rank 0 decides if it can and has not. -/
def State.tryDecide (s : State) (jn : Nat) (st : Step) : State :=
  if (s.job jn).train.decided.isSome then s
  else match (s.job jn).train.verdict (s.job jn).ndev with
    | some d => s.decide0 jn st d
    | none => s

/-- The reason mask of a device's vote (R234). -/
def State.voteReasons (s : State) (jn : Nat) (st : Step) : BitVec 8 :=
  let j := s.job jn
  let t := j.train
  let span := t.updSet.any fun a => (s.entry a.toNat).spanBroken
  let off := !s.running pgTrain || (j.pooled && !s.running pgPool)
  BitVec.ofNat 8 (b2n t.nanFlag + 2 * b2n (st.rows.any (fun r => r.fails ≠ []) || t.uncorrFail) +
    4 * b2n (t.upds.any fun u => u.ack == some false) + 8 * b2n span + 16 * b2n t.linkFail + 32 * b2n off)

/-- Its exchange has ended, by completion or failure, and every update is acknowledged or in error (R234). -/
def Train.mayVote (t : Train) : Bool :=
  t.myVote.isNone && (t.exchDone || t.linkFail) &&
    (t.linkFail || t.updSet.all fun a => (t.upd? a.toNat).isSome) && t.upds.all fun u => u.ack.isSome

def voteOp (s : State) (jn : Nat) : State :=
  let j := s.job jn
  match j.cur with
  | none => s
  | some st =>
    if !j.isTrain ∨ !j.train.mayVote ∨ !s.backDone jn st then s
    else
      let m := s.voteReasons jn st
      let v : VoteRec := { rank := BitVec.ofNat 10 j.rank, nan := j.train.nanFlag, reasons := m }
      let s := s.setStep jn { st with st := .voting }
      let s := s.setTrain jn fun t => { t with myVote := some v, voteAt := s.lcount, phase := 5#3 }
      if j.ndev = 1 then s.applyDecision jn { commit := m = 0#8, reasons := m }
      else if j.rank = 0 then
        match j.train.decided with
        | some d => s.applyDecision jn d
        | none => (s.holdVote jn v).tryDecide jn st
      else
        let s := ctrlFrame s jn 0 1 st.num st.attempt (j.rank + 2 ^ 10 * b2n v.nan + 2 ^ 16 * m.toNat)
        if m = 0#8 then s else s.applyDecision jn { commit := false, reasons := m }

/-- What the rows that can apply a decision change. -/
def decisionFrame (s t : State) : State :=
  { s with
    jobs := t.jobs, slots := t.slots, dir := t.dir, mem := t.mem, uncorr := t.uncorr, prefixes := t.prefixes,
    stamps := t.stamps, tcache := t.tcache, granules := t.granules, orphans := t.orphans, colls := t.colls, host := t.host,
    readQ := t.readQ, hostReads := t.hostReads, writeQ := t.writeQ, hostWrites := t.hostWrites, forms := t.forms, cmds := t.cmds, landUse := t.landUse,
    used := t.used, overruns := t.overruns, debt := t.debt, gated := t.gated, domIdle := t.domIdle, staging := t.staging,
    stagedKeys := t.stagedKeys, stk := t.stk, log := t.log, logOvf := t.logOvf, ret := t.ret, beacons := t.beacons,
    updOut := t.updOut, ports := t.ports, ctrlIn := t.ctrlIn, late := t.late, ctrs := t.ctrs, hdrs := t.hdrs, regs := t.regs }

/-- VOTE (R234). -/
def execVote (job : BitVec 8) (s : State) : Host.Outcome State Fault Refusal :=
  if !s.serves (.vote job) then .next s else
  .next (decisionFrame s (voteOp s job.toNat))


/-- A message names the attempt in flight. -/
def CtrlIn.current (m : CtrlIn) (st : Step) : Bool := m.step == st.num.setWidth 32 && m.attempt == st.attempt

/-- A message of an attempt that the job has still to form waits for it. -/
def State.ctrlWaits (s : State) (jn : Nat) (m : CtrlIn) : Bool :=
  !s.staleKey jn m.step m.attempt.toNat && (s.job jn).cur.all fun st => !m.current st

/-- A message whose attempt has ended is discarded and counted (R297). -/
def State.ctrlStale (s : State) (m : CtrlIn) : State := s.inc (pgLink m.port.toNat) 0x220

def CtrlMsg.isVote : CtrlMsg → Bool
  | .vote _ => true
  | _ => false

def CtrlMsg.isAsk : CtrlMsg → Bool
  | .ask _ => true
  | _ => false

def CtrlMsg.isDecision : CtrlMsg → Bool
  | .decision _ => true
  | _ => false

def voteFrameOp (s : State) (jn : Nat) : State :=
  match s.ctrlIn.find? fun m => m.job.toNat = jn && m.msg.isVote && !s.ctrlWaits jn m with
  | none => s
  | some m =>
    let t := { s with ctrlIn := s.ctrlIn.erase m }
    match m.msg, (s.job jn).cur with
    | .vote v, some st =>
      if !m.current st then t.ctrlStale m
      else if (s.job jn).isTrain ∧ (s.job jn).rank = 0 then (t.holdVote jn v).tryDecide jn st else t
    | _, _ => t.ctrlStale m

/-- VOTE_FRAME (R235). -/
def execVoteFrame (job : BitVec 8) (s : State) : Host.Outcome State Fault Refusal :=
  if !s.serves (.voteFrame job) then .next s else
  .next (decisionFrame s (voteFrameOp s job.toNat))

def trainVoteTimeoutOp (s : State) (jn : Nat) : State :=
  let j := s.job jn
  match j.cur with
  | none => s
  | some st =>
    if j.isTrain ∧ 1 < j.ndev ∧ j.rank = 0 ∧ j.train.myVote.isSome ∧
        j.train.voteAt.toNat + (s.rd pgTrain 0x054).toNat ≤ s.lcount.toNat then
      s.decide0 jn st { commit := false, reasons := j.train.votes.foldl (fun w v => w ||| v.reasons) 0#8 }
    else s

/-- TRAIN_VOTE_TIMEOUT (R235). -/
def execTrainVoteTimeout (job : BitVec 8) (s : State) : Host.Outcome State Fault Refusal :=
  if !s.serves (.trainVoteTimeout job) then .next s else
  .next (decisionFrame s (trainVoteTimeoutOp s job.toNat))

def decisionOp (s : State) (jn : Nat) : State :=
  match s.ctrlIn.find? fun m => m.job.toNat = jn && m.msg.isDecision && !s.ctrlWaits jn m with
  | none => s
  | some m =>
    let t := { s with ctrlIn := s.ctrlIn.erase m }
    match m.msg, (s.job jn).cur with
    | .decision d, some st =>
      if !m.current st then t.ctrlStale m else if (s.job jn).train.myVote.isNone then s else t.applyDecision jn d
    | _, _ => t.ctrlStale m

/-- DECISION (R236). -/
def execDecision (job : BitVec 8) (s : State) : Host.Outcome State Fault Refusal :=
  if !s.serves (.decision job) then .next s else
  .next (decisionFrame s (decisionOp s job.toNat))

/-- The device asks rank 0 for the decision. -/
def State.askDecision (s : State) (jn : Nat) (st : Step) : State :=
  let s := s.setTrain jn fun t => { t with askAt := s.lcount, phase := 6#3 }
  if (s.job jn).rank = 0 then s else ctrlFrame s jn 0 3 st.num st.attempt (s.job jn).rank

def trainDecideTimeoutOp (s : State) (jn : Nat) : State :=
  let j := s.job jn
  let t := j.train
  let lim := (s.rd pgTrain 0x058).toNat
  match j.cur, t.myVote with
  | some st, some v =>
    if v.reasons ≠ 0#8 then s
    else if t.phase = 6#3 then (if t.askAt.toNat + lim ≤ s.lcount.toNat then s.askDecision jn st else s)
    else if t.voteAt.toNat + lim ≤ s.lcount.toNat then ((s.inc pgTrain 0x218).raise pgTrain 2).askDecision jn st
    else s
  | _, _ => s

/-- TRAIN_DECIDE_TIMEOUT (R236). -/
def execTrainDecideTimeout (job : BitVec 8) (s : State) : Host.Outcome State Fault Refusal :=
  if !s.serves (.trainDecideTimeout job) then .next s else
  let t := trainDecideTimeoutOp s job.toNat
  .next { s with jobs := t.jobs, ports := t.ports, ctrs := t.ctrs, hdrs := t.hdrs, regs := t.regs }

/-- Rank 0 answers with the decision it recorded, if it is on the step and attempt asked of (R302). -/
def askOp (s : State) (jn : Nat) : State :=
  match s.ctrlIn.find? fun m => m.job.toNat = jn && m.msg.isAsk with
  | none => s
  | some m =>
    let s := { s with ctrlIn := s.ctrlIn.erase m }
    let t := (s.job jn).train
    match m.msg with
    | .ask r =>
      if (s.job jn).rank = 0 ∧ t.last ≠ 0#2 ∧ m.step = t.lstep.setWidth 32 ∧ m.attempt = t.lastAttempt then
        ctrlFrame s jn r.toNat 2 t.lstep t.lastAttempt (b2n (t.last == 2#2) + 2 ^ 8 * t.lastReasons.toNat)
      else s
    | _ => s

/-- ASK (R302). -/
def execAsk (job : BitVec 8) (s : State) : Host.Outcome State Fault Refusal :=
  if !s.serves (.ask job) then .next s else
  let t := askOp s job.toNat
  .next { s with ctrlIn := t.ctrlIn, ports := t.ports, ctrs := t.ctrs, hdrs := t.hdrs, regs := t.regs }

/-! ## TRAIN_RESOLVE (R236, R239) -/

/-- OP COMMIT or ABORT on an in-doubt device; anywhere else ERR_COUNT advances. -/
def resolveOp (s : State) (jn : Nat) (commit : Bool) : State :=
  if (s.job jn).train.phase = 6#3 then s.applyDecision jn { commit := commit, reasons := 0#8 } else s.errInc pgTrain

/-- RESOLVE_COMMIT (R236). -/
def execResolveCommit (job : BitVec 8) (s : State) : Host.Outcome State Fault Refusal :=
  if !s.serves (.resolveCommit job) then .next s else
  .next (decisionFrame s (resolveOp s job.toNat true))

/-- RESOLVE_ABORT (R236). -/
def execResolveAbort (job : BitVec 8) (s : State) : Host.Outcome State Fault Refusal :=
  if !s.serves (.resolveAbort job) then .next s else
  .next (decisionFrame s (resolveOp s job.toNat false))

def trainRetryOp (s : State) (jn : Nat) : State :=
  if (s.job jn).train.stuck then s.setTrain jn fun t => { t with stuck := false, attempt := 0#4 } else s.errInc pgTrain

/-- RETRY (R239). -/
def execTrainRetry (job : BitVec 8) (s : State) : Host.Outcome State Fault Refusal :=
  if !s.serves (.trainRetry job) then .next s else
  let t := trainRetryOp s job.toNat
  .next { s with jobs := t.jobs, hdrs := t.hdrs }

end Sys2Proof.Machine
end

