-- ==== Sys2Proof/Machine/Intake.lean ====
section
/-! DEFINITION. Weight intake: containers, conversion and layout, adapter intake, base models and the wavefront
(11_weight_intake.md R249 to R266; 12_memory.md R281, class 3). -/
namespace Sys2Proof.Machine

/-! ## Reasons (R266) -/

def rMissing : Nat := 1
def rHdr : Nat := 2
def rManifest : Nat := 3
def rAuth : Nat := 4
def rMalformed : Nat := 5
def rFmt : Nat := 6
def rShape : Nat := 7
def rStream : Nat := 8
def rGen : Nat := 9
def rShard : Nat := 0xA
def rSpace : Nat := 0xB
def rMem : Nat := 0xC
def rBadState : Nat := 0xD
def rBusy : Nat := 0xE
def rDisabled : Nat := 0xF

/-! ## Containers (R249, R250) -/

/-- A manifest entry (Table 11-2), with its number in its manifest. -/
structure ManEntry where
  x : Nat
  kind : Nat
  layer : Nat
  expert : Nat
  proj : Nat
  fmt : Nat
  comp : Nat
  rows : Nat
  cols : Nat
  addr : Nat
  len : Nat
  row0 : Nat
deriving DecidableEq, Repr

def manEntry (b : List Byte) (x : Nat) : ManEntry :=
  let w (i : Nat) : W := descWord b (32 * x + i)
  { x := x, kind := bitsOf (w 0) 7 0, layer := bitsOf (w 0) 15 8, expert := bitsOf (w 0) 23 16, proj := bitsOf (w 0) 27 24,
    fmt := bitsOf (w 4) 7 0, comp := bitsOf (w 4) 11 8, rows := bitsOf (w 8) 18 0, cols := bitsOf (w 0xC) 18 0,
    addr := (w 0x10).toNat + 2 ^ 32 * (w 0x14).toNat, len := (w 0x18).toNat, row0 := bitsOf (w 0x1C) 18 0 }

def isFactorKind (k : Nat) : Bool := k == 0x20 || k == 0x21
def perLayer (k proj : Nat) : Bool := (0x11 ≤ k && k ≤ 0x1B) || (isFactorKind k && proj ≠ 8)

/-- A tensor of its own for every expert: gate, up and down, and their factors, where the model, or the adapter, has experts
(Table 11-2, R64). -/
def perExpert (routed : Bool) (k proj : Nat) : Bool :=
  routed && ((0x17 ≤ k && k ≤ 0x19) || (isFactorKind k && 4 ≤ proj && proj ≤ 6))

/-- A reserved value or encoding stands in an entry (R249). -/
def ManEntry.bad (b : List Byte) (adapter routed : Bool) (e : ManEntry) : Bool :=
  let w (i : Nat) : W := descWord b (32 * e.x + i)
  bitsOf (w 0) 31 28 ≠ 0 || bitsOf (w 4) 31 12 ≠ 0 || bitsOf (w 8) 31 19 ≠ 0 || bitsOf (w 0xC) 31 19 ≠ 0 ||
    bitsOf (w 0x1C) 31 19 ≠ 0 || !((0x10 ≤ e.kind && e.kind ≤ 0x1D) || isFactorKind e.kind) || 127 < e.layer ||
    (!perLayer e.kind e.proj && e.layer ≠ 0) || 254 < e.expert || (!perExpert routed e.kind e.proj && e.expert ≠ 0) ||
    (if isFactorKind e.kind then decide (8 < e.proj) else e.proj ≠ 0) ||
    !((1 ≤ e.fmt && e.fmt ≤ 8) || e.fmt = 0x10 || e.fmt = 0x11) || 1 < e.comp ||
    e.rows = 0 || 262144 < e.rows || e.cols = 0 || 262144 < e.cols || (adapter && e.row0 ≠ 0)

/-- SRC_FMT or COMP cannot be taken (Table 11-2, R253). -/
def ManEntry.fmtBad (e : ManEntry) : Bool := 8 ≤ e.fmt || (e.comp = 1 && 2 < e.fmt)

/-! ## Fetching (R266) -/

/-- What a fetch answers, or its fault. -/
abbrev Fetched (α : Type) : Type := Except Nat α

def Fetched.fail {α : Type} (r : Nat) : Fetched α := .error r

def Fetched.ok {α : Type} (a : α) : Fetched α := Except.ok a

/-- One fetch after another: the first fault ends them. -/
def Fetched.andThen {α β : Type} (x : Fetched α) (f : α → Fetched β) : Fetched β :=
  match x with
  | .error r => Fetched.fail r
  | .ok a => f a

/-- Bytes of host memory, or MISSING. -/
def State.fetch (s : State) (a n : Nat) : Fetched (List Byte) :=
  match s.hostRead a n with
  | none => Fetched.fail rMissing
  | some b => Fetched.ok b

/-- A part of a container (Table 11-1), with the host address of its header. -/
structure Part0 where
  at_ : Nat
  kind : Nat
  model : Nat
  part : Nat
  gen : W
  shard : Nat
  nshards : Nat
  first : Nat
  last : Nat
  next : Nat
  cmacLo : Nat
  entries : List ManEntry
  desc : List Byte
deriving DecidableEq, Repr

/-- A part's header, manifest and descriptor, checked; `key` is the slot an adapter's CMAC is checked under (R252), `routed`
tells whether gate, up and down are per expert (none: the part's own descriptor tells). -/
def State.readPart (s : State) (a : Nat) (key : Option KeySlot) (routed : Option Bool) : Fetched Part0 :=
  (s.fetch a 64).andThen fun h =>
    let w (i : Nat) : W := descWord h i
    if w 0 ≠ 0x4E564E44#32 ∨ bitsOf (w 4) 7 0 ≠ 1 ∨ crc32 (h.take 0x3C) ≠ w 0x3C then Fetched.fail rHdr
    else
      let kind := bitsOf (w 4) 15 8
      let n := bitsOf (w 0x18) 15 0
      let part := bitsOf (w 8) 15 8
      let sh := bitsOf (w 0x10) 15 0
      let ns := bitsOf (w 0x10) 31 16
      let first := bitsOf (w 0x14) 7 0
      let last := bitsOf (w 0x14) 15 8
      let adapter := kind = 2
      let res := bitsOf (w 4) 31 16 ≠ 0 ∨ bitsOf (w 8) 31 16 ≠ 0 ∨ bitsOf (w 0x14) 31 16 ≠ 0 ∨ bitsOf (w 0x18) 31 16 ≠ 0 ∨
        w 0x1C ≠ 0#32 ∨ kind = 0 ∨ 3 < kind ∨ n = 0 ∨ ns = 0 ∨ 1024 < ns ∨ ns ≤ sh ∨
        (adapter ∧ (w 0xC ≠ 0#32 ∨ first ≠ 0 ∨ last ≠ 0)) ∨
        (!adapter ∧ (ofLe ((h.drop 0x2C).take 16) ≠ 0 ∨ last < first))
      if res then Fetched.fail rMalformed
      else
        let dn := if part = 0 ∧ !adapter then 256 else 0
        (s.fetch (a + 64) (32 * n + dn)).andThen fun b =>
          let man := b.take (32 * n)
          let desc := b.drop (32 * n)
          if crc32 b ≠ w 0x28 ∨ (dn ≠ 0 ∧ crc32 (desc.take 0xFC) ≠ descWord desc 0xFC) then Fetched.fail rManifest
          else
            let tag := (h.drop 0x2C).take 16
            let auth : Bool := match key with | some k => cmac (keyBytes k.dcmc) (h.take 0x2C ++ man) == tag | none => false
            if adapter ∧ key.isSome ∧ !auth then Fetched.fail rAuth
            else
              let es := (List.range n).map (manEntry man)
              if es.any (·.bad man adapter (routed.getD (decide ((decodeDesc desc).experts ≠ 0)))) then Fetched.fail rMalformed
              else .ok { at_ := a, kind := kind, model := bitsOf (w 8) 7 0, part := part, gen := w 0xC, shard := sh, nshards := ns,
                         first := first, last := last, next := (w 0x20).toNat + 2 ^ 32 * (w 0x24).toNat,
                         cmacLo := ofLe (tag.take 8), entries := es, desc := desc }

/-- The parts of a chain from an address on (PART counts from `idx`). -/
def State.readChain (s : State) (key : Option KeySlot) (routed : Option Bool) : Nat → Nat → Nat → Fetched (List Part0)
  | 0, _, _ => Fetched.fail rMalformed
  | fuel + 1, idx, a =>
    (s.readPart a key routed).andThen fun p =>
      if p.part ≠ idx then Fetched.fail rMalformed
      else if p.next = 0 then .ok [p]
      else (s.readChain key routed fuel (idx + 1) p.next).andThen fun ps => .ok (p :: ps)

/-- The parts of a chain that a station needs: from part 0 to the last part that begins at or before it (R251, R263). -/
def State.partsTo (s : State) (p0 : Part0) (routed : Bool) (k : Nat) : Nat → Nat → Nat → Fetched (List Part0)
  | 0, _, _ => Fetched.fail rShape
  | fuel + 1, idx, a =>
    (s.readPart a none (some routed)).andThen fun p =>
      if p.part ≠ idx ∨ p.kind ≠ p0.kind ∨ p.model ≠ p0.model ∨ p.gen ≠ p0.gen then Fetched.fail rMalformed
      else if p.shard ≠ p0.shard ∨ p.nshards ≠ p0.nshards then Fetched.fail rShard
      else if k < p.last ∨ p.next = 0 then .ok [p]
      else (s.partsTo p0 routed k fuel (idx + 1) p.next).andThen fun ps => .ok (p :: ps)

/-- Parts as one: their manifests joined. -/
def joinParts (p0 : Part0) (ps : List Part0) : Part0 := { p0 with entries := ps.flatMap (·.entries) }

/-! ## Host reads of a fetch (R263, R386) -/

/-- A read of a fetch: one request's bytes. The last of a record names its entry, with its part's counter word. -/
structure FetchPiece where
  addr : Nat
  len : Nat
  rec_ : Option (Nat × ManEntry) := none
deriving DecidableEq

/-- The reads of bytes [a, a+n), none across a 4 KiB boundary. -/
def fetchPieces (a n : Nat) (r : Option (Nat × ManEntry)) : List FetchPiece :=
  if n = 0 then []
  else
    let k := ceilDiv (a % 4096 + n) 4096
    (List.range k).map fun i =>
      let lo := if i = 0 then a else (a / 4096 + i) * 4096
      { addr := lo, len := min (a + n) ((a / 4096 + i + 1) * 4096) - lo, rec_ := if i + 1 = k then r else none }

/-- The reads of a part's header and, once the header stands, of its manifest and descriptor. -/
def State.headPieces (s : State) (a : Nat) : List FetchPiece :=
  let h := mread s.host a 64
  let w (i : Nat) : W := descWord h i
  let dn := if bitsOf (w 8) 15 8 = 0 ∧ bitsOf (w 4) 15 8 ≠ 2 then 256 else 0
  fetchPieces a 64 none ++
    (if w 0 = 0x4E564E44#32 ∧ crc32 (h.take 0x3C) = w 0x3C then fetchPieces (a + 64) (32 * bitsOf (w 0x18) 15 0 + dn) none else [])

/-- The reads of a chain's parts, as far as the parts that stand name the next, up to one that meets `last`. -/
def State.chainPieces (s : State) (key : Option KeySlot) (routed : Option Bool) (last : Part0 → Bool) : Nat → Nat → List FetchPiece
  | 0, _ => []
  | fuel + 1, a =>
    s.headPieces a ++
      match s.readPart a key routed with
      | .ok p => if p.next = 0 ∨ last p then [] else s.chainPieces key routed last fuel p.next
      | .error _ => []

/-- The reads of the records a list of parts holds, in the parts' order. -/
def recordPieces (ps : List Part0) (want : ManEntry → Bool) : List FetchPiece :=
  ps.flatMap fun p => (p.entries.filter want).flatMap fun e => fetchPieces e.addr e.len (some (p.cmacLo, e))

/-! ## The model descriptor (R251) -/

def descMalformed (d : List Byte) : Bool :=
  let m := decodeDesc d
  let w := descWord d
  bitsOf (w 0) 31 21 ≠ 0 || bitsOf (w 4) 31 18 ≠ 0 || bitsOf (w 8) 31 18 ≠ 0 || bitsOf (w 0xC) 31 19 ≠ 0 ||
    bitsOf (w 0x10) 31 18 ≠ 0 || bitsOf (w 0x30) 31 15 ≠ 0 || ((d.drop 0x34).take 0xC8).any (· ≠ 0#8) ||
    262144 < m.vocab || (m.experts = 0 && m.route ≠ 0) || (m.experts ≠ 0 && (m.route = 0 || 8 < m.route)) || 2 < m.dsel ||
    (m.layers ≤ 128 && (m.swmask >>> m.layers) ≠ 0#128) || (m.swmask = 0#128 && m.window ≠ 0)

def descShapeBad (d : List Byte) : Bool :=
  let m := decodeDesc d
  m.layers = 0 || 128 < m.layers || m.dModel = 0 || m.dModel % 32 ≠ 0 || m.mlp = 0 || m.mlp % 32 ≠ 0 || m.vocab = 0 ||
    m.hkv = 0 || 128 < m.hkv || m.g = 0 || 128 < m.g || 512 < m.hq ||
    !((ofF32 m.ropeBase).isFinite && Val.lt (Val.ofInt 1) (ofF32 m.ropeBase)) ||
    (m.swmask ≠ 0#128 && (m.window = 0 || 16384 < m.window))

/-! ## Records (R253, R254) -/

/-- Two's complement of w bits. -/
def signed (w v : Nat) : Int := if 2 ^ (w - 1) ≤ v then (v : Int) - 2 ^ w else v

/-- The groups of a zero-run block-float stream; none for a fault of the stream. -/
def decodeStream : Nat → Nat → List Byte → Option (List Val)
  | _, 0, bs => if bs = [] then some [] else none
  | 0, _ + 1, _ => none
  | _ + 1, _ + 1, [] => none
  | fuel + 1, left + 1, c :: rest =>
    let c := c.toNat
    if 0x80 ≤ c then
      let n := c % 128 + 1
      if left + 1 < n then none
      else (decodeStream fuel (left + 1 - n) rest).map (List.replicate (32 * n) Val.zero ++ ·)
    else if c = 0 ∨ 0x18 < c ∨ rest.length < 1 + 4 * c then none
    else
      let e := (rest.headD 0#8).toNat
      if e = 255 then none
      else
        let m := ofLe ((rest.drop 1).take (4 * c))
        let vs := (List.range 32).map fun i =>
          ofF32 (toF32 ((Val.ofInt (signed c (m / 2 ^ (c * i) % 2 ^ c))).scale ((e : Int) - 127)))
        (decodeStream fuel left (rest.drop (1 + 4 * c))).map (vs ++ ·)

/-- Bytes of a row of w elements in a source format. -/
def srcRowLen (code w : Nat) : Nat := if code = 7 then w else rowLen code w

def srcRow (code w : Nat) (bs : List Byte) : List Val := if code = 7 then bs.map ofE4m3 else decRow code w bs

/-- A row of a record: its values, and its MX blocks where the source is stored as the weights are. -/
structure RecRow where
  vals : List Val
  raw : Option (List (Byte × List Byte))
deriving DecidableEq, Repr

/-- MX blocks of a row of MXFP8 E4M3 bytes. -/
def rawBlocks (w : Nat) (bs : List Byte) : List (Byte × List Byte) :=
  ((chunksOf 32 w (bs.take w)).zipIdx).map fun (es, i) => (bs.getD (w + i) 0#8, es)

/-- A record's rows, or its fault. -/
def decodeRecord (e : ManEntry) (bs : List Byte) : Except Nat (List RecRow) :=
  if e.comp = 1 then
    match decodeStream bs.length (ceilDiv (e.rows * e.cols) 32) bs with
    | none => .error rStream
    | some vs => .ok ((List.range e.rows).map fun r => { vals := (vs.drop (r * e.cols)).take e.cols, raw := none })
  else
    let n := srcRowLen e.fmt e.cols
    if e.len ≠ e.rows * n then .error rStream
    else .ok ((List.range e.rows).map fun r =>
      let b := (bs.drop (r * n)).take n
      { vals := (srcRow e.fmt e.cols b).map fun v => ofF32 (toF32 v), raw := if e.fmt = 3 then some (rawBlocks e.cols b) else none })

/-- The blocks a row is stored as (R254). -/
def RecRow.blocks (r : RecRow) : List (Byte × List Byte) :=
  match r.raw with
  | some b => b
  | none => (chunksOf 32 r.vals.length r.vals).map (mxEncode .mxE4m3)

/-! ## Layout (R255) -/

/-- A matrix in tiles, its rows (outputs) given as MX blocks along the inputs; absent rows and columns are padding. -/
def State.tileImage (s : State) (out inn : Nat) (row : Nat → List (Byte × List Byte)) : List Byte :=
  let r := s.decl.rows.toNat
  let c := s.decl.cols.toNat
  let elem (o i : Nat) : Byte := match (row o)[i / 32]? with | some (_, es) => es.getD (i % 32) 0#8 | none => 0#8
  let scale (o i : Nat) : Byte := match (row o)[i / 32]? with | some (x, _) => x | none => 0#8
  (List.range (ceilDiv out c)).flatMap fun ot => (List.range (ceilDiv inn r)).flatMap fun it =>
    if s.decl.order = 0#2 then
      ((List.range c).flatMap fun oc => (List.range r).map fun ir => elem (ot * c + oc) (it * r + ir)) ++
      ((List.range c).flatMap fun oc => (List.range (ceilDiv r 32)).map fun b => scale (ot * c + oc) (it * r + 32 * b))
    else
      ((List.range r).flatMap fun ir => (List.range c).map fun oc => elem (ot * c + oc) (it * r + ir)) ++
      ((List.range (ceilDiv r 32)).flatMap fun b => (List.range c).map fun oc => scale (ot * c + oc) (it * r + 32 * b))

/-- Rows of a tensor on this device, from its first row on. -/
structure TensorData where
  row0 : Nat
  rows : List RecRow
deriving DecidableEq, Repr

def TensorData.row? (t : TensorData) (o : Nat) : Option RecRow := if o < t.row0 then none else t.rows[o - t.row0]?

def State.tensorImage (s : State) (t : Tensor) (d : TensorData) : List Byte :=
  if t.isGain then encRow 2 ((d.row? 0).map (·.vals) |>.getD [])
  else s.tileImage t.out t.inn fun o => match d.row? o with | some r => r.blocks | none => []

/-- The transposed copy: blocks along the original outputs, from the decoded values. -/
def State.transImage (s : State) (t : Tensor) (d : TensorData) : List Byte :=
  s.tileImage t.inn t.out fun i =>
    if t.inn ≤ i then []
    else
      let vs := (List.range t.out).map fun o => match d.row? o with | some r => r.vals.getD i .zero | none => .zero
      (chunksOf 32 vs.length vs).map (mxEncode .mxE4m3)

/-! ## A station (R251, R262, R300) -/

/-- The records of a tensor in a part. -/
def Part0.records (p : Part0) (t : Tensor) : List ManEntry :=
  p.entries.filter fun e => e.kind = t.kind && e.layer = t.layer && e.expert = t.expert

/-- Records in row order cover one range of rows exactly once. -/
def contiguous : List ManEntry → Bool
  | a :: b :: es => a.row0 + a.rows = b.row0 && contiguous (b :: es)
  | _ => true

def byRow0 (es : List ManEntry) : List ManEntry :=
  (sortBy id (es.map (·.row0)).dedup).flatMap fun r => es.filter fun e => e.row0 = r

/-- First row and rows of a tensor on the device. -/
def rowRange (es : List ManEntry) : Nat × Nat := ((es.head?.map (·.row0)).getD 0, (es.map (·.rows)).sum)

/-- The records of a station fit its tensors (R251, R300). -/
def Part0.stationShape (p : Part0) (m : ModelDesc) (k : Nat) : Bool :=
  let ts := m.station k
  let range (t : Tensor) : Nat × Nat := rowRange (byRow0 (p.records t))
  let rangeOf (kind e : Nat) : Nat × Nat := match ts.find? fun t => t.kind = kind ∧ t.expert = e with | some t => range t | none => (0, 0)
  (p.entries.all fun e => m.stationOf e.kind e.layer ≠ k || ts.any fun t => t.kind = e.kind ∧ t.layer = e.layer ∧ t.expert = e.expert) &&
  ts.all (fun t =>
    let es := byRow0 (p.records t)
    let r := rowRange es
    es ≠ [] && contiguous es && es.all (fun e => e.cols = t.inn) && r.1 + r.2 ≤ t.out && (p.nshards ≠ 1 || r = (0, t.out))) &&
  (p.nshards = 1 || k = 0 || k = m.layers + 1 ||
    (let kr := rangeOf 0x13 0
     kr.1 % m.d = 0 && kr.2 % m.d = 0 && rangeOf 0x14 0 == kr && rangeOf 0x12 0 == (m.g * kr.1, m.g * kr.2) &&
       (List.range (max 1 m.experts)).all fun e => rangeOf 0x17 e == rangeOf 0x18 e))

/-- The manifests read for a station fit the model: every entry is of one of its tensors, and each tensor's rows up to that
station are covered exactly once, whichever parts hold them (R251). -/
def Part0.shapeOk (p : Part0) (m : ModelDesc) (k : Nat) : Bool :=
  (p.entries.all fun e => !isFactorKind e.kind && m.stationOf e.kind e.layer ≤ m.layers + 1) &&
    (List.range (k + 1)).all (p.stationShape m)

/-- One record, read and decoded. -/
def State.fetchRecord {α : Type} (s : State) (e : ManEntry) (decode : List Byte → Except Nat α) : Fetched α :=
  (s.fetch e.addr e.len).andThen decode

/-- Every record of a tensor. -/
def State.fetchTensor (s : State) : List ManEntry → Fetched (List RecRow)
  | [] => .ok []
  | e :: es => (s.fetchRecord e (decodeRecord e)).andThen fun rows => (s.fetchTensor es).andThen fun rest => .ok (rows ++ rest)

def State.fetchAll (s : State) (p : Part0) : List Tensor → Fetched (List (Tensor × TensorData))
  | [] => .ok []
  | t :: ts =>
    let es := byRow0 (p.records t)
    (s.fetchTensor es).andThen fun rows => (s.fetchAll p ts).andThen fun rest =>
      .ok ((t, { row0 := (rowRange es).1, rows := rows }) :: rest)

/-- A station prepared: its bytes, and where the model is sharded its tensors' own rows and this device's key/value heads. -/
structure Prepared where
  image : List Byte
  ranges : List (Nat × Nat × Nat) := []
  heads : Nat := 0
deriving DecidableEq, Repr

/-- The parts a station needs of the chain at `src`, joined. -/
def State.stationParts (s : State) (p0 : Part0) (src : Nat) (m : ModelDesc) (k : Nat) : Fetched (List Part0) :=
  s.partsTo p0 (decide (m.experts ≠ 0)) k 256 0 src

/-- A station's bytes from its records (R254, R255, R257), or why it cannot be prepared (R263). -/
def State.prepare (s : State) (p0 : Part0) (src : Nat) (m : ModelDesc) (tr : Bool) (k : Nat) : Fetched Prepared :=
  (s.stationParts p0 src m k).andThen fun ps =>
    let p := joinParts p0 ps
    let es := p.entries.filter fun e => m.stationOf e.kind e.layer = k
    if es.any (·.fmtBad) then Fetched.fail rFmt
    else if !p.shapeOk m k then Fetched.fail rShape
    else (s.fetchAll p (m.station k)).andThen fun ds =>
      .ok { image := (ds.flatMap fun (t, d) => s.tensorImage t d) ++
              (if tr then ds.flatMap fun (t, d) => if t.transposed then s.transImage t d else [] else []),
            ranges := if p.nshards = 1 then [] else
              ds.map fun (t, d) => (rangeKey t.kind t.layer t.expert, d.row0, d.rows.length)
            heads := if p.nshards = 1 then 0 else (rowRange (byRow0 (es.filter fun e => e.kind = 0x13))).2 / m.d }

/-! ## Base commands (R259) -/

/-- INTAKE_MCMD holds the command and its immediate result (Table 11-7). -/
def State.mcmdDone (s : State) (model : Nat) (op : Nat) (tr : Bool) (code : Nat) : State :=
  s.wr pgIntake 0x040 (BitVec.ofNat 32 (model + 2 ^ 8 * op + 2 ^ 11 * b2n tr + 2 ^ 12 * code))

/-! ## The station in preparation (R262, R263) -/

def Wavefront.buf (w : Wavefront) (k : Nat) : Option Nat := if k % 2 = 0 then w.buf0 else w.buf1

def Wavefront.setBuf (w : Wavefront) (k : Nat) (v : Option Nat) : Wavefront :=
  if k % 2 = 0 then { w with buf0 := v } else { w with buf1 := v }

/-- Uncorrectable reads of a station's preparation or copy. -/
def Wavefront.errs (w : Wavefront) (k : Nat) : Nat := if k % 2 = 0 then w.memErr else w.memErr1

def Wavefront.setErrs (w : Wavefront) (k n : Nat) : Wavefront :=
  if k % 2 = 0 then { w with memErr := n } else { w with memErr1 := n }

/-- The station to prepare next. -/
def Wavefront.nextStation (w : Wavefront) : Option Nat :=
  let k := w.w.toNat
  if w.buf k ≠ some k then some k
  else if k + 1 ≤ w.stop ∧ w.buf (k + 1) = none then some (k + 1) else none

/-- Part 0 of the running operation, as it was checked. -/
def State.wavePart0 (s : State) : Part0 :=
  let v := s.model s.wf.model.toNat
  { at_ := s.wf.src.toNat, kind := if s.wf.rollback then 3 else 1, model := s.wf.model.toNat, part := 0, gen := s.wf.gen,
    shard := v.shard.toNat, nshards := v.nshards.toNat, first := 0, last := 0, next := 0, cmacLo := 0, entries := [],
    desc := v.desc }

/-- The host reads of the present fetch, in order: headers and manifests, then the station's records. -/
def State.wavePieces (s : State) : List FetchPiece :=
  let w := s.wf
  if w.st = .checking then
    if w.rollback then s.chainPieces none none (fun _ => false) 256 w.next.toNat else s.headPieces w.src.toNat
  else match w.nextStation with
    | none => []
    | some k =>
      let m := decodeDesc (s.model w.model.toNat).desc
      let routed : Bool := decide (m.experts ≠ 0)
      s.chainPieces none (some routed) (fun p => decide (k < p.last)) 256 w.src.toNat ++
        match s.stationParts s.wavePart0 w.src.toNat m k with
        | .ok ps => recordPieces ps fun e => m.stationOf e.kind e.layer = k
        | .error _ => []

/-- INTAKE_CFG.RETRY. -/
def State.intakeRetry (s : State) : Nat := bitsOf (s.rd pgIntake 0x048) 13 10

/-- The next intake read from the host, while none is outstanding and its record has not failed for good. -/
def State.intakeFetch (s : State) : State :=
  if (s.wf.st = .checking ∨ s.wf.st = .advancing) ∧ !s.reading .intake ∧ s.wf.missing ≤ s.intakeRetry then
    match s.wavePieces[s.wf.got]? with
    | some x => s.askHost .intake x.addr x.len
    | none => s
  else s

/-- Every read of the present fetch has been answered. -/
def State.waveRead (s : State) : Bool := !s.reading .intake && decide (s.wavePieces.length ≤ s.wf.got)

/-- A piece that came is counted, and its record where it was the last and decodes (R266). -/
def State.countPiece (s : State) (p : FetchPiece) (good : Nat × ManEntry → Bool) : State :=
  let s := s.count (regAt pgIntake 0x200) p.len
  if p.rec_.any good then s.inc pgIntake 0x208 else s

def State.msrc (s : State) : BitVec 64 := BitVec.ofNat 64 (s.rd64 pgIntake 0x050)

def State.loadCode (s : State) (model : Nat) : Nat :=
  let d := bitsOf (s.rd pgIntake 0x058) 27 0 * 4096
  let n := (s.rd pgIntake 0x05C).toNat * 4096
  if !s.running pgIntake then rDisabled
  else if s.wf.st ≠ .idle then rBusy
  else if (s.model model).loaded then rBadState
  else if n = 0 ∨ !s.inKind kBase d n then rSpace
  else 0

def intakeLoadOp (s : State) (model : Nat) (tr : Bool) : State :=
  let c := s.loadCode model
  let s := s.mcmdDone model 1 tr c
  if c ≠ 0 then s
  else
    State.intakeFetch { s with
      wf := { st := .checking, op := .load, model := BitVec.ofNat 8 model, transpose := tr, src := s.msrc, fault := s.wf.fault,
              dst := BitVec.ofNat 28 (bitsOf (s.rd pgIntake 0x058) 27 0), units := s.rd pgIntake 0x05C } }

/-- LOAD (R259). -/
def execIntakeLoad (model : BitVec 8) (transpose : Bool) (s : State) : Host.Outcome State Fault Refusal :=
  if !s.serves (.intakeLoad model transpose) then .next s else
  let t := intakeLoadOp s model.toNat transpose
  .next { s with wf := t.wf, readQ := t.readQ, hostReads := t.hostReads, regs := t.regs, ret := t.ret }

def State.replaceCode (s : State) (model : Nat) : Nat :=
  if !s.running pgIntake then rDisabled
  else if s.wf.st ≠ .idle then rBusy
  else if !(s.model model).loaded ∨
      s.jobs.any (fun (_, j) => j.st == 1#2 && j.isTrain && j.model == model && decide (1 < j.ndev)) then rBadState
  else 0

def intakeReplaceOp (s : State) (model : Nat) : State :=
  let c := s.replaceCode model
  let s := s.mcmdDone model 2 false c
  if c ≠ 0 then s
  else
    let v := s.model model
    State.intakeFetch { s with
      wf := { st := .checking, op := .replace, model := BitVec.ofNat 8 model, transpose := v.transposed, src := s.msrc,
              dst := v.dst, units := v.units, fault := s.wf.fault } }

/-- REPLACE (R259). -/
def execIntakeReplace (model : BitVec 8) (s : State) : Host.Outcome State Fault Refusal :=
  if !s.serves (.intakeReplace model) then .next s else
  let t := intakeReplaceOp s model.toNat
  .next { s with wf := t.wf, readQ := t.readQ, hostReads := t.hostReads, regs := t.regs, ret := t.ret }

def wfRetryOp (s : State) : State :=
  let c := if !s.running pgIntake then rDisabled else if s.wf.st ≠ .stalled then rBadState else 0
  let s := s.mcmdDone 0 3 false c
  if c ≠ 0 then s else State.intakeFetch { s with wf := { s.wf with st := .advancing, missing := 0, memErr := 0, memErr1 := 0, got := 0 } }

/-- RETRY (R263). -/
def execWfRetry (s : State) : Host.Outcome State Fault Refusal :=
  if !s.serves .wfRetry then .next s else
  let t := wfRetryOp s
  .next { s with wf := t.wf, readQ := t.readQ, hostReads := t.hostReads, regs := t.regs, ret := t.ret }

def wfRollbackOp (s : State) : State :=
  let c := if !s.running pgIntake then rDisabled
    else if s.wf.st ≠ .stalled ∨ s.wf.op = .load ∨ s.wf.rollback then rBadState else 0
  let s := s.mcmdDone 0 4 false c
  if c ≠ 0 then s
  else State.intakeFetch { s with wf := { s.wf with st := .checking, rollback := true, next := s.msrc, missing := 0, memErr := 0, memErr1 := 0, got := 0 } }

/-- ROLLBACK (R264). -/
def execWfRollback (s : State) : Host.Outcome State Fault Refusal :=
  if !s.serves .wfRollback then .next s else
  let t := wfRollbackOp s
  .next { s with wf := t.wf, readQ := t.readQ, hostReads := t.hostReads, regs := t.regs, ret := t.ret }

/-- A model's number is free of use by jobs and directory entries. -/
def State.unnamed (s : State) (model : Nat) : Bool :=
  (s.jobs.all fun (_, j) => j.st == 0#2 || j.model ≠ model) && s.dir.all fun (_, e) => e.st == .free || e.model.toNat ≠ model

def State.unloadCode (s : State) (model : Nat) : Nat :=
  if !s.running pgIntake then rDisabled
  else if s.wf.st = .stalled ∧ s.wf.op = .load ∧ s.wf.model.toNat = model then 0
  else if s.wf.st ≠ .idle then rBusy
  else if !(s.model model).loaded ∨ !s.unnamed model then rBadState
  else 0

def intakeUnloadOp (s : State) (model : Nat) : State :=
  let c := s.unloadCode model
  let s := s.mcmdDone model 5 false c
  if c ≠ 0 then s
  else
    { s with
      models := tdel s.models model
      wf := if s.wf.st = .stalled then { s.wf with st := .idle } else s.wf
      modelRes := s.modelRes.map fun e => if e.valid ∧ e.model.toNat = model then {} else e }

/-- UNLOAD (R259). -/
def execIntakeUnload (model : BitVec 8) (s : State) : Host.Outcome State Fault Refusal :=
  if !s.serves (.intakeUnload model) then .next s else
  let t := intakeUnloadOp s model.toNat
  .next { s with models := t.models, wf := t.wf, modelRes := t.modelRes, regs := t.regs, ret := t.ret }

/-! ## Part 0 (R259, R261, R264) -/

/-- Bytes of a model's largest station. -/
def State.largest (s : State) (m : ModelDesc) (tr : Bool) : Nat :=
  ((List.range (m.layers + 2)).map fun k => s.stationBytes m tr k).foldl max 0

def State.stageBase (s : State) : Nat := bitsOf (s.rd pgIntake 0x060) 27 0 * 4096

/-- The staging area holds two of the model's largest stations. -/
def State.stageHolds (s : State) (m : ModelDesc) (tr : Bool) : Bool :=
  let n := (s.rd pgIntake 0x064).toNat * 4096
  2 * s.largest m tr ≤ n && s.inKind kBase s.stageBase n

def State.shard (s : State) : Nat := bitsOf (s.rd pgIntake 0x048) 9 0

/-- The stations of a chain run from 0 to a last one; one station may go on in the next part. -/
def chainRuns (ps : List Part0) (last : Nat) : Bool :=
  (ps.foldl (fun (acc : Bool × Nat) p => (acc.1 && (p.first = acc.2 || p.first + 1 = acc.2), p.last + 1)) (true, 0)) =
    (true, last + 1)

/-- Part 0's check: the part, or the reason, with what it fetched. -/
def State.checkPart0 (s : State) : Fetched Part0 :=
  let w := s.wf
  let v := s.model w.model.toNat
  (s.readPart (if w.rollback then w.next.toNat else w.src.toNat) none none).andThen fun p =>
    let m := decodeDesc p.desc
    if p.part ≠ 0 ∨ p.model ≠ w.model.toNat ∨ p.kind ≠ (if w.rollback then 3 else 1) ∨ p.first ≠ 0 ∨ descMalformed p.desc then
      .fail rMalformed
    else if descShapeBad p.desc ∨ (w.op = .replace ∧ p.desc ≠ v.desc) then Fetched.fail rShape
    else if p.shard ≠ s.shard then Fetched.fail rShard
    else if w.op = .load then
      (if (s.stationOff m w.transpose (m.layers + 2)) ≤ w.units.toNat * 4096 then .ok p else Fetched.fail rSpace)
    else if w.rollback then
      (if p.gen ≠ v.genPrev then Fetched.fail rGen
       else (s.readChain none (some (decide (m.experts ≠ 0))) 256 0 w.next.toNat).andThen fun ps =>
         if w.w ≠ 0#8 ∧ chainRuns ps (w.w.toNat - 1) then .ok p else Fetched.fail rShape)
    else if !laterThan p.gen v.gen then Fetched.fail rGen
    else if !s.stageHolds m v.transposed then Fetched.fail rSpace
    else .ok p

/-- A check that fails (Table 11-5). -/
def State.checkFail (s : State) (r : Nat) : State :=
  ({ s with wf := { s.wf with
      st := if s.wf.rollback then .stalled else .idle, rollback := false, got := 0, fault := BitVec.ofNat 4 r } }).raise pgIntake 3

/-- Steps in flight of a model at a generation. -/
def State.stepsOf (s : State) (model : Nat) (gen : W) : List (Nat × Step) :=
  s.jobs.filterMap fun (j, v) => match v.cur with
    | some st => if st.model.toNat = model ∧ st.gen = gen then some (j, st) else none
    | none => none

/-- A new step is withdrawn by a rollback: each of its rows fails (R264). -/
def State.withdrawStep (s : State) (j : Nat) (st : Step) : State :=
  (s.setStep j { st with withdrawn := true }).failRows j (List.range st.rows.length) cDesc

/-- Part 0 passed: the generation switch, or the restoration (R261, R264). -/
def State.startWave (s : State) (p : Part0) : State :=
  let w := s.wf
  let n := w.model.toNat
  let v := s.model n
  let m := decodeDesc p.desc
  if w.rollback then
    let s := (s.stepsOf n v.gen).foldl (fun (s : State) (j, st) => s.withdrawStep j st) s
    { s with
      models := tput s.models n { v with gen := v.genPrev, genPrev := v.gen }
      wf := { w with st := .advancing, src := w.next, w := 0#8, stop := w.w.toNat - 1, gen := v.genPrev, buf0 := none, buf1 := none, missing := 0, got := 0 } }
  else
    let v' : Model :=
      if w.op = .load then
        { desc := p.desc, gen := p.gen, nshards := BitVec.ofNat 16 p.nshards, shard := BitVec.ofNat 16 p.shard, dst := w.dst,
          units := w.units, transposed := w.transpose }
      else { v with gen := p.gen, genPrev := v.gen, nshards := BitVec.ofNat 16 p.nshards, shard := BitVec.ofNat 16 p.shard }
    { s with
      models := tput s.models n v'
      wf := { w with st := .advancing, w := 0#8, stop := m.layers + 1, gen := p.gen, buf0 := none, buf1 := none, memErr := 0,
                     memErr1 := 0, missing := 0, got := 0 } }

/-- PART0_CHECKED comes once every read of the check has been answered. -/
def part0CheckedOp (s : State) : State :=
  if s.wf.st ≠ .checking ∨ !s.waveRead then s
  else
    match s.checkPart0 with
    | .error r => s.checkFail r
    | .ok p => (s.startWave p).intakeFetch

/-- PART0_CHECKED (R261). -/
def execPart0Checked (s : State) : Host.Outcome State Fault Refusal :=
  if !s.serves .part0Checked then .next s else
  let t := part0CheckedOp s
  .next { s with
    wf := t.wf, models := t.models, jobs := t.jobs, readQ := t.readQ, hostReads := t.hostReads, hdrs := t.hdrs, ctrs := t.ctrs, regs := t.regs }

/-! ## Stations (R262, R263) -/

/-- The wavefront stalls at W (R263). -/
def State.stallWf (s : State) (r : Nat) : State :=
  ({ s with wf := { s.wf with st := .stalled, fault := BitVec.ofNat 4 r } }).raise pgIntake 1

/-- An uncorrectable read of a station's preparation or copy: a first one makes it prepare again, a second leaves it
unprepared, which stalls the wavefront once it is at W (R263). -/
def State.wfMemErr (s : State) (k : Nat) : State :=
  let n := s.wf.errs k + 1
  let w := s.wf.setErrs k n
  if n = 1 then { s with wf := { (w.setBuf k none) with got := 0 } }
  else if k = s.wf.w.toNat then State.stallWf { s with wf := w } rMem
  else { s with wf := w }

/-- An uncorrectable read of the preparation going on. -/
def State.wfPrepErr (s : State) : State := s.wfMemErr (s.wf.nextStation.getD s.wf.w.toNat)

/-- The station now at W is known to have failed its preparation already. -/
def State.wfLook (s : State) : State :=
  let k := s.wf.w.toNat
  if s.wf.st ≠ .advancing ∨ s.wf.buf k = some k then s
  else if 2 ≤ s.wf.errs k then s.stallWf rMem
  else if s.intakeRetry < s.wf.missing then s.stallWf rMissing
  else s

/-- Stack address of a prepared station: its own place for LOAD, else its staging buffer. -/
def State.stationAt (s : State) (m : ModelDesc) (k : Nat) : Nat :=
  let w := s.wf
  if w.op = .load then w.dst.toNat * 4096 + s.stationOff m w.transpose k
  else s.stageBase + k % 2 * s.largest m w.transpose

/-- A prepared station's bytes are written and it stands in its buffer. -/
def State.putStation (s : State) (m : ModelDesc) (k : Nat) (p : Prepared) : State :=
  let n := s.wf.model.toNat
  let (s, lost) := s.poke kBase none (s.stationAt m k) p.image
  let v := s.model n
  let s := if p.ranges = [] then s else { s with models := tput s.models n { v with
    kvHeads := if 1 ≤ k ∧ k ≤ m.layers then p.heads else v.kvHeads
    ranges := p.ranges.foldl (fun t (key, r) => tput t key r) v.ranges } }
  if lost then s.wfMemErr k else { s with wf := { (s.wf.setBuf k (some k)) with missing := 0, got := 0 } }

/-- STATION_PREPARED: the fault operand tells what only the port or the stacks can show: MISSING or MEM. A station whose reads are
not all answered, or that has failed for good, is not prepared. A station after W that cannot be prepared stalls the wavefront
only when W reaches it. -/
def stationPreparedOp (s : State) (fault : Nat) : State :=
  let w := s.wf
  if w.st ≠ .advancing ∨ !s.running pgIntake then s
  else match w.nextStation with
    | none => s
    | some k =>
      let m := decodeDesc (s.model w.model.toNat).desc
      let own : Bool := k = w.w.toNat
      if 2 ≤ w.errs k ∨ s.intakeRetry < w.missing then s
      else if fault = rMissing then
        (if own then s.stallWf rMissing else { s with wf := { w with missing := s.intakeRetry + 1 } })
      else if !s.waveRead then s
      else match s.prepare s.wavePart0 w.src.toNat m w.transpose k with
        | .error r => if own then s.stallWf r else s
        | .ok p => if fault = rMem then (s.wfMemErr k).intakeFetch else (s.putStation m k p).intakeFetch

/-- STATION_PREPARED (R262, R263). -/
def execStationPrepared (fault : BitVec 4) (s : State) : Host.Outcome State Fault Refusal :=
  if !s.serves (.stationPrepared fault) then .next s else
  let t := stationPreparedOp s fault.toNat
  .next { s with
    wf := t.wf, models := t.models, mem := t.mem, uncorr := t.uncorr, readQ := t.readQ, hostReads := t.hostReads, fresh := t.fresh,
    hdrs := t.hdrs, ctrs := t.ctrs, regs := t.regs }

/-- A form of the step, placed or waiting, or a command of it that has not been merged, belongs to a station. -/
def State.atStation (s : State) (j : Nat) (st : Step) (k : Nat) : Bool :=
  let m := s.desc st.model.toNat
  (s.forms.any fun (_, f) => match s.formStep f.desc with
    | some (i, x) => i == j && x.num == st.num && (formStation m f.desc).1 == k
    | none => false) ||
  s.cmds.any fun c => !c.done && c.arr.job.toNat == j && c.step == st.num && m.cmdStation c.arr == k

/-- A step has passed a station: every form and command of its rows that reads its weights has completed; the
forms of a failed row run on (R262, R96, Table 11-6). -/
def State.stepPassed (s : State) (j : Nat) (st : Step) (layers k : Nat) : Bool :=
  if (s.job j).isTrain then decide (3 ≤ (s.job j).train.phase.toNat)
  else !s.atStation j st k && st.rows.all fun r => r.done || (k ≤ layers && max 1 k ≤ r.layers)

/-- No old step has the station still to run. -/
def State.oldPassed (s : State) (model : Nat) (gen : W) (layers k : Nat) : Bool :=
  s.jobs.all fun (j, v) => match v.cur with
    | some st => st.model.toNat ≠ model || st.gen = gen || s.stepPassed j st layers k
    | none => true

/-- The norm gains of a station, from its bytes. -/
def State.takeGains (s : State) (m : ModelDesc) (k : Nat) (bs : List Byte) (g : Tab (List (BitVec 16))) : Tab (List (BitVec 16)) :=
  ((m.station k).filter (·.isGain)).foldl (fun g t =>
    let o := s.tensorOff m k t
    tput g (m.gainKey t.kind t.layer) ((List.range t.inn).map fun i => BitVec.ofNat 16 (ofLe ((bs.drop (o + 2 * i)).take 2)))) g

def stationCopyOp (s : State) : State :=
  let w := s.wf
  let k := w.w.toNat
  let n := w.model.toNat
  let v := s.model n
  let m := decodeDesc v.desc
  let up : Bool := s.unit pgIntake == .running || s.unit pgIntake == .draining
  if w.st ≠ .advancing ∨ !up ∨ w.buf k ≠ some k ∨ !s.oldPassed n v.gen m.layers k then s
  else
    let a := s.stationAt m k
    let r := s.peek kBase none a (s.stationBytes m w.transpose k)
    if r.unc then ((s.note r a 3).wfMemErr k).intakeFetch
    else
      let (s, lost) := if w.op = .load then (s, false)
        else s.poke kBase none (w.dst.toNat * 4096 + s.stationOff m w.transpose k) r.data
      if lost then (s.wfMemErr k).intakeFetch else
      let s := { s with models := tput s.models n { s.model n with gains := s.takeGains m k r.data v.gains } }
      let s := s.inc pgIntake 0x218
      State.wfLook { s with wf := { ((w.setBuf k none).setErrs k 0) with
          w := w.w + 1#8, st := if k = w.stop then .finishing else .advancing } }

/-- STATION_COPY (R262). -/
def execStationCopy (s : State) : Host.Outcome State Fault Refusal :=
  if !s.serves .stationCopy then .next s else
  let t := stationCopyOp s
  .next { s with
    wf := t.wf, models := t.models, mem := t.mem, uncorr := t.uncorr, readQ := t.readQ, hostReads := t.hostReads, stk := t.stk, log := t.log,
    logOvf := t.logOvf, ret := t.ret, hdrs := t.hdrs, ctrs := t.ctrs, regs := t.regs }

def wfFinishedOp (s : State) : State :=
  let w := s.wf
  let n := w.model.toNat
  if w.st ≠ .finishing then s
  else
    let gen := (s.model n).gen
    let s := (s.removeWays fun x => x.model.toNat == n && x.gen != gen).refloorAll
    ({ s with
      models := tput s.models n { s.model n with loaded := true }
      wf := { w with st := .idle, rollback := false } }).raise pgIntake 0

/-- WF_FINISHED (R260, R164). -/
def execWfFinished (s : State) : Host.Outcome State Fault Refusal :=
  if !s.serves .wfFinished then .next s else
  let t := wfFinishedOp s
  .next { s with
    wf := t.wf, models := t.models, prefixes := t.prefixes, dir := t.dir, mem := t.mem, uncorr := t.uncorr, hdrs := t.hdrs,
    ctrs := t.ctrs, regs := t.regs }

/-! ## Reads that fail (R263, R381) -/

/-- A read of the wavefront's fetch failed once more: it is read again, or the check or the station at W cannot go on. -/
def State.intakeMiss (s : State) : State :=
  let n := s.wf.missing + 1
  let s := { s with wf := { s.wf with missing := n } }
  if n ≤ s.intakeRetry then (s.inc pgIntake 0x210).intakeFetch
  else if s.wf.st = .checking then s.checkFail rMissing
  else s.wfLook

/-- A read of the wavefront's fetch was answered: the next follows. -/
def State.intakeGot (s : State) : State :=
  let s := match s.wavePieces[s.wf.got]? with
    | some p => s.countPiece p fun (_, e) =>
        !e.fmtBad && (match s.fetchRecord e (decodeRecord e) with | .ok _ => true | .error _ => false)
    | none => s
  State.intakeFetch { s with wf := { s.wf with missing := 0, got := s.wf.got + 1 } }

/-! ## Adapter intake (R252, R256, R258) -/

/-- Key slot and keys of an entry. -/
def State.entryKeys (s : State) (e : DirEntry) : Option KeySlot := (s.entryKey e).bind (tget? s.keys)

/-- The workspace is large enough and lies in one staging region under the entry's key slot. -/
def State.workOk (s : State) (e : DirEntry) (a n : Nat) : Bool :=
  let need := ((e.pairs (s.desc e.model.toNat)).map fun p => 4 * p.rank * (p.i + p.o)).foldl max 0
  need ≤ n && n ≠ 0 &&
    match s.regionOf a n with
    | some r => r.kind == kStaging && r.enc && s.entryKey e == some r.key
    | none => false

def State.adapterCode (s : State) (a : Nat) : Nat :=
  let e := s.entry a
  let w := bitsOf (s.rd pgIntake 0x08C) 27 0 * 4096
  let n := (s.rd pgIntake 0x090).toNat * 4096
  if !s.running pgIntake then rDisabled
  else if e.st ≠ .loading ∧ e.st ≠ .staging then rBadState
  else if 64 ≤ (s.intakes.filter fun i => !i.running).length then rBusy
  else if !s.workOk e w n then rSpace
  else 0

def adapterIntakeOp (s : State) (a : Nat) : State :=
  let c := s.adapterCode a
  let s := s.wr pgIntake 0x080 (BitVec.ofNat 32 (a + 2 ^ 16 * c))
  if c ≠ 0 then s
  else
    let j := s.rd pgIntake 0x094
    { s with intakes := s.intakes ++ [{
        adapter := BitVec.ofNat 16 a, src := BitVec.ofNat 64 (s.rd64 pgIntake 0x084)
        work := BitVec.ofNat 28 (bitsOf (s.rd pgIntake 0x08C) 27 0), workUnits := s.rd pgIntake 0x090
        job := if j.getLsbD 8 then some (BitVec.ofNat 8 (bitsOf j 7 0)) else none }] }

/-- ADAPTER_INTAKE (R258). -/
def execAdapterIntake (adapter : BitVec 16) (s : State) : Host.Outcome State Fault Refusal :=
  if !s.serves (.adapterIntake adapter) then .next s else
  let t := adapterIntakeOp s adapter.toNat
  .next { s with intakes := t.intakes, regs := t.regs, ret := t.ret }

/-- The oldest waiting intake starts. -/
def startOldest : List AIntake → List AIntake
  | [] => []
  | i :: is => if i.running then i :: startOldest is else { i with running := true } :: is


/-- A factor as stored: its rows in FMT, padded to 256 bytes (R63, R64). -/
def factorImage (f w : Nat) (rows : List (List W)) : List Byte :=
  let b := rows.flatMap fun r => encRow f (r.map ofF32)
  b ++ zeroBytes (factorBytes f rows.length w - b.length)

/-- An adapter's record, read, deciphered and decoded to FP32 (R252, R253). -/
def State.adapterRecord (s : State) (k : KeySlot) (cmacLo : Nat) (e : ManEntry) : Fetched (List (List W)) :=
  s.fetchRecord e fun b => (decodeRecord e (ctrXor k.hctr cmacLo (fun n => ctrHi 0x20 (e.x * 2 ^ 32 + n)) 0 b)).map fun rows =>
    rows.map fun r => r.vals.map toF32

/-- The entry of a factor in the parts' manifests, with its part's counter word. -/
def factorEntry (ps : List Part0) (p : FactorPair) (kind : Nat) : List (Nat × ManEntry) :=
  ps.flatMap fun q => (q.entries.filter fun e =>
    e.kind = kind && e.proj = p.proj && e.expert = p.expert && (p.proj = 8 || e.layer = p.layer)).map fun e => (q.cmacLo, e)

/-- One factor's rows. -/
def State.factorOf (s : State) (k : KeySlot) (ps : List Part0) (p : FactorPair) (kind w : Nat) : Fetched (List (List W)) :=
  match factorEntry ps p kind with
  | [(c, e)] => if e.rows ≠ p.rank ∨ e.cols ≠ w then Fetched.fail rShape else s.adapterRecord k c e
  | _ => Fetched.fail rShape

/-- The factors' bytes, pair by pair. -/
def State.slotImage (s : State) (k : KeySlot) (ps : List Part0) (f : Nat) : List FactorPair → Fetched (List Byte)
  | [] => .ok []
  | p :: rest =>
    (s.factorOf k ps p 0x20 p.i).andThen fun a => (s.factorOf k ps p 0x21 p.o).andThen fun b =>
      (s.slotImage k ps f rest).andThen fun t =>
        let (a, b) := orthogonalise p.rank p.i p.o a b
        .ok (factorImage f p.i a ++ factorImage f p.o b ++ t)

/-- A slot's bytes are padded with zeros to a multiple of 4 KiB (R64). -/
def slotPad (b : List Byte) : List Byte := b ++ zeroBytes (ceilDiv b.length 4096 * 4096 - b.length)

/-- The adapter has factors of its own for every expert (R64). -/
def DirEntry.routed (e : DirEntry) : Bool := e.exp ≠ 0#8

/-- What an adapter intake leaves in the slot, or its reason. -/
def State.adapterSlot (s : State) (e : DirEntry) (src : Nat) : Fetched (List Byte) :=
  match s.entryKeys e with
  | none => Fetched.fail rAuth
  | some k =>
    (s.readChain (some k) (some e.routed) 256 0 src).andThen fun ps =>
      let es := ps.flatMap (·.entries)
      let pairs := e.pairs (s.desc e.model.toNat)
      if ps.any (fun p => p.kind ≠ 2) then Fetched.fail rMalformed
      else if es.any (·.fmtBad) then Fetched.fail rFmt
      else if ps.any (fun p => p.model ≠ e.model.toNat) ∨ es.length ≠ 2 * pairs.length then Fetched.fail rShape
      else (s.slotImage k ps e.fmt.toNat pairs).andThen fun b => .ok (slotPad b)

/-- The host reads of an adapter intake, in order: headers and manifests, then the records. -/
def State.adapterPieces (s : State) (i : AIntake) : List FetchPiece :=
  let e := s.entry i.adapter.toNat
  match s.entryKeys e with
  | none => []
  | some k =>
    s.chainPieces (some k) (some e.routed) (fun _ => false) 256 i.src.toNat ++
      match s.readChain (some k) (some e.routed) 256 0 i.src.toNat with
      | .ok ps => recordPieces ps fun _ => true
      | .error _ => []

/-- The next read of a running adapter intake. -/
def State.adapterFetch (s : State) (a : BitVec 16) : State :=
  match s.intakes.find? fun i => i.adapter = a && i.running && !i.stopped with
  | some i =>
    match (s.adapterPieces i)[i.got]? with
    | some x => s.askHost (.adapter a) x.addr x.len
    | none => s
  | none => s

/-- A read of a running adapter intake was answered: the next follows. -/
def State.adapterGot (s : State) (a : BitVec 16) : State :=
  let s := match s.intakes.find? fun i => i.adapter = a && i.running with
    | some i => match (s.adapterPieces i)[i.got]?, s.entryKeys (s.entry a.toNat) with
      | some p, some k => s.countPiece p fun (c, e) => match s.adapterRecord k c e with | .ok _ => true | .error _ => false
      | _, _ => s
    | none => s
  State.adapterFetch { s with intakes := s.intakes.map fun i => if i.adapter = a ∧ i.running then { i with got := i.got + 1 } else i } a

/-- INTAKE_START (R258): stopped intakes that still wait are dropped. -/
def intakeStartOp (s : State) : State :=
  let l := s.intakes.filter fun i => i.running || !i.stopped
  if (l.filter (·.running)).length < 4 ∧ s.running pgIntake then
    match l.find? fun i => !i.running with
    | some i => State.adapterFetch { s with intakes := startOldest l } i.adapter
    | none => { s with intakes := l }
  else s

def execIntakeStart (s : State) : Host.Outcome State Fault Refusal :=
  if !s.serves .intakeStart then .next s else
  let t := intakeStartOp s
  .next { s with intakes := t.intakes, readQ := t.readQ, hostReads := t.hostReads }

/-- An adapter intake faults (R258, R266); a failed CMAC of its container counts (R318). -/
def State.intakeFault (s : State) (a : Nat) (r : Nat) : State :=
  let s := if r = rAuth then (s.inc pgSec 0x208).raise pgSec 1 else s
  let s := s.raise pgDir 2
  let s := if s.afaultq.length < 64 then { s with afaultq := s.afaultq ++ [{ adapter := BitVec.ofNat 16 a, reason := BitVec.ofNat 4 r }] }
    else s.errInc pgIntake
  s.raise pgIntake 2

def dropIntake : List AIntake → BitVec 16 → List AIntake
  | [], _ => []
  | i :: is, a => if i.adapter = a ∧ i.running then is else i :: dropIntake is a

/-- A running adapter intake ends with a fault. -/
def State.intakeEnd (s : State) (a : BitVec 16) (r : Nat) : State :=
  State.intakeFault { s with intakes := dropIntake s.intakes a } a.toNat r

/-- A host read of an adapter intake failed: it faults with MISSING (R381). -/
def State.adapterMiss (s : State) (a : BitVec 16) : State :=
  if s.intakes.any fun i => i.adapter = a && i.running && !i.stopped then s.intakeEnd a rMissing else s

/-- INTAKE_COMPLETE: the reason operand tells what only the port or the stacks can show: MISSING or MEM. An intake whose reads are
not all answered is not complete. -/
def intakeCompleteOp (s : State) (a : BitVec 16) (reason : Nat) : State :=
  match s.intakes.find? fun i => i.adapter = a && i.running with
  | none => s
  | some i =>
    let e := s.entry a.toNat
    if i.stopped ∨ (e.st ≠ .loading ∧ e.st ≠ .staging) then { s with intakes := dropIntake s.intakes a }
    else if reason = rMissing then s.intakeEnd a rMissing
    else if s.reading (.adapter a) ∨ i.got < (s.adapterPieces i).length then s
    else match s.adapterSlot e i.src.toNat with
      | .error r => s.intakeEnd a r
      | .ok b =>
        if i.memErr ∨ reason = rMem then s.intakeEnd a rMem
        else if e.intakePin ≠ 0#16 then s
        else
          let (t, lost) := s.poke kAdapter none e.intakeSlot b
          if lost then t.intakeEnd a rMem
          else State.setEntry { t with intakes := dropIntake s.intakes a } a.toNat (e.intakeDone true)

/-- INTAKE_COMPLETE (R258, Table 03-4). -/
def execIntakeComplete (adapter : BitVec 16) (reason : BitVec 4) (s : State) : Host.Outcome State Fault Refusal :=
  if !s.serves (.intakeComplete adapter reason) then .next s else
  let t := intakeCompleteOp s adapter reason.toNat
  .next { s with
    intakes := t.intakes, afaultq := t.afaultq, dir := t.dir, mem := t.mem, uncorr := t.uncorr, fresh := t.fresh,
    hdrs := t.hdrs, ctrs := t.ctrs, regs := t.regs }

/-! ## Reads that time out (R263) -/

/-- The first outstanding intake read that INTAKE_READ_TIMEOUT has passed. -/
def State.intakeLate (s : State) : Option (Nat × HostRead) :=
  s.hostReads.find? fun (_, r) =>
    (match r.use with | .intake => true | .adapter _ => true | _ => false) &&
      decide (r.at_.toNat + (s.rd pgIntake 0x068).toNat ≤ s.lcount.toNat)

def intakeReadTimeoutOp (s : State) : State :=
  match s.intakeLate with
  | none => s
  | some (t, r) =>
    let s := { s with hostReads := tdel s.hostReads t }
    State.pumpHost (match r.use with
      | .adapter a => s.adapterMiss a
      | _ => s.intakeMiss)

/-- INTAKE_READ_TIMEOUT (R263). -/
def execIntakeReadTimeout (s : State) : Host.Outcome State Fault Refusal :=
  if !s.serves .intakeReadTimeout then .next s else
  let t := intakeReadTimeoutOp s
  .next { s with
    wf := t.wf, intakes := t.intakes, afaultq := t.afaultq, readQ := t.readQ, hostReads := t.hostReads,
    writeQ := t.writeQ, hostWrites := t.hostWrites, host := t.host, hdrs := t.hdrs, ctrs := t.ctrs, regs := t.regs }

/-- INTAKE_AFAULTQ_LO as read: the oldest record's adapter. -/
def afaultLoOp (s : State) : State :=
  { s with afaultLatch := s.afaultq.head?, afaultRead := true
           rdata := match s.afaultq.head? with | some f => f.adapter.setWidth 32 | none => 0#32 }

/-- AFAULTQ_LO_READ (R266). -/
def execAfaultqLoRead (s : State) : Host.Outcome State Fault Refusal :=
  if !s.serves .afaultqLoRead then .next s.shut else
  let t := afaultLoOp s
  .next { s with afaultLatch := t.afaultLatch, afaultRead := t.afaultRead, rdata := t.rdata }

/-- INTAKE_AFAULTQ_HI as read: reason and VALID of the latched record; after LO it pops that record. -/
def afaultHiOp (s : State) : State :=
  { s with
    rdata := match s.afaultLatch with | some f => BitVec.ofNat 32 (f.reason.toNat + 16) | none => 0#32
    afaultq := if s.afaultRead ∧ s.afaultLatch.isSome then s.afaultq.drop 1 else s.afaultq
    afaultRead := false }

/-- AFAULTQ_HI_READ (R266). -/
def execAfaultqHiRead (s : State) : Host.Outcome State Fault Refusal :=
  if !s.serves .afaultqHiRead then .next s.shut else
  let t := afaultHiOp s
  .next { s with rdata := t.rdata, afaultq := t.afaultq, afaultRead := t.afaultRead }

/-! ## Intake forms (Table 01-3, R253 to R256) -/

/-- The kind of region an intake form works in: the workspace of an adapter, else the staging area. -/
def intakeKind (adapter : BitVec 16) : Nat := if adapter = 0#16 then kBase else kStaging

/-- FP32 words of rows × cols read from the stacks. -/
def State.readWords (s : State) (kind a rows cols : Nat) : List (List W) × MemRes :=
  let r := s.peek kind none a (4 * rows * cols)
  ((List.range rows).map fun y => (List.range cols).map fun x => BitVec.ofNat 32 (ofLe ((r.data.drop (4 * (y * cols + x))).take 4)), r)

def wordBytes (rows : List (List W)) : List Byte := rows.flatMap fun r => r.flatMap fun w => leBytes 4 w.toNat

/-- The manifest entry of an adapter's record at an address, with its counter word. -/
def State.recordAt (s : State) (a : BitVec 16) (addr : Nat) : Option (KeySlot × Nat × Nat) :=
  match s.intakes.find? fun i => i.adapter = a && i.running, s.entryKeys (s.entry a.toNat) with
  | some i, some k =>
    match s.readChain (some k) (some (s.entry a.toNat).routed) 256 0 i.src.toNat with
    | .ok ps => ((ps.flatMap fun p => p.entries.map fun e => (p.cmacLo, e)).find? fun (_, e) => e.addr = addr).map fun (c, e) => (k, c, e.x)
    | .error _ => none
  | _, _ => none

/-- The record a decompress form reads: host bytes, deciphered for an adapter. -/
def State.formRecordBytes (s : State) (d : IntakeDesc) : Option (List Byte) :=
  match s.hostRead d.src.toNat d.storedLen with
  | none => none
  | some b =>
    if d.adapter = 0#16 then some b
    else (s.recordAt d.adapter d.src.toNat).map fun (k, c, x) => ctrXor k.hctr c (fun n => ctrHi 0x20 (x * 2 ^ 32 + n)) 0 b

/-- An uncorrectable read of an intake form (Table 12-4, class 3). -/
def State.intakeUnc (s : State) (d : IntakeDesc) (r : MemRes) (a : Nat) : State :=
  if !r.unc then s
  else
    let s := s.note r a 3
    if d.adapter = 0#16 then s.wfPrepErr
    else { s with intakes := s.intakes.map fun i => if i.adapter = d.adapter ∧ i.running then { i with memErr := true } else i }

/-- What an intake form does. -/
def State.intakeWork (s : State) (d : IntakeDesc) : State :=
  let kind := intakeKind d.adapter
  let src := d.src.toNat
  match d.op with
  | .decompress =>
    let e : ManEntry := { x := 0, kind := 0, layer := 0, expert := 0, proj := 0, fmt := d.srcFmt.toNat, comp := d.comp.toNat,
                          rows := d.rows, cols := d.cols, addr := src, len := d.storedLen, row0 := 0 }
    match s.formRecordBytes d with
    | none => s
    | some b => match decodeRecord e b with
      | .ok rows => (s.poke kind none d.dst.toNat (wordBytes (rows.map fun r => r.vals.map toF32))).1
      | .error _ => s
  | .requantise =>
    let (ws, r) := s.readWords kind src d.rows d.cols
    ((s.intakeUnc d r src).poke kind none d.dst.toNat (ws.flatMap fun w => encRow d.dstFmt.toNat (w.map ofF32))).1
  | .layout =>
    let n := rowBytes 3 d.cols
    let r := s.peek kind none src (d.rows * n)
    let bs := s.tileImage d.rows d.cols fun o => if o < d.rows then rawBlocks d.cols ((r.data.drop (o * n)).take n) else []
    ((s.intakeUnc d r src).poke kind none d.dst.toNat bs).1
  | .orthogonalise =>
    let (a, r) := s.readWords kind src d.rows d.cols
    let (b, q) := s.readWords kind d.src2.toNat d.rows d.colsB
    let (a, b) := orthogonalise d.rows d.cols d.colsB a b
    let s := (s.intakeUnc d r src).intakeUnc d q d.src2.toNat
    let s := (s.poke kind none d.dst.toNat (wordBytes a)).1
    (s.poke kind none d.dst2.toNat (wordBytes b)).1

def intakeFormOp (s : State) (fid : Nat) : State :=
  match s.formAt fid with
  | some f =>
    match f.desc with
    | .intake d => if f.idle then s else (s.intakeWork d).endForm fid
    | _ => s
  | none => s

/-- INTAKE_FORM (R253 to R256). -/
def execIntakeForm (form : Nat) (s : State) : Host.Outcome State Fault Refusal :=
  if !s.serves (.intakeForm form) then .next s else
  let t := intakeFormOp s form
  .next { s with
    mem := t.mem, uncorr := t.uncorr, wf := t.wf, intakes := t.intakes, forms := t.forms, jobs := t.jobs, used := t.used,
    overruns := t.overruns, debt := t.debt, gated := t.gated, domIdle := t.domIdle, staging := t.staging,
    stagedKeys := t.stagedKeys, stk := t.stk, log := t.log, logOvf := t.logOvf, ret := t.ret, ctrs := t.ctrs,
    hdrs := t.hdrs, regs := t.regs }

end Sys2Proof.Machine
end

