-- ==== Sys2Proof/Machine/Memory.lean ====
section
/-! DEFINITION. The memory subsystem: reads and their errors, patrol, retirement, retraining, the region table
(12_memory.md R267 to R290). -/
namespace Sys2Proof.Machine

/-! ## Consequences of an uncorrectable read (Table 12-4) -/

/-- Rows of an array command fail (class 1). -/
def State.feedUnc (s : State) (id : BitVec 8) : State :=
  match s.cmds.find? fun c => c.id = id && c.stage ≠ .ready && !c.done with
  | some c =>
    match s.cmdStep c with
    | some _ => s.failRows c.arr.job.toNat (c.arr.rows.map (·.toNat)) cMem
    | none => s
  | none => s

/-- What the requester of an uncorrectable read does (Table 12-4). -/
def State.uncFor (s : State) (k : Nat) : Requester → State
  | .form f => match tget? s.forms f with | some v => s.failForm v.desc cMem | none => s
  | .feed c => s.feedUnc c
  | .staging j rows => if (s.job j.toNat).cur.isSome then s.failRows j.toNat (rows.map (·.toNat)) cMem else s
  | .intakeBase => if s.wf.st = .advancing then s.wfPrepErr else s
  | .intakeAdapter a =>
    { s with intakes := s.intakes.map fun i => if i.adapter = a ∧ i.running then { i with memErr := true } else i }
  | .pageList q => s.slotUnc q.toNat
  | .frameTable f => s.frameUnc k f.toNat
  | .prBitmap g => s.granulesLost g
  | .translation q =>
    match s.slotJob q.toNat with
    | some j => match (s.job j).cur with
      | some st => s.failRows j ((st.rowsOf q).map (·.2)) cMem
      | none => s
    | none => s
  | .direct => s.setFld pgHost 0x054 0 1 1
  | .parcel q =>
    if (s.slot q.toNat).st = .paused ∧ (s.slot q.toNat).pendingEnd.isNone then
      (s.dropParked q.toNat).queueEnd q.toNat { reason := 0x13#8 }
    else s
  | .update j =>
    if (s.job j.toNat).isTrain ∧ (s.job j.toNat).cur.isSome then s.setTrain j.toNat fun t => { t with uncorrFail := true } else s
  | .retireCopy => s
  | .prefixCompare f => s.removeWays fun w => w.frame == f

/-! ## Reads (R277, R280) -/

/-- A corrected read is counted; the pseudo-channel's count may trigger a retirement (R277, R282). -/
def State.corrected (s : State) (k pc : Nat) : State :=
  let s := s.inc (pgMem k) 0x210
  let n := min 0xFFFF (bitsOf (s.rd (pgMem k) (0x400 + 4 * pc)) 15 0 + 1)
  let s := s.setFld (pgMem k) (0x400 + 4 * pc) 0 16 n
  if bitsOf (s.rd (pgMem k) 0x054) 15 0 ≤ n then s.autoRetire k pc else s

/-- Symbols in error make the read uncorrectable (R277): two or three, or more unless miscorrected. -/
def uncorrectable (symbols : Nat) (miscorrect : Bool) : Bool := symbols = 2 || symbols = 3 || (4 ≤ symbols && !miscorrect)

/-- The stored word of a miscorrected read: what it reads as is open (R277). -/
def State.miscorrect (s : State) (a : Nat) : State :=
  State.tick { s with mem := mwrite s.mem (a / 32 * 32) (leBytes 32 (Config.miscorrected s.fresh).toNat) }

/-- A word whose own symbols are damaged stays uncorrectable until it is written, and reads as something else: a free value
(R280). -/
def State.damage (s : State) (w : Nat) : State :=
  if s.uncorr.contains w ∨ s.stackFault (s.stackOf (32 * w)) then s
  else State.tick { s with
    uncorr := s.uncorr ++ [w], mem := mwrite s.mem (32 * w) (leBytes 32 (Config.damagedWord s.fresh).toNat) }

/-- A read completes. A first read-data parity error retries the burst; a second makes this read uncorrectable (R267). -/
def stackReadDoneOp (s : State) (a : Nat) (req : Requester) (symbols : Nat) (mis : Bool) (parity : Nat) : State :=
  if s.top ≤ a then s
  else
    let k := s.stackOf a
    let s := s.inc (pgMem k) 0x200
    let s := if parity = 0 then s else s.inc (pgMem k) 0x228
    if uncorrectable symbols mis ∨ s.uncorr.contains (a / 32) ∨ s.stackFault k ∨ 2 ≤ parity then
      let s := if uncorrectable symbols mis then s.damage (a / 32) else s
      ((s.uncRecord a (Requester.cls req)).uncFor k req).frameWays a
    else if symbols = 0 then s
    else (if 4 ≤ symbols then s.miscorrect a else s).corrected k (s.place a).1

/-- STACK_READ_DONE (R267, R277, R280, R281). -/
def execStackReadDone (addr : BitVec 40) (req : Requester) (symbols : BitVec 3) (burst : ReadBurst) (s : State) :
    Host.Outcome State Fault Refusal :=
  if !s.serves (.stackReadDone addr req symbols burst) then .next s else
  let t := stackReadDoneOp s addr.toNat req symbols.toNat burst.miscorrect burst.parity.toNat
  .next { s with
    mem := t.mem, uncorr := t.uncorr, stk := t.stk, quarantine := t.quarantine, lostGranules := t.lostGranules,
    jobs := t.jobs, slots := t.slots, granules := t.granules, orphans := t.orphans, tcache := t.tcache,
    prefixes := t.prefixes, wf := t.wf, intakes := t.intakes, fresh := t.fresh, log := t.log, logOvf := t.logOvf,
    ret := t.ret, hdrs := t.hdrs, ctrs := t.ctrs, regs := t.regs }

/-! ## Patrol (R279) -/

/-- The 256-byte units of the CONTROL regions on a stack, by increasing address. -/
def State.controlUnits (s : State) (k : Nat) : List Nat :=
  ((((sortBy (fun n => (s.region n).base) (List.range 64)).map s.region).filter fun r => r.valid && r.kind == kControl).flatMap fun r =>
    (List.range (r.size / 4096)).filterMap fun i =>
      if s.stackOf (r.base + 4096 * i) = k then some (r.base + 4096 * i) else none).flatMap fun b =>
        (List.range 16).map fun u => b + 256 * u

/-- The unit patrol reads next: it wraps around. -/
def State.patrolNext (s : State) (k : Nat) : Option Nat :=
  let us := s.controlUnits k
  (us.find? fun u => (s.stack k).patrolAt ≤ u).orElse fun _ => us.head?

/-- The first granule that the 32-byte word of the poste restante bitmap at an address describes: the bitmap's place within
the control area is firmware's own (R378). -/
def State.bitmapWord (s : State) (a : Nat) : Option Nat :=
  let b := bitsOf (s.rd pgCtl 0x058) 27 0 * 4096 + Config.bitmapOffset
  if b ≤ a ∧ a < b + ceilDiv s.prSize 8 then some ((a - b) / 32 * 256) else none

/-- What an uncorrectable word of the control tables loses (class 4): the slot of a page list or a sequence header, or the
frames of a frame-table word. -/
def State.controlUnc (s : State) (k a : Nat) : State :=
  let lb := bitsOf (s.rd pgCache 0x060) 27 0 * 4096
  let fb := bitsOf (s.rd pgCache 0x064) 27 0 * 4096
  if lb ≤ a ∧ a < lb + 2 ^ 29 then s.slotUnc ((a - lb) / 131072)
  else if lb + 2 ^ 29 ≤ a ∧ a < lb + 2 ^ 29 + 64 * 4096 then s.slotUnc ((a - lb - 2 ^ 29) / 64)
  else if fb ≤ a ∧ a < fb + 16 * 2 ^ 20 then (s.frameUnc k ((a - fb) / 16)).frameUnc k ((a - fb) / 16 + 1)
  else match s.bitmapWord a with
    | some g => s.granulesLost g
    | none => s

/-- One word of a patrol read, with its symbols in error: damaged, corrected and written back, or good (R277, R279). -/
def State.patrolWord (s : State) (k w symbols : Nat) (mis : Bool) : State :=
  if uncorrectable symbols mis then s.damage w
  else if symbols = 0 ∨ s.uncorr.contains w then s
  else ((if 4 ≤ symbols then s.miscorrect (32 * w) else s).inc (pgMem k) 0x220).corrected k (s.place (32 * w)).1

/-- A patrol read of the 256-byte unit u: its eight words, one record for the read, what each bad word loses. -/
def State.patrolUnit (s : State) (k u : Nat) (symbols : Nat → Nat) (mis : Nat → Bool) : State :=
  let s := (List.range 8).foldl (fun (s : State) i => s.patrolWord k (u / 32 + i) (symbols i) (mis i)) s
  let bad := ((List.range 8).map (u / 32 + ·)).filter fun w => s.uncorr.contains w || s.stackFault k
  bad.foldl (fun (s : State) w => s.controlUnc k (32 * w)) (s.uncRange u 256 4)

def patrolOp (s : State) (k : Nat) (symbols : Nat → Nat) (mis : Nat → Bool) : State :=
  let v := s.stack k
  let iv := bitsOf (s.rd (pgMem k) 0x050) 15 0
  if s.part.nStacks ≤ k ∨ !s.running (pgMem k) ∨ v.retrain ∨ !(s.rd (pgMem k) 0x040).getLsbD 9 ∨
      s.lcount.toNat < v.patrolTime.toNat + iv then s
  else match s.patrolNext k with
    | none => s
    | some u =>
      let s := { s with stk := tput s.stk k { v with patrolAt := u + 256, patrolTime := s.lcount } }
      (s.inc (pgMem k) 0x200).patrolUnit k u symbols mis

/-- PATROL (R279): three bits of `symbols` and one of `miscorrect` for each word of the unit. -/
def execPatrol (stack : BitVec 4) (symbols : BitVec 24) (miscorrect : BitVec 8) (s : State) :
    Host.Outcome State Fault Refusal :=
  if !s.serves (.patrol stack symbols miscorrect) then .next s else
  let t := patrolOp s stack.toNat (fun i => bitsOf (symbols.setWidth 32) (3 * i + 2) (3 * i)) miscorrect.getLsbD
  .next { s with
    mem := t.mem, uncorr := t.uncorr, stk := t.stk, quarantine := t.quarantine, lostGranules := t.lostGranules,
    jobs := t.jobs, slots := t.slots, granules := t.granules, orphans := t.orphans, tcache := t.tcache, prefixes := t.prefixes, fresh := t.fresh,
    log := t.log, logOvf := t.logOvf, ret := t.ret, hdrs := t.hdrs, ctrs := t.ctrs, regs := t.regs }

/-- Every MEM_PCERRj.CORR is halved (R282). -/
def corrHalvingOp (s : State) : State :=
  if s.lcount.toNat < s.halvedAt.toNat + 2 ^ 30 then s
  else
    (List.range s.part.nStacks).foldl (fun (s : State) k => (List.range 64).foldl (fun (s : State) j =>
      let n := bitsOf (s.rd (pgMem k) (0x400 + 4 * j)) 15 0
      if n = 0 then s else s.setFld (pgMem k) (0x400 + 4 * j) 0 16 (n / 2)) s) { s with halvedAt := s.halvedAt + 0x40000000#64 }

/-- CORR_HALVING (R282). -/
def execCorrHalving (s : State) : Host.Outcome State Fault Refusal :=
  if !s.serves .corrHalving then .next s else
  let t := corrHalvingOp s
  .next { s with halvedAt := t.halvedAt, regs := t.regs, ret := t.ret }

/-! ## Retraining (R287, R288, R389) -/

/-- MEM_CMD ends with its code. -/
def State.memCmdDone (s : State) (k op pc code : Nat) : State :=
  s.wr (pgMem k) 0x04C (BitVec.ofNat 32 (op + 4 * pc + 2 ^ 8 * code))

/-- Some stack retrains. -/
def State.retraining (s : State) : Bool := (List.range s.part.nStacks).any fun k => (s.stack k).retrain

def State.startRetrain (s : State) (k : Nat) : State :=
  State.inc { s with stk := tput s.stk k { s.stack k with retrain := true, trainAt := s.lcount } } (pgMem k) 0x230

def memRetrainOp (s : State) (k : Nat) : State :=
  if s.part.nStacks ≤ k then s
  else
    let c := if s.retraining then 1 else if s.stackFault k then 2 else 0
    let s := s.memCmdDone k 1 0 c
    if c ≠ 0 then s else s.startRetrain k

/-- MEM_RETRAIN (R287). -/
def execMemRetrain (stack : BitVec 4) (s : State) : Host.Outcome State Fault Refusal :=
  if !s.serves (.memRetrain stack) then .next s else
  let t := memRetrainOp s stack.toNat
  .next { s with stk := t.stk, ret := t.ret, hdrs := t.hdrs, ctrs := t.ctrs, regs := t.regs }

/-- The stack's temperature input; a move of more than 10 °C since the last training retrains, while no stack does. -/
def stackTempOp (s : State) (k : Nat) (temp : BitVec 8) : State :=
  if s.part.nStacks ≤ k then s
  else
    let v := s.stack k
    let s := { s with stk := tput s.stk k { v with temp := temp } }
    let far : Bool := v.trainTemp.toNat + 10 < temp.toNat || temp.toNat + 10 < v.trainTemp.toNat
    if far ∧ s.running (pgMem k) ∧ !s.retraining then s.startRetrain k else s

/-- STACK_TEMP_RETRAIN (R287). -/
def execStackTempRetrain (stack : BitVec 4) (temp : BitVec 8) (s : State) : Host.Outcome State Fault Refusal :=
  if !s.serves (.stackTempRetrain stack temp) then .next s else
  let t := stackTempOp s stack.toNat temp
  .next { s with stk := t.stk, hdrs := t.hdrs, ctrs := t.ctrs, regs := t.regs }

/-- A training ends: held accesses go on, or it is tried again; at the third failure in a row the stack enters FAULT. -/
def State.trainEnd (s : State) (k : Nat) (ok : Bool) : State :=
  let v := s.stack k
  if ok then
    State.raise { s with stk := tput s.stk k { v with
      retrain := false, fails := 0, trainTemp := v.temp, rate := BitVec.ofNat 2 (bitsOf (s.rd (pgMem k) 0x040) 5 4)
      copying := v.copying || v.copyWait, copyWait := false } } (pgMem k) 3
  else if v.fails + 1 < 3 then
    State.inc { s with stk := tput s.stk k { v with fails := v.fails + 1, trainAt := s.lcount } } (pgMem k) 0x230
  else
    let s := { s with stk := tput s.stk k { v with retrain := false, fails := v.fails + 1, copyWait := false } }
    ((s.setUnit (pgMem k) .fault).raise (pgMem k) 4).logOpen 0x10 (pgMem k) k

def retrainDoneOp (s : State) (k : Nat) (ok : Bool) : State :=
  if k < s.part.nStacks ∧ (s.stack k).retrain then s.trainEnd k ok else s

/-- RETRAIN_DONE (R287, R288). -/
def execRetrainDone (stack : BitVec 4) (ok : Bool) (s : State) : Host.Outcome State Fault Refusal :=
  if !s.serves (.retrainDone stack ok) then .next s else
  let t := retrainDoneOp s stack.toNat ok
  .next { s with stk := t.stk, log := t.log, logOvf := t.logOvf, fresh := t.fresh, hdrs := t.hdrs, ctrs := t.ctrs, regs := t.regs }

def phyTimeoutOp (s : State) (k : Nat) : State :=
  if k < s.part.nStacks ∧ (s.stack k).retrain ∧ (s.stack k).trainAt.toNat + 4000 ≤ s.lcount.toNat then s.trainEnd k false else s

/-- PHY_TRAINING_TIMEOUT (R389). -/
def execPhyTrainingTimeout (stack : BitVec 4) (s : State) : Host.Outcome State Fault Refusal :=
  if !s.serves (.phyTrainingTimeout stack) then .next s else
  let t := phyTimeoutOp s stack.toNat
  .next { s with stk := t.stk, log := t.log, logOvf := t.logOvf, fresh := t.fresh, hdrs := t.hdrs, ctrs := t.ctrs, regs := t.regs }

/-! ## Retirement (R282 to R286) -/

def memRetireOp (s : State) (k pc : Nat) : State :=
  if s.part.nStacks ≤ k then s
  else
    let c := if s.mayRetire k then 0 else 2
    let s := s.memCmdDone k 2 pc c
    if c ≠ 0 then s else s.startCopy k pc

/-- MEM_RETIRE (R284). -/
def execMemRetire (stack : BitVec 4) (pc : BitVec 6) (s : State) : Host.Outcome State Fault Refusal :=
  if !s.serves (.memRetire stack pc) then .next s else
  let t := memRetireOp s stack.toNat pc.toNat
  .next { s with stk := t.stk, regs := t.regs, ret := t.ret }

/-- The address of unit v of a pseudo-channel (R269). -/
def State.unitAddr (s : State) (k pc v : Nat) : Nat :=
  let x := 256 * (64 * v + pc)
  x / 4096 * (4096 * s.part.nStacks) + 4096 * k + x % 4096

/-- A retirement copy moves its next unit: it is read where it stands, and an uncorrectable word is recorded and moves as it is
(R284, R285). -/
def State.moveUnit (s : State) (k : Nat) : State :=
  let v := s.stack k
  let a := s.unitAddr k v.copyPc.toNat v.copyPtr.toNat
  let bad := s.uncIn a 256
  let s := if bad then s.uncRange a 256 9 else s
  let s := { s with stk := tput s.stk k { s.stack k with copyPtr := v.copyPtr + 1#22 } }
  if bad then s.frameWays a else s

/-- The copy completes: every unit of the pseudo-channel has been read and written to its place (R284). -/
def pcRetiredOp (s : State) (k : Nat) : State :=
  let v := s.stack k
  if s.part.nStacks ≤ k ∨ !v.copying ∨ v.retrain ∨ s.stackFault k ∨ v.copyPtr.toNat < s.pcUnits then s
  else
    let s := { s with stk := tput s.stk k { v with copying := false } }
    let s := (s.setFld (pgMem k) 0x044 2 6 v.copyPc.toNat).setFld (pgMem k) 0x044 8 1 1
    (s.raise (pgMem k) 2).logOpen 0x0F (pgMem k) k

/-- RETIRED (R284). -/
def execPcRetired (stack : BitVec 4) (s : State) : Host.Outcome State Fault Refusal :=
  if !s.serves (.pcRetired stack) then .next s else
  let t := pcRetiredOp s stack.toNat
  .next { s with
    mem := t.mem, uncorr := t.uncorr, prefixes := t.prefixes, stk := t.stk, log := t.log, logOvf := t.logOvf,
    fresh := t.fresh, ret := t.ret, hdrs := t.hdrs, ctrs := t.ctrs, regs := t.regs }

/-! ## MEM_UCQ (R290) -/

def ucqLoOp (s : State) (k : Nat) : State :=
  let v := s.stack k
  { s with
    stk := tput s.stk k { v with ucqLatch := v.ucq.head?, loRead := true }
    rdata := match v.ucq.head? with | some r => r.addr.setWidth 32 | none => 0#32 }

/-- UCQ_LO_READ (R290). -/
def execUcqLoRead (stack : BitVec 4) (s : State) : Host.Outcome State Fault Refusal :=
  if !s.serves (.ucqLoRead stack) then .next s.shut else
  let t := if stack.toNat < s.part.nStacks then ucqLoOp s stack.toNat else { s with rdata := 0#32 }
  .next { s with stk := t.stk, rdata := t.rdata }

def ucqHiOp (s : State) (k : Nat) : State :=
  let v := s.stack k
  { s with
    stk := tput s.stk k { v with ucq := if v.loRead ∧ v.ucqLatch.isSome then v.ucq.drop 1 else v.ucq, loRead := false }
    rdata := match v.ucqLatch with
      | some r => BitVec.ofNat 32 (r.addr.toNat / 2 ^ 32 + 2 ^ 8 * r.cls.toNat + 2 ^ 12)
      | none => 0#32 }

/-- UCQ_HI_READ (R290). -/
def execUcqHiRead (stack : BitVec 4) (s : State) : Host.Outcome State Fault Refusal :=
  if !s.serves (.ucqHiRead stack) then .next s.shut else
  let t := if stack.toNat < s.part.nStacks then ucqHiOp s stack.toNat else { s with rdata := 0#32 }
  .next { s with stk := t.stk, rdata := t.rdata }

/-! ## The region table (R273) -/

/-- A region's ENC and KEYSLOT fit its kind (Table 12-3); ENC 0 for a kind that requires 1 only in Unsealed. -/
def State.regionKindOk (s : State) (r : Region) : Bool :=
  1 ≤ r.kind && r.kind ≤ 7 && (if r.kind ≤ 2 then !r.enc else r.enc || s.life == .unsealed) &&
    (r.key = 0 || r.kind = kAdapter || r.kind = kStaging)

/-- VALID may be set on an entry with this range and these attributes. -/
def State.regionOk (s : State) (n : Nat) (r : Region) : Bool :=
  r.size ≠ 0 && r.base + r.size ≤ s.top && s.regionKindOk r &&
    (List.range 64).all fun i => i = n || (let o := s.region i; !o.valid || !overlap r.base r.size o.base o.size)

/-- A write to MEM_REGn. -/
def memRegWriteOp (s : State) (n word : Nat) (v : W) : State :=
  let r := s.region n
  let off := 0x800 + 16 * n
  match word with
  | 0 =>
    let base := bitsOf v 27 0
    let want := v.getLsbD 31
    if r.valid then
      let s := if base * 4096 ≠ r.base then s.errInc 0x030 else s
      if want then s else s.setFld 0x030 off 31 1 0
    else
      let s := s.setFld 0x030 off 0 28 base
      if !want then s
      else if s.regionOk n { r with base := base * 4096 } then s.setFld 0x030 off 31 1 1 else s.errInc 0x030
  | 1 =>
    if r.valid then (if bitsOf v 28 0 * 4096 ≠ r.size then s.errInc 0x030 else s)
    else s.wr 0x030 (off + 4) (v &&& 0x1FFFFFFF#32)
  | 2 =>
    if 8 ≤ bitsOf v 3 0 then s
    else if r.valid then
      (if bitsOf v 3 0 ≠ r.kind ∨ v.getLsbD 4 ≠ r.enc ∨ bitsOf v 25 16 ≠ r.key then s.errInc 0x030 else s)
    else s.wr 0x030 (off + 8) (v &&& 0x03FF001F#32)
  | _ => s

/-- MEM_REG_WRITE (R273). -/
def execMemRegWrite (entry : BitVec 6) (word : BitVec 2) (value : W) (s : State) : Host.Outcome State Fault Refusal :=
  if !s.serves (.memRegWrite entry word value) then .next s else
  let t := memRegWriteOp s entry.toNat word.toNat value
  .next { s with regs := t.regs, ret := t.ret, hdrs := t.hdrs }

/-! ## Parity (R267) -/

/-- COMMAND_ADDRESS_PARITY_ERROR (R267): the command is reissued once and the retry counted. -/
def execCommandAddressParityError (stack : BitVec 4) (channel : BitVec 5) (s : State) : Host.Outcome State Fault Refusal :=
  if !s.serves (.commandAddressParityError stack channel) then .next s else
  let t := if stack.toNat < s.part.nStacks then s.inc (pgMem stack.toNat) 0x228 else s
  .next { s with hdrs := t.hdrs, ctrs := t.ctrs, regs := t.regs }

def writeParityOp (s : State) (k a : Nat) (again : Bool) : State :=
  if s.part.nStacks ≤ k ∨ s.stackOf a ≠ k ∨ s.top ≤ a then s
  else if again then s.damage (a / 32)
  else s.inc (pgMem k) 0x228

/-- WRITE_DATA_PARITY_ERROR (R267): the burst is retried once; a second failure leaves its word uncorrectable. -/
def execWriteDataParityError (stack : BitVec 4) (addr : BitVec 40) (again : Bool) (s : State) : Host.Outcome State Fault Refusal :=
  if !s.serves (.writeDataParityError stack addr again) then .next s else
  let t := writeParityOp s stack.toNat addr.toNat again
  .next { s with mem := t.mem, uncorr := t.uncorr, fresh := t.fresh, hdrs := t.hdrs, ctrs := t.ctrs, regs := t.regs }

end Sys2Proof.Machine
end

