-- ==== Sys2Proof/Machine/Power.lean ====
section
/-! DEFINITION. Clock monitor, operating points, power estimates, droop, temperature, gating
(16_clocks_power_reset.md R346 to R352; 18_ports.md R396, Table 18-15). -/
namespace Sys2Proof.Machine

def State.setPwr (s : State) (i : Nat) (p : SlicePwr) : State := { s with pwr := tput s.pwr i p }

/-! ## Operating points (R348) -/

/-- PWR_OPP.CAP, or point 2 while WARN holds the slice there (R352). -/
def State.oppCap (s : State) (p : SlicePwr) : Nat := max (bitsOf (s.rd pgPwr 0x044) 1 0) (if p.warn then 2 else 0)

/-- A change to a lower frequency starts at once; a raise that is pending is given up. -/
def SlicePwr.lower (p : SlicePwr) (pt : BitVec 2) : SlicePwr := { p with slew := some pt, vwait := false }

/-- A change to a higher frequency asks for its voltage and waits. -/
def SlicePwr.raiseTo (p : SlicePwr) (pt : BitVec 2) : SlicePwr := { p with vreq := pt, vwait := true }

/-- The point in force changes (PWR_OPPCHG, OPP). -/
def State.oppChanged (s : State) : State := (s.inc pgPwr 0x210).raise pgPwr 4

/-- A slice is set to point 3 at once. -/
def State.toPoint3 (s : State) (i : Nat) (p : SlicePwr) : State :=
  let t := s.setPwr i { p with opp := 3#2, slew := none, vwait := false, vreq := 3#2 }
  if p.opp = 3#2 then t else t.oppChanged

/-! ## Estimates and duty (R350) -/

/-- PWR_LIMIT.WATTS. -/
def State.watts (s : State) : Nat := bitsOf (s.rd pgPwr 0x040) 10 0

/-- PWR_EST: the sum of the slices' estimates; its eleven bits stick at their largest value (log 164). -/
def State.blockEst (s : State) : Nat := min 2047 ((List.range s.part.slices).map fun i => (s.slicePwr i).est.toNat).sum

/-- The estimate is over either threshold. -/
def State.over_ (s : State) (est : Nat) : Bool :=
  decide (300 < est) || (decide (s.watts < s.blockEst) && decide (s.watts < est * s.part.slices))

/-- The estimate is below pct % of both thresholds. -/
def State.under (s : State) (est pct : Nat) : Bool :=
  decide (100 * est < pct * 300) && decide (100 * est * s.part.slices < pct * s.watts)

/-- The runs of estimates that move the operating point. -/
def SlicePwr.runs (p : SlicePwr) (under80 : Bool) : SlicePwr :=
  { p with lowRun := if p.duty.toNat ≤ 8 then p.lowRun + 1 else 0
           highRun := if p.duty = 16#5 ∧ under80 then p.highRun + 1 else 0 }

/-- The point a sustained low duty lowers the slice to: one below the point in force, and no higher than a slew under way, the
cap and WARN ask (R348, R350, R352). -/
def State.lowerTo (s : State) (p : SlicePwr) : BitVec 2 :=
  BitVec.ofNat 2 (min 3 (max (max (s.oppCap p) (p.opp.toNat + 1)) ((p.slew.map (·.toNat)).getD 0)))

/-- Firmware moves the point on a sustained duty. -/
def State.sustained (s : State) (i : Nat) (p : SlicePwr) : State :=
  if 4096 ≤ p.lowRun then
    s.setPwr i (if p.opp = 3#2 then { p with duty := 16#5, lowRun := 0 } else { p.lower (s.lowerTo p) with duty := 16#5, lowRun := 0 })
  else if 65536 ≤ p.highRun then
    s.setPwr i (if s.oppCap p < p.opp.toNat ∧ !p.vwait ∧ p.slew.isNone then { p.raiseTo (p.opp - 1#2) with highRun := 0 }
      else { p with highRun := 0 })
  else s.setPwr i p

/-! ## Temperature (R352) -/

/-- What the temperature asks of the slice (R352): WARN and CRIT with their 5 °C, CRIT's point 3 and duty 4, WARN's point 2. -/
def State.thermal (s : State) (i : Nat) : State :=
  let w := bitsOf (s.rd pgPwr 0x060) 7 0
  let c := bitsOf (s.rd pgPwr 0x060) 15 8
  let p := s.slicePwr i
  let t := p.temp.toNat
  let p := { p with warn := decide (w < t) || (p.warn && decide (w < t + 5)) }
  if c < t then
    let s := if p.tcrit then s else s.raise pgPwr 2
    let s := if p.duty = 16#5 then s.raise pgPwr 1 else s
    s.toPoint3 i { p with tcrit := true, duty := 4#5, lowRun := 0, highRun := 0 }
  else
    let p := { p with tcrit := p.tcrit && decide (c < t + 5) }
    let target := match p.slew with
      | some x => x.toNat
      | none => if p.vwait then min p.opp.toNat p.vreq.toNat else p.opp.toNat
    s.setPwr i (if p.warn ∧ target < 2 then
      (if p.opp.toNat < 2 then p.lower 2#2 else { p with slew := none, vwait := false, vreq := p.opp }) else p)

def thermSampleOp (s : State) (i : Nat) (temp : BitVec 8) : State :=
  if s.part.slices ≤ i then s else (s.setPwr i { s.slicePwr i with temp := temp }).thermal i

/-- THERM_SAMPLE (R352). -/
def execThermSample (slice : BitVec 2) (temp : BitVec 8) (s : State) : Host.Outcome State Fault Refusal :=
  if !s.serves (.thermSample slice temp) then .next s else
  let t := thermSampleOp s slice.toNat temp
  .next { s with pwr := t.pwr, ctrs := t.ctrs, hdrs := t.hdrs, regs := t.regs }

/-! ## Estimates -/

def powerEstimateOp (s : State) (i : Nat) (a : Activity) : State :=
  if s.part.slices ≤ i ∨ !s.clkUp (4 + i) then s
  else
    let s := s.thermal i
    let p := { s.slicePwr i with est := Config.powerWatts a.macs a.vecs a.scratch a.landing a.staging a.hops a.shore }
    let s := if p.duty.toNat < 16 then s.count (regAt pgPwr 0x208) 256 else s
    let s := s.setPwr i p
    if p.tcrit then s
    else
      let e := p.est.toNat
      let d := if s.over_ e then max 4 (p.duty.toNat - 1) else if s.under e 95 then min 16 (p.duty.toNat + 1) else p.duty.toNat
      let s := if p.duty = 16#5 ∧ d < 16 then s.raise pgPwr 1 else s
      s.sustained i (SlicePwr.runs { p with duty := BitVec.ofNat 5 d } (s.under e 80))

/-- POWER_ESTIMATE (R350). -/
def execPowerEstimate (slice : BitVec 2) (activity : Activity) (s : State) : Host.Outcome State Fault Refusal :=
  let t := powerEstimateOp s slice.toNat activity
  .next { s with pwr := t.pwr, ctrs := t.ctrs, hdrs := t.hdrs, regs := t.regs }

/-! ## The voltage handshake and the slew (R348, R396) -/

def vackOp (s : State) (i : Nat) (level : Bool) : State :=
  if s.part.slices ≤ i then s
  else
    let q := s.slicePwr i
    let p := { q with vack := level }
    if level then
      let p := if q.vack then p else { p with vlevel := p.vreq }
      s.setPwr i (if p.vwait then { p with vwait := false, slew := some p.vreq } else p)
    else if !q.vack ∨ p.vwait ∨ p.opp = 3#2 ∨ p.vlevel ≠ p.vreq then s.setPwr i p
    else (s.toPoint3 i p).raise pgPwr 1

/-- VACK (R348, Table 18-15). -/
def execVack (slice : BitVec 2) (level : Bool) (s : State) : Host.Outcome State Fault Refusal :=
  if !s.serves (.vack slice level) then .next s else
  let t := vackOp s slice.toNat level
  .next { s with pwr := t.pwr, ctrs := t.ctrs, hdrs := t.hdrs, regs := t.regs }

def oppSlewDoneOp (s : State) (i : Nat) : State :=
  let p := s.slicePwr i
  match p.slew with
  | none => s
  | some pt =>
    if s.part.slices ≤ i then s
    else (s.setPwr i { p with opp := pt, slew := none, vreq := if p.opp < pt then pt else p.vreq }).oppChanged

/-- OPP_SLEW_DONE (R348). -/
def execOppSlewDone (slice : BitVec 2) (s : State) : Host.Outcome State Fault Refusal :=
  if !s.serves (.oppSlewDone slice) then .next s else
  let t := oppSlewDoneOp s slice.toNat
  .next { s with pwr := t.pwr, ctrs := t.ctrs, hdrs := t.hdrs, regs := t.regs }

/-! ## Droop (R351) -/

def droopAssertOp (s : State) (i : Nat) : State :=
  let p := s.slicePwr i
  if s.part.slices ≤ i ∨ p.droopIn then s
  else ((s.setPwr i { p with droopIn := true, droop := true }).inc pgPwr 0x200).raise pgPwr 0

/-- DROOP_ASSERT (R351). -/
def execDroopAssert (slice : BitVec 2) (s : State) : Host.Outcome State Fault Refusal :=
  let t := droopAssertOp s slice.toNat
  .next { s with pwr := t.pwr, ctrs := t.ctrs, hdrs := t.hdrs, regs := t.regs }

/-- DROOP_DEASSERT (R351): the input has been low for 32 ac. -/
def execDroopDeassert (slice : BitVec 2) (s : State) : Host.Outcome State Fault Refusal :=
  let i := slice.toNat
  let t := if i < s.part.slices then s.setPwr i { s.slicePwr i with droopIn := false, droop := false } else s
  .next { s with pwr := t.pwr }

/-! ## Gating (R349) -/

def gateIdleOp (s : State) (d : Nat) : State :=
  let w := s.rd pgPwr 0x068
  if 5 * s.part.slices ≤ d ∨ !w.getLsbD 16 ∨ (s.forms.any fun (_, f) => powerDomain f.core == d && !f.waiting) ∨
      s.lcount.toNat < (tget 0#64 s.domIdle d).toNat + bitsOf w 15 0 then s
  else { s with gated := s.gated ||| BitVec.ofNat 20 (2 ^ d) }

/-- GATE_IDLE (R349). -/
def execGateIdle (domain : BitVec 5) (s : State) : Host.Outcome State Fault Refusal :=
  if !s.serves (.gateIdle domain) then .next s else
  let t := gateIdleOp s domain.toNat
  .next { s with gated := t.gated }

end Sys2Proof.Machine
end

