-- ==== Sys2Proof/Machine/Clock.lean ====
section
/-! DEFINITION. What passes in one local count while no command waits: the counters that time drives
(16_clocks_power_reset.md R347; 09_scheduling.md R199, R201; 05_merge_lanes.md R116), and the work that waits for room.
DESIGN CHOICE (log 10): a step on an empty queue is one local count. -/
namespace Sys2Proof.Machine

/-- Arithmetic cycles of a slice in this local count: halved while ACLK is stretched (R351), none when it has failed (R346). -/
def State.sliceAcs (s : State) (slice : Nat) : Nat :=
  let p := s.slicePwr slice
  if !s.clkUp (4 + slice) then 0 else if p.droop then pointAcs p.opp.toNat / 2 else pointAcs p.opp.toNat

/-- 32nds of a local count charged to a form on a slice (R201). -/
def State.sliceCharge (s : State) (slice : Nat) : Nat :=
  let p := s.slicePwr slice
  if !s.clkUp (4 + slice) then 0 else if p.droop then p.duty.toNat else 2 * p.duty.toNat

def State.agedForm (s : State) (f : Form) : Form :=
  if f.waiting then f
  else { f with charged := f.charged + s.sliceCharge (f.core / 6400), acs := f.acs + s.sliceAcs (f.core / 6400) }

/-- Logical cores of a slice in service: none while its array is not RUNNING (R199). -/
def State.coresUp (s : State) (slice : Nat) : Nat :=
  if s.running (pgSlice slice) then
    6400 - (s.remap.filter fun (n, r) => n / 6400 = slice && r.vacant).length -
      (s.unbound.filter fun n => n / 6400 = slice).length
  else 0

/-- Berth-cycles that pass in this local count (R199). -/
def State.capStep (s : State) : Nat :=
  ((List.range s.part.slices).map fun i => 2 * s.sliceAcs i * s.coresUp i).sum

/-- The command first in grant order waits for a lane that is not RUNNING (R116). -/
def State.holdCounts (s : State) (c : Cmd) : Bool :=
  match s.cmdStep c with
  | some st => (List.range (min s.part.nLanes (s.cmdBeats c.arr st).length)).any fun l => (s.lane l).st != .running
  | none => false

/-- The hold count of the first command that has not been granted. -/
def State.holdCmds (s : State) : List Cmd → List Cmd
  | [] => []
  | c :: cs => if c.stage = .ready then (if s.holdCounts c then { c with hold := c.hold + 1 } else c) :: cs else c :: s.holdCmds cs

/-- The counters of one local count. -/
def State.age (s : State) : State :=
  { s with
    lcount := s.lcount + 1#64
    cap := s.cap + BitVec.ofNat 64 s.capStep
    forms := s.forms.map fun (k, f) => (k, s.agedForm f)
    cmds := s.holdCmds s.cmds }

/-- A retirement copy under way moves its next unit, or none (R284); it pauses while the stack retrains (R287). -/
def State.copyUnit (s : State) (k : Nat) : State :=
  let v := s.stack k
  if v.copying ∧ !v.retrain ∧ !s.stackFault k then
    (if Config.copyStep s.fresh ∧ v.copyPtr.toNat < s.pcUnits then s.moveUnit k else s).tick
  else s

/-- The copies of all the stacks. -/
def State.copyUnits (s : State) : State := (List.range s.part.nStacks).foldl (fun (s : State) k => s.copyUnit k) s

/-- One local count passes; it does not before phase 4 of bring-up or while the control clock has failed (R346, R347). -/
def State.clockTick (s : State) : State :=
  if (s.phase ≠ 0#4 ∧ s.phase.toNat < 4) ∨ !s.clkUp 0 then s
  else
    let s := s.age.copyUnits
    let t := if s.ready then s.pumpParcels.placeWaiting.pumpHw else s
    { s with
      mem := t.mem, uncorr := t.uncorr, prefixes := t.prefixes, forms := t.forms, jobs := t.jobs, slots := t.slots, host := t.host, readQ := t.readQ, hostReads := t.hostReads,
      writeQ := t.writeQ, hostWrites := t.hostWrites, tcache := t.tcache, granules := t.granules, orphans := t.orphans, gated := t.gated, domIdle := t.domIdle, staging := t.staging,
      stagedKeys := t.stagedKeys, stk := t.stk, log := t.log, logOvf := t.logOvf, fresh := t.fresh, ret := t.ret,
      ctrs := t.ctrs, hdrs := t.hdrs, regs := t.regs, hwData := t.hwData, hwStat := t.hwStat, hwQ := t.hwQ }

end Sys2Proof.Machine
end

