-- ==== Sys2Proof/Machine/Commands.lean ====
section
/-! DEFINITION. Array commands from submission to issue: COMMAND_GRANT and COMMAND_ISSUE (04_delta_path.md R90, R93;
05_merge_lanes.md R107, R108; 09_scheduling.md R196, R208 to R210; 17_registers.md R390). -/
namespace Sys2Proof.Machine

/-! ## Layer groups (R196) -/

/-- The group a command belongs to, in the order in which a step runs them: the layers, the vocabulary pass, and in training
the backward vocabulary pass and the layers from the last to the first. -/
def ModelDesc.groupOf (m : ModelDesc) (c : ArrayCmd) : Nat :=
  if c.pass = 8#4 then m.layers
  else if c.pass ≠ 10#4 then c.layer.toNat
  else if c.proj = 8#4 then m.layers + 1
  else 2 * m.layers + 1 - c.layer.toNat

/-- Groups of a step. -/
def ModelDesc.groups (m : ModelDesc) (train : Bool) : Nat := if train then 2 * m.layers + 2 else m.layers + 1

/-- A row has a command of a group submitted for a pass, of one expert. -/
def Step.subbed (st : Step) (g i : Nat) (pass proj expert : Nat) : Bool :=
  st.subs.any fun x => x.group = g && x.pass = pass && (pass ≠ 10 || x.proj = proj) && x.expert = expert && x.rows.contains i

/-- Every command of a group that row i takes part in has been submitted. -/
def Step.rowDone (st : Step) (m : ModelDesc) (train : Bool) (g i : Nat) : Bool :=
  let r := st.row i
  let moe := m.experts ≠ 0
  let layer := if g < m.layers then g else 2 * m.layers + 1 - g
  let es := r.expertIds m layer
  if g < m.layers then
    [0, 1, 2, 3].all (fun p => st.subbed g i p 0 0) && (!m.aux || st.subbed g i 7 0 0) &&
      (!moe || (st.subbed g i 9 0 0 && r.expertsAt layer ≠ [])) && es.all fun e => [4, 5, 6].all fun p => st.subbed g i p 0 e
  else if g = m.layers then !(r.draws || train) || st.subbed g i 8 0 0
  else if g = m.layers + 1 then st.subbed g i 10 8 0
  else (es.all fun e => [4, 5, 6].all fun p => st.subbed g i 10 p e) && st.subbed g i 10 3 0 &&
    (g = 2 * m.layers + 1 || [0, 1, 2].all fun p => st.subbed g i 10 p 0)

/-- Every command of a group has been submitted, but for rows that have failed. -/
def State.groupDone (s : State) (jn : Nat) (st : Step) (g : Nat) : Bool :=
  (List.range st.rows.length).all fun i =>
    (st.row i).fails ≠ [] || st.rowDone (s.desc st.model.toNat) (s.job jn).isTrain g i

/-- The group a step has begun last. -/
def Step.group? (st : Step) : Option Nat := st.subs.getLast?.map (·.group)

/-- The command's group is the step's next: the groups before it are submitted, and no other step is within one. -/
def State.groupTurn (s : State) (jn : Nat) (st : Step) (g : Nat) : Bool :=
  decide (g < (s.desc st.model.toNat).groups (s.job jn).isTrain) && decide (st.group?.getD 0 ≤ g) &&
    (List.range g).all (s.groupDone jn st) &&
    s.jobs.all fun (k, j) => k = jn || (match j.cur with
      | some u => u.withdrawn || (match u.group? with | some h => s.groupDone k u h | none => true)
      | none => true)

/-- A train-mode job submits a layer, or what is left of one, only within its window, where the layer's UP forms are planned to
complete in it; a window in progress is kept to its end while the TIDE unit drains (R208, R209). -/
def State.groupInWindow (s : State) (jn : Nat) (st : Step) (g : Nat) : Bool :=
  !(s.job jn).isTrain || !(s.running pgTide || s.inWindow jn) ||
    (s.inWindow jn && decide (s.lcount.toNat + Config.layerCounts st.rows.length g ≤ s.windowEndAt))

/-- A command firmware may submit: its step is in flight, its rows are rows of the step in increasing order that no earlier
command of the pass has, its beats are within the limits of R93 and R107, and its layer group's turn has come. -/
def State.cmdOk (s : State) (c : ArrayCmd) : Bool :=
  match (s.job c.job.toNat).cur with
  | none => false
  | some st =>
    let rows := c.rows.map (·.toNat)
    let g := (s.desc st.model.toNat).groupOf c
    rows ≠ [] && rows.all (· < st.rows.length) && (rows.zip (rows.drop 1)).all (fun (a, b) => a < b) && c.pass.toNat ≤ 10 &&
      rows.all (fun i => !st.subbed g i c.pass.toNat c.proj.toNat c.expert.toNat) &&
      s.groupTurn c.job.toNat st g && s.groupInWindow c.job.toNat st g &&
      (List.range s.part.nLanes).all fun l =>
        let b := laneBeats s.part.nLanes l (s.cmdBeats c st)
        b.length ≤ 2048 && (b.filter fun x => x.2.2).length ≤ 512

/-! ## Grant (R107, R108) -/

/-- One command is submitted: it becomes ready, and its step's group holds it. -/
def State.submitOne (s : State) (c : ArrayCmd) : State :=
  match s.cmdOk c, (s.job c.job.toNat).cur with
  | true, some st =>
    let sub : Submitted := { pass := c.pass.toNat, proj := c.proj.toNat, group := (s.desc st.model.toNat).groupOf c,
                             expert := c.expert.toNat, rows := c.rows.map (·.toNat) }
    State.setStep { s with cmds := s.cmds ++ [{ key := s.cmdCount, arr := c, step := st.num }], cmdCount := s.cmdCount + 1 }
      c.job.toNat { st with subs := st.subs ++ [sub] }
  | _, _ => s

/-- Commands newly submitted, in order, become ready. -/
def State.submit (s : State) (cs : List ArrayCmd) : State := cs.foldl State.submitOne s

/-- Commands that R108 now holds are counted once each (R380, ARRAY_HELD). -/
def State.markHeld (s : State) : State :=
  let n := (s.cmds.filter fun c => c.stage = .ready && !c.held).length
  let s := { s with cmds := s.cmds.map fun c => if c.stage = .ready then { c with held := true } else c }
  if n = 0 then s else s.count (regAt pgArray 0x208) n

def commandGrantOp (s : State) (submitted : List ArrayCmd) : State :=
  let s := s.submit submitted
  match if s.running pgArray then s.cmds.find? fun c => c.stage = .ready else none with
  | none => s
  | some c =>
    match s.cmdStep c with
    | none => s
    | some st =>
      match s.takeLanes c.key c.arr c.step (s.cmdBeats c.arr st) (List.range s.part.nLanes) with
      | none => s.markHeld
      | some (t, shs) =>
        let c := { c with stage := .granted, shares := shs }
        (t.setCmd c).writeMaps c st

/-- COMMAND_GRANT (R108): newly submitted commands become ready, then the first ready command is granted if it can be, while ARRAY is
RUNNING (R372). -/
def execCommandGrant (submitted : List ArrayCmd) (s : State) : Host.Outcome State Fault Refusal :=
  if !s.serves (.commandGrant submitted) then .next s else
  let t := commandGrantOp s submitted
  .next { s with
    cmds := t.cmds, cmdCount := t.cmdCount, jobs := t.jobs, lanes := t.lanes, landUse := t.landUse, landing := t.landing,
    ctrs := t.ctrs, hdrs := t.hdrs, regs := t.regs }

/-! ## Issue (R93, R210, R390) -/

/-- Entries of the maps of the UP and DXA forms that have been placed. -/
def State.placedMap (s : State) : List MapEntry :=
  s.forms.flatMap fun (_, f) => if f.waiting && !f.reissued then [] else s.formMap f.desc

/-- A pigeonhole whose UP or DXA form will never run: row i and the block from a column of a command's output lie in it (R93). -/
def State.settled (s : State) (c : ArrayCmd) (st : Step) (i col : Nat) : Bool :=
  let p := if c.pass = 10#4 then c.proj.toNat else c.pass.toNat
  let first := if c.pass = 10#4 then 0 else (s.ownCols st.model.toNat p c.layer.toNat c.expert.toNat).1
  let shared := c.pass ≠ 10#4 && s.sharedGate st (s.rowAdapter st i) p
  st.dead.any fun d => d.back == (c.pass == 10#4) && d.p = p && (p = 8 || d.layer = c.layer.toNat) &&
    (shared || d.expert = c.expert.toNat) && d.rows.contains i && d.col0 ≤ first + col && first + col < d.col0 + d.n

/-- The delta beats that a command sends on a lane: the beat's number there, its tag, its row and its first column. -/
def State.deltaBeats (s : State) (c : Cmd) (st : Step) (x : LaneShare) : List (W × Nat × Nat) :=
  (((laneBeats s.part.nLanes x.lane (s.cmdBeats c.arr st)).zipIdx).filter fun (b, _) => b.2.2).map fun (b, k) =>
    (x.tag0 + BitVec.ofNat 32 k, b.1, b.2.1 * s.cmdBw c.arr)

/-- The pigeonhole of a delta beat counts as filled: its beat has gone, its data is in it, or it is settled. -/
def State.phDone (s : State) (c : Cmd) (st : Step) (l : Nat) (b : W × Nat × Nat) : Bool :=
  let v := s.lane l
  match (tget? v.ledger (b.1.toNat % 4096)).filter fun e => e.tag == b.1 with
  | none => true
  | some e => (tget {} v.phs e.ph).filled || s.settled c.arr st b.2.1 b.2.2

/-- An UP or DXA form that has been placed holds the pigeonhole of a delta beat. -/
def State.phHeld (s : State) (map : List MapEntry) (l : Nat) (tag : W) : Bool :=
  let v := s.lane l
  map.any (fun m => m.lane = l && m.tag == tag) || v.crossing.any fun w => w.tag == tag

/-- The two conditions of R93 on one lane. -/
def State.leadOk (s : State) (c : Cmd) (st : Step) (map : List MapEntry) (x : LaneShare) : Bool :=
  ((s.deltaBeats c st x).zipIdx).all fun (b, n) =>
    s.phDone c st x.lane b || (decide (st.lead ≤ n) && s.phHeld map x.lane b.1)

/-- The bc, counted from reset, at which entry e of a placed form's map is predicted filled: the form's MACs up to it at the
rate of Table 04-1, at the operating point of its slice (R85, R210). A form torn down begins again now. -/
def State.fillAt (s : State) (f : Form) (e : Nat) : Nat :=
  match f.desc, s.formStep f.desc with
  | .raw b, some (_, st) =>
    let d := deltaDesc b
    let at_ := if f.waiting then s.lcount.toNat else f.at_.toNat
    20 * at_ + ceilDiv (20 * (e / s.perRow d st + 1) * d.k * d.bw) (upRate d.berth * pointAcs (s.slicePwr (f.core / 6400)).opp.toNat)
  | _, _ => 0

/-- The predicted bc of a delta beat's pigeonhole; none where no placed form fills it. -/
def State.predictFill (s : State) (c : Cmd) (st : Step) (l : Nat) (b : W × Nat × Nat) : Option Nat :=
  if s.phDone c st l b ∨ ((s.lane l).crossing.any fun w => w.tag == b.1) then some 0
  else s.forms.findSome? fun (_, f) =>
    if f.waiting && !f.reissued then none
    else ((s.formMap f.desc).findIdx? fun m => m.lane = l && m.tag == b.1).map (s.fillAt f)

/-- The rate budget on one lane: in fill order, the n-th pigeonhole is filled by the time its beat comes, less the margin (R210).
The block delays a command that does not meet it. -/
def State.rateOk (s : State) (c : Cmd) (st : Step) (x : LaneShare) : Bool :=
  let ts := (s.deltaBeats c st x).map (s.predictFill c st x.lane)
  let order := sortBy id (ts.map (·.getD 0))
  ts.all (·.isSome) && (order.zipIdx).all fun (t, n) =>
    decide (t + (s.rd pgSched 0x060).toNat ≤ 20 * s.lcount.toNat + s.decl.lA.toNat + n + 1)

/-- The command's station is open to its step (R262). -/
def State.cmdOpen (s : State) (c : ArrayCmd) (st : Step) : Bool :=
  s.stationOpen st ((s.desc st.model.toNat).cmdStation c) (c.pass == 10#4)

def State.issueOk (s : State) (map : List MapEntry) (c : Cmd) : Bool :=
  c.stage = .granted &&
    (match s.cmdStep c with
      | some st => s.cmdOpen c.arr st && c.shares.all fun x => s.leadOk c st map x && s.rateOk c st x
      | none => false)

/-- 256-byte units a command sends on the feed lanes: its weights, and its rows of X or dY. -/
def State.feedUnits (s : State) (c : ArrayCmd) (st : Step) : Nat :=
  let m := s.desc st.model.toNat
  let (i, o) := match c.pass.toNat with
    | 9 => (m.dModel, m.experts)
    | 10 => ((m.widths c.proj.toNat).2, (m.widths c.proj.toNat).1)
    | p => ((m.widths p).1, s.cmdWidth c st)
  ceilDiv (o * xBytes 3 i) 256 + ceilDiv (c.rows.length * xBytes s.decl.xFmt.toNat i) 256

def commandIssueOp (s : State) : State :=
  let map := s.placedMap
  match s.cmds.find? (s.issueOk map) with
  | none => s
  | some c =>
    match (List.range 256).find? fun i => !(s.idsOut.any fun x => x.toNat = i) with
    | none => s
    | some id =>
      if !s.running pgArray ∨ !s.clkUp 1 ∨ s.decl.nArray.toNat ≤ s.idsOut.length then s
      else
        let units := match s.cmdStep c with | some st => s.feedUnits c.arr st | none => 0
        ((s.setCmd { c with stage := .issued, id := BitVec.ofNat 8 id, issueAt := s.lcount }).inc pgArray 0x200).count
          (regAt pgArray 0x210) units

/-- COMMAND_ISSUE (R93, R210, R390): the first granted command that may issue does. -/
def execCommandIssue (s : State) : Host.Outcome State Fault Refusal :=
  if !s.serves .commandIssue then .next s else
  let t := commandIssueOp s
  .next { s with cmds := t.cmds, ctrs := t.ctrs, hdrs := t.hdrs, regs := t.regs }

end Sys2Proof.Machine
end

