-- ==== Sys2Proof/Machine/Reset.lean ====
section
/-! DEFINITION. Cold and warm resets (16_clocks_power_reset.md R353, Table 16-2): what each clears and keeps, up to the
start of bring-up. -/
namespace Sys2Proof.Machine

/-- FW_MIN: burnt bits of the thermometer (R321). -/
def fuseFwMin (f : BitVec 512) : BitVec 7 := BitVec.ofNat 7 ((List.range 64).filter fun i => f.getLsbD (5 + i)).length

/-- A stack's contents and its temperature input outlive a reset; the controller does not (Table 16-2). -/
def Stack.cold (k : Stack) : Stack := { temp := k.temp }

/-- In a warm reset the controller and the PHY stay in service: the training and its rate are kept; a copy is abandoned. -/
def Stack.warm (k : Stack) : Stack :=
  { temp := k.temp, trainTemp := k.trainTemp, rate := k.rate, seen := k.seen }

/-- The pins of the power port keep their levels; the slice starts at 1.6 GHz (R348). -/
def SlicePwr.afterReset (p : SlicePwr) : SlicePwr :=
  { droop := p.droopIn, droopIn := p.droopIn, vack := p.vack, temp := p.temp }

def mapTab {α : Type} (f : α → α) (t : Tab α) : Tab α := t.map fun (k, v) => (k, f v)

/-- A cold reset: bring-up phase 1 reads the fuses. -/
def State.coldReset (s : State) (cause : Nat) : State :=
  { State.reset with
    pending := s.pending, part := s.part, fuses := s.fuses, mem := s.mem, uncorr := s.uncorr, stk := mapTab Stack.cold s.stk,
    host := s.host, store := s.store, fresh := s.fresh, decl := s.decl,
    lc := s.fuses.setWidth 5, fwMin := fuseFwMin s.fuses,
    pwr := mapTab SlicePwr.afterReset s.pwr, cause := BitVec.ofNat 3 cause }

/-- The registers of a stack controller that a warm reset keeps: CAP, RPC and RETIRED, UNCORR_SEEN (Tables 16-2, 12-6 to 12-9). -/
def warmKeeps (addr : Nat) : W :=
  let p := addr / 0x1000
  let o := addr % 0x1000
  if pageKind p = some .mem then
    if o = 0x040 then 0x7#32 else if o = 0x044 then 0x1FC#32 else if 0x400 ≤ o ∧ o < 0x500 then 0x10000#32 else 0#32
  else 0#32

/-- The retained-settings store as a warm reset finds it; an export under way is abandoned (R360). -/
def Retained.warm (r : Retained) : Retained :=
  { r with dirty := r.dirty || r.exporting, exporting := false, snapshot := [], full := false, stale := false, restore := 0#2,
           changeAt := 0#64 }

/-- A warm reset, at the start of bring-up phase 2. -/
def State.warmReset (s : State) (cause : Nat) : State :=
  { s.coldReset cause with
    lc := s.lc, fwMin := s.fwMin, ident := s.ident, keys := s.keys, nonce := s.nonce, ret := s.ret.warm,
    stk := mapTab Stack.warm s.stk, quarantine := s.quarantine, lostGranules := s.lostGranules,
    regs := (s.regs.filter fun (a, _) => warmKeeps a ≠ 0#32).map fun (a, v) =>
      (a, mergeBits (warmKeeps a) (hardOf s.part a) v)
    hdrs := (s.hdrs.filter fun (p, h) => pageKind p = some .mem && h.st == .fault).map fun (p, _) => (p, { st := .fault })
    phase := 2#4 }

/-- A warm reset during a reset or bring-up that has not got past phase 1 leaves the part there (R306, R308). -/
def State.warm (s : State) (cause : Nat) : State := if s.phase = 1#4 then s else s.warmReset cause

/-- POWER_ON_RESET (R353). -/
def execPowerOnReset (s : State) : Host.Outcome State Fault Refusal := .next (s.coldReset 0)

/-- COLD_RESET_INPUT (R353). -/
def execColdResetInput (s : State) : Host.Outcome State Fault Refusal := .next (s.coldReset 1)

/-- WARM_RESET_INPUT (R353). -/
def execWarmResetInput (s : State) : Host.Outcome State Fault Refusal := .next (s.warm 4)

/-- COLD (R353). -/
def execRstCold (s : State) : Host.Outcome State Fault Refusal :=
  if !s.serves .rstCold then .next s else
  .next (s.coldReset 2)

/-- WARM (R353). -/
def execRstWarm (s : State) : Host.Outcome State Fault Refusal :=
  if !s.serves .rstWarm then .next s else
  .next (s.warm 5)

end Sys2Proof.Machine
end

