-- ==== Sys2Proof/Machine/Security.lean ====
section
/-! DEFINITION. Life cycle, device identity, key slots, attestation and firmware signing (14_security.md). -/
namespace Sys2Proof.Machine

/-! ## Fuses (Tables 14-1, 18-9) -/


/-- The device secret (R307). -/
def fuseSecret (f : BitVec 512) : BitVec 256 := (f >>> 69).setWidth 256

/-- Sealed, with no return pending (the column "Sealed" of Table 14-2). -/
def State.isSealed (s : State) : Bool := s.lc == 0b00011#5

/-- A SEC command waits for its host read: 0 SEC_KCMD, 1 SEC_ACMD, 2 SEC_LCCMD. -/
def State.secWaits (s : State) (k : Nat) : Bool := (tget? s.secTasks k).isSome

/-- A life-cycle command runs: its request is being read, or it burns. -/
def State.lcRuns (s : State) : Bool := s.fuseTask.isSome || s.secWaits 2

/-! ## Identity (R312) -/

/-- A private scalar of a label, from the device secret. -/
def identScalar (secret : BitVec 256) (label : String) : Nat :=
  let key := leBytes 32 secret.toNat
  let t := ([1, 2].flatMap fun i => hmacSha384 key (Config.identKdfMessage (asciiBytes label) i)).take 56
  ofBe t % (P384.n - 1) + 1

def octets (n : Nat) (bs : List Byte) : BitVec n := BitVec.ofNat n (ofBe bs)

def identOf (secret : BitVec 256) : Ident :=
  let d := identScalar secret "IRZ-IDENT"
  let e := identScalar secret "IRZ-IMPORT"
  { dIdent := BitVec.ofNat 384 d, dImport := BitVec.ofNat 384 e
    idPub := octets 768 (P384.encode (P384.smul d P384.g)), impPub := octets 768 (P384.encode (P384.smul e P384.g)) }

/-- SEC_IDPUB and SEC_IMPPUB, as octets; zero outside Sealed. -/
def State.idPub (s : State) : List Byte := match s.ident with | some i => beBytes 96 i.idPub.toNat | none => zeroBytes 96
def State.impPub (s : State) : List Byte := match s.ident with | some i => beBytes 96 i.impPub.toNat | none => zeroBytes 96

def State.nonceBytes (s : State) : List Byte := leBytes 48 s.nonce.toNat

/-- A draw of the entropy source. -/
def State.newNonce (s : State) : State := State.tick { s with nonce := Config.entropy s.fresh }

def State.blobAt (s : State) : Nat := s.rd64 pgSec 0x050

/-- A SEC command reads n bytes at SEC_BLOB; it goes on when they have come (R311, R313, R316). -/
def State.secAsk (s : State) (k n op : Nat) : State :=
  let task : SecTask := { addr := BitVec.ofNat 64 s.blobAt, due := (hostPieces s.blobAt n).length, op := BitVec.ofNat 3 op }
  State.askHost { s with secTasks := tput s.secTasks k task } (.sec (BitVec.ofNat 2 k)) s.blobAt n

def fieldLe (bs : List Byte) (off n : Nat) : Nat := ofLe ((bs.drop off).take n)

def cut (bs : List Byte) (off n : Nat) : List Byte := (bs.drop off).take n

/-! ## Life-cycle commands (R309 to R311) -/

/-- SEC_LCCMD ends with its code. -/
def State.lcDone (s : State) (op code : Nat) : State := s.wr pgSec 0x05C (BitVec.ofNat 32 (op + 16 * code))

/-- The command starts to burn: GO reads 1 until it ends. -/
def State.lcBurn (s : State) (op : Nat) (bits : List Nat) : State :=
  State.wr { s with fuseTask := some { op := BitVec.ofNat 3 op, bits := bits.map (BitVec.ofNat 9) } } pgSec 0x05C
    (BitVec.ofNat 32 (op + 2 ^ 31))

/-- A signed request that has been read, checked (R311): its ARG, or the code that refuses it; a reserved OP of Table 14-3 makes it
malformed (R8). -/
def State.signedCheck (s : State) (op : Nat) (b : List Byte) : Nat ⊕ Nat :=
  let arg := fieldLe b 8 4
  let named := fieldLe b 4 4
  if fieldLe b 0 4 ≠ 0x51535A49 ∨ fieldLe b 12 4 ≠ 0 ∨ (op ≠ 5 ∧ arg ≠ 0) ∨ named = 0 ∨ 5 < named then .inr 2
  else
    let qv := cut b 0x10 96
    let msg := b.take 0x70 ++ sha384 s.idPub ++ s.nonceBytes
    if sha384 qv = Config.controlKeyDigest ∧ P384.verify qv (sha384 msg) (cut b 0x70 96) ∧ named = op then .inl arg else .inr 3

/-- A life-cycle command that is not dropped: a GO while one runs is, and ERR_COUNT advances (R383). -/
def State.lcCmd (s : State) (f : State → State) : State := if s.lcRuns then s.errInc pgSec else f s

/-- UNSEAL from the test port, which takes the fuse-programming instruction in Blank alone (R309, R397). -/
def lcUnsealOp (s : State) (testPort : Bool) : State :=
  s.lcCmd fun s =>
    if s.life ≠ .blank then s.lcDone 1 1
    else if testPort && s.testPort == .fuses then s.lcBurn 1 [0] else s.lcDone 1 3

/-- UNSEAL (R309). -/
def execLcUnseal (testPort : Bool) (s : State) : Host.Outcome State Fault Refusal :=
  if !s.serves (.lcUnseal testPort) then .next s else
  let t := lcUnsealOp s testPort
  .next { s with fuseTask := t.fuseTask, hdrs := t.hdrs, regs := t.regs, ret := t.ret }

/-- SEAL: a secret from the entropy source, bit by bit, then LC[1] (R307, R394). -/
def lcSealOp (s : State) : State :=
  s.lcCmd fun s =>
    if s.life ≠ .unsealed then s.lcDone 2 1
    else
      let secret := (Config.entropy s.fresh).setWidth 256
      (s.tick).lcBurn 2 ((((List.range 256).filter fun i => secret.getLsbD i).map (69 + ·)) ++ [1])

/-- SEAL (R309). -/
def execLcSeal (s : State) : Host.Outcome State Fault Refusal :=
  if !s.serves .lcSeal then .next s else
  let t := lcSealOp s
  .next { s with fuseTask := t.fuseTask, fresh := t.fresh, hdrs := t.hdrs, regs := t.regs, ret := t.ret }

/-- A command whose authority is a signed request: GO reads 1 while the request is read. -/
def State.signedCmd (s : State) (op : Nat) : State := (s.wr pgSec 0x05C (BitVec.ofNat 32 (op + 2 ^ 31))).secAsk 2 208 op

/-- The thermometer bits that RAISE_FW_MIN burns: none where ARG is not above FW_MIN or exceeds a running SVN (R321). -/
def State.raiseBits (s : State) (arg : Nat) : List Nat :=
  let ok (c : Cluster) : Bool := !c.loaded || arg ≤ c.svn.toNat
  if s.fwMin.toNat < arg ∧ arg ≤ 64 ∧ ok s.cluster0 ∧ ok s.cluster1 then
    ((List.range 64).filter fun i => s.fwMin.toNat ≤ i && i < arg).map (5 + ·)
  else []

/-- Fuse bits of a command with an accepted request (Table 14-3, R321). -/
def State.signedBits (s : State) (op arg : Nat) : List Nat :=
  match op with
  | 3 => [2]
  | 4 => [4]
  | _ => s.raiseBits arg

/-- The request's bytes have come, or one of its reads has failed (R311, R381): SEC_NONCE is replaced. -/
def State.signedCame (s : State) (k : SecTask) : State :=
  let op := k.op.toNat
  let t := s.newNonce
  if k.bad then t.lcDone op 4
  else match s.signedCheck op (mread s.host k.addr.toNat 208) with
    | .inr code => t.lcDone op code
    | .inl arg =>
      match t.signedBits op arg with
      | [] => t.lcDone op 1
      | bs => t.lcBurn op bs

def lcReturnOp (s : State) : State :=
  s.lcCmd fun s => if !s.isSealed then s.lcDone 3 1 else s.signedCmd 3

/-- RETURN (R310). -/
def execLcReturn (s : State) : Host.Outcome State Fault Refusal :=
  if !s.serves .lcReturn then .next s else
  let t := lcReturnOp s
  .next { s with
    fuseTask := t.fuseTask, secTasks := t.secTasks, readQ := t.readQ, hostReads := t.hostReads,
    ctrs := t.ctrs, hdrs := t.hdrs, regs := t.regs, ret := t.ret }

def lcVoidOp (s : State) : State :=
  s.lcCmd fun s =>
    match s.life with
    | .blank | .unsealed | .returned => s.lcBurn 4 [4]
    | .sealed => if s.isSealed then s.signedCmd 4 else s.lcDone 4 1
    | .void => s.lcDone 4 1

/-- VOID (R309). -/
def execLcVoid (s : State) : Host.Outcome State Fault Refusal :=
  if !s.serves .lcVoid then .next s else
  let t := lcVoidOp s
  .next { s with
    fuseTask := t.fuseTask, secTasks := t.secTasks, readQ := t.readQ, hostReads := t.hostReads,
    ctrs := t.ctrs, hdrs := t.hdrs, regs := t.regs, ret := t.ret }

def raiseFwMinOp (s : State) : State :=
  s.lcCmd fun s => if !s.isSealed then s.lcDone 5 1 else s.signedCmd 5

/-- RAISE_FW_MIN (R321). -/
def execRaiseFwMin (s : State) : Host.Outcome State Fault Refusal :=
  if !s.serves .raiseFwMin then .next s else
  let t := raiseFwMinOp s
  .next { s with
    fuseTask := t.fuseTask, secTasks := t.secTasks, readQ := t.readQ, hostReads := t.hostReads,
    ctrs := t.ctrs, hdrs := t.hdrs, regs := t.regs, ret := t.ret }

/-- One burn acknowledged: a bit that reads 1 is burnt; the third failure stops the transition; after the last bit the part
resets cold (R309, R394). -/
def fuseBurnAckOp (s : State) (ok : Bool) : State :=
  match s.fuseTask with
  | none => s
  | some k =>
    match ok, k.bits with
    | _, [] => State.coldReset s 3
    | true, b :: rest =>
      let s := { s with fuses := s.fuses ||| BitVec.ofNat 512 (2 ^ b.toNat) }
      if rest = [] then s.coldReset 3 else { s with fuseTask := some { k with bits := rest, tries := 0 } }
    | false, _ :: _ =>
      if k.tries < 2 then { s with fuseTask := some { k with tries := k.tries + 1 } }
      else State.lcDone { s with fuseTask := none, erasing := false } k.op.toNat 2

/-- FUSE_BURN_ACK (R394). -/
def execFuseBurnAck (ok : Bool) (s : State) : Host.Outcome State Fault Refusal :=
  if !s.serves (.fuseBurnAck ok) then .next s else
  .next { fuseBurnAckOp s ok with pending := s.pending, part := s.part }

/-! ## Key slots (R314 to R316) -/

/-- The owner words of R314. -/
def ownerLegal (w : W) : Bool :=
  match bitsOf w 1 0 with
  | 1 => bitsOf w 31 12 = 0
  | 2 => bitsOf w 31 6 = 0
  | 3 => bitsOf w 31 18 = 0 && bitsOf w 11 6 < bitsOf w 17 12
  | _ => false

/-- The seven derived keys of a 256-bit key (R315). -/
def slotOfKey (owner : W) (k : List Byte) : KeySlot :=
  let d (label : String) : BitVec 256 := BitVec.ofNat 256 (ofLe (kdfCmac k label))
  { owner := owner, xtsA := d "XTSA", xtsB := d "XTSB", hctr := d "HCTR", dcmc := d "DCMC", mask := d "MASK", kcv := d "KCV1",
    prst := d "PRST" }

/-- The key-encryption key of an import (R316). -/
def State.importKek (s : State) (z : List Byte) (owner slot : Nat) : List Byte :=
  (sha384 ([0#8, 0#8, 0#8, 1#8] ++ z ++ asciiBytes "IRZ-KEY" ++ leBytes 4 owner ++ leBytes 2 slot ++ s.nonceBytes ++ s.impPub)).take 32

/-- The key K of an import blob; none where E is not on the curve or the wrap fails its integrity check. -/
def State.importKey (s : State) (b : List Byte) (owner slot : Nat) : Option (List Byte) :=
  let x := ofBe (cut b 0x10 48)
  let y := ofBe (cut b 0x40 48)
  match s.ident, P384.onCurve x y with
  | some i, true =>
    match P384.smul i.dImport.toNat (some (x, y)) with
    | some (zx, _) => kwUnwrap (s.importKek (beBytes 48 zx) owner slot) (cut b 0x70 40)
    | none => none
  | _, _ => none

/-- The checks of IMPORT in order: the slot and its keys, or the code (R316). -/
def State.importCheck (s : State) (b : List Byte) : (Nat × KeySlot) ⊕ Nat :=
  let owner := fieldLe b 4 4
  let w : W := BitVec.ofNat 32 owner
  let slot := fieldLe b 8 2
  if fieldLe b 0 4 ≠ 0x4B535A49 ∨ fieldLe b 0x0A 6 ≠ 0 ∨ fieldLe b 0x98 104 ≠ 0 ∨ !ownerLegal w ∨ 1024 ≤ slot then .inr 2
  else if decide (slot = 0) ≠ decide (w = ownerTenant 0) then .inr 3
  else if (tget? s.keys slot).isSome then .inr 4
  else if (s.slotOfOwner w).isSome then .inr 5
  else match s.importKey b owner slot with
    | none => .inr 6
    | some k => .inl (slot, slotOfKey w k)

/-- SEC_KCMD ends with its code. -/
def State.kcmdDone (s : State) (op code : Nat) : State := s.wr pgSec 0x044 (BitVec.ofNat 32 (op + 2 ^ 8 * code))

def State.importEnd (s : State) (code : Nat) : State :=
  ((s.kcmdDone 1 code).inc pgSec (if code = 0 then 0x210 else 0x218)).raise pgSec 2

/-- The blob has come, or a read of it failed (R316, R381): its checks, and SEC_NONCE replaced. -/
def State.importCame (s : State) (k : SecTask) : State :=
  if k.bad then (s.newNonce).importEnd 8
  else match s.importCheck (mread s.host k.addr.toNat 256) with
    | .inr c => (s.newNonce).importEnd c
    | .inl (n, v) => (State.newNonce { s with keys := tput s.keys n v }).importEnd 0

/-- A GO of SEC_KCMD: dropped while a key command runs, BUSY while an attestation or a life-cycle command does (R316). -/
def State.keyCmd (s : State) (busy f : State → State) : State :=
  if s.secWaits 0 then s.errInc pgSec else if s.lcRuns ∨ s.secWaits 1 then busy s else f s

def keyImportOp (s : State) : State :=
  s.keyCmd (fun s => (s.kcmdDone 1 7).raise pgSec 2) fun s =>
    if !s.isSealed then (s.newNonce).importEnd 1
    else (s.wr pgSec 0x044 (BitVec.ofNat 32 (1 + 2 ^ 31))).secAsk 0 256 1

/-- IMPORT (R316). -/
def execKeyImport (s : State) : Host.Outcome State Fault Refusal :=
  if !s.serves .keyImport then .next s else
  let t := keyImportOp s
  .next { s with
    secTasks := t.secTasks, nonce := t.nonce, fresh := t.fresh, readQ := t.readQ, hostReads := t.hostReads,
    ctrs := t.ctrs, hdrs := t.hdrs, regs := t.regs, ret := t.ret }

def State.emptySlot (s : State) (n : Nat) : State := { s with keys := tdel s.keys n }

def keyClearOp (s : State) : State :=
  s.keyCmd (fun s => s.kcmdDone 2 7) fun s =>
    if !s.isSealed then s.kcmdDone 2 1
    else (s.emptySlot (bitsOf (s.rd pgSec 0x048) 9 0)).kcmdDone 2 0

/-- CLEAR (R316). -/
def execKeyClear (s : State) : Host.Outcome State Fault Refusal :=
  if !s.serves .keyClear then .next s else
  let t := keyClearOp s
  .next { s with keys := t.keys, hdrs := t.hdrs, regs := t.regs, ret := t.ret }

/-! ## Attestation (R313) -/

def State.keyOwner (s : State) (n : Nat) : W := match tget? s.keys n with | some k => k.owner | none => 0#32

/-- SHA-384 over the owner words in slot order. -/
def State.ownersDigest (s : State) : List Byte :=
  sha384 ((List.range 1024).flatMap fun n => leBytes 4 (s.keyOwner n).toNat)

/-- Bytes 0x000 to 0x19F of the report (Table 14-4). -/
def State.reportBody (s : State) (challenge : List Byte) (slot : Nat) : List Byte :=
  leBytes 4 0x41545A49 ++ [0x01#8, BitVec.ofNat 8 s.life.code, Config.issueLetter, BitVec.ofNat 8 s.part.config] ++
  leBytes 4 s.part.number.toNat ++ leBytes 4 s.fwMin.toNat ++ leBytes 8 s.lcount.toNat ++
  leBytes 4 s.cluster0.svn.toNat ++ leBytes 4 s.cluster1.svn.toNat ++
  beBytes 48 s.cluster0.digest.toNat ++ beBytes 48 s.cluster1.digest.toNat ++ challenge ++ s.impPub ++ s.ownersDigest ++
  leBytes 4 slot ++ leBytes 4 (s.keyOwner slot).toNat ++
  (match tget? s.keys slot with | some k => cmac (keyBytes k.kcv) challenge | none => zeroBytes 16) ++ zeroBytes 72

/-- SEC_ACMD ends with its code. -/
def State.acmdEnd (s : State) (code : Nat) : State := s.setFld pgSec 0x058 10 2 code

/-- The challenge has come, or its read failed (R313, R381): the report is signed and written over it. -/
def State.attestCame (s : State) (k : SecTask) : State :=
  if k.bad then (s.setFld pgSec 0x058 31 1 0).acmdEnd 3
  else
    let body := s.reportBody (mread s.host k.addr.toNat 48) (bitsOf (s.rd pgSec 0x058) 9 0)
    let n := (Config.entropy s.fresh).toNat % (P384.n - 1) + 1
    let report := body ++ P384.sign ((s.ident.map (·.dIdent.toNat)).getD 0) n (sha384 body)
    (((s.tick).hostWrite k.addr.toNat report).setFld pgSec 0x058 31 1 0).acmdEnd 0

/-- A GO of SEC_ACMD: dropped while an attestation runs, BUSY while a key command or a life-cycle command does (Table 14-9). -/
def attestOp (s : State) : State :=
  if s.secWaits 1 then s.errInc pgSec
  else if s.lcRuns ∨ s.secWaits 0 then s.acmdEnd 2
  else if s.isSealed ∧ s.ident.isSome then (s.setFld pgSec 0x058 31 1 1).secAsk 1 48 0
  else s.acmdEnd 1

/-- ATTEST (R313). -/
def execAttest (s : State) : Host.Outcome State Fault Refusal :=
  if !s.serves .attest then .next s else
  let t := attestOp s
  .next { s with
    secTasks := t.secTasks, readQ := t.readQ, hostReads := t.hostReads,
    ctrs := t.ctrs, hdrs := t.hdrs, regs := t.regs, ret := t.ret }

/-- A read of a SEC command is answered, or has failed; after its last read the command goes on. -/
def State.secCame (s : State) (k : Nat) (ok : Bool) : State :=
  match tget? s.secTasks k with
  | none => s
  | some v =>
    let v := { v with due := v.due - 1, bad := v.bad || !ok }
    if v.due ≠ 0 then { s with secTasks := tput s.secTasks k v }
    else
      let s := { s with secTasks := tdel s.secTasks k }
      match k with
      | 0 => s.importCame v
      | 1 => s.attestCame v
      | _ => s.signedCame v

/-! ## Firmware images (R321) -/

/-- An Exuri image: its SVN, the digest of its body, and whether it passes the checks of R321. -/
structure FwImage where
  svn : Nat
  digest : List Byte
  ok : Bool
deriving DecidableEq, Repr

/-- An image that stands at a host address. Its SHA-384 is that of the whole image, header and body, as the report names it; the
header's digest is the body's (Table 14-4, R321). -/
def State.fwImage (s : State) (a : Nat) : FwImage :=
  let h := mread s.host a 256
  let body := mread s.host (a + 256) (fieldLe h 8 8 - 256)
  let svn := fieldLe h 4 4
  let key := cut h 64 96
  { svn := svn, digest := sha384 (h ++ body)
    ok := fieldLe h 0 4 == 0x57465A49 && svn ≤ 64 && 256 ≤ fieldLe h 8 8 && sha384 key == Config.firmwareKeyDigest &&
      P384.verify key (sha384 (h.take 160)) (cut h 160 96) && sha384 body == cut h 16 48 && s.fwMin.toNat ≤ svn }

/-- A cluster loads the image, or the image is rejected (R321, R23): the state, and whether it was accepted. -/
def State.fwTry (s : State) (a : Nat) : State × Option Cluster :=
  let i := s.fwImage a
  if s.life ≠ .sealed ∨ i.ok then (s, some { loaded := true, svn := BitVec.ofNat 7 i.svn, digest := octets 384 i.digest })
  else (((s.inc pgSec 0x220).raise pgSec 3).raise pgCtl 2, none)

/-- The next piece of an image, of at most 4 KiB, is read. -/
def State.fwNext (s : State) (k : FwTask) : State :=
  let a := k.addr.toNat + k.got
  State.askHost { s with fwTask := some k } .firmware a (min (k.need - k.got) (4096 - a % 4096))

/-- An image at CTL_FW_ADDR begins to be read: its header first. -/
def State.fwBegin (s : State) (target : Option Bool) : State :=
  s.fwNext { target := target, addr := BitVec.ofNat 64 (s.rd64 pgCtl 0x048) }

end Sys2Proof.Machine
end

