-- ==== Sys2Proof/Machine/Retained.lean ====
section
/-! DEFINITION. Retained settings (16_clocks_power_reset.md R357 to R359, Tables 16-4 and 16-5): building, checking,
applying and exporting the image. -/
namespace Sys2Proof.Machine

/-! ## The image (Tables 16-4, 16-5) -/

/-- The kept registers of a page: offset and information. -/
def keptRegs (p : Nat) : List (Nat × RegInfo) :=
  ((headerRows p ++ pageRows p).filter fun r => r.info.kept ≠ 0#32).flatMap fun r =>
    (List.range r.n).map fun i => (r.off + r.stride * i, r.info)

/-- Assigned pages of the configuration. -/
def pagesOf (part : Part) : List Nat := (List.range 0x200).filter (pagePresent part)

/-- Kept registers that differ from their hard default, by address, with the kept bits. -/
def State.keptOf (s : State) (p : Nat) : Tab W :=
  (keptRegs p).foldl (fun t (off, i) =>
    let a := regAt p off
    if (s.reg a ^^^ hardOf s.part a) &&& i.kept = 0#32 then t else tput t a (s.reg a &&& i.kept)) ([] : Tab W)

def State.keptWords (s : State) : Tab W := (pagesOf s.part).flatMap s.keptOf

/-- Consecutive keys gathered in runs of at most eight: first key and values. -/
def runsOf {α : Type} (stride : Nat) (t : Tab α) : List (Nat × List α) :=
  (t.foldl (fun (acc : List (Nat × List α)) (k, v) =>
    match acc with
    | (k0, vs) :: rest => if k = k0 + stride * vs.length ∧ vs.length < 8 then (k0, vs ++ [v]) :: rest else (k, [v]) :: acc
    | [] => [(k, [v])]) []).reverse

def tideWords (t : TideSlot) : List W :=
  [t.dur, BitVec.ofNat 32 (t.job.toNat + 2 ^ 8 * b2n t.valid + 2 ^ 9 * t.mask.toNat)]

def CoreState.code : CoreState → Nat
  | .inService => 0
  | .spare => 1
  | .fenced => 2
  | .testing => 3

/-- A core that runs its test is recorded as FENCED (R333). -/
def coreWord (c : CoreRec) : W :=
  let st := if c.st = .testing then .fenced else c.st
  BitVec.ofNat 32 (c.epoch.toNat + 2 ^ 8 * CoreState.code st)

def remapWord (r : Remap) : W := BitVec.ofNat 32 (r.prow.toNat + 2 ^ 8 * r.pcol.toNat + 2 ^ 14 * b2n r.vacant)

/-- The table items that differ from their defaults, as words (Table 16-5). -/
def State.tableItems (s : State) (t : Nat) : Tab (List W) :=
  match t with
  | 1 => (s.tide.filter fun (_, v) => v ≠ {}).map fun (k, v) => (k, tideWords v)
  | 2 => (s.cores.filter fun (k, v) => coreWord v ≠ coreWord (s.coreDefault k)).map fun (k, v) => (k, [coreWord v])
  | 3 => (s.remap.filter fun (k, v) => v ≠ { prow := BitVec.ofNat 8 (k % 6400 / 40), pcol := BitVec.ofNat 6 (k % 40), vacant := false }).map
      fun (k, v) => (k, [remapWord v])
  | 4 => (s.circ.filter fun (_, v) => v ≠ 0#32).map fun (k, v) => (k, [v])
  | _ => []

/-- The settings to record, one item each: a register under its address, an item of table n under the key of a run of one. -/
def State.settings (s : State) : Tab (List W) :=
  (s.keptWords.map fun (a, w) => (a, [w])) ++
    [1, 2, 3, 4].flatMap fun n => (s.tableItems n).map fun (k, ws) => (2 ^ 31 + n * 2 ^ 28 + k, ws)

/-- The body that holds these settings: runs in increasing key order. -/
def packItems (t : Tab (List W)) : List W :=
  let put (w : Nat) (r : Tab (List W)) (x : Nat × List (List W)) : Tab (List W) :=
    tput r (x.1 + (x.2.length - 1) * 2 ^ w) x.2.flatten
  let regs := (runsOf 4 (t.filter fun (k, _) => k < 2 ^ 31)).foldl (put 22) []
  let all := (runsOf 1 (t.filter fun (k, _) => 2 ^ 31 ≤ k)).foldl (put 25) regs
  all.flatMap fun (k, ws) => BitVec.ofNat 32 k :: ws

/-- An image with these settings keeps within 64 KiB (R357). -/
def imageFits (t : Tab (List W)) : Bool := decide ((packItems t).length + 16 ≤ 16384)

/-- The settings an image that held `old` can take of `new`: all, where they fit; else the items that `old` holds follow first,
which frees room, and the others are taken in key order while they fit (R357, R360, log 88). -/
def recordItems (old new : Tab (List W)) : Tab (List W) :=
  if imageFits new then new
  else new.foldl (fun t (k, ws) => if imageFits (tput t k ws) then tput t k ws else t)
    (new.filter fun (k, _) => (tget? old k).isSome)

def wordsBytes (ws : List W) : List Byte := ws.flatMap fun w => leBytes 4 w.toNat

/-- An image: header with its CRC, then the body (Table 16-4). -/
def imageOf (part : Part) (seq : BitVec 64) (base : W) (body : List W) : List W :=
  let h : List W := [0x52535A49#32, 0x1#32, part.number, BitVec.ofNat 32 body.length, seq.setWidth 32, (seq >>> 32).setWidth 32,
    base, 0#32, 0#32, 0#32, 0#32, 0#32, 0#32, 0#32, 0#32]
  h ++ [crc32 (wordsBytes h ++ wordsBytes body)] ++ body

/-- EPOCH_BASE. -/
def State.epochBase (s : State) : W :=
  BitVec.ofNat 32 ((List.range 4).foldl (fun x i => x + (tget 0#8 s.baseEpoch i).toNat * 2 ^ (8 * i)) 0)

/-! ## The restore check (R359) -/

/-- Words of a run after its key; none where the key is reserved or its index is out of range. -/
def runLen (part : Part) (key : W) : Option Nat :=
  if key.getLsbD 31 then
    let i := bitsOf key 24 0
    let n := bitsOf key 27 25 + 1
    match bitsOf key 30 28 with
    | 1 => if i + n ≤ 4096 then some (2 * n) else none
    | 2 => if i + n ≤ part.nPhys then some n else none
    | 3 => if i + n ≤ part.nCores then some n else none
    | 4 => if i + n ≤ 1040 then some n else none
    | _ => none
  else if bitsOf key 30 25 ≠ 0 ∨ bitsOf key 1 0 ≠ 0 ∨ key.getLsbD 21 then none
  else some (bitsOf key 24 22 + 1)

/-- The runs of a body; none when one is out of order, reserved, out of range or beyond LENGTH. -/
def parseRuns (part : Part) : Nat → Option Nat → List W → Option (List (W × List W))
  | _, _, [] => some []
  | 0, _, _ => none
  | fuel + 1, prev, k :: rest =>
    if prev.any fun p => k.toNat ≤ p then none
    else match runLen part k with
      | none => none
      | some n =>
        if rest.length < n then none
        else (parseRuns part fuel (some k.toNat) (rest.drop n)).map fun rs => (k, rest.take n) :: rs

/-- RESTORE, and the runs to apply when it is OK (R359). It looks at the part number and never at ISSUE: an image that one issue
of a part wrote is accepted by every issue of that part (00_scope.md R6). -/
def restoreCheck (part : Part) (r : Retained) : Nat × List (W × List W) :=
  let w (i : Nat) : W := r.image.getD i 0#32
  if r.ecc then (3, [])
  else if w 0 ≠ 0x52535A49#32 then (1, [])
  else
    let body := (r.image.drop 16).take (bitsOf (w 3) 15 0)
    let head := r.image.take 15
    if w 1 ≠ 0x1#32 ∨ w 2 ≠ part.number ∨ bitsOf (w 3) 31 16 ≠ 0 ∨ 16368 < bitsOf (w 3) 15 0 ∨ body.length < bitsOf (w 3) 15 0 ∨
        (head.drop 7).any (· ≠ 0#32) ∨ crc32 (wordsBytes head ++ wordsBytes body) ≠ w 15 then (2, [])
    else match parseRuns part body.length none body with
      | none => (2, [])
      | some rs => (0, rs)

/-! ## Restoring (R359) -/

/-- The register words of the runs, by address. -/
def regWords (rs : List (W × List W)) : List (Nat × W) :=
  rs.flatMap fun (k, ws) =>
    if k.getLsbD 31 then [] else ws.zipIdx.map fun (w, i) => (bitsOf k 21 2 * 4 + 4 * i, w)

/-- The items of table n, by index: one word each, or two for a tide slot. -/
def tabWords (n : Nat) (rs : List (W × List W)) : List (Nat × List W) :=
  rs.flatMap fun (k, ws) =>
    if k.getLsbD 31 ∧ bitsOf k 30 28 = n then
      (List.range (bitsOf k 27 25 + 1)).map fun i =>
        (bitsOf k 24 0 + i, if n = 1 then (ws.drop (2 * i)).take 2 else (ws.drop i).take 1)
    else []

/-- A kept register takes its kept bits from the image; its other bits stand. -/
def State.restoreWord (s : State) (a : Nat) (w : W) : State :=
  match regInfo (a / 0x1000) (a % 0x1000) with
  | some i =>
    if i.kept = 0#32 ∨ !pagePresent s.part (a / 0x1000) then s
    else { s with regs := tput s.regs a (mergeBits i.kept (s.reg a) w) }
  | none => s

/-- KEEP_MASK's bit for a group of a page. -/
def State.keepBit (s : State) (page group : Nat) : Bool := (s.rd page 0x024).getLsbD group

/-- Register runs applied where `own` says so, KEEP_MASK first. -/
def State.restoreRegs (s : State) (rs : List (W × List W)) (own : Nat → Bool) : State :=
  let ws := (regWords rs).filter fun (a, _) => own a
  let s := ws.foldl (fun (s : State) (a, w) => if a % 0x1000 = 0x024 then s.restoreWord a w else s) s
  ws.foldl (fun (s : State) (a, w) =>
    if a % 0x1000 ≠ 0x024 ∧ s.keepBit (a / 0x1000) (a % 0x1000 / 128) then s.restoreWord a w else s) s

def tideOf (ws : List W) : TideSlot :=
  let w := ws.getD 1 0#32
  { dur := ws.getD 0 0#32, job := BitVec.ofNat 8 (bitsOf w 7 0), valid := w.getLsbD 8, mask := BitVec.ofNat 20 (bitsOf w 28 9) }

def coreStateOf (n : Nat) : CoreState :=
  match n with
  | 0 => .inService
  | 1 => .spare
  | _ => .fenced

def State.restoreTide (s : State) (rs : List (W × List W)) : State :=
  if !s.keepBit pgTide 31 then s
  else { s with tide := (tabWords 1 rs).foldl (fun t (i, ws) => tput t i (tideOf ws)) s.tide }

/-- The kept bits of POOL_CFG (k = 0) and POOL_SEATj (k = 1 + j) (Tables 10-11, 10-12). -/
def circMask (i : Nat) : W := if i % 65 = 0 then 0x3F01#32 else 0x800FFFFF#32

def State.restoreCirc (s : State) (rs : List (W × List W)) : State :=
  if !s.keepBit pgPool 31 ∨ !s.part.hasTrain then s
  else { s with circ := (tabWords 4 rs).foldl (fun t (i, ws) => tput t i (ws.getD 0 0#32 &&& circMask i)) s.circ }

/-- Fence table and remap table (phase 7 of bring-up). -/
def State.restoreCores (s : State) (rs : List (W × List W)) : State :=
  let s := if !s.keepBit pgRel 31 then s
    else { s with cores := (tabWords 2 rs).foldl (fun t (i, ws) =>
      let w := ws.getD 0 0#32
      tput t i { st := coreStateOf (bitsOf w 9 8), epoch := BitVec.ofNat 8 (bitsOf w 7 0), own := BitVec.ofNat 8 (bitsOf w 7 0),
                  deadLogged := true }) s.cores }
  { s with remap := (tabWords 3 rs).foldl (fun t (i, ws) =>
      let w := ws.getD 0 0#32
      if s.keepBit (pgSlice (i / 6400)) 31 then
        tput t i { prow := BitVec.ofNat 8 (bitsOf w 7 0), pcol := BitVec.ofNat 6 (bitsOf w 13 8), vacant := w.getLsbD 14 }
      else t) s.remap }

/-- The base epochs of the image (Table 16-4). -/
def imageEpochs (r : Retained) : Tab (BitVec 8) :=
  let w := r.image.getD 6 0#32
  (List.range 4).filterMap fun i =>
    if bitsOf w (8 * i + 7) (8 * i) = 0 then none else some (i, BitVec.ofNat 8 (bitsOf w (8 * i + 7) (8 * i)))

/-! ## Rewriting and exporting (R357, R358) -/

/-- The settings that the runs of an image hold, one item each. -/
def runItems (rs : List (W × List W)) : Tab (List W) :=
  (regWords rs).map (fun (a, w) => (a, [w])) ++
    [1, 2, 3, 4].flatMap fun n => (tabWords n rs).map fun (k, ws) => (2 ^ 31 + n * 2 ^ 28 + k, ws)

/-- The settings the store's image holds. -/
def State.heldItems (s : State) : Tab (List W) := runItems (restoreCheck s.part s.ret).2

/-- The settings a rewritten image holds. -/
def State.recorded (s : State) : Tab (List W) := recordItems s.heldItems s.settings

def State.buildImage (s : State) : List W := imageOf s.part s.ret.seq s.epochBase (packItems s.recorded)

/-- The image is rewritten after a change; FULL where it does not hold it (R357, R360). -/
def imageUpdateOp (s : State) : State :=
  if !s.ret.stale then s
  else
    let whole := decide (s.recorded = s.settings)
    let t := { s with ret := { s.ret with
      stale := false, image := s.buildImage, ecc := false, full := s.ret.full || !whole
      dirty := s.ret.dirty || whole || s.buildImage != s.ret.image } }
    if whole then t else t.raise pgRst 2

/-- Kept settings of a page that a reset has changed make the image stale (R357). -/
def State.touchPage (s old : State) (p : Nat) : State :=
  if s.keptOf p = old.keptOf p ∧ s.tide = old.tide ∧ s.circ = old.circ then s else s.touch

/-- After a restore, the settings that KEEP_MASK kept out differ from the image (R357, R359). -/
def State.touchRestored (s : State) : State :=
  if s.ret.restore = 0#2 ∧ s.heldItems ≠ s.settings then s.touch else s

/-- IMAGE_UPDATE (R357). -/
def execImageUpdate (s : State) : Host.Outcome State Fault Refusal :=
  if !s.serves .imageUpdate then .next s else
  let t := imageUpdateOp s
  .next { s with ret := t.ret, hdrs := t.hdrs }

/-- RST_CMD ends with its code. -/
def State.rstDone (s : State) (op page sub code : Nat) : State :=
  s.wr pgRst 0x040 (BitVec.ofNat 32 (op + 2 ^ 4 * page + 2 ^ 13 * sub + 2 ^ 16 * code))

/-- The image as it stands, under a new SEQ; where none passes its check, the image of the present settings. -/
def State.snapshot (s : State) : List W :=
  let seq := s.ret.seq + 1#64
  if (restoreCheck s.part s.ret).1 ≠ 0 then imageOf s.part seq s.epochBase (packItems s.recorded)
  else imageOf s.part seq (s.ret.image.getD 6 0#32) (s.ret.image.drop 16)

/-- An export starts: snapshot, SEQ, DIRTY cleared, EXPORTING set (R358). -/
def State.startExport (s : State) : State :=
  let img := s.snapshot
  { s with ret := { s.ret with
      image := img, seq := s.ret.seq + 1#64, snapshot := img, dirty := false, exporting := true } }

def rstExportOp (s : State) : State :=
  if s.ret.exporting then s.rstDone 5 0 0 1 else (s.startExport).rstDone 5 0 0 0

/-- EXPORT (R358). -/
def execRstExport (s : State) : Host.Outcome State Fault Refusal :=
  if !s.serves .rstExport then .next s else
  let t := rstExportOp s
  .next { s with ret := t.ret, regs := t.regs }

/-- The image is due for an export of its own (R358). -/
def State.exportDue (s : State) : Bool :=
  (s.rd pgRst 0x04C).getLsbD 0 && s.ret.dirty && !s.ret.exporting && !s.ret.stale &&
    s.ret.changeAt.toNat + (s.rd pgRst 0x050).toNat ≤ s.lcount.toNat

/-- AUTO_EXPORT (R358). -/
def execAutoExport (s : State) : Host.Outcome State Fault Refusal :=
  if !s.serves .autoExport then .next s else
  let t := if s.exportDue then s.startExport else s
  .next { s with ret := t.ret }

def exportDoneOp (s : State) : State :=
  if !s.ret.exporting then s
  else State.raise { s with store := some s.ret.snapshot, ret := { s.ret with exporting := false, snapshot := [] } } pgRst 3

/-- EXPORT_DONE (R358). -/
def execExportDone (s : State) : Host.Outcome State Fault Refusal :=
  if !s.serves .exportDone then .next s else
  let t := exportDoneOp s
  .next { s with store := t.store, ret := t.ret, hdrs := t.hdrs }

def exportFailOp (s : State) : State :=
  if !s.ret.exporting then s
  else State.raise { s with ret := { s.ret with exporting := false, snapshot := [], dirty := true } } pgRst 4

/-- EXPORT_FAIL (R358). -/
def execExportFail (s : State) : Host.Outcome State Fault Refusal :=
  if !s.serves .exportFail then .next s else
  let t := exportFailOp s
  .next { s with ret := t.ret, hdrs := t.hdrs }

end Sys2Proof.Machine
end

