-- ==== Sys2Proof/Machine/Reliability.lean ====
section
/-! DEFINITION. Fencing, sparing, network messages, loss of control entries, the error log, control clusters
(15_reliability.md R327 to R341; 17_registers.md R377, R378). -/
namespace Sys2Proof.Machine

/-! ## Binding (R334, R335) -/

/-- The logical number bound to a physical core, a binding that a fencing has left pending included. -/
def State.boundTo (s : State) (pc : Nat) : Option Nat :=
  let sl := pc / 6560
  let id := pc % 6560
  match s.remap.find? fun (n, r) => n / 6400 = sl && !r.vacant && r.phys sl = pc with
  | some (n, _) => some n
  | none => if id < 6400 ∧ (tget? s.remap (6400 * sl + id)).isNone then some (6400 * sl + id) else none

/-- The lowest-numbered free spare of a slice. -/
def State.lowSpare (s : State) (slice : Nat) : Option Nat :=
  ((List.range 6560).map (6560 * slice + ·)).find? fun pc => (s.core pc).st == .spare

/-- A logical number is bound to the lowest free spare of its slice, or becomes vacant (R334, R335). -/
def State.bind (s : State) (n : Nat) : State :=
  let slice := n / 6400
  let s := { s with unbound := s.unbound.filter (· ≠ n) }
  match s.lowSpare slice with
  | some pc =>
    let s := s.sparesLow (s.setCore pc { s.core pc with st := .inService }) slice
    let id := pc % 6560
    let s := { s with remap := tput s.remap n { prow := BitVec.ofNat 8 (id / 40), pcol := BitVec.ofNat 6 (id % 40), vacant := false } }
    ((s.inc pgRel 0x228).logRec 0x0A pgRel 0 (BitVec.ofNat 32 pc)).touch
  | none =>
    let b := s.binding n
    let s := { s with remap := tput s.remap n { b with vacant := true } }
    ((s.logRec 0x0B pgRel 0 (BitVec.ofNat 32 (b.phys slice))).raise pgRel 3).touch

/-- The first number of a slice that awaits a binding. -/
def spareBindOp (s : State) (slice : Nat) : State :=
  match s.unbound.find? fun n => n / 6400 = slice with
  | some n => (s.bind n).placeWaiting
  | none => s

/-- SPARE_BIND (R334). -/
def execSpareBind (slice : BitVec 2) (s : State) : Host.Outcome State Fault Refusal :=
  if !s.serves (.spareBind slice) then .next s else
  let t := spareBindOp s slice.toNat
  .next { s with
    cores := t.cores, remap := t.remap, unbound := t.unbound, forms := t.forms, jobs := t.jobs, gated := t.gated,
    domIdle := t.domIdle, staging := t.staging, stagedKeys := t.stagedKeys, stk := t.stk, log := t.log, logOvf := t.logOvf,
    ret := t.ret, ctrs := t.ctrs, hdrs := t.hdrs, regs := t.regs }

/-- REL_CMD ends with its code. -/
def State.relDone (s : State) (op core code : Nat) : State :=
  s.wr pgRel 0x040 (BitVec.ofNat 32 (core + 2 ^ 15 * op + 2 ^ 20 * code))

/-- The test of a core other than pc still runs: REL_CMD's GO reads 1, and another is dropped (R383). -/
def State.relBusy (s : State) (pc : Nat) : Bool := (s.rd pgRel 0x040).getLsbD 31 && (s.core pc).st != .testing

def fenceOp (s : State) (pc : Nat) : State :=
  if (s.rd pgRel 0x040).getLsbD 31 then s.errInc pgRel
  else if s.part.nPhys ≤ pc then s.relDone 1 pc 3
  else if (s.core pc).st = .fenced ∨ (s.core pc).st = .testing then s.relDone 1 pc 2
  else (s.fenceCore pc).relDone 1 pc 0

/-- FENCE (R331). -/
def execFence (core : BitVec 15) (s : State) : Host.Outcome State Fault Refusal :=
  if !s.serves (.fence core) then .next s else
  let t := fenceOp s core.toNat
  .next { s with
    forms := t.forms, jobs := t.jobs, used := t.used, cores := t.cores, unbound := t.unbound, overruns := t.overruns,
    debt := t.debt, gated := t.gated, domIdle := t.domIdle, staging := t.staging, stagedKeys := t.stagedKeys, stk := t.stk,
    log := t.log, logOvf := t.logOvf, ret := t.ret, ctrs := t.ctrs, hdrs := t.hdrs, regs := t.regs }

/-- The lowest vacant number of a slice. -/
def State.vacantIn (s : State) (slice : Nat) : Option Nat :=
  (s.remap.find? fun (n, r) => n / 6400 = slice && r.vacant).map (·.1)

/-- The core is fenced, or its test runs, and no number is bound to it (R336). -/
def State.mayTest (s : State) (pc : Nat) : Bool :=
  ((s.core pc).st == .fenced || (s.core pc).st == .testing) && (s.boundTo pc).isNone

/-- A test that fails or is abandoned: the core stays FENCED (R336, Table 15-8). -/
def State.testFails (s : State) (pc : Nat) : State :=
  State.relDone ((s.setCore pc { s.core pc with st := .fenced }).logRec 0x0D pgRel 0 (BitVec.ofNat 32 pc)) 2 pc 4

/-- GO with OP 2: the test starts, and REINSTATE ends it; a core that may not be tested is answered at once (R336). -/
def State.startTest (s : State) (pc : Nat) : State :=
  if s.part.nPhys ≤ pc then s.relDone 2 pc 3
  else if !s.mayTest pc ∨ (s.core pc).st = .testing then s.relDone 2 pc 2
  else (s.setCore pc { s.core pc with st := .testing }).wr pgRel 0x040 (BitVec.ofNat 32 (pc + 2 ^ 16 + 2 ^ 31))

/-- The test of a fenced core (R336): a core that passes is a free spare, which a vacant number takes at once (R335). -/
def reinstateOp (s : State) (pc : Nat) (pass : Bool) : State :=
  if s.relBusy pc then s.errInc pgRel
  else if s.part.nPhys ≤ pc then s.relDone 2 pc 3
  else if !s.mayTest pc then s.relDone 2 pc 2
  else if !pass then s.testFails pc
  else
    let c := s.core pc
    let s := s.setCore pc { c with st := .spare, own := c.epoch }
    let s := ((s.inc pgRel 0x230).logRec 0x0C pgRel 0 (BitVec.ofNat 32 pc)).touch
    let s := match s.vacantIn (pc / 6560) with
      | some n => (s.bind n).placeWaiting
      | none => s
    s.relDone 2 pc 0

/-- REINSTATE (R336). -/
def execReinstate (core : BitVec 15) (pass : Bool) (s : State) : Host.Outcome State Fault Refusal :=
  if !s.serves (.reinstate core pass) then .next s else
  let t := reinstateOp s core.toNat pass
  .next { s with
    cores := t.cores, remap := t.remap, unbound := t.unbound, forms := t.forms, jobs := t.jobs, gated := t.gated,
    domIdle := t.domIdle, staging := t.staging, stagedKeys := t.stagedKeys, stk := t.stk, log := t.log, logOvf := t.logOvf,
    ret := t.ret, ctrs := t.ctrs, hdrs := t.hdrs, regs := t.regs }

/-! ## Network messages (R327, R332) -/

/-- A message of a form was dropped: the form is not acknowledged, and does not complete (R327). -/
def State.unack (s : State) (fid : Nat) : State :=
  match tget? s.forms fid with
  | some f => if f.waiting then s else { s with forms := tput s.forms fid { f with unacked := true } }
  | none => s

/-- A message from a core, which stamps its own epoch register into it (R331). A header that fails its parity is dropped whatever it
says; a berth it was addressed to meets R96 at once (R327). A message whose epoch is not the fence table's is a dead letter
(R332). -/
def nocMessageOp (s : State) (pc : Nat) (form : Option Nat) (parityOk : Bool) (toBerth : Option Nat) : State :=
  if !parityOk then
    let s := (s.inc pgRel 0x218).logOpen 0x07 pgRel 0
    let s := match form with
      | some fid => s.unack fid
      | none => s
    match toBerth with
    | some fid => formFaultOp s fid false
    | none => s
  else if s.part.nPhys ≤ pc then s
  else
    let c := s.core pc
    if c.own = c.epoch then s
    else
      let s := s.inc pgRel 0x200
      if c.deadLogged then s
      else (s.setCore pc { c with deadLogged := true }).logRec 0x08 pgRel 0 (BitVec.ofNat 32 pc)

/-- NOC_MESSAGE (R327, R332): what a good message does is the meaning of the command that sends it. -/
def execNocMessage (core : BitVec 15) (form : Option Nat) (parityOk : Bool) (toBerth : Option Nat) (s : State) :
    Host.Outcome State Fault Refusal :=
  if !s.serves (.nocMessage core form parityOk toBerth) then .next s else
  let t := nocMessageOp s core.toNat form parityOk toBerth
  .next { s with
    forms := t.forms, jobs := t.jobs, used := t.used, cores := t.cores, unbound := t.unbound, overruns := t.overruns,
    debt := t.debt, gated := t.gated, domIdle := t.domIdle, staging := t.staging, stagedKeys := t.stagedKeys, stk := t.stk,
    fresh := t.fresh, log := t.log, logOvf := t.logOvf, ret := t.ret, ctrs := t.ctrs, hdrs := t.hdrs, regs := t.regs }

/-! ## The error log (R329) -/

def logWord0 (r : Option LogRec) : W :=
  match r with
  | some r => BitVec.ofNat 32 (r.cls.toNat + 2 ^ 6 * r.page.toNat + 2 ^ 15 + 2 ^ 16 * r.inst.toNat)
  | none => 0#32

/-- Word i of the latched record (REL_LOG1 to REL_LOG3). -/
def logWord (r : Option LogRec) (i : Nat) : W :=
  match r, i with
  | some r, 1 => r.detail
  | some r, 2 => r.time.setWidth 32
  | some r, 3 => (r.time >>> 32).setWidth 32
  | _, _ => 0#32

/-- REL_LOG0_READ (R329). -/
def execRelLog0Read (s : State) : Host.Outcome State Fault Refusal :=
  if !s.serves .relLog0Read then .next s.shut else
  .next { s with logLatch := s.log.head?, logRead := true, rdata := logWord0 s.log.head? }

/-- REL_LOG3_READ (R329): the latched record leaves the log. -/
def execRelLog3Read (s : State) : Host.Outcome State Fault Refusal :=
  if !s.serves .relLog3Read then .next s.shut else
  .next { s with
    log := if s.logRead && s.logLatch.isSome then s.log.drop 1 else s.log
    logRead := false, rdata := logWord s.logLatch 3 }

/-! ## Control clusters (R340, R341, R377, R378) -/

def State.cluster (s : State) (c : Bool) : Cluster := if c then s.cluster1 else s.cluster0

def State.setCluster (s : State) (c : Bool) (v : Cluster) : State :=
  if c then { s with cluster1 := v } else { s with cluster0 := v }

/-- A cluster runs an accepted image. -/
def Cluster.up (c : Cluster) : Bool := c.loaded && !c.fault

/-- Every duty to one cluster. -/
def allDuties (c : Bool) : BitVec 8 := if c then 0xFF#8 else 0x00#8

/-- A cluster holds a duty. -/
def State.holdsDuty (s : State) (c : Bool) : Bool := s.duty ≠ allDuties (!c)

/-- Units of the control area that the images that run need (CTL_TABLES_MIN). -/
def State.tablesNeed (s : State) : BitVec 28 :=
  let need (c : Cluster) : Nat := if c.up then (Config.tablesMin c.digest).toNat else 0
  BitVec.ofNat 28 (max (need s.cluster0) (need s.cluster1))

/-- The control area is unset, too small, or not wholly inside one CONTROL region (R378). -/
def State.areaBad (s : State) : Bool :=
  let base := bitsOf (s.rd pgCtl 0x058) 27 0 * 4096
  let units := bitsOf (s.rd pgCtl 0x05C) 27 0
  units < 256 + ceilDiv s.prSize 32768 + s.tablesMin.toNat || !s.inKind kControl base (4096 * units)

/-- The check of R378. -/
def State.checkTables (s : State) : State :=
  let s := { s with tablesMin := s.tablesNeed }
  if s.areaBad then State.raise { s with tablesBad := true } pgCtl 3 else { s with tablesBad := false }

/-- A write of a register R148 names; one of CACHE_PR_SIZE checks the control area again (R378). -/
def State.poolReg (s : State) (off : Nat) (v : W) : State :=
  if off = 0x078 then (poolWrite s off v).checkTables else poolWrite s off v

/-- CACHE_POOL_WRITE (R148). -/
def execCachePoolWrite (offset : BitVec 12) (value : W) (s : State) : Host.Outcome State Fault Refusal :=
  if !s.serves (.cachePoolWrite offset value) then .next s else
  let off := offset.toNat / 4 * 4
  let t := if isPoolReg off then s.poolReg off value else s
  .next { s with regs := t.regs, hdrs := t.hdrs, ret := t.ret, tablesMin := t.tablesMin, tablesBad := t.tablesBad }

/-- Every duty moves to a cluster (R340, R341). -/
def State.moveDuties (s : State) (c : Bool) : State :=
  (State.inc { s with duty := allDuties c } pgCtl 0x200).raise pgCtl 0

/-- A cluster fails: the other takes every duty at once; where it cannot, both have failed and the block resets warm
(R341, R353). -/
def State.clusterDown (s : State) (c : Bool) : State :=
  if (s.cluster c).fault then s
  else
    let s := s.setCluster c { s.cluster c with loaded := false, svn := 0#7, digest := 0#384, fault := true }
    if !(s.cluster (!c)).up then s.warm 6
    else (((s.moveDuties (!c)).raise pgCtl 1).logOpen 0x13 pgCtl 0).checkTables

/-- CLUSTER_FAULT (R341). -/
def execClusterFault (cluster : Bool) (s : State) : Host.Outcome State Fault Refusal :=
  if !s.serves (.clusterFault cluster) then .next s else
  .next { s.clusterDown cluster with pending := s.pending, part := s.part, fuses := s.fuses }

/-- CTL_FWCMD ends with its code. -/
def State.fwDone (s : State) (op : Nat) (c : Bool) (code : Nat) : State :=
  s.wr pgCtl 0x040 (BitVec.ofNat 32 (op + 4 * b2n c + 2 ^ 8 * code))

/-- A GO of CTL_FWCMD (R340, R341): dropped while a LOAD runs, BUSY while the bring-up loader reads its image. -/
def State.fwCmd (s : State) (op : Nat) (c : Bool) (f : State → State) : State :=
  match s.fwTask with
  | none => f s
  | some k => if k.target.isSome then s.errInc pgCtl else s.fwDone op c 1

def handoverOp (s : State) (c : Bool) : State :=
  s.fwCmd 1 c fun s => if !(s.cluster c).up then s.fwDone 1 c 2 else (s.moveDuties c).fwDone 1 c 0

/-- HANDOVER (R340). -/
def execHandover (cluster : Bool) (s : State) : Host.Outcome State Fault Refusal :=
  if !s.serves (.handover cluster) then .next s else
  let t := handoverOp s cluster
  .next { s with duty := t.duty, ctrs := t.ctrs, hdrs := t.hdrs, regs := t.regs, ret := t.ret }

/-- A LOAD: the target holds no duty, or the bring-up loader waits for an image (R340, R354). GO reads 1 while the image is read. -/
def fwLoadOp (s : State) (c : Bool) : State :=
  s.fwCmd 2 c fun s =>
    if s.phase ≠ 5#4 ∧ s.holdsDuty c then s.fwDone 2 c 2
    else (s.wr pgCtl 0x040 (BitVec.ofNat 32 (2 + 4 * b2n c + 2 ^ 31))).fwBegin (some c)

/-- FW_LOAD (R340). -/
def execFwLoad (cluster : Bool) (s : State) : Host.Outcome State Fault Refusal :=
  if !s.serves (.fwLoad cluster) then .next s else
  let t := fwLoadOp s cluster
  .next { s with
    fwTask := t.fwTask, readQ := t.readQ, hostReads := t.hostReads,
    ctrs := t.ctrs, hdrs := t.hdrs, regs := t.regs, ret := t.ret }

/-- The image has been read, or a read of it failed: a LOAD ends with its code, the bring-up loader runs an accepted image in both
clusters and otherwise waits (R321, R340, R354). -/
def State.fwEnd (s : State) (k : FwTask) (ok : Bool) : State :=
  let s := { s with fwTask := none }
  let r : State × Option Cluster := if ok then s.fwTry k.addr.toNat else (s.raise pgCtl 2, none)
  match k.target, r with
  | some c, (s, some v) => ((s.setCluster c v).checkTables).fwDone 2 c 0
  | some c, (s, none) => s.fwDone 2 c 4
  | none, (s, some v) => { s with cluster0 := v, cluster1 := v }
  | none, (s, none) => s

/-- A piece of an image is read, or its read failed: after the header its length tells how much is to follow. -/
def State.fwCame (s : State) (ok : Bool) : State :=
  match s.fwTask with
  | none => s
  | some k =>
    if !ok then s.fwEnd k false
    else
      let a := k.addr.toNat + k.got
      let k := { k with got := k.got + min (k.need - k.got) (4096 - a % 4096) }
      let k := if k.need = 256 ∧ k.got = 256 then { k with need := max 256 (fieldLe (mread s.host k.addr.toNat 256) 8 8) } else k
      if k.got < k.need then s.fwNext k else s.fwEnd k true

def splitOp (s : State) : State :=
  s.fwCmd 3 false fun s => if !s.cluster0.up ∨ !s.cluster1.up then s.fwDone 3 false 2 else State.fwDone { s with duty := 0xF0#8 } 3 false 0

/-- SPLIT (R340). -/
def execSplit (s : State) : Host.Outcome State Fault Refusal :=
  if !s.serves .split then .next s else
  let t := splitOp s
  .next { s with duty := t.duty, hdrs := t.hdrs, regs := t.regs, ret := t.ret }

/-! ## Loss of a control entry (R328, Table 15-3) -/

/-- The page and instance that report a store's loss. -/
def ctrlPage (store index : Nat) : Nat × Nat :=
  match store with
  | 0 => (pgSched, 0)
  | 1 => (pgDir, 0)
  | 2 => (pgStep, 0)
  | 3 => (pgStep, 0)
  | 4 => (pgCache, 0)
  | 5 => (pgMerge (index / 65536), index / 65536)
  | 6 => (pgCache, 0)
  | 7 => (pgTide, 0)
  | 8 => (0x030, 0)
  | 9 => (pgSec, 0)
  | 10 => (pgRel, 0)
  | 11 => (pgSlice (index / 6400), index / 6400)
  | _ => (pgCtl, 0)

/-- Entries of a store. -/
def State.storeSize (s : State) (store : Nat) : Nat :=
  match store with
  | 1 => 65536
  | 2 => 4096
  | 3 => 256
  | 4 => 131072
  | 5 => 65536 * s.part.nLanes
  | 6 => 16384 * s.part.slices
  | 7 => 4096
  | 8 => 64
  | 9 => 1024
  | 10 => s.part.nPhys
  | 11 => s.part.nCores
  | 12 => 2
  | _ => 0

/-- A lost directory entry is RETIRING, with the pins of the steps in flight (R69). -/
def State.loseEntry (s : State) (id : Nat) : State :=
  let e := s.entry id
  if e.st = .free then s
  else
    let s := (s.stopIntake id).setEntry id { e with st := .retiring, open_ := false }
    (s.removeWays fun w => w.adapter.toNat == id).reapEntry id

/-- A lost request slot (R328): the request ends MEM_UNCORR and the slot returns to IDLE. -/
def State.loseSlot (s : State) (q : Nat) : State :=
  let v := s.slot q
  if v.alive then (s.setSlot q { v with lost := true }).slotUnc q
  else if v.pendingEnd.isSome then s.setSlot q { v with lost := true }
  else s.setSlot q {}

/-- A lost way: references whose frame number can still be read are dropped; a frame whose reference cannot be read stays
allocated until a cold reset (R328). Which words can be read is open (log 2). -/
def State.loseWay (s : State) (k : Nat) : State :=
  match tget? s.prefixes k with
  | none => s
  | some w =>
    let r := Config.freeWord s.fresh
    let s := State.tick { s with prefixes := tdel s.prefixes k }
    let keep (s : State) (f : Nat) : State := if s.quarantine.contains f then s else { s with quarantine := s.quarantine ++ [f] }
    let s := if r.getLsbD 0 then s.dropHolder w.frame.toNat else keep s w.frame.toNat
    if w.first then s else if r.getLsbD 1 then s.dropHolder w.prev.toNat else keep s w.prev.toNat

/-- A lost fence-table entry (R328): the core is fenced, its test abandoned where one runs, and its slot is rewritten with the
advanced epoch. -/
def State.loseFence (s : State) (pc : Nat) : State :=
  let s := if (s.core pc).st = .testing then s.testFails pc else s
  if (s.core pc).st = .fenced then State.touch (s.setCore pc { s.core pc with epoch := (s.core pc).epoch + 1#8 })
  else s.fenceCore pc

/-- A corrected SECDED error (R324): the word is written back as it was, REL_CTRL_CORR counts it, and it is logged when
REL_CFG.LOG_CORR = 1. Its DETAIL has no meaning of its own (log 2). -/
def State.ctrlCorrected (s : State) (store index : Nat) : State :=
  let s := s.inc pgRel 0x208
  let p := ctrlPage store index
  if (s.rd pgRel 0x044).getLsbD 1 then s.logOpen 0x05 p.1 p.2 else s

/-- An uncorrectable word of a control SRAM (R328): the entry that holds it is lost. -/
def ctrlUncorrOp (s : State) (store index : Nat) : State :=
  if s.storeSize store ≤ index then s
  else
    let p := ctrlPage store index
    let s := (s.inc pgRel 0x210).logRec 0x06 p.1 p.2 (BitVec.ofNat 32 (2 ^ 24 * store + index))
    match store with
    | 1 => s.loseEntry index
    | 2 => s.loseSlot index
    | 3 =>
      let j := s.job index
      if j.st = 1#2 then s.setJob index { j with st := 2#2, closeAt := s.lcount } else s
    | 4 => s.loseWay index
    | 5 => s.laneFault (index / 65536)
    | 6 => { s with tcache := s.tcache.eraseIdx index }
    | 7 => match tget? s.tide index with
      | some t => State.touch { s with tide := tput s.tide index { t with valid := false } }
      | none => s
    | 8 => s.setFld 0x030 (0x800 + 16 * index) 31 1 0
    | 9 => s.emptySlot index
    | 10 => s.loseFence index
    | 11 => if (s.binding index).vacant then s else s.fenceCore ((s.binding index).phys (index / 6400))
    | _ => s.clusterDown (decide (index = 1))

/-- What the report of a store's code does (R324): index names the entry; a store has no entry beyond its size. -/
def secdedOp (s : State) (error : SecdedError) (index : Nat) : State :=
  match error with
  | .uncorrectable store => ctrlUncorrOp s store.toNat index
  | .corrected store => if store ≠ 0#8 ∧ s.storeSize store.toNat ≤ index then s else s.ctrlCorrected store.toNat index

/-- CTRL_UNCORR (R328, R324). -/
def execCtrlUncorr (error : SecdedError) (index : BitVec 24) (s : State) : Host.Outcome State Fault Refusal :=
  if !s.serves (.ctrlUncorr error index) then .next s else
  .next { secdedOp s error index.toNat with pending := s.pending, part := s.part, fuses := s.fuses }

end Sys2Proof.Machine
end

