-- ==== Sys2Proof/Machine/Sched.lean ====
section
/-! DEFINITION. The SCHED and TIDE commands: tideline, share groups, accounting period, model entries, the tide table
(09_scheduling.md R198 to R209). -/
namespace Sys2Proof.Machine

/-! ## The tideline (R205, Table 09-8) -/

def tidelineWrite (s : State) (v : W) : State :=
  if v.getLsbD 8 ∧ bitsOf v 5 0 = 0 then s.errInc pgSched
  else s.wr pgSched 0x048 ((v &&& 0x33F#32) ||| 0x10000#32)

/-- SCHED_TIDELINE_WRITE (R205): the value waits for a boundary. -/
def execSchedTidelineWrite (value : W) (s : State) : Host.Outcome State Fault Refusal :=
  if !s.serves (.schedTidelineWrite value) then .next s else
  let t := tidelineWrite s value
  .next { s with regs := t.regs, hdrs := t.hdrs, ret := t.ret }

/-! ## Share groups (R198, Table 09-7) -/

/-- SHARE a group word brings to the sum: that of an enabled latency-critical group. -/
def lcShare (w : W) : Nat := if w.getLsbD 0 && w.getLsbD 1 then bitsOf w 24 16 else 0

/-- A group word may be written (R198). -/
def State.grpLegal (s : State) (g : Nat) (w : W) : Bool :=
  let others := (((List.range 64).filter fun k => k ≠ g).map fun k => lcShare (s.grpWord k)).sum
  others + lcShare w ≤ 256 &&
    (!w.getLsbD 0 || (if w.getLsbD 1 then bitsOf w 24 16 ≠ 0 else bitsOf w 15 8 ≠ 0))

def grpWrite (s : State) (g : Nat) (v : W) : State :=
  let w := v &&& 0x01FFFF03#32
  if s.grpLegal g w then s.wr pgSched (0x100 + 4 * g) w else s.errInc pgSched

/-- SCHED_GRP_WRITE (R198). -/
def execSchedGrpWrite (group : BitVec 6) (value : W) (s : State) : Host.Outcome State Fault Refusal :=
  if !s.serves (.schedGrpWrite group value) then .next s else
  let t := grpWrite s group.toNat value
  .next { s with regs := t.regs, hdrs := t.hdrs, ret := t.ret }

/-! ## The accounting period (R199) -/

def periodEndOp (s : State) : State :=
  if s.lcount.toNat < s.periodAt.toNat + (s.rd pgSched 0x044).toNat then s
  else { s with cap := s.cap >>> 1, used := s.used.map fun (g, u) => (g, u >>> 1), periodAt := s.lcount }

/-- PERIOD_END (R199). -/
def execPeriodEnd (s : State) : Host.Outcome State Fault Refusal :=
  if !s.serves .periodEnd then .next s else
  let t := periodEndOp s
  .next { s with cap := t.cap, used := t.used, periodAt := t.periodAt }

/-! ## Model entries (R202) -/

/-- A model entry that no step in flight uses. -/
def State.entryFree (s : State) (e : ModelRes) : Bool :=
  !e.valid || s.jobs.all fun (_, j) => match j.cur with | some st => st.model ≠ e.model | none => true

/-- The free model entry used least recently. -/
def State.entryToFill (s : State) : Option Nat :=
  (((s.modelRes.zipIdx).filter fun (e, _) => s.entryFree e).foldl (fun (best : Option (Nat × Nat)) (e, i) =>
    match best with
    | none => some (i, e.used)
    | some (_, u) => if e.used < u then some (i, e.used) else best) none).map (·.1)

/-- SWITCH: a job that would be granted a step now, but for its model's entry (R197, R202). -/
def modelSwitchOp (s : State) (model : Nat) : State :=
  let wanted := s.jobs.any fun (k, j) => j.model == model && s.turnOf k && s.wouldForm k
  if s.resident model ∨ !(s.model model).loaded ∨ !wanted then s
  else match s.entryToFill with
    | none => s
    | some i =>
      let e : ModelRes := { valid := true, model := BitVec.ofNat 8 model, used := s.lcount.toNat }
      (({ s with modelRes := s.modelRes.set i e }).inc pgSched 0x068).raise pgSched 0

/-- SWITCH (R202): a model an open job waits for takes a model entry. -/
def execModelSwitch (model : BitVec 8) (s : State) : Host.Outcome State Fault Refusal :=
  if !s.serves (.modelSwitch model) then .next s else
  let t := modelSwitchOp s model.toNat
  .next { s with modelRes := t.modelRes, ctrs := t.ctrs, hdrs := t.hdrs, regs := t.regs }

/-! ## The tide table (R206 to R209) -/

def State.tideSlot (s : State) (k : Nat) : TideSlot := tget {} s.tide k

/-- The image of Table 09-2 in the TIDE registers. -/
def State.tideImg (s : State) : TideSlot :=
  let j := s.rd pgTide 0x04C
  { dur := s.rd pgTide 0x048, job := BitVec.ofNat 8 (bitsOf j 7 0), valid := j.getLsbD 8,
    mask := BitVec.ofNat 20 (bitsOf (s.rd pgTide 0x050) 19 0) }

def State.tideSel (s : State) (slot : BitVec 12) : State := s.wr pgTide 0x044 (slot.setWidth 32)

/-- TIDE_LOAD (R206). -/
def tideLoadOp (s : State) (slot : BitVec 12) : State :=
  let t := s.tideSlot slot.toNat
  (((s.tideSel slot).wr pgTide 0x048 t.dur).wr pgTide 0x04C (BitVec.ofNat 32 (t.job.toNat + 256 * b2n t.valid))).wr
    pgTide 0x050 (t.mask.setWidth 32)

def execTideLoad (slot : BitVec 12) (s : State) : Host.Outcome State Fault Refusal :=
  if !s.serves (.tideLoad slot) then .next s else
  .next { s with regs := (tideLoadOp s slot).regs }

/-- The image may be committed (R206). -/
def State.tideLegal (s : State) (t : TideSlot) : Bool :=
  (!t.valid || (1000 ≤ t.dur.toNat && t.dur.toNat ≤ 100000000 && t.mask ≠ 0#20)) && t.mask.toNat < 2 ^ (s.part.nCols / 8)

def tideCommitOp (s : State) (slot : BitVec 12) : State :=
  let s := s.tideSel slot
  let t := s.tideImg
  if !s.tideLegal t then s.errInc pgTide
  else if s.tideSlot slot.toNat = t then s
  else ({ s with tide := if t = TideSlot.mk 0#32 0#8 false 0#20 then tdel s.tide slot.toNat else tput s.tide slot.toNat t }).touch

/-- TIDE_COMMIT (R206). -/
def execTideCommit (slot : BitVec 12) (s : State) : Host.Outcome State Fault Refusal :=
  if !s.serves (.tideCommit slot) then .next s else
  let t := tideCommitOp s slot
  .next { s with tide := t.tide, regs := t.regs, hdrs := t.hdrs, ret := t.ret }

/-- The window ends; forms of its job that still run make an overrun (R209). -/
def State.endWindow (s : State) : State :=
  let c := s.tideCur
  if !c.windowOpen then s
  else
    let running := s.forms.any fun (_, f) => f.job == some c.fields.job && !f.waiting
    { s with
      tideCur := { c with windowOpen := false }
      overruns := if running then s.overruns ++ [(c.fields.job.toNat, BitVec.ofNat 64 s.windowEndAt)] else s.overruns }

/-- A slot begins: its fields are latched and the debt of its job is deducted (R207, R209). -/
def State.beginSlot (s : State) (k start : Nat) : State :=
  let t := s.tideSlot k
  let j := s.job t.job.toNat
  let ok := t.valid && j.st == 1#2 && j.isTrain
  let debt := tget 0 s.debt t.job.toNat
  let d := if ok then min debt t.dur.toNat else 0
  let s := if d = 0 then s else { s with debt := if debt = d then tdel s.debt t.job.toNat else tput s.debt t.job.toNat (debt - d) }
  { s with tideCur := { slot := BitVec.ofNat 12 k, fields := { t with valid := ok }, start := BitVec.ofNat 64 start,
                        deduct := d, windowOpen := ok && decide (d < t.dur.toNat) } }

def slotBeginOp (s : State) : State :=
  let c := s.tideCur
  let at_ := c.start.toNat + c.fields.dur.toNat
  if !s.running pgTide ∨ s.lcount.toNat < at_ then s
  else
    let s := s.endWindow
    if c.slot.toNat + 1 < bitsOf (s.rd pgTide 0x040) 12 0 then s.beginSlot (c.slot.toNat + 1) at_
    else ((s.beginSlot 0 at_).inc pgTide 0x060).raise pgTide 1

/-- SLOT_BEGIN (R207). -/
def execSlotBegin (s : State) : Host.Outcome State Fault Refusal :=
  if !s.serves .slotBegin then .next s else
  let t := slotBeginOp s
  .next { s with
    tideCur := t.tideCur, debt := t.debt, overruns := t.overruns, ctrs := t.ctrs, hdrs := t.hdrs, regs := t.regs }

/-- WINDOW_END (R209). -/
def execWindowEnd (s : State) : Host.Outcome State Fault Refusal :=
  if !s.serves .windowEnd then .next s else
  let t := if s.windowEndAt ≤ s.lcount.toNat then s.endWindow else s
  .next { s with tideCur := t.tideCur, overruns := t.overruns }

end Sys2Proof.Machine
end

