-- ==== Sys2Proof/Machine/Units.lean ====
section
/-! DEFINITION. The common disable rule and the partial resets: UNIT_DISABLE, UNIT_ENABLE, UNIT_DRAINED, UNIT, SLICE
(15_reliability.md R337, R338, Table 15-6; 16_clocks_power_reset.md R355, R356). -/
namespace Sys2Proof.Machine

/-! ## ENABLE (R337, R372) -/

/-- Lanes of a MERGE page. -/
def mergeLanes (page : Nat) : List Nat := (List.range 4).map fun q => 4 * (page - 0x050) + q

/-- The page's ENABLE can be written (Table 17-7). -/
def State.enableRw (s : State) (page : Nat) : Bool :=
  pageHeader page && s.pageLive page && decide (pgSched < page)

def unitDisableOp (s : State) (page : Nat) : State :=
  if !s.enableRw page then s
  else match pageKind page with
    | some .mem => s.errInc page
    | some .merge => (mergeLanes page).foldl (fun (s : State) l => laneDisableOp s l) s
    | _ =>
      let s := s.setFld page 0x00C 0 1 0
      if s.running page then s.setUnit page .draining else s

/-- UNIT_DISABLE (R337). -/
def execUnitDisable (page : BitVec 9) (s : State) : Host.Outcome State Fault Refusal :=
  if !s.serves (.unitDisable page) then .next s else
  let t := unitDisableOp s page.toNat
  .next { s with lanes := t.lanes, hdrs := t.hdrs, regs := t.regs, ret := t.ret }

/-- The frame table and the page lists as firmware writes them when CACHE starts: no request holds a frame, and a frame that
the prefix table names keeps its entry (R148, R150). -/
def State.clearTables (s : State) : State :=
  let lb := bitsOf (s.rd pgCache 0x060) 27 0 * 4096
  let fb := bitsOf (s.rd pgCache 0x064) 27 0 * 4096
  let held := (s.prefixes.flatMap fun (_, w) => if w.first then [w.frame.toNat] else [w.frame.toNat, w.prev.toNat]).dedup
  let old := held.map fun f => (f, s.frame f)
  let wipe (s : State) (a n : Nat) : State :=
    if !s.inKind kControl a n then s
    else { s with
      mem := s.mem.filter fun (k, _) => !(a ≤ k && k < a + n) || s.stackFault (s.stackOf k)
      uncorr := s.uncorr.filter fun w => !(a ≤ 32 * w && 32 * w < a + n) || s.stackFault (s.stackOf (32 * w)) }
  let s := wipe (wipe s lb (2 ^ 29)) fb (2 ^ 24)
  old.foldl (fun (s : State) (f, v) => s.setFrame f v) s

/-- What a unit does when it becomes RUNNING: the tide starts at slot 0 (R207), admission applies the tests it put off
(Table 15-6), a port trains (R292), host requests that waited go out, firmware clears CACHE's tables. -/
def State.unitStarts (s : State) (page : Nat) : State :=
  match pageKind page with
  | some .tide => s.beginSlot 0 s.lcount.toNat
  | some .adm => (s.slots.map (·.1)).foldl (fun (s : State) q => s.admTests q) s
  | some .link => s.trainPort (page - 0x040)
  | some .host => s.pumpHost.pumpParcels
  | some .cache => s.clearTables
  | _ => s

def unitEnableOp (s : State) (page : Nat) : State :=
  if !s.enableRw page then s
  else match pageKind page with
    | some .merge => (mergeLanes page).foldl (fun (s : State) l => (s.setLaneEnable l true).laneOn l) s
    | k =>
      let s := s.setFld page 0x00C 0 1 1
      if !s.ready then s
      else match s.unit page with
        | .off => (s.setUnit page .running).unitStarts page
        | .running => if k = some .link then s.trainPort (page - 0x040) else s
        | .fault => if k = some .link then (s.setUnit page .running).trainPort (page - 0x040) else s
        | _ => s

/-- UNIT_ENABLE (R337). -/
def execUnitEnable (page : BitVec 9) (s : State) : Host.Outcome State Fault Refusal :=
  if !s.serves (.unitEnable page) then .next s else
  let t := unitEnableOp s page.toNat
  .next { s with
    lanes := t.lanes, debt := t.debt, tideCur := t.tideCur, jobs := t.jobs, slots := t.slots, ports := t.ports, mem := t.mem,
    uncorr := t.uncorr, host := t.host, readQ := t.readQ, hostReads := t.hostReads, writeQ := t.writeQ, hostWrites := t.hostWrites, granules := t.granules,
    tcache := t.tcache, stk := t.stk, log := t.log, logOvf := t.logOvf, ret := t.ret, ctrs := t.ctrs, hdrs := t.hdrs,
    regs := t.regs,
    orphans := t.orphans, prefixes := t.prefixes }

/-! ## Drained (Table 15-6) -/

def State.vecPlaced (s : State) (k : VecKind) : Bool :=
  s.forms.any fun (_, f) => match f.desc with | .vec v => v.kind == k | _ => false

/-- No accepted work is left in a draining unit. -/
def State.unitIdle (s : State) (page : Nat) : Bool :=
  match pageKind page with
  | some .step => s.jobs.all fun (_, j) => j.cur.isNone
  | some .intake => s.intakes.all (fun a => !a.running) && s.wf.st != .checking
  | some .cache =>
    s.orphans.isEmpty &&
      s.slots.all (fun (q, v) => v.parcels.all (·.acked) && !(v.active && !v.frameless && v.parcels != []) &&
        (!v.alive || (s.listPages q).isEmpty))
  | some .samp => !s.vecPlaced .sample
  | some .train => s.jobs.all fun (_, j) => !j.isTrain || j.cur.isNone
  | some .tide => !s.tideCur.windowOpen
  | some .pool => s.forms.all fun (_, f) => match f.desc with | .raw b => dForm b ≠ 0x50 | _ => true
  | some .array => s.idsOut.isEmpty
  | some .host => s.hostReads.isEmpty && s.hostWrites.isEmpty
  | some .slice => s.forms.all fun (_, f) => f.core / 6400 != page - 0x020 || f.waiting
  | some .link =>
    let v := s.port (page - 0x040)
    v.st != .training && v.replay.isEmpty && v.resend.isEmpty && v.queue.isEmpty
  | _ => true

/-- A draining unit becomes OFF, or RUNNING when its ENABLE is 1 again. -/
def unitDrainedOp (s : State) (page : Nat) : State :=
  if s.unit page ≠ .draining ∨ pageKind page = some .merge ∨ !s.unitIdle page then s
  else if s.enabled page then (s.setUnit page .running).unitStarts page
  else s.setUnit page .off

/-- UNIT_DRAINED (R337). -/
def execUnitDrained (page : BitVec 9) (s : State) : Host.Outcome State Fault Refusal :=
  if !s.serves (.unitDrained page) then .next s else
  let t := unitDrainedOp s page.toNat
  .next { s with
    debt := t.debt, tideCur := t.tideCur, jobs := t.jobs, slots := t.slots, ports := t.ports, mem := t.mem,
    uncorr := t.uncorr, host := t.host, readQ := t.readQ, hostReads := t.hostReads, writeQ := t.writeQ, hostWrites := t.hostWrites, granules := t.granules,
    tcache := t.tcache, stk := t.stk, log := t.log, logOvf := t.logOvf, ret := t.ret, ctrs := t.ctrs, hdrs := t.hdrs,
    regs := t.regs,
    orphans := t.orphans, prefixes := t.prefixes }

/-! ## The unit reset (R356) -/

/-- Pages that accept a unit reset. -/
def State.resettable (s : State) (page : Nat) : Bool :=
  pagePresent s.part page &&
    match pageKind page with
    | some .adm | some .tide | some .intake | some .cache | some .samp | some .train | some .pool | some .host
    | some .link | some .merge => true
    | _ => false

/-- The image's check at a partial reset, with what RST_RSTATUS then reports (R359). -/
def State.imageCheck (s : State) : State × List (W × List W) :=
  let r := restoreCheck s.part s.ret
  let s := { s with ret := { s.ret with restore := BitVec.ofNat 2 r.1 } }
  (if r.1 = 0 then s else s.raise pgRst 1, r.2)

/-- Registers of an address range take their hard defaults; its counters are 0. -/
def State.hardRange (s : State) (lo n : Nat) : State :=
  { s with
    regs := s.regs.filter fun (a, _) => !(lo ≤ a && a < lo + n)
    ctrs := s.ctrs.filter fun (a, _) => !(lo ≤ a && a < lo + n) }

/-- TRAIN_JSTATUS, TRAIN_LSTEP, TRAIN_ATTEMPT and TRAIN_STATc at their hard defaults (R366, R375). -/
def Train.cleared (t : Train) : Train :=
  { t with
    phase := 0#3, stuck := false, lsExp := 0#8, attempt := 0#4, run := 0#8, last := 0#2, lastNan := false, lastAttempt := 0#4
    lstep := 0#64, stats := [], lastStats := [] }

/-- The registers of a page that are not kept in the register table: tables, queues and status fields. -/
def State.pageTables (s : State) (page : Nat) (rs : List (W × List W)) : State :=
  match pageKind page with
  | some .tide => State.restoreTide { s with tide := [], tideCur := {}, debt := [], overruns := [] } rs
  | some .pool => State.restoreCirc { s with circ := [] } rs
  | some .intake => { s with wf := {}, afaultq := [], afaultLatch := none, afaultRead := false }
  | some .cache => { s with evictPtr := 0#14 }
  | some .link => { s with ports := tdel s.ports (page - 0x040) }
  | some .train => { s with jobs := s.jobs.map fun (k, j) => (k, { j with train := j.train.cleared }) }
  | _ => s

/-- RST_CMD UNIT on a page other than a MERGE page: fields to hard defaults, kept fields restored, OFF, ENABLE applied. -/
def State.resetPage (s : State) (page : Nat) : State :=
  let (s, rs) := s.imageCheck
  let s := ((s.hardRange (0x1000 * page) 0x1000).setHdr page { st := .off }).restoreRegs rs fun a => a / 0x1000 == page
  let s := s.pageTables page rs
  if s.enabled page ∧ s.ready then (s.setUnit page .running).unitStarts page else s

/-- The reset of one merge lane (R117): its own block of its page. -/
def State.resetLane (s : State) (l : Nat) : State :=
  let (s, rs) := s.imageCheck
  let lo := 0x1000 * pgMerge l + laneOff l
  let s := (s.hardRange lo 0x100).restoreRegs rs fun a => lo ≤ a && a < lo + 0x100
  let s := s.setLane l {}
  if (s.reg lo).getLsbD 0 then s.laneOn l else s

def unitResetOp (s : State) (page sub : Nat) : State :=
  if !s.resettable page then s.rstDone 4 page sub 3
  else if pageKind page = some .merge then
    let l := 4 * (page - 0x050) + sub
    let v := s.lane l
    if v.st = .off ∨ (v.st = .fault ∧ v.ledger = []) then (((s.resetLane l).touchPage s page).raise pgRst 5).rstDone 4 page sub 0
    else (s.errInc page).rstDone 4 page sub 2
  else if s.unit page = .off ∨ s.unit page = .fault then (((s.resetPage page).touchPage s page).raise pgRst 5).rstDone 4 page sub 0
  else (s.errInc page).rstDone 4 page sub 2

/-- UNIT (R356). -/
def execUnitReset (page : BitVec 9) (sub : BitVec 2) (s : State) : Host.Outcome State Fault Refusal :=
  if !s.serves (.unitReset page sub) then .next s else
  let t := unitResetOp s page.toNat sub.toNat
  .next { s with
    lanes := t.lanes, tide := t.tide, circ := t.circ, wf := t.wf, afaultq := t.afaultq, afaultLatch := t.afaultLatch,
    afaultRead := t.afaultRead, evictPtr := t.evictPtr, overruns := t.overruns, debt := t.debt, tideCur := t.tideCur,
    jobs := t.jobs, slots := t.slots, ports := t.ports, mem := t.mem, uncorr := t.uncorr, host := t.host,
    readQ := t.readQ, hostReads := t.hostReads, writeQ := t.writeQ, hostWrites := t.hostWrites, granules := t.granules, tcache := t.tcache, stk := t.stk,
    log := t.log, logOvf := t.logOvf, ret := t.ret, ctrs := t.ctrs, hdrs := t.hdrs, regs := t.regs,
    orphans := t.orphans, prefixes := t.prefixes }

/-! ## The slice-array reset (R355, R339) -/

/-- Epochs of the cores of a slice that are not FENCED advance, and their registers take the new value. -/
def State.advanceEpochs (s : State) (slice : Nat) : State :=
  { s with
    baseEpoch := tput s.baseEpoch slice (tget 0#8 s.baseEpoch slice + 1#8)
    cores := s.cores.map fun (pc, c) =>
      if pc / 6560 = slice ∧ c.st ≠ .fenced ∧ c.st ≠ .testing then (pc, { c with epoch := c.epoch + 1#8, own := c.epoch + 1#8 }) else (pc, c) }

/-- A core of the slice that runs its test: the test is abandoned (Table 15-8). -/
def State.abandonTests (s : State) (slice : Nat) : State :=
  (s.cores.filter fun (pc, c) => pc / 6560 = slice ∧ c.st = .testing).foldl (fun (s : State) x => s.testFails x.1) s

def sliceResetOp (s : State) (slice : Nat) : State :=
  if s.unit (pgSlice slice) ≠ .off ∨ !s.clkUp (4 + slice) then s.rstDone 3 0 slice 2
  else (((s.abandonTests slice).advanceEpochs slice).logOpen 0x14 (pgSlice slice) slice).touch.rstDone 3 0 slice 0

/-- SLICE (R355). -/
def execSliceReset (slice : BitVec 2) (s : State) : Host.Outcome State Fault Refusal :=
  if !s.serves (.sliceReset slice) then .next s else
  let t := sliceResetOp s slice.toNat
  .next { s with
    baseEpoch := t.baseEpoch, cores := t.cores, fresh := t.fresh, log := t.log, logOvf := t.logOvf, ret := t.ret,
    ctrs := t.ctrs, hdrs := t.hdrs, regs := t.regs }

end Sys2Proof.Machine
end

