-- ==== Sys2Proof/Machine/Boot.lean ====
section
/-! DEFINITION. Bring-up (16_clocks_power_reset.md R354, Table 16-3; 14_security.md R310, R312; 17_registers.md R379). -/
namespace Sys2Proof.Machine

/-- The reset was warm (RST_CAUSE 4 to 6). -/
def State.wasWarm (s : State) : Bool := decide (4 ≤ s.cause.toNat)

/-! ## Phase 1: fuses, life cycle, erasure -/

def State.readFuses (s : State) : State := { s with lc := s.fuses.setWidth 5, fwMin := fuseFwMin s.fuses }

/-- The first address that does not exist, by the organisations the stacks report. -/
def envTop (part : Part) (caps : List (BitVec 3)) : Nat :=
  let c := ((List.range part.nStacks).map fun i => capBytes (caps.getD i 0#3).toNat).foldl
    (fun m c => if c = 0 then m else if m = 0 then c else min m c) 0
  part.nStacks * c * 63 / 64

/-- The erasure of R310: key slots, retained settings, stacks that are not in FAULT; then LC[3] is burnt. Every on-chip
store is already empty after the reset. -/
def State.erase (s : State) (env : BootEnv) : State :=
  let top := envTop s.part env.stackCap
  let keep (a : Nat) : Bool := decide (top ≤ a) || !(env.trainOk.getD (s.stackOf a) false)
  { s with
    keys := [], ret := {}, store := some (List.replicate 16 0#32)
    mem := s.mem.filter fun (a, _) => keep a
    uncorr := s.uncorr.filter fun w => keep (32 * w)
    erasing := true, erasePct := 100#7, fuseTask := some { op := 3#3, bits := [3#9] } }

/-! ## Phases 2 to 5 -/

/-- The store is loaded (cold only) and checked (R359). -/
def State.bootStore (s : State) (env : BootEnv) : State :=
  let s := if s.wasWarm then s else { s with ret := { image := env.image.getD [], ecc := env.storeEcc } }
  let r := restoreCheck s.part s.ret
  let w (i : Nat) : W := s.ret.image.getD i 0#32
  let s := { s with ret := { s.ret with
    restore := BitVec.ofNat 2 r.1, seq := if r.1 = 0 then (w 5).setWidth 64 <<< 32 ||| (w 4).setWidth 64 else s.ret.seq } }
  if r.1 = 0 then s else s.raise pgRst 1

/-- The clock monitor checks every input clock (phase 3); without CCLK bring-up goes no further (R346, R354). -/
def State.bootClocks (s : State) (env : BootEnv) : State := clkfailOp { s with phase := 3#4 } env.badClocks

/-- The declaration's legal values (Table 17-13). -/
def declOk (d : ArrayDecl) : Bool :=
  32 ≤ d.rows.toNat && d.rows.toNat ≤ 4096 && d.rows.toNat % 32 == 0 && 64 ≤ d.cols.toNat && d.cols.toNat ≤ 4096 &&
    d.cols.toNat % 64 == 0 && d.order.toNat ≤ 1 && d.noTrans && d.oneWay && d.stationary &&
    [2, 3, 4, 6].contains d.xFmt.toNat && [1, 2].contains d.beat.toNat && 1 ≤ d.nArray.toNat && 1 ≤ d.lA.toNat

/-- The declaration is sampled (cold only) and checked (R379). -/
def State.bootDecl (s : State) (env : BootEnv) : State :=
  let s := if s.wasWarm then s else { s with decl := env.decl }
  if declOk s.decl then s else (s.setUnit pgArray .fault).raise pgArray 0

/-- The control complex leaves reset: the local count is 0 (R347); the chain-hash key (R159); cold only, the nonce and, in Sealed, the identity (R312). -/
def State.bootKeys (s : State) : State :=
  let s := State.tick { s with sipKey := Config.chainKey s.fresh, lcount := 0#64 }
  if s.wasWarm then s
  else
    let s := s.newNonce
    if s.isSealed then { s with ident := some (identOf (fuseSecret s.fuses)) } else s

/-- Kept fields are restored, and the loader begins to read the image at CTL_FW_ADDR, to run it in both clusters (R321,
Table 16-3). -/
def State.bootLoad (s : State) : State :=
  let r := restoreCheck s.part s.ret
  if r.1 ≠ 0 then s
  else
    let s := ((s.restoreRegs r.2 fun _ => true).restoreTide r.2).restoreCirc r.2
    (s.wr pgSched 0x04C (s.rd pgSched 0x048 &&& 0x33F#32)).fwBegin none

/-! ## Phases 6 to 9 -/

/-- The stacks are identified and trained; one whose organisation is not supported enters FAULT (R268, R287, R288). -/
def State.bootStacks (s : State) (env : BootEnv) : State :=
  if s.wasWarm then s
  else
    let s := (List.range s.part.nStacks).foldl (fun (s : State) k =>
      let c := (env.stackCap.getD k 0#3).toNat
      s.setFld (pgMem k) 0x040 0 3 (if c ≤ 4 then c else 0)) s
    (List.range s.part.nStacks).foldl (fun (s : State) k =>
      let s := s.startRetrain k
      if s.capCode k ≠ 0 ∧ env.trainOk.getD k false ∧ s.clockOk (.mclk k) then s.trainEnd k true else ((s.trainEnd k false).trainEnd k false).trainEnd k false) s

/-- Logical numbers whose core is fenced. -/
def State.fencedNumbers (s : State) : List Nat :=
  (s.cores.filterMap fun (pc, c) => if c.st = .fenced then s.boundTo pc else none).dedup

/-- Cores: fence table, remap and epochs restored, failing cores fenced, spares bound (phase 7). -/
def State.bootCores (s : State) (env : BootEnv) : State :=
  let r := restoreCheck s.part s.ret
  let s := if r.1 = 0 then State.restoreCores { s with baseEpoch := imageEpochs s.ret } r.2 else s
  let s := (env.failCores.map (·.toNat)).foldl (fun (s : State) pc =>
    if s.part.nPhys ≤ pc ∨ (s.core pc).st = .fenced then s
    else (s.fenceCore pc).logRec 0x0D pgRel 0 (BitVec.ofNat 32 pc)) s
  s.fencedNumbers.foldl (fun (s : State) n => s.bind n) s

/-- The duties after bring-up (R377). -/
def State.bootDuty (s : State) : BitVec 8 :=
  if s.cluster0.up ∧ s.cluster1.up then 0xF0#8 else allDuties s.cluster1.up

/-- Each slice asks for the highest operating point that PWR_OPP.CAP allows (R348). -/
def State.bootPower (s : State) : State :=
  let cap := BitVec.ofNat 2 (bitsOf (s.rd pgPwr 0x044) 1 0)
  { s with pwr := (List.range s.part.slices).foldl (fun (t : Tab SlicePwr) i =>
      let p := tget {} t i
      if cap = 3#2 ∨ p.tcrit then t else tput t i { p with vreq := cap, vwait := true }) s.pwr }

/-- Units whose ENABLE is 1 run (R354); ports come up as their lanes pass, lanes with the serial 0. -/
def State.bootUnits (s : State) (env : BootEnv) : State :=
  (pagesOf s.part).foldl (fun (s : State) p =>
    if !pageHeader p ∨ p < 4 then s
    else match pageKind p with
      | some .merge => (mergeLanes p).foldl (fun (s : State) l =>
          if (s.rd p (laneOff l)).getLsbD 0 then s.laneOn l else s) s
      | some .link =>
        if s.enabled p then
          ((s.setUnit p .running).trainPort (p - 0x040)).portTrained (p - 0x040) (env.laneOk.getD (p - 0x040) 0#9)
        else s
      | _ => if s.enabled p ∧ s.unit p ≠ .fault then (s.setUnit p .running).unitStarts p else s) s

/-- Phases 6 to 9. What they and the loader add to the local count is unspecified (R354, log 2). -/
def State.bootRest (s : State) (env : BootEnv) : State :=
  let s := ((s.bootStacks env).bootCores env).bootPower
  let s := State.tick { s with
    duty := s.bootDuty, phase := 0#4, ready := true
    lcount := s.lcount + ((Config.freeWord s.fresh).setWidth 64 ||| (Config.freeWord (s.fresh + 1) >>> 2).setWidth 64 <<< 32) }
  (({ s.tick with halvedAt := s.lcount } : State).bootUnits env).checkTables.touchRestored.raise pgRst 0

/-- From phase 6 on, where a cluster runs an image; else the loader reads one, or waits, in phase 5. -/
def State.bootFrom5 (s : State) (env : BootEnv) : State :=
  if s.cluster0.up ∨ s.cluster1.up then s.bootRest env else { s with phase := 5#4 }

/-- Phases 2 to 5. -/
def State.bootFrom2 (s : State) (env : BootEnv) : State :=
  let s := (s.bootStore env).bootClocks env
  if s.clkUp 0 then ((s.bootDecl env).bootKeys.bootLoad).bootFrom5 env else s

def bringUpOp (s : State) (env : BootEnv) : State :=
  match s.phase.toNat with
  | 1 =>
    if s.fuseTask.isSome then s
    else
      let s := s.readFuses
      if s.retPend then s.erase env
      else match s.life with
        | .blank | .void => s
        | _ => s.bootFrom2 env
  | 2 => s.bootFrom2 env
  | 5 => s.bootFrom5 env
  | _ => s

/-- BRING_UP (R354). -/
def execBringUp (env : BootEnv) (s : State) : Host.Outcome State Fault Refusal :=
  .next { bringUpOp s env with pending := s.pending, part := s.part, fuses := s.fuses }

end Sys2Proof.Machine
end

