-- ==== Sys2Proof/Machine/HostPort.lean ====
section
/-! DEFINITION. Responses, acknowledgements and timeouts of the host port (18_ports.md R386, R387; 17_registers.md R381;
07_context_cache.md R169, R171). -/
namespace Sys2Proof.Machine

/-- A read of a parcel failed: its request ends with DESC_FAULT in an out-of-step record (R381). -/
def State.parcelFail (s : State) (q page : Nat) : State :=
  let v := s.slot q
  if v.alive ∧ v.pendingEnd.isNone ∧ v.parcels.any (fun p => p.page = page && !p.back) then
    (s.dropParked q).queueEnd q { reason := 0x11#8 }
  else s

/-- Tenant input has come, or could not be read: the rows it feeds fail as their step forms (R381); a batch list that names its
request may go on. -/
def State.tenantCame (s : State) (q : Nat) (since : BitVec 64) (ok : Bool) : State :=
  let s := s.inputCame q since ok
  match s.slotJob q with
  | some j => s.batchReady j
  | none => s

/-- What a failed read means to its requester (R381). -/
def State.readFailed (s : State) (r : HostRead) : State :=
  match r.use with
  | .parcel q page => s.parcelFail q.toNat page
  | .intake => s.intakeMiss
  | .adapter a => s.adapterMiss a
  | .tenant q since => s.tenantCame q.toNat since false
  | .batch j since => s.batchCame j.toNat since false
  | .sec k => s.secCame k.toNat false
  | .firmware => s.fwCame false

/-- A parcel's next bytes have come, from the address they were asked of: once all are there, its frame is filled, and it is home when every one is (R171). -/
def State.parcelRead (s : State) (q page at_ n : Nat) : State :=
  let v := s.slot q
  match v.parcels.find? fun p => p.page = page && p.acked && !p.back && s.prAddr p + p.got = at_ with
  | none => s
  | some p =>
    let p' : Parcel := { p with got := p.got + n, back := decide (p.bytes ≤ p.got + n) }
    let s := s.setSlot q { v with parcels := v.parcels.map fun x => if x = p then p' else x }
    if p'.back then ((s.fillParcel q p').parcelsHome q).pumpParcels else s.pumpParcels

/-- A good read reaches its requester. -/
def State.readDone (s : State) (r : HostRead) (n : Nat) : State :=
  match r.use with
  | .parcel q page => s.parcelRead q.toNat page r.addr.toNat n
  | .intake => s.intakeGot
  | .adapter a => s.adapterGot a
  | .tenant q since => s.tenantCame q.toNat since true
  | .batch j since => s.batchCame j.toNat since true
  | .sec k => s.secCame k.toNat true
  | .firmware => s.fwCame true

def hostReadResponseOp (s : State) (tag : Nat) (data : BitVec 1024) (last err : Bool) : State :=
  match tget? s.hostReads tag with
  | none => s.inc pgHost 0x210
  | some r =>
    let bad := r.err || err
    let s := { s with host := mwrite s.host (r.addr.toNat + 128 * r.got) (leBytes 128 data.toNat) }
    let s := s.count (regAt pgHost 0x200) 128
    let r := { r with got := r.got + 1, err := bad }
    if !last then { s with hostReads := tput s.hostReads tag r }
    else
      let s := { s with hostReads := tdel s.hostReads tag }
      State.pumpHost (if bad then s.hostRdErr.readFailed r else s.readDone r (128 * r.got))

/-- HOST_READ_RESPONSE (R386, R381). -/
def execHostReadResponse (tag : BitVec 10) (data : BitVec 1024) (last err : Bool) (s : State) : Host.Outcome State Fault Refusal :=
  if !s.serves (.hostReadResponse tag data last err) then .next s else
  let t := if s.clkUp 2 then hostReadResponseOp s tag.toNat data last err else s
  .next { t with pending := s.pending, part := s.part, fuses := s.fuses }

def hostReadTimeoutOp (s : State) (tag : Nat) : State :=
  match tget? s.hostReads tag with
  | none => s
  | some r =>
    if r.at_.toNat + (s.rd pgHost 0x044).toNat ≤ s.lcount.toNat then
      let s := (State.inc { s with hostReads := tdel s.hostReads tag } pgHost 0x218).raise pgHost 1
      (s.readFailed r).pumpHost
    else s

/-- HOST_READ_TIMEOUT (R381). -/
def execHostReadTimeout (tag : BitVec 10) (s : State) : Host.Outcome State Fault Refusal :=
  if !s.serves (.hostReadTimeout tag) then .next s else
  .next { hostReadTimeoutOp s tag.toNat with pending := s.pending, part := s.part, fuses := s.fuses }

def hostWriteAckOp (s : State) (tag : Nat) (err : Bool) : State :=
  match tget? s.hostWrites tag with
  | none => s.inc pgHost 0x210
  | some w =>
    let s := State.pumpHost { s with hostWrites := tdel s.hostWrites tag }
    let s := if err then s.inc pgHost 0x220 else s
    match w.parcel with
    | some (q, page) => (s.parcelAck q.toNat page w.granule).pumpParcels
    | none => s

/-- HOST_WRITE_ACK (R387, R169). -/
def execHostWriteAck (tag : BitVec 10) (err : Bool) (s : State) : Host.Outcome State Fault Refusal :=
  if !s.serves (.hostWriteAck tag err) then .next s else
  let t := if s.clkUp 2 then hostWriteAckOp s tag.toNat err else s
  .next { s with
    host := t.host, readQ := t.readQ, hostReads := t.hostReads, writeQ := t.writeQ, hostWrites := t.hostWrites, slots := t.slots, mem := t.mem, uncorr := t.uncorr,
    tcache := t.tcache, granules := t.granules, orphans := t.orphans, jobs := t.jobs, prefixes := t.prefixes,
    stk := t.stk, log := t.log, logOvf := t.logOvf, hdrs := t.hdrs, ctrs := t.ctrs, regs := t.regs }

end Sys2Proof.Machine
end

