-- ==== Sys2Proof/Machine/Flags.lean ====
section
/-! DEFINITION. The status fields the block computes: what a read of a register returns, page by page, and the event
outputs (17_registers.md R365 to R381 and the register lists of the other chapters). A read's side effects are the read
commands'; here stands only its value. -/
namespace Sys2Proof.Machine

def UnitState.code : UnitState → Nat
  | .absent => 0
  | .off => 1
  | .running => 2
  | .draining => 3
  | .fault => 4

def StepState.code : StepState → Nat
  | .idle => 0
  | .forming => 1
  | .running => 2
  | .closing => 3
  | .voting => 4

def WfState.code : WfState → Nat
  | .idle => 0
  | .checking => 1
  | .advancing => 2
  | .stalled => 3
  | .finishing => 4

def LinkState.code : LinkState → Nat
  | .down => 0
  | .training => 1
  | .up => 2
  | .degraded => 3

/-- A word from fields (low bit, value). -/
def pack (fs : List (Nat × Nat)) : W := BitVec.ofNat 32 ((fs.map fun (lo, v) => 2 ^ lo * v).sum)

/-! ## The header (Tables 17-1, 17-3 to 17-6) -/

/-- PAGE_ID.TYPE and INSTANCE (Table 17-1). -/
def pageType (p : Nat) : Nat × Nat :=
  match pageKind p with
  | some .slice => (0x20, p - 0x020)
  | some .mem => (0x30, p - 0x030)
  | some .link => (0x40, p - 0x040)
  | some .merge => (0x50, p - 0x050)
  | some .beacon | some .slot | none => (0, 0)
  | some _ => (p + 1, 0)

/-- STATUS.STATE of a page; a MERGE page's follows its lanes (R115). Before READY every unit but
TOP, PWR, RST and SEC reads OFF (R354). -/
def State.status (s : State) (p : Nat) : UnitState :=
  if !pagePresent s.part p then .absent
  else if !s.ready ∧ 4 ≤ p then .off
  else if pageKind p = some .merge then s.mergePage p
  else s.unit p

/-- CTRL.ENABLE as read (Table 17-7). -/
def State.enableBit (s : State) (p : Nat) : Bool :=
  if pageKind p = some .merge then (mergeLanes p).any fun l => (s.rd (pgMerge l) (laneOff l)).getLsbD 0
  else (s.rd p 0x00C).getLsbD 0

def State.headerWord (s : State) (p off : Nat) : W :=
  match off with
  | 0x000 => pack [(0, (pageType p).1), (8, (pageType p).2)]
  | 0x004 => 1#32
  | 0x008 => if pageKind p = some .merge then 4#32 else 1#32
  | 0x00C => pack [(0, b2n (s.enableBit p))]
  | 0x010 => pack [(0, (s.status p).code)]
  | 0x014 => (s.hdr p).raw
  | 0x018 => s.rd p 0x018
  | 0x01C => (s.hdr p).raw &&& s.rd p 0x018
  | 0x020 => pack [(0, (s.hdr p).err.toNat)]
  | 0x024 => s.rd p 0x024
  | _ => 0#32

/-- irz_evt[k]: high while any bit of EVT_PEND of the page is 1 (R373). -/
def State.evtOut (s : State) (p : Nat) : Bool := pagePresent s.part p && pageHeader p && s.headerWord p 0x01C != 0#32

/-- The event output of a page (Table 17-1). -/
def evtIndex (p : Nat) : Option Nat :=
  match pageKind p with
  | some .slice => some (p - 0x020 + 20)
  | some .mem => some (p - 0x030 + 24)
  | some .link => some (p - 0x040 + 40)
  | some .merge => some (p - 0x050 + 48)
  | some .beacon | some .slot | none => none
  | some _ => some p

/-! ## Computed registers, page by page; none where the register is stored, reserved or a counter -/

def State.topWord (s : State) (off : Nat) : Option W :=
  let n := s.part.slices
  match off with
  | 0x040 => some s.part.number
  | 0x044 => some (pack [(0, Config.issueLetter.toNat), (8, s.part.config)])
  | 0x048 => some (pack [(0, 2 ^ n - 1), (4, 2 ^ (4 * n) - 1), (20, 2 ^ (2 * n) - 1), (28, b2n s.part.hasTrain), (29, b2n s.part.hasTrain)])
  | 0x04C => some (pack [(0, 2 ^ (4 * n) - 1)])
  | _ => none

/-- A field of each slice present, side by side. -/
def State.perSlice (s : State) (width : Nat) (f : SlicePwr → Nat) : List (Nat × Nat) :=
  (List.range s.part.slices).map fun i => (width * i, f (s.slicePwr i))

def State.pwrWord (s : State) (off : Nat) : Option W :=
  let sest (i : Nat) : Option W := some (pack [(0, if i < s.part.slices then (s.slicePwr i).est.toNat else 0)])
  match off with
  | 0x044 => some ((s.rd pgPwr 0x044 &&& 3#32) ||| (pack (s.perSlice 2 fun p => p.opp.toNat) <<< 8))
  | 0x048 => some (pack (s.perSlice 8 fun p => p.duty.toNat + 2 ^ 5 * b2n p.droop + 2 ^ 6 * b2n p.tcrit + 2 ^ 7 * b2n p.vwait))
  | 0x04C => some (pack [(0, s.blockEst)])
  | 0x050 => sest 0
  | 0x054 => sest 1
  | 0x058 => sest 2
  | 0x05C => sest 3
  | 0x064 => some (pack (s.perSlice 8 fun p => p.temp.toNat))
  | 0x06C => some (s.gated.setWidth 32)
  | 0x070 => some (s.clkmon.setWidth 32)
  | _ => none

def State.rstWord (s : State) (off : Nat) : Option W :=
  let r := s.ret
  match off with
  | 0x044 => some (s.cause.setWidth 32)
  | 0x048 => some (pack [(0, r.restore.toNat), (2, b2n r.full), (3, b2n r.dirty), (4, b2n r.exporting),
      (5, max 8 (ceilDiv r.image.length 2))])
  | 0x054 => some (r.seq.setWidth 32)
  | 0x058 => some ((r.seq >>> 32).setWidth 32)
  | 0x05C => some (s.phase.setWidth 32)
  | _ => none

/-- Word i of a string of bytes. -/
def wordAt (bs : List Byte) (i : Nat) : W := BitVec.ofNat 32 (fieldLe bs (4 * i) 4)

def State.secWord (s : State) (off : Nat) : Option W :=
  if off = 0x040 then
    some (pack [(0, s.life.code), (3, b2n s.retPend), (4, b2n s.erasing), (5, s.erasePct.toNat), (12, s.fwMin.toNat)])
  else if off = 0x04C then some (s.keyOwner (bitsOf (s.rd pgSec 0x048) 9 0))
  else if 0x080 ≤ off ∧ off < 0x0E0 then some (wordAt s.idPub ((off - 0x080) / 4))
  else if 0x0E0 ≤ off ∧ off < 0x140 then some (wordAt s.impPub ((off - 0x0E0) / 4))
  else if 0x140 ≤ off ∧ off < 0x170 then some (wordAt s.nonceBytes ((off - 0x140) / 4))
  else none

def State.relWord (s : State) (off : Nat) : Option W :=
  match off with
  | 0x04C => some (pack [(0, b2n s.logOvf), (1, s.log.length)])
  | 0x050 => some (logWord0 s.log.head?)
  | 0x054 => some (logWord s.logLatch 1)
  | 0x058 => some (logWord s.logLatch 2)
  | 0x05C => some (logWord s.logLatch 3)
  | 0x064 =>
    let pc := bitsOf (s.rd pgRel 0x060) 14 0
    if s.part.nPhys ≤ pc then some 0#32
    else
      let c := s.core pc
      let n := if c.st = .inService then (s.servedBy pc).getD 0 % 6400 else 0
      some (pack [(0, c.epoch.toNat), (8, c.st.code), (16, n)])
  | _ => none

def State.ctlWord (s : State) (off : Nat) : Option W :=
  match off with
  | 0x044 => some (pack [(0, s.duty.toNat), (8, b2n s.cluster0.loaded), (9, b2n s.cluster1.loaded), (10, b2n s.cluster0.fault),
      (11, b2n s.cluster1.fault), (13, b2n s.tablesBad)])
  | 0x050 => some (if s.cluster0.loaded then s.cluster0.svn.setWidth 32 else 0#32)
  | 0x054 => some (if s.cluster1.loaded then s.cluster1.svn.setWidth 32 else 0#32)
  | 0x060 => some (s.tablesMin.setWidth 32)
  | _ => none

def State.schedWord (s : State) (off : Nat) : Option W :=
  match off with
  | 0x04C => some (s.rd pgSched 0x04C &&& 0x13F#32)
  | 0x05C =>
    let e (i : Nat) : ModelRes := s.modelRes.getD i {}
    some (pack [(0, (e 0).model.toNat), (8, (e 1).model.toNat), (16, b2n (e 0).valid), (17, b2n (e 1).valid)])
  | _ => none

def State.tideWord (s : State) (off : Nat) : Option W :=
  match off with
  | 0x054 => some (s.tideCur.slot.setWidth 32)
  | 0x05C => some (BitVec.ofNat 32 (tget 0 s.debt (bitsOf (s.rd pgTide 0x058) 7 0)))
  | _ => none

def State.dirWord (s : State) (off : Nat) : Option W :=
  match off with
  | 0x048 => some (BitVec.ofNat 32 (s.dir.filter fun (_, e) => e.st != .free).length)
  | 0x04C => some (BitVec.ofNat 32 (s.dir.filter fun (_, e) => e.pinA != 0#16 || e.pinB != 0#16).length)
  | _ => none

def State.intakeWord (s : State) (off : Nat) : Option W :=
  let m := s.model (bitsOf (s.rd pgIntake 0x06C) 7 0)
  match off with
  | 0x044 => some (pack [(0, s.wf.st.code), (3, b2n s.wf.rollback), (4, s.wf.w.toNat), (12, s.wf.model.toNat), (20, s.wf.fault.toNat)])
  | 0x070 => some (pack [(0, b2n m.loaded), (1, b2n m.transposed)])
  | 0x074 => some m.gen
  | 0x078 => some m.genPrev
  | 0x098 => some (afaultLoOp s).rdata
  | 0x09C => some (afaultHiOp s).rdata
  | _ => none

/-- STEP_OWN_SUM or STEP_CMD_SUM word k (R125). -/
def State.slotSum (s : State) (k : Nat) (f : Slot → Bool) : W :=
  pack ((List.range 32).map fun i => (i, b2n (f (s.slot (32 * k + i)))))

/-- STEP job registers, for a job (Table 06-12). -/
def State.jobWord (_s : State) (j : Job) (off : Nat) : Option W :=
  match off with
  | 0x04C =>
    let ss : StepState := match j.cur with
      | none => .idle
      | some st => if j.isTrain ∧ 5 ≤ j.train.phase.toNat then .voting else st.st
    some (pack [(0, j.st.toNat), (2, ss.code), (5, b2n j.waitsRoom), (6, b2n j.batchPend)])
  | 0x050 => some (j.next.setWidth 32)
  | 0x058 => some j.prod
  | 0x05C => some j.cons
  | 0x060 => some j.batchLo
  | 0x064 => some j.batchHi
  | 0x068 => some (pack [(0, j.batchCode.toNat), (31, b2n (j.batchStage != 0))])
  | _ => none

def State.stepWord (s : State) (job off : Nat) : Option W :=
  if 0x400 ≤ off ∧ off < 0x600 then some (s.slotSum ((off - 0x400) / 4) fun v => v.own)
  else if 0x600 ≤ off ∧ off < 0x800 then some (s.slotSum ((off - 0x600) / 4) fun v => v.cmd != 0#3)
  else s.jobWord (s.job job) off

def State.cacheWord (s : State) (off : Nat) : Option W :=
  let p := bitsOf (s.rd pgCache 0x048) 2 0
  match off with
  | 0x04C => some (BitVec.ofNat 32 (s.freeCount p))
  | 0x050 => some (BitVec.ofNat 32 (s.evictable p))
  | 0x054 => some (s.evictPtr.setWidth 32)
  | 0x07C => some (BitVec.ofNat 32 s.prFree)
  | _ => none

/-- TRAIN_JSTATUS.PHASE (Table 10-9). -/
def Job.phase (j : Job) : Nat :=
  match j.cur with
  | none => 0
  | some st => if 3 ≤ j.train.phase.toNat then j.train.phase.toNat else if st.rowsOver then 2 else 1

/-- TRAIN_JSTATUS and TRAIN_STATc, for a job. -/
def State.trainWord (s : State) (job off : Nat) : Option W :=
  let j := s.job job
  let t := j.train
  if off = 0x04C then
    some (pack [(0, j.phase), (3, b2n t.stuck), (4, t.lsExp.toNat), (12, t.attempt.toNat), (16, t.run.toNat), (24, t.last.toNat),
      (26, b2n t.lastNan), (27, t.lastAttempt.toNat)])
  else if off = 0x060 then some (t.lstep.setWidth 32)
  else if 0x080 ≤ off ∧ off < 0x180 then
    let r : StatRow := tget {} t.lastStats ((off - 0x080) / 0x20)
    some (match (off - 0x080) % 0x20 with
      | 0x00 => r.fmt
      | 0x04 => r.converted
      | 0x08 => r.overflow
      | 0x0C => r.vanish
      | 0x10 => r.nan
      | _ => 0#32)
  else none

def State.poolWord (s : State) (off : Nat) : Option W :=
  let c := bitsOf (s.rd pgPool 0x040) 3 0
  if off = 0x044 then some (s.poolCfg c ||| pack [(16, s.members c)])
  else if 0x100 ≤ off ∧ off < 0x200 then some (s.seat c ((off - 0x100) / 4))
  else none

def State.arrayWord (s : State) (off : Nat) : Option W :=
  let d := s.decl
  match off with
  | 0x040 => some (pack [(0, d.rows.toNat), (13, d.cols.toNat), (26, d.order.toNat), (28, b2n d.noTrans), (29, b2n d.oneWay),
      (30, b2n d.stationary)])
  | 0x044 => some (pack [(0, d.xFmt.toNat), (4, d.beat.toNat), (8, d.nArray.toNat)])
  | 0x048 => some (d.lA.setWidth 32)
  | _ => none

def State.sliceWord (s : State) (i off : Nat) : Option W :=
  match off with
  | 0x040 => some (pack [(0, s.sparesFree i), (8, (s.remap.filter fun (n, r) => n / 6400 = i && r.vacant).length)])
  | 0x048 =>
    let k := bitsOf (s.rd (pgSlice i) 0x044) 12 0
    some (if k < 6400 then remapWord (s.binding (6400 * i + k)) else 0#32)
  | _ => none

def State.memWord (s : State) (k off : Nat) : Option W :=
  let v := s.stack k
  match off with
  | 0x044 => some (s.rd (pgMem k) 0x044 ||| pack [(0, b2n v.retrain), (1, b2n v.copying)])
  | 0x058 => some (v.copyPtr.setWidth 32)
  | 0x060 => some (ucqLoOp s k).rdata
  | 0x064 => some (ucqHiOp s k).rdata
  | _ => none

def State.linkWord (s : State) (k off : Nat) : Option W :=
  match off with
  | 0x040 =>
    let v := s.port k
    some (pack [(0, v.st.code), (2, ((List.range 9).filter fun i => v.lanes.getLsbD i).length), (6, v.laneOk.toNat),
      (15, b2n (v.lanes.getLsbD 8))])
  | _ => none

/-- The lane registers, at an offset of the lane's block. -/
def State.laneWord (s : State) (l off : Nat) : Option W :=
  let v := s.lane l
  match off with
  | 0x04 => some (pack [(0, v.st.code), (3, v.credit), (14, v.holders.length), (16, b2n v.ovf), (17, b2n v.disSeen)])
  | 0x08 => some v.ldisTag
  | 0x0C => some (v.peak.setWidth 32)
  | 0x10 => some (missqLoOp s l).rdata
  | 0x14 => some (missqHiOp s l).rdata
  | _ => none

/-- A request slot's words 0x00 to 0x1F (Tables 06-3, 06-9, 06-10). -/
def State.slotWord (s : State) (q off : Nat) : Option W :=
  let v := s.slot q
  match off with
  | 0x00 => some (pack [(0, b2n v.own), (1, v.cmd.toNat)])
  | 0x04 => some (pack [(0, v.st.code), (4, v.reason.toNat), (12, b2n v.cancelSeen), (13, b2n v.tallyFull), (14, b2n v.late),
      (15, v.rung.toNat), (17, v.endCause.toNat)])
  | 0x08 => some (v.len.setWidth 32)
  | 0x0C => some (v.delivered.setWidth 32)
  | 0x10 => some v.pmCarried
  | 0x14 => some (v.pages.setWidth 32)
  | _ => none

/-- The computed registers of a page, for a selected STEP job and TRAIN job. -/
def State.unitWord (s : State) (stepJob trainJob p off : Nat) : Option W :=
  match pageKind p with
  | none => none
  | some .top => s.topWord off
  | some .pwr => s.pwrWord off
  | some .rst => s.rstWord off
  | some .sec => s.secWord off
  | some .rel => s.relWord off
  | some .ctl => s.ctlWord off
  | some .sched => s.schedWord off
  | some .tide => s.tideWord off
  | some .adm => none
  | some .dir => s.dirWord off
  | some .intake => s.intakeWord off
  | some .step => s.stepWord stepJob off
  | some .cache => s.cacheWord off
  | some .samp => none
  | some .train => s.trainWord trainJob off
  | some .pool => s.poolWord off
  | some .array => s.arrayWord off
  | some .host => if off = 0x050 then some (daccReadOp s).rdata else none
  | some .slice => s.sliceWord (p - 0x020) off
  | some .mem => s.memWord (p - 0x030) off
  | some .link => s.linkWord (p - 0x040) off
  | some .merge => if 0x100 ≤ off ∧ off < 0x500 then s.laneWord (4 * (p - 0x050) + (off / 0x100 - 1)) (off % 0x100) else none
  | some .beacon => let b := s.beacon (1024 * (p - 0x060) + off / 4); some (pack [(0, b.count.toNat), (24, b.gen.toNat)])
  | some .slot => s.slotWord (16 * (p - 0x100) + off / 0x100) (off % 0x100)

/-- A half of a counter pair (R374, R375). -/
def State.pairWord (s : State) (job a : Nat) : Option W :=
  if isCounterLo a then some ((s.ctr a).value.setWidth 32)
  else if 4 ≤ a ∧ isCounterLo (a - 4) then some (pack [(0, (s.ctr (a - 4)).latchHi.toNat), (31, b2n (s.ctr (a - 4)).latchSat)])
  else if (s.wide (some job) a).isSome then (s.wide (some job) a).map (·.setWidth 32)
  else if 4 ≤ a ∧ (s.wide (some job) (a - 4)).isSome then some (tget 0#32 s.latches (a - 4))
  else none

/-- What a permitted read of an aligned privileged address returns, for a selected STEP job and TRAIN job. -/
def State.readFor (s : State) (stepJob trainJob a : Nat) : W :=
  let p := a / 0x1000
  let off := a % 0x1000
  if !pagePresent s.part p then 0#32
  else if !s.pageLive p then (if off = 0 ∧ pageHeader p then s.headerWord p 0 else 0#32)
  else if pageHeader p ∧ off < 0x040 then s.headerWord p off
  else match s.unitWord stepJob trainJob p off with
    | some w => w
    | none => match s.pairWord stepJob a with
      | some w => w
      | none => if (regInfo p off).isSome then s.reg a else 0#32

/-- What a read of the privileged window returns. -/
def State.readReg (s : State) (a : Nat) : W :=
  s.readFor (bitsOf (s.rd pgStep 0x048) 7 0) (bitsOf (s.rd pgTrain 0x048) 7 0) a

end Sys2Proof.Machine
end

