-- ==== Sys2Proof/Machine/Registers.lean ====
section
/-! DEFINITION. The register port: the checks of an access, and what a write does in every page (17_registers.md R362 to
R383; 14_security.md R319; 18_ports.md R385). A write that sets a command's GO does what the command's own row does. -/
namespace Sys2Proof.Machine

/-! ## The checks of R363 -/

/-- How the port takes an access. -/
inductive PortAccess where
  /-- Misaligned, or an unassigned page: counted in TOP_BADACC. -/
  | bad
  /-- Refused by the view (R319): counted in SEC_VIEWDENY. -/
  | deny
  /-- Permitted: the privileged address, and the requester's job in the unprivileged view. -/
  | ok (addr : Nat) (job : Option Nat)
deriving DecidableEq, Repr

/-- Table 14-6: the unprivileged view permits a read (we = false) or a write of a privileged address. -/
def State.viewOk (s : State) (job a : Nat) (we : Bool) : Bool :=
  let off := a % 0x1000
  match pageKind (a / 0x1000) with
  | some .top => !we && (off < 0x040 || (0x040 ≤ off && off ≤ 0x04C))
  | some .sec => !we && (off < 0x040 || off = 0x040 || (0x080 ≤ off && off < 0x140))
  | some .step => if off < 0x040 then !we else 0x04C ≤ off && off ≤ 0x068
  | some .train => !we && (off < 0x040 || off = 0x04C || (0x080 ≤ off && off < 0x180))
  | some .slot => s.slotJob ((a - 0x100000) / 256) = some job
  | _ => false

/-- The checks of an access, in the order of R363. -/
def State.portCheck (s : State) (priv : Bool) (job addr : Nat) (we : Bool) : PortAccess :=
  let unpriv : Bool := decide (0x200000 ≤ addr) || !priv
  let a := if 0x200000 ≤ addr then addr - 0x200000 else addr
  if addr % 4 ≠ 0 then .bad
  else if unpriv ∧ (addr < 0x200000 ∨ !s.viewOk job a we) then .deny
  else if (pageKind (a / 0x1000)).isNone then .bad
  else .ok a (if unpriv then some job else none)

/-- A refusal under check 1 or 3 (R363, R376). -/
def State.badAccess (s : State) (addr : BitVec 22) : State :=
  ((s.inc pgTop 0x200).wr pgTop 0x054 (addr.setWidth 32 ||| 0x80000000#32)).raise pgTop 1

/-- A refusal by the view (R319). -/
def State.viewDeny (s : State) : State := (s.inc pgSec 0x200).raise pgSec 0

/-! ## Plain writes (R365) -/

/-- The RW bits take the written value, the W1C bits written 1 clear, the others stay. -/
def State.plainWrite (s : State) (p off : Nat) (v : W) : State :=
  match regInfo p off with
  | none => s
  | some i => s.wr p off (mergeBits i.rw (s.rd p off) v &&& ~~~(v &&& i.w1c))

/-- A write taken only where the value is legal; otherwise ignored, and ERR_COUNT advances. -/
def State.wholeWrite (s : State) (p off : Nat) (v : W) (ok : Bool) : State :=
  if ok then s.plainWrite p off v else s.errInc p

/-- A write in which one field may refuse its value: that field then keeps its old one, and ERR_COUNT advances. -/
def State.fieldWrite (s : State) (p off : Nat) (v field : W) (ok : Bool) : State :=
  if ok then s.plainWrite p off v else (s.plainWrite p off (mergeBits field v (s.rd p off))).errInc p

/-- A command's register: without GO its fields are stored; with GO the command runs, and the fields read as written. -/
def State.goWrite (s : State) (p off : Nat) (v : W) (cmd : State → State) : State :=
  if v.getLsbD 31 then
    let t := cmd s
    match regInfo p off with
    | none => t
    | some i => t.wr p off (mergeBits i.rw (t.rd p off) v)
  else s.plainWrite p off v

/-- GO while the command still runs: dropped, and ERR_COUNT advances. -/
def State.goOnce (s : State) (p off : Nat) (v : W) (busy : Bool) (cmd : State → State) : State :=
  if busy ∧ v.getLsbD 31 then (s.plainWrite p off v).errInc p else s.goWrite p off v cmd

/-! ## The header -/

def State.headerWrite (s : State) (p off : Nat) (v : W) : State :=
  match off with
  | 0x00C => if v.getLsbD 0 then unitEnableOp s p else unitDisableOp s p
  | 0x018 => s.plainWrite p off v
  | 0x01C => s.setHdr p { s.hdr p with raw := (s.hdr p).raw &&& ~~~v }
  | 0x020 => if v.getLsbD 31 then s.setHdr p { s.hdr p with err := 0#16 } else s
  | 0x024 => s.plainWrite p off v
  | _ => s

/-! ## Unit by unit -/

/-- PWR_OPP.CAP: a slice above the new cap moves down to it, and a pending raise beyond it is given up (R348). -/
def State.capWrite (s : State) (v : W) : State :=
  let s := s.plainWrite pgPwr 0x044 v
  (List.range s.part.slices).foldl (fun (s : State) i =>
    let p := s.slicePwr i
    let cap := s.oppCap p
    let slewing : Bool := match p.slew with | some t => decide (t.toNat < cap) | none => false
    if p.opp.toNat < cap ∧ (p.slew.isNone ∨ slewing) then s.setPwr i (p.lower (BitVec.ofNat 2 cap))
    else if slewing ∨ (p.vwait ∧ p.vreq.toNat < cap) then s.setPwr i { p with slew := none, vwait := false, vreq := p.opp }
    else s) s

def State.pwrWrite (s : State) (off : Nat) (v : W) : State :=
  match off with
  | 0x040 =>
    let w := bitsOf v 10 0
    s.wholeWrite pgPwr off v (100 ≤ w && w ≤ (hardOf s.part (regAt pgPwr 0x040)).toNat)
  | 0x044 => s.capWrite v
  | 0x060 => s.wholeWrite pgPwr off v (bitsOf v 7 0 < bitsOf v 15 8)
  | _ => s.plainWrite pgPwr off v

/-- RST_CMD (Table 16-11): COLD and WARM never complete the access. -/
def State.rstCmdWrite (s : State) (v : W) : State :=
  let op := bitsOf v 2 0
  if v.getLsbD 31 ∧ op = 1 then s.coldReset 2
  else if v.getLsbD 31 ∧ op = 2 then s.warm 5
  else s.goWrite pgRst 0x040 v fun s =>
    match op with
    | 3 => sliceResetOp s (bitsOf v 14 13)
    | 4 => unitResetOp s (bitsOf v 12 4) (bitsOf v 14 13)
    | 5 => rstExportOp s
    | _ => s.rstDone op 0 0 3

def State.rstWrite (s : State) (off : Nat) (v : W) : State :=
  match off with
  | 0x040 => s.rstCmdWrite v
  | 0x048 => if v.getLsbD 2 then { s with ret := { s.ret with full := false } } else s
  | 0x050 => s.wholeWrite pgRst off v (v != 0#32)
  | _ => s.plainWrite pgRst off v

/-- SEC_KCMD with a reserved OP: MALFORMED after the checks of the state (R316, Table 14-9). -/
def State.kcmdBad (s : State) (op : Nat) : State :=
  s.kcmdDone op (if s.lcRuns then 7 else if !s.isSealed then 1 else 2)

def State.secWrite (s : State) (off : Nat) (v : W) : State :=
  match off with
  | 0x044 => s.goOnce pgSec off v (s.secWaits 0) fun s =>
    match bitsOf v 1 0 with
    | 1 => keyImportOp s
    | 2 => keyClearOp s
    | op => s.kcmdBad op
  | 0x058 => if s.secWaits 1 then s.goOnce pgSec off v true attestOp else (s.plainWrite pgSec off v).goWrite pgSec off v attestOp
  | 0x05C => s.goOnce pgSec off v s.lcRuns fun s =>
    match bitsOf v 2 0 with
    | 1 => lcUnsealOp s false
    | 2 => lcSealOp s
    | 3 => lcReturnOp s
    | 4 => lcVoidOp s
    | 5 => raiseFwMinOp s
    | op => s.lcDone op 2
  | _ => s.plainWrite pgSec off v

/-- REL_CMD (Table 15-9): REINSTATE's own row ends the test that GO starts. -/
def State.relCmdWrite (s : State) (v : W) : State :=
  let core := bitsOf v 14 0
  s.goOnce pgRel 0x040 v ((s.rd pgRel 0x040).getLsbD 31) fun s =>
    match bitsOf v 16 15 with
    | 1 => fenceOp s core
    | 2 => s.startTest core
    | op => s.relDone op core 3

def State.relWrite (s : State) (off : Nat) (v : W) : State :=
  match off with
  | 0x040 => s.relCmdWrite v
  | 0x044 => s.fieldWrite pgRel off v 0xF0#32 (bitsOf v 7 4 != 0)
  | 0x048 => s.wholeWrite pgRel off v (v != 0#32)
  | 0x04C => if v.getLsbD 0 then { s with logOvf := false } else s
  | _ => s.plainWrite pgRel off v

def State.ctlWrite (s : State) (off : Nat) (v : W) : State :=
  match off with
  | 0x040 => s.goOnce pgCtl off v (s.fwTask.any (·.target.isSome)) fun s =>
    match bitsOf v 1 0 with
    | 1 => handoverOp s (v.getLsbD 2)
    | 2 => fwLoadOp s (v.getLsbD 2)
    | 3 => splitOp s
    | op => s.fwCmd op (v.getLsbD 2) fun s => s.fwDone op (v.getLsbD 2) 3
  | 0x058 | 0x05C =>
    if s.unit pgStep = .off ∧ s.unit pgCache = .off then (s.plainWrite pgCtl off v).checkTables else s.errInc pgCtl
  | _ => s.plainWrite pgCtl off v

def State.schedWrite (s : State) (off : Nat) (v : W) : State :=
  if off = 0x040 then s.wholeWrite pgSched off v (1 ≤ bitsOf v 6 0 && bitsOf v 6 0 ≤ 64)
  else if off = 0x044 then s.wholeWrite pgSched off v (65536 ≤ v.toNat)
  else if off = 0x048 then tidelineWrite s v
  else if off = 0x058 then s.wholeWrite pgSched off v (40000 ≤ bitsOf v 16 0 && bitsOf v 16 0 ≤ 100000)
  else if 0x100 ≤ off ∧ off < 0x200 then grpWrite s ((off - 0x100) / 4) v
  else if off = 0x200 then s.fieldWrite pgSched off v 0x3FF#32 (bitsOf v 9 0 ≤ 512)
  else if off = 0x240 then (if v.getLsbD 31 then s.wr pgSched off 0#32 else s)
  else if 0x300 ≤ off ∧ off < 0x400 then
    let bad := (List.range 4).filter fun j => s.part.nCols ≤ bitsOf v (8 * j + 7) (8 * j)
    s.fieldWrite pgSched off v (BitVec.ofNat 32 ((bad.map fun j => 255 * 2 ^ (8 * j)).sum)) bad.isEmpty
  else s.plainWrite pgSched off v

def State.tideWrite (s : State) (off : Nat) (v : W) : State :=
  match off with
  | 0x040 => s.fieldWrite pgTide off v 0x1FFF#32 (1 ≤ bitsOf v 12 0 && bitsOf v 12 0 ≤ 4096)
  | 0x044 =>
    let slot := BitVec.ofNat 12 (bitsOf v 11 0)
    let s := s.plainWrite pgTide off v
    let s := if v.getLsbD 30 then tideLoadOp s slot else s
    if v.getLsbD 31 then tideCommitOp s slot else s
  | _ => s.plainWrite pgTide off v

def State.admWrite (s : State) (off : Nat) (v : W) : State :=
  if off = 0x054 then s.wholeWrite pgAdm off v (1 ≤ bitsOf v 12 0 && bitsOf v 12 0 ≤ 4096)
  else if 0x044 ≤ off ∧ off ≤ 0x058 then s.wholeWrite pgAdm off v (v != 0#32)
  else s.plainWrite pgAdm off v

/-- A directory command by opcode (Table 03-5). -/
def State.dirGo (s : State) (id op : Nat) : State :=
  match op with
  | 0 => dirReadOp s id
  | 1 => dirCreateOp s id
  | 2 => dirStageOp s id
  | 3 => dirPublishOp s id
  | 4 => dirDiscardOp s id
  | 5 => dirRetireOp s id
  | 6 => dirSetPolicyOp s id
  | 7 => dirFlushPrefixOp s id
  | _ => (s.dirCmd id op).dirDone id (if !s.running pgDir then 0xA else 2)

/-- A write of DIR_CMD: a GO while DIR_RESULT.BUSY is 1 sets OVERRUN and is dropped (Tables 03-7 and 03-8). -/
def State.dirWrite (s : State) (off : Nat) (v : W) : State :=
  match off with
  | 0x040 =>
    let busy := (s.rd pgDir 0x044).getLsbD 4
    let s := if busy && v.getLsbD 31 then s.setFld pgDir 0x044 5 1 1 else s
    s.goOnce pgDir off v busy fun s => s.dirGo (bitsOf v 15 0) (bitsOf v 19 16)
  | _ => s.plainWrite pgDir off v

def State.intakeWrite (s : State) (off : Nat) (v : W) : State :=
  match off with
  | 0x040 => s.goWrite pgIntake off v fun s =>
    let m := bitsOf v 7 0
    match bitsOf v 10 8 with
    | 1 => intakeLoadOp s m (v.getLsbD 11)
    | 2 => intakeReplaceOp s m
    | 3 => wfRetryOp s
    | 4 => wfRollbackOp s
    | 5 => intakeUnloadOp s m
    | op => s.mcmdDone m op (v.getLsbD 11) (if s.running pgIntake then 5 else 0xF)
  | 0x068 => s.wholeWrite pgIntake off v (v != 0#32)
  | 0x080 => s.goWrite pgIntake off v fun s => adapterIntakeOp s (bitsOf v 15 0)
  | _ => s.plainWrite pgIntake off v

/-- STEP_JCONS (R136). -/
def State.jconsWrite (s : State) (job : Nat) (v : W) : State :=
  let j := s.job job
  if ({ j with cons := v } : Job).room < 0 then s.errInc pgStep else s.setJob job { j with cons := v }

def State.stepWrite (s : State) (job off : Nat) (v : W) : State :=
  match off with
  | 0x040 => s.goWrite pgStep off v fun s =>
    let j := bitsOf v 7 0
    match bitsOf v 11 8 with
    | 0 => jobReadOp s j
    | 1 => jobOpenOp s j
    | 2 => jobUpdateOp s j
    | 3 => jobCloseOp s j
    | op => (s.jobCmd j op).jobDone (if s.stepUp then 2 else 6)
  | 0x05C => s.jconsWrite job v
  | 0x060 => s.setJob job { s.job job with batchLo := v }
  | 0x064 => s.setJob job { s.job job with batchHi := v }
  | 0x068 => if v.getLsbD 31 then batchGoOp s job else s
  | _ => s.plainWrite pgStep off v

def State.cacheWrite (s : State) (off : Nat) (v : W) : State :=
  if isPoolReg off then
    s.poolReg off v
  else if off = 0x058 then s.goWrite pgCache off v fun s => s.removeWays fun w => w.owner == BitVec.ofNat 16 (bitsOf v 15 0)
  else s.plainWrite pgCache off v

def State.sampWrite (s : State) (off : Nat) (v : W) : State :=
  match off with
  | 0x040 => s.wholeWrite pgSamp off v (1 ≤ bitsOf v 26 16 && bitsOf v 26 16 ≤ 1024)
  | 0x044 => s.wholeWrite pgSamp off v (s.unit pgSamp == .off)
  | _ => s.plainWrite pgSamp off v

def State.trainWrite (s : State) (off : Nat) (v : W) : State :=
  let job := bitsOf (s.rd pgTrain 0x048) 7 0
  match off with
  | 0x040 => s.goWrite pgTrain off v fun s =>
    let op := bitsOf v 25 24
    if op = 1 ∨ op = 2 then acmdOp s (bitsOf v 23 16) (bitsOf v 15 0) op
    else s.acmdDone (bitsOf v 23 16) (bitsOf v 15 0) op (if s.running pgTrain then 4 else 5)
  | 0x050 => s.goWrite pgTrain off v fun s =>
    match bitsOf v 1 0 with
    | 1 => resolveOp s job true
    | 2 => resolveOp s job false
    | 3 => trainRetryOp s job
    | _ => s.errInc pgTrain
  | 0x054 | 0x058 | 0x05C => s.wholeWrite pgTrain off v (v != 0#32)
  | _ => s.plainWrite pgTrain off v

/-- Some job holds a pooled entry of a circular (R243). -/
def State.circHeld (s : State) (c : Nat) : Bool :=
  s.dir.any fun (_, e) => e.trained && e.pooled && e.circ.toNat == c

/-- A word of a circular: POOL_CFG (k = 0) or a seat (R243, Tables 10-11 and 10-12). -/
def State.circWrite (s : State) (k : Nat) (v : W) : State :=
  let c := bitsOf (s.rd pgPool 0x040) 3 0
  let i := 65 * c + k
  if s.circHeld c then s.errInc pgPool
  else
    let old := tget 0#32 s.circ i
    let badF : Bool := decide (k = 0) && decide (bitsOf v 13 8 = 63)
    let new := if badF then mergeBits 1#32 old v else v &&& circMask k
    let s := if new = old then s else State.touch { s with circ := if new = 0#32 then tdel s.circ i else tput s.circ i new }
    if badF then s.errInc pgPool else s

def State.poolPageWrite (s : State) (off : Nat) (v : W) : State :=
  if off = 0x044 then s.circWrite 0 v
  else if 0x100 ≤ off ∧ off < 0x200 then s.circWrite (1 + (off - 0x100) / 4) v
  else s.plainWrite pgPool off v

def State.hostPageWrite (s : State) (off : Nat) (v : W) : State :=
  match off with
  | 0x040 => s.fieldWrite pgHost off v 0x7FF#32 (1 ≤ bitsOf v 10 0 && bitsOf v 10 0 ≤ 1024)
  | 0x044 => s.wholeWrite pgHost off v (v != 0#32)
  | 0x050 => daccWriteOp s v
  | _ => s.plainWrite pgHost off v

def State.memPageWrite (s : State) (k off : Nat) (v : W) : State :=
  let p := pgMem k
  if off = 0x040 then s.fieldWrite p off v 0x30#32 (bitsOf v 5 4 != 3)
  else if off = 0x04C then s.goWrite p off v fun s =>
    let pc := bitsOf v 7 2
    match bitsOf v 1 0 with
    | 1 => memRetrainOp s k
    | 2 => memRetireOp s k pc
    | op => s.memCmdDone k op pc 3
  else if off = 0x050 ∨ off = 0x054 then s.wholeWrite p off v (bitsOf v 15 0 != 0)
  else if k = 0 ∧ 0x800 ≤ off ∧ off < 0xC00 then memRegWriteOp s ((off - 0x800) / 16) (off % 16 / 4) v
  else s.plainWrite p off v

/-- DEVID and TOPO stay while an OPEN job spans devices (R295, R296). -/
def State.spans (s : State) : Bool := s.jobs.any fun (k, j) => j.st == 1#2 && decide (1 < s.jobNdev k)

def State.linkWrite (s : State) (k off : Nat) (v : W) : State :=
  let p := pgLink k
  if off = 0x048 then s.wholeWrite p off v (v != 0#32)
  else if k = 0 ∧ off = 0x080 then
    let badTopo : Bool := decide (2 ≤ bitsOf v 11 10) || s.spans
    let badId : Bool := s.spans
    let badRm : Bool := bitsOf v 15 12 == 0
    let field := (if badTopo then 0xC00#32 else 0#32) ||| (if badId then 0x3FF#32 else 0#32) ||| (if badRm then 0xF000#32 else 0#32)
    s.fieldWrite p off v field (!(badTopo || badId || badRm))
  else if k = 0 ∧ off = 0x084 then linkRcmdOp s v
  else if k = 0 ∧ off = 0x088 then s.wholeWrite p off v (v != 0#32)
  else s.plainWrite p off v

/-- Pigeonholes reserved now become the peak (MERGE_LPEAK). -/
def State.peakClear (s : State) (l : Nat) : State :=
  let v := s.lane l
  s.setLane l { v with peak := BitVec.ofNat 11 v.reservedPhs }

def State.laneWrite (s : State) (l off : Nat) (v : W) : State :=
  match off with
  | 0x00 => if v.getLsbD 0 then laneEnableOp s l else laneDisableOp s l
  | 0x04 => if v.getLsbD 16 then s.setLane l { s.lane l with ovf := false } else s
  | 0x0C => if v.getLsbD 31 then s.peakClear l else s
  | _ => s

def State.mergeWrite (s : State) (p off : Nat) (v : W) : State :=
  if 0x100 ≤ off ∧ off < 0x500 then s.laneWrite (4 * (p - 0x050) + (off / 0x100 - 1)) (off % 0x100) v
  else if p = 0x050 ∧ (off = 0x040 ∨ off = 0x044) then s.wholeWrite p off v (v != 0#32)
  else s

/-- A beacon word (R382): firmware's beacons, a reserved operation and non-zero reserved bits are refused. -/
def State.beaconWrite (s : State) (b : Nat) (v : W) : State :=
  let arg := v.setWidth 24
  if b < 1024 ∨ bitsOf v 29 24 ≠ 0 then s.beaconErr
  else match bitsOf v 31 30 with
    | 0 => s.beaconArm b arg
    | 1 => s.beaconArrive b arg
    | 2 => { s with beacons := tput s.beacons b { s.beacon b with count := 0#24 } }
    | _ => s.beaconErr

/-- A word of a request slot (R124, Table 06-3). -/
def State.slotWrite (s : State) (q off : Nat) (v : W) : State :=
  let a := 0x100000 + 256 * q + off
  if off = 0 then
    let c := bitsOf v 3 1
    if v.getLsbD 0 then postSlot s q c else s.slotCmd q c
  else if off < 0x20 then s
  else if (s.slot q).own then s.errInc pgStep
  else s.plainWrite (a / 0x1000) (a % 0x1000) v

/-- A permitted write of a page's register, by its page. -/
def State.unitWrite (s : State) (stepJob p off : Nat) (v : W) : State :=
  match pageKind p with
  | none => s
  | some .top => s.plainWrite p off v
  | some .pwr => s.pwrWrite off v
  | some .rst => s.rstWrite off v
  | some .sec => s.secWrite off v
  | some .rel => s.relWrite off v
  | some .ctl => s.ctlWrite off v
  | some .sched => s.schedWrite off v
  | some .tide => s.tideWrite off v
  | some .adm => s.admWrite off v
  | some .dir => s.dirWrite off v
  | some .intake => s.intakeWrite off v
  | some .step => s.stepWrite stepJob off v
  | some .cache => s.cacheWrite off v
  | some .samp => s.sampWrite off v
  | some .train => s.trainWrite off v
  | some .pool => s.poolPageWrite off v
  | some .array => s
  | some .host => s.hostPageWrite off v
  | some .slice => s.plainWrite p off v
  | some .mem => s.memPageWrite (p - 0x030) off v
  | some .link => s.linkWrite (p - 0x040) off v
  | some .merge => s.mergeWrite p off v
  | some .beacon => s.beaconWrite (1024 * (p - 0x060) + off / 4) v
  | some .slot => s.slotWrite (16 * (p - 0x100) + off / 0x100) (off % 0x100) v

/-- A permitted write of an aligned privileged address; a page that is absent, or closed in the life-cycle state, ignores it
(R3, R308). `job` is the requester's in the unprivileged view, where it selects the job (R145). -/
def State.writeReg (s : State) (job : Option Nat) (a : Nat) (v : W) : State :=
  let p := a / 0x1000
  let off := a % 0x1000
  if !s.pageLive p then s
  else if pageHeader p ∧ off < 0x040 then s.headerWrite p off v
  else if 4 ≤ off ∧ isCounterLo (a - 4) then
    (if v.getLsbD 31 then { s with ctrs := tput s.ctrs (a - 4) { s.ctr (a - 4) with value := 0#48, sat := false } } else s)
  else s.unitWrite (job.getD (bitsOf (s.rd pgStep 0x048) 7 0)) p off v

/-- An access refused by the checks: what it does; none where it is permitted. -/
def State.refuse (s : State) (priv : Bool) (job addr : Nat) (we : Bool) : Option State :=
  match s.portCheck priv job addr we with
  | .bad => some (s.badAccess (BitVec.ofNat 22 addr))
  | .deny => some s.viewDeny
  | .ok _ _ => none

def regWriteOp (s : State) (priv : Bool) (job addr : Nat) (v : W) : State :=
  match s.portCheck priv job addr true with
  | .bad => s.badAccess (BitVec.ofNat 22 addr)
  | .deny => s.viewDeny
  | .ok a j => s.writeReg j a v

/-- COUNTER_LO_READ (R374): in the unprivileged view STEP_JNEXT is the requester's job's (R145, R319); a refused access is
counted and reads zero (R363). -/
def counterLoReadOp (s : State) (x : LoAccess) : State :=
  match s.portCheck x.priv x.job.toNat x.addr.toNat false with
  | .bad => { s.badAccess x.addr with rdata := 0#32 }
  | .deny => { s.viewDeny with rdata := 0#32 }
  | .ok a job => if s.pageLive (a / 0x1000) then s.readLo job a else { s with rdata := 0#32 }

def execCounterLoRead (access : LoAccess) (s : State) : Host.Outcome State Fault Refusal :=
  if !s.serves (.counterLoRead access) then .next s else
  let t := counterLoReadOp s access
  .next { s with ctrs := t.ctrs, latches := t.latches, rdata := t.rdata, hdrs := t.hdrs, regs := t.regs, ret := t.ret }

/-- REGISTER_WRITE (R363, R365). -/
def execRegisterWrite (priv : Bool) (job : BitVec 8) (addr : BitVec 22) (data : W) (s : State) :
    Host.Outcome State Fault Refusal :=
  if !s.serves (.registerWrite priv job addr data) then .next s else
  .next { regWriteOp s priv job.toNat addr.toNat data with
    rdata := 0#32, pending := s.pending, part := s.part, fuses := s.fuses }

/-- BADACC (R363): a refused access reads zero and ignores its write; an access that the checks permit is none of this
command's. -/
def execBadacc (priv : Bool) (job : BitVec 8) (addr : BitVec 22) (we : Bool) (s : State) :
    Host.Outcome State Fault Refusal :=
  if !s.serves (.badacc priv job addr we) then .next s else
  let t := match s.refuse priv job.toNat addr.toNat we with
    | some t => { t with rdata := 0#32 }
    | none => s
  .next { s with hdrs := t.hdrs, ctrs := t.ctrs, regs := t.regs, ret := t.ret, rdata := t.rdata }

end Sys2Proof.Machine
end

