-- ==== Sys2Proof/Machine/Dispatch.lean ====
section
/-! DEFINITION. The command dispatch: one arm per constructor of Instr, each one direct call of its meaning. -/
namespace Sys2Proof.Machine

def exec (i : Instr) (s : State) : Host.Outcome State Fault Refusal :=
  match i with
  | .registerWrite priv job addr data => Sys2Proof.Machine.execRegisterWrite priv job addr data s
  | .badacc priv job addr we => Sys2Proof.Machine.execBadacc priv job addr we s
  | .evtPendClear page mask => Sys2Proof.Machine.execEvtPendClear page mask s
  | .errCountClr page => Sys2Proof.Machine.execErrCountClr page s
  | .counterLoRead access => Sys2Proof.Machine.execCounterLoRead access s
  | .counterSatClear addr => Sys2Proof.Machine.execCounterSatClear addr s
  | .dirRead id => Sys2Proof.Machine.execDirRead id s
  | .dirCreate id => Sys2Proof.Machine.execDirCreate id s
  | .dirStage id => Sys2Proof.Machine.execDirStage id s
  | .dirPublish id => Sys2Proof.Machine.execDirPublish id s
  | .dirDiscard id => Sys2Proof.Machine.execDirDiscard id s
  | .dirRetire id => Sys2Proof.Machine.execDirRetire id s
  | .dirSetPolicy id => Sys2Proof.Machine.execDirSetPolicy id s
  | .dirFlushPrefix id => Sys2Proof.Machine.execDirFlushPrefix id s
  | .jobRead job => Sys2Proof.Machine.execJobRead job s
  | .jobOpen job => Sys2Proof.Machine.execJobOpen job s
  | .jobUpdate job => Sys2Proof.Machine.execJobUpdate job s
  | .jobClose job => Sys2Proof.Machine.execJobClose job s
  | .jobCloseEnds job => Sys2Proof.Machine.execJobCloseEnds job s
  | .post slot cmd => Sys2Proof.Machine.execPost slot cmd s
  | .postingCheck slot => Sys2Proof.Machine.execPostingCheck slot s
  | .outOfStepRecord job => Sys2Proof.Machine.execOutOfStepRecord job s
  | .cancel slot => Sys2Proof.Machine.execCancel slot s
  | .pause slot => Sys2Proof.Machine.execPause slot s
  | .resume slot => Sys2Proof.Machine.execResume slot s
  | .trim slot => Sys2Proof.Machine.execTrim slot s
  | .cancelTaken slot => Sys2Proof.Machine.execCancelTaken slot s
  | .resumeTaken slot => Sys2Proof.Machine.execResumeTaken slot s
  | .deadlineEnd slot => Sys2Proof.Machine.execDeadlineEnd slot s
  | .expired slot => Sys2Proof.Machine.execExpired slot s
  | .jconsWrite job value => Sys2Proof.Machine.execJconsWrite job value s
  | .batchGo job => Sys2Proof.Machine.execBatchGo job s
  | .stepForm job => Sys2Proof.Machine.execStepForm job s
  | .formPlacement desc => Sys2Proof.Machine.execFormPlacement desc s
  | .down form => Sys2Proof.Machine.execDown form s
  | .up form => Sys2Proof.Machine.execUp form s
  | .pigeonholeWrite lane => Sys2Proof.Machine.execPigeonholeWrite lane s
  | .score form => Sys2Proof.Machine.execScore form s
  | .value form => Sys2Proof.Machine.execValue form s
  | .smerge form => Sys2Proof.Machine.execSmerge form s
  | .norm form => Sys2Proof.Machine.execNorm form s
  | .rotary form => Sys2Proof.Machine.execRotary form s
  | .resid form => Sys2Proof.Machine.execResid form s
  | .act form => Sys2Proof.Machine.execAct form s
  | .route form => Sys2Proof.Machine.execRoute form s
  | .sample form => Sys2Proof.Machine.execSample form s
  | .loss form => Sys2Proof.Machine.execLoss form s
  | .du form => Sys2Proof.Machine.execDu form s
  | .dxa form => Sys2Proof.Machine.execDxa form s
  | .gout form => Sys2Proof.Machine.execGout form s
  | .bvec form => Sys2Proof.Machine.execBvec form s
  | .battn form => Sys2Proof.Machine.execBattn form s
  | .mpool form => Sys2Proof.Machine.execMpool form s
  | .intakeForm form => Sys2Proof.Machine.execIntakeForm form s
  | .formFault form core => Sys2Proof.Machine.execFormFault form core s
  | .wdog form => Sys2Proof.Machine.execWdog form s
  | .commandGrant submitted => Sys2Proof.Machine.execCommandGrant submitted s
  | .commandIssue => Sys2Proof.Machine.execCommandIssue s
  | .commandDrop => Sys2Proof.Machine.execCommandDrop s
  | .acmdDone id => Sys2Proof.Machine.execAcmdDone id s
  | .beat lane data tag tpar => Sys2Proof.Machine.execBeat lane data tag tpar s
  | .beatAbsent lane tag => Sys2Proof.Machine.execBeatAbsent lane tag s
  | .pigeonholeCredit lane => Sys2Proof.Machine.execPigeonholeCredit lane s
  | .landingFree addr => Sys2Proof.Machine.execLandingFree addr s
  | .missDrain lane => Sys2Proof.Machine.execMissDrain lane s
  | .missqLoRead lane => Sys2Proof.Machine.execMissqLoRead lane s
  | .missqHiRead lane => Sys2Proof.Machine.execMissqHiRead lane s
  | .laneDisable lane => Sys2Proof.Machine.execLaneDisable lane s
  | .laneEnable lane => Sys2Proof.Machine.execLaneEnable lane s
  | .laneDrained lane => Sys2Proof.Machine.execLaneDrained lane s
  | .laneFault lane => Sys2Proof.Machine.execLaneFault lane s
  | .stepBoundary job => Sys2Proof.Machine.execStepBoundary job s
  | .schedTidelineWrite value => Sys2Proof.Machine.execSchedTidelineWrite value s
  | .schedGrpWrite group value => Sys2Proof.Machine.execSchedGrpWrite group value s
  | .periodEnd => Sys2Proof.Machine.execPeriodEnd s
  | .modelSwitch model => Sys2Proof.Machine.execModelSwitch model s
  | .tideLoad slot => Sys2Proof.Machine.execTideLoad slot s
  | .tideCommit slot => Sys2Proof.Machine.execTideCommit slot s
  | .slotBegin => Sys2Proof.Machine.execSlotBegin s
  | .windowEnd => Sys2Proof.Machine.execWindowEnd s
  | .trainTake job adapter => Sys2Proof.Machine.execTrainTake job adapter s
  | .trainRelease job adapter => Sys2Proof.Machine.execTrainRelease job adapter s
  | .collectiveDone job coll => Sys2Proof.Machine.execCollectiveDone job coll s
  | .linkCollTimeout job coll => Sys2Proof.Machine.execLinkCollTimeout job coll s
  | .updGrad job adapter => Sys2Proof.Machine.execUpdGrad job adapter s
  | .updWrite hdr data => Sys2Proof.Machine.execUpdWrite hdr data s
  | .updAck hdr => Sys2Proof.Machine.execUpdAck hdr s
  | .trainUpdTimeout job adapter => Sys2Proof.Machine.execTrainUpdTimeout job adapter s
  | .vote job => Sys2Proof.Machine.execVote job s
  | .voteFrame job => Sys2Proof.Machine.execVoteFrame job s
  | .trainVoteTimeout job => Sys2Proof.Machine.execTrainVoteTimeout job s
  | .decision job => Sys2Proof.Machine.execDecision job s
  | .trainDecideTimeout job => Sys2Proof.Machine.execTrainDecideTimeout job s
  | .ask job => Sys2Proof.Machine.execAsk job s
  | .resolveCommit job => Sys2Proof.Machine.execResolveCommit job s
  | .resolveAbort job => Sys2Proof.Machine.execResolveAbort job s
  | .trainRetry job => Sys2Proof.Machine.execTrainRetry job s
  | .adapterIntake adapter => Sys2Proof.Machine.execAdapterIntake adapter s
  | .intakeStart => Sys2Proof.Machine.execIntakeStart s
  | .intakeComplete adapter reason => Sys2Proof.Machine.execIntakeComplete adapter reason s
  | .afaultqLoRead => Sys2Proof.Machine.execAfaultqLoRead s
  | .afaultqHiRead => Sys2Proof.Machine.execAfaultqHiRead s
  | .intakeLoad model transpose => Sys2Proof.Machine.execIntakeLoad model transpose s
  | .intakeReplace model => Sys2Proof.Machine.execIntakeReplace model s
  | .wfRetry => Sys2Proof.Machine.execWfRetry s
  | .wfRollback => Sys2Proof.Machine.execWfRollback s
  | .intakeUnload model => Sys2Proof.Machine.execIntakeUnload model s
  | .part0Checked => Sys2Proof.Machine.execPart0Checked s
  | .stationPrepared fault => Sys2Proof.Machine.execStationPrepared fault s
  | .stationCopy => Sys2Proof.Machine.execStationCopy s
  | .wfFinished => Sys2Proof.Machine.execWfFinished s
  | .hostReadResponse tag data last err => Sys2Proof.Machine.execHostReadResponse tag data last err s
  | .hostWriteAck tag err => Sys2Proof.Machine.execHostWriteAck tag err s
  | .hostReadTimeout tag => Sys2Proof.Machine.execHostReadTimeout tag s
  | .directWindowRequest we priv addr be data => Sys2Proof.Machine.execDirectWindowRequest we priv addr be data s
  | .daccRead => Sys2Proof.Machine.execDaccRead s
  | .daccWrite value => Sys2Proof.Machine.execDaccWrite value s
  | .memRegWrite entry word value => Sys2Proof.Machine.execMemRegWrite entry word value s
  | .stackReadDone addr req symbols burst => Sys2Proof.Machine.execStackReadDone addr req symbols burst s
  | .patrol stack symbols miscorrect => Sys2Proof.Machine.execPatrol stack symbols miscorrect s
  | .corrHalving => Sys2Proof.Machine.execCorrHalving s
  | .memRetrain stack => Sys2Proof.Machine.execMemRetrain stack s
  | .stackTempRetrain stack temp => Sys2Proof.Machine.execStackTempRetrain stack temp s
  | .retrainDone stack ok => Sys2Proof.Machine.execRetrainDone stack ok s
  | .memRetire stack pc => Sys2Proof.Machine.execMemRetire stack pc s
  | .pcRetired stack => Sys2Proof.Machine.execPcRetired stack s
  | .ucqLoRead stack => Sys2Proof.Machine.execUcqLoRead stack s
  | .ucqHiRead stack => Sys2Proof.Machine.execUcqHiRead stack s
  | .frameRx port bits => Sys2Proof.Machine.execFrameRx port bits s
  | .linkAckTimeout port => Sys2Proof.Machine.execLinkAckTimeout port s
  | .laneFail port lane => Sys2Proof.Machine.execLaneFail port lane s
  | .linkTrained port laneOk => Sys2Proof.Machine.execLinkTrained port laneOk s
  | .linkRcmd value => Sys2Proof.Machine.execLinkRcmd value s
  | .unitDisable page => Sys2Proof.Machine.execUnitDisable page s
  | .unitEnable page => Sys2Proof.Machine.execUnitEnable page s
  | .unitDrained page => Sys2Proof.Machine.execUnitDrained page s
  | .cacheFlush owner => Sys2Proof.Machine.execCacheFlush owner s
  | .cachePoolWrite offset value => Sys2Proof.Machine.execCachePoolWrite offset value s
  | .lcUnseal testPort => Sys2Proof.Machine.execLcUnseal testPort s
  | .lcSeal => Sys2Proof.Machine.execLcSeal s
  | .lcReturn => Sys2Proof.Machine.execLcReturn s
  | .lcVoid => Sys2Proof.Machine.execLcVoid s
  | .raiseFwMin => Sys2Proof.Machine.execRaiseFwMin s
  | .keyImport => Sys2Proof.Machine.execKeyImport s
  | .keyClear => Sys2Proof.Machine.execKeyClear s
  | .attest => Sys2Proof.Machine.execAttest s
  | .fuseBurnAck ok => Sys2Proof.Machine.execFuseBurnAck ok s
  | .fence core => Sys2Proof.Machine.execFence core s
  | .spareBind slice => Sys2Proof.Machine.execSpareBind slice s
  | .reinstate core pass => Sys2Proof.Machine.execReinstate core pass s
  | .nocMessage core form parityOk toBerth => Sys2Proof.Machine.execNocMessage core form parityOk toBerth s
  | .ctrlUncorr error index => Sys2Proof.Machine.execCtrlUncorr error index s
  | .relLog0Read => Sys2Proof.Machine.execRelLog0Read s
  | .relLog3Read => Sys2Proof.Machine.execRelLog3Read s
  | .clusterFault cluster => Sys2Proof.Machine.execClusterFault cluster s
  | .handover cluster => Sys2Proof.Machine.execHandover cluster s
  | .fwLoad cluster => Sys2Proof.Machine.execFwLoad cluster s
  | .split => Sys2Proof.Machine.execSplit s
  | .clkfail clocks => Sys2Proof.Machine.execClkfail clocks s
  | .powerEstimate slice activity => Sys2Proof.Machine.execPowerEstimate slice activity s
  | .vack slice level => Sys2Proof.Machine.execVack slice level s
  | .oppSlewDone slice => Sys2Proof.Machine.execOppSlewDone slice s
  | .droopAssert slice => Sys2Proof.Machine.execDroopAssert slice s
  | .droopDeassert slice => Sys2Proof.Machine.execDroopDeassert slice s
  | .thermSample slice temp => Sys2Proof.Machine.execThermSample slice temp s
  | .gateIdle domain => Sys2Proof.Machine.execGateIdle domain s
  | .powerOnReset => Sys2Proof.Machine.execPowerOnReset s
  | .coldResetInput => Sys2Proof.Machine.execColdResetInput s
  | .warmResetInput => Sys2Proof.Machine.execWarmResetInput s
  | .bringUp env => Sys2Proof.Machine.execBringUp env s
  | .rstCold => Sys2Proof.Machine.execRstCold s
  | .rstWarm => Sys2Proof.Machine.execRstWarm s
  | .sliceReset slice => Sys2Proof.Machine.execSliceReset slice s
  | .unitReset page sub => Sys2Proof.Machine.execUnitReset page sub s
  | .rstExport => Sys2Proof.Machine.execRstExport s
  | .autoExport => Sys2Proof.Machine.execAutoExport s
  | .imageUpdate => Sys2Proof.Machine.execImageUpdate s
  | .exportDone => Sys2Proof.Machine.execExportDone s
  | .exportFail => Sys2Proof.Machine.execExportFail s
  | .beaconArm beacon arg => Sys2Proof.Machine.execBeaconArm beacon arg s
  | .beaconArrive beacon arg => Sys2Proof.Machine.execBeaconArrive beacon arg s
  | .beaconClear beacon => Sys2Proof.Machine.execBeaconClear beacon s
  | .intakeReadTimeout => Sys2Proof.Machine.execIntakeReadTimeout s
  | .phyTrainingTimeout stack => Sys2Proof.Machine.execPhyTrainingTimeout stack s
  | .commandAddressParityError stack channel => Sys2Proof.Machine.execCommandAddressParityError stack channel s
  | .writeDataParityError stack addr again => Sys2Proof.Machine.execWriteDataParityError stack addr again s

end Sys2Proof.Machine
end

