-- ==== Sys2Proof/Safety.lean ====
section
/-! DEFINITION. The terms in which statements about the block speak: what a command may write, what two states agree on,
and the canonical form of every memory. -/
namespace Sys2Proof.Machine

/-! ## Agreement of two states -/

/-- Every stored register but those listed reads alike. -/
def sameRegsBut (l : List Nat) (s t : State) : Prop := ∀ a, a ∉ l → t.reg a = s.reg a

/-- Every header but those of the pages listed is alike: STATUS.STATE, EVT_RAW and ERR_COUNT. -/
def sameHdrsBut (l : List Nat) (s t : State) : Prop := ∀ p, p ∉ l → t.hdr p = s.hdr p

/-- Every statistics counter but those listed is alike. -/
def sameCtrsBut (l : List Nat) (s t : State) : Prop := ∀ a, a ∉ l → t.ctr a = s.ctr a

/-- Every unit keeps its STATUS.STATE. -/
def sameUnits (s t : State) : Prop := ∀ p, t.unit p = s.unit p

/-- An event of a page stands in EVT_RAW. -/
def State.event (s : State) (page bit : Nat) : Bool := (s.hdr page).raw.getLsbD bit

/-- A statistics counter's value as the number it has counted. -/
def State.counted (s : State) (page off : Nat) : Nat := (s.ctr (regAt page off)).value.toNat

/-- A counter reads n more, or is saturated (R374). -/
def State.countedBy (s t : State) (page off n : Nat) : Prop :=
  (s.ctr (regAt page off)).sat = false →
    t.counted page off = min (s.counted page off + n) (2 ^ 48 - 1)

/-! ## Registers with a legal range -/

/-- A register that refuses the values its chapter calls illegal, and one that takes every value: its page and offset, its
writable bits, its legal values. -/
structure RangedReg where
  page : Nat
  off : Nat
  rw : W
  legal : W → Bool

/-- Every bit of a header register is writable (EVT_EN and KEEP_MASK, Tables 17-5 and 17-6). -/
def headerRegs (page : Nat) : List RangedReg := [⟨page, 0x018, w32, fun _ => true⟩, ⟨page, 0x024, w32, fun _ => true⟩]

/-- A register whose whole word is a limit that must not be 0. -/
def notZero (page off : Nat) : RangedReg := ⟨page, off, w32, fun v => v != 0#32⟩

/-- The registers whose tables state legal values, each with those values (Tables 16-8, 16-11, 15-9, 09-4, 09-6, 10-8, 11-7,
12-8, 13-6, 05-4, 08-6 and 17-14 and the lists below them). -/
def rangedRegs (part : Part) : List RangedReg :=
  [pgTop, pgPwr, pgRst, pgSec, pgRel, pgCtl, pgSched, pgTide, pgAdm, pgDir, pgIntake, pgStep, pgCache, pgSamp, pgTrain,
    pgPool, pgArray, pgHost, pgSlice 0, pgMem 0, pgLink 0, pgMerge 0].flatMap headerRegs ++
  [⟨pgPwr, 0x040, 0x7FF#32, fun v => 100 ≤ bitsOf v 10 0 && bitsOf v 10 0 ≤ (if part = .irz2F then 600 else 1200)⟩,
   ⟨pgPwr, 0x060, 0xFFFF#32, fun v => bitsOf v 7 0 < bitsOf v 15 8⟩,
   notZero pgRst 0x050, notZero pgRel 0x048,
   ⟨pgSched, 0x040, 0x17F#32, fun v => 1 ≤ bitsOf v 6 0 && bitsOf v 6 0 ≤ 64⟩,
   ⟨pgSched, 0x044, w32, fun v => 65536 ≤ v.toNat⟩,
   ⟨pgSched, 0x058, 0x1FFFF#32, fun v => 40000 ≤ bitsOf v 16 0 && bitsOf v 16 0 ≤ 100000⟩,
   notZero pgAdm 0x044, notZero pgAdm 0x048, notZero pgAdm 0x04C, notZero pgAdm 0x050, notZero pgAdm 0x058,
   ⟨pgAdm, 0x054, 0x1FFF#32, fun v => 1 ≤ bitsOf v 12 0 && bitsOf v 12 0 ≤ 4096⟩,
   notZero pgIntake 0x068, notZero pgTrain 0x054, notZero pgTrain 0x058, notZero pgTrain 0x05C, notZero pgHost 0x044,
   ⟨pgSamp, 0x040, 0x07FF000F#32, fun v => 1 ≤ bitsOf v 26 16 && bitsOf v 26 16 ≤ 1024⟩,
   ⟨pgMem 0, 0x050, 0xFFFF#32, fun v => bitsOf v 15 0 != 0⟩, ⟨pgMem 0, 0x054, 0xFFFF#32, fun v => bitsOf v 15 0 != 0⟩,
   notZero (pgLink 0) 0x048, notZero (pgLink 0) 0x088, notZero (pgMerge 0) 0x040, notZero (pgMerge 0) 0x044]

/-! ## What the shared results report -/

/-- DIR_RESULT of a directory command of an entry: CODE, the entry's state, DONE raised, refusals counted; no other entry
and no unit's state changes (Table 03-8). -/
def dirReports (s t : State) (id code : Nat) : Prop :=
  bitsOf (t.rd pgDir 0x044) 3 0 = code ∧ bitsOf (t.rd pgDir 0x044) 8 6 = (t.entry id).st.code ∧
    t.event pgDir 0 = true ∧ s.countedBy t pgDir 0x050 (if code = 0 then 0 else 1) ∧ sameUnits s t ∧
    ∀ k, k ≠ id → t.entry k = s.entry k

/-- The directory commands with their mark "answers DIR_TRAINED" and the states that allow them (Tables 03-4 and 03-5). -/
def dirCommands (id : BitVec 16) : List (Sys2Proof.Instr × Bool × (DirState → Bool)) :=
  [(.dirRead id, false, fun _ => true), (.dirCreate id, false, (· == .free)), (.dirStage id, true, (· == .ready)),
   (.dirPublish id, true, (· == .staged)), (.dirDiscard id, true, fun st => st == .staging || st == .staged),
   (.dirRetire id, false, (· != .free)),
   (.dirSetPolicy id, false, fun st => st == .ready || st == .staging || st == .staged),
   (.dirFlushPrefix id, false, (· != .free))]

/-- A command register, a word with GO that starts a command in it, and the command's row. -/
structure GoWord where
  page : Nat
  off : Nat
  word : W
  cmd : Sys2Proof.Instr

/-- The words that start the commands of DIR_CMD, STEP_JCMD, INTAKE_MCMD, TRAIN_ACMD and MEM_CMD (Tables 03-7, 06-11, 11-7,
10-8 and 12-6). -/
def goWords (id : BitVec 16) (job : BitVec 8) : List GoWord :=
  let go (fs : List (Nat × Nat)) : W := pack ((31, 1) :: fs)
  let dir (op : Nat) (c : Sys2Proof.Instr) : GoWord := ⟨pgDir, 0x040, go [(0, id.toNat), (16, op)], c⟩
  let step (op : Nat) (c : Sys2Proof.Instr) : GoWord := ⟨pgStep, 0x040, go [(0, job.toNat), (8, op)], c⟩
  let intake (op : Nat) (c : Sys2Proof.Instr) : GoWord := ⟨pgIntake, 0x040, go [(0, job.toNat), (8, op)], c⟩
  let train (op : Nat) (c : Sys2Proof.Instr) : GoWord := ⟨pgTrain, 0x040, go [(0, id.toNat), (16, job.toNat), (24, op)], c⟩
  let mem (op : Nat) (c : Sys2Proof.Instr) : GoWord := ⟨pgMem 3, 0x04C, go [(0, op), (2, 5)], c⟩
  [dir 0 (.dirRead id), dir 1 (.dirCreate id), dir 2 (.dirStage id), dir 3 (.dirPublish id), dir 4 (.dirDiscard id),
   dir 5 (.dirRetire id), dir 6 (.dirSetPolicy id), dir 7 (.dirFlushPrefix id),
   step 0 (.jobRead job), step 1 (.jobOpen job), step 2 (.jobUpdate job), step 3 (.jobClose job),
   intake 1 (.intakeLoad job false), intake 9 (.intakeLoad job true), intake 2 (.intakeReplace job), intake 3 .wfRetry,
   intake 4 .wfRollback, intake 5 (.intakeUnload job), train 1 (.trainTake job id), train 2 (.trainRelease job id),
   mem 1 (.memRetrain 3#4), mem 2 (.memRetire 3#4 5#6)]

/-! ## Beats -/

/-- Row i of the step in flight of a job has failed for a reason. -/
def State.rowFails (s : State) (jn i code : Nat) : Prop :=
  ∃ st, (s.job jn).cur = some st ∧ BitVec.ofNat 8 code ∈ (st.row i).fails

/-- An irregular arrival found the miss queue of a lane full: MISSQ_OVF and its event, the queue as it was, and a failure of
every row with a beat on the lane in every command that held reservations there (R112). -/
def State.missOverflow (s t : State) (l : Nat) : Prop :=
  (t.lane l).missq = (s.lane l).missq ∧ (t.lane l).ovf = true ∧ t.event (pgMerge l) (4 * (l % 4) + 1) = true ∧
  ∀ c ∈ s.cmds, (s.lane l).holders.contains c.key = true → ∀ st, s.cmdStep c = some st →
    ∀ i ∈ s.rowsOnLane c l, i < st.rows.length → t.rowFails c.arr.job.toNat i 0x14

/-! ## Forms -/

/-- A table lists its keys in rising order, each once. -/
def rising {α : Type} (t : Tab α) : Bool := decide ((t.map (·.1)).Pairwise (· < ·))

/-- A form has left its core: it is in the table no more, its engine time, doubled for a whole core, is charged to its
group (R199), and every other form that runs stays as it is. -/
def formEnded (s t : State) (fid : Nat) (f : Form) : Prop :=
  tget? t.forms fid = none ∧
  (∀ k g, k ≠ fid → tget? s.forms k = some g → g.waiting = false → tget? t.forms k = some g) ∧
  (∀ g, tget 0#64 t.used g = if g = s.formGroup f then
      BitVec.ofNat 64 (s.usedOf g + (if f.berth.isSome then 1 else 2) * f.acs) else tget 0#64 s.used g) ∧
  sameUnits s t

/-- A form is placed, runs on a clocked core under a raw descriptor of a code, has every acknowledgement it waits for, and belongs
to a step in flight. -/
def State.rawRuns (s : State) (fid code : Nat) (f : Form) (b : BitVec 512) (jn : Nat) (st : Step) : Prop :=
  s.formAt fid = some f ∧ f.desc = .raw b ∧ dForm b = code ∧ s.formStep (.raw b) = some (jn, st) ∧ f.idle = false ∧
    rising s.forms = true

/-- The same of a vector form of a kind. -/
def State.vecRuns (s : State) (fid : Nat) (k : Sys2Proof.VecKind) (f : Form) (v : Sys2Proof.VecDesc) (jn : Nat) (st : Step) :
    Prop :=
  s.formAt fid = some f ∧ f.desc = .vec v ∧ v.kind = k ∧ s.formStep (.vec v) = some (jn, st) ∧ f.idle = false ∧
    rising s.forms = true

/-- FP32 words as bytes. -/
def wordsLe (ws : List W) : List Byte := ws.flatMap fun w => leBytes 4 w.toNat

/-! ## Training -/

/-- A decision on the attempt st of a job has been applied: the step is closed, the decision stands in LAST, LSTEP and
LAST_ATTEMPT, the loss scale and the attempt have moved, the verdict has gone to the update unit, and a commit has flipped
every adapter of the update set that is READY, with its POSTMARK advanced and RANKORD cleared, an abort none (R236 to R240). -/
def State.decisionApplied (s t : State) (jn : Nat) (st : Step) (d : Decision) : Prop :=
  ∀ u v, u = (s.job jn).train → v = (t.job jn).train →
    (t.job jn).cur = none ∧ (t.job jn).img = (s.job jn).img ∧
    (t.job jn).next = (if d.commit then (s.job jn).next + 1#64 else (s.job jn).next) ∧
    v.last = (if d.commit then 1#2 else 2#2) ∧ v.lstep = st.num ∧ v.lastAttempt = st.attempt ∧ v.phase = 0#3 ∧
    v.attempt = (if d.commit then 0#4 else u.attempt + 1#4) ∧
    v.stuck = (u.stuck || (!d.commit && decide ((s.job jn).replayMax ≤ (u.attempt + 1#4).toNat))) ∧
    v.lsExp = (u.scale (s.job jn) d.commit).lsExp ∧ v.run = (u.scale (s.job jn) d.commit).run ∧
    (∃ m, t.updOut = s.updOut ++ [m] ∧ bitsOf m.hdr 2 0 = (if d.commit then 4 else 5) ∧ bitsOf m.hdr 82 19 = st.num.toNat) ∧
    (d.commit = true → u.updSet.Nodup → ∀ a ∈ u.updSet, (s.entry a.toNat).st = .ready →
      (t.entry a.toNat).live = !(s.entry a.toNat).live ∧
      (t.entry a.toNat).postmark = (s.entry a.toNat).postmark + 1#32 ∧ (t.entry a.toNat).rankord = false) ∧
    (d.commit = false → ∀ a, (s.entry a).st = .ready →
      (t.entry a).live = (s.entry a).live ∧ (t.entry a).postmark = (s.entry a).postmark)

/-- A stored byte of the block of columns c to c + n - 1 of a row of an adapter's idle slot, or of a cipher block it
shares (R64, R233, R275). -/
def State.inBlock (s : State) (a : Nat) (r : SlotRow) (c n x : Nat) : Prop :=
  let f := (s.entry a).fmt.toNat
  let base := (s.entry a).idleSlot + r.off
  let within (p len : Nat) : Prop := p / 16 ≤ x / 16 ∧ x / 16 ≤ (p + len - 1) / 16
  if f = 2 then within (base + 2 * c) (2 * n)
  else within (base + (if f = 5 then c / 2 else c)) (if f = 5 then ceilDiv n 2 else n) ∨
    within (base + (if f = 5 then ceilDiv r.w 2 else r.w) + c / 32) 1

/-! ## Memories -/

/-- Every memory has the canonical form: the stacks, the landing buffers, the staging caches and host memory. -/
def State.memsWf (s : State) : Bool :=
  Memory.wf s.mem && Memory.wf s.landing && Memory.wf s.staging && Memory.wf s.host

/-! ## Fuses -/

/-- Every fuse bit that is 1 stays 1 (R306: a burnt fuse is never cleared). -/
def fusesKept (a b : BitVec 512) : Bool := a &&& b == a

end Sys2Proof.Machine

namespace Sys2Proof

open Sys2Proof.Machine in
/-- The state t differs from s in nothing but what the command may write. The commands that can reset the part, and those
that write a register with a command of its own behind it, may write every field but the three that stand here. -/
def Instr.onlyWrites (i : Instr) (s t : State) : Prop :=
  match i with
  | .badacc _ _ _ _ =>
    t = { s with hdrs := t.hdrs, ctrs := t.ctrs, regs := t.regs, ret := t.ret, rdata := t.rdata }
  | .evtPendClear _ _ | .errCountClr _ =>
    t = { s with hdrs := t.hdrs }
  | .counterLoRead _ =>
    t = { s with
      ctrs := t.ctrs, latches := t.latches, rdata := t.rdata, hdrs := t.hdrs, regs := t.regs, ret := t.ret }
  | .counterSatClear _ =>
    t = { s with ctrs := t.ctrs }
  | .dirRead _ =>
    t = { s with regs := t.regs, hdrs := t.hdrs, ctrs := t.ctrs }
  | .dirCreate _ | .dirStage _ | .dirPublish _ | .dirSetPolicy _ =>
    t = { s with dir := t.dir, regs := t.regs, hdrs := t.hdrs, ctrs := t.ctrs }
  | .dirDiscard _ =>
    t = { s with dir := t.dir, intakes := t.intakes, regs := t.regs, hdrs := t.hdrs, ctrs := t.ctrs }
  | .dirRetire _ =>
    t = { s with
      dir := t.dir, intakes := t.intakes, prefixes := t.prefixes, mem := t.mem, uncorr := t.uncorr, regs :=
      t.regs, hdrs := t.hdrs, ctrs := t.ctrs }
  | .dirFlushPrefix _ =>
    t = { s with
      dir := t.dir, prefixes := t.prefixes, mem := t.mem, uncorr := t.uncorr, regs := t.regs, hdrs := t.hdrs,
      ctrs := t.ctrs }
  | .jobRead _ | .tideLoad _ =>
    t = { s with regs := t.regs }
  | .jobOpen _ | .jobUpdate _ | .jobClose _ =>
    t = { s with jobs := t.jobs, regs := t.regs }
  | .jobCloseEnds _ =>
    t = { s with
      jobs := t.jobs, slots := t.slots, dir := t.dir, mem := t.mem, uncorr := t.uncorr, tcache := t.tcache,
      granules := t.granules, orphans := t.orphans, ctrs := t.ctrs, hdrs := t.hdrs, regs := t.regs }
  | .post _ _ =>
    t = { s with slots := t.slots, hdrs := t.hdrs, ctrs := t.ctrs, regs := t.regs }
  | .postingCheck _ =>
    t = { s with slots := t.slots, jobs := t.jobs, hdrs := t.hdrs, ctrs := t.ctrs, regs := t.regs }
  | .outOfStepRecord _ =>
    t = { s with
      jobs := t.jobs, slots := t.slots, host := t.host, writeQ := t.writeQ, hostWrites := t.hostWrites, dir :=
      t.dir, hdrs := t.hdrs, ctrs := t.ctrs, regs := t.regs }
  | .cancel _ | .pause _ | .resume _ | .trim _ =>
    t = { s with slots := t.slots, hdrs := t.hdrs }
  | .cancelTaken _ | .deadlineEnd _ =>
    t = { s with
      jobs := t.jobs, slots := t.slots, mem := t.mem, uncorr := t.uncorr, tcache := t.tcache, granules :=
      t.granules, orphans := t.orphans, ctrs := t.ctrs, hdrs := t.hdrs, regs := t.regs }
  | .resumeTaken _ =>
    t = { s with
      slots := t.slots, mem := t.mem, uncorr := t.uncorr, hdrs := t.hdrs, ctrs := t.ctrs, regs := t.regs }
  | .expired _ =>
    t = { s with
      mem := t.mem, uncorr := t.uncorr, tcache := t.tcache, slots := t.slots, jobs := t.jobs, granules :=
      t.granules, orphans := t.orphans, ctrs := t.ctrs, hdrs := t.hdrs, regs := t.regs, dir := t.dir }
  | .jconsWrite _ _ | .trainRetry _ =>
    t = { s with jobs := t.jobs, hdrs := t.hdrs }
  | .batchGo _ =>
    t = { s with
      jobs := t.jobs, slots := t.slots, dir := t.dir, mem := t.mem, uncorr := t.uncorr, prefixes :=
      t.prefixes, stamps := t.stamps, evictPtr := t.evictPtr, tcache := t.tcache, granules := t.granules,
      orphans := t.orphans, grants := t.grants, served := t.served, modelRes := t.modelRes, colls := t.colls,
      ports := t.ports, host := t.host, readQ := t.readQ, hostReads := t.hostReads, writeQ := t.writeQ,
      hostWrites := t.hostWrites, stk := t.stk, log := t.log, logOvf := t.logOvf, regs := t.regs, ret :=
      t.ret, hdrs := t.hdrs, ctrs := t.ctrs }
  | .stepForm _ =>
    t = { s with
      jobs := t.jobs, slots := t.slots, dir := t.dir, mem := t.mem, uncorr := t.uncorr, prefixes :=
      t.prefixes, stamps := t.stamps, evictPtr := t.evictPtr, tcache := t.tcache, granules := t.granules,
      orphans := t.orphans, grants := t.grants, served := t.served, modelRes := t.modelRes, colls := t.colls,
      ports := t.ports, host := t.host, readQ := t.readQ, hostReads := t.hostReads, writeQ := t.writeQ,
      hostWrites := t.hostWrites, stk := t.stk, log := t.log, logOvf := t.logOvf, quarantine := t.quarantine,
      regs := t.regs, ret := t.ret, hdrs := t.hdrs, ctrs := t.ctrs }
  | .formPlacement _ =>
    t = { s with
      forms := t.forms, formCount := t.formCount, jobs := t.jobs, gated := t.gated, domIdle := t.domIdle,
      staging := t.staging, stagedKeys := t.stagedKeys, stk := t.stk, log := t.log, logOvf := t.logOvf, fresh
      := t.fresh, ctrs := t.ctrs, hdrs := t.hdrs, regs := t.regs, ret := t.ret }
  | .down _ | .smerge _ | .norm _ | .act _ =>
    t = { s with
      mem := t.mem, uncorr := t.uncorr, landing := t.landing, forms := t.forms, jobs := t.jobs, used :=
      t.used, overruns := t.overruns, debt := t.debt, gated := t.gated, domIdle := t.domIdle, staging :=
      t.staging, stagedKeys := t.stagedKeys, stk := t.stk, log := t.log, logOvf := t.logOvf, ret := t.ret,
      ctrs := t.ctrs, hdrs := t.hdrs, regs := t.regs }
  | .up _ | .pigeonholeWrite _ | .dxa _ =>
    t = { s with
      lanes := t.lanes, forms := t.forms, jobs := t.jobs, used := t.used, overruns := t.overruns, debt :=
      t.debt, gated := t.gated, domIdle := t.domIdle, staging := t.staging, stagedKeys := t.stagedKeys, stk :=
      t.stk, log := t.log, logOvf := t.logOvf, ret := t.ret, ctrs := t.ctrs, hdrs := t.hdrs, regs := t.regs }
  | .score _ | .value _ | .battn _ =>
    t = { s with
      landing := t.landing, tcache := t.tcache, prefixes := t.prefixes, mem := t.mem, uncorr := t.uncorr,
      forms := t.forms, jobs := t.jobs, used := t.used, overruns := t.overruns, debt := t.debt, gated :=
      t.gated, domIdle := t.domIdle, staging := t.staging, stagedKeys := t.stagedKeys, stk := t.stk, log :=
      t.log, logOvf := t.logOvf, ret := t.ret, ctrs := t.ctrs, hdrs := t.hdrs, regs := t.regs }
  | .rotary _ =>
    t = { s with
      landing := t.landing, mem := t.mem, uncorr := t.uncorr, tcache := t.tcache, slots := t.slots, forms :=
      t.forms, jobs := t.jobs, used := t.used, overruns := t.overruns, debt := t.debt, gated := t.gated,
      domIdle := t.domIdle, staging := t.staging, stagedKeys := t.stagedKeys, stk := t.stk, log := t.log,
      logOvf := t.logOvf, ret := t.ret, ctrs := t.ctrs, hdrs := t.hdrs, regs := t.regs }
  | .resid _ | .loss _ | .du _ | .bvec _ =>
    t = { s with
      landing := t.landing, forms := t.forms, jobs := t.jobs, used := t.used, overruns := t.overruns, debt :=
      t.debt, gated := t.gated, domIdle := t.domIdle, staging := t.staging, stagedKeys := t.stagedKeys, stk :=
      t.stk, log := t.log, logOvf := t.logOvf, ret := t.ret, ctrs := t.ctrs, hdrs := t.hdrs, regs := t.regs }
  | .route _ | .gout _ | .mpool _ =>
    t = { s with
      mem := t.mem, uncorr := t.uncorr, forms := t.forms, jobs := t.jobs, used := t.used, overruns :=
      t.overruns, debt := t.debt, gated := t.gated, domIdle := t.domIdle, staging := t.staging, stagedKeys :=
      t.stagedKeys, stk := t.stk, log := t.log, logOvf := t.logOvf, ret := t.ret, ctrs := t.ctrs, hdrs :=
      t.hdrs, regs := t.regs }
  | .sample _ =>
    t = { s with
      forms := t.forms, jobs := t.jobs, used := t.used, overruns := t.overruns, debt := t.debt, gated :=
      t.gated, domIdle := t.domIdle, staging := t.staging, stagedKeys := t.stagedKeys, stk := t.stk, log :=
      t.log, logOvf := t.logOvf, ret := t.ret, ctrs := t.ctrs, hdrs := t.hdrs, regs := t.regs }
  | .intakeForm _ =>
    t = { s with
      mem := t.mem, uncorr := t.uncorr, wf := t.wf, intakes := t.intakes, forms := t.forms, jobs := t.jobs,
      used := t.used, overruns := t.overruns, debt := t.debt, gated := t.gated, domIdle := t.domIdle, staging
      := t.staging, stagedKeys := t.stagedKeys, stk := t.stk, log := t.log, logOvf := t.logOvf, ret := t.ret,
      ctrs := t.ctrs, hdrs := t.hdrs, regs := t.regs }
  | .formFault _ _ | .wdog _ | .fence _ =>
    t = { s with
      forms := t.forms, jobs := t.jobs, used := t.used, cores := t.cores, unbound := t.unbound, overruns :=
      t.overruns, debt := t.debt, gated := t.gated, domIdle := t.domIdle, staging := t.staging, stagedKeys :=
      t.stagedKeys, stk := t.stk, log := t.log, logOvf := t.logOvf, ret := t.ret, ctrs := t.ctrs, hdrs :=
      t.hdrs, regs := t.regs }
  | .commandGrant _ =>
    t = { s with
      cmds := t.cmds, cmdCount := t.cmdCount, jobs := t.jobs, lanes := t.lanes, landUse := t.landUse, landing
      := t.landing, ctrs := t.ctrs, hdrs := t.hdrs, regs := t.regs }
  | .commandIssue =>
    t = { s with cmds := t.cmds, ctrs := t.ctrs, hdrs := t.hdrs, regs := t.regs }
  | .commandDrop =>
    t = { s with cmds := t.cmds, jobs := t.jobs }
  | .acmdDone _ =>
    t = { s with cmds := t.cmds, late := t.late, hdrs := t.hdrs }
  | .beat _ _ _ _ =>
    t = { s with
      lanes := t.lanes, cmds := t.cmds, landing := t.landing, fresh := t.fresh, jobs := t.jobs, ctrs :=
      t.ctrs, hdrs := t.hdrs, regs := t.regs }
  | .beatAbsent _ _ =>
    t = { s with lanes := t.lanes, jobs := t.jobs, ctrs := t.ctrs, hdrs := t.hdrs, regs := t.regs }
  | .pigeonholeCredit _ =>
    t = { s with lanes := t.lanes }
  | .landingFree _ =>
    t = { s with landUse := t.landUse }
  | .missDrain _ =>
    t = { s with lanes := t.lanes, jobs := t.jobs, hdrs := t.hdrs }
  | .missqLoRead _ | .missqHiRead _ =>
    t = { s with lanes := t.lanes, rdata := t.rdata }
  | .laneDisable _ | .laneEnable _ =>
    t = { s with lanes := t.lanes, regs := t.regs, ret := t.ret }
  | .laneDrained _ =>
    t = { s with lanes := t.lanes, hdrs := t.hdrs }
  | .laneFault _ =>
    t = { s with
      lanes := t.lanes, hdrs := t.hdrs, log := t.log, logOvf := t.logOvf, fresh := t.fresh, ctrs := t.ctrs,
      regs := t.regs }
  | .stepBoundary _ =>
    t = { s with
      jobs := t.jobs, slots := t.slots, dir := t.dir, mem := t.mem, uncorr := t.uncorr, prefixes :=
      t.prefixes, stamps := t.stamps, tcache := t.tcache, granules := t.granules, orphans := t.orphans, colls
      := t.colls, host := t.host, readQ := t.readQ, hostReads := t.hostReads, writeQ := t.writeQ, hostWrites
      := t.hostWrites, forms := t.forms, cmds := t.cmds, landUse := t.landUse, used := t.used, overruns :=
      t.overruns, debt := t.debt, gated := t.gated, domIdle := t.domIdle, staging := t.staging, stagedKeys :=
      t.stagedKeys, stk := t.stk, log := t.log, logOvf := t.logOvf, ret := t.ret, ctrs := t.ctrs, late :=
      t.late, hdrs := t.hdrs, regs := t.regs }
  | .schedTidelineWrite _ | .schedGrpWrite _ _ =>
    t = { s with regs := t.regs, hdrs := t.hdrs, ret := t.ret }
  | .periodEnd =>
    t = { s with cap := t.cap, used := t.used, periodAt := t.periodAt }
  | .modelSwitch _ =>
    t = { s with modelRes := t.modelRes, ctrs := t.ctrs, hdrs := t.hdrs, regs := t.regs }
  | .tideCommit _ =>
    t = { s with tide := t.tide, regs := t.regs, hdrs := t.hdrs, ret := t.ret }
  | .slotBegin =>
    t = { s with
      tideCur := t.tideCur, debt := t.debt, overruns := t.overruns, ctrs := t.ctrs, hdrs := t.hdrs, regs :=
      t.regs }
  | .windowEnd =>
    t = { s with tideCur := t.tideCur, overruns := t.overruns }
  | .trainTake _ _ | .trainRelease _ _ =>
    t = { s with dir := t.dir, regs := t.regs, ret := t.ret }
  | .collectiveDone _ _ =>
    t = { s with
      colls := t.colls, jobs := t.jobs, ports := t.ports, landing := t.landing, stk := t.stk, log := t.log,
      logOvf := t.logOvf, ctrs := t.ctrs, hdrs := t.hdrs, regs := t.regs }
  | .linkCollTimeout _ _ =>
    t = { s with colls := t.colls, jobs := t.jobs, ctrs := t.ctrs, hdrs := t.hdrs, regs := t.regs }
  | .updGrad _ _ =>
    t = { s with
      updOut := t.updOut, jobs := t.jobs, stk := t.stk, log := t.log, logOvf := t.logOvf, ret := t.ret, ctrs
      := t.ctrs, hdrs := t.hdrs, regs := t.regs }
  | .updWrite _ _ =>
    t = { s with
      mem := t.mem, uncorr := t.uncorr, jobs := t.jobs, ctrs := t.ctrs, hdrs := t.hdrs, regs := t.regs }
  | .updAck _ =>
    t = { s with jobs := t.jobs, ctrs := t.ctrs, hdrs := t.hdrs, regs := t.regs }
  | .trainUpdTimeout _ _ =>
    t = { s with jobs := t.jobs }
  | .trainDecideTimeout _ =>
    t = { s with jobs := t.jobs, ports := t.ports, ctrs := t.ctrs, hdrs := t.hdrs, regs := t.regs }
  | .ask _ =>
    t = { s with ctrlIn := t.ctrlIn, ports := t.ports, ctrs := t.ctrs, hdrs := t.hdrs, regs := t.regs }
  | .adapterIntake _ =>
    t = { s with intakes := t.intakes, regs := t.regs, ret := t.ret }
  | .intakeStart =>
    t = { s with intakes := t.intakes, readQ := t.readQ, hostReads := t.hostReads }
  | .intakeComplete _ _ =>
    t = { s with
      intakes := t.intakes, afaultq := t.afaultq, dir := t.dir, mem := t.mem, uncorr := t.uncorr, fresh :=
      t.fresh, hdrs := t.hdrs, ctrs := t.ctrs, regs := t.regs }
  | .afaultqLoRead =>
    t = { s with afaultLatch := t.afaultLatch, afaultRead := t.afaultRead, rdata := t.rdata }
  | .afaultqHiRead =>
    t = { s with rdata := t.rdata, afaultq := t.afaultq, afaultRead := t.afaultRead }
  | .intakeLoad _ _ | .intakeReplace _ | .wfRetry | .wfRollback =>
    t = { s with wf := t.wf, readQ := t.readQ, hostReads := t.hostReads, regs := t.regs, ret := t.ret }
  | .intakeUnload _ =>
    t = { s with models := t.models, wf := t.wf, modelRes := t.modelRes, regs := t.regs, ret := t.ret }
  | .part0Checked =>
    t = { s with
      wf := t.wf, models := t.models, jobs := t.jobs, readQ := t.readQ, hostReads := t.hostReads, hdrs :=
      t.hdrs, ctrs := t.ctrs, regs := t.regs }
  | .stationPrepared _ =>
    t = { s with
      wf := t.wf, models := t.models, mem := t.mem, uncorr := t.uncorr, readQ := t.readQ, hostReads :=
      t.hostReads, fresh := t.fresh, hdrs := t.hdrs, ctrs := t.ctrs, regs := t.regs }
  | .stationCopy =>
    t = { s with
      wf := t.wf, models := t.models, mem := t.mem, uncorr := t.uncorr, readQ := t.readQ, hostReads :=
      t.hostReads, stk := t.stk, log := t.log, logOvf := t.logOvf, ret := t.ret, hdrs := t.hdrs, ctrs :=
      t.ctrs, regs := t.regs }
  | .wfFinished =>
    t = { s with
      wf := t.wf, models := t.models, prefixes := t.prefixes, dir := t.dir, mem := t.mem, uncorr := t.uncorr,
      hdrs := t.hdrs, ctrs := t.ctrs, regs := t.regs }
  | .hostWriteAck _ _ =>
    t = { s with
      host := t.host, readQ := t.readQ, hostReads := t.hostReads, writeQ := t.writeQ, hostWrites :=
      t.hostWrites, slots := t.slots, mem := t.mem, uncorr := t.uncorr, tcache := t.tcache, granules :=
      t.granules, orphans := t.orphans, jobs := t.jobs, prefixes := t.prefixes, stk := t.stk, log := t.log,
      logOvf := t.logOvf, hdrs := t.hdrs, ctrs := t.ctrs, regs := t.regs }
  | .directWindowRequest _ _ _ _ _ =>
    t = { s with
      mem := t.mem, uncorr := t.uncorr, prefixes := t.prefixes, regs := t.regs, hdrs := t.hdrs, ctrs :=
      t.ctrs, ret := t.ret, log := t.log, logOvf := t.logOvf, stk := t.stk, hwData := t.hwData, hwStat :=
      t.hwStat, hwQ := t.hwQ }
  | .daccRead =>
    t = { s with
      mem := t.mem, uncorr := t.uncorr, prefixes := t.prefixes, regs := t.regs, hdrs := t.hdrs, ctrs :=
      t.ctrs, ret := t.ret, log := t.log, logOvf := t.logOvf, stk := t.stk, rdata := t.rdata }
  | .daccWrite _ =>
    t = { s with
      mem := t.mem, uncorr := t.uncorr, regs := t.regs, hdrs := t.hdrs, ctrs := t.ctrs, ret := t.ret }
  | .memRegWrite _ _ _ =>
    t = { s with regs := t.regs, ret := t.ret, hdrs := t.hdrs }
  | .stackReadDone _ _ _ _ =>
    t = { s with
      mem := t.mem, uncorr := t.uncorr, stk := t.stk, quarantine := t.quarantine, lostGranules :=
      t.lostGranules, jobs := t.jobs, slots := t.slots, granules := t.granules, orphans := t.orphans, tcache
      := t.tcache, prefixes := t.prefixes, wf := t.wf, intakes := t.intakes, fresh := t.fresh, log := t.log,
      logOvf := t.logOvf, ret := t.ret, hdrs := t.hdrs, ctrs := t.ctrs, regs := t.regs }
  | .patrol _ _ _ =>
    t = { s with
      mem := t.mem, uncorr := t.uncorr, stk := t.stk, quarantine := t.quarantine, lostGranules :=
      t.lostGranules, jobs := t.jobs, slots := t.slots, granules := t.granules, orphans := t.orphans, tcache
      := t.tcache, prefixes := t.prefixes, fresh := t.fresh, log := t.log, logOvf := t.logOvf, ret := t.ret,
      hdrs := t.hdrs, ctrs := t.ctrs, regs := t.regs }
  | .corrHalving =>
    t = { s with halvedAt := t.halvedAt, regs := t.regs, ret := t.ret }
  | .memRetrain _ =>
    t = { s with stk := t.stk, ret := t.ret, hdrs := t.hdrs, ctrs := t.ctrs, regs := t.regs }
  | .stackTempRetrain _ _ =>
    t = { s with stk := t.stk, hdrs := t.hdrs, ctrs := t.ctrs, regs := t.regs }
  | .retrainDone _ _ | .phyTrainingTimeout _ =>
    t = { s with
      stk := t.stk, log := t.log, logOvf := t.logOvf, fresh := t.fresh, hdrs := t.hdrs, ctrs := t.ctrs, regs
      := t.regs }
  | .memRetire _ _ =>
    t = { s with stk := t.stk, regs := t.regs, ret := t.ret }
  | .pcRetired _ =>
    t = { s with
      mem := t.mem, uncorr := t.uncorr, prefixes := t.prefixes, stk := t.stk, log := t.log, logOvf :=
      t.logOvf, fresh := t.fresh, ret := t.ret, hdrs := t.hdrs, ctrs := t.ctrs, regs := t.regs }
  | .ucqLoRead _ | .ucqHiRead _ =>
    t = { s with stk := t.stk, rdata := t.rdata }
  | .frameRx _ _ =>
    t = { s with
      ports := t.ports, colls := t.colls, ctrlIn := t.ctrlIn, ctrs := t.ctrs, hdrs := t.hdrs, regs := t.regs }
  | .linkAckTimeout _ | .laneFail _ _ =>
    t = { s with ports := t.ports, ctrs := t.ctrs, hdrs := t.hdrs, regs := t.regs }
  | .linkTrained _ _ =>
    t = { s with
      ports := t.ports, colls := t.colls, jobs := t.jobs, log := t.log, logOvf := t.logOvf, fresh := t.fresh,
      ctrs := t.ctrs, hdrs := t.hdrs, regs := t.regs }
  | .linkRcmd _ =>
    t = { s with ranks := t.ranks, regs := t.regs }
  | .unitDisable _ =>
    t = { s with lanes := t.lanes, hdrs := t.hdrs, regs := t.regs, ret := t.ret }
  | .unitEnable _ =>
    t = { s with
      lanes := t.lanes, debt := t.debt, tideCur := t.tideCur, jobs := t.jobs, slots := t.slots, ports :=
      t.ports, mem := t.mem, uncorr := t.uncorr, host := t.host, readQ := t.readQ, hostReads := t.hostReads,
      writeQ := t.writeQ, hostWrites := t.hostWrites, granules := t.granules, tcache := t.tcache, stk :=
      t.stk, log := t.log, logOvf := t.logOvf, ret := t.ret, ctrs := t.ctrs, hdrs := t.hdrs, regs := t.regs,
      orphans := t.orphans, prefixes := t.prefixes }
  | .unitDrained _ =>
    t = { s with
      debt := t.debt, tideCur := t.tideCur, jobs := t.jobs, slots := t.slots, ports := t.ports, mem := t.mem,
      uncorr := t.uncorr, host := t.host, readQ := t.readQ, hostReads := t.hostReads, writeQ := t.writeQ,
      hostWrites := t.hostWrites, granules := t.granules, tcache := t.tcache, stk := t.stk, log := t.log,
      logOvf := t.logOvf, ret := t.ret, ctrs := t.ctrs, hdrs := t.hdrs, regs := t.regs, orphans := t.orphans,
      prefixes := t.prefixes }
  | .cacheFlush _ =>
    t = { s with
      mem := t.mem, uncorr := t.uncorr, prefixes := t.prefixes, ctrs := t.ctrs, hdrs := t.hdrs, regs := t.regs }
  | .cachePoolWrite _ _ =>
    t = { s with
      regs := t.regs, hdrs := t.hdrs, ret := t.ret, tablesMin := t.tablesMin, tablesBad := t.tablesBad }
  | .lcUnseal _ =>
    t = { s with fuseTask := t.fuseTask, hdrs := t.hdrs, regs := t.regs, ret := t.ret }
  | .lcSeal =>
    t = { s with fuseTask := t.fuseTask, fresh := t.fresh, hdrs := t.hdrs, regs := t.regs, ret := t.ret }
  | .lcReturn | .lcVoid | .raiseFwMin =>
    t = { s with
      fuseTask := t.fuseTask, secTasks := t.secTasks, readQ := t.readQ, hostReads := t.hostReads, ctrs :=
      t.ctrs, hdrs := t.hdrs, regs := t.regs, ret := t.ret }
  | .keyImport =>
    t = { s with
      secTasks := t.secTasks, nonce := t.nonce, fresh := t.fresh, readQ := t.readQ, hostReads := t.hostReads,
      ctrs := t.ctrs, hdrs := t.hdrs, regs := t.regs, ret := t.ret }
  | .keyClear =>
    t = { s with keys := t.keys, hdrs := t.hdrs, regs := t.regs, ret := t.ret }
  | .attest =>
    t = { s with
      secTasks := t.secTasks, readQ := t.readQ, hostReads := t.hostReads, ctrs := t.ctrs, hdrs := t.hdrs, regs
      := t.regs, ret := t.ret }
  | .spareBind _ | .reinstate _ _ =>
    t = { s with
      cores := t.cores, remap := t.remap, unbound := t.unbound, forms := t.forms, jobs := t.jobs, gated :=
      t.gated, domIdle := t.domIdle, staging := t.staging, stagedKeys := t.stagedKeys, stk := t.stk, log :=
      t.log, logOvf := t.logOvf, ret := t.ret, ctrs := t.ctrs, hdrs := t.hdrs, regs := t.regs }
  | .nocMessage _ _ _ _ =>
    t = { s with
      forms := t.forms, jobs := t.jobs, used := t.used, cores := t.cores, unbound := t.unbound, overruns :=
      t.overruns, debt := t.debt, gated := t.gated, domIdle := t.domIdle, staging := t.staging, stagedKeys :=
      t.stagedKeys, stk := t.stk, fresh := t.fresh, log := t.log, logOvf := t.logOvf, ret := t.ret, ctrs :=
      t.ctrs, hdrs := t.hdrs, regs := t.regs }
  | .relLog0Read =>
    t = { s with logLatch := t.logLatch, logRead := t.logRead, rdata := t.rdata }
  | .relLog3Read =>
    t = { s with log := t.log, logRead := t.logRead, rdata := t.rdata }
  | .handover _ =>
    t = { s with duty := t.duty, ctrs := t.ctrs, hdrs := t.hdrs, regs := t.regs, ret := t.ret }
  | .fwLoad _ =>
    t = { s with
      fwTask := t.fwTask, readQ := t.readQ, hostReads := t.hostReads, ctrs := t.ctrs, hdrs := t.hdrs, regs :=
      t.regs, ret := t.ret }
  | .split =>
    t = { s with duty := t.duty, hdrs := t.hdrs, regs := t.regs, ret := t.ret }
  | .clkfail _ =>
    t = { s with clkmon := t.clkmon, mclkFail := t.mclkFail, lclkFail := t.lclkFail, hdrs := t.hdrs }
  | .powerEstimate _ _ | .vack _ _ | .oppSlewDone _ | .droopAssert _ | .thermSample _ _ =>
    t = { s with pwr := t.pwr, ctrs := t.ctrs, hdrs := t.hdrs, regs := t.regs }
  | .droopDeassert _ =>
    t = { s with pwr := t.pwr }
  | .gateIdle _ =>
    t = { s with gated := t.gated }
  | .sliceReset _ =>
    t = { s with
      baseEpoch := t.baseEpoch, cores := t.cores, fresh := t.fresh, log := t.log, logOvf := t.logOvf, ret :=
      t.ret, ctrs := t.ctrs, hdrs := t.hdrs, regs := t.regs }
  | .unitReset _ _ =>
    t = { s with
      lanes := t.lanes, tide := t.tide, circ := t.circ, wf := t.wf, afaultq := t.afaultq, afaultLatch :=
      t.afaultLatch, afaultRead := t.afaultRead, evictPtr := t.evictPtr, overruns := t.overruns, debt :=
      t.debt, tideCur := t.tideCur, jobs := t.jobs, slots := t.slots, ports := t.ports, mem := t.mem, uncorr
      := t.uncorr, host := t.host, readQ := t.readQ, hostReads := t.hostReads, writeQ := t.writeQ, hostWrites
      := t.hostWrites, granules := t.granules, tcache := t.tcache, stk := t.stk, log := t.log, logOvf :=
      t.logOvf, ret := t.ret, ctrs := t.ctrs, hdrs := t.hdrs, regs := t.regs, orphans := t.orphans, prefixes
      := t.prefixes }
  | .rstExport =>
    t = { s with ret := t.ret, regs := t.regs }
  | .autoExport =>
    t = { s with ret := t.ret }
  | .imageUpdate | .exportFail =>
    t = { s with ret := t.ret, hdrs := t.hdrs }
  | .exportDone =>
    t = { s with store := t.store, ret := t.ret, hdrs := t.hdrs }
  | .beaconArm _ _ | .beaconArrive _ _ =>
    t = { s with beacons := t.beacons, ctrs := t.ctrs, hdrs := t.hdrs, regs := t.regs }
  | .beaconClear _ =>
    t = { s with beacons := t.beacons }
  | .intakeReadTimeout =>
    t = { s with
      wf := t.wf, intakes := t.intakes, afaultq := t.afaultq, readQ := t.readQ, hostReads := t.hostReads,
      writeQ := t.writeQ, hostWrites := t.hostWrites, host := t.host, hdrs := t.hdrs, ctrs := t.ctrs, regs :=
      t.regs }
  | .commandAddressParityError _ _ =>
    t = { s with hdrs := t.hdrs, ctrs := t.ctrs, regs := t.regs }
  | .writeDataParityError _ _ _ =>
    t = { s with
      mem := t.mem, uncorr := t.uncorr, fresh := t.fresh, hdrs := t.hdrs, ctrs := t.ctrs, regs := t.regs }
  | .vote _ | .voteFrame _ | .trainVoteTimeout _ | .decision _ | .resolveCommit _ | .resolveAbort _ =>
    t = Sys2Proof.Machine.decisionFrame s t
  | .registerWrite _ _ _ _ | .hostReadResponse _ _ _ _ | .hostReadTimeout _ | .ctrlUncorr _ _ | .clusterFault _
    | .powerOnReset | .coldResetInput | .warmResetInput | .bringUp _ | .rstCold | .rstWarm =>
    t.pending = s.pending ∧ t.part = s.part ∧ t.fuses = s.fuses
  | .fuseBurnAck _ => t.pending = s.pending ∧ t.part = s.part

/-- The command completes: where the clocks of the command's domains run and its page is there (R346, R308), exec answers a
next state in which nothing has changed but what the command may write, and of which P holds. -/
def completes (c : Instr) (s : Sys2Proof.Machine.State) (P : Sys2Proof.Machine.State → Prop) : Prop :=
  s.serves c = true → ∃ t, Sys2Proof.Machine.exec c s = .next t ∧ c.onlyWrites s t ∧ P t

end Sys2Proof
end

