-- ==== Sys2Proof/Certificates/Slice0/Obligations.lean ====
section
/-! DEFINITION. The statements about the block, one for each entry of OBLIGATIONS.json. -/
open Sys2Proof Sys2Proof.Machine

/-- A step runs the command at the front of the queue. When a command c stands at the front of the queue, step is
exec of c on the state whose queue is the rest of the queue. (INDEX.md, 18_ports.md) -/
def Obligations.StepRunsTheFrontCommand : Prop :=
  ∀ (s : State) (c : Instr) (rest : List Instr), s.pending = c :: rest →
    step s = exec c { s with pending := rest }

/-- With no command waiting a step is one local count, and nothing before phase 4 of bring-up (the model's choice,
log 10). On an empty queue step answers a next state. Out of bring-up phases 1 to 3 and with CCLK running the local
count advances by 1, SCHED_CAP by the berth-cycles of the local count, and the fuses, the directory, the keys, the
queue stay; in phases 1 to 3, or with CCLK failed, nothing changes. That a step on an empty queue is one local count
is the model's choice (log 10). (R199, R347, R354) -/
def Obligations.IdleStepIsOneLocalCount : Prop :=
  ∀ s : State, s.pending = [] →
    ((s.phase = 0#4 ∨ 4 ≤ s.phase.toNat) → s.clkUp 0 = true →
      ∃ t, step s = .next t ∧ t.lcount = s.lcount + 1#64 ∧ t.cap = s.cap + BitVec.ofNat 64 s.capStep ∧
        t.fuses = s.fuses ∧ t.dir = s.dir ∧ t.keys = s.keys ∧ t.pending = []) ∧
    ((s.phase ≠ 0#4 ∧ s.phase.toNat < 4 ∨ s.clkUp 0 = false) → step s = .next s)

/-- No command writes a field of the state that is none of its own. Whenever exec of a command answers a next state,
that state differs from the one before only in the fields Instr.onlyWrites lists for the command; no command touches
the queue or the configuration, and none but FUSE_BURN_ACK touches a fuse. (95_what_each_step_holds.md, R363, R15)
-/
def Obligations.EveryCommandWritesOnlyItsFields : Prop :=
  ∀ (c : Instr) (s t : State), exec c s = .next t →
    c.onlyWrites s t ∧ t.pending = s.pending ∧ t.part = s.part ∧ ((∀ ok, c ≠ .fuseBurnAck ok) → t.fuses = s.fuses)

/-- A permitted write of a register takes effect by its access type, runs its command, or is ignored and counted. On
a page the life-cycle state opens. (1) For every register that Safety's rangedRegs lists with the legal values its
chapter states: a privileged write of a legal value completes, a read of the register then returns the value in its
writable bits and the old ones elsewhere (reserved bits), ERR_COUNT and every event as before; a write of a value
the field refuses leaves the register as it was and adds one to the page's ERR_COUNT, which sticks at 0xFFFF. Every
other stored register is unchanged. (2) W1C: a write of EVT_PEND clears in EVT_RAW exactly the bits written 1 and
changes nothing else. (3) RO: a write of a header register of no writable field (ID, VERSION, COUNT, STATUS, EVT_RAW
and the reserved words), and of an offset of TOP, PWR, SAMP or a SLICE page that holds no writable field, changes
nothing. (4) GO: a write of a command register with GO does what the row of the command does (Safety's goWords: the
commands of DIR, STEP, INTAKE, TRAIN and MEM), and the register's fields read as written; a GO of DIR_CMD while
DIR_RESULT.BUSY is 1 runs nothing, sets OVERRUN and is counted. The access returns zero data. (R364, R365, R366,
R370, 17_registers.md) -/
def Obligations.RegisterWriteObeysTheFieldsRange : Prop :=
  (∀ (s : State) (r : RangedReg) (job : BitVec 8) (v : W), r ∈ rangedRegs s.part → s.pageLive r.page = true →
    completes (.registerWrite true job (BitVec.ofNat 22 (regAt r.page r.off)) v) s fun t =>
      t.rdata = 0#32 ∧ sameRegsBut [regAt r.page r.off] s t ∧ sameUnits s t ∧
      (r.legal v = true → t.readReg (regAt r.page r.off) = mergeBits r.rw (s.rd r.page r.off) v ∧ ∀ p, t.hdr p = s.hdr p) ∧
      (r.legal v = false → t.rd r.page r.off = s.rd r.page r.off ∧ sameHdrsBut [r.page] s t ∧
        (t.hdr r.page).raw = (s.hdr r.page).raw ∧
        (t.hdr r.page).err = if (s.hdr r.page).err = 0xFFFF#16 then 0xFFFF#16 else (s.hdr r.page).err + 1#16)) ∧
  (∀ (s : State) (p : Nat) (job : BitVec 8) (v : W), pageHeader p = true → p < 0x100 → s.pageLive p = true →
    completes (.registerWrite true job (BitVec.ofNat 22 (regAt p 0x01C)) v) s fun t =>
      t = { s.setHdr p { s.hdr p with raw := (s.hdr p).raw &&& ~~~v } with rdata := 0#32 }) ∧
  (∀ (s : State) (p off : Nat) (job : BitVec 8) (v : W), p < 0x100 → off < 0x1000 → s.pageLive p = true →
    (pageHeader p = true ∧ off ∈ [0x000, 0x004, 0x008, 0x010, 0x014, 0x028, 0x02C, 0x030, 0x034, 0x038, 0x03C] ∨
      p ∈ [pgTop, pgPwr, pgSamp, pgSlice 0, pgSlice 1, pgSlice 2, pgSlice 3] ∧ 0x040 ≤ off ∧ off % 4 = 0 ∧ regInfo p off = none ∧
        isCounterLo (regAt p off - 4) = false) →
    completes (.registerWrite true job (BitVec.ofNat 22 (regAt p off)) v) s fun t => t = { s with rdata := 0#32 }) ∧
  (∀ (s : State) (id : BitVec 16) (job : BitVec 8) (x : GoWord), x ∈ goWords id job →
    s.serves x.cmd = true → (s.rd pgDir 0x044).getLsbD 4 = false →
    completes (.registerWrite true 0#8 (BitVec.ofNat 22 (regAt x.page x.off)) x.word) s fun t =>
      ∃ u, exec x.cmd s = .next u ∧ t.rdata = 0#32 ∧ sameRegsBut [regAt x.page x.off] u t ∧
        (∀ i, regInfo x.page x.off = some i → t.rd x.page x.off = mergeBits i.rw (u.rd x.page x.off) x.word) ∧
        t.dir = u.dir ∧ t.jobs = u.jobs ∧ t.slots = u.slots ∧ t.mem = u.mem ∧ t.wf = u.wf ∧ t.models = u.models ∧
        t.stk = u.stk ∧ t.hdrs = u.hdrs ∧ t.ctrs = u.ctrs) ∧
  (∀ (s : State) (v : W), s.pageLive pgDir = true → (s.rd pgDir 0x044).getLsbD 4 = true → v.getLsbD 31 = true →
    completes (.registerWrite true 0#8 (BitVec.ofNat 22 (regAt pgDir 0x040)) v) s fun t =>
      (t.rd pgDir 0x044).getLsbD 5 = true ∧ t.dir = s.dir ∧ t.ctrs = s.ctrs ∧
        (t.hdr pgDir).err = if (s.hdr pgDir).err = 0xFFFF#16 then 0xFFFF#16 else (s.hdr pgDir).err + 1#16)

/-- A misaligned, unassigned or view-refused access returns zero, is counted, and writes nothing. A misaligned
address, or a privileged address of an unassigned page, completes as BADACC, read or write, with read data zero:
TOP_BADACC counts it, TOP_BADACC_ADDR holds the address with bit 31 set, and TOP_EVT_RAW.BADACC is raised; the same
access made as a register write, or as a read of a counter's LO half, does the same. An unprivileged access of the
privileged window, or one, read or write, that the view does not permit, counts in SEC_VIEWDENY, raises SEC's event
0, and returns zero. No other register, no unit and no memory changes. (R319, R363, R376) -/
def Obligations.RefusedAccessIsCountedAndChangesNoRegister : Prop :=
  ∀ (s : State) (priv : Bool) (job : BitVec 8) (addr : BitVec 22) (we : Bool) (v : W),
    (addr.toNat % 4 ≠ 0 ∨ (addr.toNat < 0x200000 ∧ priv = true ∧ (pageKind (addr.toNat / 0x1000)).isNone = true) →
      ∀ c, c = Instr.badacc priv job addr we ∨ c = Instr.registerWrite priv job addr v ∨ c = Instr.counterLoRead ⟨priv, job, addr⟩ →
        completes c s fun t => t.rdata = 0#32 ∧ s.countedBy t pgTop 0x200 1 ∧ t.event pgTop 1 = true ∧
          t.rd pgTop 0x054 = (addr.setWidth 32 ||| 0x80000000#32) ∧ sameUnits s t ∧ t.mem = s.mem ∧
          sameRegsBut [regAt pgTop 0x050, regAt pgTop 0x054] s t ∧ sameCtrsBut [regAt pgTop 0x200] s t) ∧
    (addr.toNat % 4 = 0 →
      (addr.toNat < 0x200000 ∧ priv = false ∨
        0x200000 ≤ addr.toNat ∧ s.viewOk job.toNat (addr.toNat - 0x200000) we = false) →
      ∀ c, c = Instr.badacc priv job addr we ∨ we = true ∧ c = Instr.registerWrite priv job addr v ∨
          we = false ∧ c = Instr.counterLoRead ⟨priv, job, addr⟩ →
        completes c s fun t => t.rdata = 0#32 ∧ s.countedBy t pgSec 0x200 1 ∧ t.event pgSec 0 = true ∧
          sameUnits s t ∧ t.mem = s.mem ∧
          sameRegsBut [regAt pgTop 0x050] s t ∧ sameCtrsBut [regAt pgSec 0x200] s t)

/-- Header, counter and beacon commands change what they name and nothing else. On a page with the common header
that is open, EVT_PEND_CLEAR clears in EVT_RAW exactly the bits written 1, and ERR_COUNT_CLR sets ERR_COUNT to 0; on
an open page COUNTER_SAT_CLEAR sets a statistics counter's value and SAT to 0 and leaves its latch. COUNTER_LO_READ
of a statistics counter returns VALUE[31:0], and the pair's latch then holds VALUE[47:32] and SAT while the value
stays; of the LO half of PWR_LCOUNT or SCHED_CAP, and of STEP_JNEXT in the unprivileged view for the requester's own
job, it returns the low word and latches the high word. Every other header, counter and latch stays. ARM of a beacon
at COUNT 0 with ARG at least 1 sets COUNT to ARG; ARRIVE with 1 ≤ ARG ≤ COUNT takes ARG off COUNT and advances GEN
modulo 64 when COUNT becomes 0; CLEAR sets COUNT to 0 and keeps GEN. Any other ARM or ARRIVE changes no beacon, adds
one to TOP_BEACON_ERR and raises BEACON_ERR. Every other beacon is unchanged. (R319, R370, R371, R374, R375, R382)
-/
def Obligations.HeaderCounterAndBeaconCommandsTouchOnlyTheirOwn : Prop :=
  ((∀ (s : State) (page : BitVec 9) (mask : W), pageHeader page.toNat = true → s.pageLive page.toNat = true →
      completes (.evtPendClear page mask) s fun t =>
        t.hdr page.toNat = { s.hdr page.toNat with raw := (s.hdr page.toNat).raw &&& ~~~mask } ∧
        sameHdrsBut [page.toNat] s t) ∧
    (∀ (s : State) (page : BitVec 9), pageHeader page.toNat = true → s.pageLive page.toNat = true →
      completes (.errCountClr page) s fun t =>
        t.hdr page.toNat = { s.hdr page.toNat with err := 0#16 } ∧ sameHdrsBut [page.toNat] s t) ∧
    (∀ (s : State) (addr : BitVec 21), addr.toNat % 8 = 0 → isCounterLo addr.toNat = true →
      s.pageLive (addr.toNat / 0x1000) = true →
      completes (.counterSatClear addr) s fun t =>
        t.ctr addr.toNat = { s.ctr addr.toNat with value := 0#48, sat := false } ∧ sameCtrsBut [addr.toNat] s t) ∧
    (∀ (s : State) (addr : BitVec 21), addr.toNat % 4 = 0 → isCounterLo addr.toNat = true →
      s.pageLive (addr.toNat / 0x1000) = true →
      completes (.counterLoRead ⟨true, 0#8, addr.setWidth 22⟩) s fun t =>
        t.rdata = (s.ctr addr.toNat).value.setWidth 32 ∧ sameCtrsBut [addr.toNat] s t ∧ t.latches = s.latches ∧
        t.ctr addr.toNat = { s.ctr addr.toNat with
          latchHi := ((s.ctr addr.toNat).value >>> 32).setWidth 16, latchSat := (s.ctr addr.toNat).sat }) ∧
    (∀ s : State, s.pageLive pgPwr = true → completes (.counterLoRead ⟨true, 0#8, BitVec.ofNat 22 (regAt pgPwr 0x078)⟩) s fun t =>
        t.rdata = s.lcount.setWidth 32 ∧ t.ctrs = s.ctrs ∧
        tget 0#32 t.latches (regAt pgPwr 0x078) = (s.lcount >>> 32).setWidth 32 ∧
        ∀ a, a ≠ regAt pgPwr 0x078 → tget 0#32 t.latches a = tget 0#32 s.latches a) ∧
    (∀ s : State, s.pageLive pgSched = true → completes (.counterLoRead ⟨true, 0#8, BitVec.ofNat 22 (regAt pgSched 0x050)⟩) s fun t =>
        t.rdata = s.cap.setWidth 32 ∧ t.ctrs = s.ctrs ∧
        tget 0#32 t.latches (regAt pgSched 0x050) = (s.cap >>> 32).setWidth 32) ∧
    (∀ (s : State) (job : BitVec 8), s.pageLive pgStep = true →
      completes (.counterLoRead ⟨false, job, BitVec.ofNat 22 (0x200000 + regAt pgStep 0x050)⟩) s fun t =>
        t.rdata = (s.job job.toNat).next.setWidth 32 ∧ t.ctrs = s.ctrs ∧
        tget 0#32 t.latches (regAt pgStep 0x050) = ((s.job job.toNat).next >>> 32).setWidth 32)) ∧
  ((∀ (s : State) (b : BitVec 14) (arg : BitVec 24), (s.beacon b.toNat).count = 0#24 → arg ≠ 0#24 →
      completes (.beaconArm b arg) s fun t => t.beacon b.toNat = { s.beacon b.toNat with count := arg } ∧
        (∀ k, k ≠ b.toNat → t.beacon k = s.beacon k) ∧ t.hdrs = s.hdrs ∧ t.ctrs = s.ctrs ∧ t.regs = s.regs) ∧
    (∀ (s : State) (b : BitVec 14) (arg : BitVec 24), arg ≠ 0#24 → arg.toNat ≤ (s.beacon b.toNat).count.toNat →
      completes (.beaconArrive b arg) s fun t =>
        (t.beacon b.toNat).count.toNat = (s.beacon b.toNat).count.toNat - arg.toNat ∧
        (t.beacon b.toNat).gen.toNat =
          (if arg = (s.beacon b.toNat).count then ((s.beacon b.toNat).gen.toNat + 1) % 64 else (s.beacon b.toNat).gen.toNat) ∧
        (∀ k, k ≠ b.toNat → t.beacon k = s.beacon k) ∧ t.hdrs = s.hdrs ∧ t.ctrs = s.ctrs ∧ t.regs = s.regs) ∧
    (∀ (s : State) (b : BitVec 14), completes (.beaconClear b) s fun t =>
        t.beacon b.toNat = { s.beacon b.toNat with count := 0#24 } ∧ ∀ k, k ≠ b.toNat → t.beacon k = s.beacon k) ∧
    (∀ (s : State) (b : BitVec 14) (arg : BitVec 24),
      (∀ c, c = Instr.beaconArm b arg ∧ ((s.beacon b.toNat).count ≠ 0#24 ∨ arg = 0#24) ∨
          c = Instr.beaconArrive b arg ∧ (arg = 0#24 ∨ (s.beacon b.toNat).count.toNat < arg.toNat) →
        completes c s fun t => t.beacons = s.beacons ∧ s.countedBy t pgTop 0x208 1 ∧ t.event pgTop 2 = true ∧
          sameUnits s t ∧ sameRegsBut [regAt pgTop 0x050] s t ∧ sameCtrsBut [regAt pgTop 0x208] s t)))

/-- CREATE, STAGE, PUBLISH, DISCARD, RETIRE and SET_POLICY move an entry as Table 03-4 states. With the DIR unit
RUNNING and an id other than 0: CREATE of a FREE entry whose image passes every check makes the entry that image
gives, in LOADING; STAGE takes READY to STAGING with the idle slot open; PUBLISH takes STAGED to READY with LIVE
flipped, POSTMARK one later and the idle contents' RANKORD, where the span rule allows it; DISCARD takes STAGING or
STAGED to READY; RETIRE takes LOADING to FREE with FREED raised, any other state but FREE and RETIRING to RETIRING,
or to FREE with FREED raised where both pins are 0, and leaves a pinned RETIRING entry; SET_POLICY replaces CPOL by
that of a well-formed image. Each reports OK and the entry's new state, raises DONE, counts no refusal, and changes
no other entry. (03_adapter_directory.md, R60, R68, R74) -/
def Obligations.DirectoryCommandsMoveTheEntryByTheStateTable : Prop :=
  ∀ (s : State) (id : BitVec 16), s.running pgDir = true → id ≠ 0#16 →
    (∀ e, (s.entry id.toNat).st = .free → s.createCheck id.toNat s.dirImg = (0, e) →
      completes (.dirCreate id) s fun t => t.entry id.toNat = e ∧ e.st = .loading ∧ dirReports s t id.toNat 0) ∧
    ((s.entry id.toNat).st = .ready → (s.entry id.toNat).trained = false →
      completes (.dirStage id) s fun t => dirReports s t id.toNat 0 ∧
        t.entry id.toNat = { s.entry id.toNat with st := .staging, open_ := true }) ∧
    ((s.entry id.toNat).st = .staged → (s.entry id.toNat).trained = false → (s.entry id.toNat).spanBroken = false →
      completes (.dirPublish id) s fun t => dirReports s t id.toNat 0 ∧
        t.entry id.toNat = { s.entry id.toNat with
          st := .ready, open_ := false, live := !(s.entry id.toNat).live,
          postmark := (s.entry id.toNat).postmark + 1#32, rankord := (s.entry id.toNat).idleRankord }) ∧
    ((s.entry id.toNat).st = .staging ∨ (s.entry id.toNat).st = .staged → (s.entry id.toNat).trained = false →
      completes (.dirDiscard id) s fun t => dirReports s t id.toNat 0 ∧
        t.entry id.toNat = { s.entry id.toNat with st := .ready, open_ := false }) ∧
    ((s.entry id.toNat).st ≠ .free →
      completes (.dirRetire id) s fun t => dirReports s t id.toNat 0 ∧
        t.entry id.toNat =
          (if (s.entry id.toNat).st = .retiring then s.entry id.toNat
           else if (s.entry id.toNat).st = .loading ∨ (s.entry id.toNat).pinA = 0#16 ∧ (s.entry id.toNat).pinB = 0#16 then {}
           else { s.entry id.toNat with st := .retiring, open_ := false }) ∧
        ((s.entry id.toNat).st ≠ .retiring → (t.entry id.toNat) = {} → t.event pgDir 1 = true)) ∧
    ((s.entry id.toNat).st = .ready ∨ (s.entry id.toNat).st = .staging ∨ (s.entry id.toNat).st = .staged →
      imgReserved s.dirImg = false → bitsOf (imgWord s.dirImg 0) 11 10 ≤ 1 →
      completes (.dirSetPolicy id) s fun t => dirReports s t id.toNat 0 ∧
        t.entry id.toNat = { s.entry id.toNat with cpol := BitVec.ofNat 2 (bitsOf (imgWord s.dirImg 0) 11 10) })

/-- READ and FLUSH_PREFIX leave the entry, and a refused command reports its code and changes nothing. With the DIR
unit RUNNING and an id other than 0, READ completes in every state: DIR_IMG0 to DIR_IMG15 hold the words of the
entry, all zero where every field of it is 0, and the directory is unchanged. FLUSH_PREFIX of an entry that is not
FREE completes: the prefix table keeps, in order, exactly the entries that are not this adapter's or that carry its
POSTMARK, and of the entry only PM_FLOOR may change. Both report OK. For each of the eight directory commands, where
a check of R68 fails, the command completes with the code of the first that fails (UNIT_DISABLED, DIR_ID0, then
DIR_TRAINED for STAGE, PUBLISH and DISCARD of a TRAINED entry, then DIR_BAD_STATE), DIR_REFUSED counts it, DONE is
raised, and the directory, the prefix table, the intakes and the stacks' bytes are as before. A PUBLISH that would
break the postmark span reports DIR_PM_SPAN, raises PM_SPAN and leaves the directory. That DIR_TRAINED comes before
DIR_BAD_STATE (log 12) and that DONE is raised at a refused command too (log 22) is the model's choice, not stated
by R68. (R56, R68, R74, R164, 03_adapter_directory.md) -/
def Obligations.DirectoryReadAndFlushPrefix : Prop :=
  (∀ (s : State) (id : BitVec 16), s.running pgDir = true → id ≠ 0#16 →
      completes (.dirRead id) s (fun t => dirReports s t id.toNat 0 ∧ t.dir = s.dir ∧
        (∀ i, i < 16 → t.rd pgDir (0x080 + 4 * i) = imgWord (s.entry id.toNat).words i) ∧
        (s.entry id.toNat = {} → ∀ i, i < 16 → t.rd pgDir (0x080 + 4 * i) = 0#32)) ∧
      ((s.entry id.toNat).st ≠ .free →
        completes (.dirFlushPrefix id) s fun t => dirReports s t id.toNat 0 ∧
          t.prefixes = s.prefixes.filter (fun (_, w) =>
            !(w.adapter.toNat == id.toNat && w.postmark != (s.entry id.toNat).postmark)) ∧
          t.entry id.toNat = { s.entry id.toNat with pmFloor := (t.entry id.toNat).pmFloor })) ∧
  (∀ (s : State) (id : BitVec 16),
      (∀ x ∈ dirCommands id, ∀ code,
        code = (if s.running pgDir = false then 0xA else if id = 0#16 then 8
          else if (x.2.1 && (s.entry id.toNat).trained) = true then 7
          else if x.2.2 (s.entry id.toNat).st = false then 1 else 0) → code ≠ 0 →
        completes x.1 s fun t => dirReports s t id.toNat code ∧ t.dir = s.dir ∧ t.prefixes = s.prefixes ∧
          t.intakes = s.intakes ∧ t.mem = s.mem) ∧
      (s.running pgDir = true → id ≠ 0#16 → (s.entry id.toNat).st = .staged → (s.entry id.toNat).trained = false →
        (s.entry id.toNat).spanBroken = true →
        completes (.dirPublish id) s fun t => dirReports s t id.toNat 6 ∧ t.event pgDir 3 = true ∧ t.dir = s.dir))

/-- The job commands read, open, update and close a job context, or report a code and change none. With the STEP
unit serving: READ copies the context's image with its STATE into STEP_JIMG; OPEN of a FREE context whose image
passes every check makes the context OPEN with that image, its step number at FIRST_STEP and an empty ring; UPDATE
of an OPEN context with an image that differs only in the fields UPDATE may change stores that image and keeps the
rest; CLOSE of an OPEN context makes it CLOSING at this local count. Each reports code 0, leaves every other context
and every slot alone, and changes no unit, event or counter. While the STEP unit does not serve, every job command
reports code 6; OPEN of a context that is not FREE, and UPDATE or CLOSE of one that is not OPEN, report code 1; OPEN
whose image fails a check reports that check's code. The job contexts are unchanged. (R120, R122, 06_steps.md) -/
def Obligations.JobCommandsOpenUpdateAndCloseAContext : Prop :=
  (∀ (s : State) (job : BitVec 8), s.stepUp = true →
      completes (.jobRead job) s (fun t => bitsOf (t.rd pgStep 0x044) 3 0 = 0 ∧ t.jobs = s.jobs ∧
        ∀ i, i < 16 → t.rd pgStep (0x080 + 4 * i) = imgWord (s.job job.toNat).image i) ∧
      ((s.job job.toNat).st = 0#2 → s.openCode job.toNat { img := s.jobImg } = 0 →
        completes (.jobOpen job) s fun t => bitsOf (t.rd pgStep 0x044) 3 0 = 0 ∧
          (t.job job.toNat).st = 1#2 ∧ (t.job job.toNat).img = s.jobImg ∧
          (t.job job.toNat).next = BitVec.ofNat 64 (imgPair s.jobImg 9) ∧ (t.job job.toNat).prod = 0#32 ∧
          (t.job job.toNat).cons = 0#32 ∧ (t.job job.toNat).cur = none ∧ (t.job job.toNat).outQ = [] ∧
          ∀ k, k ≠ job.toNat → t.job k = s.job k) ∧
      ((s.job job.toNat).st = 1#2 → updateMask s.jobImg (s.job job.toNat).img = updateMask (s.job job.toNat).img (s.job job.toNat).img →
        imageOk { s.job job.toNat with img := s.jobImg } = true →
        completes (.jobUpdate job) s fun t => bitsOf (t.rd pgStep 0x044) 3 0 = 0 ∧
          t.job job.toNat = { s.job job.toNat with img := s.jobImg } ∧ ∀ k, k ≠ job.toNat → t.job k = s.job k) ∧
      ((s.job job.toNat).st = 1#2 →
        completes (.jobClose job) s fun t => bitsOf (t.rd pgStep 0x044) 3 0 = 0 ∧
          t.job job.toNat = { s.job job.toNat with st := 2#2, closeAt := s.lcount } ∧
          ∀ k, k ≠ job.toNat → t.job k = s.job k)) ∧
  (∀ (s : State) (job : BitVec 8) (c : Instr),
      c = .jobRead job ∨ c = .jobOpen job ∨ c = .jobUpdate job ∨ c = .jobClose job →
      (s.stepUp = false → completes c s fun t => bitsOf (t.rd pgStep 0x044) 3 0 = 6 ∧ t.jobs = s.jobs) ∧
      (s.stepUp = true → (c = .jobOpen job → (s.job job.toNat).st ≠ 0#2) →
        (c = .jobUpdate job ∨ c = .jobClose job → (s.job job.toNat).st ≠ 1#2) → c ≠ .jobRead job →
        completes c s fun t => bitsOf (t.rd pgStep 0x044) 3 0 = 1 ∧ t.jobs = s.jobs) ∧
      (s.stepUp = true → c = .jobOpen job → (s.job job.toNat).st = 0#2 → s.openCode job.toNat { img := s.jobImg } ≠ 0 →
        completes c s fun t => bitsOf (t.rd pgStep 0x044) 3 0 = s.openCode job.toNat { img := s.jobImg } ∧ t.jobs = s.jobs))

/-- JOB_CLOSE_ENDS ends every request of a closing job, and frees the context when none is left. On a CLOSING
context with no step in flight, the command completes; afterwards no slot the job owns holds a request without an
end decided. When no request of it is alive and no end record is due, the context becomes FREE and the directory
entries it held for training are released, every other field of them kept. Other contexts keep their state. (R122,
R220) -/
def Obligations.CloseEndsEveryRequestOfTheJob : Prop :=
  ∀ (s : State) (job : BitVec 8), (s.job job.toNat).st = 2#2 → (s.job job.toNat).cur = none →
    completes (.jobCloseEnds job) s (fun t => (∀ k, k ≠ job.toNat → (t.job k).st = (s.job k).st) ∧
      ∀ q, (s.job job.toNat).owns q = true → (t.slot q).alive = false) ∧
    ((s.job job.toNat).outQ = [] → (s.jobSlots job.toNat).all (fun q => !(s.slot q).alive) = true →
      completes (.jobCloseEnds job) s fun t =>
        t.job job.toNat = { s.job job.toNat with st := 0#2 } ∧ t.slots = s.slots ∧ t.mem = s.mem ∧
        ∀ a, t.entry a = if (s.entry a).trained = true ∧ (s.entry a).trainJob.toNat = job.toNat then
          { s.entry a with trained := false, trainJob := 0#8 } else s.entry a)

/-- POST makes a fresh posting, and CANCEL, PAUSE, RESUME and TRIM are taken only in the states that allow them.
POST of a slot the host owns makes it POSTED, owned by the block, posted at this local count, with the command it
carries where that is allowed, and counts the posting. CANCEL is held for a request that is neither IDLE nor ENDED,
PAUSE and TRIM for one in PREFILL, DECODE or REFILL, RESUME for one that is PAUSED: SLOT_CTRL.CMD then holds it;
where the state does not allow the command, CMD becomes 0 and STEP's ERR_COUNT advances; a CANCEL already held is
never replaced. Every other slot is unchanged. (R124, R129) -/
def Obligations.SlotCommandsSetOrClearCmd : Prop :=
  (∀ (s : State) (slot : BitVec 12) (cmd : BitVec 3), (s.slot slot.toNat).own = false →
    completes (.post slot cmd) s fun t =>
      (t.slot slot.toNat).own = true ∧ (t.slot slot.toNat).st = .posted ∧ (t.slot slot.toNat).ownAt = s.lcount ∧
      (t.slot slot.toNat).cmd = (if cmd = 1#3 then 1#3 else 0#3) ∧ s.countedBy t pgStep 0x0C0 1 ∧
      (∀ k, k ≠ slot.toNat → t.slot k = s.slot k) ∧ sameUnits s t) ∧
  (∀ (s : State) (slot : BitVec 12) (c : Instr) (n : BitVec 3),
    (c = .cancel slot ∧ n = 1#3 ∨ c = .pause slot ∧ n = 2#3 ∨ c = .resume slot ∧ n = 3#3 ∨ c = .trim slot ∧ n = 4#3) →
    completes c s fun t => (∀ k, k ≠ slot.toNat → t.slot k = s.slot k) ∧ sameUnits s t ∧ sameHdrsBut [pgStep] s t ∧
      ((s.slot slot.toNat).cmd = 1#3 → t.slots = s.slots ∧ t.hdrs = s.hdrs) ∧
      ((s.slot slot.toNat).cmd ≠ 1#3 →
        ((n = 1#3 → (s.slot slot.toNat).st ≠ .idle ∧ (s.slot slot.toNat).st ≠ .ended) →
          (n = 2#3 ∨ n = 4#3 → (s.slot slot.toNat).active = true) → (n = 3#3 → (s.slot slot.toNat).st = .paused) →
          t.slot slot.toNat = { s.slot slot.toNat with cmd := n } ∧ t.hdrs = s.hdrs) ∧
        ((n = 1#3 ∧ ((s.slot slot.toNat).st = .idle ∨ (s.slot slot.toNat).st = .ended) ∨
            (n = 2#3 ∨ n = 4#3) ∧ (s.slot slot.toNat).active = false ∨ n = 3#3 ∧ (s.slot slot.toNat).st ≠ .paused) →
          t.slot slot.toNat = { s.slot slot.toNat with cmd := 0#3 } ∧
          ((s.hdr pgStep).err ≠ 0xFFFF#16 → (t.hdr pgStep).err = (s.hdr pgStep).err + 1#16))))

/-- The posting check moves a posted request to HELD, or refuses it with the first failing check's reason. On a
POSTED request with no end decided, POSTING_CHECK completes. Where every check of R126 passes, the request enters
HELD, accepted at this local count, and no event or counter changes. Where one fails, the refusal is counted and
REFUSED raised, and the request ends with that check's reason: at once where no job can carry its record (reasons
0x0A, 0x0B and 0x0C), else as an end decided whose record is due on the job's ring. Other slots are unchanged.
(R126, R139) -/
def Obligations.PostingCheckAcceptsOrRefuses : Prop :=
  ∀ (s : State) (slot : BitVec 12), (s.slot slot.toNat).st = .posted → (s.slot slot.toNat).pendingEnd = none →
    completes (.postingCheck slot) s fun t => (∀ k, k ≠ slot.toNat → t.slot k = s.slot k) ∧ sameUnits s t ∧
      (s.postReason slot.toNat = 0 →
        (t.slot slot.toNat).st = .held ∧ (t.slot slot.toNat).acceptAt = s.lcount ∧
        (t.slot slot.toNat).own = (s.slot slot.toNat).own ∧ t.jobs = s.jobs ∧ t.hdrs = s.hdrs ∧ t.ctrs = s.ctrs) ∧
      (s.postReason slot.toNat ≠ 0 → s.countedBy t pgStep 0x0C8 1 ∧ t.event pgStep 0 = true ∧
        (s.postReason slot.toNat ∈ [0x0A, 0x0B, 0x0C] → (s.slot slot.toNat).lost = false →
          (t.slot slot.toNat).st = .ended ∧ (t.slot slot.toNat).own = false ∧
          (t.slot slot.toNat).reason = BitVec.ofNat 8 (s.postReason slot.toNat) ∧ t.jobs = s.jobs) ∧
        (s.postReason slot.toNat ∉ [0x0A, 0x0B, 0x0C] → ∀ jn, s.slotJob slot.toNat = some jn →
          t.slot slot.toNat = { s.slot slot.toNat with
            pendingEnd := some { reason := BitVec.ofNat 8 (s.postReason slot.toNat) } } ∧
          (t.job jn).outQ = (s.job jn).outQ ++ [slot] ∧ ∀ k, k ≠ jn → t.job k = s.job k))

/-- A cancel, a deadline, an expiry and a resume act on a request outside a step. On a slot that a job owns and
whose end is not decided: CANCEL_TAKEN of a HELD or PAUSED request with CANCEL held decides an end with reason
CANCELLED and the cancel seen; DEADLINE of a HELD request with HARD set whose due time is past decides an end with
reason 0x03; EXPIRED of a parked request whose PAUSE_TTL has passed, neither spilled nor being resumed, decides an
end with reason 0x0D, counts it and raises its event. Each puts the slot last among the ends due on the job's ring.
RESUME_TAKEN of a PAUSED request with RESUME held puts it in HELD with CMD 0. (R139, R140, R141, R170, R171) -/
def Obligations.EndsOutsideAStepAreDecided : Prop :=
  ∀ (s : State) (slot : BitVec 12) (jn : Nat), s.slotJob slot.toNat = some jn →
    (s.slot slot.toNat).pendingEnd = none →
    ((s.slot slot.toNat).cmd = 1#3 → (s.slot slot.toNat).st = .held ∨ (s.slot slot.toNat).st = .paused →
      completes (.cancelTaken slot) s fun t =>
        (t.slot slot.toNat).pendingEnd = some { reason := 0x02#8, cancelSeen := true } ∧
        (t.slot slot.toNat).parcels = [] ∧ (t.job jn).outQ = (s.job jn).outQ ++ [slot] ∧ sameUnits s t) ∧
    ((s.slot slot.toNat).st = .held → (s.req slot.toNat).hard = true →
      (∃ d, s.due slot.toNat = some d ∧ d < s.lcount.toNat) →
      completes (.deadlineEnd slot) s fun t =>
        (t.slot slot.toNat).pendingEnd = some { reason := 0x03#8 } ∧
        (t.job jn).outQ = (s.job jn).outQ ++ [slot] ∧ sameUnits s t) ∧
    ((s.slot slot.toNat).st = .paused → (s.slot slot.toNat).spilled = false → (s.slot slot.toNat).cmd ≠ 3#3 →
      (∃ p, (s.slot slot.toNat).parkAt = some p ∧ p.toNat + (s.req slot.toNat).pauseTtl ≤ s.lcount.toNat) →
      completes (.expired slot) s fun t =>
        (t.slot slot.toNat).pendingEnd = some { reason := 0x0D#8 } ∧ (t.slot slot.toNat).parcels = [] ∧
        (t.job jn).outQ = (s.job jn).outQ ++ [slot] ∧ t.event pgCache 3 = true ∧ sameUnits s t) ∧
    ((s.slot slot.toNat).st = .paused → (s.slot slot.toNat).cmd = 3#3 →
      completes (.resumeTaken slot) s fun t =>
        t.slot slot.toNat = { s.slot slot.toNat with
          st := .held, cmd := 0#3, resumed := true, spilled := false, memBad := (t.slot slot.toNat).memBad } ∧
        ∀ k, k ≠ slot.toNat → t.slot k = s.slot k)

/-- The oldest end due is written to the job's ring and its slot reaches ENDED; JCONS frees ring entries. With the
HOST unit RUNNING and no host-port write waiting, a free ring entry beyond those a step reserves, and a decided end
at the front of the job's ends due, OUT_OF_STEP_RECORD completes: the slot, unless its entry was lost, is ENDED with
that reason, OWN and CMD 0; the producer index is one more; with no write outstanding the ring entry holds the out-
of-step record (type 2, state ENDED, FINAL, the reason, the request's rung and due time) and the mirror the new
producer index; host memory outside the ring entry's 128 bytes and the producer mirror's 4 is unchanged; the slot
leaves the ends due. A JCONS_WRITE that does not pass the producer sets the consumer index; one that does leaves it
and adds to ERR_COUNT. (R124, R136, R139) -/
def Obligations.OutOfStepRecordEndsTheSlot : Prop :=
  (∀ (s : State) (job : BitVec 8) (q : BitVec 12) (rest : List (BitVec 12)) (r : EndRec),
    (s.job job.toNat).outQ = q :: rest → s.running pgHost = true →
    ((s.job job.toNat).reserved : Int) < (s.job job.toNat).room → (s.slot q.toNat).pendingEnd = some r →
    (s.slot q.toNat).lost = false → Memory.wf s.host = true → s.writeQ = [] →
    completes (.outOfStepRecord job) s fun t =>
      (t.slot q.toNat).st = .ended ∧ (t.slot q.toNat).reason = r.reason ∧ (t.slot q.toNat).own = false ∧
      (t.slot q.toNat).cmd = 0#3 ∧ (∀ k, k ≠ q.toNat → t.slot k = s.slot k) ∧
      (t.job job.toNat).prod = (s.job job.toNat).prod + 1#32 ∧ (t.job job.toNat).outQ = rest ∧
      (∀ k, k ≠ job.toNat → t.job k = s.job k) ∧ sameUnits s t ∧
      (s.hostWrites = [] → s.clkUp 2 = true →
        ∀ base, base = (s.job job.toNat).ringBase + 128 * ((s.job job.toNat).prod.toNat % 2 ^ (s.job job.toNat).ringLog2) →
        base + 128 ≤ (s.job job.toNat).prodAddr ∨ (s.job job.toNat).prodAddr + 4 ≤ base →
        mread t.host base 128 = s.record job.toNat q.toNat
          { kind := 2, state := 7, final := true, reason := r.reason.toNat, cancelSeen := r.cancelSeen,
            rung := (s.slot q.toNat).rung.toNat, step := (s.job job.toNat).next.toNat,
            postmark := (s.slot q.toNat).pmCarried, due := s.due q.toNat } ∧
        mread t.host (s.job job.toNat).prodAddr 4 = leBytes 4 (t.job job.toNat).prod.toNat) ∧
      ∀ a, (a < (s.job job.toNat).ringBase + 128 * ((s.job job.toNat).prod.toNat % 2 ^ (s.job job.toNat).ringLog2) ∨
            (s.job job.toNat).ringBase + 128 * ((s.job job.toNat).prod.toNat % 2 ^ (s.job job.toNat).ringLog2) + 128 ≤ a) →
        (a < (s.job job.toNat).prodAddr ∨ (s.job job.toNat).prodAddr + 4 ≤ a) → mget t.host a = mget s.host a) ∧
  (∀ (s : State) (job : BitVec 8) (v : W),
    completes (.jconsWrite job v) s fun t => (∀ k, k ≠ job.toNat → t.job k = s.job k) ∧ sameHdrsBut [pgStep] s t ∧
      (((s.job job.toNat).prod - v).toNat ≤ 2 ^ (s.job job.toNat).ringLog2 →
        t.job job.toNat = { s.job job.toNat with cons := v } ∧ t.hdrs = s.hdrs) ∧
      (2 ^ (s.job job.toNat).ringLog2 < ((s.job job.toNat).prod - v).toNat →
        t.job job.toNat = s.job job.toNat ∧
        ((s.hdr pgStep).err ≠ 0xFFFF#16 → (t.hdr pgStep).err = (s.hdr pgStep).err + 1#16)))

/-- A grant reserves a command's beats on all its lanes at once, or reserves nothing. COMMAND_GRANT appends the
acceptable submitted commands and, while ARRAY is RUNNING, looks at the first that is ready. Where every lane it
uses can take its share, the command is granted with those shares, each lane's next serial advances by the command's
beats on that lane, every lane with a beat was RUNNING, and a lane without a beat is unchanged. Where one cannot, or
ARRAY is not RUNNING, no lane, landing range or landing byte changes; where a lane cannot, every ready command is
marked held. That every ready command is marked then, and not the first alone, is the model's choice (log 26).
(R105, R107, R108, R372) -/
def Obligations.CommandGrantReservesOnEveryLaneOrNone : Prop :=
  ∀ (s u : State) (cs : List ArrayCmd), u = s.submit cs →
    (∀ (c : Cmd) (st : Step), s.running pgArray = true → u.cmds.find? (fun c => c.stage = .ready) = some c →
      u.cmdStep c = some st →
      (∀ t0 shs, u.takeLanes c.key c.arr c.step (u.cmdBeats c.arr st) (List.range u.part.nLanes) = some (t0, shs) →
        completes (.commandGrant cs) s fun t =>
          t.cmds = u.cmds.map (fun x => if x.key = c.key then { c with stage := .granted, shares := shs } else x) ∧
          t.landUse = t0.landUse ∧ t.ctrs = s.ctrs ∧ t.hdrs = s.hdrs ∧
          ∀ l, l < s.part.nLanes → ∀ bs, bs = laneBeats s.part.nLanes l (u.cmdBeats c.arr st) →
            (t.lane l).nextSerial = (s.lane l).nextSerial + BitVec.ofNat 32 bs.length ∧
            (bs ≠ [] → (s.lane l).st = .running) ∧ (bs = [] → t.lane l = s.lane l)) ∧
      (u.takeLanes c.key c.arr c.step (u.cmdBeats c.arr st) (List.range u.part.nLanes) = none →
        completes (.commandGrant cs) s fun t => t.lanes = s.lanes ∧ t.landUse = s.landUse ∧ t.landing = s.landing ∧
          t.cmds = u.cmds.map fun x => if x.stage = .ready then { x with held := true } else x)) ∧
    (s.running pgArray = false → completes (.commandGrant cs) s fun t =>
      t.lanes = s.lanes ∧ t.landUse = s.landUse ∧ t.landing = s.landing ∧ t.cmds = u.cmds)

/-- A granted command issues under the lowest free identity, completes by it, and a command held too long is
dropped. COMMAND_ISSUE, with the array RUNNING and clocked and fewer than its declared commands outstanding, those
of closed steps too, issues the first granted command that the lead of R93 and the rate budget of R210 let issue,
under the lowest identity not outstanding, at this local count, and counts it; at the bound it issues none.
ACMD_DONE of an outstanding identity marks that command complete, or takes it off the identities of closed steps; of
no outstanding identity it only adds to the ARRAY page's ERR_COUNT. COMMAND_DROP of the first ready command whose
hold count has reached MERGE_HOLD_LIMIT removes it and fails its rows, in training every row of the step, with
MERGE_OFF. No other command changes. That the identity is the lowest free one (log 27; R390 asks only that it be
unique) and how the rate budget predicts the fills (log 29) are the model's choices. (R93, R114, R116, R210, R390)
-/
def Obligations.CommandsIssueCompleteAndDrop : Prop :=
  (∀ (s : State) (c : Cmd) (id : Nat), s.cmds.find? (s.issueOk s.placedMap) = some c →
    (List.range 256).find? (fun i => !(s.idsOut.any fun x => x.toNat = i)) = some id →
    s.running pgArray = true → s.clkUp 1 = true → s.idsOut.length < s.decl.nArray.toNat →
    completes .commandIssue s fun t => s.countedBy t pgArray 0x200 1 ∧ sameUnits s t ∧
      t.cmds = s.cmds.map fun x => if x.key = c.key then
        { c with stage := .issued, id := BitVec.ofNat 8 id, issueAt := s.lcount } else x) ∧
  (∀ s : State, s.decl.nArray.toNat ≤ s.idsOut.length ∨ s.running pgArray = false →
    completes .commandIssue s fun t => t.cmds = s.cmds ∧ t.ctrs = s.ctrs) ∧
  (∀ (s : State) (id : BitVec 8) (c : Cmd), s.outstanding.find? (fun c => c.id = id) = some c →
    completes (.acmdDone id) s fun t => t.hdrs = s.hdrs ∧ t.late = s.late ∧
      t.cmds = s.cmds.map fun x => if x.key = c.key then { c with done := true } else x) ∧
  (∀ (s : State) (id : BitVec 8), s.outstanding.find? (fun c => c.id = id) = none →
    completes (.acmdDone id) s fun t => t.cmds = s.cmds ∧ t.late = s.late.erase id ∧ sameHdrsBut [pgArray] s t ∧
      (id ∈ s.late → t.hdrs = s.hdrs) ∧
      (id ∉ s.late → (s.hdr pgArray).err ≠ 0xFFFF#16 → (t.hdr pgArray).err = (s.hdr pgArray).err + 1#16)) ∧
  (∀ (s : State) (c : Cmd) (st : Step), s.cmds.find? (fun c => c.stage = .ready) = some c → s.holdLimit ≤ c.hold →
    (s.job c.arr.job.toNat).cur = some st → c.arr.rows ≠ [] →
    completes .commandDrop s fun t => t.cmds = s.cmds.filter (fun x => x.key ≠ c.key) ∧
      (t.job c.arr.job.toNat).cur = some (st.failRows (if (s.job c.arr.job.toNat).isTrain then List.range st.rows.length
        else c.arr.rows.map fun r => r.toNat) 0x15) ∧
      ∀ k, k ≠ c.arr.job.toNat → t.job k = s.job k)

/-- A beat with good parity and a live tag lands, merged where its pigeonhole is filled on a lane in service, and
its reservation is released. On a lane that is up, a beat with good tag parity whose ledger entry is live lands at
the entry's place: as Y + ΔY where it carries a delta, its pigeonhole is filled and the lane neither drains nor is
in FAULT; else bit for bit, with a miss record where it carries a delta: DISABLED on a DRAINING lane, whose first
such tag MERGE_LDIS_TAG keeps, FAULT on a lane in FAULT (but for the lookup that met the error, in the local count
of it, whose delta flag R118 leaves unknown), UNFILLED where the pigeonhole is not filled. The entry and the
pigeonhole are then released, and the beat is counted. A beat whose tag no live entry holds, also where another live
tag stands at the index, is discarded and queued as STRAY; one with bad parity is discarded and queued as TAG_PARITY
with no lookup. A record that finds the miss queue full is dropped with MISSQ_OVF, and the rows with a beat on the
lane in every command holding reservations there fail. No other lane changes. (R43, R109, R110, R111, R112, R115,
R117) -/
def Obligations.BeatIsMergedLandedOrMissed : Prop :=
  ∀ (s : State) (lane : BitVec 6) (data : BitVec 1024) (tag : W) (tpar : BitVec 4), s.laneUp lane.toNat = true →
    (tagParityOk tag tpar = true →
      (∀ (e : LedgerEntry) (c : Cmd) (x : LaneShare), tget? (s.lane lane.toNat).ledger (tag.toNat % 4096) = some e →
        e.tag = tag → s.cmdOf e.cmd = some c → c.share lane.toNat = some x →
        ((s.lane lane.toNat).st = .fault → e.delta = true → (s.lane lane.toNat).metErr ≠ some s.lcount) →
        ∀ (p : Pigeonhole) (why : Option MissReason) (out : BitVec 1024), p = tget {} (s.lane lane.toNat).phs e.ph →
          why = (if e.delta = false then none else if (s.lane lane.toNat).st = .draining then some .disabled
            else if (s.lane lane.toNat).st = .fault then some .fault else if p.filled = true then none else some .unfilled) →
          out = (if e.delta = true ∧ why = none then mergeBeat (s.cmdFp32 c.arr) data p.data else data) →
          completes (.beat lane data tag tpar) s fun t =>
            t.landing = mwrite s.landing (x.land + 128 * (tag - x.tag0).toNat)
              ((leBytes 128 out.toNat).take (s.validBytes c x tag)) ∧
            tget? (t.lane lane.toNat).ledger (tag.toNat % 4096) = none ∧
            (e.delta = true → (tget {} (t.lane lane.toNat).phs e.ph).reserved = false ∧
              (t.lane lane.toNat).returning = (s.lane lane.toNat).returning ++ [e.ph]) ∧
            (∀ k, k ≠ lane.toNat → t.lane k = s.lane k) ∧ sameUnits s t ∧
            s.countedBy t (pgMerge lane.toNat) (laneOff lane.toNat + 0x20) 1 ∧
            (why = some .disabled → (s.lane lane.toNat).disSeen = false →
              (t.lane lane.toNat).disSeen = true ∧ (t.lane lane.toNat).ldisTag = tag) ∧
            (why = none → (t.lane lane.toNat).missq = (s.lane lane.toNat).missq ∧ t.jobs = s.jobs) ∧
            (∀ r, why = some r → (s.lane lane.toNat).missq.length < 64 →
              (t.lane lane.toNat).missq = (s.lane lane.toNat).missq ++ [{ tag := tag, reason := r }] ∧ t.jobs = s.jobs) ∧
            (why ≠ none → 64 ≤ (s.lane lane.toNat).missq.length → s.missOverflow t lane.toNat)) ∧
      ((∀ e, tget? (s.lane lane.toNat).ledger (tag.toNat % 4096) = some e → e.tag ≠ tag) →
        completes (.beat lane data tag tpar) s fun t => t.landing = s.landing ∧
          (∀ k, k ≠ lane.toNat → t.lane k = s.lane k) ∧
          s.countedBy t (pgMerge lane.toNat) (laneOff lane.toNat + 0x48) 1 ∧
          ((s.lane lane.toNat).missq.length < 64 → t.lane lane.toNat = { s.lane lane.toNat with
            missq := (s.lane lane.toNat).missq ++ [{ tag := tag, reason := .stray }] }) ∧
          (64 ≤ (s.lane lane.toNat).missq.length → s.missOverflow t lane.toNat))) ∧
    (tagParityOk tag tpar = false →
      completes (.beat lane data tag tpar) s fun t => t.landing = s.landing ∧
        (∀ k, k ≠ lane.toNat → t.lane k = s.lane k) ∧
        s.countedBy t (pgMerge lane.toNat) (laneOff lane.toNat + 0x50) 1 ∧
        ((s.lane lane.toNat).missq.length < 64 → t.lane lane.toNat = { s.lane lane.toNat with
          missq := (s.lane lane.toNat).missq ++ [{ tag := tag, reason := .tagParity }] }) ∧
        (64 ≤ (s.lane lane.toNat).missq.length → s.missOverflow t lane.toNat))

/-- An overdue beat is declared absent, firmware drains the miss queue, and the host reads the miss log in order.
ABSENT of a live tag whose command was issued MERGE_BEAT_TIMEOUT local counts ago or earlier queues a record ABSENT
and releases the entry; a full miss queue is as for a beat. MISS_DRAIN takes the oldest record off the miss queue,
fails the row that it names where its reason does so (UNFILLED, DISABLED, FAULT, ABSENT), and, while the miss log
holds fewer than 64, puts it last in the log and raises MISS. MISSQ_LO_READ of an up lane latches the oldest log
record and returns its tag, or zero; MISSQ_HI_READ after it returns the latched record's reason with VALID and pops
that record, and returns zero and pops nothing without a latched record. No other lane changes. (R111, R112, R113,
05_merge_lanes.md) -/
def Obligations.AbsentBeatAndMissLog : Prop :=
  (∀ (s : State) (lane : BitVec 6) (tag : W) (e : LedgerEntry) (c : Cmd),
    tget? (s.lane lane.toNat).ledger (tag.toNat % 4096) = some e → e.tag = tag → s.cmdOf e.cmd = some c →
    c.stage = .issued → c.issueAt.toNat + (s.rd (pgMerge 0) 0x040).toNat ≤ s.lcount.toNat →
    completes (.beatAbsent lane tag) s fun t =>
      ((s.lane lane.toNat).missq.length < 64 →
        (t.lane lane.toNat).missq = (s.lane lane.toNat).missq ++ [{ tag := tag, reason := .absent }] ∧ t.jobs = s.jobs) ∧
      (64 ≤ (s.lane lane.toNat).missq.length → s.missOverflow t lane.toNat) ∧
      tget? (t.lane lane.toNat).ledger (tag.toNat % 4096) = none ∧ t.landing = s.landing ∧
      ∀ k, k ≠ lane.toNat → t.lane k = s.lane k) ∧
  (∀ (s : State) (lane : BitVec 6) (r : MissRec) (rest : List MissRec), (s.lane lane.toNat).missq = r :: rest →
    completes (.missDrain lane) s fun t => (t.lane lane.toNat).missq = rest ∧
      ((s.lane lane.toNat).missLog.length < 64 → (t.lane lane.toNat).missLog = (s.lane lane.toNat).missLog ++ [r] ∧
        t.event (pgMerge lane.toNat) (4 * (lane.toNat % 4)) = true) ∧
      (64 ≤ (s.lane lane.toNat).missLog.length → (t.lane lane.toNat).missLog = (s.lane lane.toNat).missLog) ∧
      (r.reason.fails = false → t.jobs = s.jobs) ∧
      (r.reason.fails = true → ∀ j i st, s.rowOfTag lane.toNat r.tag = some (j, i) → (s.job j).cur = some st →
        i < st.rows.length → t.rowFails j i 0x14 ∧ ∀ k, k ≠ j → t.job k = s.job k) ∧
      ∀ k, k ≠ lane.toNat → t.lane k = s.lane k) ∧
  (∀ (s : State) (lane : BitVec 6), s.laneUp lane.toNat = true →
    completes (.missqLoRead lane) s fun t => t.lane lane.toNat = { s.lane lane.toNat with
        latched := (s.lane lane.toNat).missLog.head?, loRead := true } ∧
      t.rdata = (match (s.lane lane.toNat).missLog.head? with | some r => r.tag | none => 0#32) ∧
      ∀ k, k ≠ lane.toNat → t.lane k = s.lane k) ∧
  (∀ (s : State) (lane : BitVec 6) (r : MissRec), s.laneUp lane.toNat = true → (s.lane lane.toNat).loRead = true →
    (s.lane lane.toNat).latched = some r →
    completes (.missqHiRead lane) s fun t => t.lane lane.toNat = { s.lane lane.toNat with
        loRead := false, latched := none, missLog := (s.lane lane.toNat).missLog.drop 1 } ∧
      t.rdata = BitVec.ofNat 32 (r.reason.code + 16) ∧ ∀ k, k ≠ lane.toNat → t.lane k = s.lane k) ∧
  (∀ (s : State) (lane : BitVec 6), (s.lane lane.toNat).loRead = false ∨ (s.lane lane.toNat).latched = none →
    completes (.missqHiRead lane) s fun t => t.rdata = 0#32 ∧
      (t.lane lane.toNat).missLog = (s.lane lane.toNat).missLog ∧ ∀ k, k ≠ lane.toNat → t.lane k = s.lane k)

/-- A lane drains when disabled, stops when drained, restarts when enabled, and faults on an uncorrectable error. On
a lane that is up: LANE_DISABLE takes RUNNING to DRAINING and LCTRL.ENABLE to 0; DRAINED of a DRAINING lane with an
empty ledger takes it to OFF, or to RUNNING where ENABLE was written 1 meanwhile, and raises DRAINED; LANE_ENABLE
sets ENABLE, clears DIS_SEEN, and takes OFF to RUNNING on a block that is ready; LANE_FAULT of a lane not in FAULT
takes it to FAULT, raises its FAULT event and logs it. PIGEONHOLE_WRITE moves the oldest queued write into its
pigeonhole where that is still reserved under its tag, else drops and counts it; PIGEONHOLE_CREDIT lets the oldest
release cross; LANDING_FREE frees a range no live entry lands in and no placed form reads, and no other. Other lanes
are unchanged. That DRAINED is raised also where the drain ends RUNNING is the model's choice (log 30). (R115, R117,
R94, R109) -/
def Obligations.LanesEnableDrainAndFault : Prop :=
  ∀ (s : State) (lane : BitVec 6),
    (s.laneUp lane.toNat = true →
      completes (.laneDisable lane) s (fun t => (∀ k, k ≠ lane.toNat → t.lane k = s.lane k) ∧
        t.rd (pgMerge lane.toNat) (laneOff lane.toNat) = 0#32 ∧
        t.lane lane.toNat = { s.lane lane.toNat with
          reEnable := false, st := if (s.lane lane.toNat).st = .running then .draining else (s.lane lane.toNat).st }) ∧
      completes (.laneEnable lane) s (fun t => (∀ k, k ≠ lane.toNat → t.lane k = s.lane k) ∧
        t.rd (pgMerge lane.toNat) (laneOff lane.toNat) = 1#32 ∧ (t.lane lane.toNat).disSeen = false ∧
        (t.lane lane.toNat).ledger = (s.lane lane.toNat).ledger ∧
        ((s.lane lane.toNat).st = .off → s.ready = true → (t.lane lane.toNat).st = .running) ∧
        ((s.lane lane.toNat).st = .draining → (t.lane lane.toNat).st = .draining ∧ (t.lane lane.toNat).reEnable = true) ∧
        ((s.lane lane.toNat).st = .fault → (t.lane lane.toNat).st = .fault)) ∧
      ((s.lane lane.toNat).st ≠ .fault → completes (.laneFault lane) s fun t =>
        t.lane lane.toNat = { s.lane lane.toNat with st := .fault, metErr := some s.lcount } ∧
        (∀ k, k ≠ lane.toNat → t.lane k = s.lane k) ∧ t.event (pgMerge lane.toNat) (4 * (lane.toNat % 4) + 3) = true ∧
        (s.log.length < 1024 → ∃ r, t.log = s.log ++ [r] ∧ r.cls = 0x12#6 ∧ r.page.toNat = pgMerge lane.toNat ∧
          r.inst.toNat = lane.toNat ∧ r.time = s.lcount))) ∧
    ((s.lane lane.toNat).st = .draining → (s.lane lane.toNat).ledger = [] →
      completes (.laneDrained lane) s fun t => (∀ k, k ≠ lane.toNat → t.lane k = s.lane k) ∧
        t.lane lane.toNat = { s.lane lane.toNat with
          st := if (s.lane lane.toNat).reEnable then .running else .off, reEnable := false } ∧
        t.event (pgMerge lane.toNat) (4 * (lane.toNat % 4) + 2) = true) ∧
    (∀ w ws, (s.lane lane.toNat).crossing = w :: ws →
      completes (.pigeonholeWrite lane) s fun t => (t.lane lane.toNat).crossing = ws ∧
        (∀ k, k ≠ lane.toNat → t.lane k = s.lane k) ∧
        (tget {} (t.lane lane.toNat).phs w.ph =
          if (tget {} (s.lane lane.toNat).phs w.ph).reserved = true ∧ (tget {} (s.lane lane.toNat).phs w.ph).tag = w.tag
          then { tget {} (s.lane lane.toNat).phs w.ph with data := w.data, filled := true }
          else tget {} (s.lane lane.toNat).phs w.ph) ∧
        s.countedBy t (pgMerge lane.toNat) (laneOff lane.toNat + 0x40)
          (if (tget {} (s.lane lane.toNat).phs w.ph).reserved = true ∧ (tget {} (s.lane lane.toNat).phs w.ph).tag = w.tag
            then 0 else 1)) ∧
    (∀ p ps, (s.lane lane.toNat).returning = p :: ps → s.clkUp 1 = true →
      completes (.pigeonholeCredit lane) s fun t => t.lane lane.toNat = { s.lane lane.toNat with returning := ps } ∧
        ∀ k, k ≠ lane.toNat → t.lane k = s.lane k) ∧
    (∀ (a : BitVec 27) (r : LandRange), s.landUse.find? (fun r => r.addr = a.toNat) = some r → s.landIdle r = true →
      completes (.landingFree a) s fun t => t.landUse = s.landUse.erase r) ∧
    (∀ (a : BitVec 27), (∀ r, s.landUse.find? (fun r => r.addr = a.toNat) = some r → s.landIdle r = false) →
      completes (.landingFree a) s fun t => t.landUse = s.landUse)

/-- FORM_PLACEMENT seats a good form on the first free core or has it wait for one, and fails the rows of a bad one.
For a form of an intake, charged to the job of its INTAKE_AJOB, or of a step in flight. Where its descriptor passes
its CRC and is well formed, its reduction is not empty, its step's plan has it, its inputs exist, no form that goes
before it in its projection and layer is ready and unplaced, and its station is open: if the scan finds a free core,
and the descriptor reads the staging cache of that core's slice as R78 chooses, the form enters the table under the
next form number on that core, placed at this local count; if no core is free it enters the table under that number
as waiting; every other form stays. Where the descriptor is good and one of those conditions does not hold, nothing
changes. Where the descriptor is bad, no form is placed, and the rows it names, in training every row of the step,
fail with DESC_FAULT. No unit changes. That a good descriptor which firmware would not build now changes nothing is
the model's choice (logs 25 and 145; 47 for the STAGED bit, 133 for the empty reduction, 146 for the order). (R21,
R22, R55, R78, R80, R87, R90, R93, R196, R262) -/
def Obligations.FormPlacementSeatsTheFormOrHoldsIt : Prop :=
  ∀ (s : State) (c d : FormDesc), d = s.chargeTo c → (∃ i, d = .intake i) ∨ (s.formStep d).isSome = true →
    (descBad d = false → emptySum d = false → s.planned d = true → s.inputsIn d = true → s.placeHeld d = false →
      s.goesLater d = false →
      (∀ n b, s.findCore d none = some (n, b) → s.stagedRight d (n / 6400) = true →
        completes (.formPlacement c) s fun t =>
          tget? t.forms s.formCount =
            some { desc := d, core := n, berth := b, at_ := s.lcount, job := (descJob d).map (BitVec.ofNat 8) } ∧
          t.formCount = s.formCount + 1 ∧ (∀ k, k ≠ s.formCount → tget? t.forms k = tget? s.forms k) ∧ sameUnits s t) ∧
      (s.findCore d none = none → completes (.formPlacement c) s fun t =>
        tget? t.forms s.formCount = some {
          desc := d, core := 0, berth := none, at_ := s.lcount, job := (descJob d).map (BitVec.ofNat 8), waiting := true } ∧
        t.formCount = s.formCount + 1 ∧ (∀ k, k ≠ s.formCount → tget? t.forms k = tget? s.forms k) ∧ sameUnits s t)) ∧
    (descBad d = false → (emptySum d = true ∨ s.planned d = false ∨ s.inputsIn d = false ∨ s.placeHeld d = true ∨
        s.goesLater d = true ∨ ∃ n b, s.findCore d none = some (n, b) ∧ s.stagedRight d (n / 6400) = false) →
      completes (.formPlacement c) s fun t => t = s) ∧
    (descBad d = true → ∀ jn st, s.formStep d = some (jn, st) → s.formRows d ≠ [] →
      completes (.formPlacement c) s fun t => t.forms = s.forms ∧ sameUnits s t ∧ (∀ k, k ≠ jn → t.job k = s.job k) ∧
        ∃ u, (t.job jn).cur = some u ∧
          u.rows = (st.failRows (if (s.job jn).isTrain then List.range st.rows.length else s.formRows d) 0x11).rows)

/-- A DOWN form lands U of each of its rows, a DU form lands dU, and the form leaves its core. A DOWN or DU form
that runs completes: row m of its tile lands at DST + 4·m·k as the k FP32 results of the reduction over its factor
rows (for DOWN in train mode of the masked input and times KS; for DU times KS), every landing byte outside the tile
keeps its value, the reads of the factor are counted as gathered or staged, and the form leaves its core with its
engine time charged. (R84, R92, R199, R226) -/
def Obligations.DownAndDuWriteTheirProjections : Prop :=
  ∀ (s : State) (form : Nat) (f : Form) (b : BitVec 512) (jn : Nat) (st : Step) (d : DeltaDesc) (rows : List Nat)
    (fac : List (List Val)), d = deltaDesc b → rows = s.formRows (.raw b) →
    fac = factorVals d d.k (s.factorRows f d).2 →
    (s.rawRuns form 0x10 f b jn st → completes (.down form) s fun t => formEnded s t form f ∧
      t.landing = ((s.downRows jn st d rows fac).zipIdx).foldl
        (fun m (u, i) => mwrite m (d.dst + i * d.k * 4) (wordsLe u)) s.landing ∧
      s.countedBy t pgSched (if d.staged then 0x218 else 0x210) (gatherUnits d) ∧ s.countedBy t pgSched 0x208 1) ∧
    (s.rawRuns form 0x40 f b jn st → completes (.du form) s fun t => formEnded s t form f ∧
      t.landing = (((List.range rows.length).map fun m =>
          fac.map fun y => s.timesKs jn (dot (if d.xfmt = 2 ∧ d.wfmt = 2 then 16 else 32)
            (zipProd (s.landRow d.xfmt (d.src + m * d.stride) d.width) y))).zipIdx).foldl
        (fun m (u, i) => mwrite m (d.dst + i * d.k * 4) (wordsLe u)) s.landing ∧
      s.countedBy t pgSched (if d.staged then 0x218 else 0x210) (gatherUnits d))

/-- An UP or DXA form queues its beats on the lanes of its pigeonhole map and stays until they have entered. An UP
or DXA form that runs and has sent no write completes the command: each lane's crossing queue gains, in the fill
order of R85, the form's writes for that lane, beat by beat in the beat format with −0 beyond the width (a dropped
column of DXA is −0); nothing else of a lane changes; where it has sent at least one write the form stays in the
table with its writes outstanding. The factor reads are counted. R85 writes each block as it completes; that all
writes enter the queues at once, when the form's arithmetic completes, is the model's choice (log 44). (R85, R87,
R94, R226) -/
def Obligations.UpAndDxaQueueTheirWrites : Prop :=
  ∀ (s : State) (form code : Nat) (f : Form) (b : BitVec 512) (jn : Nat) (st : Step) (d : DeltaDesc) (ys : List (List W))
    (ws : List (Nat × CrossWrite)) (c : Instr), s.rawRuns form code f b jn st → f.wrote = false → d = deltaDesc b →
    (c = .up form ∧ code = 0x11 ∧
        ys = s.upRows d (s.formRows (.raw b)).length (factorVals d d.k (s.factorRows f d).2) ∨
      c = .dxa form ∧ code = 0x41 ∧
        ys = s.dxaRows jn st d (s.formRows (.raw b)) (factorVals d d.k (s.factorRows f d).2)) →
    ws = fillWrites d (s.perRow d st) (s.formMap (.raw b)) ys →
    completes c s fun t =>
      (∀ l, t.lane l = { s.lane l with
        crossing := (s.lane l).crossing ++ (ws.filter fun x => x.1 = l).map (·.2) }) ∧
      (ws ≠ [] → tget? t.forms form = some { f with wrote := true, sent := true, counted := true }) ∧ t.landing = s.landing ∧
      s.countedBy t pgSched (if d.staged then 0x218 else 0x210) (gatherUnits d)

/-- SCORE lands block records, VALUE lands partials, SMERGE lands contexts, BATTN lands its gradients. An attention
form that runs completes and leaves its core with its engine time charged. SCORE's block records stand at DST, row
by row, head by head, block by block. VALUE without FINAL writes for each row and head that sees a block the partial
of its run at DST + 4·(m·G + g)·(2 + D). VALUE with FINAL, and SMERGE, write for each row and head the context of
the combined partials in the output format, at the head's place in the full row. BATTN lands dQ at DST, and, with
the last BATTN of its request in the layer and head, dK and dV of every one of them after its dQ, as sums over all
the query rows that see each position. Each is computed from the state before it, its blocks translated through the
cache of its slice; no other landing byte changes, and the forms of the serving path count themselves. The layout
and order of block records, partials and contexts (log 48), the runs (log 108), and BATTN's dK before its rotation
back and the order of its sums (logs 115 and 132) are the model's choices. (R154, R178, R179, R180, R181, R227) -/
def Obligations.AttentionFormsLandTheirResults : Prop :=
  ∀ (s u : State) (form k : Nat) (f : Form) (b : BitVec 512) (jn : Nat) (st : Step) (a : AttnDesc) (md : ModelDesc)
    (ctx : List (Nat × Nat × Option Partial) → Mem), a = attnDesc b → md = s.desc st.model.toNat → k = f.core / 6400 →
    u = s.translateKv (.raw b) k a →
    (∀ outs, ctx outs = outs.foldl (fun mem (m, g, p) => match p with
      | none => mem
      | some p => (headBytes a.ofmt (md.hq * a.d) a.d ((s.firstKv st a.layer + a.kvh) * a.g + g) p.context).foldl
          (fun mem (o, bs) => mwrite mem (a.dst + m * rowLen a.ofmt (md.hq * a.d) + o) bs) mem) s.landing) →
    (s.rawRuns form 0x20 f b jn st → completes (.score form) s fun t => formEnded s t form f ∧
      t.landing = mwrite s.landing a.dst (u.scoreRecords k a md.lb) ∧ s.countedBy t pgSamp 0x220 1) ∧
    (s.rawRuns form 0x21 f b jn st → ∀ vals outs,
      vals = (List.range a.nb).map (fun i => if a.positions.any (fun p => a.seesBlock p (a.b0 + i)) then
        (u.kvBytes k a md.lb (a.b0 + i) true).data else []) →
      outs = (List.range a.m).flatMap (fun m => (List.range a.g).map fun g => (m, g, u.runPartial a vals m g)) →
      completes (.value form) s fun t => formEnded s t form f ∧ s.countedBy t pgSamp 0x228 1 ∧
        (a.final = true → t.landing = ctx outs) ∧
        (a.final = false → t.landing = outs.foldl (fun mem (m, g, p) => match p with
          | none => mem
          | some p => mwrite mem (a.dst + (m * a.g + g) * (2 + a.d) * 4) p.bytes) s.landing)) ∧
    (s.rawRuns form 0x22 f b jn st → completes (.smerge form) s fun t => formEnded s t form f ∧
      t.landing = ctx ((List.range a.m).flatMap fun m => (List.range a.g).map fun g =>
        (m, g, mergeTree ((List.range (md.runsOf a.layer (a.p0 + m) (s.runLog st a.slot a.layer))).map fun r =>
          s.landPartial (a.src + (r * a.m + m) * a.stride + g * (2 + a.d) * 4) a.d))) ∧
      s.countedBy t pgSamp 0x230 1) ∧
    (s.rawRuns form 0x45 f b jn st → ∀ (v : State) (x : BackForm) (w : Step) (q : Mem),
      v = ((((u.backward k jn st md a).1.feedSaved (.raw b) jn st (st.rowsAt a.slot a.p0 a.m) a.layer [tQ, tCtx, tMl]).touchKv
        (.raw b) a k md.lb false).touchKv (.raw b) a k md.lb true).markRows jn (st.rowsAt a.slot a.p0 a.m) a.layer (.battn a.kvh) →
      x = { layer := a.layer, kvh := a.kvh, slot := a.slot, p0 := a.p0, m := a.m, b0 := a.b0, nb := a.nb, dst := a.dst } →
      (v.job jn).cur = some w → q = mwrite s.landing a.dst (wordsLe (u.backward k jn st md a).2) →
      completes (.battn form) s fun t => formEnded s t form f ∧
        (w.backWhole a.slot a.layer a.kvh = false → t.landing = q) ∧
        (w.backWhole a.slot a.layer a.kvh = true → t.landing =
          ((w.backs.filter (· ≠ x) ++ [x]).filter fun y => y.slot = a.slot && y.layer = a.layer && y.kvh = a.kvh).foldl
            (fun mem y => mwrite mem (y.dst + 4 * (y.m * md.g * md.d)) (wordsLe (v.backKv jn w md y))) q))

/-- NORM, ROTARY, RESID and ACT complete on any tile, and write a one-row tile as their rules compute it. A NORM,
ROTARY, RESID or ACT form that runs completes on a tile of any rows and leaves its core with its engine time
charged. On a tile of one row: NORM (but the embedding norm, which also writes the residual) lands the RMS-normed
residual row times the gain in the declared X format; RESID lands the BF16 sum of the residual and the branch; ACT
lands the gated SiLU of the landed gate and up of this device's columns in the X format; ROTARY of Q lands this
device's rotated heads in BF16. No other landing byte changes. ROTARY of K or V leaves the landing buffers alone.
The order of elements and scales in a landed row (log 43), the operands of the branch and of the embedding norm (log
106) and where landed inputs are read (log 109) are the model's choices. (R184, R185, R99) -/
def Obligations.VectorFormsWriteTheirRows : Prop :=
  ∀ (s : State) (form : Nat) (k : VecKind) (f : Form) (v : VecDesc) (jn : Nat) (st : Step) (md : ModelDesc) (c : Instr),
    s.vecRuns form k f v jn st → md = s.desc st.model.toNat →
    (c = .norm form ∧ k = .norm ∨ c = .rotary form ∧ k = .rotary ∨ c = .resid form ∧ k = .resid ∨ c = .act form ∧ k = .act) →
    completes c s fun t => formEnded s t form f ∧
      (k = .rotary → v.sel ≠ 0#2 → t.landing = s.landing) ∧
      ∀ row, v.rows.map (·.toNat) = [row] →
        (k = .norm → ¬ (v.sel = 0#2 ∧ v.layer = 0#7) → t.landing = mwrite s.landing v.dst.toNat
          (encRow s.decl.xFmt.toNat ((rmsNorm md.eps ((s.landRow 2 v.src.toNat md.dModel).map toF32)
            (s.gain st.model.toNat (md.gainKey (normKind v.sel.toNat) v.layer.toNat))).map ofF32))) ∧
        (k = .resid → t.landing = mwrite s.landing v.dst.toNat
          (encRow 2 (List.zipWith Val.add (s.landRow 2 v.src.toNat md.dModel) (s.branch jn st md v row 0)))) ∧
        (k = .act → ∀ lo hi n, (lo, hi) = s.ownCols st.model.toNat 4 v.layer.toNat v.expert.toNat → n = hi - lo → t.landing = mwrite s.landing v.dst.toNat (encRow s.decl.xFmt.toNat
          ((List.zipWith (fun g u => gatedSilu (toF32 g) (toF32 u))
            (s.landedOr jn st 4 0 v.layer.toNat v.expert.toNat row v.src.toNat n)
            (s.landedOr jn st 5 0 v.layer.toNat v.expert.toNat row v.src2.toNat n)).map ofF32))) ∧
        (k = .rotary → v.sel = 0#2 → t.landing = mwrite s.landing v.dst.toNat (encRow 2
          (((headsOf md.d md.ownQ ((s.landedOr jn st 0 0 v.layer.toNat 0 row v.src.toNat (md.ownQ * md.d)).map toF32)).flatMap
            fun h => md.rotate (st.row row).pos.toNat h).map ofF32)))

/-- ROUTE records a row's experts and weights, SAMPLE its token and probability. A ROUTE or SAMPLE form that runs
completes on a tile of any rows, leaves its core with its engine time charged, and writes no landing byte. On a tile
of one row that is a row of the step: ROUTE records for the row, in its layer, the experts of the largest router
logits and their weights; SAMPLE, for a row that draws, records the token and the probability drawn from the
penalised landed logits under the row's uniform value, and the row is done. (R98, R190, R191, R192) -/
def Obligations.RouteAndSampleRecordTheirChoice : Prop :=
  ∀ (s : State) (form : Nat) (f : Form) (v : VecDesc) (jn : Nat) (st : Step) (md : ModelDesc), md = s.desc st.model.toNat →
    (s.vecRuns form .route f v jn st → completes (.route form) s fun t => formEnded s t form f ∧
      ∀ row, v.rows.map (·.toNat) = [row] → row < st.rows.length →
        ∃ u, (t.job jn).cur = some u ∧ (u.row row).expertsAt v.layer.toNat = routeRow
          ((s.landedOr jn st 9 0 v.layer.toNat 0 row v.src.toNat md.experts).map toF32) md.route) ∧
    (s.vecRuns form .sample f v jn st → completes (.sample form) s fun t => formEnded s t form f ∧
      ∀ row r q o tok p how, v.rows.map (·.toNat) = [row] → row < st.rows.length → r = st.row row → r.draws = true →
        q = r.slot.toNat →
        o = s.overlay q (if r.gen then (match st.named.find? fun n => n.slot == r.slot with
          | some n => (n.drafts.map (·.toNat)).take (r.pos.toNat - (s.slot q).len.toNat)
          | none => []) else []) →
        (tok, p, how) = drawToken (s.req q) (penalise (s.req q) (s.overCount q o)
          ((s.landedOr jn st 8 0 0 0 row v.src.toNat md.vocab).map toF32)) (uniformAt (s.req q) r.pos.toNat) →
        ∃ u, (t.job jn).cur = some u ∧ (u.row row).result = some (BitVec.ofNat 24 tok, p) ∧ (u.row row).done = true)

/-- LOSS records the loss and lands its scaled gradient, and BVEC lands the backward vector results. A LOSS or BVEC
form that runs completes on a tile of any rows and leaves its core with its engine time charged. A LOSS form of one
row with a valid label records the row's loss, adds one to the attempt's valid rows, and lands the loss-scaled logit
gradient in the X format; without a valid label it lands zeros and counts no row. A BVEC form of one row with NORM
selected lands the FP32 gradient of the RMS norm from the landed or delivered gradient and the saved residual; with
ROTARY selected it lands, in the X format, the values of V as they are and those of the other projections rotated
back by the row's position. The layout of a landed row (log 43), and that of the rows LOSS and BVEC land, the norm
that PROJ and VOCAB choose and V left as it is (log 107), are the model's choices. (R224, R225, R227, R230) -/
def Obligations.LossAndBackwardVectorFormsComplete : Prop :=
  ∀ (s : State) (form : Nat) (f : Form) (b : BitVec 512) (jn : Nat) (st : Step) (d : DeltaDesc) (md : ModelDesc),
    d = deltaDesc b → md = s.desc st.model.toNat →
    (s.rawRuns form 0x43 f b jn st → completes (.loss form) s fun t => formEnded s t form f ∧
      ∀ row, s.formRows (.raw b) = [row] → row < st.rows.length →
        (∀ tgt z, s.targetOf (st.row row) md.vocab = (some tgt, false) →
          z = (s.landedOr jn st 8 0 0 0 row d.src d.width).map toF32 →
          t.landing = mwrite s.landing d.dst (encRow s.decl.xFmt.toNat
            ((lossRow z tgt (s.job jn).train.lsExp.toInt).2.map ofF32)) ∧
          (t.job jn).train.nvalid = (s.job jn).train.nvalid + 1 ∧
          ∃ u, (t.job jn).cur = some u ∧ (u.row row).loss = some (lossRow z tgt (s.job jn).train.lsExp.toInt).1) ∧
        ((s.targetOf (st.row row) md.vocab).1 = none →
          t.landing = mwrite s.landing d.dst (encRow s.decl.xFmt.toNat (List.replicate d.width .zero)) ∧
          (t.job jn).train.nvalid = (s.job jn).train.nvalid)) ∧
    (s.rawRuns form 0x44 f b jn st → completes (.bvec form) s fun t => formEnded s t form f ∧
      ∀ row, s.formRows (.raw b) = [row] →
        (d.bvec = 0 → d.vocab = false → d.proj < 4 → ∀ u, u = s.feedSaved (.raw b) jn st [row] d.layer [tResid] →
          t.landing = mwrite s.landing d.dst (wordsLe (normBack md.eps
            ((decRow 2 d.width (u.savedTensor jn st row d.layer tResid (rowLen 2 d.width))).map toF32)
            (u.gain st.model.toNat (md.gainKey 0x11 d.layer))
            (u.backIn jn st [(0, 0), (1, 0), (2, 0)] d.layer row d.src d.width)))) ∧
        (d.bvec = 1 → t.landing = mwrite s.landing d.dst (encRow s.decl.xFmt.toNat
          ((if d.proj = 2 then s.landF32 d.src d.width
            else (headsOf md.d (d.width / md.d) (s.landF32 d.src d.width)).flatMap fun h =>
              md.unrotate (st.row row).pos.toNat h).map ofF32))))

/-- GOUT and MPOOL write their gradients to the activation area and record the piece; intake forms do their work. A
GOUT or MPOOL form that runs completes and leaves its core with its engine time charged. The job's attempt then
holds, last, the piece of the adapter's gradient that the form computed, once. The stacks hold what the writes of
the gradient words leave, row by row of the factor: for GOUT the FP32 gradients, for MPOOL those gradients in the
pool's format, clipped and masked. The landing buffers stay. An intake form that runs completes and leaves its core,
and the stacks hold what its work leaves. The operands and work of an intake form (log 60) and the layout of the
landed rows that GOUT and MPOOL read (log 43) are the model's choices. (R227, R231, R244, R245, R253, R255) -/
def Obligations.GradientFormsRecordTheirPiece : Prop :=
  ∀ (s : State) (form : Nat) (f : Form),
    (∀ (b : BitVec 512) (jn : Nat) (st : Step) (d : DeltaDesc) (p : GradPiece) (u : State) (gs : List (List W)),
      d = deltaDesc b → gs = s.gradRows jn st d (s.formRows (.raw b)) →
      u = s.feedGrad (.raw b) jn st d (s.formRows (.raw b)) →
      p = { adapter := BitVec.ofNat 16 d.adapter, e0 := s.elemBase st d + d.col0, k := d.k, width := d.width, n := d.n,
            addr := d.factor + 4 * d.col0 } →
      (s.rawRuns form 0x42 f b jn st → completes (.gout form) s fun t => formEnded s t form f ∧
        (t.job jn).train.grads = (s.job jn).train.grads.filter (· ≠ p) ++ [p] ∧ t.landing = s.landing ∧
        t.mem = (u.putGrad f d gs).mem) ∧
      (s.rawRuns form 0x50 f b jn st → completes (.mpool form) s fun t => formEnded s t form f ∧
        (t.job jn).train.grads = (s.job jn).train.grads.filter (· ≠ p) ++ [p] ∧ t.landing = s.landing ∧
        t.mem = (u.putGrad f d (u.maskedRows jn st d (u.poolVals jn gs))).mem)) ∧
    (∀ i : IntakeDesc, s.formAt form = some f → f.desc = .intake i → f.idle = false → rising s.forms = true →
      completes (.intakeForm form) s fun t => formEnded s t form f ∧ t.landing = s.landing ∧ t.mem = (s.intakeWork i).mem)

/-- A form that faults or overruns the watchdog is reissued once on another core; a second fault fails its rows.
FORM_FAULT, of the form's berth or of its whole core, or WDOG of a form charged more than the watchdog's limit, on a
core in service that serves the form's number, completes. A form not reissued before stays in the table, marked
reissued, with its descriptor, or, where it runs again on a slice that does not stage its factor, the one built
again to gather the factor from the stacks (R22), and if it runs again it runs on another logical core. A form
reissued before leaves the table, and every row it names fails with FORM_FAULT. A WDOG is counted and raised. (R22,
R96, R97, R201, R330) -/
def Obligations.FormFaultsReissueOnceThenFailTheRows : Prop :=
  ∀ (s : State) (form : Nat) (f : Form) (pc : Nat) (c : Instr), rising s.forms = true → tget? s.forms form = some f →
    f.waiting = false → s.serving f.core = some pc → s.servedBy pc = some f.core → (s.core pc).st = .inService →
    (c = .formFault form false ∨ c = .formFault form true ∨ c = .wdog form ∧ 32 * bitsOf (s.rd pgSched 0x058) 16 0 < f.charged) →
    completes c s fun t => sameUnits s t ∧
      (c = .wdog form → s.countedBy t pgSched 0x070 1 ∧ t.event pgSched 1 = true) ∧
      (f.reissued = false → ∃ g, tget? t.forms form = some g ∧ g.reissued = true ∧
        (g.desc = f.desc ∨ g.waiting = false ∧ ∃ u k, g.desc = State.restage u f.desc k) ∧
        (g.waiting = false → g.core ≠ f.core)) ∧
      (f.reissued = true → tget? t.forms form = none ∧
        ∀ jn st, s.formStep f.desc = some (jn, st) → s.formRows f.desc ≠ [] →
          ∃ u, (t.job jn).cur = some u ∧ ∀ i, i ∈ s.formRows f.desc → i < st.rows.length →
            (u.row i).fails.contains 0x12#8 = true)

/-- STEP_FORM brings the chosen rows into flight as the job's next step and pins the entries they name. A job that
may not be granted a step is left alone. A grantable job first takes the tests and grants of admission, or the
grants of its list, and asks for the tenant input its requests need; while input is due it waits (when it is asked
for is the model's choice, log 169). Where it then chooses rows, no unit holds the formation back and its ring has
room for a record of each request and the summary, STEP_FORM completes: the step in flight has the next step number,
the chosen rows in order, the chosen requests, the job's share group and the drift settings of the time, and a
snapshot of each directory entry they name; in training a row that fails at once fails every row. The live slot of
each named entry has one pin more, every other entry is as it was; a serve-mode job's next step number advances by
one; a pending list is pending no more, and BATCH is raised. Where the ring lacks the room, no step forms and the
job waits for the ring, its event raised if no wait of the job stood. Other jobs keep their contexts. Sharded serve-
mode jobs, which exchange the formation first, are not in the last clause. (R130, R70, R136, R138, R26, R114, R214)
-/
def Obligations.StepFormationBringsTheChosenRowsIntoFlight : Prop :=
  ∀ (s : State) (job : BitVec 8),
    (s.grantable job.toNat = false → exec (.stepForm job) s = .next s) ∧
    ∀ (w u : State) (pool : Nat) (ps : List Pick) (from_ : Nat),
      s.grantable job.toNat = true → s.poolGood (s.job job.toNat).model = some pool →
      w = ((s.fitTests job.toNat).grantRows job.toNat pool).askAll job.toNat true →
      ((s.job job.toNat).isTrain = true ∨ (s.fitTests job.toNat).jobNdev job.toNat ≤ 1) →
      (w.inputsDue job.toNat = true → completes (.stepForm job) s fun t => t.jobs = w.jobs ∧ t.slots = w.slots ∧
        t.dir = w.dir ∧ t.mem = w.mem) ∧
      (w.inputsDue job.toNat = false → w.choose job.toNat pool (s.model (s.job job.toNat).model).gen = (u, ps, from_) →
      ps ≠ [] → w.formHeld u job.toNat ps = false →
      (((ps.length + 1 : Nat) : Int) ≤ (w.job job.toNat).room →
        completes (.stepForm job) s fun t =>
          (∃ st, (t.job job.toNat).cur = some st ∧ st.num = (u.job job.toNat).next ∧ st.tForm = u.lcount ∧
            st.group = (u.job job.toNat).group ∧ st.dctrl = u.rd pgSched 0x200 ∧ st.actrl = u.rd pgSamp 0x040 ∧
            (∀ rs, rs = (ps.flatMap fun p => u.pickFail p (u.pickRows (u.job job.toNat).isTrain p)) →
              st.rows = if (u.job job.toNat).isTrain = true ∧ ∃ r ∈ rs, r.fails ≠ [] then rs.map fun r => r.fail cDesc
                else rs) ∧
            st.named = ps.map u.nameOf ∧
            st.snaps = (u.snapAdapters ps).map fun a => { adapter := BitVec.ofNat 16 a, entry := u.entry a }) ∧
          (t.job job.toNat).next =
            (if (u.job job.toNat).isTrain then (u.job job.toNat).next else (u.job job.toNat).next + 1#64) ∧
          (t.job job.toNat).batchPend = false ∧ ((w.job job.toNat).batchPend = true → t.event pgStep 3 = true) ∧
          (∀ k, k ≠ job.toNat → t.job k = u.job k) ∧ t.mem = u.mem ∧
          (∀ q, t.slot q = if q ∈ u.jobSlots job.toNat ∧ (u.slot q).inAsked = true then (u.slot q).inputsUsed else u.slot q) ∧
          ∀ a, t.entry a = if a ∈ u.snapAdapters ps then (u.entry a).pin (u.entry a).live 1#16 else u.entry a) ∧
      ((w.job job.toNat).room < ((ps.length + 1 : Nat) : Int) →
        completes (.stepForm job) s fun t => t.job job.toNat = { w.job job.toNat with ringWait := true } ∧
          ((w.job job.toNat).ringWait = false → (w.job job.toNat).outWait = false → t.event pgStep 2 = true) ∧
          (∀ k, k ≠ job.toNat → t.job k = w.job k) ∧ t.slots = w.slots ∧ t.dir = w.dir ∧
          t.mem = w.mem ∧ t.ctrs = w.ctrs))

/-- BATCH_GO asks for its list; a list that passes becomes pending and forms the step, one that fails reports its
code. For an OPEN job with fixed batching, with the STEP unit serving: while a list is read or pending, or a step in
flight, the code becomes 1 and nothing else changes (with a list being read that is the model's choice, log 166);
else the 16 bytes at the list's address are asked for. Once the last read of a list has come: one read of which
failed reports code 2 (the model's choice, log 138), one that fails a check by itself the smallest failing code;
both raise BATCH, the job's context otherwise as it was. Once the input of the requests a good list names has come
as well, a list whose rows fail a check reports its code in the same way; one that passes becomes the pending list
with code 0, and the job then acts as in STEP_FORM. For any other job BATCH_GO only adds to ERR_COUNT (the model's
choice, log 137). (R131, R130, R381) -/
def Obligations.BatchGoTakesAListOrReportsItsCode : Prop :=
  (∀ (s : State) (job : BitVec 8) (j : Job), j = s.job job.toNat →
    (j.st ≠ 1#2 ∨ j.fixed = false ∨ s.stepUp = false →
      completes (.batchGo job) s fun t => t.jobs = s.jobs ∧ t.slots = s.slots ∧ sameHdrsBut [pgStep] s t ∧
        ((s.hdr pgStep).err ≠ 0xFFFF#16 → (t.hdr pgStep).err = (s.hdr pgStep).err + 1#16)) ∧
    (j.st = 1#2 → j.fixed = true → s.stepUp = true →
      (j.batchPend = true ∨ j.cur.isSome = true ∨ j.batchStage ≠ 0 →
        completes (.batchGo job) s fun t => t.job job.toNat = { j with batchCode := 1#4 } ∧
          (∀ k, k ≠ job.toNat → t.job k = s.job k) ∧ t.slots = s.slots ∧ t.hdrs = s.hdrs ∧ t.ctrs = s.ctrs) ∧
      (j.batchPend = false → j.cur = none → j.batchStage = 0 →
        completes (.batchGo job) s fun t =>
          t.job job.toNat = { j with
            batchAt := s.lcount, batchSrc := j.batchHi ++ j.batchLo, batchBad := false, batchStage := 1
            batchDue := (hostPieces (j.batchHi ++ j.batchLo).toNat 16).length } ∧
          (∀ k, k ≠ job.toNat → t.job k = s.job k) ∧ t.slots = s.slots ∧ t.mem = s.mem ∧ t.hdrs = s.hdrs ∧
          (s.hostGoes = false → t.hostReads = s.hostReads ∧ t.readQ = s.readQ ++
            (hostPieces (j.batchHi ++ j.batchLo).toNat 16).map fun (x, b) =>
              { use := .batch job s.lcount, addr := BitVec.ofNat 64 x, beats := b })))) ∧
  (∀ (s : State) (job : BitVec 8) (tag : BitVec 10) (x : BitVec 1024) (err : Bool) (r : HostRead) (j : Job) (u : State),
    j = s.job job.toNat → tget? s.hostReads tag.toNat = some r → r.use = .batch job j.batchAt → j.batchDue = 1 →
    s.clkUp 2 = true → u = State.setJob { s with host := mwrite s.host (r.addr.toNat + 128 * r.got) (leBytes 128 x.toNat) }
      job.toNat { j with batchDue := 0, batchBad := j.batchBad || (r.err || err) } →
    ((j.batchBad || (r.err || err)) = true → completes (.hostReadResponse tag x true err) s fun t =>
      t.job job.toNat = { u.job job.toNat with batchStage := 0, batch := [], batchCode := 2#4 } ∧
      (∀ k, k ≠ job.toNat → t.job k = s.job k) ∧ t.slots = s.slots ∧ t.event pgStep 3 = true) ∧
    ((j.batchBad || (r.err || err)) = false → (j.batchStage = 2 ∨ (u.batchList (u.job job.toNat)).2.1 = []) →
      u.batchListCode job.toNat ≠ 0 → completes (.hostReadResponse tag x true err) s fun t =>
      t.job job.toNat = { u.job job.toNat with
        batchStage := 0, batch := [], batchCode := BitVec.ofNat 4 (u.batchListCode job.toNat) } ∧
      (∀ k, k ≠ job.toNat → t.job k = s.job k) ∧ t.slots = s.slots ∧ t.event pgStep 3 = true)) ∧
  (∀ (s : State) (job : BitVec 8) (q : BitVec 12) (tag : BitVec 10) (x : BitVec 1024) (r : HostRead) (u : State),
    tget? s.hostReads tag.toNat = some r → r.use = .tenant q (s.slot q.toNat).acceptAt → (s.slot q.toNat).inDue = 1 →
    r.err = false → s.clkUp 2 = true → s.slotJob q.toNat = some job.toNat → (s.job job.toNat).batchStage = 3 →
    u = State.inputCame { State.count { s with host := mwrite s.host (r.addr.toNat + 128 * r.got) (leBytes 128 x.toNat) }
      (regAt pgHost 0x200) 128 with hostReads := tdel s.hostReads tag.toNat } q.toNat (s.slot q.toNat).acceptAt true →
    (∀ k ∈ (s.job job.toNat).batch, (u.slot k.toNat).inDue = 0) →
    (u.batchCodeOf job.toNat ≠ 0 → completes (.hostReadResponse tag x true false) s fun t =>
      t.job job.toNat = { s.job job.toNat with
        batchStage := 0, batch := [], batchCode := BitVec.ofNat 4 (u.batchCodeOf job.toNat) } ∧
      (∀ k, k ≠ job.toNat → t.job k = s.job k) ∧ t.slots = u.slots ∧ t.mem = s.mem ∧ t.event pgStep 3 = true) ∧
    (u.batchCodeOf job.toNat = 0 → completes (.hostReadResponse tag x true false) s fun t =>
      ∃ w, w = (u.setJob job.toNat { s.job job.toNat with batchStage := 0, batchCode := 0#4, batchPend := true }).form job.toNat ∧
        t.jobs = w.jobs ∧ t.slots = w.slots ∧ t.dir = w.dir ∧ t.mem = w.mem))

/-- STEP_BOUNDARY closes a serve-mode step whose rows are over: tokens delivered, LEN moved, a record for each
request and a summary. While a row of the step has neither finished nor failed, or a beat of it is outstanding, or
the HOST unit is not RUNNING, or the job is a train-mode job, STEP_BOUNDARY changes nothing; nor does it without a
step in flight. Otherwise the job has no step in flight afterwards, its image and next step number stand, its
consumer index stands, and its producer index has advanced by one for each request the step named and one for the
summary. With no host-port write waiting or outstanding, no output asked for, no PAUSE pending and each named
request in a slot of its own, the ring entry after the requests' records begins as the summary record (type 3, the
job, its rows and requests, its step number). A named request of which no row failed, with rows and with its slot's
entry and control tables whole, has delivered the tokens of O32 beside those it had; its LEN is past the rows of its
prompt, or, for a generating one, one further for each token; one a row of which failed keeps both. (R26, R135,
R136, R138, R112) -/
def Obligations.StepBoundaryClosesAStepWhoseRowsAreOver : Prop :=
  ∀ (s : State) (job : BitVec 8),
    ((s.job job.toNat).cur = none → exec (.stepBoundary job) s = .next s) ∧
    ∀ st, (s.job job.toNat).cur = some st →
      ((s.job job.toNat).isTrain = true ∨ st.rowsOver = false ∨ s.beatsIn job.toNat st = false ∨ s.running pgHost = false →
        exec (.stepBoundary job) s = .next s) ∧
      ((s.job job.toNat).isTrain = false → st.rowsOver = true → s.beatsIn job.toNat st = true → s.running pgHost = true →
        completes (.stepBoundary job) s fun t => (t.job job.toNat).cur = none ∧
          (t.job job.toNat).img = (s.job job.toNat).img ∧ (t.job job.toNat).next = (s.job job.toNat).next ∧
          (t.job job.toNat).cons = (s.job job.toNat).cons ∧
          (t.job job.toNat).prod = (s.job job.toNat).prod + BitVec.ofNat 32 (st.named.length + 1) ∧
          (Memory.wf s.host = true → s.writeQ = [] → s.hostWrites = [] → s.clkUp 2 = true →
            (st.named.map (·.slot)).Nodup → st.named.length < 512 → (∀ n ∈ st.named, (s.req n.slot.toNat).outAddr = 0) →
            (∀ n ∈ st.named, (s.req n.slot.toNat).probs = 0) → (∀ q, (s.slot q).cmd ≠ 2#3) →
            ∀ base, base = (s.job job.toNat).ringBase +
              128 * (((s.job job.toNat).prod + BitVec.ofNat 32 st.named.length).toNat % 2 ^ (s.job job.toNat).ringLog2) →
            base + 128 ≤ (s.job job.toNat).prodAddr ∨ (s.job job.toNat).prodAddr + 4 ≤ base →
            mread t.host base 16 =
              leBytes 4 (3 + 2 ^ 8 * job.toNat) ++ leBytes 4 (st.rows.length + 2 ^ 16 * st.named.length) ++
                leBytes 8 st.num.toNat) ∧
          ∀ n ∈ st.named, (st.named.filter fun x => x.slot = n.slot) = [n] → n.excluded = none → n.noFrame = false →
            (s.slot n.slot.toNat).memBad = false → (s.slot n.slot.toNat).lost = false →
            (st.failCode n.slot ≠ none → (t.slot n.slot.toNat).delivered = (s.slot n.slot.toNat).delivered) ∧
            (st.failCode n.slot = none → ∀ m, m = (st.drawn n (s.req n.slot.toNat).stops).length →
              (t.slot n.slot.toNat).delivered =
                BitVec.ofNat 22 ((s.slot n.slot.toNat).delivered.toNat + m) ∧
              (∀ r i, (st.rowsOf n.slot).head? = some (r, i) → (t.slot n.slot.toNat).len =
                BitVec.ofNat 22 ((s.slot n.slot.toNat).len.toNat + if r.gen then m else n.rows))))

/-- A request delivers the accepted drafts and then one drawn token, cut after the first stop token. The tokens a
request delivers from a step are the first of its drawn tokens, at most one more than its drafts. Each of them but
the last equals the draft at its place and is no stop token. (R135, R134) -/
def Obligations.DeliveredTokensAreTheAcceptedDraftsAndOneMore : Prop :=
  ∀ (st : Step) (n : Named) (stops : List W),
    (st.drawn n stops).length ≤ n.drafts.length + 1 ∧
    (st.drawn n stops <+: (st.rowsOf n.slot).filterMap fun (r, i) =>
      if r.draws then r.result.map fun (t, p) => (t.toNat, p, i) else none) ∧
    ∀ k tok, k + 1 < (st.drawn n stops).length → (st.drawn n stops)[k]? = some tok →
      (n.drafts[k]?).map (·.toNat) = some tok.1 ∧ tok.1 ∉ stops.filterMap stopTok

/-- The tideline waits for a boundary, group words keep the share limit, the period halves, a switch takes the least
recently used entry. SCHED_TIDELINE_WRITE of a legal value stores it marked pending and leaves the value in force;
of EN with value 0 it only adds to ERR_COUNT. SCHED_GRP_WRITE of a legal word stores that group's word alone, and
the shares of the enabled latency-critical groups then sum to at most 256; of an illegal word it only adds to
ERR_COUNT. PERIOD_END before the period's length has run changes nothing; after it, the capacity and every group's
use are halved and a period begins. SWITCH of a loaded model that no entry holds, of which a job would be granted a
step but for the entry, fills a model entry that no step in flight uses, the one of these used least recently,
leaves the other entry alone, counts the switch and raises its event; where no entry is free it changes nothing.
(R197, R198, R199, R202, R205, 09_scheduling.md) -/
def Obligations.SchedulerSettingsAndPeriod : Prop :=
  (∀ (s : State) (v : W),
    (v.getLsbD 8 = true → bitsOf v 5 0 = 0 → completes (.schedTidelineWrite v) s fun t => t.regs = s.regs ∧
      sameHdrsBut [pgSched] s t ∧ ((s.hdr pgSched).err ≠ 0xFFFF#16 → (t.hdr pgSched).err = (s.hdr pgSched).err + 1#16)) ∧
    (¬(v.getLsbD 8 = true ∧ bitsOf v 5 0 = 0) → completes (.schedTidelineWrite v) s fun t =>
      t.rd pgSched 0x048 = (v &&& 0x33F#32) ||| 0x10000#32 ∧ sameRegsBut [regAt pgSched 0x048] s t ∧ t.hdrs = s.hdrs)) ∧
  (∀ (s : State) (g : BitVec 6) (v : W),
    (s.grpLegal g.toNat (v &&& 0x01FFFF03#32) = true → completes (.schedGrpWrite g v) s fun t =>
      t.grpWord g.toNat = v &&& 0x01FFFF03#32 ∧ sameRegsBut [regAt pgSched (0x100 + 4 * g.toNat)] s t ∧
      t.hdrs = s.hdrs ∧ ((List.range 64).map fun k => lcShare (t.grpWord k)).sum ≤ 256) ∧
    (s.grpLegal g.toNat (v &&& 0x01FFFF03#32) = false → completes (.schedGrpWrite g v) s fun t => t.regs = s.regs ∧
      sameHdrsBut [pgSched] s t ∧ ((s.hdr pgSched).err ≠ 0xFFFF#16 → (t.hdr pgSched).err = (s.hdr pgSched).err + 1#16))) ∧
  (∀ s : State,
    (s.lcount.toNat < s.periodAt.toNat + (s.rd pgSched 0x044).toNat → exec .periodEnd s = .next s) ∧
    (s.periodAt.toNat + (s.rd pgSched 0x044).toNat ≤ s.lcount.toNat → completes .periodEnd s fun t =>
      t.cap.toNat = s.cap.toNat / 2 ∧ t.periodAt = s.lcount ∧ ∀ g, t.usedOf g = s.usedOf g / 2)) ∧
  (∀ (s : State) (m : BitVec 8), s.resident m.toNat = false → (s.model m.toNat).loaded = true →
    (s.jobs.any fun (k, j) => j.model == m.toNat && s.turnOf k && s.wouldForm k) = true →
    ((∀ e ∈ s.modelRes, s.entryFree e = false) → exec (.modelSwitch m) s = .next s) ∧
    ((∃ e ∈ s.modelRes, s.entryFree e = true) → completes (.modelSwitch m) s fun t =>
      s.countedBy t pgSched 0x068 1 ∧ t.event pgSched 0 = true ∧ sameUnits s t ∧
      ∃ (i : Nat) (e : ModelRes), s.modelRes[i]? = some e ∧ s.entryFree e = true ∧
        (∀ (k : Nat) (x : ModelRes), s.modelRes[k]? = some x → s.entryFree x = true → e.used ≤ x.used) ∧
        t.modelRes = s.modelRes.set i { valid := true, model := m, used := s.lcount.toNat }))

/-- The tide table is read and committed through its image, slots begin in turn, and a window ends with its overrun
noted. TIDE_LOAD copies the addressed slot to the TIDE image registers. TIDE_COMMIT stores a legal image in the
addressed slot, leaving the other slots, and of an illegal image only adds to ERR_COUNT. SLOT_BEGIN changes nothing
before the slot in progress has run its duration or while TIDE is not RUNNING; then the next slot begins, the first
after the last of the cycle, at the count where the one before ended; it opens a window where it is valid and its
job is an open train-mode job, shortened by that job's debt, which falls by as much. WINDOW_END closes an open
window whose end has come, and notes that end, beside those noted before, as an overrun where forms of its job still
run. (R206, R207, R209, 09_scheduling.md) -/
def Obligations.TideTableAndWindows : Prop :=
  (∀ (s : State) (k : BitVec 12), completes (.tideLoad k) s fun t =>
    t.rd pgTide 0x048 = (s.tideSlot k.toNat).dur ∧ bitsOf (t.rd pgTide 0x04C) 7 0 = (s.tideSlot k.toNat).job.toNat ∧
    (t.rd pgTide 0x04C).getLsbD 8 = (s.tideSlot k.toNat).valid ∧
    bitsOf (t.rd pgTide 0x050) 19 0 = (s.tideSlot k.toNat).mask.toNat) ∧
  (∀ (s : State) (k : BitVec 12),
    (s.tideLegal s.tideImg = true → completes (.tideCommit k) s fun t => t.tideSlot k.toNat = s.tideImg ∧
      (∀ n, n ≠ k.toNat → t.tideSlot n = s.tideSlot n) ∧ t.hdrs = s.hdrs ∧ sameRegsBut [regAt pgTide 0x044] s t) ∧
    (s.tideLegal s.tideImg = false → completes (.tideCommit k) s fun t => t.tide = s.tide ∧ sameHdrsBut [pgTide] s t ∧
      ((s.hdr pgTide).err ≠ 0xFFFF#16 → (t.hdr pgTide).err = (s.hdr pgTide).err + 1#16))) ∧
  (∀ s : State,
    (s.running pgTide = false ∨ s.lcount.toNat < s.tideCur.start.toNat + s.tideCur.fields.dur.toNat →
      exec .slotBegin s = .next s) ∧
    (s.running pgTide = true → s.tideCur.start.toNat + s.tideCur.fields.dur.toNat ≤ s.lcount.toNat →
      ∀ (n : Nat) (x : TideSlot) (j : Job) (ok : Bool) (d : Nat),
        n = (if s.tideCur.slot.toNat + 1 < bitsOf (s.rd pgTide 0x040) 12 0 then s.tideCur.slot.toNat + 1 else 0) →
        x = s.tideSlot n → j = s.job x.job.toNat → ok = (x.valid && j.st == 1#2 && j.isTrain) →
        d = (if ok then min (tget 0 s.debt x.job.toNat) x.dur.toNat else 0) →
        completes .slotBegin s fun t => t.tideCur.slot = BitVec.ofNat 12 n ∧ t.tideCur.fields = { x with valid := ok } ∧
          t.tideCur.start.toNat = s.tideCur.start.toNat + s.tideCur.fields.dur.toNat ∧ t.tideCur.deduct = d ∧
          (t.tideCur.windowOpen = true ↔ ok = true ∧ d < x.dur.toNat) ∧ sameUnits s t ∧
          tget 0 t.debt x.job.toNat = tget 0 s.debt x.job.toNat - d ∧
          (∀ k, k ≠ x.job.toNat → tget 0 t.debt k = tget 0 s.debt k) ∧
          (n = 0 → s.countedBy t pgTide 0x060 1 ∧ t.event pgTide 1 = true) ∧
          (n ≠ 0 → t.hdrs = s.hdrs ∧ t.ctrs = s.ctrs))) ∧
  (∀ s : State, s.windowEndAt ≤ s.lcount.toNat → s.tideCur.windowOpen = true →
    completes .windowEnd s fun t => t.tideCur = { s.tideCur with windowOpen := false } ∧
      t.overruns = s.overruns ++
        if (s.forms.any fun (_, f) => f.job == some s.tideCur.fields.job && !f.waiting) = true
        then [(s.tideCur.fields.job.toNat, BitVec.ofNat 64 s.windowEndAt)] else [])

/-- TAKE and RELEASE report the first failing check's code, and mark or free the entry when none fails. TAKE and
RELEASE of a job and an adapter put the command's code in TRAIN_ARESULT. With code 0, TAKE marks the entry as held
for training by the job and RELEASE frees it of the mark, its other fields and every other entry kept; with any
other code no entry changes. RETRY of a stuck job clears STUCK and the count of aborted attempts, and of any other
job only adds to ERR_COUNT. (R220, R239, 10_training.md) -/
def Obligations.TrainingTakesAndReleasesAdapters : Prop :=
  (∀ (s : State) (job : BitVec 8) (a : BitVec 16) (c : Instr) (op : Nat) (e : DirEntry),
    (c = .trainTake job a ∧ op = 1 ∧ e = { s.entry a.toNat with trained := true, trainJob := job } ∨
      c = .trainRelease job a ∧ op = 2 ∧ e = { s.entry a.toNat with trained := false, trainJob := 0#8 }) →
    completes c s fun t => bitsOf (t.rd pgTrain 0x044) 4 0 = s.acmdCode job.toNat a.toNat op ∧
      sameRegsBut [regAt pgTrain 0x040, regAt pgTrain 0x044] s t ∧
      (s.acmdCode job.toNat a.toNat op = 0 → t.entry a.toNat = e ∧ ∀ k, k ≠ a.toNat → t.entry k = s.entry k) ∧
      (s.acmdCode job.toNat a.toNat op ≠ 0 → t.dir = s.dir)) ∧
  (∀ (s : State) (job : BitVec 8),
    ((s.job job.toNat).train.stuck = true → completes (.trainRetry job) s fun t => t.hdrs = s.hdrs ∧
      t.job job.toNat = { s.job job.toNat with train := { (s.job job.toNat).train with stuck := false, attempt := 0#4 } } ∧
      ∀ k, k ≠ job.toNat → t.job k = s.job k) ∧
    ((s.job job.toNat).train.stuck = false → completes (.trainRetry job) s fun t => t.jobs = s.jobs ∧
      sameHdrsBut [pgTrain] s t ∧
      ((s.hdr pgTrain).err ≠ 0xFFFF#16 → (t.hdr pgTrain).err = (s.hdr pgTrain).err + 1#16)))

/-- A train attempt's exchange begins with the bitmap, takes each result in order, and ends with the last adapter's
sum. For a train-mode attempt whose backward pass has ended, COLLECTIVE_DONE 0 begins the exchange. When the
collective that is next in order has everything it needs, COLLECTIVE_DONE takes its result: the first gives the
update set, the second the sum of valid rows, each later one the summed gradient of an adapter of the update set;
the exchange has ended exactly when a sum has been taken for each. Of a serve-mode job, COLLECTIVE_DONE gives the
formation record its result; of a sharded step it takes the gather next in order, once every rank's contribution has
landed: the gather's turn passes, and a row with a status word other than 0 from some rank has failed. When the
exchange begins and how COLL numbers run is the model's choice (log 51), as are how a gather starts, its number and
its layout (logs 32, 152). A collective that has run LINK_COLL_TIMEOUT fails, is counted and raises its event: a
train-mode job's attempt in flight is marked LINK_FAIL, and every row of a serve-mode job's step fails. (R231, R246,
R298, R301, R303) -/
def Obligations.ExchangeCollectivesAreTakenInOrder : Prop :=
  (∀ (s : State) (job c : BitVec 8) (st : Step), (s.job job.toNat).isTrain = true → (s.job job.toNat).cur = some st →
    (s.job job.toNat).train.exchDone = false → (s.job job.toNat).train.linkFail = false →
    ((s.job job.toNat).train.exch = 0 → c = 0#8 → s.backDone job.toNat st = true →
      s.coll? job.toNat (st.num.setWidth 32) st.attempt 0 = none →
      completes (.collectiveDone job c) s fun t => (t.job job.toNat).train.phase = 3#3 ∧
        (t.job job.toNat).train.exch ≤ 1 ∧ ∀ k, k ≠ job.toNat → t.job k = s.job k) ∧
    ∀ v b, c.toNat = collNum (s.job job.toNat).train.exch →
      s.coll? job.toNat (st.num.setWidth 32) st.attempt c.toNat = some v → v.started = true → v.result = none →
      s.collResult v = some b →
      completes (.collectiveDone job c) s fun t => (t.job job.toNat).train.exch = (s.job job.toNat).train.exch + 1 ∧
        (∀ k, k ≠ job.toNat → t.job k = s.job k) ∧
        ((t.job job.toNat).train.exchDone = true ↔
          2 ≤ (t.job job.toNat).train.exch ∧ (t.job job.toNat).train.exch = 2 + (t.job job.toNat).train.updSet.length) ∧
        ((s.job job.toNat).train.exch = 0 → (t.job job.toNat).train.updSet = (fromBitmaps b).map (BitVec.ofNat 16)) ∧
        ((s.job job.toNat).train.exch = 1 → (t.job job.toNat).train.nvalidSum = ofLe b) ∧
        ∀ a, 2 ≤ (s.job job.toNat).train.exch →
          (s.job job.toNat).train.updSet[(s.job job.toNat).train.exch - 2]? = some a →
          tget? (t.job job.toNat).train.sums a.toNat = some (if (s.job job.toNat).pooled
            then (wordsOf b).map (ofPool (bitsOf (s.poolCfg (s.job job.toNat).circ) 13 8)) else wordsOf b)) ∧
  (∀ (s : State) (job c : BitVec 8) (num : BitVec 64) (att : BitVec 4) (v : Coll), s.stepKey job.toNat = (num, att) →
    s.coll? job.toNat (num.setWidth 32) att c.toNat = some v → v.result = none →
    ((s.job job.toNat).isTrain = false → (c = 0#8 ∨ s.sharded job.toNat = false ∨ (s.job job.toNat).cur = none) →
      ∀ b, s.collResult v = some b →
      completes (.collectiveDone job c) s fun t => t.jobs = s.jobs ∧
        t.coll? job.toNat (num.setWidth 32) att c.toNat = some { v with result := some b }) ∧
    (v.started = true → v.failed = false →
      v.startAt.toNat + (s.rd (pgLink 0) 0x088).toNat ≤ s.lcount.toNat →
      completes (.linkCollTimeout job c) s fun t => s.countedBy t (pgLink 0) 0x300 1 ∧ t.event (pgLink 0) 8 = true ∧
        sameUnits s t ∧ t.coll? job.toNat (num.setWidth 32) att c.toNat = some { v with failed := true } ∧
        ((s.job job.toNat).isTrain = true → (s.job job.toNat).cur.isSome = true → t.job job.toNat =
          { s.job job.toNat with train := { (s.job job.toNat).train with linkFail := true } }) ∧
        ∀ st, (s.job job.toNat).isTrain = false → (s.job job.toNat).cur = some st → st.rows ≠ [] →
          (t.job job.toNat).cur = some (st.failRows (List.range st.rows.length) cForm))) ∧
  (∀ (s : State) (job c : BitVec 8) (st : Step) (layer kind : Nat), (s.job job.toNat).isTrain = false →
    (s.job job.toNat).cur = some st → s.sharded job.toNat = true → c ≠ 0#8 →
    (s.desc st.model.toNat).gatherOf st.gathered = some (layer, kind) →
    (c.toNat ≠ gatherNum st.gathered → exec (.collectiveDone job c) s = .next s) ∧
    ∀ v, c.toNat = gatherNum st.gathered → s.coll? job.toNat (st.num.setWidth 32) st.attempt c.toNat = some v →
      v.started = true →
      (v.failed = false → s.gatherRows job.toNat st layer kind v = none → exec (.collectiveDone job c) s = .next s) ∧
      (v.failed = true ∨ (s.gatherRows job.toNat st layer kind v).isSome = true →
        completes (.collectiveDone job c) s fun t => (∀ k, k ≠ job.toNat → t.job k = s.job k) ∧
          t.colls = s.colls.erase v ∧ ∃ st', (t.job job.toNat).cur = some st' ∧ st'.gathered = st.gathered + 1 ∧
            ∀ rs, v.failed = false → s.gatherRows job.toNat st layer kind v = some rs →
              ∀ i, i < st.rows.length → (∃ r ∈ rs, (r.getD i (0, [])).1 ≠ 0) → (st'.row i).fails ≠ []))

/-- GRAD sends an adapter's gradient and END; WRITE and ACK are taken for an outstanding update, and discarded
otherwise. GRAD of an adapter of the update set that is next in order, with its idle slot unpinned, sends GRAD
messages and then one END, all for that adapter, and waits for its ACK from this local count. On a part with the
port, a WRITE for an update whose END is outstanding, in error or not, with elements in range and not yet written
records them, leaves the error as it stands and changes no byte outside the blocks they meet; one with an element
out of range or written before puts the update in error and changes no memory; one with an illegal header (N of 0 or
above 32: log 57), or for no outstanding update (of another PARITY: log 58), is discarded and counted. An ACK of the
attempt ends the wait and records whether the update is whole and reported good, an error recorded before it
standing; an ACK of another step or attempt is discarded and counted (log 175). Logs 57, 58 and 175 are the model's
choices. A part without the port takes neither message and counts none. An update not acknowledged within its
timeout is in error. Other jobs are unchanged. (R232, R233, R391) -/
def Obligations.UpdatePortMessages : Prop :=
  (∀ (s : State) (job : BitVec 8) (a : BitVec 16) (st : Step), (s.job job.toNat).cur = some st →
    (s.job job.toNat).isTrain = true → (s.job job.toNat).train.exchDone = true →
    (s.job job.toNat).train.linkFail = false → (s.job job.toNat).train.upd? a.toNat = none →
    a ∈ (s.job job.toNat).train.updSet →
    (∀ x ∈ (s.job job.toNat).train.updSet, x.toNat < a.toNat → ((s.job job.toNat).train.upd? x.toNat).isSome = true) →
    (s.entry a.toNat).idlePin = 0#16 →
    completes (.updGrad job a) s fun t => (∀ k, k ≠ job.toNat → t.job k = s.job k) ∧
      (t.job job.toNat).train.upd? a.toNat =
        some { adapter := a, sent := true, endAt := s.lcount, nelem := s.nelem a.toNat } ∧
      ∃ ms e, t.updOut = s.updOut ++ ms ++ [e] ∧ bitsOf e.hdr 2 0 = 1 ∧ bitsOf e.hdr 18 3 = a.toNat ∧
        ∀ m ∈ ms, bitsOf m.hdr 2 0 = 0 ∧ bitsOf m.hdr 18 3 = a.toNat) ∧
  (∀ (s : State) (h : BitVec 256) (x : BitVec 1024), s.part.hasTrain = true →
    bitsOf h 2 0 = 2 → bitsOf h 255 199 = 0 → 1 ≤ bitsOf h 125 120 → bitsOf h 125 120 ≤ 32 →
    (∀ jn st u, s.updFor (bitsOf h 18 3) (bitsOf h 83 83) = some (jn, st, u) →
      (bitsOf h 119 88 + bitsOf h 125 120 ≤ u.nelem →
        (∀ i, i < bitsOf h 125 120 → tget? u.written (bitsOf h 119 88 + i) = none) →
        (s.entry (bitsOf h 18 3)).fmt.toNat ∈ [2, 3, 4, 5, 6] → Memory.wf s.mem = true →
        completes (.updWrite h x) s fun t => (∀ k, k ≠ jn → t.job k = s.job k) ∧
          (∃ u', (t.job jn).train.upd? (bitsOf h 18 3) = some u' ∧ u'.ack = u.ack ∧ u'.acked = u.acked ∧ u'.nelem = u.nelem ∧
            ∀ e, tget? u'.written e = if bitsOf h 119 88 ≤ e ∧ e < bitsOf h 119 88 + bitsOf h 125 120
              then some ((x >>> (32 * (e - bitsOf h 119 88))).setWidth 32) else tget? u.written e) ∧
          ∀ y, (∀ r c n, (r, c, n) ∈ blocksMeeting (s.rowsOfSlot (bitsOf h 18 3)) (bitsOf h 119 88)
              (bitsOf h 119 88 + bitsOf h 125 120) → ¬ s.inBlock (bitsOf h 18 3) r c n y) → mget t.mem y = mget s.mem y) ∧
      (u.nelem < bitsOf h 119 88 + bitsOf h 125 120 ∨
        (∃ i, i < bitsOf h 125 120 ∧ (tget? u.written (bitsOf h 119 88 + i)).isSome = true) →
        completes (.updWrite h x) s fun t => t.mem = s.mem ∧ (∀ k, k ≠ jn → t.job k = s.job k) ∧
          (t.job jn).train.upd? (bitsOf h 18 3) = some { u with ack := some false })) ∧
    (s.updFor (bitsOf h 18 3) (bitsOf h 83 83) = none →
      completes (.updWrite h x) s fun t => t.mem = s.mem ∧ t.jobs = s.jobs ∧ s.countedBy t pgTrain 0x220 1)) ∧
  (∀ (s : State) (h : BitVec 256) (x : BitVec 1024), s.part.hasTrain = false →
    exec (.updWrite h x) s = .next s ∧ exec (.updAck h) s = .next s) ∧
  (∀ (s : State) (h : BitVec 256) (x : BitVec 1024), s.part.hasTrain = true →
    bitsOf h 2 0 ≠ 2 ∨ bitsOf h 255 199 ≠ 0 ∨ bitsOf h 125 120 = 0 ∨ 32 < bitsOf h 125 120 →
    completes (.updWrite h x) s fun t => t.mem = s.mem ∧ t.jobs = s.jobs ∧ s.countedBy t pgTrain 0x220 1) ∧
  (∀ (s : State) (h : BitVec 256) (jn : Nat) (st : Step) (u : Upd), s.part.hasTrain = true →
    s.updFor (bitsOf h 18 3) (bitsOf h 83 83) = some (jn, st, u) → bitsOf h 2 0 = 3 → bitsOf h 255 199 = 0 →
    (bitsOf h 82 19 = st.num.toNat → bitsOf h 87 84 = st.attempt.toNat →
      completes (.updAck h) s fun t => t.ctrs = s.ctrs ∧ (∀ k, k ≠ jn → t.job k = s.job k) ∧
        (t.job jn).train.upd? (bitsOf h 18 3) =
          some { u with
            acked := true
            ack := some (u.ack != some false && decide (bitsOf h 198 198 = 0) && decide (u.written.length = u.nelem)) }) ∧
    (bitsOf h 82 19 ≠ st.num.toNat ∨ bitsOf h 87 84 ≠ st.attempt.toNat →
      completes (.updAck h) s fun t => t.jobs = s.jobs ∧ s.countedBy t pgTrain 0x220 1)) ∧
  (∀ (s : State) (job : BitVec 8) (a : BitVec 16) (st : Step) (u : Upd), (s.job job.toNat).cur = some st →
    (s.job job.toNat).train.upd? a.toNat = some u → u.sent = true → u.ack = none →
    u.endAt.toNat + (s.rd pgTrain 0x05C).toNat ≤ s.lcount.toNat →
    completes (.trainUpdTimeout job a) s fun t => (∀ k, k ≠ job.toNat → t.job k = s.job k) ∧
      (t.job job.toNat).train.upd? a.toNat = some { u with ack := some false })

/-- A device votes once, rank 0 decides, every device applies the decision, and an in-doubt device asks or is
resolved. VOTE of a train attempt that may be voted on, its backward pass ended: a lone device applies its own vote;
a device that is not rank 0 applies ABORT at once where its vote has a reason, else records its vote, sends it and
waits. Rank 0 joins votes to those it holds, by VOTE for its own and VOTE_FRAME for another's, and applies the
decision they give once it has voted. TRAIN_VOTE_TIMEOUT makes rank 0 apply ABORT. DECISION of the attempt in flight
is applied by a device that has voted; of a step or attempt that has ended it is discarded and counted.
TRAIN_DECIDE_TIMEOUT makes a device that voted READY in doubt, counted with its event. ASK is taken off the
messages. TRAIN_RESOLVE applies the host's decision on an in-doubt device, and elsewhere only adds to ERR_COUNT.
What applying a decision does is what decisionApplied says: a commit flips each updated adapter that is READY,
advances its POSTMARK and clears its RANKORD. (R234, R235, R236, R237, R238, R239, R240, R297, R302) -/
def Obligations.VotesDecisionsAndInDoubtDevices : Prop :=
  ∀ (s : State) (job : BitVec 8) (jn : Nat) (st : Step) (j : Job), jn = job.toNat → j = s.job jn → j.cur = some st →
    (j.isTrain = true → j.train.mayVote = true → s.backDone jn st = true →
      (j.ndev = 1 → completes (.vote job) s fun t =>
        s.decisionApplied t jn st { commit := s.voteReasons jn st = 0#8, reasons := s.voteReasons jn st }) ∧
      (j.ndev ≠ 1 → j.rank ≠ 0 → s.voteReasons jn st ≠ 0#8 → completes (.vote job) s fun t =>
        s.decisionApplied t jn st { commit := false, reasons := s.voteReasons jn st }) ∧
      (j.ndev ≠ 1 → j.rank ≠ 0 → s.voteReasons jn st = 0#8 → completes (.vote job) s fun t =>
        t.job jn = { j with cur := some { st with st := .voting }, train := { j.train with
          myVote := some { rank := BitVec.ofNat 10 j.rank, nan := j.train.nanFlag, reasons := 0#8 },
          voteAt := s.lcount, phase := 5#3 } } ∧
        (∀ k, k ≠ jn → t.job k = s.job k) ∧ t.slots = s.slots ∧ t.dir = s.dir ∧ t.updOut = s.updOut ∧ t.mem = s.mem) ∧
      ∀ v vs, v = VoteRec.mk (BitVec.ofNat 10 j.rank) j.train.nanFlag (s.voteReasons jn st) →
        vs = j.train.votes.filter (fun x => x.rank ≠ v.rank) ++ [v] → j.ndev ≠ 1 → j.rank = 0 → j.train.decided = none →
        (∀ d, ({ j.train with votes := vs } : Train).verdict j.ndev = some d →
          completes (.vote job) s fun t => s.decisionApplied t jn st d) ∧
        (({ j.train with votes := vs } : Train).verdict j.ndev = none → completes (.vote job) s fun t =>
          (t.job jn).train.votes = vs ∧ (t.job jn).train.myVote = some v ∧ t.slots = s.slots ∧ t.dir = s.dir)) ∧
    (∀ m v vs, s.ctrlIn.find? (fun m => m.job.toNat = jn && m.msg.isVote && !s.ctrlWaits jn m) = some m →
      m.msg = .vote v → m.current st = true → j.isTrain = true → j.rank = 0 → j.train.decided = none →
      vs = j.train.votes.filter (fun x => x.rank ≠ v.rank) ++ [v] →
      (∀ d, ({ j.train with votes := vs } : Train).verdict j.ndev = some d → j.train.myVote.isSome = true →
        completes (.voteFrame job) s fun t => t.ctrlIn = s.ctrlIn.erase m ∧ s.decisionApplied t jn st d) ∧
      (({ j.train with votes := vs } : Train).verdict j.ndev = none → completes (.voteFrame job) s fun t =>
        t.ctrlIn = s.ctrlIn.erase m ∧ t.job jn = { j with train := { j.train with votes := vs } } ∧
        (∀ k, k ≠ jn → t.job k = s.job k) ∧ t.slots = s.slots ∧ t.dir = s.dir)) ∧
    (j.isTrain = true → 1 < j.ndev → j.rank = 0 → j.train.myVote.isSome = true →
      j.train.voteAt.toNat + (s.rd pgTrain 0x054).toNat ≤ s.lcount.toNat →
      completes (.trainVoteTimeout job) s fun t => ∃ r, s.decisionApplied t jn st { commit := false, reasons := r }) ∧
    (∀ m d, s.ctrlIn.find? (fun m => m.job.toNat = jn && m.msg.isDecision && !s.ctrlWaits jn m) = some m →
      m.msg = .decision d →
      (m.current st = true → j.train.myVote.isSome = true →
        completes (.decision job) s fun t => t.ctrlIn = s.ctrlIn.erase m ∧ s.decisionApplied t jn st d) ∧
      (m.current st = false → completes (.decision job) s fun t => t.ctrlIn = s.ctrlIn.erase m ∧ t.jobs = s.jobs ∧
        t.dir = s.dir ∧ t.slots = s.slots ∧ s.countedBy t (pgLink m.port.toNat) 0x220 1)) ∧
    (∀ v, j.train.myVote = some v → v.reasons = 0#8 → j.train.phase ≠ 6#3 →
      j.train.voteAt.toNat + (s.rd pgTrain 0x058).toNat ≤ s.lcount.toNat →
      completes (.trainDecideTimeout job) s fun t => s.countedBy t pgTrain 0x218 1 ∧ t.event pgTrain 2 = true ∧
        t.job jn = { j with train := { j.train with askAt := s.lcount, phase := 6#3 } } ∧
        ∀ k, k ≠ jn → t.job k = s.job k) ∧
    (∀ m, s.ctrlIn.find? (fun m => m.job.toNat = jn && m.msg.isAsk) = some m →
      completes (.ask job) s fun t => t.ctrlIn = s.ctrlIn.erase m ∧ t.jobs = s.jobs) ∧
    ∀ c commit, (c = Instr.resolveCommit job ∧ commit = true ∨ c = Instr.resolveAbort job ∧ commit = false) →
      (j.train.phase = 6#3 → completes c s fun t => s.decisionApplied t jn st { commit := commit, reasons := 0#8 }) ∧
      (j.train.phase ≠ 6#3 → completes c s fun t => t.jobs = s.jobs ∧ t.slots = s.slots ∧ t.dir = s.dir ∧
        sameHdrsBut [pgTrain] s t ∧
        ((s.hdr pgTrain).err ≠ 0xFFFF#16 → (t.hdr pgTrain).err = (s.hdr pgTrain).err + 1#16))

/-- Each base command reports the first failing check's code; with code 0 it starts, goes on, goes back or unloads,
and else changes nothing. LOAD, REPLACE, RETRY, ROLLBACK and UNLOAD put their code in INTAKE_MCMD. With a code other
than 0 the wavefront and the models are unchanged. With code 0: LOAD and REPLACE start a wavefront in CHECKING for
the model, from the host address in INTAKE_MSRC; RETRY makes the stalled wavefront advance again; ROLLBACK makes it
check the old generation's part 0; UNLOAD forgets the model and every model entry that holds it, and other models
stand. ADAPTER_INTAKE reports its code too, and with code 0 puts a waiting intake of the adapter last in the queue.
(R258, R259, R263, R264, 11_weight_intake.md) -/
def Obligations.IntakeCommandsReportTheirCode : Prop :=
  (∀ (s : State) (m : BitVec 8) (c : Instr) (code : Nat),
    (∃ tr, c = .intakeLoad m tr ∧ code = s.loadCode m.toNat) ∨ c = .intakeReplace m ∧ code = s.replaceCode m.toNat ∨
      c = .wfRetry ∧ code = (if !s.running pgIntake then rDisabled else if s.wf.st ≠ .stalled then rBadState else 0) ∨
      c = .wfRollback ∧ code = (if !s.running pgIntake then rDisabled
        else if s.wf.st ≠ .stalled ∨ s.wf.op = .load ∨ s.wf.rollback then rBadState else 0) ∨
      c = .intakeUnload m ∧ code = s.unloadCode m.toNat →
    completes c s fun t => bitsOf (t.rd pgIntake 0x040) 15 12 = code ∧ sameRegsBut [regAt pgIntake 0x040] s t ∧
      (code ≠ 0 → t.wf = s.wf ∧ t.models = s.models ∧ t.modelRes = s.modelRes ∧ t.hostReads = s.hostReads) ∧
      (code = 0 →
        (∀ tr, c = .intakeLoad m tr → t.models = s.models ∧ t.wf =
          { st := .checking, op := .load, model := m, transpose := tr, src := s.msrc, fault := s.wf.fault,
            dst := BitVec.ofNat 28 (bitsOf (s.rd pgIntake 0x058) 27 0), units := s.rd pgIntake 0x05C }) ∧
        (c = .intakeReplace m → t.models = s.models ∧ t.wf =
          { st := .checking, op := .replace, model := m, transpose := (s.model m.toNat).transposed, src := s.msrc,
            dst := (s.model m.toNat).dst, units := (s.model m.toNat).units, fault := s.wf.fault }) ∧
        (c = .wfRetry → t.models = s.models ∧ t.wf = { s.wf with
          st := .advancing, missing := 0, memErr := 0, memErr1 := 0, got := 0 }) ∧
        (c = .wfRollback → t.models = s.models ∧ t.wf = { s.wf with
          st := .checking, rollback := true, next := s.msrc, missing := 0, memErr := 0, memErr1 := 0, got := 0 }) ∧
        (c = .intakeUnload m → t.model m.toNat = {} ∧ (∀ k, k ≠ m.toNat → t.model k = s.model k) ∧ t.wf.st = .idle ∧
          ∀ e ∈ t.modelRes, e.valid = true → e.model ≠ m))) ∧
  (∀ (s : State) (a : BitVec 16), completes (.adapterIntake a) s fun t =>
    bitsOf (t.rd pgIntake 0x080) 19 16 = s.adapterCode a.toNat ∧ sameRegsBut [regAt pgIntake 0x080] s t ∧
    (s.adapterCode a.toNat ≠ 0 → t.intakes = s.intakes) ∧
    (s.adapterCode a.toNat = 0 → ∃ i, t.intakes = s.intakes ++ [i] ∧ i.adapter = a ∧ i.running = false ∧ i.stopped = false ∧
      i.src = BitVec.ofNat 64 (s.rd64 pgIntake 0x084)))

/-- The wavefront passes or fails its check, prepares stations, copies them in order, and finishes with the model
loaded. Once every read of the check has been answered, PART0_CHECKED of a good part 0 makes the wavefront advance
from station 0 with the new generation in force, or with the generations exchanged in a rollback; of a bad one it
records the reason and raises CHECK_FAIL. Once every read for the next station has been answered, STATION_PREPARED
puts its bytes in its place and writes no other byte of the stacks; a station W that cannot be prepared, or whose
reads failed for good, stalls the wavefront with its reason, a later one leaves it (log 61). STATION_COPY of the
prepared station W, once no old step has it still to run, advances W, or finishes after the last; in REPLACE and
rollback it moves its bytes and writes nothing outside their place, in LOAD, which prepared it there, it moves none
(log 63). WF_FINISHED makes the model loaded, the wavefront idle, and removes the model's prefix ways of other
generations. A read of the wavefront that times out is read again up to the limit, then fails the check, or stalls
the wavefront whose station W is not yet prepared, as MISSING; one of an adapter intake ends that intake with a
queued fault. Which parts a station's reads go over is log 149; logs 61, 63 and 149 are the model's choices. (R260,
R261, R262, R263, R264, R266, R164) -/
def Obligations.WavefrontChecksPreparesCopiesAndFinishes : Prop :=
  (∀ s : State, s.wf.st = .checking → s.waveRead = true →
    (∀ r, s.checkPart0 = .error r → completes .part0Checked s fun t => t.event pgIntake 3 = true ∧ t.models = s.models ∧
      t.jobs = s.jobs ∧ t.ctrs = s.ctrs ∧ t.wf = { s.wf with
        st := if s.wf.rollback then .stalled else .idle, rollback := false, got := 0, fault := BitVec.ofNat 4 r }) ∧
    (∀ p, s.checkPart0 = .ok p → completes .part0Checked s fun t => t.wf.st = .advancing ∧ t.wf.w = 0#8 ∧
      (∀ k, k ≠ s.wf.model.toNat → t.model k = s.model k) ∧
      (s.wf.rollback = false → t.jobs = s.jobs ∧ (t.model s.wf.model.toNat).gen = p.gen ∧ t.wf.gen = p.gen ∧
        (s.wf.op ≠ .load → (t.model s.wf.model.toNat).genPrev = (s.model s.wf.model.toNat).gen) ∧
        t.wf.stop = (decodeDesc p.desc).layers + 1) ∧
      (s.wf.rollback = true → (t.model s.wf.model.toNat).gen = (s.model s.wf.model.toNat).genPrev ∧
        (t.model s.wf.model.toNat).genPrev = (s.model s.wf.model.toNat).gen ∧ t.wf.stop = s.wf.w.toNat - 1))) ∧
  (∀ (s : State) (k : Nat) (m : ModelDesc) (x : Fetched Prepared), s.wf.st = .advancing → s.running pgIntake = true →
    s.wf.nextStation = some k → s.wf.errs k < 2 → s.wf.missing ≤ s.intakeRetry →
    m = decodeDesc (s.model s.wf.model.toNat).desc → x = s.prepare s.wavePart0 s.wf.src.toNat m s.wf.transpose k →
    (k = s.wf.w.toNat → completes (.stationPrepared 1#4) s fun t => t.event pgIntake 1 = true ∧ t.mem = s.mem ∧
      t.wf = { s.wf with st := .stalled, fault := 1#4 }) ∧
    (∀ f r, x = .error r → f ≠ 1#4 → s.waveRead = true → completes (.stationPrepared f) s fun t => t.mem = s.mem ∧
      t.models = s.models ∧ (k = s.wf.w.toNat → t.event pgIntake 1 = true ∧
        t.wf = { s.wf with st := .stalled, fault := BitVec.ofNat 4 r }) ∧ (k ≠ s.wf.w.toNat → t.wf = s.wf)) ∧
    (∀ p, x = .ok p → s.waveRead = true → Memory.wf s.mem = true →
      (s.poke kBase none (s.stationAt m k) p.image).2 = false →
      completes (.stationPrepared 0#4) s fun t => t.wf.buf k = some k ∧ t.wf.w = s.wf.w ∧ t.wf.st = .advancing ∧
        (∀ j, j ≠ s.wf.model.toNat → t.model j = s.model j) ∧
        t.mem = (s.poke kBase none (s.stationAt m k) p.image).1.mem ∧
        ∀ y, (y < s.stationAt m k / 16 * 16 ∨ (s.stationAt m k + p.image.length + 15) / 16 * 16 ≤ y) →
          mget t.mem y = mget s.mem y)) ∧
  (∀ (s : State) (k n a : Nat) (m : ModelDesc) (r : MemRes), k = s.wf.w.toNat → n = s.wf.model.toNat →
    m = decodeDesc (s.model n).desc → a = s.wf.dst.toNat * 4096 + s.stationOff m s.wf.transpose k →
    r = s.peek kBase none (s.stationAt m k) (s.stationBytes m s.wf.transpose k) →
    s.wf.st = .advancing → (s.running pgIntake = true ∨ s.unit pgIntake = .draining) → s.wf.buf k = some k →
    s.oldPassed n (s.model n).gen m.layers k = true → s.wf.errs (k + 1) < 2 → s.wf.missing ≤ s.intakeRetry →
    r.unc = false → (s.poke kBase none a r.data).2 = false → Memory.wf s.mem = true →
    completes .stationCopy s fun t => t.wf.w = s.wf.w + 1#8 ∧ t.wf.buf k = none ∧
      t.wf.st = (if k = s.wf.stop then .finishing else .advancing) ∧ s.countedBy t pgIntake 0x218 1 ∧
      (∀ j, j ≠ n → t.model j = s.model j) ∧ (s.wf.op = .load → t.mem = s.mem) ∧
      (s.wf.op ≠ .load → t.mem = (s.poke kBase none a r.data).1.mem) ∧
      ∀ y, (y < a / 16 * 16 ∨ (a + r.data.length + 15) / 16 * 16 ≤ y) → mget t.mem y = mget s.mem y) ∧
  (∀ s : State, s.wf.st = .finishing → completes .wfFinished s fun t => t.wf = { s.wf with st := .idle, rollback := false } ∧
    t.event pgIntake 0 = true ∧ (t.model s.wf.model.toNat) = { s.model s.wf.model.toNat with loaded := true } ∧
    (∀ k, k ≠ s.wf.model.toNat → t.model k = s.model k) ∧
    ∀ k x, (k, x) ∈ t.prefixes → x.model = s.wf.model → x.gen = (s.model s.wf.model.toNat).gen) ∧
  (∀ (s : State) (tag : Nat) (r : HostRead), s.intakeLate = some (tag, r) →
    (r.use = .intake → s.wf.missing + 1 ≤ s.intakeRetry → completes .intakeReadTimeout s fun t =>
      s.countedBy t pgIntake 0x210 1 ∧ t.wf = { s.wf with missing := s.wf.missing + 1 }) ∧
    (r.use = .intake → s.intakeRetry < s.wf.missing + 1 → completes .intakeReadTimeout s fun t =>
      (s.readQ = [] → t.hostReads = tdel s.hostReads tag) ∧
      (s.wf.st = .advancing → s.wf.buf s.wf.w.toNat ≠ some s.wf.w.toNat → s.wf.errs s.wf.w.toNat < 2 →
        t.wf.st = .stalled ∧ t.wf.fault = 1#4 ∧ t.event pgIntake 1 = true) ∧
      (s.wf.st = .checking → t.wf.st = (if s.wf.rollback then .stalled else .idle) ∧ t.wf.fault = 1#4 ∧
        t.event pgIntake 3 = true)) ∧
    (∀ a, r.use = .adapter a → (s.intakes.any fun i => i.adapter = a && i.running && !i.stopped) = true →
      completes .intakeReadTimeout s fun t => (s.readQ = [] → t.hostReads = tdel s.hostReads tag) ∧ t.wf = s.wf ∧
        t.intakes = dropIntake s.intakes a ∧ t.event pgDir 2 = true ∧ t.event pgIntake 2 = true))

/-- The oldest waiting intake starts while fewer than four run; an intake ends with its slot filled or with a queued
fault. INTAKE_START makes the oldest waiting intake run where fewer than four run and the unit is RUNNING.
INTAKE_COMPLETE of a running intake that was not stopped, once all its reads have been answered: where the container
is good and its slot unpinned and writable, the slot's bytes are written, no other byte of the stacks changes, the
entry goes on to READY or STAGED and no other entry changes; where it is bad, or a read of it failed for good
(MISSING), the entry stays, both fault events are raised and the adapter with the reason is queued while the queue
holds fewer than 64; a container whose CMAC failed counts SEC_CMACFAIL and raises its event. While a read is still
to be answered, INTAKE_COMPLETE with neither code changes nothing. A stopped intake is only dropped. AFAULTQ_LO_READ
latches the oldest record and returns its adapter; AFAULTQ_HI_READ returns the latched record's reason with VALID,
and after LO pops that record. (R258, R266, R272, R318, 03_adapter_directory.md) -/
def Obligations.AdapterIntakesRunCompleteAndFault : Prop :=
  (∀ (s : State) (pre post : List AIntake) (i : AIntake), s.running pgIntake = true →
    s.intakes.filter (fun i => i.running || !i.stopped) = pre ++ i :: post → (∀ x ∈ pre, x.running = true) →
    i.running = false → ((pre ++ post).filter (·.running)).length < 4 →
    completes .intakeStart s fun t => t.intakes = pre ++ { i with running := true } :: post) ∧
  (∀ (s : State) (a : BitVec 16) (code : BitVec 4) (i : AIntake),
    s.intakes.find? (fun i => i.adapter = a && i.running) = some i → i.stopped = true →
    completes (.intakeComplete a code) s fun t => t.intakes = dropIntake s.intakes a ∧
      t.dir = s.dir ∧ t.mem = s.mem ∧ t.afaultq = s.afaultq) ∧
  (∀ (s : State) (a : BitVec 16) (i : AIntake) (e : DirEntry) (x : Fetched (List Byte)),
    s.intakes.find? (fun i => i.adapter = a && i.running) = some i → e = s.entry a.toNat → i.stopped = false →
    (e.st = .loading ∨ e.st = .staging) → x = s.adapterSlot e i.src.toNat →
    (s.reading (.adapter a) = true ∨ i.got < (s.adapterPieces i).length → exec (.intakeComplete a 0#4) s = .next s) ∧
    (∀ b, s.reading (.adapter a) = false → (s.adapterPieces i).length ≤ i.got → x = .ok b → i.memErr = false →
      e.intakePin = 0#16 → Memory.wf s.mem = true → (s.poke kAdapter none e.intakeSlot b).2 = false →
      completes (.intakeComplete a 0#4) s fun t => t.intakes = dropIntake s.intakes a ∧
        t.entry a.toNat = e.intakeDone true ∧ (∀ k, k ≠ a.toNat → t.entry k = s.entry k) ∧ t.afaultq = s.afaultq ∧
        t.mem = (s.poke kAdapter none e.intakeSlot b).1.mem ∧
        ∀ y, (y < e.intakeSlot / 16 * 16 ∨ (e.intakeSlot + b.length + 15) / 16 * 16 ≤ y) → mget t.mem y = mget s.mem y) ∧
    (∀ code r, (code = 1#4 ∧ r = rMissing ∨ code ≠ 1#4 ∧ x = .error r ∧ s.reading (.adapter a) = false ∧
        (s.adapterPieces i).length ≤ i.got) → completes (.intakeComplete a code) s fun t =>
      t.intakes = dropIntake s.intakes a ∧ t.dir = s.dir ∧ t.mem = s.mem ∧ t.event pgDir 2 = true ∧
      t.event pgIntake 2 = true ∧ (r = rAuth → s.countedBy t pgSec 0x208 1 ∧ t.event pgSec 1 = true) ∧
      (s.afaultq.length < 64 → t.afaultq = s.afaultq ++ [{ adapter := a, reason := BitVec.ofNat 4 r }]) ∧
      (64 ≤ s.afaultq.length → t.afaultq = s.afaultq))) ∧
  (∀ s : State, completes .afaultqLoRead s fun t => t.afaultRead = true ∧ t.afaultLatch = s.afaultq.head? ∧
    t.afaultq = s.afaultq ∧ t.rdata = (match s.afaultq.head? with | some f => f.adapter.setWidth 32 | none => 0#32)) ∧
  (∀ s : State, completes .afaultqHiRead s fun t => t.afaultRead = false ∧
    (s.afaultRead = true → s.afaultLatch.isSome = true → t.afaultq = s.afaultq.drop 1) ∧
    (s.afaultRead = false ∨ s.afaultLatch = none → t.afaultq = s.afaultq) ∧
    t.rdata = (match s.afaultLatch with | some f => BitVec.ofNat 32 (f.reason.toNat + 16) | none => 0#32))

/-- Read responses, write acknowledgements and timeouts of the host port reach the access with their tag. A response
to a tag that no access holds only adds to HOST_ERR's counter. A beat of an outstanding read puts its 128 bytes in
their place and no others, and counts them. The last beat ends the read: a good one of a base or adapter intake
counts the bytes asked for and the fetch goes on to its next; a bad one counts and raises the error, a base intake
counts one more missing read, an adapter intake ends with a fault, the parked request of a parcel ends with
DESC_FAULT, and a request whose input it was has its input marked bad. A write's acknowledgement frees its tag, a
bad one is counted, and that of the last write of a parcel marks the parcel acknowledged; with the last parcel the
park of a paused request begins. A read that has timed out is counted, raises its event and ends. The clauses that
say what bytes and tags remain are for a port with no request waiting. What a failed read of each use does beyond
R381 is log 67, the tags and chains of reads log 116, both the model's choices. (R381, R386, R387, R169, R171, R263,
R266) -/
def Obligations.HostPortAnswers : Prop :=
  (∀ (s : State) (tag : BitVec 10) (x : BitVec 1024) (last err : Bool), s.clkUp 2 = true → Memory.wf s.host = true →
    (tget? s.hostReads tag.toNat = none → completes (.hostReadResponse tag x last err) s fun t =>
      s.countedBy t pgHost 0x210 1 ∧ t.host = s.host ∧ t.hostReads = s.hostReads ∧ t.slots = s.slots ∧ t.wf = s.wf) ∧
    ∀ (r : HostRead) (u : State), tget? s.hostReads tag.toNat = some r →
      u = { s with host := mwrite s.host (r.addr.toNat + 128 * r.got) (leBytes 128 x.toNat) } →
      mread u.host (r.addr.toNat + 128 * r.got) 128 = leBytes 128 x.toNat ∧
      (∀ y, (y < r.addr.toNat + 128 * r.got ∨ r.addr.toNat + 128 * r.got + 128 ≤ y) → mget u.host y = mget s.host y) ∧
      (last = false → completes (.hostReadResponse tag x last err) s fun t => t.host = u.host ∧
        s.countedBy t pgHost 0x200 128 ∧ t.slots = s.slots ∧ t.mem = s.mem ∧ t.jobs = s.jobs ∧ t.wf = s.wf ∧
        t.hostReads = tput s.hostReads tag.toNat { r with got := r.got + 1, err := r.err || err }) ∧
      (last = true → (r.err || err) = false → r.use = .intake ∨ (∃ a, r.use = .adapter a) →
        completes (.hostReadResponse tag x last err) s fun t => t.slots = s.slots ∧ t.mem = s.mem ∧
        s.countedBy t pgHost 0x200 128 ∧ (s.writeQ = [] → t.host = u.host) ∧
        (r.use = .intake → t.wf = { s.wf with missing := 0, got := s.wf.got + 1 } ∧ t.intakes = s.intakes ∧
          (∀ p, u.wavePieces[s.wf.got]? = some p → s.countedBy t pgIntake 0x200 p.len) ∧
          (s.writeQ = [] → (s.wf.st = .checking ∨ s.wf.st = .advancing) →
            ∀ p, u.wavePieces[s.wf.got + 1]? = some p → 0 < p.len → t.reading .intake = true)) ∧
        (∀ a, r.use = .adapter a → t.wf = s.wf ∧ t.intakes = s.intakes.map fun i =>
          if i.adapter = a ∧ i.running = true then { i with got := i.got + 1 } else i)) ∧
      (last = true → (r.err || err) = true →
        (r.use = .intake → completes (.hostReadResponse tag x last err) s fun t => s.countedBy t pgHost 0x210 1 ∧
          t.event pgHost 0 = true ∧ t.wf.missing = s.wf.missing + 1 ∧ t.slots = s.slots ∧ t.mem = s.mem) ∧
        (∀ a, r.use = .adapter a → (s.intakes.any fun i => i.adapter = a && i.running && !i.stopped) = true →
          completes (.hostReadResponse tag x last err) s fun t => s.countedBy t pgHost 0x210 1 ∧ t.event pgHost 0 = true ∧
            t.intakes = dropIntake s.intakes a ∧ t.event pgIntake 2 = true) ∧
        (∀ q page j, r.use = .parcel q page → s.slotJob q.toNat = some j → (s.slot q.toNat).alive = true →
          (s.slot q.toNat).pendingEnd = none → ((s.slot q.toNat).parcels.any fun p => p.page = page && !p.back) = true →
          completes (.hostReadResponse tag x last err) s fun t => s.countedBy t pgHost 0x210 1 ∧ t.event pgHost 0 = true ∧
            (t.slot q.toNat).pendingEnd = some { reason := 0x11#8 } ∧ q ∈ (t.job j).outQ) ∧
        (∀ q j, r.use = .tenant q (s.slot q.toNat).acceptAt → (s.slot q.toNat).inDue ≠ 0 → s.slotJob q.toNat = some j →
          (s.job j).batchStage ≠ 3 → completes (.hostReadResponse tag x last err) s fun t => s.countedBy t pgHost 0x210 1 ∧
            t.event pgHost 0 = true ∧ t.jobs = s.jobs ∧ (∀ k, k ≠ q.toNat → t.slot k = s.slot k) ∧
            t.slot q.toNat = { s.slot q.toNat with inDue := (s.slot q.toNat).inDue - 1, inBad := true })) ∧
      ∀ q page p, r.use = .parcel q page → last = true → (r.err || err) = false →
        (s.slot q.toNat).parcels.find? (fun p => p.page = page && p.acked && !p.back && s.prAddr p + p.got = r.addr.toNat) = some p →
        p.got + 128 * (r.got + 1) < p.bytes → (∀ y ∈ (s.slot q.toNat).parcels, y.acked = true) →
        completes (.hostReadResponse tag x last err) s fun t => (t.slot q.toNat).parcels =
          (s.slot q.toNat).parcels.map fun y => if y = p then { p with got := p.got + 128 * (r.got + 1), back := false } else y) ∧
  (∀ (s : State) (tag : BitVec 10) (err : Bool), s.clkUp 2 = true →
    (tget? s.hostWrites tag.toNat = none → completes (.hostWriteAck tag err) s fun t => s.countedBy t pgHost 0x210 1 ∧
      t.hostWrites = s.hostWrites ∧ t.slots = s.slots ∧ t.mem = s.mem) ∧
    ∀ w, tget? s.hostWrites tag.toNat = some w →
      (w.parcel = none → completes (.hostWriteAck tag err) s fun t => t.slots = s.slots ∧ t.mem = s.mem ∧
        (err = true → s.countedBy t pgHost 0x220 1) ∧
        (s.readQ = [] → s.writeQ = [] → t.hostWrites = tdel s.hostWrites tag.toNat ∧ t.host = s.host ∧
          (err = false → t.ctrs = s.ctrs))) ∧
      ∀ q page p, w.parcel = some (q, page) →
        (s.slot q.toNat).parcels.find? (fun p => p.page = page && p.granule = w.granule && !p.acked) = some p →
        (∀ y ∈ (s.slot q.toNat).parcels, y ≠ p → y.acked = true) → (∀ x ∈ s.orphans, x.1 ≠ q.toNat) →
        completes (.hostWriteAck tag err) s fun t => (t.slot q.toNat).parcels =
            (s.slot q.toNat).parcels.map (fun y => if y = p then { y with acked := true } else y) ∧
          ((s.slot q.toNat).st = .paused → (t.slot q.toNat).parkAt = some s.lcount)) ∧
  (∀ (s : State) (tag : BitVec 10) (r : HostRead), tget? s.hostReads tag.toNat = some r →
    (r.at_.toNat + (s.rd pgHost 0x044).toNat ≤ s.lcount.toNat → r.use = .intake ∨ (∃ a, r.use = .adapter a) →
      completes (.hostReadTimeout tag) s fun t => s.countedBy t pgHost 0x218 1 ∧ t.event pgHost 1 = true ∧
        t.slots = s.slots ∧ t.mem = s.mem ∧
        (∀ a, r.use = .adapter a → t.wf = s.wf ∧ (s.readQ = [] → t.hostReads = tdel s.hostReads tag.toNat)) ∧
        (r.use = .intake → t.wf.missing = s.wf.missing + 1)) ∧
    (s.lcount.toNat < r.at_.toNat + (s.rd pgHost 0x044).toNat → completes (.hostReadTimeout tag) s fun t => t = s))

/-- A direct access reads the stored bytes, writes only where R276 accepts it, and is refused with nothing stored
elsewhere. While a direct-window request waits for a stack that trains, a further one waits behind it, and so does
one whose own stack trains, up to 16. Otherwise: a request without privilege, while the window or the HOST unit is
off, beyond the last address, or a write that R276 does not accept or whose stack is in FAULT, is refused: status 2,
data 0, no byte stored, MEM_REGFAULT advanced. An accepted read returns the 128 stored bytes as they stand, status 1
with the error flag where a word is uncorrectable, else 0; an uncorrectable read in a frame takes that frame's
prefix entry out, and nothing else writes memory. An accepted write stores exactly the enabled bytes. The register
port's window reads the stored word or 0, and writes the word where it may, and in every case its address advances
by 4 and the access is counted. (R164, R276, R272, R381, R388) -/
def Obligations.DirectAccessesReadStoredBytesAndWriteOnlyBase : Prop :=
  (∀ (s : State) (we priv : Bool) (addr : BitVec 40) (be : BitVec 128) (x : BitVec 1024) (a : Nat),
    a = addr.toNat / 128 * 128 → Memory.wf s.mem = true →
    ((s.hwQ ≠ [] ∨ (s.stack (s.stackOf addr.toNat)).retrain = true) → s.hwQ.length < 16 →
      completes (.directWindowRequest we priv addr be x) s fun t =>
        t.hwQ = s.hwQ ++ [{ we := we, priv := priv, addr := addr, be := be, data := x }] ∧ t.mem = s.mem ∧
        t.hwStat = s.hwStat ∧ t.hwData = s.hwData ∧ t.ctrs = s.ctrs) ∧
    (s.hwQ = [] → (s.stack (s.stackOf addr.toNat)).retrain = false →
    (priv = false ∨ (s.rd pgHost 0x040).getLsbD 16 = false ∨ s.running pgHost = false ∨ s.top < a + 128 ∨
      (we = true ∧ (s.directWriteOk a 128 = false ∨ s.stackFault (s.stackOf a) = true)) →
      completes (.directWindowRequest we priv addr be x) s fun t => t.hwStat = 2#2 ∧ t.hwData = 0#1024 ∧ t.mem = s.mem ∧
        t.uncorr = s.uncorr ∧ s.countedBy t 0x030 0x300 1 ∧ (t.rd pgHost 0x054).getLsbD 1 = true ∧
        (s.top ≤ a → t.event 0x030 8 = true)) ∧
    (priv = true → (s.rd pgHost 0x040).getLsbD 16 = true → s.running pgHost = true → a + 128 ≤ s.top →
      (we = false → completes (.directWindowRequest we priv addr be x) s fun t =>
        (s.uncIn a 128 = false ∨ s.frameAt a = none → t.mem = s.mem ∧ t.uncorr = s.uncorr) ∧
        t.hwData = BitVec.ofNat 1024 (ofLe (s.stored a 128)) ∧
        (s.uncIn a 128 = true → t.hwStat = 1#2 ∧ (t.rd pgHost 0x054).getLsbD 0 = true ∧
          ∀ f, s.frameAt a = some f → ∀ e ∈ t.prefixes, e.2.frame.toNat ≠ f) ∧
        (s.uncIn a 128 = false → t.hwStat = 0#2 ∧ t.regs = s.regs ∧ t.hdrs = s.hdrs ∧ t.ctrs = s.ctrs)) ∧
      (we = true → s.directWriteOk a 128 = true → s.stackFault (s.stackOf a) = false → completes (.directWindowRequest we priv addr be x) s fun t =>
        t.hwStat = 0#2 ∧ (∀ y, (y < a ∨ a + 128 ≤ y) → mget t.mem y = mget s.mem y) ∧
        ∀ i, i < 128 → mget t.mem (a + i) =
          if be.getLsbD i then BitVec.ofNat 8 (bitsOf x (8 * i + 7) (8 * i)) else mget s.mem (a + i))))) ∧
  (∀ s : State, completes .daccRead s fun t => t.daccAddr = (s.daccAddr + 4) % 2 ^ 40 ∧ s.countedBy t pgHost 0x228 1 ∧
    (s.top ≤ s.daccAddr → t.rdata = 0#32 ∧ s.countedBy t 0x030 0x300 1) ∧
    (s.daccAddr < s.top → t.rdata = BitVec.ofNat 32 (ofLe (s.stored s.daccAddr 4)) ∧
      (s.uncIn s.daccAddr 4 = false → t.log = s.log ∧ t.stk = s.stk))) ∧
  (∀ (s : State) (v : W), Memory.wf s.mem = true → completes (.daccWrite v) s fun t =>
    t.daccAddr = (s.daccAddr + 4) % 2 ^ 40 ∧ s.countedBy t pgHost 0x228 1 ∧
    (∀ y, (y < s.daccAddr ∨ s.daccAddr + 4 ≤ y) → mget t.mem y = mget s.mem y) ∧
    (s.top < s.daccAddr + 4 ∨ s.directWriteOk s.daccAddr 4 = false → t.mem = s.mem ∧ s.countedBy t 0x030 0x300 1) ∧
    (s.daccAddr + 4 ≤ s.top → s.directWriteOk s.daccAddr 4 = true →
      (∀ i, i < 4 → s.stackFault (s.stackOf (s.daccAddr + i)) = false) → mread t.mem s.daccAddr 4 = leBytes 4 v.toNat))

/-- A stack read is clean, corrected or uncorrectable; patrol reads the control tables in turn; error counts halve.
A read beyond the last address changes nothing. A clean read is counted and changes nothing else, but for the retry
that one data parity error is counted as. A read with one symbol in error is counted as corrected, adds one to its
pseudo-channel's count, and leaves the bytes. An uncorrectable one, by its symbols, an older mark, a stack in FAULT
or a second parity error, is counted and raises its event; outside every frame, where its requester's class writes
nothing, a record of its address and class joins the stack's queue of fewer than 16, every byte but those of a word
whose own symbols are damaged stands, and such a word is marked; inside a frame no prefix entry of the frame is
left; a form's rows fail, and an update's attempt is marked. PATROL before its interval has passed changes nothing;
over clean words it moves on past the unit it read; a word with one symbol in error counts as corrected by patrol.
CORR_HALVING before its time changes nothing; after it every pseudo-channel's count is halved and the rest of its
register kept. (R164, R267, R277, R279, R280, R281, R282) -/
def Obligations.StackReadsAndPatrolCountAndRecordErrors : Prop :=
  (∀ (s : State) (addr : BitVec 40) (req : Requester) (n : BitVec 3) (mis : Bool) (par : BitVec 2) (k pc : Nat),
    k = s.stackOf addr.toNat → pc = (s.place addr.toNat).1 →
    (s.top ≤ addr.toNat → exec (.stackReadDone addr req n ⟨mis, par⟩) s = .next s) ∧
    (addr.toNat < s.top → s.stackFault k = false → s.uncorr.contains (addr.toNat / 32) = false → par.toNat < 2 →
      (n = 0#3 → completes (.stackReadDone addr req n ⟨mis, par⟩) s fun t => s.countedBy t (pgMem k) 0x200 1 ∧
        s.countedBy t (pgMem k) 0x228 par.toNat ∧ t.mem = s.mem ∧
        t.uncorr = s.uncorr ∧ t.stk = s.stk ∧ t.jobs = s.jobs ∧ t.slots = s.slots ∧ sameUnits s t) ∧
      (n = 1#3 → completes (.stackReadDone addr req n ⟨mis, par⟩) s fun t => s.countedBy t (pgMem k) 0x200 1 ∧
        s.countedBy t (pgMem k) 0x228 par.toNat ∧
        s.countedBy t (pgMem k) 0x210 1 ∧ t.mem = s.mem ∧ t.uncorr = s.uncorr ∧ t.jobs = s.jobs ∧ t.slots = s.slots ∧
        bitsOf (t.rd (pgMem k) (0x400 + 4 * pc)) 15 0 =
          min 0xFFFF (bitsOf (s.rd (pgMem k) (0x400 + 4 * pc)) 15 0 + 1))) ∧
    (addr.toNat < s.top → (uncorrectable n.toNat mis = true ∨ s.uncorr.contains (addr.toNat / 32) = true ∨
        s.stackFault k = true ∨ 2 ≤ par.toNat) →
      completes (.stackReadDone addr req n ⟨mis, par⟩) s fun t => s.countedBy t (pgMem k) 0x218 1 ∧ t.event (pgMem k) 1 = true ∧
        (Requester.cls req ∉ [4, 7, 10] → s.frameAt addr.toNat = none → t.slots = s.slots ∧
          ((s.stack k).ucq.length < 16 → (t.stack k).ucq =
            (s.stack k).ucq ++ [{ addr := addr, cls := BitVec.ofNat 4 (Requester.cls req) }]) ∧
          (uncorrectable n.toNat mis = false → t.mem = s.mem) ∧
          (Memory.wf s.mem = true → ∀ y, y / 32 ≠ addr.toNat / 32 → mget t.mem y = mget s.mem y) ∧
          (uncorrectable n.toNat mis = true → s.stackFault k = false → addr.toNat / 32 ∈ t.uncorr)) ∧
        (∀ f, s.frameAt addr.toNat = some f → ∀ e ∈ t.prefixes, e.2.frame.toNat ≠ f) ∧
        (∀ f v, req = .form f → tget? s.forms f = some v → t.jobs = (s.failForm v.desc cMem).jobs) ∧
        (∀ j, req = .update j → (s.job j.toNat).isTrain = true → (s.job j.toNat).cur.isSome = true →
          (t.job j.toNat).train.uncorrFail = true))) ∧
  (∀ (s : State) (k : BitVec 4) (mis : BitVec 8) (sym : BitVec 24),
    (s.lcount.toNat < (s.stack k.toNat).patrolTime.toNat + bitsOf (s.rd (pgMem k.toNat) 0x050) 15 0 →
      exec (.patrol k sym mis) s = .next s) ∧
    ∀ u, k.toNat < s.part.nStacks → s.running (pgMem k.toNat) = true → (s.stack k.toNat).retrain = false →
      (s.rd (pgMem k.toNat) 0x040).getLsbD 9 = true →
      (s.stack k.toNat).patrolTime.toNat + bitsOf (s.rd (pgMem k.toNat) 0x050) 15 0 ≤ s.lcount.toNat →
      s.patrolNext k.toNat = some u → (∀ w ∈ s.uncorr, w < u / 32 ∨ u / 32 + 8 ≤ w) →
      (sym = 0#24 → completes (.patrol k sym mis) s fun t => s.countedBy t (pgMem k.toNat) 0x200 1 ∧ t.mem = s.mem ∧
        t.uncorr = s.uncorr ∧ t.jobs = s.jobs ∧
        t.stack k.toNat = { s.stack k.toNat with patrolAt := u + 256, patrolTime := s.lcount } ∧
        ∀ j, j ≠ k.toNat → t.stack j = s.stack j) ∧
      ∀ i, i < 8 → sym = BitVec.ofNat 24 (2 ^ (3 * i)) → completes (.patrol k sym mis) s fun t =>
        s.countedBy t (pgMem k.toNat) 0x220 1 ∧
        s.countedBy t (pgMem k.toNat) 0x210 1 ∧ t.mem = s.mem ∧ t.uncorr = s.uncorr ∧ t.jobs = s.jobs) ∧
  (∀ s : State,
    (s.lcount.toNat < s.halvedAt.toNat + 2 ^ 30 → exec .corrHalving s = .next s) ∧
    (s.halvedAt.toNat + 2 ^ 30 ≤ s.lcount.toNat → completes .corrHalving s fun t =>
      t.halvedAt = s.halvedAt + 0x40000000#64 ∧
      ∀ k j, k < s.part.nStacks → j < 64 →
        bitsOf (t.rd (pgMem k) (0x400 + 4 * j)) 15 0 = bitsOf (s.rd (pgMem k) (0x400 + 4 * j)) 15 0 / 2 ∧
        bitsOf (t.rd (pgMem k) (0x400 + 4 * j)) 31 16 = bitsOf (s.rd (pgMem k) (0x400 + 4 * j)) 31 16))

/-- Retraining, retirement, the region table, the uncorrectable-read queue and parity errors. RETRAIN and RETIRE
report their code; accepted, they start a training, or the copy of a pseudo-channel, on that stack alone; a copy
asked for while its stack trains starts at the end of a good training. A move of more than 10 °C starts a training.
A good training ends with the temperature noted; a bad one is tried again, and the third in a row puts the stack in
FAULT; a training that times out is a bad one. RETIRED makes the copied pseudo-channel the retired one once the copy
has passed its last unit, and before that changes nothing. A write to a region entry that is not VALID stores its
fields, and sets VALID only on an allowed entry; of a VALID entry only VALID can change; no other entry changes. The
queue's LO read latches the oldest record, and its HI read returns the rest of it and pops a record that the LO read
latched. A parity error is retried and counted; a second failure of a write on a stack not in FAULT leaves its word
uncorrectable. What a command on a stack in FAULT answers (log 69), that retries of a training are counted (log 70)
and that a waiting copy counts as running (log 157) are the model's choices. (R267, R273, R284, R287, R288, R290,
R389) -/
def Obligations.StackTrainingRetirementAndRegionTable : Prop :=
  (∀ (s : State) (k : BitVec 4), k.toNat < s.part.nStacks →
    (∀ c, c = (if s.retraining then 1 else if s.stackFault k.toNat then 2 else 0) →
      completes (.memRetrain k) s fun t => bitsOf (t.rd (pgMem k.toNat) 0x04C) 9 8 = c ∧ (c ≠ 0 → t.stk = s.stk) ∧
        (c = 0 → t.stack k.toNat = { s.stack k.toNat with retrain := true, trainAt := s.lcount } ∧
          s.countedBy t (pgMem k.toNat) 0x230 1 ∧ ∀ j, j ≠ k.toNat → t.stack j = s.stack j)) ∧
    (∀ temp : BitVec 8, completes (.stackTempRetrain k temp) s fun t => (∀ j, j ≠ k.toNat → t.stack j = s.stack j) ∧
      t.stack k.toNat = if ((s.stack k.toNat).trainTemp.toNat + 10 < temp.toNat ∨
          temp.toNat + 10 < (s.stack k.toNat).trainTemp.toNat) ∧ s.running (pgMem k.toNat) = true ∧ s.retraining = false
        then { s.stack k.toNat with temp := temp, retrain := true, trainAt := s.lcount }
        else { s.stack k.toNat with temp := temp }) ∧
    ((s.stack k.toNat).retrain = true →
      completes (.retrainDone k true) s (fun t => t.event (pgMem k.toNat) 3 = true ∧ sameUnits s t ∧
        (t.stack k.toNat).retrain = false ∧ (t.stack k.toNat).fails = 0 ∧
        ((s.stack k.toNat).copyWait = true → (t.stack k.toNat).copying = true) ∧ (t.stack k.toNat).copyWait = false ∧
        (t.stack k.toNat).trainTemp = (s.stack k.toNat).temp ∧ ∀ j, j ≠ k.toNat → t.stack j = s.stack j) ∧
      completes (.retrainDone k false) s (fun t => (t.stack k.toNat).fails = (s.stack k.toNat).fails + 1 ∧
        (∀ j, j ≠ k.toNat → t.stack j = s.stack j) ∧
        ((s.stack k.toNat).fails < 2 → (t.stack k.toNat).retrain = true ∧ s.countedBy t (pgMem k.toNat) 0x230 1) ∧
        (2 ≤ (s.stack k.toNat).fails → (t.stack k.toNat).retrain = false ∧ t.unit (pgMem k.toNat) = .fault ∧
          t.event (pgMem k.toNat) 4 = true)) ∧
      ((s.stack k.toNat).trainAt.toNat + 4000 ≤ s.lcount.toNat → completes (.phyTrainingTimeout k) s fun t =>
        s.serves (.retrainDone k false) = true → exec (.retrainDone k false) s = .next t)) ∧
    (∀ pc : BitVec 6,
      (s.mayRetire k.toNat = true → completes (.memRetire k pc) s fun t => bitsOf (t.rd (pgMem k.toNat) 0x04C) 9 8 = 0 ∧
        t.stack k.toNat = { s.stack k.toNat with
          copying := !(s.stack k.toNat).retrain, copyWait := (s.stack k.toNat).retrain, copyPc := pc, copyPtr := 0#22 } ∧
        ∀ j, j ≠ k.toNat → t.stack j = s.stack j) ∧
      (s.mayRetire k.toNat = false → completes (.memRetire k pc) s fun t =>
        bitsOf (t.rd (pgMem k.toNat) 0x04C) 9 8 = 2 ∧ t.stk = s.stk)) ∧
    ((s.stack k.toNat).copying = true → (s.stack k.toNat).retrain = false → s.stackFault k.toNat = false →
      (s.pcUnits ≤ (s.stack k.toNat).copyPtr.toNat → completes (.pcRetired k) s fun t =>
        t.retiredPc k.toNat = some (s.stack k.toNat).copyPc.toNat ∧ (t.stack k.toNat).copying = false ∧
        t.event (pgMem k.toNat) 2 = true ∧ t.mem = s.mem ∧ t.uncorr = s.uncorr) ∧
      ((s.stack k.toNat).copyPtr.toNat < s.pcUnits → exec (.pcRetired k) s = .next s)) ∧
    completes (.ucqLoRead k) s (fun t => (∀ j, j ≠ k.toNat → t.stack j = s.stack j) ∧
      t.stack k.toNat = { s.stack k.toNat with ucqLatch := (s.stack k.toNat).ucq.head?, loRead := true } ∧
      t.rdata = (match (s.stack k.toNat).ucq.head? with | some r => r.addr.setWidth 32 | none => 0#32)) ∧
    completes (.ucqHiRead k) s (fun t => (∀ j, j ≠ k.toNat → t.stack j = s.stack j) ∧ (t.stack k.toNat).loRead = false ∧
      (t.stack k.toNat).ucq = (if (s.stack k.toNat).loRead ∧ (s.stack k.toNat).ucqLatch.isSome then (s.stack k.toNat).ucq.drop 1 else (s.stack k.toNat).ucq) ∧
      t.rdata = (match (s.stack k.toNat).ucqLatch with
        | some r => BitVec.ofNat 32 (r.addr.toNat / 2 ^ 32 + 2 ^ 8 * r.cls.toNat + 2 ^ 12)
        | none => 0#32)) ∧
    (∀ ch, completes (.commandAddressParityError k ch) s fun t => s.countedBy t (pgMem k.toNat) 0x228 1 ∧ sameUnits s t) ∧
    (∀ addr : BitVec 40, s.stackOf addr.toNat = k.toNat → addr.toNat < s.top →
      completes (.writeDataParityError k addr false) s (fun t => s.countedBy t (pgMem k.toNat) 0x228 1 ∧
        t.uncorr = s.uncorr) ∧
      (s.stackFault k.toNat = false → completes (.writeDataParityError k addr true) s fun t => addr.toNat / 32 ∈ t.uncorr ∧ t.ctrs = s.ctrs ∧
        ∀ w, w ≠ addr.toNat / 32 → (w ∈ t.uncorr ↔ w ∈ s.uncorr)))) ∧
  (∀ (s : State) (n : BitVec 6) (v : W) (r : Region), r = s.region n.toNat →
    completes (.memRegWrite n 0#2 v) s (fun t => (∀ k, k < 64 → k ≠ n.toNat → t.region k = s.region k) ∧
      (r.valid = false → ∀ x, x = { r with base := bitsOf v 27 0 * 4096 } →
        t.region n.toNat = { x with valid := v.getLsbD 31 && s.regionOk n.toNat x }) ∧
      (r.valid = true → t.region n.toNat = { r with valid := v.getLsbD 31 })) ∧
    completes (.memRegWrite n 1#2 v) s (fun t => (∀ k, k < 64 → k ≠ n.toNat → t.region k = s.region k) ∧
      t.region n.toNat = if r.valid then r else { r with size := bitsOf v 28 0 * 4096 }) ∧
    completes (.memRegWrite n 2#2 v) s (fun t => (∀ k, k < 64 → k ≠ n.toNat → t.region k = s.region k) ∧
      t.region n.toNat = if r.valid ∨ 8 ≤ bitsOf v 3 0 then r
        else { r with kind := bitsOf v 3 0, enc := v.getLsbD 4, key := bitsOf v 25 16 }) ∧
    exec (.memRegWrite n 3#2 v) s = .next s)

/-- A port takes good frames in order, NAKs a bad one once, replays on timeout, and comes up by the lanes that
trained. On a port that carries frames: a frame whose CRC fails, or of a reserved kind, is counted, lands nothing,
and unless a NAK stands already sends one with the next SEQ, the SEQ awaited and the credit gathered; a good CTRL,
COLL or P2P frame that is not the expected one, and a CTRL frame that finds no buffer (the model's choice, log 150),
lands nothing; the expected one advances the expected SEQ by one, is counted, and a COLL or P2P frame's valid bytes
take their place among its collective's landed payloads, a CTRL vote joins the messages, or, of an attempt that has
ended, is discarded and counted. An acknowledgement timeout resends and counts every outstanding frame, and trains
the port after REPLAY_MAX replays. A failed lane makes the port train. Training records the lanes that passed,
raises SPARED for each that passed before and does not now, and ends UP with eight good lanes, DEGRADED with four to
seven, else DOWN with the page in FAULT. LINK_RCMD writes a rank entry of a FREE job alone, and of another job only
marks the error. (R291, R292, R293, R294, R295, R297, R302) -/
def Obligations.LinkPortsTakeFramesReplayAndTrain : Prop :=
  (∀ (s : State) (p : BitVec 3) (f : BitVec 2336) (h : FrameHdr), h = frameHdr f → p.toNat < s.part.nPorts →
    (s.port p.toNat).up = true →
    (frameCrcOk f = false ∨ h.reserved = true → completes (.frameRx p f) s fun t => s.countedBy t (pgLink p.toNat) 0x210 1 ∧
      t.port p.toNat = (if (s.port p.toNat).nakSent then s.port p.toNat else { s.port p.toNat with
        nakSent := true, freed := 0#12
        bare := some (mkFrame { type := tNak, seq := (s.port p.toNat).txSeq.toNat, ack := (s.port p.toNat).rxSeq.toNat,
                                src := s.devid, credit := (s.port p.toNat).freed.toNat } []) }) ∧
      t.colls = s.colls ∧ t.ctrlIn = s.ctrlIn ∧ ∀ k, k ≠ p.toNat → t.port k = s.port k) ∧
    (frameCrcOk f = true → 1 ≤ h.type → h.type ≤ 3 → h.op ≤ 6 →
      (h.seq ≠ (s.port p.toNat).rxSeq.toNat ∨ h.type = tCtrl ∧ s.ctrlFull p.toNat = true) →
      completes (.frameRx p f) s fun t => t.colls = s.colls ∧ t.ctrlIn = s.ctrlIn ∧
        (t.port p.toNat).rxSeq = (s.port p.toNat).rxSeq ∧ ∀ k, k ≠ p.toNat → t.port k = s.port k) ∧
    (frameCrcOk f = true → h.type = tCtrl → h.op ≤ 6 → h.seq = (s.port p.toNat).rxSeq.toNat → s.ctrlFull p.toNat = false →
      completes (.frameRx p f) s fun t => t.colls = s.colls ∧ (t.port p.toNat).rxSeq = (s.port p.toNat).rxSeq + 1#12 ∧
        (t.port p.toNat).nakSent = false ∧ s.countedBy t (pgLink p.toNat) 0x208 1 ∧
        (ofLe ((framePayload f).take 4) = 1 → (s.job h.job).isTrain = true →
          (s.staleKey h.job (BitVec.ofNat 32 h.step) h.attempt = false → ∃ v, t.ctrlIn = s.ctrlIn ++ [{
            port := p, job := BitVec.ofNat 8 h.job, step := BitVec.ofNat 32 h.step, attempt := BitVec.ofNat 4 h.attempt,
            src := BitVec.ofNat 10 h.src, msg := .vote v }]) ∧
          (s.staleKey h.job (BitVec.ofNat 32 h.step) h.attempt = true → t.ctrlIn = s.ctrlIn ∧
            s.countedBy t (pgLink p.toNat) 0x220 1))) ∧
    ∀ op old, frameCrcOk f = true → h.type = tColl ∨ h.type = tP2p → h.seq = (s.port p.toNat).rxSeq.toNat →
      collOpOf h.op = some op → s.staleKey h.job (BitVec.ofNat 32 h.step) h.attempt = false →
      s.coll? h.job (BitVec.ofNat 32 h.step) (BitVec.ofNat 4 h.attempt) h.coll = some old → old.failed = false →
      completes (.frameRx p f) s fun t => (t.port p.toNat).rxSeq = (s.port p.toNat).rxSeq + 1#12 ∧ t.ctrlIn = s.ctrlIn ∧
        ∃ v, t.coll? h.job (BitVec.ofNat 32 h.step) (BitVec.ofNat 4 h.attempt) h.coll = some v ∧
          v.landed = (old.land h.src h.chunk ((framePayload f).take (h.len + 1))).landed) ∧
  (∀ (s : State) (p : BitVec 3), (s.port p.toNat).up = true → (s.port p.toNat).replay ≠ [] →
    (s.port p.toNat).ackAt.toNat + (s.rd (pgLink p.toNat) 0x048).toNat ≤ s.lcount.toNat →
    completes (.linkAckTimeout p) s fun t => s.countedBy t (pgLink p.toNat) 0x218 (s.port p.toNat).replay.length ∧
      (t.port p.toNat).replay = (s.port p.toNat).replay ∧ (∀ k, k ≠ p.toNat → t.port k = s.port k) ∧
      (t.port p.toNat).st = if bitsOf (s.rd (pgLink 0) 0x080) 15 12 ≤ (s.port p.toNat).replays + 1 then .training
        else (s.port p.toNat).st) ∧
  (∀ (s : State) (p : BitVec 3) (l : BitVec 4), (s.port p.toNat).up = true → l.toNat < 9 →
    completes (.laneFail p l) s fun t => s.countedBy t (pgLink p.toNat) 0x228 1 ∧
      (∀ k, k ≠ p.toNat → t.port k = s.port k) ∧
      t.port p.toNat = { s.port p.toNat with st := .training, lanes := 0#9, replays := 0 }) ∧
  (∀ (s : State) (p : BitVec 3) (ok : BitVec 9), p.toNat < s.part.nPorts → (s.port p.toNat).st = .training →
    completes (.linkTrained p ok) s fun t => t.event (pgLink p.toNat) 3 = true ∧ (t.port p.toNat).laneOk = ok ∧
      (∀ i, i < 9 → (s.port p.toNat).laneOk.getLsbD i = true → ok.getLsbD i = false → t.event (pgLink p.toNat) 2 = true) ∧
      (∀ l, activeLanes ok = some l → (t.port p.toNat).lanes = lanesBits l ∧
        (t.port p.toNat).st = (if l.length = 8 then .up else .degraded) ∧ sameUnits s t ∧
        (l.length ≠ 8 → t.event (pgLink p.toNat) 1 = true)) ∧
      (activeLanes ok = none → (t.port p.toNat).st = .down ∧ t.unit (pgLink p.toNat) = .fault ∧
        t.event (pgLink p.toNat) 0 = true)) ∧
  (∀ (s : State) (v : W),
    completes (.linkRcmd v) s fun t => sameRegsBut [regAt (pgLink 0) 0x084] s t ∧
      (v.getLsbD 31 = false → t.ranks = s.ranks) ∧
      (v.getLsbD 31 = true → (s.job (bitsOf v 7 0)).st ≠ 0#2 →
        t.ranks = s.ranks ∧ (t.rd (pgLink 0) 0x084).getLsbD 30 = true) ∧
      (v.getLsbD 31 = true → (s.job (bitsOf v 7 0)).st = 0#2 →
        (tget 0#11 t.ranks (1024 * bitsOf v 7 0 + bitsOf v 17 8)).toNat = bitsOf v 27 18 + 1024 * bitsOf v 28 28 ∧
        ∀ k, k ≠ 1024 * bitsOf v 7 0 + bitsOf v 17 8 → tget 0#11 t.ranks k = tget 0#11 s.ranks k))

/-- ENABLE 0 drains a running unit, a drained unit stops or starts again, and ENABLE 1 starts a stopped one. On a
page whose ENABLE can be written: UNIT_DISABLE of a MEM page only adds to ERR_COUNT; of a MERGE page it drains its
running lanes; of another it clears ENABLE, takes RUNNING to DRAINING and leaves any other state. UNIT_ENABLE of a
page other than MERGE sets ENABLE and, on a block that is ready, takes OFF to RUNNING, and a LINK page in FAULT too;
DRAINING stays. Of a MERGE page it sets its lanes' ENABLE and starts those that are OFF. UNIT_DRAINED of a draining
unit with no accepted work left takes it to RUNNING where ENABLE is 1, else to OFF. No other unit's state changes.
Of any other page nothing changes. (R337, R338, R115, R290) -/
def Obligations.UnitsStartDrainAndStop : Prop :=
  (∀ (s : State) (page : BitVec 9) (p : Nat), p = page.toNat →
    (s.enableRw p = false → exec (.unitDisable page) s = .next s ∧ exec (.unitEnable page) s = .next s) ∧
    (s.enableRw p = true →
      (pageKind p = some .mem → completes (.unitDisable page) s fun t => t.regs = s.regs ∧ t.lanes = s.lanes ∧
        sameUnits s t ∧ sameHdrsBut [p] s t ∧ ((s.hdr p).err ≠ 0xFFFF#16 → (t.hdr p).err = (s.hdr p).err + 1#16)) ∧
      (pageKind p = some .merge →
        completes (.unitDisable page) s (fun t => sameUnits s t ∧
          (∀ l, l ∉ mergeLanes p → t.lane l = s.lane l) ∧
          ∀ l ∈ mergeLanes p, s.laneUp l = true → (t.lane l).st =
            (if (s.lane l).st = .running then .draining else (s.lane l).st) ∧ (t.lane l).ledger = (s.lane l).ledger) ∧
        completes (.unitEnable page) s fun t => sameUnits s t ∧ (∀ l, l ∉ mergeLanes p → t.lane l = s.lane l) ∧
          ∀ l ∈ mergeLanes p, (s.lane l).st = .off → s.ready = true → (t.lane l).st = .running) ∧
      (pageKind p ≠ some .mem → pageKind p ≠ some .merge → completes (.unitDisable page) s fun t =>
        (t.rd p 0x00C).getLsbD 0 = false ∧ t.lanes = s.lanes ∧ sameRegsBut [regAt p 0x00C] s t ∧
        t.unit p = (if s.unit p = .running then .draining else s.unit p) ∧ ∀ k, k ≠ p → t.unit k = s.unit k) ∧
      (pageKind p ≠ some .merge → completes (.unitEnable page) s fun t => (t.rd p 0x00C).getLsbD 0 = true ∧
        t.unit p = (if s.ready = true ∧ (s.unit p = .off ∨ s.unit p = .fault ∧ pageKind p = some .link)
          then .running else s.unit p) ∧ ∀ k, k ≠ p → t.unit k = s.unit k)) ∧
    (s.unit p = .draining → pageKind p ≠ some .merge →
      (s.unitIdle p = false → exec (.unitDrained page) s = .next s) ∧
      (s.unitIdle p = true → completes (.unitDrained page) s fun t =>
        t.unit p = (if s.enabled p then .running else .off) ∧ ∀ k, k ≠ p → t.unit k = s.unit k)))

/-- The cache's flush and pool registers; the retained image is rewritten, exported, stored or kept dirty.
CACHE_FLUSH removes exactly the prefix entries of an owner key. CACHE_POOL_WRITE with the CACHE unit not OFF only
adds to ERR_COUNT; with it OFF, EN of a pool is set only where the pool is legal, and no other register changes.
IMAGE_UPDATE with a kept field changed since rewrites the image with every setting it has room for, in runs (log
88), and marks it DIRTY; where some setting finds no room, it marks FULL with its event, and DIRTY if the image
changed. EXPORT, or AUTO_EXPORT when due, takes a snapshot under the next sequence number and clears DIRTY; a second
EXPORT meanwhile reports code 1 and changes nothing else. EXPORT_DONE stores the snapshot; EXPORT_FAIL stores
nothing and leaves DIRTY set; each ends the export and raises its event. The runs, what an export of a bad image
holds and the code of a second EXPORT are the model's choices (logs 88, 89). (R146, R147, R148, R164, R357, R358) -/
def Obligations.CacheRegistersAndRetainedSettings : Prop :=
  (∀ (s : State) (o : BitVec 16), completes (.cacheFlush o) s fun t => sameUnits s t ∧
    t.prefixes = s.prefixes.filter fun (_, w) => !(w.owner == o)) ∧
  (∀ (s : State) (off : BitVec 12) (v : W), isPoolReg (off.toNat / 4 * 4) = true →
    (s.unit pgCache ≠ .off → completes (.cachePoolWrite off v) s fun t => t.regs = s.regs ∧ sameHdrsBut [pgCache] s t ∧
      ((s.hdr pgCache).err ≠ 0xFFFF#16 → (t.hdr pgCache).err = (s.hdr pgCache).err + 1#16)) ∧
    (s.unit pgCache = .off → completes (.cachePoolWrite off v) s fun t =>
      sameRegsBut [regAt pgCache (off.toNat / 4 * 4)] s t ∧
      ∀ p, p < 8 → off.toNat / 4 * 4 = 0x100 + 16 * p →
        (t.pool p).base = bitsOf v 27 0 * 4096 ∧ ((t.pool p).en = true → v.getLsbD 31 = true ∨ (s.pool p).en = true) ∧
        (v.getLsbD 31 = true → s.poolLegal p = true → (t.pool p).en = true) ∧
        (v.getLsbD 31 = false → (t.pool p).en = false))) ∧
  (∀ s : State,
    (s.ret.stale = false → exec .imageUpdate s = .next s) ∧
    (s.ret.stale = true → completes .imageUpdate s fun t => t.ret.stale = false ∧
      t.ret.image = s.buildImage ∧ t.ret.seq = s.ret.seq ∧
      (s.recorded = s.settings → t.ret.dirty = true ∧ t.ret.full = s.ret.full ∧ t.hdrs = s.hdrs) ∧
      (s.recorded ≠ s.settings → t.ret.full = true ∧ t.event pgRst 2 = true ∧
        (s.buildImage ≠ s.ret.image → t.ret.dirty = true))) ∧
    (s.ret.exporting = false → completes .rstExport s fun t => bitsOf (t.rd pgRst 0x040) 18 16 = 0 ∧
      t.ret = { s.ret with
        image := s.snapshot, seq := s.ret.seq + 1#64, snapshot := s.snapshot, dirty := false, exporting := true
        stale := t.ret.stale, changeAt := t.ret.changeAt }) ∧
    (s.ret.exporting = true → completes .rstExport s fun t => bitsOf (t.rd pgRst 0x040) 18 16 = 1 ∧
      t.ret.snapshot = s.ret.snapshot ∧ t.ret.seq = s.ret.seq ∧ t.ret.exporting = true) ∧
    (s.exportDue = true → completes .autoExport s fun t => t.ret = { s.ret with
      image := s.snapshot, seq := s.ret.seq + 1#64, snapshot := s.snapshot, dirty := false, exporting := true }) ∧
    (s.ret.exporting = true →
      completes .exportDone s (fun t => t.store = some s.ret.snapshot ∧ t.event pgRst 3 = true ∧ sameUnits s t ∧
        t.ret = { s.ret with exporting := false, snapshot := [] }) ∧
      completes .exportFail s fun t => t.event pgRst 4 = true ∧ sameUnits s t ∧
        t.ret = { s.ret with exporting := false, snapshot := [], dirty := true }))

/-- A life-cycle command starts a burn only from the state that allows it and with its authority; a burn sets one
fuse bit. While a life-cycle command reads its request or burns, every other is dropped and counted, and it goes on.
Otherwise UNSEAL burns LC[0] of a Blank part with the test port, which the command carries as an operand (the
model's choice, log 80), SEAL a secret and then LC[1] of an Unsealed part, VOID LC[4] of a Blank, Unsealed or
Returned part without a request; RETURN, VOID of a Sealed part and RAISE_FW_MIN ask for a signed request with GO at
1; once its last read has come, the nonce is replaced, and where the request passes the burn starts, else its code,
or that of a read that failed, is reported. A command from another state reports BAD_STATE and starts nothing, also
where a return is pending (the model's choice, log 81). An acknowledged burn sets exactly its bit, and the last one
resets the part cold; a failed one is tried again, and the third ends the transition with its code and sets no bit.
(R306, R309, R310, R311, R321, R394) -/
def Obligations.LifeCycleCommandsBurnOnlyWithAuthority : Prop :=
  (∀ (s : State) (c : Instr) (x : Bool),
    c ∈ [Instr.lcUnseal x, Instr.lcSeal, Instr.lcReturn, Instr.lcVoid, Instr.raiseFwMin] → s.lcRuns = true →
    completes c s fun t => t.fuseTask = s.fuseTask ∧ t.secTasks = s.secTasks ∧ t.regs = s.regs ∧ t.nonce = s.nonce ∧ sameHdrsBut [pgSec] s t ∧
      ((s.hdr pgSec).err ≠ 0xFFFF#16 → (t.hdr pgSec).err = (s.hdr pgSec).err + 1#16)) ∧
  (∀ s : State, s.lcRuns = false →
    (s.life = .blank → completes (.lcUnseal true) s (fun t => t.fuseTask = some { op := 1#3, bits := [0#9] }) ∧
      completes (.lcUnseal false) s fun t => t.fuseTask = none ∧ bitsOf (t.rd pgSec 0x05C) 7 4 = 3) ∧
    (∀ x, s.life ≠ .blank → completes (.lcUnseal x) s fun t => t.fuseTask = none ∧ bitsOf (t.rd pgSec 0x05C) 7 4 = 1) ∧
    (s.life = .unsealed → completes .lcSeal s fun t => ∃ bs, t.fuseTask = some { op := 2#3, bits := bs ++ [1#9] } ∧
      ∀ b ∈ bs, 69 ≤ b.toNat ∧ b.toNat < 325) ∧
    (s.life ≠ .unsealed → completes .lcSeal s fun t => t.fuseTask = none ∧ bitsOf (t.rd pgSec 0x05C) 7 4 = 1) ∧
    ((s.life = .blank ∨ s.life = .unsealed ∨ s.life = .returned) → completes .lcVoid s fun t =>
      t.fuseTask = some { op := 4#3, bits := [4#9] } ∧ t.nonce = s.nonce) ∧
    ∀ (c : Instr) (op : Nat), (c = .lcReturn ∧ op = 3 ∨ c = .lcVoid ∧ op = 4 ∨ c = .raiseFwMin ∧ op = 5) →
      (s.isSealed = false → (c = .lcVoid → s.life = .sealed ∨ s.life = .void) →
        completes c s fun t => t.fuseTask = none ∧ bitsOf (t.rd pgSec 0x05C) 7 4 = 1 ∧ t.nonce = s.nonce) ∧
      (s.isSealed = true → completes c s fun t => t.fuseTask = none ∧ t.nonce = s.nonce ∧
        (t.rd pgSec 0x05C).getLsbD 31 = true ∧ tget? t.secTasks 2 = some {
          addr := BitVec.ofNat 64 s.blobAt, due := (hostPieces s.blobAt 208).length, op := BitVec.ofNat 3 op })) ∧
  (∀ (s : State) (tag : BitVec 10) (x : BitVec 1024) (err : Bool) (r : HostRead) (k : SecTask) (b : List Byte) (op : Nat),
    tget? s.hostReads tag.toNat = some r → r.use = .sec 2#2 → tget? s.secTasks 2 = some k → k.due = 1 → op = k.op.toNat →
    s.clkUp 2 = true → s.fuseTask = none →
    b = mread (mwrite s.host (r.addr.toNat + 128 * r.got) (leBytes 128 x.toNat)) k.addr.toNat 208 →
    ((k.bad || (r.err || err)) = true → completes (.hostReadResponse tag x true err) s fun t => t.fuseTask = none ∧
      tget? t.secTasks 2 = none ∧ bitsOf (t.rd pgSec 0x05C) 7 4 = 4 ∧ t.nonce = Config.entropy s.fresh) ∧
    ((k.bad || (r.err || err)) = false →
      (∀ code, s.signedCheck op b = .inr code → completes (.hostReadResponse tag x true err) s fun t => t.fuseTask = none ∧
        tget? t.secTasks 2 = none ∧ bitsOf (t.rd pgSec 0x05C) 7 4 = code ∧ t.nonce = Config.entropy s.fresh) ∧
      (∀ arg, s.signedCheck op b = .inl arg → completes (.hostReadResponse tag x true err) s fun t =>
        t.nonce = Config.entropy s.fresh ∧ tget? t.secTasks 2 = none ∧
        (s.signedBits op arg = [] → t.fuseTask = none ∧ bitsOf (t.rd pgSec 0x05C) 7 4 = 1) ∧
        (s.signedBits op arg ≠ [] → t.fuseTask =
          some { op := BitVec.ofNat 3 op, bits := (s.signedBits op arg).map (BitVec.ofNat 9) })))) ∧
  (∀ (s : State) (k : FuseTask) (b : BitVec 9) (rest : List (BitVec 9)), s.fuseTask = some k → k.bits = b :: rest →
    completes (.fuseBurnAck true) s (fun t => t.fuses = s.fuses ||| BitVec.ofNat 512 (2 ^ b.toNat) ∧
      (rest ≠ [] → t.fuseTask = some { k with bits := rest, tries := 0 } ∧ t.regs = s.regs ∧ t.keys = s.keys) ∧
      (rest = [] → t.fuseTask = none ∧ t.phase = 1#4 ∧ t.cause = 3#3 ∧ t.keys = [])) ∧
    (k.tries < 2 → completes (.fuseBurnAck false) s fun t => t.fuses = s.fuses ∧ t.regs = s.regs ∧
      t.fuseTask = some { k with tries := k.tries + 1 }) ∧
    (2 ≤ k.tries → completes (.fuseBurnAck false) s fun t => t.fuses = s.fuses ∧ t.fuseTask = none ∧
      bitsOf (t.rd pgSec 0x05C) 7 4 = 2))

/-- IMPORT fills exactly the slot a good blob names, CLEAR empties exactly the selected one, ATTEST writes only its
report. IMPORT and ATTEST on a Sealed part ask for their blob and their challenge with GO at 1; a second GO of the
same register meanwhile is dropped and counted, and one of the other answers BUSY, as does either and CLEAR while a
life-cycle command runs (IMPORT's event and kept nonce then are the model's choice, log 78). Once the last read of a
blob has come: a blob that passes every check has the derived keys stored in the slot it names and in no other, code
0, counted; one that fails a check stores nothing and reports that check's code, and one a read of which failed code
8; each raises the event and replaces the nonce. On a part that is not Sealed IMPORT reports code 1. CLEAR on a
Sealed part empties the selected slot and no other. Once the challenge has come, ATTEST writes 512 bytes at the
blob's address and no others with code 0, or reports code 3 where its read failed; no key slot changes. (R311, R313,
R314, R315, R316, R383) -/
def Obligations.KeySlotsAreImportedClearedAndAttested : Prop :=
  (∀ s : State,
    (s.secWaits 0 = true →
      completes .keyImport s (fun t => t.keys = s.keys ∧ t.regs = s.regs ∧ t.secTasks = s.secTasks ∧
        ((s.hdr pgSec).err ≠ 0xFFFF#16 → (t.hdr pgSec).err = (s.hdr pgSec).err + 1#16)) ∧
      completes .keyClear s (fun t => t.keys = s.keys ∧ t.regs = s.regs ∧
        ((s.hdr pgSec).err ≠ 0xFFFF#16 → (t.hdr pgSec).err = (s.hdr pgSec).err + 1#16)) ∧
      (s.secWaits 1 = false → completes .attest s fun t => t.secTasks = s.secTasks ∧ t.host = s.host ∧
        bitsOf (t.rd pgSec 0x058) 11 10 = 2)) ∧
    (s.secWaits 0 = false → (s.lcRuns = true ∨ s.secWaits 1 = true) →
      completes .keyImport s (fun t => t.keys = s.keys ∧ t.nonce = s.nonce ∧ bitsOf (t.rd pgSec 0x044) 11 8 = 7 ∧
        t.event pgSec 2 = true) ∧
      completes .keyClear s (fun t => t.keys = s.keys ∧ bitsOf (t.rd pgSec 0x044) 11 8 = 7)) ∧
    (s.secWaits 0 = false → s.secWaits 1 = false → s.lcRuns = true →
      completes .attest s fun t => t.host = s.host ∧ bitsOf (t.rd pgSec 0x058) 11 10 = 2) ∧
    (s.lcRuns = false → s.secWaits 0 = false → s.secWaits 1 = false → s.isSealed = false →
      completes .keyImport s (fun t => t.keys = s.keys ∧ bitsOf (t.rd pgSec 0x044) 11 8 = 1 ∧ t.event pgSec 2 = true ∧
        s.countedBy t pgSec 0x218 1 ∧ t.nonce = Config.entropy s.fresh) ∧
      completes .keyClear s (fun t => t.keys = s.keys ∧ bitsOf (t.rd pgSec 0x044) 11 8 = 1) ∧
      completes .attest s fun t => t.host = s.host ∧ bitsOf (t.rd pgSec 0x058) 11 10 = 1) ∧
    (s.lcRuns = false → s.secWaits 0 = false → s.secWaits 1 = false → s.isSealed = true →
      completes .keyImport s (fun t => (t.rd pgSec 0x044).getLsbD 31 = true ∧ t.nonce = s.nonce ∧
        tget? t.secTasks 0 = some {
          addr := BitVec.ofNat 64 s.blobAt, due := (hostPieces s.blobAt 256).length, op := 1#3 }) ∧
      completes .keyClear s (fun t => tget? t.keys (bitsOf (s.rd pgSec 0x048) 9 0) = none ∧
        (∀ j, j ≠ bitsOf (s.rd pgSec 0x048) 9 0 → tget? t.keys j = tget? s.keys j) ∧
        bitsOf (t.rd pgSec 0x044) 11 8 = 0) ∧
      (s.ident.isSome = true → completes .attest s fun t => (t.rd pgSec 0x058).getLsbD 31 = true ∧ t.host = s.host ∧
        tget? t.secTasks 1 = some {
          addr := BitVec.ofNat 64 s.blobAt, due := (hostPieces s.blobAt 48).length, op := 0#3 }))) ∧
  (∀ (s : State) (tag : BitVec 10) (x : BitVec 1024) (err : Bool) (r : HostRead) (k : SecTask) (b : List Byte),
    tget? s.hostReads tag.toNat = some r → r.use = .sec 0#2 → tget? s.secTasks 0 = some k → k.due = 1 →
    s.clkUp 2 = true → b = mread (mwrite s.host (r.addr.toNat + 128 * r.got) (leBytes 128 x.toNat)) k.addr.toNat 256 →
    ((k.bad || (r.err || err)) = true → completes (.hostReadResponse tag x true err) s fun t => t.keys = s.keys ∧
      bitsOf (t.rd pgSec 0x044) 11 8 = 8 ∧ t.event pgSec 2 = true ∧ t.nonce = Config.entropy s.fresh) ∧
    ((k.bad || (r.err || err)) = false →
      (∀ code, s.importCheck b = .inr code → completes (.hostReadResponse tag x true err) s fun t => t.keys = s.keys ∧
        bitsOf (t.rd pgSec 0x044) 11 8 = code ∧ s.countedBy t pgSec 0x218 1 ∧ t.event pgSec 2 = true ∧
        t.nonce = Config.entropy s.fresh) ∧
      (∀ n v, s.importCheck b = .inl (n, v) → completes (.hostReadResponse tag x true err) s fun t =>
        tget? t.keys n = some v ∧ tget? s.keys n = none ∧ n < 1024 ∧ v.owner = BitVec.ofNat 32 (fieldLe b 4 4) ∧
        (∀ j, j ≠ n → tget? t.keys j = tget? s.keys j) ∧ bitsOf (t.rd pgSec 0x044) 11 8 = 0 ∧
        s.countedBy t pgSec 0x210 1 ∧ t.event pgSec 2 = true ∧ t.nonce = Config.entropy s.fresh))) ∧
  (∀ (s : State) (tag : BitVec 10) (x : BitVec 1024) (err : Bool) (r : HostRead) (k : SecTask) (h : Mem),
    tget? s.hostReads tag.toNat = some r → r.use = .sec 1#2 → tget? s.secTasks 1 = some k → k.due = 1 →
    s.clkUp 2 = true → h = mwrite s.host (r.addr.toNat + 128 * r.got) (leBytes 128 x.toNat) →
    s.writeQ = [] → Memory.wf s.host = true →
    ((k.bad || (r.err || err)) = true → completes (.hostReadResponse tag x true err) s fun t => t.keys = s.keys ∧ t.host = h ∧
      bitsOf (t.rd pgSec 0x058) 11 10 = 3 ∧ (t.rd pgSec 0x058).getLsbD 31 = false) ∧
    ((k.bad || (r.err || err)) = false → completes (.hostReadResponse tag x true err) s fun t => t.keys = s.keys ∧
      bitsOf (t.rd pgSec 0x058) 11 10 = 0 ∧ (t.rd pgSec 0x058).getLsbD 31 = false ∧
      ∀ a, (a < k.addr.toNat ∨ k.addr.toNat + 512 ≤ a) → mget t.host a = mget h a))

/-- A fenced core leaves service with its epoch advanced, a spare takes its number, and a tested core becomes a
spare. FENCE of a core in service or spare fences it and advances its epoch; of a fenced or absent one it only
reports a code. SPARE_BIND gives the first number that awaits one in the slice to its lowest free spare, counted, or
makes the number vacant with its event. While the test of another core runs, FENCE is dropped and counted. REINSTATE
of a core that may be tested makes it a spare that carries the current epoch, where it passes and no number is
vacant, and leaves it FENCED where it fails. A network message of a core whose own epoch register agrees with the
fence table changes nothing here; with another epoch it is a counted dead letter; one with bad parity is dropped and
counted, and the form that sent it lacks its acknowledgement. A lost control entry is counted and contained as its
store's rule says: a directory entry retires, an open job closes, a prefix entry goes, a tide slot loses VALID, a
region entry loses VALID, a key slot is emptied, a core is fenced. A corrected word is counted, logged only with
LOG_CORR, and changes nothing else. That an absent core answers CODE 3, a way's readable words and the form a
message names are the model's choices (logs 96, 101, 162, 163). (R324, R327, R328, R331, R332, R333, R334, R335,
R336) -/
def Obligations.CoresAreFencedSparedAndReinstated : Prop :=
  (∀ (s : State) (pc : BitVec 15) (c : CoreRec), c = s.core pc.toNat →
    ((s.rd pgRel 0x040).getLsbD 31 = false → pc.toNat < s.part.nPhys → c.st = .inService ∨ c.st = .spare → completes (.fence pc) s fun t =>
      (t.core pc.toNat).st = .fenced ∧ (t.core pc.toNat).epoch = c.epoch + 1#8 ∧ bitsOf (t.rd pgRel 0x040) 22 20 = 0 ∧
      (∀ k, k ≠ pc.toNat → t.core k = s.core k) ∧ s.countedBy t pgRel 0x220 1 ∧ t.event pgRel 2 = true) ∧
    ((s.rd pgRel 0x040).getLsbD 31 = false → pc.toNat < s.part.nPhys → c.st = .fenced ∨ c.st = .testing → completes (.fence pc) s fun t => t.cores = s.cores ∧
      t.forms = s.forms ∧ bitsOf (t.rd pgRel 0x040) 22 20 = 2) ∧
    ((s.rd pgRel 0x040).getLsbD 31 = false → s.part.nPhys ≤ pc.toNat → completes (.fence pc) s fun t => t.cores = s.cores ∧ t.forms = s.forms ∧
      bitsOf (t.rd pgRel 0x040) 22 20 = 3) ∧
    (s.relBusy pc.toNat = false → pc.toNat < s.part.nPhys → s.mayTest pc.toNat = true →
      (s.vacantIn (pc.toNat / 6560) = none → completes (.reinstate pc true) s fun t =>
        t.core pc.toNat = { c with st := .spare, own := c.epoch } ∧ (∀ k, k ≠ pc.toNat → t.core k = s.core k) ∧
        s.countedBy t pgRel 0x230 1 ∧ t.remap = s.remap ∧ bitsOf (t.rd pgRel 0x040) 22 20 = 0) ∧
      completes (.reinstate pc false) s fun t => t.core pc.toNat = { c with st := .fenced } ∧
        (∀ k, k ≠ pc.toNat → t.core k = s.core k) ∧ t.remap = s.remap ∧ bitsOf (t.rd pgRel 0x040) 22 20 = 4) ∧
    ((s.rd pgRel 0x040).getLsbD 31 = true → completes (.fence pc) s fun t => t.cores = s.cores ∧ t.forms = s.forms ∧
      t.rd pgRel 0x040 = s.rd pgRel 0x040) ∧
    (∀ form berth, pc.toNat < s.part.nPhys →
      (c.own = c.epoch → exec (.nocMessage pc form true berth) s = .next s) ∧
      (c.own ≠ c.epoch → completes (.nocMessage pc form true berth) s fun t => s.countedBy t pgRel 0x200 1 ∧
        t.forms = s.forms ∧ t.jobs = s.jobs ∧ (t.core pc.toNat).deadLogged = true ∧
        (t.core pc.toNat).st = c.st ∧ (t.core pc.toNat).own = c.own ∧ ∀ k, k ≠ pc.toNat → t.core k = s.core k)) ∧
    completes (.nocMessage pc none false none) s (fun t => s.countedBy t pgRel 0x218 1 ∧ t.forms = s.forms ∧
      t.jobs = s.jobs ∧ t.cores = s.cores) ∧
    (∀ fid f, tget? s.forms fid = some f → f.waiting = false →
      completes (.nocMessage pc (some fid) false none) s fun t => s.countedBy t pgRel 0x218 1 ∧
        tget? t.forms fid = some { f with unacked := true } ∧ (∀ k, k ≠ fid → tget? t.forms k = tget? s.forms k) ∧
        t.jobs = s.jobs ∧ t.cores = s.cores)) ∧
  (∀ (s : State) (sl : BitVec 2) (n : Nat), s.unbound.find? (fun n => n / 6400 = sl.toNat) = some n →
    (∀ pc, s.lowSpare sl.toNat = some pc → completes (.spareBind sl) s fun t => (t.core pc).st = .inService ∧
      (t.binding n).vacant = false ∧ (t.binding n).phys sl.toNat = pc ∧ t.unbound = s.unbound.filter (· ≠ n) ∧
      s.countedBy t pgRel 0x228 1) ∧
    (s.lowSpare sl.toNat = none → completes (.spareBind sl) s fun t => (t.binding n).vacant = true ∧
      t.cores = s.cores ∧ t.unbound = s.unbound.filter (· ≠ n) ∧ t.event pgRel 3 = true)) ∧
  (∀ (s : State) (store : BitVec 8) (i : BitVec 24), i.toNat < s.storeSize store.toNat →
    (store = 1#8 → completes (.ctrlUncorr (.uncorrectable store) i) s fun t => (t.entry i.toNat).st = .retiring ∨ (t.entry i.toNat).st = .free) ∧
    (store = 3#8 → (s.job i.toNat).st = 1#2 → completes (.ctrlUncorr (.uncorrectable store) i) s fun t =>
      t.job i.toNat = { s.job i.toNat with st := 2#2, closeAt := s.lcount } ∧ s.countedBy t pgRel 0x210 1 ∧
      ∀ k, k ≠ i.toNat → t.job k = s.job k) ∧
    (store = 4#8 → completes (.ctrlUncorr (.uncorrectable store) i) s fun t => tget? t.prefixes i.toNat = none) ∧
    (store = 7#8 → completes (.ctrlUncorr (.uncorrectable store) i) s fun t =>
      t.tideSlot i.toNat = { s.tideSlot i.toNat with valid := false } ∧ s.countedBy t pgRel 0x210 1 ∧
      ∀ k, k ≠ i.toNat → t.tideSlot k = s.tideSlot k) ∧
    (store = 8#8 → completes (.ctrlUncorr (.uncorrectable store) i) s fun t =>
      t.region i.toNat = { s.region i.toNat with valid := false } ∧ s.countedBy t pgRel 0x210 1 ∧
      ∀ k, k < 64 → k ≠ i.toNat → t.region k = s.region k) ∧
    (store = 9#8 → completes (.ctrlUncorr (.uncorrectable store) i) s fun t => tget? t.keys i.toNat = none ∧
      s.countedBy t pgRel 0x210 1 ∧ ∀ k, k ≠ i.toNat → tget? t.keys k = tget? s.keys k) ∧
    (store = 10#8 → completes (.ctrlUncorr (.uncorrectable store) i) s fun t => (t.core i.toNat).st = .fenced ∧
        (t.core i.toNat).epoch = (s.core i.toNat).epoch + 1#8) ∧
    completes (.ctrlUncorr (.corrected store) i) s fun t => s.countedBy t pgRel 0x208 1 ∧
      ((s.rd pgRel 0x044).getLsbD 1 = false → t.log = s.log) ∧
      t = { s with log := t.log, logOvf := t.logOvf, fresh := t.fresh, ctrs := t.ctrs, regs := t.regs, hdrs := t.hdrs })

/-- The log pops in order; duties move between clusters; an image is read and checked; a command of a failed clock
does nothing. REL_LOG0_READ latches the oldest log record and returns its first word; REL_LOG3_READ after it returns
the record's last word and pops it. With no image being read, HANDOVER to a cluster that runs an image gives it
every duty; SPLIT, with both running, gives back the division after bring-up; each else reports code 2; FW_LOAD of a
cluster that holds no duty starts to read the image with GO at 1. While a LOAD runs, each is dropped and counted;
while the bring-up loader reads, each reports BUSY. The last piece of an accepted image puts it in the LOAD's
cluster alone, or in both for the bring-up loader; a rejected image or a failed read changes no cluster and raises
REJECT; in Sealed only an image that passes its checks is accepted. A cluster that fails loses its image, and every
duty moves to the other where it can take them; where it cannot, the block resets warm. CLKFAIL records the clocks,
stacks and ports that failed and raises its event; a command whose clock has failed, or whose page the life cycle
closes, changes nothing but the data read back. The order in which an image is read and what stops with a clock are
the model's choices (logs 85, 93, 97). (R321, R329, R340, R341, R346, R377) -/
def Obligations.LogClustersAndClockMonitor : Prop :=
  (∀ s : State, completes .relLog0Read s fun t => t.logLatch = s.log.head? ∧ t.logRead = true ∧
    t.rdata = logWord0 s.log.head?) ∧
  (∀ s : State, completes .relLog3Read s fun t => t.rdata = logWord s.logLatch 3 ∧ t.logRead = false ∧
    (s.logRead = true → s.logLatch.isSome = true → t.log = s.log.drop 1) ∧
    (s.logRead = false ∨ s.logLatch = none → t.log = s.log)) ∧
  (∀ (s : State) (c : Bool), s.fwTask = none →
    ((s.cluster c).up = true → completes (.handover c) s fun t => t.duty = allDuties c ∧
      bitsOf (t.rd pgCtl 0x040) 11 8 = 0 ∧ s.countedBy t pgCtl 0x200 1 ∧ t.event pgCtl 0 = true ∧ sameUnits s t) ∧
    ((s.cluster c).up = false → completes (.handover c) s fun t => t.duty = s.duty ∧
      bitsOf (t.rd pgCtl 0x040) 11 8 = 2 ∧ t.hdrs = s.hdrs) ∧
    (s.phase ≠ 5#4 → s.holdsDuty c = true → completes (.fwLoad c) s fun t => t.fwTask = none ∧
      bitsOf (t.rd pgCtl 0x040) 11 8 = 2) ∧
    (s.phase = 5#4 ∨ s.holdsDuty c = false → completes (.fwLoad c) s fun t =>
      t.fwTask = some { target := some c, addr := BitVec.ofNat 64 (s.rd64 pgCtl 0x048) } ∧
      (t.rd pgCtl 0x040).getLsbD 31 = true) ∧
    (s.cluster0.up = true → s.cluster1.up = true → completes .split s fun t => t.duty = 0xF0#8 ∧
      bitsOf (t.rd pgCtl 0x040) 11 8 = 0) ∧
    (s.cluster0.up = false ∨ s.cluster1.up = false → completes .split s fun t => t.duty = s.duty ∧
      bitsOf (t.rd pgCtl 0x040) 11 8 = 2)) ∧
  (∀ (s : State) (k : FwTask) (c : Bool), s.fwTask = some k → ∀ x ∈ [Instr.handover c, .fwLoad c, .split],
    (k.target.isSome = true → completes x s fun t => t.duty = s.duty ∧ t.fwTask = s.fwTask ∧ t.regs = s.regs ∧
      ((s.hdr pgCtl).err ≠ 0xFFFF#16 → (t.hdr pgCtl).err = (s.hdr pgCtl).err + 1#16)) ∧
    (k.target = none → completes x s fun t => t.duty = s.duty ∧ t.fwTask = s.fwTask ∧
      bitsOf (t.rd pgCtl 0x040) 11 8 = 1)) ∧
  (∀ (s u : State) (tag : BitVec 10) (x : BitVec 1024) (err : Bool) (r : HostRead) (k : FwTask),
    tget? s.hostReads tag.toNat = some r → r.use = .firmware → s.fwTask = some k → s.clkUp 2 = true →
    u = { s with host := mwrite s.host (r.addr.toNat + 128 * r.got) (leBytes 128 x.toNat) } →
    ((r.err || err) = true → completes (.hostReadResponse tag x true err) s fun t => t.cluster0 = s.cluster0 ∧
      t.cluster1 = s.cluster1 ∧ t.fwTask = none ∧ t.event pgCtl 2 = true ∧
      (k.target.isSome = true → bitsOf (t.rd pgCtl 0x040) 11 8 = 4)) ∧
    ((r.err || err) = false → k.need ≠ 256 →
      k.need ≤ k.got + min (k.need - k.got) (4096 - (k.addr.toNat + k.got) % 4096) →
      (s.life = .sealed → (u.fwImage k.addr.toNat).ok = false → (u.fwTry k.addr.toNat).2 = none) ∧
      (∀ v, (u.fwTry k.addr.toNat).2 = some v → completes (.hostReadResponse tag x true err) s fun t => t.fwTask = none ∧
        (∀ c, k.target = some c → t.cluster c = v ∧ t.cluster (!c) = s.cluster (!c) ∧ bitsOf (t.rd pgCtl 0x040) 11 8 = 0) ∧
        (k.target = none → t.cluster0 = v ∧ t.cluster1 = v)) ∧
      ((u.fwTry k.addr.toNat).2 = none → completes (.hostReadResponse tag x true err) s fun t =>
        t.cluster0 = s.cluster0 ∧ t.cluster1 = s.cluster1 ∧ t.fwTask = none ∧ t.event pgCtl 2 = true ∧
        (k.target.isSome = true → bitsOf (t.rd pgCtl 0x040) 11 8 = 4)))) ∧
  (∀ (s : State) (c : Bool), (s.cluster c).fault = false →
    ((s.cluster (!c)).up = true → completes (.clusterFault c) s fun t => t.duty = allDuties (!c) ∧
      (t.cluster c).fault = true ∧ (t.cluster c).loaded = false ∧ t.cluster (!c) = s.cluster (!c) ∧
      s.countedBy t pgCtl 0x200 1 ∧ t.event pgCtl 1 = true ∧ t.jobs = s.jobs ∧ t.slots = s.slots ∧ t.dir = s.dir) ∧
    ((s.cluster (!c)).up = false → s.phase ≠ 1#4 → completes (.clusterFault c) s fun t =>
      t.cause = 6#3 ∧ t.phase = 2#4 ∧ t.jobs = [] ∧ t.slots = [] ∧ t.dir = [])) ∧
  (∀ (s : State) (x : ClockFail), completes (.clkfail x) s fun t =>
    (∀ i, i < 8 → t.clkmon.getLsbD i = (s.clkmon.getLsbD i || (x.clocks.getLsbD i && (clkMask s.part).getLsbD i))) ∧
    (∀ i, t.mclkFail.getLsbD i = (s.mclkFail.getLsbD i || (x.mclk.getLsbD i && decide (i < s.part.nStacks)))) ∧
    (∀ i, t.lclkFail.getLsbD i = (s.lclkFail.getLsbD i || (x.lclk.getLsbD i && decide (i < s.part.nPorts)))) ∧
    sameHdrsBut [pgPwr] s t ∧ (t.clkmon ≠ s.clkmon → t.event pgPwr 3 = true)) ∧
  (∀ (s : State) (c : Instr), s.serves c = false → exec c s = .next s ∨ exec c s = .next s.shut)

/-- Estimates move the duty by one step, the voltage handshake and the slew move the point, droop, heat and idleness
act on one slice. A temperature above CRIT takes the slice to point 3 and duty 4; else TCRIT and WARN follow their
limits with 5 °C of hysteresis, and a WARN slice heading for a point below 2 is turned to point 2, or its raise is
given up. An estimate does the same with the temperature held, and is stored; outside a thermal response, where no
run of estimates reaches its length, the duty falls by one, not below 4, while the estimate is over a limit, rises
by one, not above 16, while it is under 95 % of both, and else stays. A rise of VACK acknowledges the level asked
for and starts the slew of a raise that waits; a fall of a level held at a point above 3, with no raise waiting and
no other level asked for since, takes the slice to point 3; any other changes only the input. A finished slew puts
its point in force, counted and raised. A droop stretches until it ends, and is counted. An idle domain with gating
enabled is gated once its time has passed. Other slices are unchanged. The level the input acknowledges and the
turned slew are read from the rules by inference (logs 98, 181). (R348, R349, R350, R351, R352, R396) -/
def Obligations.SlicePowerFollowsItsInputs : Prop :=
  (∀ (s : State) (sl : BitVec 2) (i : Nat) (p : SlicePwr), i = sl.toNat → p = s.slicePwr i → i < s.part.slices →
    (∀ (a : Activity) (u : State) (q : SlicePwr) (e : BitVec 10), q = (s.thermal i).slicePwr i →
      e = Config.powerWatts a.macs a.vecs a.scratch a.landing a.staging a.hops a.shore →
      u = s.setPwr i { q with est := e } → s.clkUp (4 + i) = true →
      (q.tcrit = true → completes (.powerEstimate sl a) s fun t => t.slicePwr i = { q with est := e } ∧
        ∀ k, k ≠ i → t.slicePwr k = s.slicePwr k) ∧
      (bitsOf (s.rd pgPwr 0x060) 15 8 < p.temp.toNat → completes (.powerEstimate sl a) s fun t =>
        (t.slicePwr i).opp = 3#2 ∧ (t.slicePwr i).duty = 4#5 ∧ (t.slicePwr i).tcrit = true) ∧
      (q.tcrit = false → q.lowRun + 1 < 4096 → q.highRun + 1 < 65536 → completes (.powerEstimate sl a) s fun t =>
        (∀ k, k ≠ i → t.slicePwr k = s.slicePwr k) ∧ (t.slicePwr i).est = e ∧ (t.slicePwr i).opp = q.opp ∧
        (t.slicePwr i).slew = q.slew ∧ (t.slicePwr i).duty.toNat = (if u.over_ e.toNat then max 4 (q.duty.toNat - 1)
          else if u.under e.toNat 95 then min 16 (q.duty.toNat + 1) else q.duty.toNat))) ∧
    completes (.vack sl true) s (fun t => (∀ k, k ≠ i → t.slicePwr k = s.slicePwr k) ∧
      t.slicePwr i = { p with
        vack := true, vlevel := if p.vack then p.vlevel else p.vreq, vwait := false
        slew := if p.vwait then some p.vreq else p.slew }) ∧
    (p.vack = false ∨ p.vwait = true ∨ p.opp = 3#2 ∨ p.vlevel ≠ p.vreq → completes (.vack sl false) s fun t =>
      (∀ k, k ≠ i → t.slicePwr k = s.slicePwr k) ∧ t.slicePwr i = { p with vack := false }) ∧
    (p.vack = true → p.vwait = false → p.opp ≠ 3#2 → p.vlevel = p.vreq → completes (.vack sl false) s fun t =>
      (∀ k, k ≠ i → t.slicePwr k = s.slicePwr k) ∧
      t.slicePwr i = { p with vack := false, opp := 3#2, slew := none, vreq := 3#2 } ∧
      s.countedBy t pgPwr 0x210 1 ∧ t.event pgPwr 1 = true ∧ t.event pgPwr 4 = true) ∧
    (∀ pt, p.slew = some pt → completes (.oppSlewDone sl) s fun t => (∀ k, k ≠ i → t.slicePwr k = s.slicePwr k) ∧
      t.slicePwr i = { p with opp := pt, slew := none, vreq := if p.opp < pt then pt else p.vreq } ∧
      s.countedBy t pgPwr 0x210 1 ∧ t.event pgPwr 4 = true) ∧
    (p.droopIn = false → completes (.droopAssert sl) s fun t => t.slicePwr i = { p with droopIn := true, droop := true } ∧
      (∀ k, k ≠ i → t.slicePwr k = s.slicePwr k) ∧ s.countedBy t pgPwr 0x200 1 ∧ t.event pgPwr 0 = true) ∧
    completes (.droopDeassert sl) s (fun t => t.slicePwr i = { p with droopIn := false, droop := false } ∧
      ∀ k, k ≠ i → t.slicePwr k = s.slicePwr k) ∧
    ∀ (temp : BitVec 8) (target : Nat),
      target = (p.slew.map (·.toNat)).getD (if p.vwait then min p.opp.toNat p.vreq.toNat else p.opp.toNat) →
      (bitsOf (s.rd pgPwr 0x060) 15 8 < temp.toNat → completes (.thermSample sl temp) s fun t =>
        (∀ k, k ≠ i → t.slicePwr k = s.slicePwr k) ∧ (t.slicePwr i).temp = temp ∧ (t.slicePwr i).opp = 3#2 ∧
        (t.slicePwr i).duty = 4#5 ∧ (t.slicePwr i).tcrit = true ∧ (p.tcrit = false → t.event pgPwr 2 = true)) ∧
      (temp.toNat ≤ bitsOf (s.rd pgPwr 0x060) 15 8 → completes (.thermSample sl temp) s fun t =>
        (∀ k, k ≠ i → t.slicePwr k = s.slicePwr k) ∧ (t.slicePwr i).temp = temp ∧ (t.slicePwr i).opp = p.opp ∧
        (t.slicePwr i).duty = p.duty ∧
        ((t.slicePwr i).tcrit = true ↔ p.tcrit = true ∧ bitsOf (s.rd pgPwr 0x060) 15 8 < temp.toNat + 5) ∧
        ((t.slicePwr i).warn = true ↔ bitsOf (s.rd pgPwr 0x060) 7 0 < temp.toNat ∨
          p.warn = true ∧ bitsOf (s.rd pgPwr 0x060) 7 0 < temp.toNat + 5) ∧
        ((t.slicePwr i).warn = true → target < 2 →
          (t.slicePwr i).vwait = false ∧ (t.slicePwr i).slew = if p.opp.toNat < 2 then some 2#2 else none) ∧
        ((t.slicePwr i).warn = false ∨ 2 ≤ target → (t.slicePwr i).vwait = p.vwait ∧ (t.slicePwr i).slew = p.slew ∧
          (t.slicePwr i).vreq = p.vreq) ∧ t.hdrs = s.hdrs)) ∧
  (∀ (s : State) (d : BitVec 5),
    (d.toNat < 5 * s.part.slices → (s.rd pgPwr 0x068).getLsbD 16 = true →
      (s.forms.any fun (_, f) => powerDomain f.core == d.toNat && !f.waiting) = false →
      (tget 0#64 s.domIdle d.toNat).toNat + bitsOf (s.rd pgPwr 0x068) 15 0 ≤ s.lcount.toNat →
      completes (.gateIdle d) s fun t => t.gated = s.gated ||| BitVec.ofNat 20 (2 ^ d.toNat)) ∧
    ((s.forms.any fun (_, f) => powerDomain f.core == d.toNat && !f.waiting) = true →
      exec (.gateIdle d) s = .next s))

/-- After a cold or warm reset every slot is IDLE and reads zero and every job context is FREE. POWER_ON_RESET,
COLD_RESET_INPUT and COLD, and on a part past bring-up phase 1 WARM_RESET_INPUT and WARM, give a state in which
every slot holds the values of an IDLE slot, all zero, every register of the slot pages reads zero, every job
context holds the values of a FREE one, and no step, form, array command, parcel or collective is left. (R144) -/
def Obligations.NoRequestOrJobSurvivesAReset : Prop :=
  ∀ (s : State) (c : Instr),
    c ∈ [Instr.powerOnReset, .coldResetInput, .rstCold] ∨ s.phase ≠ 1#4 ∧ c ∈ [Instr.warmResetInput, .rstWarm] →
    completes c s fun t => t.slots = [] ∧ t.jobs = [] ∧ (∀ q, t.slot q = {} ∧ (t.slot q).st = .idle) ∧
      (∀ j, t.job j = {} ∧ (t.job j).st = 0#2 ∧ (t.job j).cur = none) ∧
      (∀ a, pageKind (a / 0x1000) = some .slot → t.reg a = 0#32) ∧
      t.forms = [] ∧ t.cmds = [] ∧ t.orphans = [] ∧ t.granules = [] ∧ t.colls = [] ∧ t.intakes = [] ∧ t.landUse = [] ∧
      t.ctrlIn = [] ∧ t.hostReads = [] ∧ t.hostWrites = []

/-- After a cold or warm reset every directory entry reads as FREE with all fields zero. POWER_ON_RESET,
COLD_RESET_INPUT and COLD, and on a part past bring-up phase 1 WARM_RESET_INPUT and WARM, give a state in which
every directory entry is FREE with every field zero, whatever the entry held and whatever the registers of the DIR
page, KEEP_MASK among them, held; and a BRING_UP after it restores none. (R57) -/
def Obligations.TheDirectoryIsEmptyAfterAReset : Prop :=
  ∀ (s : State) (c : Instr),
    c ∈ [Instr.powerOnReset, .coldResetInput, .rstCold] ∨ s.phase ≠ 1#4 ∧ c ∈ [Instr.warmResetInput, .rstWarm] →
    completes c s fun t => (∀ a, t.entry a = {} ∧ (t.entry a).st = .free ∧ ∀ i, i < 16 → imgWord (t.entry a).words i = 0#32) ∧
      ∀ env, completes (.bringUp env) t fun u => ∀ a, u.entry a = {}

/-- A cold reset keeps fuses, stacks and store, a warm one also keys and settings; bring-up ends READY; partial
resets keep to their part. A cold reset keeps the fuses and the stacks' bytes, empties the key slots, reports its
cause and starts bring-up at phase 1; a warm one, on a part past phase 1, also keeps the key slots, the life cycle
and the held image, with each stack's organisation, and starts at phase 2. BRING_UP of a part that is READY changes
nothing; of a Blank or Void part it only reads the fuses; of another it goes on as from phase 2, where a failed
control clock stops it in phase 3 and else the local count starts at 0 and the loader begins to read its image, or
the event of a rejected store is raised; in phase 5 with a cluster that runs an image it ends READY in phase 0, and
without one it stays in phase 5. A slice-array reset of a slice that is OFF and clocked advances the slice's epoch
base and, the core table being in order, the epoch of each core in service, and of any other only reports code 2. A
unit reset of a unit that is neither OFF nor in FAULT only reports code 2 and counts; of a page without one it
reports code 3. What a reset keeps beyond Table 16-2 and how the surroundings answer bring-up are the model's
choices (logs 76, 77, 90). (R339, R353, R354, R355, R356, R361) -/
def Obligations.ResetsBringUpAndPartialResets : Prop :=
  (∀ (s : State) (c : Instr) (n : BitVec 3),
    (c = .powerOnReset ∧ n = 0#3 ∨ c = .coldResetInput ∧ n = 1#3 ∨ c = .rstCold ∧ n = 2#3 →
      completes c s fun t => t.fuses = s.fuses ∧ t.mem = s.mem ∧ t.uncorr = s.uncorr ∧ t.store = s.store ∧ t.keys = [] ∧
        t.cause = n ∧ t.phase = 1#4 ∧ t.ready = false ∧ t.pending = s.pending ∧ t.regs = [] ∧ t.ctrs = []) ∧
    (s.phase ≠ 1#4 → c = .warmResetInput ∧ n = 4#3 ∨ c = .rstWarm ∧ n = 5#3 →
      completes c s fun t => t.fuses = s.fuses ∧ t.mem = s.mem ∧ t.uncorr = s.uncorr ∧ t.store = s.store ∧
        t.keys = s.keys ∧ t.lc = s.lc ∧ t.ret.image = s.ret.image ∧ t.cause = n ∧ t.phase = 2#4 ∧ t.ready = false ∧
        t.pending = s.pending ∧ t.ctrs = [] ∧ ∀ k, k < 16 → t.capCode k = s.capCode k)) ∧
  (∀ (s : State) (env : BootEnv),
    (s.phase = 0#4 → exec (.bringUp env) s = .next s) ∧
    (s.phase = 1#4 → s.fuseTask = none → (lifeOf (s.fuses.setWidth 5) = .blank ∨ lifeOf (s.fuses.setWidth 5) = .void) →
      completes (.bringUp env) s fun t => t = { s with lc := s.fuses.setWidth 5, fwMin := fuseFwMin s.fuses }) ∧
    (s.phase = 1#4 → s.fuseTask = none → ∀ u, u = { s with lc := s.fuses.setWidth 5, fwMin := fuseFwMin s.fuses, phase := 2#4 } →
      u.retPend = false → u.life ≠ .blank → u.life ≠ .void → exec (.bringUp env) s = exec (.bringUp env) u) ∧
    (s.phase = 2#4 → s.clkUp 0 = true → ∀ r : Retained,
      r = (if s.wasWarm then s.ret else { image := env.image.getD [], ecc := env.storeEcc }) →
      (env.badClocks.clocks.getLsbD 0 = true → completes (.bringUp env) s fun t => t.phase = 3#4 ∧ t.ready = s.ready) ∧
      (env.badClocks.clocks.getLsbD 0 = false → s.cluster0.up = false → s.cluster1.up = false →
        completes (.bringUp env) s fun t => t.phase = 5#4 ∧ t.ready = s.ready ∧ t.lcount = 0#64 ∧
          ((restoreCheck s.part r).1 = 0 → ∃ a, t.fwTask = some { target := none, addr := a }) ∧
          ((restoreCheck s.part r).1 ≠ 0 → t.event pgRst 1 = true))) ∧
    (s.phase = 5#4 →
      (s.cluster0.up = true ∨ s.cluster1.up = true → completes (.bringUp env) s fun t => t.phase = 0#4 ∧
        t.ready = true ∧ t.event pgRst 0 = true ∧ t.keys = s.keys) ∧
      (s.cluster0.up = false → s.cluster1.up = false → exec (.bringUp env) s = .next s))) ∧
  (∀ (s : State) (sl : BitVec 2),
    (s.unit (pgSlice sl.toNat) = .off → s.clkUp (4 + sl.toNat) = true → completes (.sliceReset sl) s fun t =>
      tget 0#8 t.baseEpoch sl.toNat = tget 0#8 s.baseEpoch sl.toNat + 1#8 ∧
      (∀ k, k ≠ sl.toNat → tget 0#8 t.baseEpoch k = tget 0#8 s.baseEpoch k) ∧
      bitsOf (t.rd pgRst 0x040) 18 16 = 0 ∧
      (rising s.cores = true → ∀ pc, pc / 6560 = sl.toNat → (s.core pc).st = .inService → (t.core pc).epoch = (s.core pc).epoch + 1#8)) ∧
    (s.unit (pgSlice sl.toNat) ≠ .off ∨ s.clkUp (4 + sl.toNat) = false → completes (.sliceReset sl) s fun t =>
      t.baseEpoch = s.baseEpoch ∧ t.cores = s.cores ∧ bitsOf (t.rd pgRst 0x040) 18 16 = 2)) ∧
  (∀ (s : State) (page : BitVec 9) (sub : BitVec 2),
    (s.resettable page.toNat = false → completes (.unitReset page sub) s fun t => t.hdrs = s.hdrs ∧ t.lanes = s.lanes ∧
      bitsOf (t.rd pgRst 0x040) 18 16 = 3) ∧
    (s.resettable page.toNat = true → pageKind page.toNat ≠ some .merge →
      (s.unit page.toNat ≠ .off → s.unit page.toNat ≠ .fault → completes (.unitReset page sub) s fun t =>
        bitsOf (t.rd pgRst 0x040) 18 16 = 2 ∧ sameUnits s t ∧
        ((s.hdr page.toNat).err ≠ 0xFFFF#16 → (t.hdr page.toNat).err = (s.hdr page.toNat).err + 1#16)) ∧
      (s.unit page.toNat = .off ∨ s.unit page.toNat = .fault → completes (.unitReset page sub) s fun t =>
        bitsOf (t.rd pgRst 0x040) 18 16 = 0 ∧ t.event pgRst 5 = true ∧
        (t.unit page.toNat = .off ∨ t.unit page.toNat = .running) ∧ ∀ k, k ≠ page.toNat → t.unit k = s.unit k)) ∧
    (s.resettable page.toNat = true → pageKind page.toNat = some .merge →
      (s.lane (4 * (page.toNat - 0x050) + sub.toNat)).st = .off →
      completes (.unitReset page sub) s fun t => bitsOf (t.rd pgRst 0x040) 18 16 = 0 ∧ t.event pgRst 5 = true ∧
        (t.lane (4 * (page.toNat - 0x050) + sub.toNat)).ledger = [] ∧
        ∀ k, k ≠ 4 * (page.toNat - 0x050) + sub.toNat → t.lane k = s.lane k))

/-- Right after reset the memories list nothing, the form and core tables are in order, no command waits, and bring-
up is at phase 1. State.reset lists no byte of the stacks, the landing buffers, the staging caches or host memory,
so that a byte of each reads 0, has the form and core tables in order and no command waiting, stands at bring-up
phase 1 with irz_ready low, and every slot, entry and job reads as empty. That the memories read 0 and that the part
is a Blank IRZ-4F are the model's choices (logs 1 and 5). (R353, R354, 12_memory.md) -/
def Obligations.ResetStateMeetsTheInvariants : Prop :=
  State.reset.memsWf = true ∧ State.reset.landing = [] ∧ State.reset.staging = [] ∧ State.reset.host = [] ∧
    State.reset.part = .irz4F ∧ State.reset.life = .blank ∧ rising State.reset.forms = true ∧ rising State.reset.cores = true ∧ State.reset.pending = [] ∧ State.reset.phase = 1#4 ∧
    State.reset.ready = false ∧ State.reset.mem = [] ∧ (∀ a, mget State.reset.mem a = 0#8) ∧
    (∀ a, State.reset.entry a = {}) ∧ (∀ q, State.reset.slot q = {}) ∧ ∀ j, State.reset.job j = {}

/-- No step clears a fuse bit or changes the part. Whatever command a step runs, from every state, every fuse bit
that was 1 is 1 afterwards, and the part's configuration stays; and unless the command is FUSE_BURN_ACK the fuses
are as they were. (R306, R394, R3) -/
def Obligations.FusesAreOnlyEverBurnt : Prop :=
  ∀ s t : State, step s = .next t → fusesKept s.fuses t.fuses = true ∧ t.part = s.part ∧
    ((∀ ok, s.pending.head? ≠ some (.fuseBurnAck ok)) → t.fuses = s.fuses)

/-- Every step keeps the form table and the table of physical cores in rising order of their numbers. From every
state whose form table and core table list their numbers in rising order, each once, a step gives a state whose
tables do. The tables are the model's representation of the forms placed and of the cores' records. (R21, R22, R331,
R333) -/
def Obligations.TheFormAndCoreTablesStayInOrder : Prop :=
  ∀ s t : State, rising s.forms = true → rising s.cores = true → step s = .next t →
    rising t.forms = true ∧ rising t.cores = true

/-- Every step keeps the stacks, the landing buffers, the staging caches and host memory in canonical form. From
every state whose memories list their bytes at rising addresses and no zero byte, a step gives a state whose
memories do, so that equal contents are equal data. The canonical form is the model's own (log entry 1).
(12_memory.md, 01_architecture.md, 18_ports.md) -/
def Obligations.EveryStepKeepsTheMemoriesCanonical : Prop :=
  ∀ s t : State, s.memsWf = true → step s = .next t → t.memsWf = true
end

