-- ==== Sys2Proof/Laws/State.lean ====
section
/-! SUPPORT. What each update of the state leaves alone: one lemma for each field of State. -/
namespace Sys2Proof.Machine

variable (s : State)

/-- A counter's advance changes the counters and, when it saturates, TOP_SAT and TOP's events. -/
theorem State.count_shape (a n : Nat) :
    s.count a n = { s with ctrs := (s.count a n).ctrs, regs := (s.count a n).regs, hdrs := (s.count a n).hdrs } := by
  unfold State.count
  dsimp only
  split
  · rfl
  · split <;> rfl

/-! ## setHdr -/

@[simp] theorem State.setHdr_pending (page : Nat) (h : Hdr) : (s.setHdr page h).pending = s.pending := rfl
@[simp] theorem State.setHdr_part (page : Nat) (h : Hdr) : (s.setHdr page h).part = s.part := rfl
@[simp] theorem State.setHdr_fuses (page : Nat) (h : Hdr) : (s.setHdr page h).fuses = s.fuses := rfl
@[simp] theorem State.setHdr_fuseTask (page : Nat) (h : Hdr) : (s.setHdr page h).fuseTask = s.fuseTask := rfl
@[simp] theorem State.setHdr_lc (page : Nat) (h : Hdr) : (s.setHdr page h).lc = s.lc := rfl
@[simp] theorem State.setHdr_fwMin (page : Nat) (h : Hdr) : (s.setHdr page h).fwMin = s.fwMin := rfl
@[simp] theorem State.setHdr_erasing (page : Nat) (h : Hdr) : (s.setHdr page h).erasing = s.erasing := rfl
@[simp] theorem State.setHdr_erasePct (page : Nat) (h : Hdr) : (s.setHdr page h).erasePct = s.erasePct := rfl
@[simp] theorem State.setHdr_ident (page : Nat) (h : Hdr) : (s.setHdr page h).ident = s.ident := rfl
@[simp] theorem State.setHdr_keys (page : Nat) (h : Hdr) : (s.setHdr page h).keys = s.keys := rfl
@[simp] theorem State.setHdr_nonce (page : Nat) (h : Hdr) : (s.setHdr page h).nonce = s.nonce := rfl
@[simp] theorem State.setHdr_lcount (page : Nat) (h : Hdr) : (s.setHdr page h).lcount = s.lcount := rfl
@[simp] theorem State.setHdr_phase (page : Nat) (h : Hdr) : (s.setHdr page h).phase = s.phase := rfl
@[simp] theorem State.setHdr_ready (page : Nat) (h : Hdr) : (s.setHdr page h).ready = s.ready := rfl
@[simp] theorem State.setHdr_regs (page : Nat) (h : Hdr) : (s.setHdr page h).regs = s.regs := rfl
@[simp] theorem State.setHdr_ctrs (page : Nat) (h : Hdr) : (s.setHdr page h).ctrs = s.ctrs := rfl
@[simp] theorem State.setHdr_latches (page : Nat) (h : Hdr) : (s.setHdr page h).latches = s.latches := rfl
@[simp] theorem State.setHdr_cap (page : Nat) (h : Hdr) : (s.setHdr page h).cap = s.cap := rfl
@[simp] theorem State.setHdr_used (page : Nat) (h : Hdr) : (s.setHdr page h).used = s.used := rfl
@[simp] theorem State.setHdr_served (page : Nat) (h : Hdr) : (s.setHdr page h).served = s.served := rfl
@[simp] theorem State.setHdr_periodAt (page : Nat) (h : Hdr) : (s.setHdr page h).periodAt = s.periodAt := rfl
@[simp] theorem State.setHdr_rdata (page : Nat) (h : Hdr) : (s.setHdr page h).rdata = s.rdata := rfl
@[simp] theorem State.setHdr_dir (page : Nat) (h : Hdr) : (s.setHdr page h).dir = s.dir := rfl
@[simp] theorem State.setHdr_jobs (page : Nat) (h : Hdr) : (s.setHdr page h).jobs = s.jobs := rfl
@[simp] theorem State.setHdr_slots (page : Nat) (h : Hdr) : (s.setHdr page h).slots = s.slots := rfl
@[simp] theorem State.setHdr_grants (page : Nat) (h : Hdr) : (s.setHdr page h).grants = s.grants := rfl
@[simp] theorem State.setHdr_lanes (page : Nat) (h : Hdr) : (s.setHdr page h).lanes = s.lanes := rfl
@[simp] theorem State.setHdr_cmds (page : Nat) (h : Hdr) : (s.setHdr page h).cmds = s.cmds := rfl
@[simp] theorem State.setHdr_cmdCount (page : Nat) (h : Hdr) : (s.setHdr page h).cmdCount = s.cmdCount := rfl
@[simp] theorem State.setHdr_forms (page : Nat) (h : Hdr) : (s.setHdr page h).forms = s.forms := rfl
@[simp] theorem State.setHdr_formCount (page : Nat) (h : Hdr) : (s.setHdr page h).formCount = s.formCount := rfl
@[simp] theorem State.setHdr_cores (page : Nat) (h : Hdr) : (s.setHdr page h).cores = s.cores := rfl
@[simp] theorem State.setHdr_remap (page : Nat) (h : Hdr) : (s.setHdr page h).remap = s.remap := rfl
@[simp] theorem State.setHdr_baseEpoch (page : Nat) (h : Hdr) : (s.setHdr page h).baseEpoch = s.baseEpoch := rfl
@[simp] theorem State.setHdr_unbound (page : Nat) (h : Hdr) : (s.setHdr page h).unbound = s.unbound := rfl
@[simp] theorem State.setHdr_log (page : Nat) (h : Hdr) : (s.setHdr page h).log = s.log := rfl
@[simp] theorem State.setHdr_logLatch (page : Nat) (h : Hdr) : (s.setHdr page h).logLatch = s.logLatch := rfl
@[simp] theorem State.setHdr_logRead (page : Nat) (h : Hdr) : (s.setHdr page h).logRead = s.logRead := rfl
@[simp] theorem State.setHdr_logOvf (page : Nat) (h : Hdr) : (s.setHdr page h).logOvf = s.logOvf := rfl
@[simp] theorem State.setHdr_landing (page : Nat) (h : Hdr) : (s.setHdr page h).landing = s.landing := rfl
@[simp] theorem State.setHdr_landUse (page : Nat) (h : Hdr) : (s.setHdr page h).landUse = s.landUse := rfl
@[simp] theorem State.setHdr_staging (page : Nat) (h : Hdr) : (s.setHdr page h).staging = s.staging := rfl
@[simp] theorem State.setHdr_stagedKeys (page : Nat) (h : Hdr) : (s.setHdr page h).stagedKeys = s.stagedKeys := rfl
@[simp] theorem State.setHdr_mem (page : Nat) (h : Hdr) : (s.setHdr page h).mem = s.mem := rfl
@[simp] theorem State.setHdr_uncorr (page : Nat) (h : Hdr) : (s.setHdr page h).uncorr = s.uncorr := rfl
@[simp] theorem State.setHdr_stk (page : Nat) (h : Hdr) : (s.setHdr page h).stk = s.stk := rfl
@[simp] theorem State.setHdr_halvedAt (page : Nat) (h : Hdr) : (s.setHdr page h).halvedAt = s.halvedAt := rfl
@[simp] theorem State.setHdr_quarantine (page : Nat) (h : Hdr) : (s.setHdr page h).quarantine = s.quarantine := rfl
@[simp] theorem State.setHdr_sipKey (page : Nat) (h : Hdr) : (s.setHdr page h).sipKey = s.sipKey := rfl
@[simp] theorem State.setHdr_prefixes (page : Nat) (h : Hdr) : (s.setHdr page h).prefixes = s.prefixes := rfl
@[simp] theorem State.setHdr_stamps (page : Nat) (h : Hdr) : (s.setHdr page h).stamps = s.stamps := rfl
@[simp] theorem State.setHdr_evictPtr (page : Nat) (h : Hdr) : (s.setHdr page h).evictPtr = s.evictPtr := rfl
@[simp] theorem State.setHdr_tcache (page : Nat) (h : Hdr) : (s.setHdr page h).tcache = s.tcache := rfl
@[simp] theorem State.setHdr_granules (page : Nat) (h : Hdr) : (s.setHdr page h).granules = s.granules := rfl
@[simp] theorem State.setHdr_orphans (page : Nat) (h : Hdr) : (s.setHdr page h).orphans = s.orphans := rfl
@[simp] theorem State.setHdr_lostGranules (page : Nat) (h : Hdr) : (s.setHdr page h).lostGranules = s.lostGranules := rfl
@[simp] theorem State.setHdr_tide (page : Nat) (h : Hdr) : (s.setHdr page h).tide = s.tide := rfl
@[simp] theorem State.setHdr_tideCur (page : Nat) (h : Hdr) : (s.setHdr page h).tideCur = s.tideCur := rfl
@[simp] theorem State.setHdr_debt (page : Nat) (h : Hdr) : (s.setHdr page h).debt = s.debt := rfl
@[simp] theorem State.setHdr_overruns (page : Nat) (h : Hdr) : (s.setHdr page h).overruns = s.overruns := rfl
@[simp] theorem State.setHdr_modelRes (page : Nat) (h : Hdr) : (s.setHdr page h).modelRes = s.modelRes := rfl
@[simp] theorem State.setHdr_models (page : Nat) (h : Hdr) : (s.setHdr page h).models = s.models := rfl
@[simp] theorem State.setHdr_wf (page : Nat) (h : Hdr) : (s.setHdr page h).wf = s.wf := rfl
@[simp] theorem State.setHdr_intakes (page : Nat) (h : Hdr) : (s.setHdr page h).intakes = s.intakes := rfl
@[simp] theorem State.setHdr_afaultq (page : Nat) (h : Hdr) : (s.setHdr page h).afaultq = s.afaultq := rfl
@[simp] theorem State.setHdr_afaultLatch (page : Nat) (h : Hdr) : (s.setHdr page h).afaultLatch = s.afaultLatch := rfl
@[simp] theorem State.setHdr_afaultRead (page : Nat) (h : Hdr) : (s.setHdr page h).afaultRead = s.afaultRead := rfl
@[simp] theorem State.setHdr_circ (page : Nat) (h : Hdr) : (s.setHdr page h).circ = s.circ := rfl
@[simp] theorem State.setHdr_ports (page : Nat) (h : Hdr) : (s.setHdr page h).ports = s.ports := rfl
@[simp] theorem State.setHdr_ranks (page : Nat) (h : Hdr) : (s.setHdr page h).ranks = s.ranks := rfl
@[simp] theorem State.setHdr_colls (page : Nat) (h : Hdr) : (s.setHdr page h).colls = s.colls := rfl
@[simp] theorem State.setHdr_ctrlIn (page : Nat) (h : Hdr) : (s.setHdr page h).ctrlIn = s.ctrlIn := rfl
@[simp] theorem State.setHdr_updOut (page : Nat) (h : Hdr) : (s.setHdr page h).updOut = s.updOut := rfl
@[simp] theorem State.setHdr_hostReads (page : Nat) (h : Hdr) : (s.setHdr page h).hostReads = s.hostReads := rfl
@[simp] theorem State.setHdr_hostWrites (page : Nat) (h : Hdr) : (s.setHdr page h).hostWrites = s.hostWrites := rfl
@[simp] theorem State.setHdr_host (page : Nat) (h : Hdr) : (s.setHdr page h).host = s.host := rfl
@[simp] theorem State.setHdr_late (page : Nat) (h : Hdr) : (s.setHdr page h).late = s.late := rfl
@[simp] theorem State.setHdr_readQ (page : Nat) (h : Hdr) : (s.setHdr page h).readQ = s.readQ := rfl
@[simp] theorem State.setHdr_writeQ (page : Nat) (h : Hdr) : (s.setHdr page h).writeQ = s.writeQ := rfl
@[simp] theorem State.setHdr_secTasks (page : Nat) (h : Hdr) : (s.setHdr page h).secTasks = s.secTasks := rfl
@[simp] theorem State.setHdr_fwTask (page : Nat) (h : Hdr) : (s.setHdr page h).fwTask = s.fwTask := rfl
@[simp] theorem State.setHdr_hwQ (page : Nat) (h : Hdr) : (s.setHdr page h).hwQ = s.hwQ := rfl
@[simp] theorem State.setHdr_mclkFail (page : Nat) (h : Hdr) : (s.setHdr page h).mclkFail = s.mclkFail := rfl
@[simp] theorem State.setHdr_lclkFail (page : Nat) (h : Hdr) : (s.setHdr page h).lclkFail = s.lclkFail := rfl
@[simp] theorem State.setHdr_hwData (page : Nat) (h : Hdr) : (s.setHdr page h).hwData = s.hwData := rfl
@[simp] theorem State.setHdr_hwStat (page : Nat) (h : Hdr) : (s.setHdr page h).hwStat = s.hwStat := rfl
@[simp] theorem State.setHdr_pwr (page : Nat) (h : Hdr) : (s.setHdr page h).pwr = s.pwr := rfl
@[simp] theorem State.setHdr_domIdle (page : Nat) (h : Hdr) : (s.setHdr page h).domIdle = s.domIdle := rfl
@[simp] theorem State.setHdr_gated (page : Nat) (h : Hdr) : (s.setHdr page h).gated = s.gated := rfl
@[simp] theorem State.setHdr_clkmon (page : Nat) (h : Hdr) : (s.setHdr page h).clkmon = s.clkmon := rfl
@[simp] theorem State.setHdr_cluster0 (page : Nat) (h : Hdr) : (s.setHdr page h).cluster0 = s.cluster0 := rfl
@[simp] theorem State.setHdr_cluster1 (page : Nat) (h : Hdr) : (s.setHdr page h).cluster1 = s.cluster1 := rfl
@[simp] theorem State.setHdr_duty (page : Nat) (h : Hdr) : (s.setHdr page h).duty = s.duty := rfl
@[simp] theorem State.setHdr_tablesBad (page : Nat) (h : Hdr) : (s.setHdr page h).tablesBad = s.tablesBad := rfl
@[simp] theorem State.setHdr_tablesMin (page : Nat) (h : Hdr) : (s.setHdr page h).tablesMin = s.tablesMin := rfl
@[simp] theorem State.setHdr_ret (page : Nat) (h : Hdr) : (s.setHdr page h).ret = s.ret := rfl
@[simp] theorem State.setHdr_cause (page : Nat) (h : Hdr) : (s.setHdr page h).cause = s.cause := rfl
@[simp] theorem State.setHdr_store (page : Nat) (h : Hdr) : (s.setHdr page h).store = s.store := rfl
@[simp] theorem State.setHdr_beacons (page : Nat) (h : Hdr) : (s.setHdr page h).beacons = s.beacons := rfl
@[simp] theorem State.setHdr_decl (page : Nat) (h : Hdr) : (s.setHdr page h).decl = s.decl := rfl
@[simp] theorem State.setHdr_fresh (page : Nat) (h : Hdr) : (s.setHdr page h).fresh = s.fresh := rfl

/-! ## raise -/

@[simp] theorem State.raise_pending (page bit : Nat) : (s.raise page bit).pending = s.pending := rfl
@[simp] theorem State.raise_part (page bit : Nat) : (s.raise page bit).part = s.part := rfl
@[simp] theorem State.raise_fuses (page bit : Nat) : (s.raise page bit).fuses = s.fuses := rfl
@[simp] theorem State.raise_fuseTask (page bit : Nat) : (s.raise page bit).fuseTask = s.fuseTask := rfl
@[simp] theorem State.raise_lc (page bit : Nat) : (s.raise page bit).lc = s.lc := rfl
@[simp] theorem State.raise_fwMin (page bit : Nat) : (s.raise page bit).fwMin = s.fwMin := rfl
@[simp] theorem State.raise_erasing (page bit : Nat) : (s.raise page bit).erasing = s.erasing := rfl
@[simp] theorem State.raise_erasePct (page bit : Nat) : (s.raise page bit).erasePct = s.erasePct := rfl
@[simp] theorem State.raise_ident (page bit : Nat) : (s.raise page bit).ident = s.ident := rfl
@[simp] theorem State.raise_keys (page bit : Nat) : (s.raise page bit).keys = s.keys := rfl
@[simp] theorem State.raise_nonce (page bit : Nat) : (s.raise page bit).nonce = s.nonce := rfl
@[simp] theorem State.raise_lcount (page bit : Nat) : (s.raise page bit).lcount = s.lcount := rfl
@[simp] theorem State.raise_phase (page bit : Nat) : (s.raise page bit).phase = s.phase := rfl
@[simp] theorem State.raise_ready (page bit : Nat) : (s.raise page bit).ready = s.ready := rfl
@[simp] theorem State.raise_regs (page bit : Nat) : (s.raise page bit).regs = s.regs := rfl
@[simp] theorem State.raise_ctrs (page bit : Nat) : (s.raise page bit).ctrs = s.ctrs := rfl
@[simp] theorem State.raise_latches (page bit : Nat) : (s.raise page bit).latches = s.latches := rfl
@[simp] theorem State.raise_cap (page bit : Nat) : (s.raise page bit).cap = s.cap := rfl
@[simp] theorem State.raise_used (page bit : Nat) : (s.raise page bit).used = s.used := rfl
@[simp] theorem State.raise_served (page bit : Nat) : (s.raise page bit).served = s.served := rfl
@[simp] theorem State.raise_periodAt (page bit : Nat) : (s.raise page bit).periodAt = s.periodAt := rfl
@[simp] theorem State.raise_rdata (page bit : Nat) : (s.raise page bit).rdata = s.rdata := rfl
@[simp] theorem State.raise_dir (page bit : Nat) : (s.raise page bit).dir = s.dir := rfl
@[simp] theorem State.raise_jobs (page bit : Nat) : (s.raise page bit).jobs = s.jobs := rfl
@[simp] theorem State.raise_slots (page bit : Nat) : (s.raise page bit).slots = s.slots := rfl
@[simp] theorem State.raise_grants (page bit : Nat) : (s.raise page bit).grants = s.grants := rfl
@[simp] theorem State.raise_lanes (page bit : Nat) : (s.raise page bit).lanes = s.lanes := rfl
@[simp] theorem State.raise_cmds (page bit : Nat) : (s.raise page bit).cmds = s.cmds := rfl
@[simp] theorem State.raise_cmdCount (page bit : Nat) : (s.raise page bit).cmdCount = s.cmdCount := rfl
@[simp] theorem State.raise_forms (page bit : Nat) : (s.raise page bit).forms = s.forms := rfl
@[simp] theorem State.raise_formCount (page bit : Nat) : (s.raise page bit).formCount = s.formCount := rfl
@[simp] theorem State.raise_cores (page bit : Nat) : (s.raise page bit).cores = s.cores := rfl
@[simp] theorem State.raise_remap (page bit : Nat) : (s.raise page bit).remap = s.remap := rfl
@[simp] theorem State.raise_baseEpoch (page bit : Nat) : (s.raise page bit).baseEpoch = s.baseEpoch := rfl
@[simp] theorem State.raise_unbound (page bit : Nat) : (s.raise page bit).unbound = s.unbound := rfl
@[simp] theorem State.raise_log (page bit : Nat) : (s.raise page bit).log = s.log := rfl
@[simp] theorem State.raise_logLatch (page bit : Nat) : (s.raise page bit).logLatch = s.logLatch := rfl
@[simp] theorem State.raise_logRead (page bit : Nat) : (s.raise page bit).logRead = s.logRead := rfl
@[simp] theorem State.raise_logOvf (page bit : Nat) : (s.raise page bit).logOvf = s.logOvf := rfl
@[simp] theorem State.raise_landing (page bit : Nat) : (s.raise page bit).landing = s.landing := rfl
@[simp] theorem State.raise_landUse (page bit : Nat) : (s.raise page bit).landUse = s.landUse := rfl
@[simp] theorem State.raise_staging (page bit : Nat) : (s.raise page bit).staging = s.staging := rfl
@[simp] theorem State.raise_stagedKeys (page bit : Nat) : (s.raise page bit).stagedKeys = s.stagedKeys := rfl
@[simp] theorem State.raise_mem (page bit : Nat) : (s.raise page bit).mem = s.mem := rfl
@[simp] theorem State.raise_uncorr (page bit : Nat) : (s.raise page bit).uncorr = s.uncorr := rfl
@[simp] theorem State.raise_stk (page bit : Nat) : (s.raise page bit).stk = s.stk := rfl
@[simp] theorem State.raise_halvedAt (page bit : Nat) : (s.raise page bit).halvedAt = s.halvedAt := rfl
@[simp] theorem State.raise_quarantine (page bit : Nat) : (s.raise page bit).quarantine = s.quarantine := rfl
@[simp] theorem State.raise_sipKey (page bit : Nat) : (s.raise page bit).sipKey = s.sipKey := rfl
@[simp] theorem State.raise_prefixes (page bit : Nat) : (s.raise page bit).prefixes = s.prefixes := rfl
@[simp] theorem State.raise_stamps (page bit : Nat) : (s.raise page bit).stamps = s.stamps := rfl
@[simp] theorem State.raise_evictPtr (page bit : Nat) : (s.raise page bit).evictPtr = s.evictPtr := rfl
@[simp] theorem State.raise_tcache (page bit : Nat) : (s.raise page bit).tcache = s.tcache := rfl
@[simp] theorem State.raise_granules (page bit : Nat) : (s.raise page bit).granules = s.granules := rfl
@[simp] theorem State.raise_orphans (page bit : Nat) : (s.raise page bit).orphans = s.orphans := rfl
@[simp] theorem State.raise_lostGranules (page bit : Nat) : (s.raise page bit).lostGranules = s.lostGranules := rfl
@[simp] theorem State.raise_tide (page bit : Nat) : (s.raise page bit).tide = s.tide := rfl
@[simp] theorem State.raise_tideCur (page bit : Nat) : (s.raise page bit).tideCur = s.tideCur := rfl
@[simp] theorem State.raise_debt (page bit : Nat) : (s.raise page bit).debt = s.debt := rfl
@[simp] theorem State.raise_overruns (page bit : Nat) : (s.raise page bit).overruns = s.overruns := rfl
@[simp] theorem State.raise_modelRes (page bit : Nat) : (s.raise page bit).modelRes = s.modelRes := rfl
@[simp] theorem State.raise_models (page bit : Nat) : (s.raise page bit).models = s.models := rfl
@[simp] theorem State.raise_wf (page bit : Nat) : (s.raise page bit).wf = s.wf := rfl
@[simp] theorem State.raise_intakes (page bit : Nat) : (s.raise page bit).intakes = s.intakes := rfl
@[simp] theorem State.raise_afaultq (page bit : Nat) : (s.raise page bit).afaultq = s.afaultq := rfl
@[simp] theorem State.raise_afaultLatch (page bit : Nat) : (s.raise page bit).afaultLatch = s.afaultLatch := rfl
@[simp] theorem State.raise_afaultRead (page bit : Nat) : (s.raise page bit).afaultRead = s.afaultRead := rfl
@[simp] theorem State.raise_circ (page bit : Nat) : (s.raise page bit).circ = s.circ := rfl
@[simp] theorem State.raise_ports (page bit : Nat) : (s.raise page bit).ports = s.ports := rfl
@[simp] theorem State.raise_ranks (page bit : Nat) : (s.raise page bit).ranks = s.ranks := rfl
@[simp] theorem State.raise_colls (page bit : Nat) : (s.raise page bit).colls = s.colls := rfl
@[simp] theorem State.raise_ctrlIn (page bit : Nat) : (s.raise page bit).ctrlIn = s.ctrlIn := rfl
@[simp] theorem State.raise_updOut (page bit : Nat) : (s.raise page bit).updOut = s.updOut := rfl
@[simp] theorem State.raise_hostReads (page bit : Nat) : (s.raise page bit).hostReads = s.hostReads := rfl
@[simp] theorem State.raise_hostWrites (page bit : Nat) : (s.raise page bit).hostWrites = s.hostWrites := rfl
@[simp] theorem State.raise_host (page bit : Nat) : (s.raise page bit).host = s.host := rfl
@[simp] theorem State.raise_late (page bit : Nat) : (s.raise page bit).late = s.late := rfl
@[simp] theorem State.raise_readQ (page bit : Nat) : (s.raise page bit).readQ = s.readQ := rfl
@[simp] theorem State.raise_writeQ (page bit : Nat) : (s.raise page bit).writeQ = s.writeQ := rfl
@[simp] theorem State.raise_secTasks (page bit : Nat) : (s.raise page bit).secTasks = s.secTasks := rfl
@[simp] theorem State.raise_fwTask (page bit : Nat) : (s.raise page bit).fwTask = s.fwTask := rfl
@[simp] theorem State.raise_hwQ (page bit : Nat) : (s.raise page bit).hwQ = s.hwQ := rfl
@[simp] theorem State.raise_mclkFail (page bit : Nat) : (s.raise page bit).mclkFail = s.mclkFail := rfl
@[simp] theorem State.raise_lclkFail (page bit : Nat) : (s.raise page bit).lclkFail = s.lclkFail := rfl
@[simp] theorem State.raise_hwData (page bit : Nat) : (s.raise page bit).hwData = s.hwData := rfl
@[simp] theorem State.raise_hwStat (page bit : Nat) : (s.raise page bit).hwStat = s.hwStat := rfl
@[simp] theorem State.raise_pwr (page bit : Nat) : (s.raise page bit).pwr = s.pwr := rfl
@[simp] theorem State.raise_domIdle (page bit : Nat) : (s.raise page bit).domIdle = s.domIdle := rfl
@[simp] theorem State.raise_gated (page bit : Nat) : (s.raise page bit).gated = s.gated := rfl
@[simp] theorem State.raise_clkmon (page bit : Nat) : (s.raise page bit).clkmon = s.clkmon := rfl
@[simp] theorem State.raise_cluster0 (page bit : Nat) : (s.raise page bit).cluster0 = s.cluster0 := rfl
@[simp] theorem State.raise_cluster1 (page bit : Nat) : (s.raise page bit).cluster1 = s.cluster1 := rfl
@[simp] theorem State.raise_duty (page bit : Nat) : (s.raise page bit).duty = s.duty := rfl
@[simp] theorem State.raise_tablesBad (page bit : Nat) : (s.raise page bit).tablesBad = s.tablesBad := rfl
@[simp] theorem State.raise_tablesMin (page bit : Nat) : (s.raise page bit).tablesMin = s.tablesMin := rfl
@[simp] theorem State.raise_ret (page bit : Nat) : (s.raise page bit).ret = s.ret := rfl
@[simp] theorem State.raise_cause (page bit : Nat) : (s.raise page bit).cause = s.cause := rfl
@[simp] theorem State.raise_store (page bit : Nat) : (s.raise page bit).store = s.store := rfl
@[simp] theorem State.raise_beacons (page bit : Nat) : (s.raise page bit).beacons = s.beacons := rfl
@[simp] theorem State.raise_decl (page bit : Nat) : (s.raise page bit).decl = s.decl := rfl
@[simp] theorem State.raise_fresh (page bit : Nat) : (s.raise page bit).fresh = s.fresh := rfl

/-! ## errInc -/

@[simp] theorem State.errInc_pending (page : Nat) : (s.errInc page).pending = s.pending := rfl
@[simp] theorem State.errInc_part (page : Nat) : (s.errInc page).part = s.part := rfl
@[simp] theorem State.errInc_fuses (page : Nat) : (s.errInc page).fuses = s.fuses := rfl
@[simp] theorem State.errInc_fuseTask (page : Nat) : (s.errInc page).fuseTask = s.fuseTask := rfl
@[simp] theorem State.errInc_lc (page : Nat) : (s.errInc page).lc = s.lc := rfl
@[simp] theorem State.errInc_fwMin (page : Nat) : (s.errInc page).fwMin = s.fwMin := rfl
@[simp] theorem State.errInc_erasing (page : Nat) : (s.errInc page).erasing = s.erasing := rfl
@[simp] theorem State.errInc_erasePct (page : Nat) : (s.errInc page).erasePct = s.erasePct := rfl
@[simp] theorem State.errInc_ident (page : Nat) : (s.errInc page).ident = s.ident := rfl
@[simp] theorem State.errInc_keys (page : Nat) : (s.errInc page).keys = s.keys := rfl
@[simp] theorem State.errInc_nonce (page : Nat) : (s.errInc page).nonce = s.nonce := rfl
@[simp] theorem State.errInc_lcount (page : Nat) : (s.errInc page).lcount = s.lcount := rfl
@[simp] theorem State.errInc_phase (page : Nat) : (s.errInc page).phase = s.phase := rfl
@[simp] theorem State.errInc_ready (page : Nat) : (s.errInc page).ready = s.ready := rfl
@[simp] theorem State.errInc_regs (page : Nat) : (s.errInc page).regs = s.regs := rfl
@[simp] theorem State.errInc_ctrs (page : Nat) : (s.errInc page).ctrs = s.ctrs := rfl
@[simp] theorem State.errInc_latches (page : Nat) : (s.errInc page).latches = s.latches := rfl
@[simp] theorem State.errInc_cap (page : Nat) : (s.errInc page).cap = s.cap := rfl
@[simp] theorem State.errInc_used (page : Nat) : (s.errInc page).used = s.used := rfl
@[simp] theorem State.errInc_served (page : Nat) : (s.errInc page).served = s.served := rfl
@[simp] theorem State.errInc_periodAt (page : Nat) : (s.errInc page).periodAt = s.periodAt := rfl
@[simp] theorem State.errInc_rdata (page : Nat) : (s.errInc page).rdata = s.rdata := rfl
@[simp] theorem State.errInc_dir (page : Nat) : (s.errInc page).dir = s.dir := rfl
@[simp] theorem State.errInc_jobs (page : Nat) : (s.errInc page).jobs = s.jobs := rfl
@[simp] theorem State.errInc_slots (page : Nat) : (s.errInc page).slots = s.slots := rfl
@[simp] theorem State.errInc_grants (page : Nat) : (s.errInc page).grants = s.grants := rfl
@[simp] theorem State.errInc_lanes (page : Nat) : (s.errInc page).lanes = s.lanes := rfl
@[simp] theorem State.errInc_cmds (page : Nat) : (s.errInc page).cmds = s.cmds := rfl
@[simp] theorem State.errInc_cmdCount (page : Nat) : (s.errInc page).cmdCount = s.cmdCount := rfl
@[simp] theorem State.errInc_forms (page : Nat) : (s.errInc page).forms = s.forms := rfl
@[simp] theorem State.errInc_formCount (page : Nat) : (s.errInc page).formCount = s.formCount := rfl
@[simp] theorem State.errInc_cores (page : Nat) : (s.errInc page).cores = s.cores := rfl
@[simp] theorem State.errInc_remap (page : Nat) : (s.errInc page).remap = s.remap := rfl
@[simp] theorem State.errInc_baseEpoch (page : Nat) : (s.errInc page).baseEpoch = s.baseEpoch := rfl
@[simp] theorem State.errInc_unbound (page : Nat) : (s.errInc page).unbound = s.unbound := rfl
@[simp] theorem State.errInc_log (page : Nat) : (s.errInc page).log = s.log := rfl
@[simp] theorem State.errInc_logLatch (page : Nat) : (s.errInc page).logLatch = s.logLatch := rfl
@[simp] theorem State.errInc_logRead (page : Nat) : (s.errInc page).logRead = s.logRead := rfl
@[simp] theorem State.errInc_logOvf (page : Nat) : (s.errInc page).logOvf = s.logOvf := rfl
@[simp] theorem State.errInc_landing (page : Nat) : (s.errInc page).landing = s.landing := rfl
@[simp] theorem State.errInc_landUse (page : Nat) : (s.errInc page).landUse = s.landUse := rfl
@[simp] theorem State.errInc_staging (page : Nat) : (s.errInc page).staging = s.staging := rfl
@[simp] theorem State.errInc_stagedKeys (page : Nat) : (s.errInc page).stagedKeys = s.stagedKeys := rfl
@[simp] theorem State.errInc_mem (page : Nat) : (s.errInc page).mem = s.mem := rfl
@[simp] theorem State.errInc_uncorr (page : Nat) : (s.errInc page).uncorr = s.uncorr := rfl
@[simp] theorem State.errInc_stk (page : Nat) : (s.errInc page).stk = s.stk := rfl
@[simp] theorem State.errInc_halvedAt (page : Nat) : (s.errInc page).halvedAt = s.halvedAt := rfl
@[simp] theorem State.errInc_quarantine (page : Nat) : (s.errInc page).quarantine = s.quarantine := rfl
@[simp] theorem State.errInc_sipKey (page : Nat) : (s.errInc page).sipKey = s.sipKey := rfl
@[simp] theorem State.errInc_prefixes (page : Nat) : (s.errInc page).prefixes = s.prefixes := rfl
@[simp] theorem State.errInc_stamps (page : Nat) : (s.errInc page).stamps = s.stamps := rfl
@[simp] theorem State.errInc_evictPtr (page : Nat) : (s.errInc page).evictPtr = s.evictPtr := rfl
@[simp] theorem State.errInc_tcache (page : Nat) : (s.errInc page).tcache = s.tcache := rfl
@[simp] theorem State.errInc_granules (page : Nat) : (s.errInc page).granules = s.granules := rfl
@[simp] theorem State.errInc_orphans (page : Nat) : (s.errInc page).orphans = s.orphans := rfl
@[simp] theorem State.errInc_lostGranules (page : Nat) : (s.errInc page).lostGranules = s.lostGranules := rfl
@[simp] theorem State.errInc_tide (page : Nat) : (s.errInc page).tide = s.tide := rfl
@[simp] theorem State.errInc_tideCur (page : Nat) : (s.errInc page).tideCur = s.tideCur := rfl
@[simp] theorem State.errInc_debt (page : Nat) : (s.errInc page).debt = s.debt := rfl
@[simp] theorem State.errInc_overruns (page : Nat) : (s.errInc page).overruns = s.overruns := rfl
@[simp] theorem State.errInc_modelRes (page : Nat) : (s.errInc page).modelRes = s.modelRes := rfl
@[simp] theorem State.errInc_models (page : Nat) : (s.errInc page).models = s.models := rfl
@[simp] theorem State.errInc_wf (page : Nat) : (s.errInc page).wf = s.wf := rfl
@[simp] theorem State.errInc_intakes (page : Nat) : (s.errInc page).intakes = s.intakes := rfl
@[simp] theorem State.errInc_afaultq (page : Nat) : (s.errInc page).afaultq = s.afaultq := rfl
@[simp] theorem State.errInc_afaultLatch (page : Nat) : (s.errInc page).afaultLatch = s.afaultLatch := rfl
@[simp] theorem State.errInc_afaultRead (page : Nat) : (s.errInc page).afaultRead = s.afaultRead := rfl
@[simp] theorem State.errInc_circ (page : Nat) : (s.errInc page).circ = s.circ := rfl
@[simp] theorem State.errInc_ports (page : Nat) : (s.errInc page).ports = s.ports := rfl
@[simp] theorem State.errInc_ranks (page : Nat) : (s.errInc page).ranks = s.ranks := rfl
@[simp] theorem State.errInc_colls (page : Nat) : (s.errInc page).colls = s.colls := rfl
@[simp] theorem State.errInc_ctrlIn (page : Nat) : (s.errInc page).ctrlIn = s.ctrlIn := rfl
@[simp] theorem State.errInc_updOut (page : Nat) : (s.errInc page).updOut = s.updOut := rfl
@[simp] theorem State.errInc_hostReads (page : Nat) : (s.errInc page).hostReads = s.hostReads := rfl
@[simp] theorem State.errInc_hostWrites (page : Nat) : (s.errInc page).hostWrites = s.hostWrites := rfl
@[simp] theorem State.errInc_host (page : Nat) : (s.errInc page).host = s.host := rfl
@[simp] theorem State.errInc_late (page : Nat) : (s.errInc page).late = s.late := rfl
@[simp] theorem State.errInc_readQ (page : Nat) : (s.errInc page).readQ = s.readQ := rfl
@[simp] theorem State.errInc_writeQ (page : Nat) : (s.errInc page).writeQ = s.writeQ := rfl
@[simp] theorem State.errInc_secTasks (page : Nat) : (s.errInc page).secTasks = s.secTasks := rfl
@[simp] theorem State.errInc_fwTask (page : Nat) : (s.errInc page).fwTask = s.fwTask := rfl
@[simp] theorem State.errInc_hwQ (page : Nat) : (s.errInc page).hwQ = s.hwQ := rfl
@[simp] theorem State.errInc_mclkFail (page : Nat) : (s.errInc page).mclkFail = s.mclkFail := rfl
@[simp] theorem State.errInc_lclkFail (page : Nat) : (s.errInc page).lclkFail = s.lclkFail := rfl
@[simp] theorem State.errInc_hwData (page : Nat) : (s.errInc page).hwData = s.hwData := rfl
@[simp] theorem State.errInc_hwStat (page : Nat) : (s.errInc page).hwStat = s.hwStat := rfl
@[simp] theorem State.errInc_pwr (page : Nat) : (s.errInc page).pwr = s.pwr := rfl
@[simp] theorem State.errInc_domIdle (page : Nat) : (s.errInc page).domIdle = s.domIdle := rfl
@[simp] theorem State.errInc_gated (page : Nat) : (s.errInc page).gated = s.gated := rfl
@[simp] theorem State.errInc_clkmon (page : Nat) : (s.errInc page).clkmon = s.clkmon := rfl
@[simp] theorem State.errInc_cluster0 (page : Nat) : (s.errInc page).cluster0 = s.cluster0 := rfl
@[simp] theorem State.errInc_cluster1 (page : Nat) : (s.errInc page).cluster1 = s.cluster1 := rfl
@[simp] theorem State.errInc_duty (page : Nat) : (s.errInc page).duty = s.duty := rfl
@[simp] theorem State.errInc_tablesBad (page : Nat) : (s.errInc page).tablesBad = s.tablesBad := rfl
@[simp] theorem State.errInc_tablesMin (page : Nat) : (s.errInc page).tablesMin = s.tablesMin := rfl
@[simp] theorem State.errInc_ret (page : Nat) : (s.errInc page).ret = s.ret := rfl
@[simp] theorem State.errInc_cause (page : Nat) : (s.errInc page).cause = s.cause := rfl
@[simp] theorem State.errInc_store (page : Nat) : (s.errInc page).store = s.store := rfl
@[simp] theorem State.errInc_beacons (page : Nat) : (s.errInc page).beacons = s.beacons := rfl
@[simp] theorem State.errInc_decl (page : Nat) : (s.errInc page).decl = s.decl := rfl
@[simp] theorem State.errInc_fresh (page : Nat) : (s.errInc page).fresh = s.fresh := rfl

/-! ## setUnit -/

@[simp] theorem State.setUnit_pending (page : Nat) (u : UnitState) : (s.setUnit page u).pending = s.pending := rfl
@[simp] theorem State.setUnit_part (page : Nat) (u : UnitState) : (s.setUnit page u).part = s.part := rfl
@[simp] theorem State.setUnit_fuses (page : Nat) (u : UnitState) : (s.setUnit page u).fuses = s.fuses := rfl
@[simp] theorem State.setUnit_fuseTask (page : Nat) (u : UnitState) : (s.setUnit page u).fuseTask = s.fuseTask := rfl
@[simp] theorem State.setUnit_lc (page : Nat) (u : UnitState) : (s.setUnit page u).lc = s.lc := rfl
@[simp] theorem State.setUnit_fwMin (page : Nat) (u : UnitState) : (s.setUnit page u).fwMin = s.fwMin := rfl
@[simp] theorem State.setUnit_erasing (page : Nat) (u : UnitState) : (s.setUnit page u).erasing = s.erasing := rfl
@[simp] theorem State.setUnit_erasePct (page : Nat) (u : UnitState) : (s.setUnit page u).erasePct = s.erasePct := rfl
@[simp] theorem State.setUnit_ident (page : Nat) (u : UnitState) : (s.setUnit page u).ident = s.ident := rfl
@[simp] theorem State.setUnit_keys (page : Nat) (u : UnitState) : (s.setUnit page u).keys = s.keys := rfl
@[simp] theorem State.setUnit_nonce (page : Nat) (u : UnitState) : (s.setUnit page u).nonce = s.nonce := rfl
@[simp] theorem State.setUnit_lcount (page : Nat) (u : UnitState) : (s.setUnit page u).lcount = s.lcount := rfl
@[simp] theorem State.setUnit_phase (page : Nat) (u : UnitState) : (s.setUnit page u).phase = s.phase := rfl
@[simp] theorem State.setUnit_ready (page : Nat) (u : UnitState) : (s.setUnit page u).ready = s.ready := rfl
@[simp] theorem State.setUnit_regs (page : Nat) (u : UnitState) : (s.setUnit page u).regs = s.regs := rfl
@[simp] theorem State.setUnit_ctrs (page : Nat) (u : UnitState) : (s.setUnit page u).ctrs = s.ctrs := rfl
@[simp] theorem State.setUnit_latches (page : Nat) (u : UnitState) : (s.setUnit page u).latches = s.latches := rfl
@[simp] theorem State.setUnit_cap (page : Nat) (u : UnitState) : (s.setUnit page u).cap = s.cap := rfl
@[simp] theorem State.setUnit_used (page : Nat) (u : UnitState) : (s.setUnit page u).used = s.used := rfl
@[simp] theorem State.setUnit_served (page : Nat) (u : UnitState) : (s.setUnit page u).served = s.served := rfl
@[simp] theorem State.setUnit_periodAt (page : Nat) (u : UnitState) : (s.setUnit page u).periodAt = s.periodAt := rfl
@[simp] theorem State.setUnit_rdata (page : Nat) (u : UnitState) : (s.setUnit page u).rdata = s.rdata := rfl
@[simp] theorem State.setUnit_dir (page : Nat) (u : UnitState) : (s.setUnit page u).dir = s.dir := rfl
@[simp] theorem State.setUnit_jobs (page : Nat) (u : UnitState) : (s.setUnit page u).jobs = s.jobs := rfl
@[simp] theorem State.setUnit_slots (page : Nat) (u : UnitState) : (s.setUnit page u).slots = s.slots := rfl
@[simp] theorem State.setUnit_grants (page : Nat) (u : UnitState) : (s.setUnit page u).grants = s.grants := rfl
@[simp] theorem State.setUnit_lanes (page : Nat) (u : UnitState) : (s.setUnit page u).lanes = s.lanes := rfl
@[simp] theorem State.setUnit_cmds (page : Nat) (u : UnitState) : (s.setUnit page u).cmds = s.cmds := rfl
@[simp] theorem State.setUnit_cmdCount (page : Nat) (u : UnitState) : (s.setUnit page u).cmdCount = s.cmdCount := rfl
@[simp] theorem State.setUnit_forms (page : Nat) (u : UnitState) : (s.setUnit page u).forms = s.forms := rfl
@[simp] theorem State.setUnit_formCount (page : Nat) (u : UnitState) : (s.setUnit page u).formCount = s.formCount := rfl
@[simp] theorem State.setUnit_cores (page : Nat) (u : UnitState) : (s.setUnit page u).cores = s.cores := rfl
@[simp] theorem State.setUnit_remap (page : Nat) (u : UnitState) : (s.setUnit page u).remap = s.remap := rfl
@[simp] theorem State.setUnit_baseEpoch (page : Nat) (u : UnitState) : (s.setUnit page u).baseEpoch = s.baseEpoch := rfl
@[simp] theorem State.setUnit_unbound (page : Nat) (u : UnitState) : (s.setUnit page u).unbound = s.unbound := rfl
@[simp] theorem State.setUnit_log (page : Nat) (u : UnitState) : (s.setUnit page u).log = s.log := rfl
@[simp] theorem State.setUnit_logLatch (page : Nat) (u : UnitState) : (s.setUnit page u).logLatch = s.logLatch := rfl
@[simp] theorem State.setUnit_logRead (page : Nat) (u : UnitState) : (s.setUnit page u).logRead = s.logRead := rfl
@[simp] theorem State.setUnit_logOvf (page : Nat) (u : UnitState) : (s.setUnit page u).logOvf = s.logOvf := rfl
@[simp] theorem State.setUnit_landing (page : Nat) (u : UnitState) : (s.setUnit page u).landing = s.landing := rfl
@[simp] theorem State.setUnit_landUse (page : Nat) (u : UnitState) : (s.setUnit page u).landUse = s.landUse := rfl
@[simp] theorem State.setUnit_staging (page : Nat) (u : UnitState) : (s.setUnit page u).staging = s.staging := rfl
@[simp] theorem State.setUnit_stagedKeys (page : Nat) (u : UnitState) : (s.setUnit page u).stagedKeys = s.stagedKeys := rfl
@[simp] theorem State.setUnit_mem (page : Nat) (u : UnitState) : (s.setUnit page u).mem = s.mem := rfl
@[simp] theorem State.setUnit_uncorr (page : Nat) (u : UnitState) : (s.setUnit page u).uncorr = s.uncorr := rfl
@[simp] theorem State.setUnit_stk (page : Nat) (u : UnitState) : (s.setUnit page u).stk = s.stk := rfl
@[simp] theorem State.setUnit_halvedAt (page : Nat) (u : UnitState) : (s.setUnit page u).halvedAt = s.halvedAt := rfl
@[simp] theorem State.setUnit_quarantine (page : Nat) (u : UnitState) : (s.setUnit page u).quarantine = s.quarantine := rfl
@[simp] theorem State.setUnit_sipKey (page : Nat) (u : UnitState) : (s.setUnit page u).sipKey = s.sipKey := rfl
@[simp] theorem State.setUnit_prefixes (page : Nat) (u : UnitState) : (s.setUnit page u).prefixes = s.prefixes := rfl
@[simp] theorem State.setUnit_stamps (page : Nat) (u : UnitState) : (s.setUnit page u).stamps = s.stamps := rfl
@[simp] theorem State.setUnit_evictPtr (page : Nat) (u : UnitState) : (s.setUnit page u).evictPtr = s.evictPtr := rfl
@[simp] theorem State.setUnit_tcache (page : Nat) (u : UnitState) : (s.setUnit page u).tcache = s.tcache := rfl
@[simp] theorem State.setUnit_granules (page : Nat) (u : UnitState) : (s.setUnit page u).granules = s.granules := rfl
@[simp] theorem State.setUnit_orphans (page : Nat) (u : UnitState) : (s.setUnit page u).orphans = s.orphans := rfl
@[simp] theorem State.setUnit_lostGranules (page : Nat) (u : UnitState) : (s.setUnit page u).lostGranules = s.lostGranules := rfl
@[simp] theorem State.setUnit_tide (page : Nat) (u : UnitState) : (s.setUnit page u).tide = s.tide := rfl
@[simp] theorem State.setUnit_tideCur (page : Nat) (u : UnitState) : (s.setUnit page u).tideCur = s.tideCur := rfl
@[simp] theorem State.setUnit_debt (page : Nat) (u : UnitState) : (s.setUnit page u).debt = s.debt := rfl
@[simp] theorem State.setUnit_overruns (page : Nat) (u : UnitState) : (s.setUnit page u).overruns = s.overruns := rfl
@[simp] theorem State.setUnit_modelRes (page : Nat) (u : UnitState) : (s.setUnit page u).modelRes = s.modelRes := rfl
@[simp] theorem State.setUnit_models (page : Nat) (u : UnitState) : (s.setUnit page u).models = s.models := rfl
@[simp] theorem State.setUnit_wf (page : Nat) (u : UnitState) : (s.setUnit page u).wf = s.wf := rfl
@[simp] theorem State.setUnit_intakes (page : Nat) (u : UnitState) : (s.setUnit page u).intakes = s.intakes := rfl
@[simp] theorem State.setUnit_afaultq (page : Nat) (u : UnitState) : (s.setUnit page u).afaultq = s.afaultq := rfl
@[simp] theorem State.setUnit_afaultLatch (page : Nat) (u : UnitState) : (s.setUnit page u).afaultLatch = s.afaultLatch := rfl
@[simp] theorem State.setUnit_afaultRead (page : Nat) (u : UnitState) : (s.setUnit page u).afaultRead = s.afaultRead := rfl
@[simp] theorem State.setUnit_circ (page : Nat) (u : UnitState) : (s.setUnit page u).circ = s.circ := rfl
@[simp] theorem State.setUnit_ports (page : Nat) (u : UnitState) : (s.setUnit page u).ports = s.ports := rfl
@[simp] theorem State.setUnit_ranks (page : Nat) (u : UnitState) : (s.setUnit page u).ranks = s.ranks := rfl
@[simp] theorem State.setUnit_colls (page : Nat) (u : UnitState) : (s.setUnit page u).colls = s.colls := rfl
@[simp] theorem State.setUnit_ctrlIn (page : Nat) (u : UnitState) : (s.setUnit page u).ctrlIn = s.ctrlIn := rfl
@[simp] theorem State.setUnit_updOut (page : Nat) (u : UnitState) : (s.setUnit page u).updOut = s.updOut := rfl
@[simp] theorem State.setUnit_hostReads (page : Nat) (u : UnitState) : (s.setUnit page u).hostReads = s.hostReads := rfl
@[simp] theorem State.setUnit_hostWrites (page : Nat) (u : UnitState) : (s.setUnit page u).hostWrites = s.hostWrites := rfl
@[simp] theorem State.setUnit_host (page : Nat) (u : UnitState) : (s.setUnit page u).host = s.host := rfl
@[simp] theorem State.setUnit_late (page : Nat) (u : UnitState) : (s.setUnit page u).late = s.late := rfl
@[simp] theorem State.setUnit_readQ (page : Nat) (u : UnitState) : (s.setUnit page u).readQ = s.readQ := rfl
@[simp] theorem State.setUnit_writeQ (page : Nat) (u : UnitState) : (s.setUnit page u).writeQ = s.writeQ := rfl
@[simp] theorem State.setUnit_secTasks (page : Nat) (u : UnitState) : (s.setUnit page u).secTasks = s.secTasks := rfl
@[simp] theorem State.setUnit_fwTask (page : Nat) (u : UnitState) : (s.setUnit page u).fwTask = s.fwTask := rfl
@[simp] theorem State.setUnit_hwQ (page : Nat) (u : UnitState) : (s.setUnit page u).hwQ = s.hwQ := rfl
@[simp] theorem State.setUnit_mclkFail (page : Nat) (u : UnitState) : (s.setUnit page u).mclkFail = s.mclkFail := rfl
@[simp] theorem State.setUnit_lclkFail (page : Nat) (u : UnitState) : (s.setUnit page u).lclkFail = s.lclkFail := rfl
@[simp] theorem State.setUnit_hwData (page : Nat) (u : UnitState) : (s.setUnit page u).hwData = s.hwData := rfl
@[simp] theorem State.setUnit_hwStat (page : Nat) (u : UnitState) : (s.setUnit page u).hwStat = s.hwStat := rfl
@[simp] theorem State.setUnit_pwr (page : Nat) (u : UnitState) : (s.setUnit page u).pwr = s.pwr := rfl
@[simp] theorem State.setUnit_domIdle (page : Nat) (u : UnitState) : (s.setUnit page u).domIdle = s.domIdle := rfl
@[simp] theorem State.setUnit_gated (page : Nat) (u : UnitState) : (s.setUnit page u).gated = s.gated := rfl
@[simp] theorem State.setUnit_clkmon (page : Nat) (u : UnitState) : (s.setUnit page u).clkmon = s.clkmon := rfl
@[simp] theorem State.setUnit_cluster0 (page : Nat) (u : UnitState) : (s.setUnit page u).cluster0 = s.cluster0 := rfl
@[simp] theorem State.setUnit_cluster1 (page : Nat) (u : UnitState) : (s.setUnit page u).cluster1 = s.cluster1 := rfl
@[simp] theorem State.setUnit_duty (page : Nat) (u : UnitState) : (s.setUnit page u).duty = s.duty := rfl
@[simp] theorem State.setUnit_tablesBad (page : Nat) (u : UnitState) : (s.setUnit page u).tablesBad = s.tablesBad := rfl
@[simp] theorem State.setUnit_tablesMin (page : Nat) (u : UnitState) : (s.setUnit page u).tablesMin = s.tablesMin := rfl
@[simp] theorem State.setUnit_ret (page : Nat) (u : UnitState) : (s.setUnit page u).ret = s.ret := rfl
@[simp] theorem State.setUnit_cause (page : Nat) (u : UnitState) : (s.setUnit page u).cause = s.cause := rfl
@[simp] theorem State.setUnit_store (page : Nat) (u : UnitState) : (s.setUnit page u).store = s.store := rfl
@[simp] theorem State.setUnit_beacons (page : Nat) (u : UnitState) : (s.setUnit page u).beacons = s.beacons := rfl
@[simp] theorem State.setUnit_decl (page : Nat) (u : UnitState) : (s.setUnit page u).decl = s.decl := rfl
@[simp] theorem State.setUnit_fresh (page : Nat) (u : UnitState) : (s.setUnit page u).fresh = s.fresh := rfl

/-! ## touch -/

@[simp] theorem State.touch_pending : (s.touch).pending = s.pending := rfl
@[simp] theorem State.touch_part : (s.touch).part = s.part := rfl
@[simp] theorem State.touch_fuses : (s.touch).fuses = s.fuses := rfl
@[simp] theorem State.touch_fuseTask : (s.touch).fuseTask = s.fuseTask := rfl
@[simp] theorem State.touch_lc : (s.touch).lc = s.lc := rfl
@[simp] theorem State.touch_fwMin : (s.touch).fwMin = s.fwMin := rfl
@[simp] theorem State.touch_erasing : (s.touch).erasing = s.erasing := rfl
@[simp] theorem State.touch_erasePct : (s.touch).erasePct = s.erasePct := rfl
@[simp] theorem State.touch_ident : (s.touch).ident = s.ident := rfl
@[simp] theorem State.touch_keys : (s.touch).keys = s.keys := rfl
@[simp] theorem State.touch_nonce : (s.touch).nonce = s.nonce := rfl
@[simp] theorem State.touch_lcount : (s.touch).lcount = s.lcount := rfl
@[simp] theorem State.touch_phase : (s.touch).phase = s.phase := rfl
@[simp] theorem State.touch_ready : (s.touch).ready = s.ready := rfl
@[simp] theorem State.touch_hdrs : (s.touch).hdrs = s.hdrs := rfl
@[simp] theorem State.touch_regs : (s.touch).regs = s.regs := rfl
@[simp] theorem State.touch_ctrs : (s.touch).ctrs = s.ctrs := rfl
@[simp] theorem State.touch_latches : (s.touch).latches = s.latches := rfl
@[simp] theorem State.touch_cap : (s.touch).cap = s.cap := rfl
@[simp] theorem State.touch_used : (s.touch).used = s.used := rfl
@[simp] theorem State.touch_served : (s.touch).served = s.served := rfl
@[simp] theorem State.touch_periodAt : (s.touch).periodAt = s.periodAt := rfl
@[simp] theorem State.touch_rdata : (s.touch).rdata = s.rdata := rfl
@[simp] theorem State.touch_dir : (s.touch).dir = s.dir := rfl
@[simp] theorem State.touch_jobs : (s.touch).jobs = s.jobs := rfl
@[simp] theorem State.touch_slots : (s.touch).slots = s.slots := rfl
@[simp] theorem State.touch_grants : (s.touch).grants = s.grants := rfl
@[simp] theorem State.touch_lanes : (s.touch).lanes = s.lanes := rfl
@[simp] theorem State.touch_cmds : (s.touch).cmds = s.cmds := rfl
@[simp] theorem State.touch_cmdCount : (s.touch).cmdCount = s.cmdCount := rfl
@[simp] theorem State.touch_forms : (s.touch).forms = s.forms := rfl
@[simp] theorem State.touch_formCount : (s.touch).formCount = s.formCount := rfl
@[simp] theorem State.touch_cores : (s.touch).cores = s.cores := rfl
@[simp] theorem State.touch_remap : (s.touch).remap = s.remap := rfl
@[simp] theorem State.touch_baseEpoch : (s.touch).baseEpoch = s.baseEpoch := rfl
@[simp] theorem State.touch_unbound : (s.touch).unbound = s.unbound := rfl
@[simp] theorem State.touch_log : (s.touch).log = s.log := rfl
@[simp] theorem State.touch_logLatch : (s.touch).logLatch = s.logLatch := rfl
@[simp] theorem State.touch_logRead : (s.touch).logRead = s.logRead := rfl
@[simp] theorem State.touch_logOvf : (s.touch).logOvf = s.logOvf := rfl
@[simp] theorem State.touch_landing : (s.touch).landing = s.landing := rfl
@[simp] theorem State.touch_landUse : (s.touch).landUse = s.landUse := rfl
@[simp] theorem State.touch_staging : (s.touch).staging = s.staging := rfl
@[simp] theorem State.touch_stagedKeys : (s.touch).stagedKeys = s.stagedKeys := rfl
@[simp] theorem State.touch_mem : (s.touch).mem = s.mem := rfl
@[simp] theorem State.touch_uncorr : (s.touch).uncorr = s.uncorr := rfl
@[simp] theorem State.touch_stk : (s.touch).stk = s.stk := rfl
@[simp] theorem State.touch_halvedAt : (s.touch).halvedAt = s.halvedAt := rfl
@[simp] theorem State.touch_quarantine : (s.touch).quarantine = s.quarantine := rfl
@[simp] theorem State.touch_sipKey : (s.touch).sipKey = s.sipKey := rfl
@[simp] theorem State.touch_prefixes : (s.touch).prefixes = s.prefixes := rfl
@[simp] theorem State.touch_stamps : (s.touch).stamps = s.stamps := rfl
@[simp] theorem State.touch_evictPtr : (s.touch).evictPtr = s.evictPtr := rfl
@[simp] theorem State.touch_tcache : (s.touch).tcache = s.tcache := rfl
@[simp] theorem State.touch_granules : (s.touch).granules = s.granules := rfl
@[simp] theorem State.touch_orphans : (s.touch).orphans = s.orphans := rfl
@[simp] theorem State.touch_lostGranules : (s.touch).lostGranules = s.lostGranules := rfl
@[simp] theorem State.touch_tide : (s.touch).tide = s.tide := rfl
@[simp] theorem State.touch_tideCur : (s.touch).tideCur = s.tideCur := rfl
@[simp] theorem State.touch_debt : (s.touch).debt = s.debt := rfl
@[simp] theorem State.touch_overruns : (s.touch).overruns = s.overruns := rfl
@[simp] theorem State.touch_modelRes : (s.touch).modelRes = s.modelRes := rfl
@[simp] theorem State.touch_models : (s.touch).models = s.models := rfl
@[simp] theorem State.touch_wf : (s.touch).wf = s.wf := rfl
@[simp] theorem State.touch_intakes : (s.touch).intakes = s.intakes := rfl
@[simp] theorem State.touch_afaultq : (s.touch).afaultq = s.afaultq := rfl
@[simp] theorem State.touch_afaultLatch : (s.touch).afaultLatch = s.afaultLatch := rfl
@[simp] theorem State.touch_afaultRead : (s.touch).afaultRead = s.afaultRead := rfl
@[simp] theorem State.touch_circ : (s.touch).circ = s.circ := rfl
@[simp] theorem State.touch_ports : (s.touch).ports = s.ports := rfl
@[simp] theorem State.touch_ranks : (s.touch).ranks = s.ranks := rfl
@[simp] theorem State.touch_colls : (s.touch).colls = s.colls := rfl
@[simp] theorem State.touch_ctrlIn : (s.touch).ctrlIn = s.ctrlIn := rfl
@[simp] theorem State.touch_updOut : (s.touch).updOut = s.updOut := rfl
@[simp] theorem State.touch_hostReads : (s.touch).hostReads = s.hostReads := rfl
@[simp] theorem State.touch_hostWrites : (s.touch).hostWrites = s.hostWrites := rfl
@[simp] theorem State.touch_host : (s.touch).host = s.host := rfl
@[simp] theorem State.touch_late : (s.touch).late = s.late := rfl
@[simp] theorem State.touch_readQ : (s.touch).readQ = s.readQ := rfl
@[simp] theorem State.touch_writeQ : (s.touch).writeQ = s.writeQ := rfl
@[simp] theorem State.touch_secTasks : (s.touch).secTasks = s.secTasks := rfl
@[simp] theorem State.touch_fwTask : (s.touch).fwTask = s.fwTask := rfl
@[simp] theorem State.touch_hwQ : (s.touch).hwQ = s.hwQ := rfl
@[simp] theorem State.touch_mclkFail : (s.touch).mclkFail = s.mclkFail := rfl
@[simp] theorem State.touch_lclkFail : (s.touch).lclkFail = s.lclkFail := rfl
@[simp] theorem State.touch_hwData : (s.touch).hwData = s.hwData := rfl
@[simp] theorem State.touch_hwStat : (s.touch).hwStat = s.hwStat := rfl
@[simp] theorem State.touch_pwr : (s.touch).pwr = s.pwr := rfl
@[simp] theorem State.touch_domIdle : (s.touch).domIdle = s.domIdle := rfl
@[simp] theorem State.touch_gated : (s.touch).gated = s.gated := rfl
@[simp] theorem State.touch_clkmon : (s.touch).clkmon = s.clkmon := rfl
@[simp] theorem State.touch_cluster0 : (s.touch).cluster0 = s.cluster0 := rfl
@[simp] theorem State.touch_cluster1 : (s.touch).cluster1 = s.cluster1 := rfl
@[simp] theorem State.touch_duty : (s.touch).duty = s.duty := rfl
@[simp] theorem State.touch_tablesBad : (s.touch).tablesBad = s.tablesBad := rfl
@[simp] theorem State.touch_tablesMin : (s.touch).tablesMin = s.tablesMin := rfl
@[simp] theorem State.touch_cause : (s.touch).cause = s.cause := rfl
@[simp] theorem State.touch_store : (s.touch).store = s.store := rfl
@[simp] theorem State.touch_beacons : (s.touch).beacons = s.beacons := rfl
@[simp] theorem State.touch_decl : (s.touch).decl = s.decl := rfl
@[simp] theorem State.touch_fresh : (s.touch).fresh = s.fresh := rfl

/-! ## tick -/

@[simp] theorem State.tick_pending : (s.tick).pending = s.pending := rfl
@[simp] theorem State.tick_part : (s.tick).part = s.part := rfl
@[simp] theorem State.tick_fuses : (s.tick).fuses = s.fuses := rfl
@[simp] theorem State.tick_fuseTask : (s.tick).fuseTask = s.fuseTask := rfl
@[simp] theorem State.tick_lc : (s.tick).lc = s.lc := rfl
@[simp] theorem State.tick_fwMin : (s.tick).fwMin = s.fwMin := rfl
@[simp] theorem State.tick_erasing : (s.tick).erasing = s.erasing := rfl
@[simp] theorem State.tick_erasePct : (s.tick).erasePct = s.erasePct := rfl
@[simp] theorem State.tick_ident : (s.tick).ident = s.ident := rfl
@[simp] theorem State.tick_keys : (s.tick).keys = s.keys := rfl
@[simp] theorem State.tick_nonce : (s.tick).nonce = s.nonce := rfl
@[simp] theorem State.tick_lcount : (s.tick).lcount = s.lcount := rfl
@[simp] theorem State.tick_phase : (s.tick).phase = s.phase := rfl
@[simp] theorem State.tick_ready : (s.tick).ready = s.ready := rfl
@[simp] theorem State.tick_hdrs : (s.tick).hdrs = s.hdrs := rfl
@[simp] theorem State.tick_regs : (s.tick).regs = s.regs := rfl
@[simp] theorem State.tick_ctrs : (s.tick).ctrs = s.ctrs := rfl
@[simp] theorem State.tick_latches : (s.tick).latches = s.latches := rfl
@[simp] theorem State.tick_cap : (s.tick).cap = s.cap := rfl
@[simp] theorem State.tick_used : (s.tick).used = s.used := rfl
@[simp] theorem State.tick_served : (s.tick).served = s.served := rfl
@[simp] theorem State.tick_periodAt : (s.tick).periodAt = s.periodAt := rfl
@[simp] theorem State.tick_rdata : (s.tick).rdata = s.rdata := rfl
@[simp] theorem State.tick_dir : (s.tick).dir = s.dir := rfl
@[simp] theorem State.tick_jobs : (s.tick).jobs = s.jobs := rfl
@[simp] theorem State.tick_slots : (s.tick).slots = s.slots := rfl
@[simp] theorem State.tick_grants : (s.tick).grants = s.grants := rfl
@[simp] theorem State.tick_lanes : (s.tick).lanes = s.lanes := rfl
@[simp] theorem State.tick_cmds : (s.tick).cmds = s.cmds := rfl
@[simp] theorem State.tick_cmdCount : (s.tick).cmdCount = s.cmdCount := rfl
@[simp] theorem State.tick_forms : (s.tick).forms = s.forms := rfl
@[simp] theorem State.tick_formCount : (s.tick).formCount = s.formCount := rfl
@[simp] theorem State.tick_cores : (s.tick).cores = s.cores := rfl
@[simp] theorem State.tick_remap : (s.tick).remap = s.remap := rfl
@[simp] theorem State.tick_baseEpoch : (s.tick).baseEpoch = s.baseEpoch := rfl
@[simp] theorem State.tick_unbound : (s.tick).unbound = s.unbound := rfl
@[simp] theorem State.tick_log : (s.tick).log = s.log := rfl
@[simp] theorem State.tick_logLatch : (s.tick).logLatch = s.logLatch := rfl
@[simp] theorem State.tick_logRead : (s.tick).logRead = s.logRead := rfl
@[simp] theorem State.tick_logOvf : (s.tick).logOvf = s.logOvf := rfl
@[simp] theorem State.tick_landing : (s.tick).landing = s.landing := rfl
@[simp] theorem State.tick_landUse : (s.tick).landUse = s.landUse := rfl
@[simp] theorem State.tick_staging : (s.tick).staging = s.staging := rfl
@[simp] theorem State.tick_stagedKeys : (s.tick).stagedKeys = s.stagedKeys := rfl
@[simp] theorem State.tick_mem : (s.tick).mem = s.mem := rfl
@[simp] theorem State.tick_uncorr : (s.tick).uncorr = s.uncorr := rfl
@[simp] theorem State.tick_stk : (s.tick).stk = s.stk := rfl
@[simp] theorem State.tick_halvedAt : (s.tick).halvedAt = s.halvedAt := rfl
@[simp] theorem State.tick_quarantine : (s.tick).quarantine = s.quarantine := rfl
@[simp] theorem State.tick_sipKey : (s.tick).sipKey = s.sipKey := rfl
@[simp] theorem State.tick_prefixes : (s.tick).prefixes = s.prefixes := rfl
@[simp] theorem State.tick_stamps : (s.tick).stamps = s.stamps := rfl
@[simp] theorem State.tick_evictPtr : (s.tick).evictPtr = s.evictPtr := rfl
@[simp] theorem State.tick_tcache : (s.tick).tcache = s.tcache := rfl
@[simp] theorem State.tick_granules : (s.tick).granules = s.granules := rfl
@[simp] theorem State.tick_orphans : (s.tick).orphans = s.orphans := rfl
@[simp] theorem State.tick_lostGranules : (s.tick).lostGranules = s.lostGranules := rfl
@[simp] theorem State.tick_tide : (s.tick).tide = s.tide := rfl
@[simp] theorem State.tick_tideCur : (s.tick).tideCur = s.tideCur := rfl
@[simp] theorem State.tick_debt : (s.tick).debt = s.debt := rfl
@[simp] theorem State.tick_overruns : (s.tick).overruns = s.overruns := rfl
@[simp] theorem State.tick_modelRes : (s.tick).modelRes = s.modelRes := rfl
@[simp] theorem State.tick_models : (s.tick).models = s.models := rfl
@[simp] theorem State.tick_wf : (s.tick).wf = s.wf := rfl
@[simp] theorem State.tick_intakes : (s.tick).intakes = s.intakes := rfl
@[simp] theorem State.tick_afaultq : (s.tick).afaultq = s.afaultq := rfl
@[simp] theorem State.tick_afaultLatch : (s.tick).afaultLatch = s.afaultLatch := rfl
@[simp] theorem State.tick_afaultRead : (s.tick).afaultRead = s.afaultRead := rfl
@[simp] theorem State.tick_circ : (s.tick).circ = s.circ := rfl
@[simp] theorem State.tick_ports : (s.tick).ports = s.ports := rfl
@[simp] theorem State.tick_ranks : (s.tick).ranks = s.ranks := rfl
@[simp] theorem State.tick_colls : (s.tick).colls = s.colls := rfl
@[simp] theorem State.tick_ctrlIn : (s.tick).ctrlIn = s.ctrlIn := rfl
@[simp] theorem State.tick_updOut : (s.tick).updOut = s.updOut := rfl
@[simp] theorem State.tick_hostReads : (s.tick).hostReads = s.hostReads := rfl
@[simp] theorem State.tick_hostWrites : (s.tick).hostWrites = s.hostWrites := rfl
@[simp] theorem State.tick_host : (s.tick).host = s.host := rfl
@[simp] theorem State.tick_late : (s.tick).late = s.late := rfl
@[simp] theorem State.tick_readQ : (s.tick).readQ = s.readQ := rfl
@[simp] theorem State.tick_writeQ : (s.tick).writeQ = s.writeQ := rfl
@[simp] theorem State.tick_secTasks : (s.tick).secTasks = s.secTasks := rfl
@[simp] theorem State.tick_fwTask : (s.tick).fwTask = s.fwTask := rfl
@[simp] theorem State.tick_hwQ : (s.tick).hwQ = s.hwQ := rfl
@[simp] theorem State.tick_mclkFail : (s.tick).mclkFail = s.mclkFail := rfl
@[simp] theorem State.tick_lclkFail : (s.tick).lclkFail = s.lclkFail := rfl
@[simp] theorem State.tick_hwData : (s.tick).hwData = s.hwData := rfl
@[simp] theorem State.tick_hwStat : (s.tick).hwStat = s.hwStat := rfl
@[simp] theorem State.tick_pwr : (s.tick).pwr = s.pwr := rfl
@[simp] theorem State.tick_domIdle : (s.tick).domIdle = s.domIdle := rfl
@[simp] theorem State.tick_gated : (s.tick).gated = s.gated := rfl
@[simp] theorem State.tick_clkmon : (s.tick).clkmon = s.clkmon := rfl
@[simp] theorem State.tick_cluster0 : (s.tick).cluster0 = s.cluster0 := rfl
@[simp] theorem State.tick_cluster1 : (s.tick).cluster1 = s.cluster1 := rfl
@[simp] theorem State.tick_duty : (s.tick).duty = s.duty := rfl
@[simp] theorem State.tick_tablesBad : (s.tick).tablesBad = s.tablesBad := rfl
@[simp] theorem State.tick_tablesMin : (s.tick).tablesMin = s.tablesMin := rfl
@[simp] theorem State.tick_ret : (s.tick).ret = s.ret := rfl
@[simp] theorem State.tick_cause : (s.tick).cause = s.cause := rfl
@[simp] theorem State.tick_store : (s.tick).store = s.store := rfl
@[simp] theorem State.tick_beacons : (s.tick).beacons = s.beacons := rfl
@[simp] theorem State.tick_decl : (s.tick).decl = s.decl := rfl

/-! ## setReg -/

@[simp] theorem State.setReg_pending (a : Nat) (v : W) : (s.setReg a v).pending = s.pending := rfl
@[simp] theorem State.setReg_part (a : Nat) (v : W) : (s.setReg a v).part = s.part := rfl
@[simp] theorem State.setReg_fuses (a : Nat) (v : W) : (s.setReg a v).fuses = s.fuses := rfl
@[simp] theorem State.setReg_fuseTask (a : Nat) (v : W) : (s.setReg a v).fuseTask = s.fuseTask := rfl
@[simp] theorem State.setReg_lc (a : Nat) (v : W) : (s.setReg a v).lc = s.lc := rfl
@[simp] theorem State.setReg_fwMin (a : Nat) (v : W) : (s.setReg a v).fwMin = s.fwMin := rfl
@[simp] theorem State.setReg_erasing (a : Nat) (v : W) : (s.setReg a v).erasing = s.erasing := rfl
@[simp] theorem State.setReg_erasePct (a : Nat) (v : W) : (s.setReg a v).erasePct = s.erasePct := rfl
@[simp] theorem State.setReg_ident (a : Nat) (v : W) : (s.setReg a v).ident = s.ident := rfl
@[simp] theorem State.setReg_keys (a : Nat) (v : W) : (s.setReg a v).keys = s.keys := rfl
@[simp] theorem State.setReg_nonce (a : Nat) (v : W) : (s.setReg a v).nonce = s.nonce := rfl
@[simp] theorem State.setReg_lcount (a : Nat) (v : W) : (s.setReg a v).lcount = s.lcount := rfl
@[simp] theorem State.setReg_phase (a : Nat) (v : W) : (s.setReg a v).phase = s.phase := rfl
@[simp] theorem State.setReg_ready (a : Nat) (v : W) : (s.setReg a v).ready = s.ready := rfl
@[simp] theorem State.setReg_hdrs (a : Nat) (v : W) : (s.setReg a v).hdrs = s.hdrs := rfl
@[simp] theorem State.setReg_ctrs (a : Nat) (v : W) : (s.setReg a v).ctrs = s.ctrs := rfl
@[simp] theorem State.setReg_latches (a : Nat) (v : W) : (s.setReg a v).latches = s.latches := rfl
@[simp] theorem State.setReg_cap (a : Nat) (v : W) : (s.setReg a v).cap = s.cap := rfl
@[simp] theorem State.setReg_used (a : Nat) (v : W) : (s.setReg a v).used = s.used := rfl
@[simp] theorem State.setReg_served (a : Nat) (v : W) : (s.setReg a v).served = s.served := rfl
@[simp] theorem State.setReg_periodAt (a : Nat) (v : W) : (s.setReg a v).periodAt = s.periodAt := rfl
@[simp] theorem State.setReg_rdata (a : Nat) (v : W) : (s.setReg a v).rdata = s.rdata := rfl
@[simp] theorem State.setReg_dir (a : Nat) (v : W) : (s.setReg a v).dir = s.dir := rfl
@[simp] theorem State.setReg_jobs (a : Nat) (v : W) : (s.setReg a v).jobs = s.jobs := rfl
@[simp] theorem State.setReg_slots (a : Nat) (v : W) : (s.setReg a v).slots = s.slots := rfl
@[simp] theorem State.setReg_grants (a : Nat) (v : W) : (s.setReg a v).grants = s.grants := rfl
@[simp] theorem State.setReg_lanes (a : Nat) (v : W) : (s.setReg a v).lanes = s.lanes := rfl
@[simp] theorem State.setReg_cmds (a : Nat) (v : W) : (s.setReg a v).cmds = s.cmds := rfl
@[simp] theorem State.setReg_cmdCount (a : Nat) (v : W) : (s.setReg a v).cmdCount = s.cmdCount := rfl
@[simp] theorem State.setReg_forms (a : Nat) (v : W) : (s.setReg a v).forms = s.forms := rfl
@[simp] theorem State.setReg_formCount (a : Nat) (v : W) : (s.setReg a v).formCount = s.formCount := rfl
@[simp] theorem State.setReg_cores (a : Nat) (v : W) : (s.setReg a v).cores = s.cores := rfl
@[simp] theorem State.setReg_remap (a : Nat) (v : W) : (s.setReg a v).remap = s.remap := rfl
@[simp] theorem State.setReg_baseEpoch (a : Nat) (v : W) : (s.setReg a v).baseEpoch = s.baseEpoch := rfl
@[simp] theorem State.setReg_unbound (a : Nat) (v : W) : (s.setReg a v).unbound = s.unbound := rfl
@[simp] theorem State.setReg_log (a : Nat) (v : W) : (s.setReg a v).log = s.log := rfl
@[simp] theorem State.setReg_logLatch (a : Nat) (v : W) : (s.setReg a v).logLatch = s.logLatch := rfl
@[simp] theorem State.setReg_logRead (a : Nat) (v : W) : (s.setReg a v).logRead = s.logRead := rfl
@[simp] theorem State.setReg_logOvf (a : Nat) (v : W) : (s.setReg a v).logOvf = s.logOvf := rfl
@[simp] theorem State.setReg_landing (a : Nat) (v : W) : (s.setReg a v).landing = s.landing := rfl
@[simp] theorem State.setReg_landUse (a : Nat) (v : W) : (s.setReg a v).landUse = s.landUse := rfl
@[simp] theorem State.setReg_staging (a : Nat) (v : W) : (s.setReg a v).staging = s.staging := rfl
@[simp] theorem State.setReg_stagedKeys (a : Nat) (v : W) : (s.setReg a v).stagedKeys = s.stagedKeys := rfl
@[simp] theorem State.setReg_mem (a : Nat) (v : W) : (s.setReg a v).mem = s.mem := rfl
@[simp] theorem State.setReg_uncorr (a : Nat) (v : W) : (s.setReg a v).uncorr = s.uncorr := rfl
@[simp] theorem State.setReg_stk (a : Nat) (v : W) : (s.setReg a v).stk = s.stk := rfl
@[simp] theorem State.setReg_halvedAt (a : Nat) (v : W) : (s.setReg a v).halvedAt = s.halvedAt := rfl
@[simp] theorem State.setReg_quarantine (a : Nat) (v : W) : (s.setReg a v).quarantine = s.quarantine := rfl
@[simp] theorem State.setReg_sipKey (a : Nat) (v : W) : (s.setReg a v).sipKey = s.sipKey := rfl
@[simp] theorem State.setReg_prefixes (a : Nat) (v : W) : (s.setReg a v).prefixes = s.prefixes := rfl
@[simp] theorem State.setReg_stamps (a : Nat) (v : W) : (s.setReg a v).stamps = s.stamps := rfl
@[simp] theorem State.setReg_evictPtr (a : Nat) (v : W) : (s.setReg a v).evictPtr = s.evictPtr := rfl
@[simp] theorem State.setReg_tcache (a : Nat) (v : W) : (s.setReg a v).tcache = s.tcache := rfl
@[simp] theorem State.setReg_granules (a : Nat) (v : W) : (s.setReg a v).granules = s.granules := rfl
@[simp] theorem State.setReg_orphans (a : Nat) (v : W) : (s.setReg a v).orphans = s.orphans := rfl
@[simp] theorem State.setReg_lostGranules (a : Nat) (v : W) : (s.setReg a v).lostGranules = s.lostGranules := rfl
@[simp] theorem State.setReg_tide (a : Nat) (v : W) : (s.setReg a v).tide = s.tide := rfl
@[simp] theorem State.setReg_tideCur (a : Nat) (v : W) : (s.setReg a v).tideCur = s.tideCur := rfl
@[simp] theorem State.setReg_debt (a : Nat) (v : W) : (s.setReg a v).debt = s.debt := rfl
@[simp] theorem State.setReg_overruns (a : Nat) (v : W) : (s.setReg a v).overruns = s.overruns := rfl
@[simp] theorem State.setReg_modelRes (a : Nat) (v : W) : (s.setReg a v).modelRes = s.modelRes := rfl
@[simp] theorem State.setReg_models (a : Nat) (v : W) : (s.setReg a v).models = s.models := rfl
@[simp] theorem State.setReg_wf (a : Nat) (v : W) : (s.setReg a v).wf = s.wf := rfl
@[simp] theorem State.setReg_intakes (a : Nat) (v : W) : (s.setReg a v).intakes = s.intakes := rfl
@[simp] theorem State.setReg_afaultq (a : Nat) (v : W) : (s.setReg a v).afaultq = s.afaultq := rfl
@[simp] theorem State.setReg_afaultLatch (a : Nat) (v : W) : (s.setReg a v).afaultLatch = s.afaultLatch := rfl
@[simp] theorem State.setReg_afaultRead (a : Nat) (v : W) : (s.setReg a v).afaultRead = s.afaultRead := rfl
@[simp] theorem State.setReg_circ (a : Nat) (v : W) : (s.setReg a v).circ = s.circ := rfl
@[simp] theorem State.setReg_ports (a : Nat) (v : W) : (s.setReg a v).ports = s.ports := rfl
@[simp] theorem State.setReg_ranks (a : Nat) (v : W) : (s.setReg a v).ranks = s.ranks := rfl
@[simp] theorem State.setReg_colls (a : Nat) (v : W) : (s.setReg a v).colls = s.colls := rfl
@[simp] theorem State.setReg_ctrlIn (a : Nat) (v : W) : (s.setReg a v).ctrlIn = s.ctrlIn := rfl
@[simp] theorem State.setReg_updOut (a : Nat) (v : W) : (s.setReg a v).updOut = s.updOut := rfl
@[simp] theorem State.setReg_hostReads (a : Nat) (v : W) : (s.setReg a v).hostReads = s.hostReads := rfl
@[simp] theorem State.setReg_hostWrites (a : Nat) (v : W) : (s.setReg a v).hostWrites = s.hostWrites := rfl
@[simp] theorem State.setReg_host (a : Nat) (v : W) : (s.setReg a v).host = s.host := rfl
@[simp] theorem State.setReg_late (a : Nat) (v : W) : (s.setReg a v).late = s.late := rfl
@[simp] theorem State.setReg_readQ (a : Nat) (v : W) : (s.setReg a v).readQ = s.readQ := rfl
@[simp] theorem State.setReg_writeQ (a : Nat) (v : W) : (s.setReg a v).writeQ = s.writeQ := rfl
@[simp] theorem State.setReg_secTasks (a : Nat) (v : W) : (s.setReg a v).secTasks = s.secTasks := rfl
@[simp] theorem State.setReg_fwTask (a : Nat) (v : W) : (s.setReg a v).fwTask = s.fwTask := rfl
@[simp] theorem State.setReg_hwQ (a : Nat) (v : W) : (s.setReg a v).hwQ = s.hwQ := rfl
@[simp] theorem State.setReg_mclkFail (a : Nat) (v : W) : (s.setReg a v).mclkFail = s.mclkFail := rfl
@[simp] theorem State.setReg_lclkFail (a : Nat) (v : W) : (s.setReg a v).lclkFail = s.lclkFail := rfl
@[simp] theorem State.setReg_hwData (a : Nat) (v : W) : (s.setReg a v).hwData = s.hwData := rfl
@[simp] theorem State.setReg_hwStat (a : Nat) (v : W) : (s.setReg a v).hwStat = s.hwStat := rfl
@[simp] theorem State.setReg_pwr (a : Nat) (v : W) : (s.setReg a v).pwr = s.pwr := rfl
@[simp] theorem State.setReg_domIdle (a : Nat) (v : W) : (s.setReg a v).domIdle = s.domIdle := rfl
@[simp] theorem State.setReg_gated (a : Nat) (v : W) : (s.setReg a v).gated = s.gated := rfl
@[simp] theorem State.setReg_clkmon (a : Nat) (v : W) : (s.setReg a v).clkmon = s.clkmon := rfl
@[simp] theorem State.setReg_cluster0 (a : Nat) (v : W) : (s.setReg a v).cluster0 = s.cluster0 := rfl
@[simp] theorem State.setReg_cluster1 (a : Nat) (v : W) : (s.setReg a v).cluster1 = s.cluster1 := rfl
@[simp] theorem State.setReg_duty (a : Nat) (v : W) : (s.setReg a v).duty = s.duty := rfl
@[simp] theorem State.setReg_tablesBad (a : Nat) (v : W) : (s.setReg a v).tablesBad = s.tablesBad := rfl
@[simp] theorem State.setReg_tablesMin (a : Nat) (v : W) : (s.setReg a v).tablesMin = s.tablesMin := rfl
@[simp] theorem State.setReg_cause (a : Nat) (v : W) : (s.setReg a v).cause = s.cause := rfl
@[simp] theorem State.setReg_store (a : Nat) (v : W) : (s.setReg a v).store = s.store := rfl
@[simp] theorem State.setReg_beacons (a : Nat) (v : W) : (s.setReg a v).beacons = s.beacons := rfl
@[simp] theorem State.setReg_decl (a : Nat) (v : W) : (s.setReg a v).decl = s.decl := rfl
@[simp] theorem State.setReg_fresh (a : Nat) (v : W) : (s.setReg a v).fresh = s.fresh := rfl

/-! ## wr -/

@[simp] theorem State.wr_pending (page off : Nat) (v : W) : (s.wr page off v).pending = s.pending := State.setReg_pending s _ _
@[simp] theorem State.wr_part (page off : Nat) (v : W) : (s.wr page off v).part = s.part := State.setReg_part s _ _
@[simp] theorem State.wr_fuses (page off : Nat) (v : W) : (s.wr page off v).fuses = s.fuses := State.setReg_fuses s _ _
@[simp] theorem State.wr_fuseTask (page off : Nat) (v : W) : (s.wr page off v).fuseTask = s.fuseTask := State.setReg_fuseTask s _ _
@[simp] theorem State.wr_lc (page off : Nat) (v : W) : (s.wr page off v).lc = s.lc := State.setReg_lc s _ _
@[simp] theorem State.wr_fwMin (page off : Nat) (v : W) : (s.wr page off v).fwMin = s.fwMin := State.setReg_fwMin s _ _
@[simp] theorem State.wr_erasing (page off : Nat) (v : W) : (s.wr page off v).erasing = s.erasing := State.setReg_erasing s _ _
@[simp] theorem State.wr_erasePct (page off : Nat) (v : W) : (s.wr page off v).erasePct = s.erasePct := State.setReg_erasePct s _ _
@[simp] theorem State.wr_ident (page off : Nat) (v : W) : (s.wr page off v).ident = s.ident := State.setReg_ident s _ _
@[simp] theorem State.wr_keys (page off : Nat) (v : W) : (s.wr page off v).keys = s.keys := State.setReg_keys s _ _
@[simp] theorem State.wr_nonce (page off : Nat) (v : W) : (s.wr page off v).nonce = s.nonce := State.setReg_nonce s _ _
@[simp] theorem State.wr_lcount (page off : Nat) (v : W) : (s.wr page off v).lcount = s.lcount := State.setReg_lcount s _ _
@[simp] theorem State.wr_phase (page off : Nat) (v : W) : (s.wr page off v).phase = s.phase := State.setReg_phase s _ _
@[simp] theorem State.wr_ready (page off : Nat) (v : W) : (s.wr page off v).ready = s.ready := State.setReg_ready s _ _
@[simp] theorem State.wr_hdrs (page off : Nat) (v : W) : (s.wr page off v).hdrs = s.hdrs := State.setReg_hdrs s _ _
@[simp] theorem State.wr_ctrs (page off : Nat) (v : W) : (s.wr page off v).ctrs = s.ctrs := State.setReg_ctrs s _ _
@[simp] theorem State.wr_latches (page off : Nat) (v : W) : (s.wr page off v).latches = s.latches := State.setReg_latches s _ _
@[simp] theorem State.wr_cap (page off : Nat) (v : W) : (s.wr page off v).cap = s.cap := State.setReg_cap s _ _
@[simp] theorem State.wr_used (page off : Nat) (v : W) : (s.wr page off v).used = s.used := State.setReg_used s _ _
@[simp] theorem State.wr_served (page off : Nat) (v : W) : (s.wr page off v).served = s.served := State.setReg_served s _ _
@[simp] theorem State.wr_periodAt (page off : Nat) (v : W) : (s.wr page off v).periodAt = s.periodAt := State.setReg_periodAt s _ _
@[simp] theorem State.wr_rdata (page off : Nat) (v : W) : (s.wr page off v).rdata = s.rdata := State.setReg_rdata s _ _
@[simp] theorem State.wr_dir (page off : Nat) (v : W) : (s.wr page off v).dir = s.dir := State.setReg_dir s _ _
@[simp] theorem State.wr_jobs (page off : Nat) (v : W) : (s.wr page off v).jobs = s.jobs := State.setReg_jobs s _ _
@[simp] theorem State.wr_slots (page off : Nat) (v : W) : (s.wr page off v).slots = s.slots := State.setReg_slots s _ _
@[simp] theorem State.wr_grants (page off : Nat) (v : W) : (s.wr page off v).grants = s.grants := State.setReg_grants s _ _
@[simp] theorem State.wr_lanes (page off : Nat) (v : W) : (s.wr page off v).lanes = s.lanes := State.setReg_lanes s _ _
@[simp] theorem State.wr_cmds (page off : Nat) (v : W) : (s.wr page off v).cmds = s.cmds := State.setReg_cmds s _ _
@[simp] theorem State.wr_cmdCount (page off : Nat) (v : W) : (s.wr page off v).cmdCount = s.cmdCount := State.setReg_cmdCount s _ _
@[simp] theorem State.wr_forms (page off : Nat) (v : W) : (s.wr page off v).forms = s.forms := State.setReg_forms s _ _
@[simp] theorem State.wr_formCount (page off : Nat) (v : W) : (s.wr page off v).formCount = s.formCount := State.setReg_formCount s _ _
@[simp] theorem State.wr_cores (page off : Nat) (v : W) : (s.wr page off v).cores = s.cores := State.setReg_cores s _ _
@[simp] theorem State.wr_remap (page off : Nat) (v : W) : (s.wr page off v).remap = s.remap := State.setReg_remap s _ _
@[simp] theorem State.wr_baseEpoch (page off : Nat) (v : W) : (s.wr page off v).baseEpoch = s.baseEpoch := State.setReg_baseEpoch s _ _
@[simp] theorem State.wr_unbound (page off : Nat) (v : W) : (s.wr page off v).unbound = s.unbound := State.setReg_unbound s _ _
@[simp] theorem State.wr_log (page off : Nat) (v : W) : (s.wr page off v).log = s.log := State.setReg_log s _ _
@[simp] theorem State.wr_logLatch (page off : Nat) (v : W) : (s.wr page off v).logLatch = s.logLatch := State.setReg_logLatch s _ _
@[simp] theorem State.wr_logRead (page off : Nat) (v : W) : (s.wr page off v).logRead = s.logRead := State.setReg_logRead s _ _
@[simp] theorem State.wr_logOvf (page off : Nat) (v : W) : (s.wr page off v).logOvf = s.logOvf := State.setReg_logOvf s _ _
@[simp] theorem State.wr_landing (page off : Nat) (v : W) : (s.wr page off v).landing = s.landing := State.setReg_landing s _ _
@[simp] theorem State.wr_landUse (page off : Nat) (v : W) : (s.wr page off v).landUse = s.landUse := State.setReg_landUse s _ _
@[simp] theorem State.wr_staging (page off : Nat) (v : W) : (s.wr page off v).staging = s.staging := State.setReg_staging s _ _
@[simp] theorem State.wr_stagedKeys (page off : Nat) (v : W) : (s.wr page off v).stagedKeys = s.stagedKeys := State.setReg_stagedKeys s _ _
@[simp] theorem State.wr_mem (page off : Nat) (v : W) : (s.wr page off v).mem = s.mem := State.setReg_mem s _ _
@[simp] theorem State.wr_uncorr (page off : Nat) (v : W) : (s.wr page off v).uncorr = s.uncorr := State.setReg_uncorr s _ _
@[simp] theorem State.wr_stk (page off : Nat) (v : W) : (s.wr page off v).stk = s.stk := State.setReg_stk s _ _
@[simp] theorem State.wr_halvedAt (page off : Nat) (v : W) : (s.wr page off v).halvedAt = s.halvedAt := State.setReg_halvedAt s _ _
@[simp] theorem State.wr_quarantine (page off : Nat) (v : W) : (s.wr page off v).quarantine = s.quarantine := State.setReg_quarantine s _ _
@[simp] theorem State.wr_sipKey (page off : Nat) (v : W) : (s.wr page off v).sipKey = s.sipKey := State.setReg_sipKey s _ _
@[simp] theorem State.wr_prefixes (page off : Nat) (v : W) : (s.wr page off v).prefixes = s.prefixes := State.setReg_prefixes s _ _
@[simp] theorem State.wr_stamps (page off : Nat) (v : W) : (s.wr page off v).stamps = s.stamps := State.setReg_stamps s _ _
@[simp] theorem State.wr_evictPtr (page off : Nat) (v : W) : (s.wr page off v).evictPtr = s.evictPtr := State.setReg_evictPtr s _ _
@[simp] theorem State.wr_tcache (page off : Nat) (v : W) : (s.wr page off v).tcache = s.tcache := State.setReg_tcache s _ _
@[simp] theorem State.wr_granules (page off : Nat) (v : W) : (s.wr page off v).granules = s.granules := State.setReg_granules s _ _
@[simp] theorem State.wr_orphans (page off : Nat) (v : W) : (s.wr page off v).orphans = s.orphans := State.setReg_orphans s _ _
@[simp] theorem State.wr_lostGranules (page off : Nat) (v : W) : (s.wr page off v).lostGranules = s.lostGranules := State.setReg_lostGranules s _ _
@[simp] theorem State.wr_tide (page off : Nat) (v : W) : (s.wr page off v).tide = s.tide := State.setReg_tide s _ _
@[simp] theorem State.wr_tideCur (page off : Nat) (v : W) : (s.wr page off v).tideCur = s.tideCur := State.setReg_tideCur s _ _
@[simp] theorem State.wr_debt (page off : Nat) (v : W) : (s.wr page off v).debt = s.debt := State.setReg_debt s _ _
@[simp] theorem State.wr_overruns (page off : Nat) (v : W) : (s.wr page off v).overruns = s.overruns := State.setReg_overruns s _ _
@[simp] theorem State.wr_modelRes (page off : Nat) (v : W) : (s.wr page off v).modelRes = s.modelRes := State.setReg_modelRes s _ _
@[simp] theorem State.wr_models (page off : Nat) (v : W) : (s.wr page off v).models = s.models := State.setReg_models s _ _
@[simp] theorem State.wr_wf (page off : Nat) (v : W) : (s.wr page off v).wf = s.wf := State.setReg_wf s _ _
@[simp] theorem State.wr_intakes (page off : Nat) (v : W) : (s.wr page off v).intakes = s.intakes := State.setReg_intakes s _ _
@[simp] theorem State.wr_afaultq (page off : Nat) (v : W) : (s.wr page off v).afaultq = s.afaultq := State.setReg_afaultq s _ _
@[simp] theorem State.wr_afaultLatch (page off : Nat) (v : W) : (s.wr page off v).afaultLatch = s.afaultLatch := State.setReg_afaultLatch s _ _
@[simp] theorem State.wr_afaultRead (page off : Nat) (v : W) : (s.wr page off v).afaultRead = s.afaultRead := State.setReg_afaultRead s _ _
@[simp] theorem State.wr_circ (page off : Nat) (v : W) : (s.wr page off v).circ = s.circ := State.setReg_circ s _ _
@[simp] theorem State.wr_ports (page off : Nat) (v : W) : (s.wr page off v).ports = s.ports := State.setReg_ports s _ _
@[simp] theorem State.wr_ranks (page off : Nat) (v : W) : (s.wr page off v).ranks = s.ranks := State.setReg_ranks s _ _
@[simp] theorem State.wr_colls (page off : Nat) (v : W) : (s.wr page off v).colls = s.colls := State.setReg_colls s _ _
@[simp] theorem State.wr_ctrlIn (page off : Nat) (v : W) : (s.wr page off v).ctrlIn = s.ctrlIn := State.setReg_ctrlIn s _ _
@[simp] theorem State.wr_updOut (page off : Nat) (v : W) : (s.wr page off v).updOut = s.updOut := State.setReg_updOut s _ _
@[simp] theorem State.wr_hostReads (page off : Nat) (v : W) : (s.wr page off v).hostReads = s.hostReads := State.setReg_hostReads s _ _
@[simp] theorem State.wr_hostWrites (page off : Nat) (v : W) : (s.wr page off v).hostWrites = s.hostWrites := State.setReg_hostWrites s _ _
@[simp] theorem State.wr_host (page off : Nat) (v : W) : (s.wr page off v).host = s.host := State.setReg_host s _ _
@[simp] theorem State.wr_late (page off : Nat) (v : W) : (s.wr page off v).late = s.late := State.setReg_late s _ _
@[simp] theorem State.wr_readQ (page off : Nat) (v : W) : (s.wr page off v).readQ = s.readQ := State.setReg_readQ s _ _
@[simp] theorem State.wr_writeQ (page off : Nat) (v : W) : (s.wr page off v).writeQ = s.writeQ := State.setReg_writeQ s _ _
@[simp] theorem State.wr_secTasks (page off : Nat) (v : W) : (s.wr page off v).secTasks = s.secTasks := State.setReg_secTasks s _ _
@[simp] theorem State.wr_fwTask (page off : Nat) (v : W) : (s.wr page off v).fwTask = s.fwTask := State.setReg_fwTask s _ _
@[simp] theorem State.wr_hwQ (page off : Nat) (v : W) : (s.wr page off v).hwQ = s.hwQ := State.setReg_hwQ s _ _
@[simp] theorem State.wr_mclkFail (page off : Nat) (v : W) : (s.wr page off v).mclkFail = s.mclkFail := State.setReg_mclkFail s _ _
@[simp] theorem State.wr_lclkFail (page off : Nat) (v : W) : (s.wr page off v).lclkFail = s.lclkFail := State.setReg_lclkFail s _ _
@[simp] theorem State.wr_hwData (page off : Nat) (v : W) : (s.wr page off v).hwData = s.hwData := State.setReg_hwData s _ _
@[simp] theorem State.wr_hwStat (page off : Nat) (v : W) : (s.wr page off v).hwStat = s.hwStat := State.setReg_hwStat s _ _
@[simp] theorem State.wr_pwr (page off : Nat) (v : W) : (s.wr page off v).pwr = s.pwr := State.setReg_pwr s _ _
@[simp] theorem State.wr_domIdle (page off : Nat) (v : W) : (s.wr page off v).domIdle = s.domIdle := State.setReg_domIdle s _ _
@[simp] theorem State.wr_gated (page off : Nat) (v : W) : (s.wr page off v).gated = s.gated := State.setReg_gated s _ _
@[simp] theorem State.wr_clkmon (page off : Nat) (v : W) : (s.wr page off v).clkmon = s.clkmon := State.setReg_clkmon s _ _
@[simp] theorem State.wr_cluster0 (page off : Nat) (v : W) : (s.wr page off v).cluster0 = s.cluster0 := State.setReg_cluster0 s _ _
@[simp] theorem State.wr_cluster1 (page off : Nat) (v : W) : (s.wr page off v).cluster1 = s.cluster1 := State.setReg_cluster1 s _ _
@[simp] theorem State.wr_duty (page off : Nat) (v : W) : (s.wr page off v).duty = s.duty := State.setReg_duty s _ _
@[simp] theorem State.wr_tablesBad (page off : Nat) (v : W) : (s.wr page off v).tablesBad = s.tablesBad := State.setReg_tablesBad s _ _
@[simp] theorem State.wr_tablesMin (page off : Nat) (v : W) : (s.wr page off v).tablesMin = s.tablesMin := State.setReg_tablesMin s _ _
@[simp] theorem State.wr_cause (page off : Nat) (v : W) : (s.wr page off v).cause = s.cause := State.setReg_cause s _ _
@[simp] theorem State.wr_store (page off : Nat) (v : W) : (s.wr page off v).store = s.store := State.setReg_store s _ _
@[simp] theorem State.wr_beacons (page off : Nat) (v : W) : (s.wr page off v).beacons = s.beacons := State.setReg_beacons s _ _
@[simp] theorem State.wr_decl (page off : Nat) (v : W) : (s.wr page off v).decl = s.decl := State.setReg_decl s _ _
@[simp] theorem State.wr_fresh (page off : Nat) (v : W) : (s.wr page off v).fresh = s.fresh := State.setReg_fresh s _ _

/-! ## setFld -/

@[simp] theorem State.setFld_pending (page off lo width v : Nat) : (s.setFld page off lo width v).pending = s.pending := State.setReg_pending s _ _
@[simp] theorem State.setFld_part (page off lo width v : Nat) : (s.setFld page off lo width v).part = s.part := State.setReg_part s _ _
@[simp] theorem State.setFld_fuses (page off lo width v : Nat) : (s.setFld page off lo width v).fuses = s.fuses := State.setReg_fuses s _ _
@[simp] theorem State.setFld_fuseTask (page off lo width v : Nat) : (s.setFld page off lo width v).fuseTask = s.fuseTask := State.setReg_fuseTask s _ _
@[simp] theorem State.setFld_lc (page off lo width v : Nat) : (s.setFld page off lo width v).lc = s.lc := State.setReg_lc s _ _
@[simp] theorem State.setFld_fwMin (page off lo width v : Nat) : (s.setFld page off lo width v).fwMin = s.fwMin := State.setReg_fwMin s _ _
@[simp] theorem State.setFld_erasing (page off lo width v : Nat) : (s.setFld page off lo width v).erasing = s.erasing := State.setReg_erasing s _ _
@[simp] theorem State.setFld_erasePct (page off lo width v : Nat) : (s.setFld page off lo width v).erasePct = s.erasePct := State.setReg_erasePct s _ _
@[simp] theorem State.setFld_ident (page off lo width v : Nat) : (s.setFld page off lo width v).ident = s.ident := State.setReg_ident s _ _
@[simp] theorem State.setFld_keys (page off lo width v : Nat) : (s.setFld page off lo width v).keys = s.keys := State.setReg_keys s _ _
@[simp] theorem State.setFld_nonce (page off lo width v : Nat) : (s.setFld page off lo width v).nonce = s.nonce := State.setReg_nonce s _ _
@[simp] theorem State.setFld_lcount (page off lo width v : Nat) : (s.setFld page off lo width v).lcount = s.lcount := State.setReg_lcount s _ _
@[simp] theorem State.setFld_phase (page off lo width v : Nat) : (s.setFld page off lo width v).phase = s.phase := State.setReg_phase s _ _
@[simp] theorem State.setFld_ready (page off lo width v : Nat) : (s.setFld page off lo width v).ready = s.ready := State.setReg_ready s _ _
@[simp] theorem State.setFld_hdrs (page off lo width v : Nat) : (s.setFld page off lo width v).hdrs = s.hdrs := State.setReg_hdrs s _ _
@[simp] theorem State.setFld_ctrs (page off lo width v : Nat) : (s.setFld page off lo width v).ctrs = s.ctrs := State.setReg_ctrs s _ _
@[simp] theorem State.setFld_latches (page off lo width v : Nat) : (s.setFld page off lo width v).latches = s.latches := State.setReg_latches s _ _
@[simp] theorem State.setFld_cap (page off lo width v : Nat) : (s.setFld page off lo width v).cap = s.cap := State.setReg_cap s _ _
@[simp] theorem State.setFld_used (page off lo width v : Nat) : (s.setFld page off lo width v).used = s.used := State.setReg_used s _ _
@[simp] theorem State.setFld_served (page off lo width v : Nat) : (s.setFld page off lo width v).served = s.served := State.setReg_served s _ _
@[simp] theorem State.setFld_periodAt (page off lo width v : Nat) : (s.setFld page off lo width v).periodAt = s.periodAt := State.setReg_periodAt s _ _
@[simp] theorem State.setFld_rdata (page off lo width v : Nat) : (s.setFld page off lo width v).rdata = s.rdata := State.setReg_rdata s _ _
@[simp] theorem State.setFld_dir (page off lo width v : Nat) : (s.setFld page off lo width v).dir = s.dir := State.setReg_dir s _ _
@[simp] theorem State.setFld_jobs (page off lo width v : Nat) : (s.setFld page off lo width v).jobs = s.jobs := State.setReg_jobs s _ _
@[simp] theorem State.setFld_slots (page off lo width v : Nat) : (s.setFld page off lo width v).slots = s.slots := State.setReg_slots s _ _
@[simp] theorem State.setFld_grants (page off lo width v : Nat) : (s.setFld page off lo width v).grants = s.grants := State.setReg_grants s _ _
@[simp] theorem State.setFld_lanes (page off lo width v : Nat) : (s.setFld page off lo width v).lanes = s.lanes := State.setReg_lanes s _ _
@[simp] theorem State.setFld_cmds (page off lo width v : Nat) : (s.setFld page off lo width v).cmds = s.cmds := State.setReg_cmds s _ _
@[simp] theorem State.setFld_cmdCount (page off lo width v : Nat) : (s.setFld page off lo width v).cmdCount = s.cmdCount := State.setReg_cmdCount s _ _
@[simp] theorem State.setFld_forms (page off lo width v : Nat) : (s.setFld page off lo width v).forms = s.forms := State.setReg_forms s _ _
@[simp] theorem State.setFld_formCount (page off lo width v : Nat) : (s.setFld page off lo width v).formCount = s.formCount := State.setReg_formCount s _ _
@[simp] theorem State.setFld_cores (page off lo width v : Nat) : (s.setFld page off lo width v).cores = s.cores := State.setReg_cores s _ _
@[simp] theorem State.setFld_remap (page off lo width v : Nat) : (s.setFld page off lo width v).remap = s.remap := State.setReg_remap s _ _
@[simp] theorem State.setFld_baseEpoch (page off lo width v : Nat) : (s.setFld page off lo width v).baseEpoch = s.baseEpoch := State.setReg_baseEpoch s _ _
@[simp] theorem State.setFld_unbound (page off lo width v : Nat) : (s.setFld page off lo width v).unbound = s.unbound := State.setReg_unbound s _ _
@[simp] theorem State.setFld_log (page off lo width v : Nat) : (s.setFld page off lo width v).log = s.log := State.setReg_log s _ _
@[simp] theorem State.setFld_logLatch (page off lo width v : Nat) : (s.setFld page off lo width v).logLatch = s.logLatch := State.setReg_logLatch s _ _
@[simp] theorem State.setFld_logRead (page off lo width v : Nat) : (s.setFld page off lo width v).logRead = s.logRead := State.setReg_logRead s _ _
@[simp] theorem State.setFld_logOvf (page off lo width v : Nat) : (s.setFld page off lo width v).logOvf = s.logOvf := State.setReg_logOvf s _ _
@[simp] theorem State.setFld_landing (page off lo width v : Nat) : (s.setFld page off lo width v).landing = s.landing := State.setReg_landing s _ _
@[simp] theorem State.setFld_landUse (page off lo width v : Nat) : (s.setFld page off lo width v).landUse = s.landUse := State.setReg_landUse s _ _
@[simp] theorem State.setFld_staging (page off lo width v : Nat) : (s.setFld page off lo width v).staging = s.staging := State.setReg_staging s _ _
@[simp] theorem State.setFld_stagedKeys (page off lo width v : Nat) : (s.setFld page off lo width v).stagedKeys = s.stagedKeys := State.setReg_stagedKeys s _ _
@[simp] theorem State.setFld_mem (page off lo width v : Nat) : (s.setFld page off lo width v).mem = s.mem := State.setReg_mem s _ _
@[simp] theorem State.setFld_uncorr (page off lo width v : Nat) : (s.setFld page off lo width v).uncorr = s.uncorr := State.setReg_uncorr s _ _
@[simp] theorem State.setFld_stk (page off lo width v : Nat) : (s.setFld page off lo width v).stk = s.stk := State.setReg_stk s _ _
@[simp] theorem State.setFld_halvedAt (page off lo width v : Nat) : (s.setFld page off lo width v).halvedAt = s.halvedAt := State.setReg_halvedAt s _ _
@[simp] theorem State.setFld_quarantine (page off lo width v : Nat) : (s.setFld page off lo width v).quarantine = s.quarantine := State.setReg_quarantine s _ _
@[simp] theorem State.setFld_sipKey (page off lo width v : Nat) : (s.setFld page off lo width v).sipKey = s.sipKey := State.setReg_sipKey s _ _
@[simp] theorem State.setFld_prefixes (page off lo width v : Nat) : (s.setFld page off lo width v).prefixes = s.prefixes := State.setReg_prefixes s _ _
@[simp] theorem State.setFld_stamps (page off lo width v : Nat) : (s.setFld page off lo width v).stamps = s.stamps := State.setReg_stamps s _ _
@[simp] theorem State.setFld_evictPtr (page off lo width v : Nat) : (s.setFld page off lo width v).evictPtr = s.evictPtr := State.setReg_evictPtr s _ _
@[simp] theorem State.setFld_tcache (page off lo width v : Nat) : (s.setFld page off lo width v).tcache = s.tcache := State.setReg_tcache s _ _
@[simp] theorem State.setFld_granules (page off lo width v : Nat) : (s.setFld page off lo width v).granules = s.granules := State.setReg_granules s _ _
@[simp] theorem State.setFld_orphans (page off lo width v : Nat) : (s.setFld page off lo width v).orphans = s.orphans := State.setReg_orphans s _ _
@[simp] theorem State.setFld_lostGranules (page off lo width v : Nat) : (s.setFld page off lo width v).lostGranules = s.lostGranules := State.setReg_lostGranules s _ _
@[simp] theorem State.setFld_tide (page off lo width v : Nat) : (s.setFld page off lo width v).tide = s.tide := State.setReg_tide s _ _
@[simp] theorem State.setFld_tideCur (page off lo width v : Nat) : (s.setFld page off lo width v).tideCur = s.tideCur := State.setReg_tideCur s _ _
@[simp] theorem State.setFld_debt (page off lo width v : Nat) : (s.setFld page off lo width v).debt = s.debt := State.setReg_debt s _ _
@[simp] theorem State.setFld_overruns (page off lo width v : Nat) : (s.setFld page off lo width v).overruns = s.overruns := State.setReg_overruns s _ _
@[simp] theorem State.setFld_modelRes (page off lo width v : Nat) : (s.setFld page off lo width v).modelRes = s.modelRes := State.setReg_modelRes s _ _
@[simp] theorem State.setFld_models (page off lo width v : Nat) : (s.setFld page off lo width v).models = s.models := State.setReg_models s _ _
@[simp] theorem State.setFld_wf (page off lo width v : Nat) : (s.setFld page off lo width v).wf = s.wf := State.setReg_wf s _ _
@[simp] theorem State.setFld_intakes (page off lo width v : Nat) : (s.setFld page off lo width v).intakes = s.intakes := State.setReg_intakes s _ _
@[simp] theorem State.setFld_afaultq (page off lo width v : Nat) : (s.setFld page off lo width v).afaultq = s.afaultq := State.setReg_afaultq s _ _
@[simp] theorem State.setFld_afaultLatch (page off lo width v : Nat) : (s.setFld page off lo width v).afaultLatch = s.afaultLatch := State.setReg_afaultLatch s _ _
@[simp] theorem State.setFld_afaultRead (page off lo width v : Nat) : (s.setFld page off lo width v).afaultRead = s.afaultRead := State.setReg_afaultRead s _ _
@[simp] theorem State.setFld_circ (page off lo width v : Nat) : (s.setFld page off lo width v).circ = s.circ := State.setReg_circ s _ _
@[simp] theorem State.setFld_ports (page off lo width v : Nat) : (s.setFld page off lo width v).ports = s.ports := State.setReg_ports s _ _
@[simp] theorem State.setFld_ranks (page off lo width v : Nat) : (s.setFld page off lo width v).ranks = s.ranks := State.setReg_ranks s _ _
@[simp] theorem State.setFld_colls (page off lo width v : Nat) : (s.setFld page off lo width v).colls = s.colls := State.setReg_colls s _ _
@[simp] theorem State.setFld_ctrlIn (page off lo width v : Nat) : (s.setFld page off lo width v).ctrlIn = s.ctrlIn := State.setReg_ctrlIn s _ _
@[simp] theorem State.setFld_updOut (page off lo width v : Nat) : (s.setFld page off lo width v).updOut = s.updOut := State.setReg_updOut s _ _
@[simp] theorem State.setFld_hostReads (page off lo width v : Nat) : (s.setFld page off lo width v).hostReads = s.hostReads := State.setReg_hostReads s _ _
@[simp] theorem State.setFld_hostWrites (page off lo width v : Nat) : (s.setFld page off lo width v).hostWrites = s.hostWrites := State.setReg_hostWrites s _ _
@[simp] theorem State.setFld_host (page off lo width v : Nat) : (s.setFld page off lo width v).host = s.host := State.setReg_host s _ _
@[simp] theorem State.setFld_late (page off lo width v : Nat) : (s.setFld page off lo width v).late = s.late := State.setReg_late s _ _
@[simp] theorem State.setFld_readQ (page off lo width v : Nat) : (s.setFld page off lo width v).readQ = s.readQ := State.setReg_readQ s _ _
@[simp] theorem State.setFld_writeQ (page off lo width v : Nat) : (s.setFld page off lo width v).writeQ = s.writeQ := State.setReg_writeQ s _ _
@[simp] theorem State.setFld_secTasks (page off lo width v : Nat) : (s.setFld page off lo width v).secTasks = s.secTasks := State.setReg_secTasks s _ _
@[simp] theorem State.setFld_fwTask (page off lo width v : Nat) : (s.setFld page off lo width v).fwTask = s.fwTask := State.setReg_fwTask s _ _
@[simp] theorem State.setFld_hwQ (page off lo width v : Nat) : (s.setFld page off lo width v).hwQ = s.hwQ := State.setReg_hwQ s _ _
@[simp] theorem State.setFld_mclkFail (page off lo width v : Nat) : (s.setFld page off lo width v).mclkFail = s.mclkFail := State.setReg_mclkFail s _ _
@[simp] theorem State.setFld_lclkFail (page off lo width v : Nat) : (s.setFld page off lo width v).lclkFail = s.lclkFail := State.setReg_lclkFail s _ _
@[simp] theorem State.setFld_hwData (page off lo width v : Nat) : (s.setFld page off lo width v).hwData = s.hwData := State.setReg_hwData s _ _
@[simp] theorem State.setFld_hwStat (page off lo width v : Nat) : (s.setFld page off lo width v).hwStat = s.hwStat := State.setReg_hwStat s _ _
@[simp] theorem State.setFld_pwr (page off lo width v : Nat) : (s.setFld page off lo width v).pwr = s.pwr := State.setReg_pwr s _ _
@[simp] theorem State.setFld_domIdle (page off lo width v : Nat) : (s.setFld page off lo width v).domIdle = s.domIdle := State.setReg_domIdle s _ _
@[simp] theorem State.setFld_gated (page off lo width v : Nat) : (s.setFld page off lo width v).gated = s.gated := State.setReg_gated s _ _
@[simp] theorem State.setFld_clkmon (page off lo width v : Nat) : (s.setFld page off lo width v).clkmon = s.clkmon := State.setReg_clkmon s _ _
@[simp] theorem State.setFld_cluster0 (page off lo width v : Nat) : (s.setFld page off lo width v).cluster0 = s.cluster0 := State.setReg_cluster0 s _ _
@[simp] theorem State.setFld_cluster1 (page off lo width v : Nat) : (s.setFld page off lo width v).cluster1 = s.cluster1 := State.setReg_cluster1 s _ _
@[simp] theorem State.setFld_duty (page off lo width v : Nat) : (s.setFld page off lo width v).duty = s.duty := State.setReg_duty s _ _
@[simp] theorem State.setFld_tablesBad (page off lo width v : Nat) : (s.setFld page off lo width v).tablesBad = s.tablesBad := State.setReg_tablesBad s _ _
@[simp] theorem State.setFld_tablesMin (page off lo width v : Nat) : (s.setFld page off lo width v).tablesMin = s.tablesMin := State.setReg_tablesMin s _ _
@[simp] theorem State.setFld_cause (page off lo width v : Nat) : (s.setFld page off lo width v).cause = s.cause := State.setReg_cause s _ _
@[simp] theorem State.setFld_store (page off lo width v : Nat) : (s.setFld page off lo width v).store = s.store := State.setReg_store s _ _
@[simp] theorem State.setFld_beacons (page off lo width v : Nat) : (s.setFld page off lo width v).beacons = s.beacons := State.setReg_beacons s _ _
@[simp] theorem State.setFld_decl (page off lo width v : Nat) : (s.setFld page off lo width v).decl = s.decl := State.setReg_decl s _ _
@[simp] theorem State.setFld_fresh (page off lo width v : Nat) : (s.setFld page off lo width v).fresh = s.fresh := State.setReg_fresh s _ _

/-! ## count -/

@[simp] theorem State.count_pending (a n : Nat) : (s.count a n).pending = s.pending := by rw [State.count_shape]
@[simp] theorem State.count_part (a n : Nat) : (s.count a n).part = s.part := by rw [State.count_shape]
@[simp] theorem State.count_fuses (a n : Nat) : (s.count a n).fuses = s.fuses := by rw [State.count_shape]
@[simp] theorem State.count_fuseTask (a n : Nat) : (s.count a n).fuseTask = s.fuseTask := by rw [State.count_shape]
@[simp] theorem State.count_lc (a n : Nat) : (s.count a n).lc = s.lc := by rw [State.count_shape]
@[simp] theorem State.count_fwMin (a n : Nat) : (s.count a n).fwMin = s.fwMin := by rw [State.count_shape]
@[simp] theorem State.count_erasing (a n : Nat) : (s.count a n).erasing = s.erasing := by rw [State.count_shape]
@[simp] theorem State.count_erasePct (a n : Nat) : (s.count a n).erasePct = s.erasePct := by rw [State.count_shape]
@[simp] theorem State.count_ident (a n : Nat) : (s.count a n).ident = s.ident := by rw [State.count_shape]
@[simp] theorem State.count_keys (a n : Nat) : (s.count a n).keys = s.keys := by rw [State.count_shape]
@[simp] theorem State.count_nonce (a n : Nat) : (s.count a n).nonce = s.nonce := by rw [State.count_shape]
@[simp] theorem State.count_lcount (a n : Nat) : (s.count a n).lcount = s.lcount := by rw [State.count_shape]
@[simp] theorem State.count_phase (a n : Nat) : (s.count a n).phase = s.phase := by rw [State.count_shape]
@[simp] theorem State.count_ready (a n : Nat) : (s.count a n).ready = s.ready := by rw [State.count_shape]
@[simp] theorem State.count_latches (a n : Nat) : (s.count a n).latches = s.latches := by rw [State.count_shape]
@[simp] theorem State.count_cap (a n : Nat) : (s.count a n).cap = s.cap := by rw [State.count_shape]
@[simp] theorem State.count_used (a n : Nat) : (s.count a n).used = s.used := by rw [State.count_shape]
@[simp] theorem State.count_served (a n : Nat) : (s.count a n).served = s.served := by rw [State.count_shape]
@[simp] theorem State.count_periodAt (a n : Nat) : (s.count a n).periodAt = s.periodAt := by rw [State.count_shape]
@[simp] theorem State.count_rdata (a n : Nat) : (s.count a n).rdata = s.rdata := by rw [State.count_shape]
@[simp] theorem State.count_dir (a n : Nat) : (s.count a n).dir = s.dir := by rw [State.count_shape]
@[simp] theorem State.count_jobs (a n : Nat) : (s.count a n).jobs = s.jobs := by rw [State.count_shape]
@[simp] theorem State.count_slots (a n : Nat) : (s.count a n).slots = s.slots := by rw [State.count_shape]
@[simp] theorem State.count_grants (a n : Nat) : (s.count a n).grants = s.grants := by rw [State.count_shape]
@[simp] theorem State.count_lanes (a n : Nat) : (s.count a n).lanes = s.lanes := by rw [State.count_shape]
@[simp] theorem State.count_cmds (a n : Nat) : (s.count a n).cmds = s.cmds := by rw [State.count_shape]
@[simp] theorem State.count_cmdCount (a n : Nat) : (s.count a n).cmdCount = s.cmdCount := by rw [State.count_shape]
@[simp] theorem State.count_forms (a n : Nat) : (s.count a n).forms = s.forms := by rw [State.count_shape]
@[simp] theorem State.count_formCount (a n : Nat) : (s.count a n).formCount = s.formCount := by rw [State.count_shape]
@[simp] theorem State.count_cores (a n : Nat) : (s.count a n).cores = s.cores := by rw [State.count_shape]
@[simp] theorem State.count_remap (a n : Nat) : (s.count a n).remap = s.remap := by rw [State.count_shape]
@[simp] theorem State.count_baseEpoch (a n : Nat) : (s.count a n).baseEpoch = s.baseEpoch := by rw [State.count_shape]
@[simp] theorem State.count_unbound (a n : Nat) : (s.count a n).unbound = s.unbound := by rw [State.count_shape]
@[simp] theorem State.count_log (a n : Nat) : (s.count a n).log = s.log := by rw [State.count_shape]
@[simp] theorem State.count_logLatch (a n : Nat) : (s.count a n).logLatch = s.logLatch := by rw [State.count_shape]
@[simp] theorem State.count_logRead (a n : Nat) : (s.count a n).logRead = s.logRead := by rw [State.count_shape]
@[simp] theorem State.count_logOvf (a n : Nat) : (s.count a n).logOvf = s.logOvf := by rw [State.count_shape]
@[simp] theorem State.count_landing (a n : Nat) : (s.count a n).landing = s.landing := by rw [State.count_shape]
@[simp] theorem State.count_landUse (a n : Nat) : (s.count a n).landUse = s.landUse := by rw [State.count_shape]
@[simp] theorem State.count_staging (a n : Nat) : (s.count a n).staging = s.staging := by rw [State.count_shape]
@[simp] theorem State.count_stagedKeys (a n : Nat) : (s.count a n).stagedKeys = s.stagedKeys := by rw [State.count_shape]
@[simp] theorem State.count_mem (a n : Nat) : (s.count a n).mem = s.mem := by rw [State.count_shape]
@[simp] theorem State.count_uncorr (a n : Nat) : (s.count a n).uncorr = s.uncorr := by rw [State.count_shape]
@[simp] theorem State.count_stk (a n : Nat) : (s.count a n).stk = s.stk := by rw [State.count_shape]
@[simp] theorem State.count_halvedAt (a n : Nat) : (s.count a n).halvedAt = s.halvedAt := by rw [State.count_shape]
@[simp] theorem State.count_quarantine (a n : Nat) : (s.count a n).quarantine = s.quarantine := by rw [State.count_shape]
@[simp] theorem State.count_sipKey (a n : Nat) : (s.count a n).sipKey = s.sipKey := by rw [State.count_shape]
@[simp] theorem State.count_prefixes (a n : Nat) : (s.count a n).prefixes = s.prefixes := by rw [State.count_shape]
@[simp] theorem State.count_stamps (a n : Nat) : (s.count a n).stamps = s.stamps := by rw [State.count_shape]
@[simp] theorem State.count_evictPtr (a n : Nat) : (s.count a n).evictPtr = s.evictPtr := by rw [State.count_shape]
@[simp] theorem State.count_tcache (a n : Nat) : (s.count a n).tcache = s.tcache := by rw [State.count_shape]
@[simp] theorem State.count_granules (a n : Nat) : (s.count a n).granules = s.granules := by rw [State.count_shape]
@[simp] theorem State.count_orphans (a n : Nat) : (s.count a n).orphans = s.orphans := by rw [State.count_shape]
@[simp] theorem State.count_lostGranules (a n : Nat) : (s.count a n).lostGranules = s.lostGranules := by rw [State.count_shape]
@[simp] theorem State.count_tide (a n : Nat) : (s.count a n).tide = s.tide := by rw [State.count_shape]
@[simp] theorem State.count_tideCur (a n : Nat) : (s.count a n).tideCur = s.tideCur := by rw [State.count_shape]
@[simp] theorem State.count_debt (a n : Nat) : (s.count a n).debt = s.debt := by rw [State.count_shape]
@[simp] theorem State.count_overruns (a n : Nat) : (s.count a n).overruns = s.overruns := by rw [State.count_shape]
@[simp] theorem State.count_modelRes (a n : Nat) : (s.count a n).modelRes = s.modelRes := by rw [State.count_shape]
@[simp] theorem State.count_models (a n : Nat) : (s.count a n).models = s.models := by rw [State.count_shape]
@[simp] theorem State.count_wf (a n : Nat) : (s.count a n).wf = s.wf := by rw [State.count_shape]
@[simp] theorem State.count_intakes (a n : Nat) : (s.count a n).intakes = s.intakes := by rw [State.count_shape]
@[simp] theorem State.count_afaultq (a n : Nat) : (s.count a n).afaultq = s.afaultq := by rw [State.count_shape]
@[simp] theorem State.count_afaultLatch (a n : Nat) : (s.count a n).afaultLatch = s.afaultLatch := by rw [State.count_shape]
@[simp] theorem State.count_afaultRead (a n : Nat) : (s.count a n).afaultRead = s.afaultRead := by rw [State.count_shape]
@[simp] theorem State.count_circ (a n : Nat) : (s.count a n).circ = s.circ := by rw [State.count_shape]
@[simp] theorem State.count_ports (a n : Nat) : (s.count a n).ports = s.ports := by rw [State.count_shape]
@[simp] theorem State.count_ranks (a n : Nat) : (s.count a n).ranks = s.ranks := by rw [State.count_shape]
@[simp] theorem State.count_colls (a n : Nat) : (s.count a n).colls = s.colls := by rw [State.count_shape]
@[simp] theorem State.count_ctrlIn (a n : Nat) : (s.count a n).ctrlIn = s.ctrlIn := by rw [State.count_shape]
@[simp] theorem State.count_updOut (a n : Nat) : (s.count a n).updOut = s.updOut := by rw [State.count_shape]
@[simp] theorem State.count_hostReads (a n : Nat) : (s.count a n).hostReads = s.hostReads := by rw [State.count_shape]
@[simp] theorem State.count_hostWrites (a n : Nat) : (s.count a n).hostWrites = s.hostWrites := by rw [State.count_shape]
@[simp] theorem State.count_host (a n : Nat) : (s.count a n).host = s.host := by rw [State.count_shape]
@[simp] theorem State.count_late (a n : Nat) : (s.count a n).late = s.late := by rw [State.count_shape]
@[simp] theorem State.count_readQ (a n : Nat) : (s.count a n).readQ = s.readQ := by rw [State.count_shape]
@[simp] theorem State.count_writeQ (a n : Nat) : (s.count a n).writeQ = s.writeQ := by rw [State.count_shape]
@[simp] theorem State.count_secTasks (a n : Nat) : (s.count a n).secTasks = s.secTasks := by rw [State.count_shape]
@[simp] theorem State.count_fwTask (a n : Nat) : (s.count a n).fwTask = s.fwTask := by rw [State.count_shape]
@[simp] theorem State.count_hwQ (a n : Nat) : (s.count a n).hwQ = s.hwQ := by rw [State.count_shape]
@[simp] theorem State.count_mclkFail (a n : Nat) : (s.count a n).mclkFail = s.mclkFail := by rw [State.count_shape]
@[simp] theorem State.count_lclkFail (a n : Nat) : (s.count a n).lclkFail = s.lclkFail := by rw [State.count_shape]
@[simp] theorem State.count_hwData (a n : Nat) : (s.count a n).hwData = s.hwData := by rw [State.count_shape]
@[simp] theorem State.count_hwStat (a n : Nat) : (s.count a n).hwStat = s.hwStat := by rw [State.count_shape]
@[simp] theorem State.count_pwr (a n : Nat) : (s.count a n).pwr = s.pwr := by rw [State.count_shape]
@[simp] theorem State.count_domIdle (a n : Nat) : (s.count a n).domIdle = s.domIdle := by rw [State.count_shape]
@[simp] theorem State.count_gated (a n : Nat) : (s.count a n).gated = s.gated := by rw [State.count_shape]
@[simp] theorem State.count_clkmon (a n : Nat) : (s.count a n).clkmon = s.clkmon := by rw [State.count_shape]
@[simp] theorem State.count_cluster0 (a n : Nat) : (s.count a n).cluster0 = s.cluster0 := by rw [State.count_shape]
@[simp] theorem State.count_cluster1 (a n : Nat) : (s.count a n).cluster1 = s.cluster1 := by rw [State.count_shape]
@[simp] theorem State.count_duty (a n : Nat) : (s.count a n).duty = s.duty := by rw [State.count_shape]
@[simp] theorem State.count_tablesBad (a n : Nat) : (s.count a n).tablesBad = s.tablesBad := by rw [State.count_shape]
@[simp] theorem State.count_tablesMin (a n : Nat) : (s.count a n).tablesMin = s.tablesMin := by rw [State.count_shape]
@[simp] theorem State.count_ret (a n : Nat) : (s.count a n).ret = s.ret := by rw [State.count_shape]
@[simp] theorem State.count_cause (a n : Nat) : (s.count a n).cause = s.cause := by rw [State.count_shape]
@[simp] theorem State.count_store (a n : Nat) : (s.count a n).store = s.store := by rw [State.count_shape]
@[simp] theorem State.count_beacons (a n : Nat) : (s.count a n).beacons = s.beacons := by rw [State.count_shape]
@[simp] theorem State.count_decl (a n : Nat) : (s.count a n).decl = s.decl := by rw [State.count_shape]
@[simp] theorem State.count_fresh (a n : Nat) : (s.count a n).fresh = s.fresh := by rw [State.count_shape]

/-! ## inc -/

@[simp] theorem State.inc_pending (page off : Nat) : (s.inc page off).pending = s.pending := State.count_pending s _ _
@[simp] theorem State.inc_part (page off : Nat) : (s.inc page off).part = s.part := State.count_part s _ _
@[simp] theorem State.inc_fuses (page off : Nat) : (s.inc page off).fuses = s.fuses := State.count_fuses s _ _
@[simp] theorem State.inc_fuseTask (page off : Nat) : (s.inc page off).fuseTask = s.fuseTask := State.count_fuseTask s _ _
@[simp] theorem State.inc_lc (page off : Nat) : (s.inc page off).lc = s.lc := State.count_lc s _ _
@[simp] theorem State.inc_fwMin (page off : Nat) : (s.inc page off).fwMin = s.fwMin := State.count_fwMin s _ _
@[simp] theorem State.inc_erasing (page off : Nat) : (s.inc page off).erasing = s.erasing := State.count_erasing s _ _
@[simp] theorem State.inc_erasePct (page off : Nat) : (s.inc page off).erasePct = s.erasePct := State.count_erasePct s _ _
@[simp] theorem State.inc_ident (page off : Nat) : (s.inc page off).ident = s.ident := State.count_ident s _ _
@[simp] theorem State.inc_keys (page off : Nat) : (s.inc page off).keys = s.keys := State.count_keys s _ _
@[simp] theorem State.inc_nonce (page off : Nat) : (s.inc page off).nonce = s.nonce := State.count_nonce s _ _
@[simp] theorem State.inc_lcount (page off : Nat) : (s.inc page off).lcount = s.lcount := State.count_lcount s _ _
@[simp] theorem State.inc_phase (page off : Nat) : (s.inc page off).phase = s.phase := State.count_phase s _ _
@[simp] theorem State.inc_ready (page off : Nat) : (s.inc page off).ready = s.ready := State.count_ready s _ _
@[simp] theorem State.inc_latches (page off : Nat) : (s.inc page off).latches = s.latches := State.count_latches s _ _
@[simp] theorem State.inc_cap (page off : Nat) : (s.inc page off).cap = s.cap := State.count_cap s _ _
@[simp] theorem State.inc_used (page off : Nat) : (s.inc page off).used = s.used := State.count_used s _ _
@[simp] theorem State.inc_served (page off : Nat) : (s.inc page off).served = s.served := State.count_served s _ _
@[simp] theorem State.inc_periodAt (page off : Nat) : (s.inc page off).periodAt = s.periodAt := State.count_periodAt s _ _
@[simp] theorem State.inc_rdata (page off : Nat) : (s.inc page off).rdata = s.rdata := State.count_rdata s _ _
@[simp] theorem State.inc_dir (page off : Nat) : (s.inc page off).dir = s.dir := State.count_dir s _ _
@[simp] theorem State.inc_jobs (page off : Nat) : (s.inc page off).jobs = s.jobs := State.count_jobs s _ _
@[simp] theorem State.inc_slots (page off : Nat) : (s.inc page off).slots = s.slots := State.count_slots s _ _
@[simp] theorem State.inc_grants (page off : Nat) : (s.inc page off).grants = s.grants := State.count_grants s _ _
@[simp] theorem State.inc_lanes (page off : Nat) : (s.inc page off).lanes = s.lanes := State.count_lanes s _ _
@[simp] theorem State.inc_cmds (page off : Nat) : (s.inc page off).cmds = s.cmds := State.count_cmds s _ _
@[simp] theorem State.inc_cmdCount (page off : Nat) : (s.inc page off).cmdCount = s.cmdCount := State.count_cmdCount s _ _
@[simp] theorem State.inc_forms (page off : Nat) : (s.inc page off).forms = s.forms := State.count_forms s _ _
@[simp] theorem State.inc_formCount (page off : Nat) : (s.inc page off).formCount = s.formCount := State.count_formCount s _ _
@[simp] theorem State.inc_cores (page off : Nat) : (s.inc page off).cores = s.cores := State.count_cores s _ _
@[simp] theorem State.inc_remap (page off : Nat) : (s.inc page off).remap = s.remap := State.count_remap s _ _
@[simp] theorem State.inc_baseEpoch (page off : Nat) : (s.inc page off).baseEpoch = s.baseEpoch := State.count_baseEpoch s _ _
@[simp] theorem State.inc_unbound (page off : Nat) : (s.inc page off).unbound = s.unbound := State.count_unbound s _ _
@[simp] theorem State.inc_log (page off : Nat) : (s.inc page off).log = s.log := State.count_log s _ _
@[simp] theorem State.inc_logLatch (page off : Nat) : (s.inc page off).logLatch = s.logLatch := State.count_logLatch s _ _
@[simp] theorem State.inc_logRead (page off : Nat) : (s.inc page off).logRead = s.logRead := State.count_logRead s _ _
@[simp] theorem State.inc_logOvf (page off : Nat) : (s.inc page off).logOvf = s.logOvf := State.count_logOvf s _ _
@[simp] theorem State.inc_landing (page off : Nat) : (s.inc page off).landing = s.landing := State.count_landing s _ _
@[simp] theorem State.inc_landUse (page off : Nat) : (s.inc page off).landUse = s.landUse := State.count_landUse s _ _
@[simp] theorem State.inc_staging (page off : Nat) : (s.inc page off).staging = s.staging := State.count_staging s _ _
@[simp] theorem State.inc_stagedKeys (page off : Nat) : (s.inc page off).stagedKeys = s.stagedKeys := State.count_stagedKeys s _ _
@[simp] theorem State.inc_mem (page off : Nat) : (s.inc page off).mem = s.mem := State.count_mem s _ _
@[simp] theorem State.inc_uncorr (page off : Nat) : (s.inc page off).uncorr = s.uncorr := State.count_uncorr s _ _
@[simp] theorem State.inc_stk (page off : Nat) : (s.inc page off).stk = s.stk := State.count_stk s _ _
@[simp] theorem State.inc_halvedAt (page off : Nat) : (s.inc page off).halvedAt = s.halvedAt := State.count_halvedAt s _ _
@[simp] theorem State.inc_quarantine (page off : Nat) : (s.inc page off).quarantine = s.quarantine := State.count_quarantine s _ _
@[simp] theorem State.inc_sipKey (page off : Nat) : (s.inc page off).sipKey = s.sipKey := State.count_sipKey s _ _
@[simp] theorem State.inc_prefixes (page off : Nat) : (s.inc page off).prefixes = s.prefixes := State.count_prefixes s _ _
@[simp] theorem State.inc_stamps (page off : Nat) : (s.inc page off).stamps = s.stamps := State.count_stamps s _ _
@[simp] theorem State.inc_evictPtr (page off : Nat) : (s.inc page off).evictPtr = s.evictPtr := State.count_evictPtr s _ _
@[simp] theorem State.inc_tcache (page off : Nat) : (s.inc page off).tcache = s.tcache := State.count_tcache s _ _
@[simp] theorem State.inc_granules (page off : Nat) : (s.inc page off).granules = s.granules := State.count_granules s _ _
@[simp] theorem State.inc_orphans (page off : Nat) : (s.inc page off).orphans = s.orphans := State.count_orphans s _ _
@[simp] theorem State.inc_lostGranules (page off : Nat) : (s.inc page off).lostGranules = s.lostGranules := State.count_lostGranules s _ _
@[simp] theorem State.inc_tide (page off : Nat) : (s.inc page off).tide = s.tide := State.count_tide s _ _
@[simp] theorem State.inc_tideCur (page off : Nat) : (s.inc page off).tideCur = s.tideCur := State.count_tideCur s _ _
@[simp] theorem State.inc_debt (page off : Nat) : (s.inc page off).debt = s.debt := State.count_debt s _ _
@[simp] theorem State.inc_overruns (page off : Nat) : (s.inc page off).overruns = s.overruns := State.count_overruns s _ _
@[simp] theorem State.inc_modelRes (page off : Nat) : (s.inc page off).modelRes = s.modelRes := State.count_modelRes s _ _
@[simp] theorem State.inc_models (page off : Nat) : (s.inc page off).models = s.models := State.count_models s _ _
@[simp] theorem State.inc_wf (page off : Nat) : (s.inc page off).wf = s.wf := State.count_wf s _ _
@[simp] theorem State.inc_intakes (page off : Nat) : (s.inc page off).intakes = s.intakes := State.count_intakes s _ _
@[simp] theorem State.inc_afaultq (page off : Nat) : (s.inc page off).afaultq = s.afaultq := State.count_afaultq s _ _
@[simp] theorem State.inc_afaultLatch (page off : Nat) : (s.inc page off).afaultLatch = s.afaultLatch := State.count_afaultLatch s _ _
@[simp] theorem State.inc_afaultRead (page off : Nat) : (s.inc page off).afaultRead = s.afaultRead := State.count_afaultRead s _ _
@[simp] theorem State.inc_circ (page off : Nat) : (s.inc page off).circ = s.circ := State.count_circ s _ _
@[simp] theorem State.inc_ports (page off : Nat) : (s.inc page off).ports = s.ports := State.count_ports s _ _
@[simp] theorem State.inc_ranks (page off : Nat) : (s.inc page off).ranks = s.ranks := State.count_ranks s _ _
@[simp] theorem State.inc_colls (page off : Nat) : (s.inc page off).colls = s.colls := State.count_colls s _ _
@[simp] theorem State.inc_ctrlIn (page off : Nat) : (s.inc page off).ctrlIn = s.ctrlIn := State.count_ctrlIn s _ _
@[simp] theorem State.inc_updOut (page off : Nat) : (s.inc page off).updOut = s.updOut := State.count_updOut s _ _
@[simp] theorem State.inc_hostReads (page off : Nat) : (s.inc page off).hostReads = s.hostReads := State.count_hostReads s _ _
@[simp] theorem State.inc_hostWrites (page off : Nat) : (s.inc page off).hostWrites = s.hostWrites := State.count_hostWrites s _ _
@[simp] theorem State.inc_host (page off : Nat) : (s.inc page off).host = s.host := State.count_host s _ _
@[simp] theorem State.inc_late (page off : Nat) : (s.inc page off).late = s.late := State.count_late s _ _
@[simp] theorem State.inc_readQ (page off : Nat) : (s.inc page off).readQ = s.readQ := State.count_readQ s _ _
@[simp] theorem State.inc_writeQ (page off : Nat) : (s.inc page off).writeQ = s.writeQ := State.count_writeQ s _ _
@[simp] theorem State.inc_secTasks (page off : Nat) : (s.inc page off).secTasks = s.secTasks := State.count_secTasks s _ _
@[simp] theorem State.inc_fwTask (page off : Nat) : (s.inc page off).fwTask = s.fwTask := State.count_fwTask s _ _
@[simp] theorem State.inc_hwQ (page off : Nat) : (s.inc page off).hwQ = s.hwQ := State.count_hwQ s _ _
@[simp] theorem State.inc_mclkFail (page off : Nat) : (s.inc page off).mclkFail = s.mclkFail := State.count_mclkFail s _ _
@[simp] theorem State.inc_lclkFail (page off : Nat) : (s.inc page off).lclkFail = s.lclkFail := State.count_lclkFail s _ _
@[simp] theorem State.inc_hwData (page off : Nat) : (s.inc page off).hwData = s.hwData := State.count_hwData s _ _
@[simp] theorem State.inc_hwStat (page off : Nat) : (s.inc page off).hwStat = s.hwStat := State.count_hwStat s _ _
@[simp] theorem State.inc_pwr (page off : Nat) : (s.inc page off).pwr = s.pwr := State.count_pwr s _ _
@[simp] theorem State.inc_domIdle (page off : Nat) : (s.inc page off).domIdle = s.domIdle := State.count_domIdle s _ _
@[simp] theorem State.inc_gated (page off : Nat) : (s.inc page off).gated = s.gated := State.count_gated s _ _
@[simp] theorem State.inc_clkmon (page off : Nat) : (s.inc page off).clkmon = s.clkmon := State.count_clkmon s _ _
@[simp] theorem State.inc_cluster0 (page off : Nat) : (s.inc page off).cluster0 = s.cluster0 := State.count_cluster0 s _ _
@[simp] theorem State.inc_cluster1 (page off : Nat) : (s.inc page off).cluster1 = s.cluster1 := State.count_cluster1 s _ _
@[simp] theorem State.inc_duty (page off : Nat) : (s.inc page off).duty = s.duty := State.count_duty s _ _
@[simp] theorem State.inc_tablesBad (page off : Nat) : (s.inc page off).tablesBad = s.tablesBad := State.count_tablesBad s _ _
@[simp] theorem State.inc_tablesMin (page off : Nat) : (s.inc page off).tablesMin = s.tablesMin := State.count_tablesMin s _ _
@[simp] theorem State.inc_ret (page off : Nat) : (s.inc page off).ret = s.ret := State.count_ret s _ _
@[simp] theorem State.inc_cause (page off : Nat) : (s.inc page off).cause = s.cause := State.count_cause s _ _
@[simp] theorem State.inc_store (page off : Nat) : (s.inc page off).store = s.store := State.count_store s _ _
@[simp] theorem State.inc_beacons (page off : Nat) : (s.inc page off).beacons = s.beacons := State.count_beacons s _ _
@[simp] theorem State.inc_decl (page off : Nat) : (s.inc page off).decl = s.decl := State.count_decl s _ _
@[simp] theorem State.inc_fresh (page off : Nat) : (s.inc page off).fresh = s.fresh := State.count_fresh s _ _

/-! ## logRec -/

@[simp] theorem State.logRec_pending (cls page inst : Nat) (d : W) : (s.logRec cls page inst d).pending = s.pending := by unfold State.logRec; split <;> simp
@[simp] theorem State.logRec_part (cls page inst : Nat) (d : W) : (s.logRec cls page inst d).part = s.part := by unfold State.logRec; split <;> simp
@[simp] theorem State.logRec_fuses (cls page inst : Nat) (d : W) : (s.logRec cls page inst d).fuses = s.fuses := by unfold State.logRec; split <;> simp
@[simp] theorem State.logRec_fuseTask (cls page inst : Nat) (d : W) : (s.logRec cls page inst d).fuseTask = s.fuseTask := by unfold State.logRec; split <;> simp
@[simp] theorem State.logRec_lc (cls page inst : Nat) (d : W) : (s.logRec cls page inst d).lc = s.lc := by unfold State.logRec; split <;> simp
@[simp] theorem State.logRec_fwMin (cls page inst : Nat) (d : W) : (s.logRec cls page inst d).fwMin = s.fwMin := by unfold State.logRec; split <;> simp
@[simp] theorem State.logRec_erasing (cls page inst : Nat) (d : W) : (s.logRec cls page inst d).erasing = s.erasing := by unfold State.logRec; split <;> simp
@[simp] theorem State.logRec_erasePct (cls page inst : Nat) (d : W) : (s.logRec cls page inst d).erasePct = s.erasePct := by unfold State.logRec; split <;> simp
@[simp] theorem State.logRec_ident (cls page inst : Nat) (d : W) : (s.logRec cls page inst d).ident = s.ident := by unfold State.logRec; split <;> simp
@[simp] theorem State.logRec_keys (cls page inst : Nat) (d : W) : (s.logRec cls page inst d).keys = s.keys := by unfold State.logRec; split <;> simp
@[simp] theorem State.logRec_nonce (cls page inst : Nat) (d : W) : (s.logRec cls page inst d).nonce = s.nonce := by unfold State.logRec; split <;> simp
@[simp] theorem State.logRec_lcount (cls page inst : Nat) (d : W) : (s.logRec cls page inst d).lcount = s.lcount := by unfold State.logRec; split <;> simp
@[simp] theorem State.logRec_phase (cls page inst : Nat) (d : W) : (s.logRec cls page inst d).phase = s.phase := by unfold State.logRec; split <;> simp
@[simp] theorem State.logRec_ready (cls page inst : Nat) (d : W) : (s.logRec cls page inst d).ready = s.ready := by unfold State.logRec; split <;> simp
@[simp] theorem State.logRec_latches (cls page inst : Nat) (d : W) : (s.logRec cls page inst d).latches = s.latches := by unfold State.logRec; split <;> simp
@[simp] theorem State.logRec_cap (cls page inst : Nat) (d : W) : (s.logRec cls page inst d).cap = s.cap := by unfold State.logRec; split <;> simp
@[simp] theorem State.logRec_used (cls page inst : Nat) (d : W) : (s.logRec cls page inst d).used = s.used := by unfold State.logRec; split <;> simp
@[simp] theorem State.logRec_served (cls page inst : Nat) (d : W) : (s.logRec cls page inst d).served = s.served := by unfold State.logRec; split <;> simp
@[simp] theorem State.logRec_periodAt (cls page inst : Nat) (d : W) : (s.logRec cls page inst d).periodAt = s.periodAt := by unfold State.logRec; split <;> simp
@[simp] theorem State.logRec_rdata (cls page inst : Nat) (d : W) : (s.logRec cls page inst d).rdata = s.rdata := by unfold State.logRec; split <;> simp
@[simp] theorem State.logRec_dir (cls page inst : Nat) (d : W) : (s.logRec cls page inst d).dir = s.dir := by unfold State.logRec; split <;> simp
@[simp] theorem State.logRec_jobs (cls page inst : Nat) (d : W) : (s.logRec cls page inst d).jobs = s.jobs := by unfold State.logRec; split <;> simp
@[simp] theorem State.logRec_slots (cls page inst : Nat) (d : W) : (s.logRec cls page inst d).slots = s.slots := by unfold State.logRec; split <;> simp
@[simp] theorem State.logRec_grants (cls page inst : Nat) (d : W) : (s.logRec cls page inst d).grants = s.grants := by unfold State.logRec; split <;> simp
@[simp] theorem State.logRec_lanes (cls page inst : Nat) (d : W) : (s.logRec cls page inst d).lanes = s.lanes := by unfold State.logRec; split <;> simp
@[simp] theorem State.logRec_cmds (cls page inst : Nat) (d : W) : (s.logRec cls page inst d).cmds = s.cmds := by unfold State.logRec; split <;> simp
@[simp] theorem State.logRec_cmdCount (cls page inst : Nat) (d : W) : (s.logRec cls page inst d).cmdCount = s.cmdCount := by unfold State.logRec; split <;> simp
@[simp] theorem State.logRec_forms (cls page inst : Nat) (d : W) : (s.logRec cls page inst d).forms = s.forms := by unfold State.logRec; split <;> simp
@[simp] theorem State.logRec_formCount (cls page inst : Nat) (d : W) : (s.logRec cls page inst d).formCount = s.formCount := by unfold State.logRec; split <;> simp
@[simp] theorem State.logRec_cores (cls page inst : Nat) (d : W) : (s.logRec cls page inst d).cores = s.cores := by unfold State.logRec; split <;> simp
@[simp] theorem State.logRec_remap (cls page inst : Nat) (d : W) : (s.logRec cls page inst d).remap = s.remap := by unfold State.logRec; split <;> simp
@[simp] theorem State.logRec_baseEpoch (cls page inst : Nat) (d : W) : (s.logRec cls page inst d).baseEpoch = s.baseEpoch := by unfold State.logRec; split <;> simp
@[simp] theorem State.logRec_unbound (cls page inst : Nat) (d : W) : (s.logRec cls page inst d).unbound = s.unbound := by unfold State.logRec; split <;> simp
@[simp] theorem State.logRec_logLatch (cls page inst : Nat) (d : W) : (s.logRec cls page inst d).logLatch = s.logLatch := by unfold State.logRec; split <;> simp
@[simp] theorem State.logRec_logRead (cls page inst : Nat) (d : W) : (s.logRec cls page inst d).logRead = s.logRead := by unfold State.logRec; split <;> simp
@[simp] theorem State.logRec_landing (cls page inst : Nat) (d : W) : (s.logRec cls page inst d).landing = s.landing := by unfold State.logRec; split <;> simp
@[simp] theorem State.logRec_landUse (cls page inst : Nat) (d : W) : (s.logRec cls page inst d).landUse = s.landUse := by unfold State.logRec; split <;> simp
@[simp] theorem State.logRec_staging (cls page inst : Nat) (d : W) : (s.logRec cls page inst d).staging = s.staging := by unfold State.logRec; split <;> simp
@[simp] theorem State.logRec_stagedKeys (cls page inst : Nat) (d : W) : (s.logRec cls page inst d).stagedKeys = s.stagedKeys := by unfold State.logRec; split <;> simp
@[simp] theorem State.logRec_mem (cls page inst : Nat) (d : W) : (s.logRec cls page inst d).mem = s.mem := by unfold State.logRec; split <;> simp
@[simp] theorem State.logRec_uncorr (cls page inst : Nat) (d : W) : (s.logRec cls page inst d).uncorr = s.uncorr := by unfold State.logRec; split <;> simp
@[simp] theorem State.logRec_stk (cls page inst : Nat) (d : W) : (s.logRec cls page inst d).stk = s.stk := by unfold State.logRec; split <;> simp
@[simp] theorem State.logRec_halvedAt (cls page inst : Nat) (d : W) : (s.logRec cls page inst d).halvedAt = s.halvedAt := by unfold State.logRec; split <;> simp
@[simp] theorem State.logRec_quarantine (cls page inst : Nat) (d : W) : (s.logRec cls page inst d).quarantine = s.quarantine := by unfold State.logRec; split <;> simp
@[simp] theorem State.logRec_sipKey (cls page inst : Nat) (d : W) : (s.logRec cls page inst d).sipKey = s.sipKey := by unfold State.logRec; split <;> simp
@[simp] theorem State.logRec_prefixes (cls page inst : Nat) (d : W) : (s.logRec cls page inst d).prefixes = s.prefixes := by unfold State.logRec; split <;> simp
@[simp] theorem State.logRec_stamps (cls page inst : Nat) (d : W) : (s.logRec cls page inst d).stamps = s.stamps := by unfold State.logRec; split <;> simp
@[simp] theorem State.logRec_evictPtr (cls page inst : Nat) (d : W) : (s.logRec cls page inst d).evictPtr = s.evictPtr := by unfold State.logRec; split <;> simp
@[simp] theorem State.logRec_tcache (cls page inst : Nat) (d : W) : (s.logRec cls page inst d).tcache = s.tcache := by unfold State.logRec; split <;> simp
@[simp] theorem State.logRec_granules (cls page inst : Nat) (d : W) : (s.logRec cls page inst d).granules = s.granules := by unfold State.logRec; split <;> simp
@[simp] theorem State.logRec_orphans (cls page inst : Nat) (d : W) : (s.logRec cls page inst d).orphans = s.orphans := by unfold State.logRec; split <;> simp
@[simp] theorem State.logRec_lostGranules (cls page inst : Nat) (d : W) : (s.logRec cls page inst d).lostGranules = s.lostGranules := by unfold State.logRec; split <;> simp
@[simp] theorem State.logRec_tide (cls page inst : Nat) (d : W) : (s.logRec cls page inst d).tide = s.tide := by unfold State.logRec; split <;> simp
@[simp] theorem State.logRec_tideCur (cls page inst : Nat) (d : W) : (s.logRec cls page inst d).tideCur = s.tideCur := by unfold State.logRec; split <;> simp
@[simp] theorem State.logRec_debt (cls page inst : Nat) (d : W) : (s.logRec cls page inst d).debt = s.debt := by unfold State.logRec; split <;> simp
@[simp] theorem State.logRec_overruns (cls page inst : Nat) (d : W) : (s.logRec cls page inst d).overruns = s.overruns := by unfold State.logRec; split <;> simp
@[simp] theorem State.logRec_modelRes (cls page inst : Nat) (d : W) : (s.logRec cls page inst d).modelRes = s.modelRes := by unfold State.logRec; split <;> simp
@[simp] theorem State.logRec_models (cls page inst : Nat) (d : W) : (s.logRec cls page inst d).models = s.models := by unfold State.logRec; split <;> simp
@[simp] theorem State.logRec_wf (cls page inst : Nat) (d : W) : (s.logRec cls page inst d).wf = s.wf := by unfold State.logRec; split <;> simp
@[simp] theorem State.logRec_intakes (cls page inst : Nat) (d : W) : (s.logRec cls page inst d).intakes = s.intakes := by unfold State.logRec; split <;> simp
@[simp] theorem State.logRec_afaultq (cls page inst : Nat) (d : W) : (s.logRec cls page inst d).afaultq = s.afaultq := by unfold State.logRec; split <;> simp
@[simp] theorem State.logRec_afaultLatch (cls page inst : Nat) (d : W) : (s.logRec cls page inst d).afaultLatch = s.afaultLatch := by unfold State.logRec; split <;> simp
@[simp] theorem State.logRec_afaultRead (cls page inst : Nat) (d : W) : (s.logRec cls page inst d).afaultRead = s.afaultRead := by unfold State.logRec; split <;> simp
@[simp] theorem State.logRec_circ (cls page inst : Nat) (d : W) : (s.logRec cls page inst d).circ = s.circ := by unfold State.logRec; split <;> simp
@[simp] theorem State.logRec_ports (cls page inst : Nat) (d : W) : (s.logRec cls page inst d).ports = s.ports := by unfold State.logRec; split <;> simp
@[simp] theorem State.logRec_ranks (cls page inst : Nat) (d : W) : (s.logRec cls page inst d).ranks = s.ranks := by unfold State.logRec; split <;> simp
@[simp] theorem State.logRec_colls (cls page inst : Nat) (d : W) : (s.logRec cls page inst d).colls = s.colls := by unfold State.logRec; split <;> simp
@[simp] theorem State.logRec_ctrlIn (cls page inst : Nat) (d : W) : (s.logRec cls page inst d).ctrlIn = s.ctrlIn := by unfold State.logRec; split <;> simp
@[simp] theorem State.logRec_updOut (cls page inst : Nat) (d : W) : (s.logRec cls page inst d).updOut = s.updOut := by unfold State.logRec; split <;> simp
@[simp] theorem State.logRec_hostReads (cls page inst : Nat) (d : W) : (s.logRec cls page inst d).hostReads = s.hostReads := by unfold State.logRec; split <;> simp
@[simp] theorem State.logRec_hostWrites (cls page inst : Nat) (d : W) : (s.logRec cls page inst d).hostWrites = s.hostWrites := by unfold State.logRec; split <;> simp
@[simp] theorem State.logRec_host (cls page inst : Nat) (d : W) : (s.logRec cls page inst d).host = s.host := by unfold State.logRec; split <;> simp
@[simp] theorem State.logRec_late (cls page inst : Nat) (d : W) : (s.logRec cls page inst d).late = s.late := by unfold State.logRec; split <;> simp
@[simp] theorem State.logRec_readQ (cls page inst : Nat) (d : W) : (s.logRec cls page inst d).readQ = s.readQ := by unfold State.logRec; split <;> simp
@[simp] theorem State.logRec_writeQ (cls page inst : Nat) (d : W) : (s.logRec cls page inst d).writeQ = s.writeQ := by unfold State.logRec; split <;> simp
@[simp] theorem State.logRec_secTasks (cls page inst : Nat) (d : W) : (s.logRec cls page inst d).secTasks = s.secTasks := by unfold State.logRec; split <;> simp
@[simp] theorem State.logRec_fwTask (cls page inst : Nat) (d : W) : (s.logRec cls page inst d).fwTask = s.fwTask := by unfold State.logRec; split <;> simp
@[simp] theorem State.logRec_hwQ (cls page inst : Nat) (d : W) : (s.logRec cls page inst d).hwQ = s.hwQ := by unfold State.logRec; split <;> simp
@[simp] theorem State.logRec_mclkFail (cls page inst : Nat) (d : W) : (s.logRec cls page inst d).mclkFail = s.mclkFail := by unfold State.logRec; split <;> simp
@[simp] theorem State.logRec_lclkFail (cls page inst : Nat) (d : W) : (s.logRec cls page inst d).lclkFail = s.lclkFail := by unfold State.logRec; split <;> simp
@[simp] theorem State.logRec_hwData (cls page inst : Nat) (d : W) : (s.logRec cls page inst d).hwData = s.hwData := by unfold State.logRec; split <;> simp
@[simp] theorem State.logRec_hwStat (cls page inst : Nat) (d : W) : (s.logRec cls page inst d).hwStat = s.hwStat := by unfold State.logRec; split <;> simp
@[simp] theorem State.logRec_pwr (cls page inst : Nat) (d : W) : (s.logRec cls page inst d).pwr = s.pwr := by unfold State.logRec; split <;> simp
@[simp] theorem State.logRec_domIdle (cls page inst : Nat) (d : W) : (s.logRec cls page inst d).domIdle = s.domIdle := by unfold State.logRec; split <;> simp
@[simp] theorem State.logRec_gated (cls page inst : Nat) (d : W) : (s.logRec cls page inst d).gated = s.gated := by unfold State.logRec; split <;> simp
@[simp] theorem State.logRec_clkmon (cls page inst : Nat) (d : W) : (s.logRec cls page inst d).clkmon = s.clkmon := by unfold State.logRec; split <;> simp
@[simp] theorem State.logRec_cluster0 (cls page inst : Nat) (d : W) : (s.logRec cls page inst d).cluster0 = s.cluster0 := by unfold State.logRec; split <;> simp
@[simp] theorem State.logRec_cluster1 (cls page inst : Nat) (d : W) : (s.logRec cls page inst d).cluster1 = s.cluster1 := by unfold State.logRec; split <;> simp
@[simp] theorem State.logRec_duty (cls page inst : Nat) (d : W) : (s.logRec cls page inst d).duty = s.duty := by unfold State.logRec; split <;> simp
@[simp] theorem State.logRec_tablesBad (cls page inst : Nat) (d : W) : (s.logRec cls page inst d).tablesBad = s.tablesBad := by unfold State.logRec; split <;> simp
@[simp] theorem State.logRec_tablesMin (cls page inst : Nat) (d : W) : (s.logRec cls page inst d).tablesMin = s.tablesMin := by unfold State.logRec; split <;> simp
@[simp] theorem State.logRec_ret (cls page inst : Nat) (d : W) : (s.logRec cls page inst d).ret = s.ret := by unfold State.logRec; split <;> simp
@[simp] theorem State.logRec_cause (cls page inst : Nat) (d : W) : (s.logRec cls page inst d).cause = s.cause := by unfold State.logRec; split <;> simp
@[simp] theorem State.logRec_store (cls page inst : Nat) (d : W) : (s.logRec cls page inst d).store = s.store := by unfold State.logRec; split <;> simp
@[simp] theorem State.logRec_beacons (cls page inst : Nat) (d : W) : (s.logRec cls page inst d).beacons = s.beacons := by unfold State.logRec; split <;> simp
@[simp] theorem State.logRec_decl (cls page inst : Nat) (d : W) : (s.logRec cls page inst d).decl = s.decl := by unfold State.logRec; split <;> simp
@[simp] theorem State.logRec_fresh (cls page inst : Nat) (d : W) : (s.logRec cls page inst d).fresh = s.fresh := by unfold State.logRec; split <;> simp

end Sys2Proof.Machine
end

