-- ==== Sys2Proof/Laws/Tables.lean ====
section
/-! SUPPORT. The laws of tables and memories: a read after a write, and the canonical form that every memory operation
keeps. -/
namespace Sys2Proof.Machine

/-! ## Tables -/

@[simp] theorem tget?_nil {α : Type} (n : Nat) : tget? ([] : Tab α) n = none := rfl

@[simp] theorem tget_nil {α : Type} (d : α) (n : Nat) : tget d [] n = d := rfl

@[simp] theorem tget?_tput_same {α : Type} (t : Tab α) (n : Nat) (v : α) : tget? (tput t n v) n = some v := by
  induction t with
  | nil => simp [tput, tget?]
  | cons x t ih =>
    obtain ⟨k, w⟩ := x
    unfold tput
    split
    · simp [tget?]
    · split
      · simp [tget?]
      · rename_i h2; simp [tget?, Ne.symm h2, ih]

@[simp] theorem tget?_tput_other {α : Type} (t : Tab α) (n m : Nat) (v : α) (h : m ≠ n) :
    tget? (tput t n v) m = tget? t m := by
  induction t with
  | nil => simp [tput, tget?, Ne.symm h]
  | cons x t ih =>
    obtain ⟨k, w⟩ := x
    unfold tput
    split
    · simp [tget?, Ne.symm h]
    · split
      · rename_i hk; subst hk; simp [tget?, Ne.symm h]
      · simp only [tget?, ih]

theorem tget?_tput {α : Type} (t : Tab α) (n m : Nat) (v : α) :
    tget? (tput t n v) m = if m = n then some v else tget? t m := by
  split
  · rename_i h; rw [h, tget?_tput_same]
  · rename_i h; exact tget?_tput_other t n m v h

theorem tget_tput {α : Type} (d : α) (t : Tab α) (n m : Nat) (v : α) :
    tget d (tput t n v) m = if m = n then v else tget d t m := by
  unfold tget
  rw [tget?_tput]
  split <;> rfl

@[simp] theorem tget_tput_same {α : Type} (d : α) (t : Tab α) (n : Nat) (v : α) : tget d (tput t n v) n = v := by
  simp [tget_tput]

@[simp] theorem tget_tput_other {α : Type} (d : α) (t : Tab α) (n m : Nat) (v : α) (h : m ≠ n) :
    tget d (tput t n v) m = tget d t m := by
  simp [tget_tput, h]

@[simp] theorem tget?_tdel_same {α : Type} (t : Tab α) (n : Nat) : tget? (tdel t n) n = none := by
  unfold tdel
  induction t with
  | nil => rfl
  | cons x t ih =>
    obtain ⟨k, w⟩ := x
    by_cases hk : k = n
    · simpa [hk] using ih
    · simp [hk, tget?, ih]

@[simp] theorem tget?_tdel_other {α : Type} (t : Tab α) (n m : Nat) (h : m ≠ n) : tget? (tdel t n) m = tget? t m := by
  unfold tdel
  induction t with
  | nil => rfl
  | cons x t ih =>
    obtain ⟨k, w⟩ := x
    by_cases hk : k = n
    · subst hk
      have hm : ¬ k = m := fun e => h e.symm
      simpa [tget?, hm] using ih
    · by_cases hm : k = m
      · simp [hm, h, tget?]
      · simpa [hk, hm, tget?] using ih

@[simp] theorem tget_tdel_same {α : Type} (d : α) (t : Tab α) (n : Nat) : tget d (tdel t n) n = d := by simp [tget]

theorem tget_tdel_other {α : Type} (d : α) (t : Tab α) (n m : Nat) (h : m ≠ n) : tget d (tdel t n) m = tget d t m := by
  simp [tget, h]

/-! ## Memories -/

/-- Every listed address lies above a bound. -/
def Memory.above (n : Nat) (m : Mem) : Prop := ∀ c ∈ m, n < c.1

theorem Memory.wf_cons (a : Nat) (b : Byte) (m : Mem) :
    Memory.wf ((a, b) :: m) = true ↔ b ≠ 0#8 ∧ Memory.above a m ∧ Memory.wf m = true := by
  induction m generalizing a b with
  | nil => simp [Memory.wf, Memory.above]
  | cons c m ih =>
    obtain ⟨a', b'⟩ := c
    rw [show Memory.wf ((a, b) :: (a', b') :: m) = (b != 0#8 && decide (a < a') && Memory.wf ((a', b') :: m)) from rfl]
    simp only [Bool.and_eq_true, bne_iff_ne, decide_eq_true_eq]
    constructor
    · rintro ⟨⟨h1, h2⟩, h3⟩
      refine ⟨h1, ?_, h3⟩
      intro c hc
      rcases List.mem_cons.mp hc with rfl | hc
      · exact h2
      · exact lt_trans h2 (((ih a' b').mp h3).2.1 c hc)
    · rintro ⟨h1, h2, h3⟩
      exact ⟨⟨h1, h2 (a', b') (by simp)⟩, h3⟩

theorem mset_above (m : Mem) (k n : Nat) (v : Byte) (h : Memory.above k m) (hk : k < n) : Memory.above k (mset m n v) := by
  induction m with
  | nil =>
    unfold mset
    split
    · exact h
    · intro c hc; simp only [List.mem_singleton] at hc; subst hc; exact hk
  | cons x m ih =>
    obtain ⟨a, b⟩ := x
    have hm : Memory.above k m := fun c hc => h c (List.mem_cons_of_mem _ hc)
    have ha : k < a := h (a, b) (by simp)
    unfold mset
    split
    · split
      · exact h
      · intro c hc
        rcases List.mem_cons.mp hc with rfl | hc
        · exact hk
        · exact h c hc
    · split
      · split
        · exact hm
        · intro c hc
          rcases List.mem_cons.mp hc with rfl | hc
          · exact hk
          · exact hm c hc
      · intro c hc
        rcases List.mem_cons.mp hc with rfl | hc
        · exact ha
        · exact ih hm c hc

/-- A byte write keeps the canonical form. -/
theorem mset_wf (m : Mem) (n : Nat) (v : Byte) (h : Memory.wf m = true) : Memory.wf (mset m n v) = true := by
  induction m with
  | nil =>
    unfold mset
    split
    · rfl
    · rename_i hv; simpa [Memory.wf] using hv
  | cons x m ih =>
    obtain ⟨a, b⟩ := x
    obtain ⟨h1, h2, h3⟩ := (Memory.wf_cons a b m).mp h
    unfold mset
    split
    · rename_i hn
      split
      · exact h
      · rename_i hv
        refine (Memory.wf_cons n v _).mpr ⟨hv, ?_, h⟩
        intro c hc
        rcases List.mem_cons.mp hc with rfl | hc
        · exact hn
        · exact lt_trans hn (h2 c hc)
    · rename_i hn
      split
      · rename_i he
        split
        · exact h3
        · rename_i hv
          exact (Memory.wf_cons n v _).mpr ⟨hv, he ▸ h2, h3⟩
      · rename_i he
        exact (Memory.wf_cons a b _).mpr ⟨h1, mset_above m a n v h2 (by omega), ih h3⟩

/-- A write of bytes keeps the canonical form. -/
theorem mwrite_wf (m : Mem) (a : Nat) (bs : List Byte) (h : Memory.wf m = true) : Memory.wf (mwrite m a bs) = true := by
  induction bs generalizing m a with
  | nil => exact h
  | cons b bs ih => exact ih _ _ (mset_wf m a b h)

theorem filter_above (m : Mem) (k : Nat) (p : Host.Cell → Bool) (h : Memory.above k m) : Memory.above k (m.filter p) :=
  fun c hc => h c (List.mem_filter.mp hc).1

/-- Dropping bytes keeps the canonical form. -/
theorem filter_wf (m : Mem) (p : Host.Cell → Bool) (h : Memory.wf m = true) : Memory.wf (m.filter p) = true := by
  induction m with
  | nil => rfl
  | cons x m ih =>
    obtain ⟨a, b⟩ := x
    obtain ⟨h1, h2, h3⟩ := (Memory.wf_cons a b m).mp h
    rw [List.filter_cons]
    split
    · exact (Memory.wf_cons a b _).mpr ⟨h1, filter_above m a p h2, ih h3⟩
    · exact ih h3

theorem mclear_wf (m : Mem) (a n : Nat) (h : Memory.wf m = true) : Memory.wf (mclear m a n) = true := filter_wf m _ h

theorem mget_of_above (m : Mem) (n : Nat) (h : Memory.above n m) : mget m n = 0#8 := by
  cases m with
  | nil => rfl
  | cons x m =>
    obtain ⟨a, b⟩ := x
    have : n < a := h (a, b) (by simp)
    simp [mget, this]

/-- A byte read after it was written gives what was written. -/
theorem mget_mset_same (m : Mem) (n : Nat) (v : Byte) (h : Memory.wf m = true) : mget (mset m n v) n = v := by
  induction m with
  | nil => unfold mset; split <;> simp_all [mget]
  | cons x m ih =>
    obtain ⟨a, b⟩ := x
    obtain ⟨h1, h2, h3⟩ := (Memory.wf_cons a b m).mp h
    unfold mset
    split
    · rename_i hn
      split
      · rename_i hv; simp [mget, hn, hv]
      · simp [mget]
    · split
      · rename_i he
        split
        · rename_i hv; rw [he, mget_of_above m a h2, hv]
        · simp [mget]
      · rename_i hn he
        simp [mget, hn, Ne.symm he, ih h3]

/-- A byte write leaves every other byte alone. -/
theorem mget_mset_other (m : Mem) (n k : Nat) (v : Byte) (h : Memory.wf m = true) (hk : k ≠ n) :
    mget (mset m n v) k = mget m k := by
  induction m with
  | nil =>
    unfold mset
    split
    · rfl
    · simp only [mget]; split
      · rfl
      · simp [Ne.symm hk]
  | cons x m ih =>
    obtain ⟨a, b⟩ := x
    obtain ⟨h1, h2, h3⟩ := (Memory.wf_cons a b m).mp h
    unfold mset
    split
    · rename_i hn
      split
      · rfl
      · simp only [mget]
        split
        · split
          · rfl
          · omega
        · simp [Ne.symm hk]
    · split
      · rename_i he
        subst he
        split
        · simp only [mget]
          split
          · exact mget_of_above m k fun c hc => lt_trans ‹_› (h2 c hc)
          · simp [Ne.symm hk]
        · simp only [mget, Ne.symm hk, if_false]
      · simp only [mget, ih h3]

/-- The bytes a write covers read as written; the others are unchanged. -/
theorem mget_mwrite (m : Mem) (a k : Nat) (bs : List Byte) (h : Memory.wf m = true) :
    mget (mwrite m a bs) k = if a ≤ k ∧ k < a + bs.length then bs.getD (k - a) 0#8 else mget m k := by
  induction bs generalizing m a with
  | nil => simp [mwrite]
  | cons b bs ih =>
    rw [mwrite, ih _ _ (mset_wf m a b h)]
    by_cases hk : k = a
    · subst hk
      rw [if_neg (by omega), mget_mset_same m k b h, if_pos (by simp)]
      simp
    · rw [mget_mset_other m a k b h hk]
      by_cases h1 : a + 1 ≤ k ∧ k < a + 1 + bs.length
      · rw [if_pos h1, if_pos (by simp only [List.length_cons]; omega)]
        obtain ⟨j, rfl⟩ : ∃ j, k = a + 1 + j := ⟨k - (a + 1), by omega⟩
        rw [show a + 1 + j - (a + 1) = j by omega, show a + 1 + j - a = j + 1 by omega]
        simp
      · rw [if_neg h1, if_neg (by simp only [List.length_cons]; omega)]

@[simp] theorem mread_length (m : Mem) (a n : Nat) : (mread m a n).length = n := by simp [mread]

/-- What was written reads back. -/
theorem mread_mwrite_same (m : Mem) (a : Nat) (bs : List Byte) (h : Memory.wf m = true) :
    mread (mwrite m a bs) a bs.length = bs := by
  apply List.ext_getElem (by simp)
  intro i h1 h2
  simp only [mread, List.getElem_map, List.getElem_range]
  rw [mget_mwrite _ _ _ _ h]
  have : i < bs.length := h2
  simp [this]

end Sys2Proof.Machine
end

