-- ==== Sys2Proof/Laws/Ops.lean ====
section
/-! SUPPORT. What each shared operation does to the thing it writes: headers, units, registers, counters, entries, jobs,
slots and memory. -/
namespace Sys2Proof.Machine

variable (s : State)

/-! ## Headers -/

theorem State.hdr_setHdr (p q : Nat) (h : Hdr) : (s.setHdr p h).hdr q = if q = p then h else s.hdr q := by
  unfold State.hdr State.setHdr
  by_cases e : q = p
  · subst e; simp
  · simp [e]

@[simp] theorem State.hdr_setHdr_same (p : Nat) (h : Hdr) : (s.setHdr p h).hdr p = h := by simp [State.hdr_setHdr]

@[simp] theorem State.hdr_setHdr_other (p q : Nat) (h : Hdr) (e : q ≠ p) : (s.setHdr p h).hdr q = s.hdr q := by
  simp [State.hdr_setHdr, e]

/-- An operation that leaves the headers and the configuration alone leaves every header alone. -/
theorem State.hdr_congr {s t : State} (h : t.hdrs = s.hdrs) (p : Nat) : t.hdr p = s.hdr p := by
  unfold State.hdr; rw [h]

theorem State.unit_congr {s t : State} (h : t.hdrs = s.hdrs) (hp : t.part = s.part) (p : Nat) : t.unit p = s.unit p := by
  unfold State.unit; rw [hp, State.hdr_congr h]

theorem State.hdr_raise (p b q : Nat) : (s.raise p b).hdr q =
    if q = p then { s.hdr p with raw := (s.hdr p).raw ||| BitVec.ofNat 32 (2 ^ b) } else s.hdr q := by
  unfold State.raise; rw [State.hdr_setHdr]

theorem State.hdr_errInc (p q : Nat) : (s.errInc p).hdr q =
    if q = p then
      { s.hdr p with err := if (s.hdr p).err = 0xFFFF#16 then (s.hdr p).err else (s.hdr p).err + 1#16 }
    else s.hdr q := by
  unfold State.errInc; dsimp only; rw [State.hdr_setHdr]

theorem State.hdr_setUnit (p q : Nat) (u : UnitState) : (s.setUnit p u).hdr q =
    if q = p then { s.hdr p with st := u } else s.hdr q := by
  unfold State.setUnit; rw [State.hdr_setHdr]

@[simp] theorem State.hdr_setReg (a p : Nat) (v : W) : (s.setReg a v).hdr p = s.hdr p := rfl
@[simp] theorem State.hdr_wr (a o p : Nat) (v : W) : (s.wr a o v).hdr p = s.hdr p := rfl
@[simp] theorem State.hdr_setFld (a o l w v p : Nat) : (s.setFld a o l w v).hdr p = s.hdr p := rfl

/-- Raising an event leaves every unit's state alone. -/
@[simp] theorem State.unit_raise (p b q : Nat) : (s.raise p b).unit q = s.unit q := by
  unfold State.unit
  rw [State.hdr_raise]
  by_cases h : q = p <;> simp [h]

@[simp] theorem State.unit_errInc (p q : Nat) : (s.errInc p).unit q = s.unit q := by
  unfold State.unit
  rw [State.hdr_errInc]
  by_cases h : q = p <;> simp [h]

theorem State.unit_setUnit (p q : Nat) (u : UnitState) :
    (s.setUnit p u).unit q = if q = p ∧ pagePresent s.part p = true then u else s.unit q := by
  unfold State.unit
  rw [State.hdr_setUnit]
  by_cases h : q = p
  · subst h; by_cases e : pagePresent s.part q <;> simp [e]
  · simp [h]

@[simp] theorem State.unit_setReg (a p : Nat) (v : W) : (s.setReg a v).unit p = s.unit p := rfl
@[simp] theorem State.unit_wr (a o p : Nat) (v : W) : (s.wr a o v).unit p = s.unit p := rfl
@[simp] theorem State.unit_setFld (a o l w v p : Nat) : (s.setFld a o l w v).unit p = s.unit p := rfl

/-- A counter's advance leaves every unit's state alone. -/
@[simp] theorem State.unit_count (a n p : Nat) : (s.count a n).unit p = s.unit p := by
  unfold State.count
  dsimp only
  split
  · rfl
  · split
    · rfl
    · rw [State.unit_raise]; rfl

@[simp] theorem State.unit_inc (p o q : Nat) : (s.inc p o).unit q = s.unit q := State.unit_count s _ _ _

@[simp] theorem State.running_raise (p b q : Nat) : (s.raise p b).running q = s.running q := by simp [State.running]
@[simp] theorem State.running_errInc (p q : Nat) : (s.errInc p).running q = s.running q := by simp [State.running]
@[simp] theorem State.running_count (a n q : Nat) : (s.count a n).running q = s.running q := by simp [State.running]
@[simp] theorem State.running_inc (p o q : Nat) : (s.inc p o).running q = s.running q := by simp [State.running]
@[simp] theorem State.running_setReg (a p : Nat) (v : W) : (s.setReg a v).running p = s.running p := rfl
@[simp] theorem State.running_wr (a o p : Nat) (v : W) : (s.wr a o v).running p = s.running p := rfl
@[simp] theorem State.running_setFld (a o l w v p : Nat) : (s.setFld a o l w v).running p = s.running p := rfl

/-! ## Events -/

/-- An event of a page has occurred: its EVT_RAW bit is 1. -/
theorem State.raw_raise (p b : Nat) :
    ((s.raise p b).hdr p).raw = (s.hdr p).raw ||| BitVec.ofNat 32 (2 ^ b) := by
  rw [State.hdr_raise]; simp

/-! ## Stored registers -/

theorem State.reg_congr {s t : State} (h : t.regs = s.regs) (hp : t.part = s.part) (a : Nat) : t.reg a = s.reg a := by
  unfold State.reg; rw [h, hp]

theorem State.reg_setReg (a b : Nat) (v : W) : (s.setReg a v).reg b = if b = a then v else s.reg b := by
  unfold State.reg State.setReg
  rw [tget_tput]

@[simp] theorem State.reg_setReg_same (a : Nat) (v : W) : (s.setReg a v).reg a = v := by simp [State.reg_setReg]

@[simp] theorem State.reg_setReg_other (a b : Nat) (v : W) (h : b ≠ a) : (s.setReg a v).reg b = s.reg b := by
  simp [State.reg_setReg, h]

theorem State.rawReg_setReg (a b : Nat) (v : W) : (s.setReg a v).rawReg b = if b = a then v else s.rawReg b := by
  unfold State.rawReg State.setReg
  rw [tget_tput]

theorem State.rd_wr (p o q r : Nat) (v : W) :
    (s.wr p o v).rd q r = if regAt q r = regAt p o then v else s.rd q r := by
  unfold State.rd State.wr; rw [State.reg_setReg]

@[simp] theorem State.rd_wr_same (p o : Nat) (v : W) : (s.wr p o v).rd p o = v := by simp [State.rd_wr]

/-- Another offset of the same page. -/
@[simp] theorem State.rd_wr_offset (p o r : Nat) (v : W) (h : r ≠ o) : (s.wr p o v).rd p r = s.rd p r := by
  rw [State.rd_wr, if_neg (by unfold regAt; omega)]

@[simp] theorem State.rd_setFld_same (p o l w v : Nat) : (s.setFld p o l w v).rd p o = setField (s.rd p o) l w v := by
  simp [State.setFld]

@[simp] theorem State.rd_setFld_offset (p o l w v r : Nat) (h : r ≠ o) : (s.setFld p o l w v).rd p r = s.rd p r := by
  simp [State.setFld, h]

@[simp] theorem State.rd_raise (p b q o : Nat) : (s.raise p b).rd q o = s.rd q o := rfl
@[simp] theorem State.rd_errInc (p q o : Nat) : (s.errInc p).rd q o = s.rd q o := rfl
@[simp] theorem State.reg_raise (p b a : Nat) : (s.raise p b).reg a = s.reg a := rfl
@[simp] theorem State.reg_errInc (p a : Nat) : (s.errInc p).reg a = s.reg a := rfl

/-- A counter's advance writes no register but TOP_SAT. -/
theorem State.reg_count (a n b : Nat) (h : b ≠ regAt pgTop 0x050) : (s.count a n).reg b = s.reg b := by
  unfold State.count
  dsimp only
  split
  · rfl
  · split
    · rfl
    · unfold State.reg State.raise
      simp only [State.setHdr_regs, State.setHdr_part]
      rw [tget_tput_other _ _ _ _ _ h]

theorem State.rd_count (a n p o : Nat) (h : regAt p o ≠ regAt pgTop 0x050) : (s.count a n).rd p o = s.rd p o :=
  State.reg_count s a n _ h

theorem State.rd_inc (q r p o : Nat) (h : regAt p o ≠ regAt pgTop 0x050) : (s.inc q r).rd p o = s.rd p o :=
  State.reg_count s _ _ _ h

/-! ## Counters -/

/-- A counter that has not saturated and does not in this advance gains n. -/
theorem State.count_small (a n : Nat) (h : (s.ctr a).sat = false) (hn : (s.ctr a).value.toNat + n < 2 ^ 48 - 1) :
    s.count a n = { s with
      ctrs := tput s.ctrs a { s.ctr a with value := BitVec.ofNat 48 ((s.ctr a).value.toNat + n) } } := by
  unfold State.count
  dsimp only
  rw [if_neg (by simp [h]), if_pos hn]

/-- Another counter is left alone. -/
theorem State.ctr_count_other (a n b : Nat) (h : b ≠ a) : (s.count a n).ctr b = s.ctr b := by
  unfold State.count
  dsimp only
  split
  · rfl
  · split
    · unfold State.ctr; simp [h]
    · unfold State.ctr State.raise; simp [h]

@[simp] theorem State.ctr_raise (p b a : Nat) : (s.raise p b).ctr a = s.ctr a := rfl
@[simp] theorem State.ctr_setFld (p o l w v a : Nat) : (s.setFld p o l w v).ctr a = s.ctr a := rfl
@[simp] theorem State.ctr_wr (p o a : Nat) (v : W) : (s.wr p o v).ctr a = s.ctr a := rfl

/-! ## Directory entries, jobs and slots -/

theorem State.entry_congr {s t : State} (h : t.dir = s.dir) (a : Nat) : t.entry a = s.entry a := by
  unfold State.entry; rw [h]

theorem State.entry_setEntry (a b : Nat) (e : DirEntry) :
    (s.setEntry a e).entry b = if b = a then e else s.entry b := by
  unfold State.entry State.setEntry; rw [tget_tput]

@[simp] theorem State.entry_setEntry_same (a : Nat) (e : DirEntry) : (s.setEntry a e).entry a = e := by
  simp [State.entry_setEntry]

theorem State.job_congr {s t : State} (h : t.jobs = s.jobs) (a : Nat) : t.job a = s.job a := by
  unfold State.job; rw [h]

theorem State.job_setJob (a b : Nat) (v : Job) : (s.setJob a v).job b = if b = a then v else s.job b := by
  unfold State.job State.setJob; rw [tget_tput]

@[simp] theorem State.job_setJob_same (a : Nat) (v : Job) : (s.setJob a v).job a = v := by simp [State.job_setJob]

theorem State.slot_congr {s t : State} (h : t.slots = s.slots) (a : Nat) : t.slot a = s.slot a := by
  unfold State.slot; rw [h]

theorem State.slot_setSlot (a b : Nat) (v : Slot) : (s.setSlot a v).slot b = if b = a then v else s.slot b := by
  unfold State.slot State.setSlot; rw [tget_tput]

@[simp] theorem State.slot_setSlot_same (a : Nat) (v : Slot) : (s.setSlot a v).slot a = v := by
  simp [State.slot_setSlot]

@[simp] theorem State.entry_raise (p b a : Nat) : (s.raise p b).entry a = s.entry a := rfl
@[simp] theorem State.entry_setFld (p o l w v a : Nat) : (s.setFld p o l w v).entry a = s.entry a := rfl
@[simp] theorem State.entry_wr (p o a : Nat) (v : W) : (s.wr p o v).entry a = s.entry a := rfl
@[simp] theorem State.entry_inc (p o a : Nat) : (s.inc p o).entry a = s.entry a := State.entry_congr (by simp) a

/-! ## Stack memory -/

/-- Every stored byte outside the bytes a write covers is left alone, and the canonical form is kept. -/
theorem store_fold_wf (f : Nat → Bool) (bs : List (Byte × Nat)) (a : Nat) (m : Mem) (h : Memory.wf m = true) :
    Memory.wf (bs.foldl (fun m (b, i) => if f (a + i) then m else mset m (a + i) b) m) = true := by
  induction bs generalizing m with
  | nil => exact h
  | cons x t ih =>
    apply ih
    dsimp only
    split
    · exact h
    · exact mset_wf _ _ _ h

@[simp] theorem State.store_mem_wf (a : Nat) (bs : List Byte) (h : Memory.wf s.mem = true) :
    Memory.wf (s.store_ a bs).mem = true :=
  store_fold_wf (fun x => s.stackFault (s.stackOf x)) bs.zipIdx a s.mem h

theorem store_fold_other (f : Nat → Bool) (bs : List (Byte × Nat)) (a x : Nat) (m : Mem) (h : Memory.wf m = true)
    (hx : ∀ b ∈ bs, x ≠ a + b.2) :
    mget (bs.foldl (fun m (b, i) => if f (a + i) then m else mset m (a + i) b) m) x = mget m x := by
  induction bs generalizing m with
  | nil => rfl
  | cons y t ih =>
    have ht : ∀ b ∈ t, x ≠ a + b.2 := fun b hb => hx b (List.mem_cons_of_mem _ hb)
    rw [List.foldl_cons]
    dsimp only
    split
    · exact ih m h ht
    · rw [ih _ (mset_wf _ _ _ h) ht, mget_mset_other m _ x _ h (hx y (List.mem_cons_self ..))]

/-- A byte outside a write keeps its value. -/
theorem State.store_mem_other (a x : Nat) (bs : List Byte) (h : Memory.wf s.mem = true)
    (hx : x < a ∨ a + bs.length ≤ x) : mget (s.store_ a bs).mem x = mget s.mem x := by
  refine store_fold_other (fun y => s.stackFault (s.stackOf y)) bs.zipIdx a x s.mem h ?_
  intro b hb
  have hl : b.2 < bs.length := by
    have := List.snd_lt_of_mem_zipIdx hb
    simpa using this
  omega

end Sys2Proof.Machine
end

