-- ==== Sys2Proof/WellFormed.lean ====
section
/-! DEFINITION. Which commands a sender can send to a configuration: operands name units that Table 00-2 gives it, and
registers that have the command's access (17_registers.md R362 to R374). A command that is not well formed is no row's
access; the machine stays total on it. -/
namespace Sys2Proof

open Sys2Proof.Machine

def laneOk (part : Part) (l : BitVec 6) : Bool := l.toNat < part.nLanes
def stackOk (part : Part) (k : BitVec 4) : Bool := k.toNat < part.nStacks
def portOk (part : Part) (p : BitVec 3) : Bool := p.toNat < part.nPorts
def sliceOk (part : Part) (s : BitVec 2) : Bool := s.toNat < part.slices
def coreOk (part : Part) (c : BitVec 15) : Bool := c.toNat < part.nPhys

/-- The LO half of a pair: a statistics counter, or one of the 64-bit counters of Table 17-8. -/
def loHalf (a : Nat) : Bool :=
  isCounterLo a || a == regAt pgPwr 0x078 || a == regAt pgSched 0x050 || a == regAt pgStep 0x050 || a == regAt pgTrain 0x060 ||
    (a / 0x1000 == pgSched && 0x400 ≤ a % 0x1000 && a % 0x1000 < 0x600 && a % 8 == 0)

/-- A register R148 names, at a word's offset. -/
def isPoolOffset (off : Nat) : Bool := off % 4 == 0 && isPoolReg off

/-- The store is one of Table 15-3, or the layer staging cache for a corrected word. -/
def SecdedError.ok : SecdedError → Bool
  | .uncorrectable store => 1 ≤ store.toNat && store.toNat ≤ 12
  | .corrected store => store.toNat ≤ 12

/-- The command is well formed in a configuration. -/
def Instr.wf (part : Part) : Instr → Bool
  | .evtPendClear page _ => pageHeader page.toNat && pagePresent part page.toNat
  | .errCountClr page => pageHeader page.toNat && pagePresent part page.toNat
  | .counterLoRead x => loHalf (x.addr.toNat % 0x200000) && pagePresent part (x.addr.toNat % 0x200000 / 0x1000)
  | .counterSatClear addr => isCounterLo addr.toNat && pagePresent part (addr.toNat / 0x1000)
  | .post _ cmd => cmd.toNat ≤ 4
  | .pigeonholeWrite lane => laneOk part lane
  | .beat lane _ _ _ => laneOk part lane
  | .beatAbsent lane _ => laneOk part lane
  | .pigeonholeCredit lane => laneOk part lane
  | .missDrain lane => laneOk part lane
  | .missqLoRead lane => laneOk part lane
  | .missqHiRead lane => laneOk part lane
  | .laneDisable lane => laneOk part lane
  | .laneEnable lane => laneOk part lane
  | .laneDrained lane => laneOk part lane
  | .laneFault lane => laneOk part lane
  | .directWindowRequest _ _ addr _ _ => addr.toNat % 128 == 0
  | .memRegWrite _ word _ => word != 3#2
  | .stackReadDone _ _ _ _ => true
  | .patrol stack _ _ => stackOk part stack
  | .memRetrain stack => stackOk part stack
  | .stackTempRetrain stack _ => stackOk part stack
  | .retrainDone stack _ => stackOk part stack
  | .memRetire stack _ => stackOk part stack
  | .pcRetired stack => stackOk part stack
  | .ucqLoRead stack => stackOk part stack
  | .ucqHiRead stack => stackOk part stack
  | .frameRx port _ => portOk part port
  | .linkAckTimeout port => portOk part port
  | .laneFail port lane => portOk part port && lane.toNat < 9
  | .linkTrained port _ => portOk part port
  | .unitDisable page => pageHeader page.toNat && pagePresent part page.toNat
  | .unitEnable page => pageHeader page.toNat && pagePresent part page.toNat
  | .unitDrained page => pageHeader page.toNat && pagePresent part page.toNat
  | .cachePoolWrite offset _ => isPoolOffset offset.toNat
  | .fence core => coreOk part core
  | .spareBind slice => sliceOk part slice
  | .reinstate core _ => coreOk part core
  | .nocMessage core _ _ _ => coreOk part core
  | .ctrlUncorr error _ => error.ok
  | .powerEstimate slice _ => sliceOk part slice
  | .vack slice _ => sliceOk part slice
  | .oppSlewDone slice => sliceOk part slice
  | .droopAssert slice => sliceOk part slice
  | .droopDeassert slice => sliceOk part slice
  | .thermSample slice _ => sliceOk part slice
  | .gateIdle domain => domain.toNat < 5 * part.slices
  | .sliceReset slice => sliceOk part slice
  | .unitReset page sub => pageHeader page.toNat && pagePresent part page.toNat && (sub == 0#2 || pageKind page.toNat == some .merge)
  | .phyTrainingTimeout stack => stackOk part stack
  | .commandAddressParityError stack _ => stackOk part stack
  | .writeDataParityError stack _ _ => stackOk part stack
  | .registerWrite _ _ _ _ | .badacc _ _ _ _ | .dirRead _ | .dirCreate _ | .dirStage _ | .dirPublish _ | .dirDiscard _
  | .dirRetire _ | .dirSetPolicy _ | .dirFlushPrefix _ | .jobRead _ | .jobOpen _ | .jobUpdate _ | .jobClose _
  | .jobCloseEnds _ | .postingCheck _ | .outOfStepRecord _ | .cancel _ | .pause _ | .resume _ | .trim _
  | .cancelTaken _ | .resumeTaken _ | .deadlineEnd _ | .expired _ | .jconsWrite _ _ | .batchGo _ | .stepForm _
  | .formPlacement _ | .down _ | .up _ | .score _ | .value _ | .smerge _ | .norm _ | .rotary _ | .resid _ | .act _
  | .route _ | .sample _ | .loss _ | .du _ | .dxa _ | .gout _ | .bvec _ | .battn _ | .mpool _ | .intakeForm _
  | .formFault _ _ | .wdog _ | .commandGrant _ | .commandIssue | .commandDrop | .acmdDone _ | .landingFree _
  | .stepBoundary _ | .schedTidelineWrite _ | .schedGrpWrite _ _ | .periodEnd | .modelSwitch _ | .tideLoad _
  | .tideCommit _ | .slotBegin | .windowEnd | .trainTake _ _ | .trainRelease _ _ | .collectiveDone _ _
  | .linkCollTimeout _ _ | .updGrad _ _ | .updWrite _ _ | .updAck _ | .trainUpdTimeout _ _ | .vote _ | .voteFrame _
  | .trainVoteTimeout _ | .decision _ | .trainDecideTimeout _ | .ask _ | .resolveCommit _ | .resolveAbort _
  | .trainRetry _ | .adapterIntake _ | .intakeStart | .intakeComplete _ _ | .afaultqLoRead | .afaultqHiRead
  | .intakeLoad _ _ | .intakeReplace _ | .wfRetry | .wfRollback | .intakeUnload _ | .part0Checked | .stationPrepared _
  | .stationCopy | .wfFinished | .hostReadResponse _ _ _ _ | .hostWriteAck _ _ | .hostReadTimeout _ | .daccRead
  | .daccWrite _ | .corrHalving | .linkRcmd _ | .cacheFlush _ | .lcUnseal _ | .lcSeal | .lcReturn | .lcVoid
  | .raiseFwMin | .keyImport | .keyClear | .attest | .fuseBurnAck _ | .relLog0Read | .relLog3Read | .clusterFault _
  | .handover _ | .fwLoad _ | .split | .clkfail _ | .powerOnReset | .coldResetInput | .warmResetInput | .bringUp _
  | .rstCold | .rstWarm | .rstExport | .autoExport | .imageUpdate | .exportDone | .exportFail | .beaconArm _ _
  | .beaconArrive _ _ | .beaconClear _ | .intakeReadTimeout => true

end Sys2Proof
end

