-- ==== Sys2Proof/Laws/PerInstr.lean ====
section
/-! SUPPORT. Well-formedness over the configurations, per command: what IRZ-2F or IRZ-4FS can be sent names units that IRZ-4F
has as well (Table 00-2, R3). -/
namespace Sys2Proof.Laws.Names

open Sys2Proof.Machine

/-- A command that is well formed in IRZ-2F or in IRZ-4FS is well formed in IRZ-4F. -/
def Statement (i : Instr) : Prop := ∀ part, i.wf part = true → i.wf .irz4F = true

theorem slices_le (part : Part) : part.slices ≤ Part.irz4F.slices := by cases part <;> decide

theorem page_of (part : Part) (p : Nat) (h : pagePresent part p = true) : pagePresent .irz4F p = true := by
  have hs := slices_le part
  unfold pagePresent at h ⊢
  split at h <;> simp_all [Part.hasTrain, Part.nStacks, Part.nPorts] <;>
    first | omega | (have := of_decide_eq_true h; exact decide_eq_true (by omega))

theorem slice_of (part : Part) (s : BitVec 2) (_ : sliceOk part s = true) : sliceOk .irz4F s = true :=
  decide_eq_true (by simp only [Part.slices]; omega)

theorem lane_of (part : Part) (l : BitVec 6) (_ : laneOk part l = true) : laneOk .irz4F l = true :=
  decide_eq_true (by simp only [Part.nLanes, Part.slices]; omega)

theorem stack_of (part : Part) (k : BitVec 4) (_ : stackOk part k = true) : stackOk .irz4F k = true :=
  decide_eq_true (by simp only [Part.nStacks, Part.slices]; omega)

theorem port_of (part : Part) (p : BitVec 3) (_ : portOk part p = true) : portOk .irz4F p = true :=
  decide_eq_true (by simp only [Part.nPorts, Part.slices]; omega)

theorem core_of (part : Part) (c : BitVec 15) (h : coreOk part c = true) : coreOk .irz4F c = true :=
  have := slices_le part
  have hc := of_decide_eq_true h
  decide_eq_true (by simp only [Part.nPhys] at hc ⊢; omega)

theorem registerWrite (priv : Bool) (job : BitVec 8) (addr : BitVec 22) (data : W) : Statement (Instr.registerWrite priv job addr data) := fun _ h => h
theorem badacc (priv : Bool) (job : BitVec 8) (addr : BitVec 22) (we : Bool) : Statement (Instr.badacc priv job addr we) := fun _ h => h
theorem evtPendClear (page : BitVec 9) (mask : W) : Statement (Instr.evtPendClear page mask) := by
  intro part h; simp only [Instr.wf, Bool.and_eq_true] at h ⊢; exact ⟨h.1, page_of part _ h.2⟩
theorem errCountClr (page : BitVec 9) : Statement (Instr.errCountClr page) := by
  intro part h; simp only [Instr.wf, Bool.and_eq_true] at h ⊢; exact ⟨h.1, page_of part _ h.2⟩
theorem counterLoRead (access : LoAccess) : Statement (Instr.counterLoRead access) := by
  intro part h; simp only [Instr.wf, Bool.and_eq_true] at h ⊢; exact ⟨h.1, page_of part _ h.2⟩
theorem counterSatClear (addr : BitVec 21) : Statement (Instr.counterSatClear addr) := by
  intro part h; simp only [Instr.wf, Bool.and_eq_true] at h ⊢; exact ⟨h.1, page_of part _ h.2⟩
theorem dirRead (id : BitVec 16) : Statement (Instr.dirRead id) := fun _ h => h
theorem dirCreate (id : BitVec 16) : Statement (Instr.dirCreate id) := fun _ h => h
theorem dirStage (id : BitVec 16) : Statement (Instr.dirStage id) := fun _ h => h
theorem dirPublish (id : BitVec 16) : Statement (Instr.dirPublish id) := fun _ h => h
theorem dirDiscard (id : BitVec 16) : Statement (Instr.dirDiscard id) := fun _ h => h
theorem dirRetire (id : BitVec 16) : Statement (Instr.dirRetire id) := fun _ h => h
theorem dirSetPolicy (id : BitVec 16) : Statement (Instr.dirSetPolicy id) := fun _ h => h
theorem dirFlushPrefix (id : BitVec 16) : Statement (Instr.dirFlushPrefix id) := fun _ h => h
theorem jobRead (job : BitVec 8) : Statement (Instr.jobRead job) := fun _ h => h
theorem jobOpen (job : BitVec 8) : Statement (Instr.jobOpen job) := fun _ h => h
theorem jobUpdate (job : BitVec 8) : Statement (Instr.jobUpdate job) := fun _ h => h
theorem jobClose (job : BitVec 8) : Statement (Instr.jobClose job) := fun _ h => h
theorem jobCloseEnds (job : BitVec 8) : Statement (Instr.jobCloseEnds job) := fun _ h => h
theorem post (slot : BitVec 12) (cmd : BitVec 3) : Statement (Instr.post slot cmd) := fun _ h => h
theorem postingCheck (slot : BitVec 12) : Statement (Instr.postingCheck slot) := fun _ h => h
theorem outOfStepRecord (job : BitVec 8) : Statement (Instr.outOfStepRecord job) := fun _ h => h
theorem cancel (slot : BitVec 12) : Statement (Instr.cancel slot) := fun _ h => h
theorem pause (slot : BitVec 12) : Statement (Instr.pause slot) := fun _ h => h
theorem resume (slot : BitVec 12) : Statement (Instr.resume slot) := fun _ h => h
theorem trim (slot : BitVec 12) : Statement (Instr.trim slot) := fun _ h => h
theorem cancelTaken (slot : BitVec 12) : Statement (Instr.cancelTaken slot) := fun _ h => h
theorem resumeTaken (slot : BitVec 12) : Statement (Instr.resumeTaken slot) := fun _ h => h
theorem deadlineEnd (slot : BitVec 12) : Statement (Instr.deadlineEnd slot) := fun _ h => h
theorem expired (slot : BitVec 12) : Statement (Instr.expired slot) := fun _ h => h
theorem jconsWrite (job : BitVec 8) (value : W) : Statement (Instr.jconsWrite job value) := fun _ h => h
theorem batchGo (job : BitVec 8) : Statement (Instr.batchGo job) := fun _ h => h
theorem stepForm (job : BitVec 8) : Statement (Instr.stepForm job) := fun _ h => h
theorem formPlacement (desc : FormDesc) : Statement (Instr.formPlacement desc) := fun _ h => h
theorem down (form : Nat) : Statement (Instr.down form) := fun _ h => h
theorem up (form : Nat) : Statement (Instr.up form) := fun _ h => h
theorem pigeonholeWrite (lane : BitVec 6) : Statement (Instr.pigeonholeWrite lane) := fun part h => lane_of part _ h
theorem score (form : Nat) : Statement (Instr.score form) := fun _ h => h
theorem value (form : Nat) : Statement (Instr.value form) := fun _ h => h
theorem smerge (form : Nat) : Statement (Instr.smerge form) := fun _ h => h
theorem norm (form : Nat) : Statement (Instr.norm form) := fun _ h => h
theorem rotary (form : Nat) : Statement (Instr.rotary form) := fun _ h => h
theorem resid (form : Nat) : Statement (Instr.resid form) := fun _ h => h
theorem act (form : Nat) : Statement (Instr.act form) := fun _ h => h
theorem route (form : Nat) : Statement (Instr.route form) := fun _ h => h
theorem sample (form : Nat) : Statement (Instr.sample form) := fun _ h => h
theorem loss (form : Nat) : Statement (Instr.loss form) := fun _ h => h
theorem du (form : Nat) : Statement (Instr.du form) := fun _ h => h
theorem dxa (form : Nat) : Statement (Instr.dxa form) := fun _ h => h
theorem gout (form : Nat) : Statement (Instr.gout form) := fun _ h => h
theorem bvec (form : Nat) : Statement (Instr.bvec form) := fun _ h => h
theorem battn (form : Nat) : Statement (Instr.battn form) := fun _ h => h
theorem mpool (form : Nat) : Statement (Instr.mpool form) := fun _ h => h
theorem intakeForm (form : Nat) : Statement (Instr.intakeForm form) := fun _ h => h
theorem formFault (form : Nat) (core : Bool) : Statement (Instr.formFault form core) := fun _ h => h
theorem wdog (form : Nat) : Statement (Instr.wdog form) := fun _ h => h
theorem commandGrant (submitted : List ArrayCmd) : Statement (Instr.commandGrant submitted) := fun _ h => h
theorem commandIssue : Statement Instr.commandIssue := fun _ h => h
theorem commandDrop : Statement Instr.commandDrop := fun _ h => h
theorem acmdDone (id : BitVec 8) : Statement (Instr.acmdDone id) := fun _ h => h
theorem beat (lane : BitVec 6) (data : BitVec 1024) (tag : W) (tpar : BitVec 4) : Statement (Instr.beat lane data tag tpar) := fun part h => lane_of part _ h
theorem beatAbsent (lane : BitVec 6) (tag : W) : Statement (Instr.beatAbsent lane tag) := fun part h => lane_of part _ h
theorem pigeonholeCredit (lane : BitVec 6) : Statement (Instr.pigeonholeCredit lane) := fun part h => lane_of part _ h
theorem landingFree (addr : BitVec 27) : Statement (Instr.landingFree addr) := fun _ h => h
theorem missDrain (lane : BitVec 6) : Statement (Instr.missDrain lane) := fun part h => lane_of part _ h
theorem missqLoRead (lane : BitVec 6) : Statement (Instr.missqLoRead lane) := fun part h => lane_of part _ h
theorem missqHiRead (lane : BitVec 6) : Statement (Instr.missqHiRead lane) := fun part h => lane_of part _ h
theorem laneDisable (lane : BitVec 6) : Statement (Instr.laneDisable lane) := fun part h => lane_of part _ h
theorem laneEnable (lane : BitVec 6) : Statement (Instr.laneEnable lane) := fun part h => lane_of part _ h
theorem laneDrained (lane : BitVec 6) : Statement (Instr.laneDrained lane) := fun part h => lane_of part _ h
theorem laneFault (lane : BitVec 6) : Statement (Instr.laneFault lane) := fun part h => lane_of part _ h
theorem stepBoundary (job : BitVec 8) : Statement (Instr.stepBoundary job) := fun _ h => h
theorem schedTidelineWrite (value : W) : Statement (Instr.schedTidelineWrite value) := fun _ h => h
theorem schedGrpWrite (group : BitVec 6) (value : W) : Statement (Instr.schedGrpWrite group value) := fun _ h => h
theorem periodEnd : Statement Instr.periodEnd := fun _ h => h
theorem modelSwitch (model : BitVec 8) : Statement (Instr.modelSwitch model) := fun _ h => h
theorem tideLoad (slot : BitVec 12) : Statement (Instr.tideLoad slot) := fun _ h => h
theorem tideCommit (slot : BitVec 12) : Statement (Instr.tideCommit slot) := fun _ h => h
theorem slotBegin : Statement Instr.slotBegin := fun _ h => h
theorem windowEnd : Statement Instr.windowEnd := fun _ h => h
theorem trainTake (job : BitVec 8) (adapter : BitVec 16) : Statement (Instr.trainTake job adapter) := fun _ h => h
theorem trainRelease (job : BitVec 8) (adapter : BitVec 16) : Statement (Instr.trainRelease job adapter) := fun _ h => h
theorem collectiveDone (job : BitVec 8) (coll : BitVec 8) : Statement (Instr.collectiveDone job coll) := fun _ h => h
theorem linkCollTimeout (job : BitVec 8) (coll : BitVec 8) : Statement (Instr.linkCollTimeout job coll) := fun _ h => h
theorem updGrad (job : BitVec 8) (adapter : BitVec 16) : Statement (Instr.updGrad job adapter) := fun _ h => h
theorem updWrite (hdr : BitVec 256) (data : BitVec 1024) : Statement (Instr.updWrite hdr data) := fun _ h => h
theorem updAck (hdr : BitVec 256) : Statement (Instr.updAck hdr) := fun _ h => h
theorem trainUpdTimeout (job : BitVec 8) (adapter : BitVec 16) : Statement (Instr.trainUpdTimeout job adapter) := fun _ h => h
theorem vote (job : BitVec 8) : Statement (Instr.vote job) := fun _ h => h
theorem voteFrame (job : BitVec 8) : Statement (Instr.voteFrame job) := fun _ h => h
theorem trainVoteTimeout (job : BitVec 8) : Statement (Instr.trainVoteTimeout job) := fun _ h => h
theorem decision (job : BitVec 8) : Statement (Instr.decision job) := fun _ h => h
theorem trainDecideTimeout (job : BitVec 8) : Statement (Instr.trainDecideTimeout job) := fun _ h => h
theorem ask (job : BitVec 8) : Statement (Instr.ask job) := fun _ h => h
theorem resolveCommit (job : BitVec 8) : Statement (Instr.resolveCommit job) := fun _ h => h
theorem resolveAbort (job : BitVec 8) : Statement (Instr.resolveAbort job) := fun _ h => h
theorem trainRetry (job : BitVec 8) : Statement (Instr.trainRetry job) := fun _ h => h
theorem adapterIntake (adapter : BitVec 16) : Statement (Instr.adapterIntake adapter) := fun _ h => h
theorem intakeStart : Statement Instr.intakeStart := fun _ h => h
theorem intakeComplete (adapter : BitVec 16) (reason : BitVec 4) : Statement (Instr.intakeComplete adapter reason) := fun _ h => h
theorem afaultqLoRead : Statement Instr.afaultqLoRead := fun _ h => h
theorem afaultqHiRead : Statement Instr.afaultqHiRead := fun _ h => h
theorem intakeLoad (model : BitVec 8) (transpose : Bool) : Statement (Instr.intakeLoad model transpose) := fun _ h => h
theorem intakeReplace (model : BitVec 8) : Statement (Instr.intakeReplace model) := fun _ h => h
theorem wfRetry : Statement Instr.wfRetry := fun _ h => h
theorem wfRollback : Statement Instr.wfRollback := fun _ h => h
theorem intakeUnload (model : BitVec 8) : Statement (Instr.intakeUnload model) := fun _ h => h
theorem part0Checked : Statement Instr.part0Checked := fun _ h => h
theorem stationPrepared (fault : BitVec 4) : Statement (Instr.stationPrepared fault) := fun _ h => h
theorem stationCopy : Statement Instr.stationCopy := fun _ h => h
theorem wfFinished : Statement Instr.wfFinished := fun _ h => h
theorem hostReadResponse (tag : BitVec 10) (data : BitVec 1024) (last : Bool) (err : Bool) : Statement (Instr.hostReadResponse tag data last err) := fun _ h => h
theorem hostWriteAck (tag : BitVec 10) (err : Bool) : Statement (Instr.hostWriteAck tag err) := fun _ h => h
theorem hostReadTimeout (tag : BitVec 10) : Statement (Instr.hostReadTimeout tag) := fun _ h => h
theorem directWindowRequest (we : Bool) (priv : Bool) (addr : BitVec 40) (be : BitVec 128) (data : BitVec 1024) : Statement (Instr.directWindowRequest we priv addr be data) := fun _ h => h
theorem daccRead : Statement Instr.daccRead := fun _ h => h
theorem daccWrite (value : W) : Statement (Instr.daccWrite value) := fun _ h => h
theorem memRegWrite (entry : BitVec 6) (word : BitVec 2) (value : W) : Statement (Instr.memRegWrite entry word value) := fun _ h => h
theorem stackReadDone (addr : BitVec 40) (req : Requester) (symbols : BitVec 3) (burst : ReadBurst) : Statement (Instr.stackReadDone addr req symbols burst) := fun _ h => h
theorem patrol (stack : BitVec 4) (symbols : BitVec 24) (miscorrect : BitVec 8) : Statement (Instr.patrol stack symbols miscorrect) := fun part h => stack_of part _ h
theorem corrHalving : Statement Instr.corrHalving := fun _ h => h
theorem memRetrain (stack : BitVec 4) : Statement (Instr.memRetrain stack) := fun part h => stack_of part _ h
theorem stackTempRetrain (stack : BitVec 4) (temp : BitVec 8) : Statement (Instr.stackTempRetrain stack temp) := fun part h => stack_of part _ h
theorem retrainDone (stack : BitVec 4) (ok : Bool) : Statement (Instr.retrainDone stack ok) := fun part h => stack_of part _ h
theorem memRetire (stack : BitVec 4) (pc : BitVec 6) : Statement (Instr.memRetire stack pc) := fun part h => stack_of part _ h
theorem pcRetired (stack : BitVec 4) : Statement (Instr.pcRetired stack) := fun part h => stack_of part _ h
theorem ucqLoRead (stack : BitVec 4) : Statement (Instr.ucqLoRead stack) := fun part h => stack_of part _ h
theorem ucqHiRead (stack : BitVec 4) : Statement (Instr.ucqHiRead stack) := fun part h => stack_of part _ h
theorem frameRx (port : BitVec 3) (bits : BitVec 2336) : Statement (Instr.frameRx port bits) := fun part h => port_of part _ h
theorem linkAckTimeout (port : BitVec 3) : Statement (Instr.linkAckTimeout port) := fun part h => port_of part _ h
theorem laneFail (port : BitVec 3) (lane : BitVec 4) : Statement (Instr.laneFail port lane) := by
  intro part h; simp only [Instr.wf, Bool.and_eq_true] at h ⊢; exact ⟨port_of part _ h.1, h.2⟩
theorem linkTrained (port : BitVec 3) (laneOk : BitVec 9) : Statement (Instr.linkTrained port laneOk) := fun part h => port_of part _ h
theorem linkRcmd (value : W) : Statement (Instr.linkRcmd value) := fun _ h => h
theorem unitDisable (page : BitVec 9) : Statement (Instr.unitDisable page) := by
  intro part h; simp only [Instr.wf, Bool.and_eq_true] at h ⊢; exact ⟨h.1, page_of part _ h.2⟩
theorem unitEnable (page : BitVec 9) : Statement (Instr.unitEnable page) := by
  intro part h; simp only [Instr.wf, Bool.and_eq_true] at h ⊢; exact ⟨h.1, page_of part _ h.2⟩
theorem unitDrained (page : BitVec 9) : Statement (Instr.unitDrained page) := by
  intro part h; simp only [Instr.wf, Bool.and_eq_true] at h ⊢; exact ⟨h.1, page_of part _ h.2⟩
theorem cacheFlush (owner : BitVec 16) : Statement (Instr.cacheFlush owner) := fun _ h => h
theorem cachePoolWrite (offset : BitVec 12) (value : W) : Statement (Instr.cachePoolWrite offset value) := fun _ h => h
theorem lcUnseal (testPort : Bool) : Statement (Instr.lcUnseal testPort) := fun _ h => h
theorem lcSeal : Statement Instr.lcSeal := fun _ h => h
theorem lcReturn : Statement Instr.lcReturn := fun _ h => h
theorem lcVoid : Statement Instr.lcVoid := fun _ h => h
theorem raiseFwMin : Statement Instr.raiseFwMin := fun _ h => h
theorem keyImport : Statement Instr.keyImport := fun _ h => h
theorem keyClear : Statement Instr.keyClear := fun _ h => h
theorem attest : Statement Instr.attest := fun _ h => h
theorem fuseBurnAck (ok : Bool) : Statement (Instr.fuseBurnAck ok) := fun _ h => h
theorem fence (core : BitVec 15) : Statement (Instr.fence core) := fun part h => core_of part _ h
theorem spareBind (slice : BitVec 2) : Statement (Instr.spareBind slice) := fun part h => slice_of part _ h
theorem reinstate (core : BitVec 15) (pass : Bool) : Statement (Instr.reinstate core pass) := fun part h => core_of part _ h
theorem nocMessage (core : BitVec 15) (form : Option Nat) (parityOk : Bool) (toBerth : Option Nat) : Statement (Instr.nocMessage core form parityOk toBerth) := fun part h => core_of part _ h
theorem ctrlUncorr (error : SecdedError) (index : BitVec 24) : Statement (Instr.ctrlUncorr error index) := fun _ h => h
theorem relLog0Read : Statement Instr.relLog0Read := fun _ h => h
theorem relLog3Read : Statement Instr.relLog3Read := fun _ h => h
theorem clusterFault (cluster : Bool) : Statement (Instr.clusterFault cluster) := fun _ h => h
theorem handover (cluster : Bool) : Statement (Instr.handover cluster) := fun _ h => h
theorem fwLoad (cluster : Bool) : Statement (Instr.fwLoad cluster) := fun _ h => h
theorem split : Statement Instr.split := fun _ h => h
theorem clkfail (clocks : ClockFail) : Statement (Instr.clkfail clocks) := fun _ h => h
theorem powerEstimate (slice : BitVec 2) (activity : Activity) : Statement (Instr.powerEstimate slice activity) := fun part h => slice_of part _ h
theorem vack (slice : BitVec 2) (level : Bool) : Statement (Instr.vack slice level) := fun part h => slice_of part _ h
theorem oppSlewDone (slice : BitVec 2) : Statement (Instr.oppSlewDone slice) := fun part h => slice_of part _ h
theorem droopAssert (slice : BitVec 2) : Statement (Instr.droopAssert slice) := fun part h => slice_of part _ h
theorem droopDeassert (slice : BitVec 2) : Statement (Instr.droopDeassert slice) := fun part h => slice_of part _ h
theorem thermSample (slice : BitVec 2) (temp : BitVec 8) : Statement (Instr.thermSample slice temp) := fun part h => slice_of part _ h
theorem gateIdle (domain : BitVec 5) : Statement (Instr.gateIdle domain) := fun part h =>
  have := slices_le part
  have hd := of_decide_eq_true h
  decide_eq_true (by omega)
theorem powerOnReset : Statement Instr.powerOnReset := fun _ h => h
theorem coldResetInput : Statement Instr.coldResetInput := fun _ h => h
theorem warmResetInput : Statement Instr.warmResetInput := fun _ h => h
theorem bringUp (env : BootEnv) : Statement (Instr.bringUp env) := fun _ h => h
theorem rstCold : Statement Instr.rstCold := fun _ h => h
theorem rstWarm : Statement Instr.rstWarm := fun _ h => h
theorem sliceReset (slice : BitVec 2) : Statement (Instr.sliceReset slice) := fun part h => slice_of part _ h
theorem unitReset (page : BitVec 9) (sub : BitVec 2) : Statement (Instr.unitReset page sub) := by
  intro part h; simp only [Instr.wf, Bool.and_eq_true] at h ⊢; exact ⟨⟨h.1.1, page_of part _ h.1.2⟩, h.2⟩
theorem rstExport : Statement Instr.rstExport := fun _ h => h
theorem autoExport : Statement Instr.autoExport := fun _ h => h
theorem imageUpdate : Statement Instr.imageUpdate := fun _ h => h
theorem exportDone : Statement Instr.exportDone := fun _ h => h
theorem exportFail : Statement Instr.exportFail := fun _ h => h
theorem beaconArm (beacon : BitVec 14) (arg : BitVec 24) : Statement (Instr.beaconArm beacon arg) := fun _ h => h
theorem beaconArrive (beacon : BitVec 14) (arg : BitVec 24) : Statement (Instr.beaconArrive beacon arg) := fun _ h => h
theorem beaconClear (beacon : BitVec 14) : Statement (Instr.beaconClear beacon) := fun _ h => h
theorem intakeReadTimeout : Statement Instr.intakeReadTimeout := fun _ h => h
theorem phyTrainingTimeout (stack : BitVec 4) : Statement (Instr.phyTrainingTimeout stack) := fun part h => stack_of part _ h
theorem commandAddressParityError (stack : BitVec 4) (channel : BitVec 5) : Statement (Instr.commandAddressParityError stack channel) := fun part h => stack_of part _ h
theorem writeDataParityError (stack : BitVec 4) (addr : BitVec 40) (again : Bool) : Statement (Instr.writeDataParityError stack addr again) := fun part h => stack_of part _ h

end Sys2Proof.Laws.Names
end

