-- ==== Sys2Proof/Tests/Slice0.lean ====
section
/-! SUPPORT. Tests: an ill-formed command for each check, the spec's worked examples, published answers, and for each
statement of Certificates/Slice0/Obligations.lean concrete states and operands that meet its hypotheses (test_witness_…). -/
set_option maxRecDepth 8000

namespace Sys2Proof.Tests

open Sys2Proof Sys2Proof.Machine

/-! ## Small states -/

/-- A part that has come up, Unsealed, with the units of the listed pages RUNNING. -/
def on (ps : List Nat) : State :=
  { State.reset with phase := 0#4, ready := true, lc := 0b00001#5, hdrs := ps.map fun p => (p, { st := .running }) }

/-- A part with one directory entry, number 1. -/
def withEntry (e : DirEntry) : State := { on [pgDir] with dir := [(1, e)] }

/-- A serve-mode job image: pages 0 of the slots, a ring of 256 entries, PF_CHUNK 1, ROW_CAP 1. -/
def serveImg : List W := [0#32, 0x100#32, 0#32, 0#32, 8#32, 0x10001#32]

/-- A train-mode job image of one device. -/
def trainImg : List W := [4#32, 0x100#32, 0#32, 0#32, 8#32, 0x10001#32, 0#32, 0#32, 0#32, 0#32, 0#32, 0#32, 0x200001#32]

/-- A part whose STEP unit serves, with one job, number 0. -/
def withJob (j : Job) : State := { on [pgStep, pgHost] with tablesBad := false, jobs := [(0, j)] }

/-- An open serve-mode job, with one slot. -/
def withSlot (v : Slot) : State := { withJob { st := 1#2, img := serveImg } with slots := [(0, v)] }

/-! ## Well-formedness: each check refuses an ill-formed command -/

theorem test_wf_header_page : (Instr.evtPendClear 0x012#9 0#32).wf .irz4F = false ∧ (Instr.errCountClr 0x060#9).wf .irz4F = false ∧
    (Instr.evtPendClear 0x022#9 0#32).wf .irz2F = false ∧ (Instr.unitDisable 0x00E#9).wf .irz4FS = false ∧
    (Instr.unitEnable 0x018#9).wf .irz4F = false ∧ (Instr.unitDrained 0x100#9).wf .irz4F = false := by decide
theorem test_wf_counter : (Instr.counterLoRead ⟨true, 0#8, 0x204#22⟩).wf .irz4F = false ∧ (Instr.counterLoRead ⟨true, 0#8, 0x1078#22⟩).wf .irz4F = true ∧
    (Instr.counterSatClear 0x1078#21).wf .irz4F = false ∧ (Instr.counterSatClear 0x200#21).wf .irz4F = true := by decide
theorem test_wf_post : (Instr.post 0#12 5#3).wf .irz4F = false ∧ (Instr.post 0#12 4#3).wf .irz4F = true := by decide
theorem test_wf_lane : (Instr.beat 32#6 0#1024 0#32 0#4).wf .irz2F = false ∧ (Instr.beat 31#6 0#1024 0#32 0#4).wf .irz2F = true ∧
    (Instr.laneFault 32#6).wf .irz2F = false ∧ (Instr.pigeonholeWrite 63#6).wf .irz4F = true := by decide
theorem test_wf_window : (Instr.directWindowRequest false true 64#40 0#128 0#1024).wf .irz4F = false ∧
    (Instr.directWindowRequest false true 128#40 0#128 0#1024).wf .irz4F = true := by decide
theorem test_wf_region_word : (Instr.memRegWrite 0#6 3#2 0#32).wf .irz4F = false ∧ (Instr.memRegWrite 0#6 2#2 0#32).wf .irz4F = true := by
  decide
theorem test_wf_stack : (Instr.memRetrain 8#4).wf .irz2F = false ∧ (Instr.memRetrain 15#4).wf .irz4F = true := by decide
theorem test_wf_port : (Instr.linkAckTimeout 4#3).wf .irz2F = false ∧ (Instr.laneFail 0#3 9#4).wf .irz4F = false ∧
    (Instr.laneFail 7#3 8#4).wf .irz4F = true := by decide
theorem test_wf_pool : (Instr.cachePoolWrite 0x102#12 0#32).wf .irz4F = false ∧ (Instr.cachePoolWrite 0x100#12 0#32).wf .irz4F = true := by
  decide
theorem test_wf_core : (Instr.fence 13120#15).wf .irz2F = false ∧ (Instr.fence 26239#15).wf .irz4F = true := by decide
theorem test_wf_slice : (Instr.sliceReset 2#2).wf .irz2F = false ∧ (Instr.gateIdle 20#5).wf .irz4F = false ∧
    (Instr.gateIdle 19#5).wf .irz4F = true := by decide
theorem test_wf_store : (Instr.ctrlUncorr (.uncorrectable 0#8) 0#24).wf .irz4F = false ∧ (Instr.ctrlUncorr (.corrected 13#8) 0#24).wf .irz4F = false ∧
    (Instr.ctrlUncorr (.corrected 0#8) 0#24).wf .irz4F = true := by decide
theorem test_wf_unit_reset : (Instr.unitReset 0x00C#9 1#2).wf .irz4F = false ∧ (Instr.unitReset 0x050#9 1#2).wf .irz4F = true ∧
    (Instr.unitReset 0x060#9 0#2).wf .irz4F = false := by decide

/-! ## The worked examples of the spec -/

/-- 02_arithmetic.md, worked example: MXFP4 conversion (0.75, 0.3, −0.02). -/
theorem test_mxfp4_example :
    mxEncode .mxfp4 ([.fin false 3 (-2), ofF32 0x3E99999A#32, ofF32 0xBCA3D70A#32] ++ List.replicate 29 .zero) =
      (124#8, [0x7#8, 0x4#8, 0x8#8] ++ List.replicate 29 0#8) := by decide
/-- 02_arithmetic.md, worked example: MXFP8 E4M3 saturation (500 and 1.0). -/
theorem test_mxfp8_example :
    mxEncode .mxE4m3 ([.fin false 500 0, .fin false 1 0] ++ List.replicate 30 .zero) =
      (127#8, [0x7E#8, 0x38#8] ++ List.replicate 30 0#8) := by decide
/-- 05_merge_lanes.md, R106: the parity of tag 0x0004_2003. -/
theorem test_tag_parity_example : tagParityOk 0x00042003#32 0b0110#4 = true ∧ tagParityOk 0x00042003#32 0b0111#4 = false := by decide
/-- 05_merge_lanes.md, worked example: a tie, and −0 + −0. -/
theorem test_tap_example : tapBf16 0x3FC0#16 0x3B80#16 = 0x3FC0#16 ∧ tapBf16 0x8000#16 0x8000#16 = 0x8000#16 := by decide
/-- 03_adapter_directory.md, R63: an MXFP4 row of width 1,000; the factors of the example adapter. -/
theorem test_row_bytes_example : rowBytes 5 1000 = 532 ∧ factorBytes 5 16 9216 = 78336 ∧ factorBytes 5 16 24576 = 208896 ∧
    factorBytes 5 16 1536 = 13056 := by decide
/-- 04_delta_path.md, R82 and Table 04-1: the ranks of the rungs of rank 16. -/
theorem test_rung_ranks : (List.range 4).map (rungRank 16) = [16, 8, 4, 0] := by decide

/-! ## Published answers of the functions the spec names -/

/-- The check value of CRC-32 (R87), and the field product of FIPS-197 section 4.2. -/
theorem test_crc32_and_gmul : crc32 (asciiBytes "123456789") = 0xCBF43926#32 ∧ gmul 0x57#8 0x83#8 = 0xC1#8 ∧ subByte 0x53#8 = 0xED#8 ∧
    invSubByte 0xED#8 = 0x53#8 := by decide +kernel
/-- The zero vector of Philox-4×32-10 (R52). -/
theorem test_philox : philox 0#64 ⟨0#32, 0#32, 0#32, 0#32⟩ = ⟨0x6627E8D5#32, 0xE169C58D#32, 0xBC57AC4C#32, 0x9B00DBD8#32⟩ := by
  decide +kernel
/-- The vector of the SipHash-2-4 paper. -/
theorem test_siphash : sipHash 0x0F0E0D0C0B0A09080706050403020100#128 ((List.range 15).map (BitVec.ofNat 8)) = 0xA129CA6149BE45E5#64 := by
  decide +kernel

/-! ## Witnesses: states and operands that meet the hypotheses of each statement, clause by clause -/

/-! ### Every well-formed command is served on an Unsealed part whose clocks run -/

theorem on_pageLive (ps : List Nat) (p : Nat) : (on ps).pageLive p = pagePresent .irz4F p := by
  have h : (on ps).life = .unsealed := rfl
  have hp : (on ps).part = .irz4F := rfl
  simp [State.pageLive, h, hp]
theorem on_clockOk (ps : List Nat) (c : Clk) : (on ps).clockOk c = true := by cases c <;> simp [State.clockOk, State.clkUp, on, State.reset]
theorem on_serves (ps : List Nat) (c : Instr) (h : ∀ p, (Instr.needs .irz4F c).2 = some p → pagePresent .irz4F p = true) :
    (on ps).serves c = true := by
  have hp : (on ps).part = .irz4F := rfl
  unfold State.serves
  rw [hp]
  generalize hn : (Instr.needs .irz4F c).2 = n at h
  cases n with
  | none => simp [on_clockOk]
  | some p => simp [on_clockOk, on_pageLive, h p rfl]
theorem slot_pages : ∀ n, n < 256 → pagePresent .irz4F (0x100 + n) = true := by decide
theorem beacon_pages : ∀ n, n < 16 → pagePresent .irz4F (0x060 + n) = true := by decide
theorem mem_pages : ∀ n, n < 16 → pagePresent .irz4F (pgMem n) = true := by decide
theorem lane_pages : ∀ n, n < 64 → pagePresent .irz4F (pgMerge n) = true := by decide
theorem fixed_pages : ∀ p ∈ [pgDir, pgStep, pgSched, pgTide, pgTrain, pgIntake, pgHost, 0x030, pgLink 0, pgCache, pgSec, pgRel, pgCtl, pgRst],
    pagePresent .irz4F p = true := by decide
/-- On an Unsealed IRZ-4F whose clocks run, every well-formed command is served: the premise every completion carries. -/
theorem test_witness_serves (ps : List Nat) (c : Instr) (h : c.wf .irz4F = true) : (on ps).serves c = true := by
  apply on_serves
  intro p hp
  cases c <;> simp only [Instr.needs, Option.some.injEq, reduceCtorEq] at hp
  all_goals subst hp
  all_goals first
    | exact fixed_pages _ (by decide)
    | exact slot_pages _ (by omega)
    | exact beacon_pages _ (by omega)
    | exact mem_pages _ (by omega)
    | exact lane_pages _ (by omega)
    | simp_all [Instr.wf]
theorem test_witness_not_served : ({ on [] with clkmon := 1#10 } : State).serves (.stepForm 0#8) = false ∧
    ({ on [] with lc := 0b11111#5 } : State).serves (.dirRead 1#16) = false := by decide

theorem test_witness_step_front : ({ State.reset with pending := [.rstCold] } : State).pending = .rstCold :: [] := by decide
theorem test_witness_idle : (on []).pending = [] ∧ (on []).phase ≠ 1#4 ∧ (on []).clkUp 0 = true ∧ State.reset.pending = [] ∧
    State.reset.phase = 1#4 ∧ ({ on [] with clkmon := 1#10 } : State).clkUp 0 = false := by decide
theorem test_witness_frame : exec .powerOnReset State.reset = .next (State.reset.coldReset 0) := rfl
theorem test_witness_ranged_register : ∃ r ∈ rangedRegs .irz4F, r.page = pgPwr ∧ r.off = 0x040 ∧ (on []).pageLive r.page = true ∧
    r.legal 100#32 = true ∧ r.legal 1200#32 = true ∧ r.legal 99#32 = false ∧ r.legal 1201#32 = false :=
  ⟨_, List.mem_append_right _ (.head _), rfl, rfl, by decide, by decide, by decide, by decide, by decide⟩
theorem test_witness_refused_access :
    (1#22).toNat % 4 ≠ 0 ∧ (0x12000#22).toNat < 0x200000 ∧ (pageKind ((0x12000#22).toNat / 0x1000)).isNone = true ∧
    (0x1FFFFC#22).toNat % 4 = 0 ∧ (0x1FFFFC#22).toNat < 0x200000 ∧ (0x200000#22).toNat % 4 = 0 ∧
    0x200000 ≤ (0x200000#22).toNat ∧ (on []).viewOk 0 ((0x200000#22).toNat - 0x200000) true = false ∧
    (0x20C040#22).toNat % 4 = 0 ∧ (on []).viewOk 0 ((0x20C040#22).toNat - 0x200000) false = false := by decide
theorem test_witness_access_types : pageHeader 0x004 = true ∧ (on []).pageLive 0x004 = true ∧ (on []).pageLive pgPwr = true ∧
    regInfo pgPwr 0x04C = none ∧ isCounterLo (regAt pgPwr 0x04C - 4) = false ∧ (on []).pageLive pgDir = true ∧
    (∃ x ∈ goWords 1#16 0#8, x.cmd = .dirRead 1#16 ∧ (on []).serves x.cmd = true) ∧ ((on []).rd pgDir 0x044).getLsbD 4 = false ∧
    (({ on [] with regs := [(regAt pgDir 0x044, 16#32)] } : State).rd pgDir 0x044).getLsbD 4 = true ∧ (0x80000000#32).getLsbD 31 = true := by
  refine ⟨by decide, by decide, by decide, by decide, by decide, by decide, ⟨_, .head _, rfl, by decide⟩, by decide, by decide, by decide⟩
theorem test_witness_header_commands : pageHeader 0x05F = true ∧ (on []).pageLive 0x05F = true ∧
    (0x200#21).toNat % 8 = 0 ∧ isCounterLo (0x200#21).toNat = true ∧ (on []).pageLive ((0x200#21).toNat / 0x1000) = true ∧
    (on []).pageLive pgPwr = true ∧ (on []).pageLive pgSched = true ∧ (on []).pageLive pgStep = true := by decide
theorem test_witness_beacons :
    ((on []).beacon 16383).count = 0#24 ∧ (1#24 : BitVec 24) ≠ 0#24 ∧
    (1#24).toNat ≤ (({ on [] with beacons := [(0, { count := 1#24 })] } : State).beacon 0).count.toNat ∧
    (({ on [] with beacons := [(0, { count := 1#24 })] } : State).beacon 0).count ≠ 0#24 ∧
    ((on []).beacon 0).count.toNat < (1#24).toNat := by decide

/-- The directory states of the clauses. -/
def entryIn (st : DirState) : State := withEntry { st := st, fmt := 2#4 }

theorem test_witness_directory : (on [pgDir]).running pgDir = true ∧ (1#16 : BitVec 16) ≠ 0#16 ∧
    ((on [pgDir]).entry 1).st = .free ∧ ((entryIn .ready).entry 1).st = .ready ∧ ((entryIn .ready).entry 1).trained = false ∧
    ((entryIn .staged).entry 1).st = .staged ∧ ((entryIn .staged).entry 1).spanBroken = false ∧
    ((entryIn .staging).entry 1).st = .staging ∧ ((entryIn .retiring).entry 1).st ≠ .free ∧
    ((entryIn .loading).entry 1).st ≠ .free ∧ imgReserved (entryIn .ready).dirImg = false ∧
    bitsOf (imgWord (entryIn .ready).dirImg 0) 11 10 ≤ 1 ∧ (entryIn .ready).running pgDir = true := by decide
/-- A DIR image that CREATE accepts: BF16, no ranks, model 0. -/
def createReady : State := { on [pgDir] with regs := [(regAt pgDir 0x080, 0x2000#32)], models := [(0, { loaded := true })] }

/-- A pair whose first part is a is (a, e) for some e. -/
theorem pair_of {α β : Type} (x : α × β) (a : α) (h : x.1 = a) : ∃ e, x = (a, e) := ⟨x.2, by cases x; cases h; rfl⟩

theorem test_witness_directory_create : (createReady.entry 1).st = .free ∧ ∃ e, createReady.createCheck 1 createReady.dirImg = (0, e) :=
  ⟨by decide, pair_of _ _ (by decide)⟩
theorem test_witness_directory_refusals : State.reset.running pgDir = false ∧
    ((withEntry { st := .ready, trained := true }).entry 1).trained = true ∧
    (withEntry { st := .staged, postmark := 0x7FFFFFFF#32 }).running pgDir = true ∧
    ((withEntry { st := .staged, postmark := 0x7FFFFFFF#32 }).entry 1).spanBroken = true ∧
    ((withEntry { st := .staged, postmark := 0x7FFFFFFE#32 }).entry 1).spanBroken = false := by decide

/-- A STEP unit that serves, with a good job image in STEP_JIMG and a loaded model 0. -/
def jobReady : State :=
  { on [pgStep] with
    tablesBad := false, models := [(0, { loaded := true })]
    regs := [(regAt pgStep 0x084, 0x100#32), (regAt pgStep 0x090, 8#32), (regAt pgStep 0x094, 0x10001#32)] }

theorem test_witness_job_commands : jobReady.stepUp = true ∧ (jobReady.job 0).st = 0#2 ∧
    jobReady.openCode 0 { img := jobReady.jobImg } = 0 ∧
    (on [pgStep]).stepUp = false ∧ (withJob {}).openCode 0 { img := (withJob {}).jobImg } ≠ 0 ∧ (withJob {}).stepUp = true ∧
    (({ jobReady with jobs := [(0, { st := 1#2, img := jobReady.jobImg })] } : State).job 0).st = 1#2 ∧
    imageOk { st := 1#2, img := jobReady.jobImg } = true := by decide
theorem test_witness_job_close_ends : ((withJob { st := 2#2 }).job 0).st = 2#2 ∧ ((withJob { st := 2#2 }).job 0).cur = none ∧
    ((withJob { st := 2#2 }).job 0).outQ = [] ∧
    ((withJob { st := 2#2 }).jobSlots 0).all (fun q => !((withJob { st := 2#2 }).slot q).alive) = true := by decide
theorem test_witness_slot_commands : ((withSlot {}).slot 0).own = false ∧ ((withSlot { cmd := 1#3 }).slot 0).cmd = 1#3 ∧
    ((withSlot { st := .held }).slot 0).cmd ≠ 1#3 ∧ ((withSlot { st := .held }).slot 0).st ≠ .idle ∧
    ((withSlot { st := .decode }).slot 0).active = true ∧ ((withSlot { st := .paused }).slot 0).st = .paused ∧
    ((withSlot {}).slot 0).active = false ∧ ((withSlot {}).slot 0).st ≠ .paused := by decide
theorem test_witness_posting_refused : ((withSlot { st := .posted }).slot 0).st = .posted ∧
    ((withSlot { st := .posted }).slot 0).pendingEnd = none ∧ (withSlot { st := .posted }).postReason 0 = 0x07 ∧
    (withSlot { st := .posted }).slotJob 0 = some 0 ∧
    (withSlot { st := .posted }).postReason 16 = 0x0B ∧
    ({ on [] with slots := [(0, { st := .posted })] } : State).postReason 0 = 0x0C := by decide
theorem test_witness_ends :
    (withSlot { st := .held, cmd := 1#3 }).slotJob 0 = some 0 ∧ ((withSlot { st := .held, cmd := 1#3 }).slot 0).cmd = 1#3 ∧
    ((withSlot { st := .held, cmd := 1#3 }).slot 0).pendingEnd = none ∧
    ((withSlot { st := .paused, cmd := 3#3 }).slot 0).cmd = 3#3 := by decide
theorem test_witness_deadline :
    let s := { withSlot { st := .held } with regs := [(slotAt 0 0x4C, 2#32), (slotAt 0 0x50, 1#32)], lcount := 2#64 }
    s.slotJob 0 = some 0 ∧ (s.slot 0).pendingEnd = none ∧ (s.slot 0).st = .held ∧ (s.req 0).hard = true ∧
      ∃ d, s.due 0 = some d ∧ d < s.lcount.toNat :=
  ⟨by decide, by decide, by decide, by decide, 1, by decide, by decide⟩
theorem test_witness_expired :
    let s := withSlot { st := .paused, parkAt := some 0#64 }
    s.slotJob 0 = some 0 ∧ (s.slot 0).st = .paused ∧ (s.slot 0).spilled = false ∧ (s.slot 0).cmd ≠ 3#3 ∧
      ∃ p, (s.slot 0).parkAt = some p ∧ p.toNat + (s.req 0).pauseTtl ≤ s.lcount.toNat :=
  ⟨by decide, by decide, by decide, by decide, 0#64, by decide, by decide⟩
theorem test_witness_out_of_step_record :
    let s := { withSlot { st := .held, pendingEnd := some { reason := 2#8 } } with
      jobs := [(0, { st := 1#2, img := serveImg ++ [0x100000#32], outQ := [0#12] })] }
    (s.job 0).outQ = 0#12 :: [] ∧ s.running pgHost = true ∧ s.writeQ = [] ∧ s.hostWrites = [] ∧ s.clkUp 2 = true ∧
    (s.job 0).ringBase + 128 ≤ (s.job 0).prodAddr ∧ ((s.job 0).reserved : Int) < (s.job 0).room ∧
    (s.slot 0).pendingEnd = some { reason := 2#8 } ∧ (s.slot 0).lost = false ∧ Memory.wf s.host = true ∧
    ((s.job 0).prod - 0#32).toNat ≤ 2 ^ (s.job 0).ringLog2 ∧ ((s.job 0).prod - (-256#32)).toNat ≤ 2 ^ (s.job 0).ringLog2 ∧
    2 ^ (s.job 0).ringLog2 < ((s.job 0).prod - (-257#32)).toNat := by decide

/-- A step in flight of one row, at position 0 of slot 0. -/
def oneRow : Step :=
  { num := 0#64, tForm := 0#64, model := 0#8, gen := 0#32, snaps := [], named := []
    rows := [{ slot := 0#12, pos := 0#22, tok := 0#24, draws := true, gen := true, rung := 0#2 }] }

/-- Job 0 with that step in flight, the array declared for 16 commands in BF16 beats, all its lanes RUNNING. -/
def stepping : State :=
  { on [pgStep, pgHost, pgArray, pgSched, pgSlice 0] with
    tablesBad := false, jobs := [(0, { st := 1#2, img := serveImg, cur := some oneRow })]
    decl := { State.reset.decl with nArray := 16#8, beat := 2#4, xFmt := 2#4 }
    models := [(0, { loaded := true, desc := zeroBytes 64 ++ [0x40#8] })], lanes := [(0, { st := .running })] }

/-- A router pass of row 0. -/
def aCmd : ArrayCmd := { job := 0#8, pass := 9#4, proj := 0#4, layer := 0#7, expert := 0#8, rows := [0#16], maps := [] }

/-- That command, ready, granted or issued. -/
def inStage (g : CmdStage) : State :=
  { stepping with cmds := [{ key := 0, arr := aCmd, step := 0#64, stage := g, shares := [⟨0, 5#32, 1, 0⟩], hold := 100000 }] }

/-- The step once that command is submitted. -/
def subRow : Step := { oneRow with subs := [{ pass := 9, proj := 0, group := 0, expert := 0, rows := [0] }] }

theorem test_witness_grant : (stepping.submit [aCmd]).cmds.find? (fun c => c.stage = .ready) = some { key := 0, arr := aCmd, step := 0#64 } ∧
    (stepping.submit [aCmd]).cmdStep { key := 0, arr := aCmd, step := 0#64 } = some subRow ∧
    (((stepping.submit [aCmd]).takeLanes 0 aCmd 0#64 ((stepping.submit [aCmd]).cmdBeats aCmd subRow)
      (List.range (stepping.submit [aCmd]).part.nLanes)).isSome = true) := by decide
theorem test_witness_grant_none :
    ({ stepping with lanes := [] } : State).takeLane 0 aCmd 0#64 0 [(0, 0, false)] = none ∧ stepping.running pgArray = true ∧
    (on []).running pgArray = false := by decide
theorem test_witness_issue : (inStage .granted).cmds.find? ((inStage .granted).issueOk (inStage .granted).placedMap) =
      (inStage .granted).cmds.head? ∧ (inStage .granted).running pgArray = true ∧ (inStage .granted).clkUp 1 = true ∧
    (List.range 256).find? (fun i => !((inStage .granted).idsOut.any fun x => x.toNat = i)) = some 0 ∧
    (inStage .granted).idsOut.length < (inStage .granted).decl.nArray.toNat ∧
    (on []).decl.nArray.toNat ≤ (on []).idsOut.length ∧ 7#8 ∈ ({ inStage .granted with late := [7#8] } : State).late := by decide
theorem test_witness_done : (inStage .issued).outstanding.find? (fun c => c.id = 0#8) = (inStage .issued).cmds.head? ∧
    (inStage .issued).outstanding.find? (fun c => c.id = 1#8) = none ∧ (inStage .issued).clkUp 1 = true := by decide
theorem test_witness_drop : (inStage .ready).cmds.find? (fun c => c.stage = .ready) = (inStage .ready).cmds.head? ∧
    (inStage .ready).holdLimit ≤ 100000 ∧ ((inStage .ready).job 0).cur = some oneRow ∧ aCmd.rows ≠ [] := by decide

/-- Lane 0 with a live delta beat of tag 5 in pigeonhole 0, filled. -/
def beatLane : Lane :=
  { st := .running, ledger := [(5, { tag := 5#32, cmd := 0, delta := true, ph := 0 })]
    phs := [(0, { tag := 5#32, filled := true, reserved := true })] }

def beatState (v : Lane) : State := { inStage .issued with lanes := [(0, v)], lcount := 100000#64 }

theorem test_witness_beat : (beatState beatLane).clkUp 1 = true ∧ (beatState beatLane).laneUp 0 = true ∧
    ((beatState beatLane).lane 0).missq.length < 64 ∧ tagParityOk 5#32 0#4 = true ∧ tagParityOk 5#32 1#4 = false ∧
    tget? ((beatState beatLane).lane 0).ledger 5 = some { tag := 5#32, cmd := 0, delta := true, ph := 0 } ∧
    (beatState beatLane).cmdOf 0 = (beatState beatLane).cmds.head? ∧
    ((inStage .issued).cmds.map fun c => c.share 0) = [some ⟨0, 5#32, 1, 0⟩] ∧ ((beatState beatLane).lane 0).st = .running ∧
    tget? ((beatState {}).lane 0).ledger 5 = none ∧ (beatState {}).laneUp 31 = true ∧
    tget? ((beatState beatLane).lane 0).ledger ((4101#32).toNat % 4096) = some { tag := 5#32, cmd := 0, delta := true, ph := 0 } ∧
    (tget {} ((beatState beatLane).lane 0).phs 0).filled = true := by decide
/-- Lanes in DRAINING and in FAULT, one whose pigeonhole is not filled, and one whose miss queue is full. -/
theorem test_witness_beat_missed :
    ((beatState { beatLane with st := .draining }).lane 0).disSeen = false ∧
    ((beatState { beatLane with st := .fault, metErr := some 0#64 }).lane 0).metErr ≠ some (beatState beatLane).lcount ∧
    (tget {} ((beatState { beatLane with phs := [] }).lane 0).phs 0).filled = false ∧
    64 ≤ ((beatState { beatLane with missq := List.replicate 64 ⟨5#32, .absent⟩ }).lane 0).missq.length := by decide
theorem test_witness_absent : ((inStage .issued).cmds.map (·.stage)) = [.issued] ∧
    ((inStage .issued).cmds.map (·.issueAt.toNat)) = [0] ∧
    ((beatState beatLane).rd (pgMerge 0) 0x040).toNat ≤ (beatState beatLane).lcount.toNat ∧
    ((beatState { missq := [⟨5#32, .absent⟩] }).lane 0).missq = [⟨5#32, .absent⟩] ∧
    ((beatState { loRead := true, latched := some ⟨5#32, .absent⟩ }).lane 0).loRead = true ∧
    ((beatState {}).lane 0).loRead = false ∧ MissReason.absent.fails = true ∧ MissReason.stray.fails = false ∧
    (beatState beatLane).rowOfTag 0 5#32 = some (0, 0) := by decide
theorem test_witness_lanes : (beatState beatLane).laneUp 0 = true ∧ ((beatState beatLane).lane 0).st ≠ .fault ∧
    ((beatState { st := .draining }).lane 0).st = .draining ∧ ((beatState { st := .draining }).lane 0).ledger = [] ∧
    ((beatState { crossing := [⟨0, 5#32, 0#1024⟩] }).lane 0).crossing = [⟨0, 5#32, 0#1024⟩] ∧
    ((beatState { returning := [0] }).lane 0).returning = [0] ∧
    ({ on [] with landUse := [⟨0, 128, 0#8, 0#64⟩] } : State).landIdle ⟨0, 128, 0#8, 0#64⟩ = true ∧
    (beatState beatLane).log.length < 1024 ∧
    ({ beatState beatLane with landUse := [⟨0, 128, 0#8, 0#64⟩] } : State).landIdle ⟨0, 128, 0#8, 0#64⟩ = false := by decide

/-! ### Forms -/

/-- A vector form of a kind, on row 0 of job 0's step. -/
def vec (k : VecKind) : VecDesc :=
  { kind := k, crcOk := true, berth := true, job := 0#8, step := 0#32, layer := 0#7, expert := 0#8, sel := 1#2, rows := [0#16],
    src := 0#27, src2 := 0#27, dst := 0#27, stride := 0#24, dstStride := 0#24 }

/-- An intake form of no rows. -/
def anIntake : IntakeDesc :=
  { op := .layout, crcOk := true, berth := true, job := none, adapter := 0#16, srcFmt := 2#8, comp := 0#4, dstFmt := 2#4, rows := 0,
    cols := 0, src := 0#64, storedLen := 0, src2 := 0#40, colsB := 0, dst := 0#40, dst2 := 0#40 }

/-- Form 0, placed on core 0. -/
def placed (d : FormDesc) : State :=
  { stepping with forms := [(0, { desc := d, core := 0, berth := some false, at_ := 0#64, job := some 0#8 })] }

/-- A raw descriptor of a code, for one row of job 0's step, its row list at landing address 0. -/
def raw (code : Nat) : BitVec 512 := BitVec.ofNat 512 (code + 2 ^ 64)

theorem test_witness_placement : (stepping.formStep (.vec (vec .norm))).isSome = true ∧ descBad (.vec (vec .norm)) = false ∧
    stepping.planned (.vec (vec .norm)) = true ∧ stepping.inputsIn (.vec { vec .norm with sel := 0#2 }) = true ∧
    stepping.stagedRight (.vec (vec .norm)) 0 = true ∧ stepping.planned (.vec { vec .norm with rows := [1#16] }) = false ∧
    stepping.inputsIn (.vec (vec .norm)) = false ∧ stepping.placeHeld (.vec (vec .norm)) = false ∧ stepping.findCore (.vec (vec .norm)) none = some (0, some false) ∧
    ({ stepping with hdrs := [] } : State).findCore (.vec (vec .norm)) none = none ∧
    descBad (.vec { vec .norm with crcOk := false }) = true ∧ stepping.formRows (.vec (vec .norm)) = [0] ∧
    emptySum (.vec (vec .norm)) = false ∧ emptySum (.raw (raw 0x11)) = true ∧ stepping.goesLater (.vec (vec .norm)) = false ∧
    stepping.chargeTo (.vec (vec .norm)) = .vec (vec .norm) ∧ stepping.chargeTo (.intake anIntake) = .intake anIntake := by decide
theorem test_witness_raw_forms : ∀ code ∈ [0x10, 0x11, 0x20, 0x21, 0x22, 0x40, 0x41, 0x42, 0x43, 0x44, 0x45, 0x50],
    (placed (.raw (raw code))).formAt 0 = some { desc := .raw (raw code), core := 0, berth := some false, at_ := 0#64, job := some 0#8 } ∧
    dForm (raw code) = code ∧ (placed (.raw (raw code))).formStep (.raw (raw code)) = some (0, oneRow) ∧
    rising (placed (.raw (raw code))).forms = true := by decide
theorem test_witness_vec_forms : ∀ k ∈ [VecKind.norm, .rotary, .resid, .act, .route, .sample],
    (placed (.vec (vec k))).formAt 0 = some { desc := .vec (vec k), core := 0, berth := some false, at_ := 0#64, job := some 0#8 } ∧
    (vec k).kind = k ∧ (placed (.vec (vec k))).formStep (.vec (vec k)) = some (0, oneRow) ∧
    rising (placed (.vec (vec k))).forms = true ∧ (vec k).rows.map (·.toNat) = [0] ∧ 0 < oneRow.rows.length ∧
    (oneRow.row 0).draws = true := by decide
theorem test_witness_one_row_tiles : (placed (.raw (raw 0x43))).formRows (.raw (raw 0x43)) = [0] ∧
    (placed (.raw (raw 0x44))).formRows (.raw (raw 0x44)) = [0] ∧ (deltaDesc (raw 0x44)).bvec = 0 ∧
    (deltaDesc (raw 0x44)).vocab = false ∧ (deltaDesc (raw 0x44)).proj < 4 ∧
    ((placed (.raw (raw 0x43))).targetOf (oneRow.row 0) 0).1 = none ∧
    (deltaDesc (BitVec.ofNat 512 (0x44 + 2 ^ 64 + 2 ^ 464))).bvec = 1 := by decide
def tenantKeys : Tab KeySlot := [(0, ⟨ownerTenant 0, 0#256, 0#256, 0#256, 0#256, 0#256, 0#256, 0#256⟩)]
/-- The LOSS form's row with the label word w, enciphered in host memory under its tenant's key. -/
def labelled (w : W) : State :=
  { placed (.raw (raw 0x43)) with
    keys := tenantKeys
    host := mwrite [] 0 (ctrXor 0#256 0 (ctrHi 4) 0 (leBytes 4 w.toNat)) }
theorem ctrXor_twice (key : BitVec 256) (lo : Nat) (hi : Nat → Nat) (off : Nat) (bs : List Byte) :
    ctrXor key lo hi off (ctrXor key lo hi off bs) = bs := by
  apply List.ext_getElem (by simp [ctrXor])
  intro i h1 h2
  simp [ctrXor, BitVec.xor_comm]
theorem tenantKeys_zero : ((tenantKeys.find? fun (_, k) => k.owner == ownerTenant 0).map (·.1)).bind (tget? tenantKeys) =
    some ⟨ownerTenant 0, 0#256, 0#256, 0#256, 0#256, 0#256, 0#256, 0#256⟩ := by decide
theorem labelled_req (w : W) : (labelled w).req 0 = (on []).req 0 := rfl
theorem labelled_word (w : W) : (labelled w).labelWord ((labelled w).req 0) 0 = some (BitVec.ofNat 32 (ofLe (leBytes 4 w.toNat))) := by
  have h1 : ((labelled w).tenantSlot ((labelled w).req 0).tenant).bind (tget? (labelled w).keys) =
      some ⟨ownerTenant 0, 0#256, 0#256, 0#256, 0#256, 0#256, 0#256, 0#256⟩ := by
    rw [labelled_req, show ((on []).req 0).tenant = 0 by decide]
    exact tenantKeys_zero
  have h2 : (labelled w).hostRead (((labelled w).req 0).labelAddr + 4 * 0) 4 =
      some (ctrXor 0#256 0 (ctrHi 4) 0 (leBytes 4 w.toNat)) := by
    have := mread_mwrite_same [] 0 (ctrXor 0#256 0 (ctrHi 4) 0 (leBytes 4 w.toNat)) rfl
    rw [show (ctrXor 0#256 0 (ctrHi 4) 0 (leBytes 4 w.toNat)).length = 4 by simp [ctrXor, leBytes]] at this
    rw [labelled_req, show ((on []).req 0).labelAddr + 4 * 0 = 0 by decide]
    rw [State.hostRead, if_pos (show (labelled w).clkUp 2 = true from by show (on []).clkUp 2 = true; decide)]
    exact congrArg some this
  have h3 : ((labelled w).req 0).reqId = 0 := by rw [labelled_req]; decide
  simp only [State.labelWord, State.tenantWord, State.tenantIn, h1, h2, h3, Option.map_some, ctrXor_twice]
/-- A label of token 3, and an invalid one. -/
theorem test_witness_label : (labelled 0x80000003#32).targetOf (oneRow.row 0) 64 = (some 3, false) ∧
    ((labelled 3#32).targetOf (oneRow.row 0) 64).1 = none := by
  constructor <;> unfold State.targetOf
  · rw [show (oneRow.row 0).slot.toNat = 0 from rfl, show (oneRow.row 0).pos.toNat = 0 from rfl, labelled_word]; decide
  · rw [show (oneRow.row 0).slot.toNat = 0 from rfl, show (oneRow.row 0).pos.toNat = 0 from rfl, labelled_word]; decide
theorem test_witness_battn :
    (((((placed (.raw (raw 0x45))).translateKv (.raw (raw 0x45)) 0 (attnDesc (raw 0x45))).markRows 0 (oneRow.rowsAt 0 0 1) 0 (.battn 0)).job 0).cur).isSome =
      true := by decide
theorem test_witness_intake_form : (placed (.intake anIntake)).formAt 0 =
      some { desc := .intake anIntake, core := 0, berth := some false, at_ := 0#64, job := some 0#8 } ∧
    rising (placed (.intake anIntake)).forms = true := by decide
theorem test_witness_form_faults : (placed (.vec (vec .norm))).serving 0 = some 0 ∧
    (placed (.vec (vec .norm))).servedBy 0 = some 0 ∧ ((placed (.vec (vec .norm))).core 0).st = .inService ∧
    32 * bitsOf ((placed (.vec (vec .norm))).rd pgSched 0x058) 16 0 < 3200001 := by decide

/-! ### Steps -/

/-- Job 0, OPEN with fixed batching and one DECODE request in slot 0, its model resident and bound to pool 0. -/
def forming (j : Job) : State :=
  { withSlot { own := true, st := .decode } with
    hdrs := [pgStep, pgHost, pgCache, pgSamp].map fun p => (p, { st := .running })
    jobs := [(0, { j with st := 1#2, img := 8#32 :: serveImg.drop 1 })], models := [(0, { loaded := true })]
    modelRes := [{ valid := true }, {}]
    regs := [(regAt pgCache 0x100, 0x80000000#32), (regAt pgCache 0x108, 4#32), (regAt pgCache 0x180, 0#32)] }

theorem test_witness_step_form : (forming { batchPend := true, batch := [0#12] }).grantable 0 = true ∧
    (forming { batchPend := true, batch := [0#12] }).poolGood 0 = some 0 ∧
    (forming { batchPend := true, batch := [0#12] }).jobNdev 0 ≤ 1 ∧
    (((forming { batchPend := true, batch := [0#12] }).choose 0 0 0#32).2.1.length = 1) ∧
    ((2 : Nat) : Int) ≤ ((forming { batchPend := true, batch := [0#12] }).job 0).room ∧
    ((forming { batchPend := true, prod := 255#32 }).job 0).room < ((2 : Nat) : Int) ∧
    (forming {}).grantable 1 = false ∧
    ((forming { batchPend := true, batch := [0#12] }).fitTests 0) = forming { batchPend := true, batch := [0#12] } := by decide
theorem test_witness_step_form_held :
    (forming { batchPend := true, batch := [0#12] }).formHeld
      ((forming { batchPend := true, batch := [0#12] }).choose 0 0 0#32).1 0
      ((forming { batchPend := true, batch := [0#12] }).choose 0 0 0#32).2.1 = false := by decide

/-- A batch list at host address 0 that names slot 0 of the job, for its step 0. -/
def batchHost : Mem := [(0, 1#8), (8, 0x48#8), (9, 0x03#8), (10, 0x48#8), (11, 0x0C#8)]

theorem test_witness_step_form_inputs :
    let s : State := { forming { batchPend := true, batch := [0#12] } with
      slots := [(0, { own := true, st := .decode, inAsked := true, inDue := 1 })] }
    s.grantable 0 = true ∧ (((s.fitTests 0).grantRows 0 0).askAll 0 true).inputsDue 0 = true ∧
    (((forming { batchPend := true, batch := [0#12] }).fitTests 0).askAll 0 true).inputsDue 0 = false := by decide
theorem test_witness_batch_go : ((forming {}).job 0).st = 1#2 ∧ ((forming {}).job 0).fixed = true ∧ (forming {}).stepUp = true ∧
    ((forming { batchPend := true }).job 0).batchPend = true ∧ ((forming {}).job 0).cur = none ∧
    ((forming {}).job 0).batchStage = 0 ∧ ((forming { batchStage := 1 }).job 0).batchStage ≠ 0 ∧ (on []).hostGoes = false ∧
    ((withJob { st := 1#2, img := serveImg }).job 0).fixed = false := by decide

/-- A GO whose list is being read: the read of tag 3 is the last of a stage; slot 0 has input to come. -/
def listing (stage : Nat) (use : HostUse) (h : Mem) : State :=
  { forming { batchStage := stage, batchDue := 1, batch := [0#12] } with
    host := h, hostReads := [(3, { use := use, addr := 0#64, beats := 1, at_ := 0#64 })]
    slots := [(0, { own := true, st := .decode, inAsked := true, inDue := if stage = 3 then 1 else 0 })] }

theorem test_witness_batch_list :
    let s := listing 2 (.batch 0#8 0#64) batchHost
    tget? s.hostReads (3#10).toNat = some { use := .batch 0#8 0#64, addr := 0#64, beats := 1, at_ := 0#64 } ∧
    (s.job 0).batchAt = 0#64 ∧ (s.job 0).batchDue = 1 ∧ s.clkUp 2 = true ∧ (s.job 0).batchStage = 2 ∧
    (s.setJob 0 { s.job 0 with batchDue := 0 }).batchListCode 0 = 0 ∧
    ({ s with host := [] } : State).batchListCode 0 ≠ 0 ∧ (({ s with host := [] } : State).batchList ({ s with host := [] }.job 0)).2.1 = [] := by
  decide
theorem test_witness_batch_passes :
    let s := listing 3 (.tenant 0#12 0#64) batchHost
    (s.slot 0).acceptAt = 0#64 ∧ (s.slot 0).inDue = 1 ∧ s.slotJob 0 = some 0 ∧ (s.job 0).batchStage = 3 ∧
    ((s.inputCame 0 0#64 true).slot 0).inDue = 0 ∧ (s.inputCame 0 0#64 true).batchCodeOf 0 = 0 ∧
    (({ s with host := [] } : State).inputCame 0 0#64 true).batchCodeOf 0 ≠ 0 := by decide
theorem test_witness_boundary : ((withJob {}).job 0).cur = none ∧ (stepping.job 0).cur = some oneRow ∧ oneRow.rowsOver = false ∧
    (stepping.job 0).isTrain = false ∧ ({ oneRow with rows := [{ oneRow.row 0 with done := true }] } : Step).rowsOver = true ∧
    stepping.beatsIn 0 oneRow = true ∧ stepping.running pgHost = true ∧
    ({ oneRow with rows := [{ oneRow.row 0 with fails := [0x14#8] }] } : Step).failCode 0#12 ≠ none ∧ oneRow.failCode 0#12 = none := by decide
theorem test_witness_boundary_ring :
    let n : Named := { slot := 0#12, rung := 0#2, forced := false, rows := 1, drafts := [] }
    let s : State := { stepping with jobs := [(0, { st := 1#2, img := serveImg ++ [0x100000#32], cur := some { oneRow with named := [n] } })] }
    Memory.wf s.host = true ∧ s.writeQ = [] ∧ s.hostWrites = [] ∧ s.clkUp 2 = true ∧ ([n].map (·.slot)).Nodup ∧
    (s.req 0).outAddr = 0 ∧ (s.req 0).probs = 0 ∧ (s.slot 0).cmd ≠ 2#3 ∧
    (s.job 0).ringBase + 128 * (((s.job 0).prod + 1#32).toNat % 2 ^ (s.job 0).ringLog2) + 128 ≤ (s.job 0).prodAddr ∧
    ([n].filter fun x => x.slot = n.slot) = [n] := by decide
theorem test_delivered_tokens :
    let n : Named := { slot := 0#12, rung := 0#2, forced := false, rows := 2, drafts := [7#24] }
    let r (i t : Nat) : Row := { oneRow.row 0 with pos := BitVec.ofNat 22 i, done := true, result := some (BitVec.ofNat 24 t, 0#32) }
    (({ oneRow with rows := [r 0 7, r 1 9] } : Step).drawn n []).map (·.1) = [7, 9] ∧
    (({ oneRow with rows := [r 0 8, r 1 9] } : Step).drawn n []).map (·.1) = [8] ∧
    (({ oneRow with rows := [r 0 7, r 1 9] } : Step).drawn n [0x80000007#32]).map (·.1) = [7] := by decide

/-! ### Scheduling -/

theorem test_witness_scheduler : (0x100#32).getLsbD 8 = true ∧ bitsOf (0x100#32) 5 0 = 0 ∧
    (on []).grpLegal 1 (0x01000002#32 &&& 0x01FFFF03#32) = true ∧ (on []).grpLegal 1 (0x01010003#32 &&& 0x01FFFF03#32) = false ∧
    (on []).lcount.toNat < (on []).periodAt.toNat + ((on []).rd pgSched 0x044).toNat ∧
    (on []).periodAt.toNat + ((on []).rd pgSched 0x044).toNat ≤ 16777216 := by decide
theorem test_witness_switch :
    let s := { forming {} with modelRes := [{}, {}], jobs := [(0, { (forming {}).job 0 with batchPend := true, batch := [0#12] })], models := [(0, { loaded := true })] }
    s.resident 0 = false ∧ (s.model 0).loaded = true ∧
      (s.jobs.any fun (k, j) => j.model == 0 && s.turnOf k && s.wouldForm k) = true ∧
      (∃ e ∈ s.modelRes, s.entryFree e = true) ∧
      ∀ e ∈ [({ valid := true } : ModelRes)], stepping.entryFree e = false := by decide
/-- A tide whose slot 0 is valid and has run. -/
def tidal : State :=
  { on [pgTide] with
    tideCur := { fields := { dur := 1000#32, job := 0#8, valid := true, mask := 1#20 }, windowOpen := true }, lcount := 1000#64 }

theorem test_witness_tide : (on []).tideLegal { dur := 1000#32, valid := true, mask := 1#20 } = true ∧
    (on []).tideLegal { dur := 999#32, valid := true, mask := 1#20 } = false ∧
    (on []).tideLegal (on []).tideImg = true ∧ (on []).running pgTide = false ∧ tidal.running pgTide = true ∧
    tidal.tideCur.start.toNat + tidal.tideCur.fields.dur.toNat ≤ tidal.lcount.toNat ∧ tidal.windowEndAt ≤ tidal.lcount.toNat ∧
    tidal.tideCur.windowOpen = true := by decide

/-! ### Training -/

/-- A step in flight whose row is over. -/
def overRow : Step := { oneRow with rows := [{ oneRow.row 0 with done := true }] }

/-- A train-mode job of the given image word 12 with its one row over, its training state as given. -/
def training (w : W) (t : Train) : State :=
  { on [pgStep, pgHost, pgTrain, pgLink 0] with
    tablesBad := false, lcount := 0x100000000#64
    jobs := [(0, { st := 1#2, img := trainImg.take 12 ++ [w], cur := some overRow, train := t })] }

/-- Image word 12 of devices 0 and 1 of two. -/
def dev0 : W := 0x200002#32
def dev1 : W := 0x200802#32

theorem test_witness_take : ({ withEntry { st := .ready } with
      hdrs := [pgDir, pgTrain].map fun p => (p, { st := .running }), jobs := [(0, { st := 1#2, img := trainImg })] } : State).acmdCode 0 1 1 = 0 ∧
    ({ withEntry { st := .ready, trained := true } with
      hdrs := [pgDir, pgTrain].map fun p => (p, { st := .running }), jobs := [(0, { st := 1#2, img := trainImg })] } : State).acmdCode 0 1 2 = 0 ∧
    (training dev0 {}).acmdCode 0 1 1 = 1 ∧ ((training dev0 { stuck := true }).job 0).train.stuck = true := by decide

/-- An allgather, started, of the step in flight of job 0. -/
def gathered (c : BitVec 8) (b : List Byte) : Coll :=
  { job := 0#8, step := 0#32, attempt := 0#4, coll := c, op := .allgather, started := true, mine := b }

theorem test_witness_exchange_begins : ((training 0x200001#32 {}).job 0).isTrain = true ∧
    ((training 0x200001#32 {}).job 0).train.exchDone = false ∧ ((training 0x200001#32 {}).job 0).train.linkFail = false ∧
    ((training 0x200001#32 {}).job 0).train.exch = 0 ∧
    (((training 0x200001#32 {}).job 0).cur.map fun st => (training 0x200001#32 {}).backDone 0 st) = some true ∧
    (training 0x200001#32 {}).coll? 0 0#32 0#4 0 = none := by decide
theorem test_witness_exchange_result :
    ([0, 1, 2].map fun i => ({ training 0x200001#32 { exch := i, updSet := [1#16] } with
      colls := [gathered (BitVec.ofNat 8 i) [2#8, 0#8, 0#8, 0#8]] } : State).collResult (gathered (BitVec.ofNat 8 i) [2#8, 0#8, 0#8, 0#8])) =
      List.replicate 3 (some [2#8, 0#8, 0#8, 0#8]) ∧
    ({ training 0x200001#32 {} with colls := [gathered 0#8 [2#8]] } : State).coll? 0 0#32 0#4 (collNum 0) = some (gathered 0#8 [2#8]) ∧
    (gathered 0#8 [2#8]).result = none ∧ fromBitmaps [2#8] = [1] := by decide
theorem test_witness_serve_collective :
    ({ stepping with colls := [gathered 0#8 [2#8]] } : State).stepKey 0 = (0#64, 0#4) ∧
    (stepping.job 0).isTrain = false ∧ ({ stepping with colls := [gathered 0#8 [2#8]] } : State).collResult (gathered 0#8 [2#8]) = some [2#8] ∧
    ({ stepping with colls := [gathered 0#8 [2#8]] } : State).coll? 0 0#32 0#4 0 = some (gathered 0#8 [2#8]) ∧
    (training dev0 {}).stepKey 0 = (0#64, 0#4) ∧ oneRow.rows ≠ [] ∧ (gathered 0#8 [2#8]).failed = false ∧
    (gathered 0#8 [2#8]).startAt.toNat + ((training dev0 {}).rd (pgLink 0) 0x088).toNat ≤ (training dev0 {}).lcount.toNat := by decide

/-- A step of a model over two devices whose gathers are over but for the logits, this rank's contribution sent, the other's
landed or not. -/
def sharing (l : List (Nat × Nat × List Byte)) : State :=
  { stepping with
    models := [(0, { loaded := true, nshards := 2#16, desc := zeroBytes 64 ++ [0x40#8] })]
    colls := [{ gathered 1#8 (zeroBytes 8) with landed := l }] }

theorem test_witness_gather : (sharing []).sharded 0 = true ∧
    ((sharing []).desc 0).gatherOf oneRow.gathered = some (0, 4) ∧ gatherNum oneRow.gathered = 1 ∧
    ((sharing []).colls.map fun v => (sharing []).gatherRows 0 oneRow 0 4 v) = [none] := by decide +kernel
theorem test_witness_gather_landed :
    ((sharing [(0, 2 ^ 26, zeroBytes 8)]).colls.map fun v =>
      (sharing [(0, 2 ^ 26, zeroBytes 8)]).gatherRows 0 oneRow 0 4 v) = [some [[(0, [])], [(0, [])]]] := by decide +kernel

/-- A device alone whose exchange gave adapter 1, which is its own, an element written or not. -/
def updating (u : List Upd) : State :=
  { training 0x200001#32 { exchDone := true, updSet := [1#16], upds := u } with
    dir := [(1, { st := .ready, fmt := 2#4, trained := true })] }

/-- An update of one element waiting for its ACK. -/
def anUpd : Upd := { adapter := 1#16, sent := true, nelem := 1 }

/-- Headers of a WRITE of element n and of an ACK of step 0, for adapter 1. -/
def writeHdr (n : Nat) : BitVec 256 := BitVec.ofNat 256 (10 + 2 ^ 88 * n + 2 ^ 120)
def ackHdr (step : Nat) : BitVec 256 := BitVec.ofNat 256 (11 + 2 ^ 19 * step)

theorem test_witness_grad : ((updating []).job 0).isTrain = true ∧ ((updating []).job 0).train.upd? 1 = none ∧
    ((updating []).entry 1).idlePin = 0#16 ∧ ((updating []).job 0).train.updSet = [1#16] := by decide
theorem test_witness_update_write :
    ((updating [anUpd]).updFor 1 0).map (fun x => (x.1, x.2.2)) = some (0, anUpd) ∧ bitsOf (writeHdr 0) 2 0 = 2 ∧
    bitsOf (writeHdr 0) 18 3 = 1 ∧ bitsOf (writeHdr 0) 83 83 = 0 ∧ bitsOf (writeHdr 0) 255 199 = 0 ∧
    bitsOf (writeHdr 0) 125 120 = 1 ∧ bitsOf (writeHdr 0) 119 88 = 0 ∧ bitsOf (writeHdr 1) 119 88 = 1 ∧
    ((updating [anUpd]).entry 1).fmt.toNat = 2 ∧ Memory.wf (updating [anUpd]).mem = true ∧ (updating []).updFor 1 0 = none ∧
    ((updating [{ anUpd with written := [(0, 0#32)] }]).updFor 1 0).isSome = true ∧ bitsOf (0#256) 2 0 ≠ 2 := by decide
theorem test_witness_train_part : (updating []).part.hasTrain = true ∧ ({ updating [] with part := .irz4FS } : State).part.hasTrain = false := by
  decide
theorem test_witness_update_ack : bitsOf (ackHdr 0) 2 0 = 3 ∧ bitsOf (ackHdr 0) 18 3 = 1 ∧ bitsOf (ackHdr 0) 83 83 = 0 ∧
    bitsOf (ackHdr 0) 255 199 = 0 ∧ bitsOf (ackHdr 0) 82 19 = 0 ∧ bitsOf (ackHdr 2) 82 19 = 2 ∧ bitsOf (ackHdr 2) 83 83 = 0 ∧
    ((updating [anUpd]).job 0).train.upd? 1 = some anUpd ∧
    anUpd.endAt.toNat + ((updating [anUpd]).rd pgTrain 0x05C).toNat ≤ (updating [anUpd]).lcount.toNat := by decide

/-- A vote of a rank, with no reason. -/
def ready (r : Nat) : VoteRec := { rank := BitVec.ofNat 10 r, nan := false, reasons := 0#8 }

/-- A message for the step in flight, or for step n. -/
def ctrl (n : W) (m : CtrlMsg) : CtrlIn := { port := 0#3, job := 0#8, step := n, attempt := 0#4, src := 1#10, msg := m }

theorem test_witness_vote : ((training 0x200001#32 { exchDone := true }).job 0).train.mayVote = true ∧
    (training dev0 {}).backDone 0 overRow = true ∧
    ((training 0x200001#32 {}).job 0).ndev = 1 ∧ ((training dev1 {}).job 0).rank = 1 ∧ ((training dev1 {}).job 0).ndev = 2 ∧
    (training dev1 { exchDone := true, nanFlag := true }).voteReasons 0 oneRow ≠ 0#8 ∧
    (training dev1 { exchDone := true }).voteReasons 0 oneRow = 0#8 ∧ ((training dev0 {}).job 0).rank = 0 := by decide
theorem test_witness_rank0 : ({ votes := [ready 1, ready 0] } : Train).verdict 2 = some { commit := true, reasons := 0#8 } ∧
    ({ votes := [ready 0] } : Train).verdict 2 = none ∧
    (training dev0 { exchDone := true, votes := [ready 1] }).voteReasons 0 oneRow = 0#8 ∧
    ((training dev0 { exchDone := true, votes := [ready 1] }).job 0).train.mayVote = true := by decide
theorem test_witness_vote_frame :
    let s : State := { training dev0 { myVote := some (ready 0), votes := [ready 0] } with ctrlIn := [ctrl 0#32 (.vote (ready 1))] }
    s.ctrlIn.find? (fun m => m.job.toNat = 0 && m.msg.isVote && !s.ctrlWaits 0 m) = some (ctrl 0#32 (.vote (ready 1))) ∧
    (ctrl 0#32 (.vote (ready 1))).current oneRow = true ∧ ({ votes := [ready 1] } : Train).verdict 2 = none := by decide
theorem test_witness_vote_timeouts : ((training dev0 { myVote := some (ready 0) }).job 0).train.myVote = some (ready 0) ∧
    (training dev0 {}).running pgTrain = true ∧ 1 < ((training dev0 {}).job 0).ndev ∧
    ((training dev0 {}).rd pgTrain 0x054).toNat ≤ (training dev0 {}).lcount.toNat ∧
    ((training dev1 {}).rd pgTrain 0x058).toNat ≤ (training dev1 {}).lcount.toNat ∧ (ready 0).reasons = 0#8 ∧
    ((training dev1 { phase := 6#3 }).job 0).train.phase = 6#3 ∧ ((training dev1 {}).job 0).train.phase ≠ 6#3 := by decide
/-- A device at its second attempt that waits for a decision, with a message that came. -/
def deciding (c : CtrlIn) : State :=
  { training dev1 { myVote := some (ready 1), attempt := 1#4 } with ctrlIn := [c] }

/-- A decision, and its message for step n. -/
def commits : CtrlMsg := .decision { commit := true, reasons := 0#8 }

theorem test_witness_decision :
    (deciding (ctrl 0#32 commits)).ctrlIn.find? (fun m => m.job.toNat = 0 && m.msg.isDecision &&
      !(deciding (ctrl 0#32 commits)).ctrlWaits 0 m) = some (ctrl 0#32 commits) ∧
    (ctrl 0#32 commits).current oneRow = true ∧ (ctrl 0xFFFFFFFF#32 commits).current oneRow = false := by decide
theorem test_witness_decision_stale :
    (deciding (ctrl 0xFFFFFFFF#32 commits)).ctrlIn.find? (fun m => m.job.toNat = 0 && m.msg.isDecision &&
      !(deciding (ctrl 0xFFFFFFFF#32 commits)).ctrlWaits 0 m) = some (ctrl 0xFFFFFFFF#32 commits) := by decide
theorem test_witness_ask :
    (deciding (ctrl 0#32 (.ask 1#10))).ctrlIn.find? (fun m => m.job.toNat = 0 && m.msg.isAsk) = some (ctrl 0#32 (.ask 1#10)) := by
  decide

/-! ### Intake -/

/-- INTAKE and HOST RUNNING, all of the stacks one BASE region, model 1 loaded. -/
def taking (w : Wavefront) : State :=
  { on [pgIntake, pgHost] with
    regs := [(regAt (pgMem 0) 0x040, 1#32), (regAt 0x030 0x800, 0x80000000#32), (regAt 0x030 0x804, 0x10000000#32), (regAt 0x030 0x808, 1#32), (regAt pgIntake 0x05C, 1#32)]
    wf := w, models := [(1, { loaded := true })] }

theorem test_witness_intake_codes : (taking {}).loadCode 0 = 0 ∧ (taking {}).loadCode 1 = rBadState ∧ (taking {}).replaceCode 1 = 0 ∧
    (taking {}).unloadCode 1 = 0 ∧ (taking {}).running pgIntake = true ∧ (taking { st := .stalled }).wf.st = .stalled ∧
    (taking { st := .stalled, op := .replace }).wf.rollback = false := by decide
theorem test_witness_adapter_code :
    let s := { taking {} with
      dir := [(1, { st := .loading })], keys := [(0, ⟨ownerTenant 0, 0#256, 0#256, 0#256, 0#256, 0#256, 0#256, 0#256⟩)]
      regs := [(regAt (pgMem 0) 0x040, 1#32), (regAt 0x030 0x800, 0x80000000#32), (regAt 0x030 0x804, 0x10000000#32), (regAt 0x030 0x808, 0x17#32),
        (regAt pgIntake 0x090, 1#32)] }
    s.adapterCode 1 = 0 ∧ s.adapterCode 2 = rBadState := by decide

/-- A part 0 of model 0 at host address 0: one record at 0x400, the embedding of a vocabulary of one token. -/
def container : Mem :=
  [(0x00, 0x4E564E44#32), (0x04, 0x101#32), (0x0C, 7#32), (0x10, 0x10000#32), (0x14, 0x200#32), (0x18, 1#32), (0x28, 0xF9DDD6B4#32),
    (0x3C, 0xE490F1CE#32), (0x40, 0x10#32), (0x44, 3#32), (0x48, 1#32), (0x4C, 32#32), (0x50, 0x400#32), (0x58, 33#32),
    (0x60, 1#32), (0x64, 32#32), (0x68, 32#32), (0x6C, 1#32), (0x70, 0x101#32), (0x7C, 0x40000000#32), (0x15C, 0xB165E2E0#32)].foldl
    (fun m (a, w) => mwrite m a (leBytes 4 w.toNat)) []

/-- A wavefront over that container, its model's descriptor taken. -/
def loading (w : Wavefront) : State :=
  { taking w with
    host := container, decl := { State.reset.decl with rows := 32#13, cols := 1#13 }
    models := [(0, { desc := mread container 0x60 256, gen := 7#32 })] }

/-- A fetch came out well. -/
def good {α : Type} (x : Fetched α) : Bool := match x with | .ok _ => true | .error _ => false

theorem test_witness_part0 : good (loading { st := .checking, units := 3#32 }).checkPart0 = true ∧
    good (taking { st := .checking }).checkPart0 = false ∧ (taking { st := .checking }).running pgHost = true ∧
    (loading { st := .checking, units := 3#32, got := 4 }).waveRead = true ∧ (taking { st := .checking, got := 4 }).waveRead = true := by
  decide +kernel
theorem test_witness_station :
    let x := (loading { st := .advancing, gen := 7#32 }).prepare (loading { st := .advancing, gen := 7#32 }).wavePart0 0
      (decodeDesc ((loading {}).model 0).desc) false 0
    good x = true ∧ x.toOption.map (·.image.length) = some 33 ∧
    (loading { st := .advancing, gen := 7#32, got := 8 }).waveRead = true ∧ (loading { st := .advancing }).wf.errs 0 < 2 ∧
    (loading { st := .advancing }).wf.missing ≤ (loading { st := .advancing }).intakeRetry ∧
    ((loading { st := .advancing }).poke kBase none 0 (zeroBytes 33)).2 = false := by
  decide +kernel
theorem test_witness_station_stalls : (taking { st := .advancing }).wf.nextStation = some 0 ∧
    good ((taking { st := .advancing }).prepare (taking { st := .advancing }).wavePart0 0 (decodeDesc []) false 0) = false := by
  decide +kernel
theorem test_witness_copy : (loading { st := .advancing, buf0 := some 0 }).wf.buf 0 = some 0 ∧
    (loading {}).oldPassed 0 7#32 1 0 = true ∧ (loading {}).running pgIntake = true ∧ Memory.wf (loading {}).mem = true ∧
    ((loading { st := .advancing, buf0 := some 0 }).peek kBase none 0 33).unc = false := by decide +kernel
theorem test_witness_intake_read :
    let s (w : Wavefront) : State := { taking w with hostReads := [(3, { use := HostUse.intake, addr := 0#64, beats := 1, at_ := 0#64 })],
                                                     lcount := 0x100000000#64 }
    (s {}).intakeLate = some (3, { use := HostUse.intake, addr := 0#64, beats := 1, at_ := 0#64 }) ∧
    ((s {}).rd pgIntake 0x068).toNat ≤ (s {}).lcount.toNat ∧
    (s { missing := 15 }).intakeRetry < (s { missing := 15 }).wf.missing + 1 ∧
    (s { st := .advancing }).wf.buf (s { st := .advancing }).wf.w.toNat ≠ some (s { st := .advancing }).wf.w.toNat ∧
    (s { st := .advancing }).wf.errs 0 < 2 := by decide
theorem test_witness_intake_start :
    let i : AIntake := { adapter := 1#16, src := 0#64, work := 0#28, workUnits := 0#32, job := none }
    let s : State := { taking {} with intakes := [i] }
    s.intakes.filter (fun i => i.running || !i.stopped) = [] ++ i :: [] ∧ i.running = false := by decide
theorem test_witness_intake_complete :
    let i : AIntake := { adapter := 1#16, src := 0#64, work := 0#28, workUnits := 0#32, job := none, running := true }
    let s : State := { taking {} with intakes := [i], dir := [(1, { st := .loading })] }
    s.reading (.adapter 1#16) = false ∧ (s.adapterPieces i).length ≤ i.got ∧ s.running pgIntake = true ∧
    ({ s with hostReads := [(3, { use := .adapter 1#16, addr := 0#64, beats := 1, at_ := 0#64 })] } : State).reading (.adapter 1#16) = true ∧
    s.intakes.find? (fun i => i.adapter = 1#16 && i.running) = some i ∧ good (s.adapterSlot (s.entry 1) 0) = false ∧
      s.afaultq.length < 64 ∧ (List.replicate 64 ({ adapter := 0#16, reason := 0#4 } : AFault)).length = 64 := by decide

/-! ### Host port -/

/-- Host accesses outstanding: a read and a write of tag 3, and slot 0's parcel of page 0. -/
def waiting (u : HostUse) (w : Option (BitVec 12 × Nat)) (p : Parcel) : State :=
  { on [pgHost] with
    hostReads := [(3, { use := u, addr := 0#64, beats := 2, at_ := 0#64 })], hostWrites := [(3, { parcel := w, at_ := 0#64 })]
    slots := [(0, { parcels := [p] })], lcount := 0x100000000#64 }

theorem test_witness_host : ∀ p ∈ [({ page := 0, granule := 0, count := 2 } : Parcel)], (waiting .intake none p).clkUp 2 = true ∧
    Memory.wf (waiting .intake none p).host = true ∧ tget? (waiting .intake none p).hostReads 4 = none ∧
    tget? (waiting .intake none p).hostWrites 4 = none ∧ (tget? (waiting (.sec 0#2) none p).hostReads 3).map (·.use) = some (.sec 0#2) ∧
    (tget? (waiting (.sec 0#2) none p).hostWrites 3).map (·.parcel) = some none ∧
    ((waiting (.sec 0#2) none p).rd pgHost 0x044).toNat ≤ (waiting (.sec 0#2) none p).lcount.toNat := by decide
theorem test_witness_parcel_answer :
    (((waiting (.parcel 0#12 0) (some (0#12, 0)) { page := 0, granule := 0, count := 2, acked := true }).slot 0).parcels.find?
      (fun p => p.page = 0 && p.acked && !p.back)).isSome = true ∧
    128 < ({ page := 0, granule := 0, count := 2, acked := true } : Parcel).bytes ∧
    (waiting (.parcel 0#12 0) (some (0#12, 0)) { page := 0, granule := 0, count := 2, acked := true }).prAddr
      { page := 0, granule := 0, count := 2, acked := true } = 0 ∧
    (let s : State := { forming {} with slots := [(0, { own := true, st := .decode, inAsked := true, inDue := 2 })] }
     s.slotJob 0 = some 0 ∧ (s.slot 0).inDue ≠ 0 ∧ (s.job 0).batchStage ≠ 3 ∧ (s.slot 0).acceptAt = 0#64) ∧
    (let s : State := { forming {} with slots := [(0, { own := true, st := .paused, parcels := [{ page := 0, granule := 0, count := 2, acked := true }] })] }
     s.slotJob 0 = some 0 ∧ (s.slot 0).alive = true ∧ (s.slot 0).pendingEnd = none ∧
       ((s.slot 0).parcels.any fun p => p.page = 0 && !p.back) = true) ∧
    (((waiting (.parcel 0#12 0) (some (0#12, 0)) { page := 0, granule := 0, count := 2 }).slot 0).parcels.find?
      (fun p => p.page = 0 && !p.acked)).isSome = true := by decide

/-! ### Memory -/

/-- The stacks one BASE region, or one of another kind, the direct window enabled, and time gone by. -/
def stacked (kind : W) (v : Stack) : State :=
  { taking {} with
    hdrs := [pgHost, pgMem 0, pgMem 1].map fun p => (p, { st := .running }), lcount := 0x100000000#64, models := [], stk := [(0, v)]
    regs := [(regAt (pgMem 0) 0x040, 0x201#32), (regAt 0x030 0x800, 0x80000000#32), (regAt 0x030 0x804, 1#32), (regAt 0x030 0x808, kind),
      (regAt pgHost 0x040, 0x10000#32)] }

theorem test_witness_direct : ((stacked 1#32 {}).rd pgHost 0x040).getLsbD 16 = true ∧ (stacked 1#32 {}).running pgHost = true ∧
    0 + 128 ≤ (stacked 1#32 {}).top ∧ (stacked 1#32 {}).directWriteOk 0 128 = true ∧ (stacked 1#32 {}).directWriteOk 4096 128 = false ∧
    (stacked 1#32 {}).uncIn 0 128 = false ∧ ({ stacked 1#32 {} with uncorr := [0] } : State).uncIn 0 128 = true ∧
    (stacked 1#32 {}).hwQ = [] ∧ ((stacked 1#32 {}).stack 0).retrain = false ∧ ((stacked 1#32 { retrain := true }).stack 0).retrain = true ∧
    (stacked 1#32 {}).daccAddr = 0 ∧ (stacked 1#32 {}).directWriteOk 0 4 = true ∧ (on []).top = 0 := by decide +kernel
theorem test_witness_stack_read : 0 < (stacked 1#32 {}).top ∧ (stacked 1#32 {}).stackFault 0 = false ∧
    (stacked 1#32 {}).uncorr.contains 0 = false ∧ (stacked 1#32 {}).frameAt 0 = none ∧
    ({ stacked 1#32 {} with regs := [(regAt pgCache 0x100, 0x80000000#32), (regAt pgCache 0x104, 7#32), (regAt pgCache 0x108, 1#32),
      (regAt pgCache 0x10C, 1#32)] } : State).frameAt 4095 = some 7 ∧ uncorrectable 2 false = true ∧ uncorrectable 4 true = false ∧
    uncorrectable 1 false = false := by decide +kernel
theorem test_witness_patrol : 0 < (stacked 2#32 {}).part.nStacks ∧ (stacked 2#32 {}).running (pgMem 0) = true ∧
    ((stacked 2#32 {}).rd (pgMem 0) 0x040).getLsbD 9 = true ∧ (stacked 2#32 {}).patrolNext 0 = some 0 ∧
    0 + bitsOf ((stacked 2#32 {}).rd (pgMem 0) 0x050) 15 0 ≤ (stacked 2#32 {}).lcount.toNat ∧
    (stacked 2#32 {}).halvedAt.toNat + 2 ^ 30 ≤ (stacked 2#32 {}).lcount.toNat ∧
    (on []).lcount.toNat < (on []).halvedAt.toNat + 2 ^ 30 := by decide +kernel
theorem test_witness_stack_training : ((stacked 1#32 { retrain := true, fails := 2 }).stack 0).retrain = true ∧
    ((stacked 1#32 { retrain := true }).stack 0).fails < 2 ∧ (stacked 1#32 { retrain := true }).retraining = true ∧
    (stacked 1#32 {}).retraining = false ∧
    ((stacked 1#32 { retrain := true }).stack 0).trainAt.toNat + 4000 ≤ (stacked 1#32 {}).lcount.toNat ∧
    (stacked 1#32 {}).mayRetire 0 = true ∧ (stacked 1#32 { copying := true }).mayRetire 0 = false ∧
    ((stacked 1#32 { copying := true }).stack 0).copying = true ∧ 0 < (stacked 1#32 {}).pcUnits ∧
    (stacked 1#32 { copying := true, copyPtr := 0x3FFFFF#22 }).pcUnits ≤ 0x3FFFFF ∧ (stacked 1#32 {}).stackOf 0 = 0 ∧
    ((stacked 1#32 {}).region 0).valid = true ∧ ((stacked 1#32 {}).region 1).valid = false := by decide +kernel

/-! ### Links -/

/-- A frame of the low words and its CRC-32. -/
def frame (low crc : Nat) : BitVec 2336 := BitVec.ofNat 2336 (low + 2 ^ 2304 * crc)

/-- The first link port in a state, with a collective of job 0's next step known. -/
def linked (v : Port) : State := { on [] with ports := [(0, v)], colls := [gathered 0#8 []], lcount := 0x100000000#64 }

theorem test_witness_frames : 0 < (linked { st := .up }).part.nPorts ∧ ((linked { st := .up }).port 0).up = true ∧
    frameCrcOk (frame 3 0) = false ∧ frameCrcOk (frame (3 + 2 ^ 256) 0x513591D2) = true ∧
    (frameHdr (frame (3 + 2 ^ 256) 0x513591D2)).type = tCtrl ∧ (frameHdr (frame (3 + 2 ^ 256) 0x513591D2)).seq = 0 ∧
    ofLe ((framePayload (frame (3 + 2 ^ 256) 0x513591D2)).take 4) = 1 ∧ frameCrcOk (frame 1 0xC7A1EC6B) = true ∧
    (frameHdr (frame 1 0xC7A1EC6B)).type = tColl ∧ (linked {}).stepKey 0 = (0#64, 0#4) ∧
    collOpOf (frameHdr (frame 1 0xC7A1EC6B)).op = some .allreduceF32 ∧
    (frameHdr (frame (3 + 2 ^ 256) 0x513591D2)).reserved = false ∧ (frameHdr (frame (6 + 2 ^ 256) 0)).reserved = true ∧
    (linked {}).ctrlFull 0 = false ∧ (linked {}).staleKey 0 0#32 0 = false ∧ (linked {}).staleKey 0 2#32 0 = true ∧
    ({ linked {} with ctrlIn := List.replicate 16 (ctrl 0#32 (.ask 1#10)) } : State).ctrlFull 0 = true ∧
    (linked {}).coll? 0 0#32 0#4 0 = some (gathered 0#8 []) ∧ ((linked { st := .up, rxSeq := 1#12 }).port 0).rxSeq.toNat ≠ 0 := by
  decide +kernel
theorem test_witness_port : ((linked { st := .degraded, replay := [0#2336] }).port 0).replay ≠ [] ∧
    ((linked {}).port 0).ackAt.toNat + ((linked {}).rd (pgLink 0) 0x048).toNat ≤ (linked {}).lcount.toNat ∧
    activeLanes 0x1FF#9 = some [0, 1, 2, 3, 4, 5, 6, 7] ∧ activeLanes 0x00F#9 = some [0, 1, 2, 3] ∧ activeLanes 0x007#9 = none ∧
    ((linked { st := .training }).port 0).st = .training ∧ ((linked {}).job 0).st = 0#2 ∧ (stepping.job 0).st ≠ 0#2 := by decide

/-! ### Units, the cache and the retained image -/

theorem test_witness_units : (on []).enableRw pgStep = true ∧ (on []).enableRw pgSched = false ∧ pageKind (pgMem 0) = some .mem ∧
    pageKind (pgMerge 0) = some .merge ∧ (on []).enableRw (pgMem 0) = true ∧ (on []).enableRw (pgMerge 0) = true ∧ mergeLanes (pgMerge 0) ≠ [] ∧
    ({ on [] with hdrs := [(pgStep, { st := .draining })] } : State).unit pgStep = .draining ∧ (on []).unitIdle pgStep = true ∧
    stepping.unitIdle pgStep = false := by decide
theorem test_witness_cache : isPoolReg 0x100 = true ∧ (on []).unit pgCache = .off ∧ (on [pgCache]).unit pgCache ≠ .off ∧
    ({ on [] with regs := [(regAt pgCache 0x104, 1#32), (regAt pgCache 0x108, 1#32)] } : State).poolLegal 0 = false ∧
    ({ on [] with regs := [(regAt pgCache 0x10C, 1#32)] } : State).poolLegal 0 = true := by decide
theorem test_witness_recorded : (on []).recorded = (on []).settings ∧ ({ on [] with ret := { (on []).ret with stale := true } } : State).ret.stale = true := by
  decide +kernel
theorem test_witness_image : (on []).buildImage.length ≤ 16384 ∧
    ({ on [] with ret := { (on []).ret with dirty := true }, regs := [(regAt pgRst 0x04C, 1#32)], lcount := 0x100000000#64 } : State).exportDue =
      true := by decide +kernel

/-! ### Security -/

/-- A part in a life-cycle state, a command of SEC_CMD (0), SEC_ACMD (1) or SEC_LCCMD (2) or an image waiting for its last read. -/
def living (lc : BitVec 5) (k : List Nat) : State :=
  { on [] with
    lc := lc, secTasks := k.map fun i => (i, { addr := 0#64, due := 1, op := 3#3 })
    fwTask := some { target := some true, addr := 0#64, need := 512, got := 256 }
    hostReads := [(3, { use := .sec 0#2, addr := 0#64, beats := 1, at_ := 0#64 }), (4, { use := .firmware, addr := 0#64, beats := 1, at_ := 0#64 })] }

theorem test_witness_life : (living 0b00000#5 []).life = .blank ∧ (living 0b00001#5 []).life = .unsealed ∧
    (living 0b00011#5 []).life = .sealed ∧ (living 0b01111#5 []).life = .returned ∧ (living 0b11111#5 []).life = .void ∧
    (living 0b00011#5 []).isSealed = true ∧ (living 0b00111#5 []).isSealed = false ∧ (living 0b00111#5 []).life = .sealed ∧
    (living 0b00011#5 []).fuseTask = none := by decide
theorem test_witness_signed : (living 0b00011#5 []).signedCheck 3 (zeroBytes 208) = .inr 2 ∧ (living 0b00011#5 []).lcRuns = false ∧
    (living 0b00011#5 [2]).lcRuns = true ∧ (living 0b00011#5 [0]).secWaits 0 = true ∧ (living 0b00011#5 [0]).secWaits 1 = false ∧
    (living 0b00011#5 [1]).secWaits 1 = true ∧ (living 0b00011#5 [1]).secWaits 0 = false ∧ (living 0b00011#5 []).fuseTask = none ∧
    (tget? (living 0b00011#5 [0, 1, 2]).secTasks 2).map (·.due) = some 1 ∧ (living 0b00011#5 []).clkUp 2 = true ∧
    (tget? (living 0b00011#5 []).hostReads (3#10).toNat).map (·.use) = some (.sec 0#2) ∧ (living 0b00011#5 []).writeQ = [] ∧
    (living 0b00011#5 []).importCheck (zeroBytes 256) = .inr 2 ∧ Memory.wf (living 0b00011#5 []).host = true ∧
    (living 0b00011#5 []).signedBits 3 0 = [2] ∧ (living 0b00011#5 []).signedBits 5 0 = [] ∧
    ({ living 0b00011#5 [] with ident := some ⟨0#384, 0#384, 0#768, 0#768⟩ } : State).ident.isSome = true := by decide +kernel
theorem test_witness_raise : (living 0b00011#5 []).raiseBits 1 = [5] ∧ (living 0b00011#5 []).raiseBits 0 = [] ∧
    (living 0b00011#5 []).raiseBits 65 = [] ∧ (living 0b00011#5 []).raiseBits 64 = (List.range 64).map (5 + ·) := by decide
theorem test_witness_burn : ({ on [] with fuseTask := some { op := 2#3, bits := [69#9, 1#9], tries := 2 } } : State).fuseTask.isSome = true ∧
    2 ≤ ({ op := 2#3, bits := [69#9, 1#9], tries := 2 } : FuseTask).tries := by decide

/-! ### Reliability, firmware and power -/

/-- Physical core 0 in a state, no number bound to it, core 6400 spare, number 0 awaiting one. -/
def cored (st : CoreState) : State :=
  { on [] with cores := [(0, { st := st, epoch := 1#8, own := 0#8 })], remap := [(0, { prow := 0#8, pcol := 1#6, vacant := false })], unbound := [0] }

theorem test_witness_cores : 0 < (cored .inService).part.nPhys ∧ ((cored .inService).core 0).st = .inService ∧
    ((cored .inService).rd pgRel 0x040).getLsbD 31 = false ∧ (cored .fenced).relBusy 0 = false ∧
    (((cored .testing).wr pgRel 0x040 0x80000000#32).rd pgRel 0x040).getLsbD 31 = true ∧
    (cored .fenced).mayTest 0 = true ∧ (cored .testing).mayTest 0 = true ∧ (cored .fenced).vacantIn 0 = none ∧
    (cored .fenced).unbound.find? (fun n => n / 6400 = 0) = some 0 ∧ (cored .spare).lowSpare 0 = some 0 ∧
    ((cored .fenced).core 0).epoch ≠ 0#8 ∧ ((cored .inService).core 0).own ≠ ((cored .inService).core 0).epoch ∧
    ((on []).core 0).own = ((on []).core 0).epoch ∧ (cored .fenced).part.nPhys ≤ 26240 := by decide +kernel
theorem tget?_below {α : Type} (t : Tab α) (n : Nat) (h : ∀ p ∈ t, n < p.1) : tget? t n = none := by
  induction t with
  | nil => rfl
  | cons x t ih =>
    have hx := h x (by simp)
    rw [tget?, if_neg (by omega)]
    exact ih fun p hp => h p (by simp [hp])
/-- All spares of slice 0 fenced. -/
def spareless : State := { on [] with cores := (List.range 160).map fun i => (6400 + i, { st := .fenced, epoch := 0#8, own := 0#8 }) }
theorem spareless_spares : ∀ i, i < 160 → (spareless.core (6400 + i)).st = .fenced := by decide +kernel
theorem spareless_keys : ∀ p ∈ spareless.cores, 6400 ≤ p.1 := by decide +kernel
theorem test_witness_no_spare : spareless.lowSpare 0 = none := by
  unfold State.lowSpare
  rw [List.find?_eq_none]
  intro pc h
  obtain ⟨k, hk, rfl⟩ := List.mem_map.mp h
  have hk := List.mem_range.mp hk
  by_cases h6 : k < 6400
  · have : tget? spareless.cores k = none := tget?_below _ _ fun p hp => by have := spareless_keys p hp; omega
    simp [State.core, tget, this, State.coreDefault, Nat.mod_eq_of_lt hk, h6]
  · have := spareless_spares (k - 6400) (by omega)
    rw [show 6560 * 0 + k = 6400 + (k - 6400) by omega, this]
    decide
theorem test_witness_stores : (on []).storeSize 1 = 65536 ∧ (on []).storeSize 3 = 256 ∧ (on []).storeSize 4 = 131072 ∧
    (on []).storeSize 7 = 4096 ∧ (on []).storeSize 8 = 64 ∧ (on []).storeSize 9 = 1024 ∧ 0 < (on []).storeSize 10 := by decide
theorem test_witness_clusters : ({ on [] with cluster0 := { loaded := true } } : State).cluster0.up = true ∧ (on []).cluster1.up = false ∧
    (on []).phase ≠ 5#4 ∧ ({ on [] with duty := allDuties true } : State).holdsDuty false = false ∧ (on []).fwTask = none ∧
    ({ on [] with duty := allDuties true } : State).holdsDuty true = true ∧ (on []).phase ≠ 1#4 ∧ (on []).cluster0.fault = false := by decide
theorem test_witness_image_read :
    (living 0b00001#5 []).fwTask = some { target := some true, addr := 0#64, need := 512, got := 256 } ∧
    (512 : Nat) ≤ 256 + min (512 - 256) (4096 - (0 + 256) % 4096) ∧ (living 0b00011#5 []).life = .sealed ∧
    (tget? (living 0b00001#5 []).hostReads (4#10).toNat).map (·.use) = some .firmware := by decide
/-- A zero header is no image: Sealed rejects it, Unsealed takes it. -/
theorem test_witness_image_checked : ((living 0b00011#5 []).fwImage 0).ok = false ∧ ((living 0b00001#5 []).life ≠ .sealed) := by
  decide +kernel
theorem test_witness_power : 0 < (on []).part.slices ∧ (on []).clkUp 4 = true ∧ ((on []).slicePwr 0).opp = 3#2 ∧
    ((on []).slicePwr 0).lowRun + 1 < 4096 ∧ ((on []).slicePwr 0).highRun + 1 < 65536 ∧ (on []).over_ 301 = true ∧
    (on []).over_ 0 = false ∧ ({ on [] with regs := [(regAt pgPwr 0x068, 0x10000#32)] } : State).domIdle = [] ∧
    (({ on [] with regs := [(regAt pgPwr 0x068, 0x10000#32)] } : State).rd pgPwr 0x068).getLsbD 16 = true ∧
    (({ on [] with pwr := [(0, { tcrit := true, vwait := true, slew := some 1#2, opp := 0#2 })] } : State).slicePwr 0).slew = some 1#2 ∧
    (let q : SlicePwr := { opp := 0#2, vack := true, vlevel := 0#2, vreq := 0#2, temp := 255#8 }
     let s : State := { on [] with pwr := [(0, q)] }
     q.vack = true ∧ q.vwait = false ∧ q.opp ≠ 3#2 ∧ q.vlevel = q.vreq ∧ ((s.thermal 0).slicePwr 0).tcrit = true ∧
       bitsOf (s.rd pgPwr 0x060) 15 8 < q.temp.toNat) ∧ (((on []).thermal 0).slicePwr 0).tcrit = false := by
  decide

/-! ### Resets and whole runs -/

theorem test_witness_resets : (on []).phase = 0#4 ∧ ({ on [] with phase := 5#4 } : State).phase ≠ 1#4 ∧ State.reset.phase = 1#4 ∧
    State.reset.fuseTask = none ∧ lifeOf (State.reset.fuses.setWidth 5) = .blank ∧ (on []).unit (pgSlice 0) = .off ∧
    (on [pgSlice 0]).unit (pgSlice 0) ≠ .off ∧ (on []).resettable pgCache = true ∧ (on []).resettable pgStep = false ∧
    (on [pgCache]).unit pgCache ≠ .off ∧ (on []).resettable (pgMerge 0) = true ∧ ((on []).lane 0).st = .off ∧
    ({ on [] with phase := 2#4 } : State).clkUp 0 = true ∧ ({ on [] with phase := 2#4 } : State).wasWarm = false ∧
    (restoreCheck .irz4F {}).1 ≠ 0 ∧ (on []).retPend = false ∧ (on []).life ≠ .blank ∧ (on []).life ≠ .void ∧
    rising State.reset.cores = true ∧ rising State.reset.forms = true ∧ State.reset.memsWf = true := by decide
theorem test_step_idle_counts : ∃ t, step (on []) = .next t ∧ t.lcount = 1#64 := ⟨_, rfl, by decide⟩
theorem test_step_takes_the_front : ∃ t, step { on [] with pending := [.fuseBurnAck true, .split] } = .next t ∧ t.pending = [.split] :=
  ⟨_, rfl, rfl⟩

/-- Precedence of R143: ADAPTER_RETIRED (5) after CANCELLED (2) and before ADMISSION (14); R132: one that the repeated checks
left out of a train step ends with their reason at its commit. -/
theorem test_end_order : endReason (some (true, false)) false none none false false false ⟨0#12, 0#2, false, 0, [], some 4#8, false, 0#32, true, none, []⟩ = some (4, 0) ∧
    endReason (some (true, false)) false none none false false false ⟨0#12, 0#2, false, 1, [], none, false, 0#32, true, none, []⟩ = some (1, 3) ∧
    endReason none false none none false false true ⟨0#12, 0#2, false, 1, [], none, true, 0#32, true, none, []⟩ = some (5, 0) ∧
    endReason none false none none false true true ⟨0#12, 0#2, false, 1, [], none, false, 0#32, true, none, []⟩ = some (2, 0) ∧
    endReason none true none (some 1) true true true ⟨0#12, 0#2, false, 1, [], none, false, 0#32, true, none, []⟩ = some (1, 1) := by decide
/-- Order of R68: a reserved OP is MALFORMED (2) before ID 0 is looked at. -/
theorem test_reserved_dir_op : bitsOf (((on [pgDir]).dirGo 0 9).rd pgDir 0x044) 3 0 = 2 := by decide

end Sys2Proof.Tests
end

/-! SUPPORT. The operations that leave the form table and the table of physical cores as they are. -/

namespace Sys2Proof.Machine

/-- Both states have the same form table and the same table of physical cores. -/
abbrev State.sameTables (s t : State) : Prop := t.forms = s.forms ∧ t.cores = s.cores

@[simp] theorem State.sameTables_iff (s t : State) : s.sameTables t ↔ t.forms = s.forms ∧ t.cores = s.cores := Iff.rfl

theorem State.sameTables_trans {s t u : State} (h : s.sameTables t) (k : t.sameTables u) : s.sameTables u :=
  ⟨k.1.trans h.1, k.2.trans h.2⟩

@[simp] theorem State.forms_ite (c : Prop) [Decidable c] (s t : State) :
    (if c then s else t).forms = if c then s.forms else t.forms := apply_ite State.forms c s t

@[simp] theorem State.cores_ite (c : Prop) [Decidable c] (s t : State) :
    (if c then s else t).cores = if c then s.cores else t.cores := apply_ite State.cores c s t

@[simp] theorem State.foldl_tables {α : Type} (f : State → α → State)
    (h : ∀ (s : State) (x : α), s.sameTables (f s x)) (l : List α) (s : State) : s.sameTables (l.foldl f s) := by
  induction l generalizing s with
  | nil => exact ⟨rfl, rfl⟩
  | cons x l ih => exact State.sameTables_trans (h s x) (ih _)

end Sys2Proof.Machine

namespace Sys2Proof.Machine

section
variable (s : State)

/-! ### Ops -/

@[simp] theorem State.logOpen_tables (cls page inst) : s.sameTables (s.logOpen cls page inst) := by
  simp [State.logOpen]

/-! ### Gate -/

@[simp] theorem clkfailOp_tables (c) : s.sameTables (clkfailOp s c) := by simp [clkfailOp]

/-! ### Access -/

@[simp] theorem State.regFault_tables : s.sameTables (s.regFault) := by simp [State.regFault]

@[simp] theorem State.store_tables (a bs) : s.sameTables (s.store_ a bs) := ⟨rfl, rfl⟩

@[simp] theorem State.wrCount_tables (a n) : s.sameTables (s.wrCount a n) := by simp [State.wrCount]

@[simp] theorem State.poke_tables (kind need a bs) : s.sameTables (s.poke kind need a bs).1 := by
  unfold State.poke
  repeat' split <;> simp

@[simp] theorem State.ucPush_tables (stack r) : s.sameTables (s.ucPush stack r) := by simp [State.ucPush]

@[simp] theorem State.startCopy_tables (k pc) : s.sameTables (s.startCopy k pc) := ⟨rfl, rfl⟩

@[simp] theorem State.autoRetire_tables (k pc) : s.sameTables (s.autoRetire k pc) := by simp [State.autoRetire]

@[simp] theorem State.seeUnc_tables (k pc a) : s.sameTables (s.seeUnc k pc a) := by simp [State.seeUnc]

@[simp] theorem State.uncRecord_tables (a cls) : s.sameTables (s.uncRecord a cls) := by simp [State.uncRecord]

@[simp] theorem State.uncRange_tables (a n cls) : s.sameTables (s.uncRange a n cls) := by
  unfold State.uncRange
  split
  · exact ⟨rfl, rfl⟩
  · exact State.foldl_tables _ (fun s i => by split <;> simp) _ s

@[simp] theorem State.note_tables (r a cls) : s.sameTables (s.note r a cls) := by simp [State.note]

@[simp] theorem State.issueRead_tables : s.sameTables (s.issueRead) := by
  unfold State.issueRead
  split <;> simp

@[simp] theorem State.issueWrite_tables : s.sameTables (s.issueWrite) := by
  unfold State.issueWrite
  split <;> simp

@[simp] theorem State.pumpReads_tables : s.sameTables (s.pumpReads) := by simp [State.pumpReads]

@[simp] theorem State.pumpWrites_tables : s.sameTables (s.pumpWrites) := by simp [State.pumpWrites]

@[simp] theorem State.pumpHost_tables : s.sameTables (s.pumpHost) := by simp [State.pumpHost]

@[simp] theorem State.askHost_tables (use a n) : s.sameTables (s.askHost use a n) := by simp [State.askHost]

@[simp] theorem State.hostPut_tables (a bs parcel granule) : s.sameTables (s.hostPut a bs parcel granule) := by
  simp [State.hostPut]

@[simp] theorem State.hostWrite_tables (a bs) : s.sameTables (s.hostWrite a bs) := by simp [State.hostWrite]

@[simp] theorem State.hostRdErr_tables : s.sameTables (s.hostRdErr) := by simp [State.hostRdErr]

/-! ### Operands -/

@[simp] theorem State.setJob_tables (j v) : s.sameTables (s.setJob j v) := ⟨rfl, rfl⟩

@[simp] theorem State.setSlot_tables (q v) : s.sameTables (s.setSlot q v) := ⟨rfl, rfl⟩

@[simp] theorem State.setEntry_tables (a e) : s.sameTables (s.setEntry a e) := ⟨rfl, rfl⟩

/-! ### Cache -/

@[simp] theorem State.setFrame_tables (f v) : s.sameTables (s.setFrame f v) := by simp [State.setFrame]

@[simp] theorem State.pokeFor_tables (q kind need a bs) : s.sameTables (s.pokeFor q kind need a bs) := by
  simp [State.pokeFor]

@[simp] theorem State.setFrameFor_tables (q f v) : s.sameTables (s.setFrameFor q f v) := by simp [State.setFrameFor]

@[simp] theorem State.dropHolder_tables (f) : s.sameTables (s.dropHolder f) := by simp [State.dropHolder]

@[simp] theorem State.dropHolderFor_tables (q f) : s.sameTables (s.dropHolderFor q f) := by simp [State.dropHolderFor]

@[simp] theorem State.addHolder_tables (q f) : s.sameTables (s.addHolder q f) := by simp [State.addHolder]

@[simp] theorem State.setListEntry_tables (q i w) : s.sameTables (s.setListEntry q i w) := by
  simp [State.setListEntry]

@[simp] theorem State.dropPage_tables (q i) : s.sameTables (s.dropPage q i) := by simp [State.dropPage]

@[simp] theorem State.releasePages_tables (q) : s.sameTables (s.releasePages q) := by simp [State.releasePages]

@[simp] theorem State.dropStale_tables (q) : s.sameTables (s.dropStale q) := by simp [State.dropStale]

@[simp] theorem State.storeHdr_tables (q) : s.sameTables (s.storeHdr q) := by simp [State.storeHdr]

@[simp] theorem State.keepHdr_tables (q) : s.sameTables (s.keepHdr q) := by simp [State.keepHdr]

@[simp] theorem State.dropWay_tables (w) : s.sameTables (s.dropWay w) := by simp [State.dropWay]

@[simp] theorem State.removeWay_tables (k) : s.sameTables (s.removeWay k) := by
  unfold State.removeWay
  split <;> simp

@[simp] theorem State.removeWays_tables (p) : s.sameTables (s.removeWays p) := by simp [State.removeWays]

@[simp] theorem State.frameWays_tables (a) : s.sameTables (s.frameWays a) := by
  unfold State.frameWays
  split <;> simp

@[simp] theorem State.stampWay_tables (k) : s.sameTables (s.stampWay k) := by
  unfold State.stampWay
  split <;> simp

@[simp] theorem State.putWay_tables (q k c) : s.sameTables (s.putWay q k c) := by simp [State.putWay]

@[simp] theorem State.insertWay_tables (q set c) : s.sameTables (s.insertWay q set c).1 := by
  unfold State.insertWay
  (repeat' split) <;> simp

@[simp] theorem State.sweepSet_tables (p set) : s.sameTables (s.sweepSet p set).1 := by
  unfold State.sweepSet
  split <;> simp

@[simp] theorem sweepGo_tables (p need fuel idle) : s.sameTables (sweepGo p need fuel idle s) := by
  induction fuel generalizing idle s with
  | zero => exact ⟨rfl, rfl⟩
  | succ fuel ih =>
    unfold sweepGo
    split
    · exact ⟨rfl, rfl⟩
    · simp [ih]

@[simp] theorem State.sweep_tables (p need) : s.sameTables (s.sweep p need) := by simp [State.sweep]

@[simp] theorem State.takeGranules_tables (g n) : s.sameTables (s.takeGranules g n) := ⟨rfl, rfl⟩

@[simp] theorem State.freeGranules_tables (g n) : s.sameTables (s.freeGranules g n) := ⟨rfl, rfl⟩

@[simp] theorem State.refloor_tables (a) : s.sameTables (s.refloor a) := by
  unfold State.refloor
  split <;> simp

@[simp] theorem State.queueEnd_tables (q r) : s.sameTables (s.queueEnd q r) := by
  unfold State.queueEnd
  split <;> simp

@[simp] theorem State.dropParked_tables (q) : s.sameTables (s.dropParked q) := by simp [State.dropParked]

@[simp] theorem poolWrite_tables (off v) : s.sameTables (poolWrite s off v) := by
  unfold poolWrite
  repeat' split <;> simp

/-! ### Directory -/

@[simp] theorem State.dirDone_tables (id code) : s.sameTables (s.dirDone id code) := by simp [State.dirDone]

@[simp] theorem State.dirCmd_tables (id op) : s.sameTables (s.dirCmd id op) := ⟨rfl, rfl⟩

@[simp] theorem State.freeEntry_tables (id) : s.sameTables (s.freeEntry id) := ⟨rfl, rfl⟩

@[simp] theorem State.stopIntake_tables (id) : s.sameTables (s.stopIntake id) := ⟨rfl, rfl⟩

@[simp] theorem State.reapEntry_tables (id) : s.sameTables (s.reapEntry id) := by simp [State.reapEntry]

@[simp] theorem dirCreateOp_tables (id) : s.sameTables (dirCreateOp s id) := by simp [dirCreateOp]

@[simp] theorem dirReadOp_tables (id) : s.sameTables (dirReadOp s id) := by simp [dirReadOp]

@[simp] theorem dirStageOp_tables (id) : s.sameTables (dirStageOp s id) := by simp [dirStageOp]

@[simp] theorem dirPublishOp_tables (id) : s.sameTables (dirPublishOp s id) := by simp [dirPublishOp]

@[simp] theorem dirDiscardOp_tables (id) : s.sameTables (dirDiscardOp s id) := by simp [dirDiscardOp]

@[simp] theorem dirRetireOp_tables (id) : s.sameTables (dirRetireOp s id) := by simp [dirRetireOp]

@[simp] theorem dirSetPolicyOp_tables (id) : s.sameTables (dirSetPolicyOp s id) := by simp [dirSetPolicyOp]

@[simp] theorem dirFlushPrefixOp_tables (id) : s.sameTables (dirFlushPrefixOp s id) := by simp [dirFlushPrefixOp]

/-! ### Jobs -/

@[simp] theorem State.jobDone_tables (code) : s.sameTables (s.jobDone code) := ⟨rfl, rfl⟩

@[simp] theorem State.jobCmd_tables (j op) : s.sameTables (s.jobCmd j op) := ⟨rfl, rfl⟩

@[simp] theorem jobOpenOp_tables (id) : s.sameTables (jobOpenOp s id) := by simp [jobOpenOp]

@[simp] theorem jobReadOp_tables (id) : s.sameTables (jobReadOp s id) := by simp [jobReadOp]

@[simp] theorem jobUpdateOp_tables (id) : s.sameTables (jobUpdateOp s id) := by simp [jobUpdateOp]

@[simp] theorem jobCloseOp_tables (id) : s.sameTables (jobCloseOp s id) := by simp [jobCloseOp]

@[simp] theorem State.finishClose_tables (j) : s.sameTables (s.finishClose j) := by simp [State.finishClose]

@[simp] theorem State.slotCmd_tables (q c) : s.sameTables (s.slotCmd q c) := by simp [State.slotCmd]

@[simp] theorem postSlot_tables (q c) : s.sameTables (postSlot s q c) := by simp [postSlot]

@[simp] theorem State.ringWrite_tables (jn bs) : s.sameTables (s.ringWrite jn bs) := by simp [State.ringWrite]

@[simp] theorem State.mirror_tables (jn) : s.sameTables (s.mirror jn) := by simp [State.mirror]

/-! ### Events -/

@[simp] theorem State.beaconErr_tables : s.sameTables (s.beaconErr) := by simp [State.beaconErr]

@[simp] theorem State.beaconArm_tables (b arg) : s.sameTables (s.beaconArm b arg) := by simp [State.beaconArm]

@[simp] theorem State.beaconArrive_tables (b arg) : s.sameTables (s.beaconArrive b arg) := by
  simp [State.beaconArrive]

@[simp] theorem State.directUnc_tables (a n) : s.sameTables (s.directUnc a n) := by simp [State.directUnc]

@[simp] theorem State.directRefuse_tables (a) : s.sameTables (s.directRefuse a) := by simp [State.directRefuse]

@[simp] theorem State.daccStep_tables (a) : s.sameTables (s.daccStep a) := by simp [State.daccStep]

@[simp] theorem daccWriteOp_tables (v) : s.sameTables (daccWriteOp s v) := by simp [daccWriteOp]

@[simp] theorem storeEnabled_tables (a be bs) : s.sameTables (storeEnabled s a be bs) := by simp [storeEnabled]

@[simp] theorem State.answerHw_tables (r) : s.sameTables (s.answerHw r) := by simp [State.answerHw]

@[simp] theorem State.pumpHw_tables : s.sameTables (s.pumpHw) := by
  unfold State.pumpHw
  split <;> simp

/-! ### Desc -/

@[simp] theorem State.setStep_tables (j st) : s.sameTables (s.setStep j st) := ⟨rfl, rfl⟩

@[simp] theorem State.failRows_tables (j rows code) : s.sameTables (s.failRows j rows code) := by
  unfold State.failRows
  split <;> simp

@[simp] theorem State.markRows_tables (j rows layer d) : s.sameTables (s.markRows j rows layer d) := by
  unfold State.markRows
  split <;> simp

@[simp] theorem State.setLand_tables (a bs) : s.sameTables (s.setLand a bs) := ⟨rfl, rfl⟩

@[simp] theorem State.failForm_tables (d code) : s.sameTables (s.failForm d code) := by
  unfold State.failForm
  split <;> simp

@[simp] theorem State.slotUnc_tables (q) : s.sameTables (s.slotUnc q) := by
  unfold State.slotUnc
  split <;> simp

@[simp] theorem State.frameUnc_tables (k f) : s.sameTables (s.frameUnc k f) := by simp [State.frameUnc]

@[simp] theorem State.tableRead_tables (a n) : s.sameTables (s.tableRead a n).1 := by simp [State.tableRead]

@[simp] theorem State.readTables_tables (q) : s.sameTables (s.readTables q) := by simp [State.readTables]

@[simp] theorem State.loadHdr_tables (q) : s.sameTables (s.loadHdr q) := by simp [State.loadHdr]

/-! ### Merge -/

@[simp] theorem State.setLane_tables (l v) : s.sameTables (s.setLane l v) := ⟨rfl, rfl⟩

@[simp] theorem State.laneInc_tables (l off) : s.sameTables (s.laneInc l off) := by simp [State.laneInc]

@[simp] theorem State.laneEvent_tables (l e) : s.sameTables (s.laneEvent l e) := ⟨rfl, rfl⟩

@[simp] theorem pigeonholeWriteOp_tables (l) : s.sameTables (pigeonholeWriteOp s l) := by
  unfold pigeonholeWriteOp
  dsimp only
  split <;> simp

@[simp] theorem State.setLaneEnable_tables (l on) : s.sameTables (s.setLaneEnable l on) := ⟨rfl, rfl⟩

@[simp] theorem laneDisableOp_tables (l) : s.sameTables (laneDisableOp s l) := by simp [laneDisableOp]

@[simp] theorem State.laneOn_tables (l) : s.sameTables (s.laneOn l) := by
  unfold State.laneOn
  dsimp only
  split <;> simp

@[simp] theorem laneEnableOp_tables (l) : s.sameTables (laneEnableOp s l) := by simp [laneEnableOp]

@[simp] theorem State.laneFault_tables (l) : s.sameTables (s.laneFault l) := by simp [State.laneFault]

/-! ### Links -/

@[simp] theorem State.setPort_tables (p v) : s.sameTables (s.setPort p v) := ⟨rfl, rfl⟩

@[simp] theorem State.pumpPort_tables (p fuel) : s.sameTables (State.pumpPort p fuel s) := by
  induction fuel generalizing s with
  | zero => exact ⟨rfl, rfl⟩
  | succ fuel ih =>
    unfold State.pumpPort
    dsimp only
    split
    · exact ⟨rfl, rfl⟩
    · split
      · simp [ih]
      · exact ⟨rfl, rfl⟩

@[simp] theorem State.pump_tables (p) : s.sameTables (s.pump p) := by simp [State.pump]

@[simp] theorem State.sendFrame_tables (h payload) : s.sameTables (s.sendFrame h payload) := by
  unfold State.sendFrame
  split <;> simp

@[simp] theorem State.resendFrame_tables (f) : s.sameTables (s.resendFrame f) := by
  unfold State.resendFrame
  dsimp only
  split <;> simp

@[simp] theorem State.setColl_tables (v) : s.sameTables (s.setColl v) := by simp [State.setColl]

@[simp] theorem State.sendRange_tables (c data lo hi base r) : s.sameTables (s.sendRange c data lo hi base r) := by
  simp [State.sendRange]

@[simp] theorem State.sendResults_tables (c) : s.sameTables (s.sendResults c) := by
  unfold State.sendResults
  repeat' split <;> simp

@[simp] theorem State.collFail_tables (v) : s.sameTables (s.collFail v) := by
  unfold State.collFail
  dsimp only
  (repeat' split) <;> simp

@[simp] theorem State.collCheck_tables (v) : s.sameTables (s.collCheck v) := by simp [State.collCheck]

@[simp] theorem State.startColl_tables (j c op mine peer sends) :
    s.sameTables (s.startColl j c op mine peer sends) := by
  unfold State.startColl
  dsimp only
  split <;> simp

@[simp] theorem State.releaseColls_tables (j step attempt) :
    s.sameTables (s.releaseColls j step attempt) := ⟨rfl, rfl⟩

@[simp] theorem State.trainPort_tables (p) : s.sameTables (s.trainPort p) := by simp [State.trainPort]

@[simp] theorem State.portDown_tables (p) : s.sameTables (s.portDown p) := by simp [State.portDown]

@[simp] theorem State.portTrained_tables (p ok) : s.sameTables (s.portTrained p ok) := by
  unfold State.portTrained
  split <;> simp

@[simp] theorem linkRcmdOp_tables (v) : s.sameTables (linkRcmdOp s v) := by simp [linkRcmdOp]

/-! ### HostIo -/

@[simp] theorem State.askInput_tables (q xs) : s.sameTables (s.askInput q xs) := by simp [State.askInput]

@[simp] theorem State.askInputs_tables (drafts q) : s.sameTables (s.askInputs drafts q) := by simp [State.askInputs]

@[simp] theorem State.inputCame_tables (q since ok) : s.sameTables (s.inputCame q since ok) := by
  simp [State.inputCame]

@[simp] theorem State.noteParcel_tables (q p) : s.sameTables (s.noteParcel q p) := by simp [State.noteParcel]

@[simp] theorem State.sendParcel_tables (q p) : s.sameTables (s.sendParcel q p) := by simp [State.sendParcel]

@[simp] theorem State.fetchParcel_tables (q p) : s.sameTables (s.fetchParcel q p) := by simp [State.fetchParcel]

@[simp] theorem State.pumpParcels_tables : s.sameTables (s.pumpParcels) := by simp [State.pumpParcels]

theorem State.placeGranules_tables {ps r} (h : s.placeGranules ps = some r) : s.sameTables r.1 := by
  induction ps generalizing s r with
  | nil => cases h; exact ⟨rfl, rfl⟩
  | cons x ps ih =>
    unfold State.placeGranules at h
    split at h
    · cases h
    · obtain ⟨t, ht, rfl⟩ := Option.map_eq_some_iff.mp h
      simpa using ih _ ht

theorem State.pauseSlot_tables {q spilled t} (h : s.pauseSlot q spilled = some t) : s.sameTables t := by
  obtain ⟨r, hr, rfl⟩ := Option.map_eq_some_iff.mp h
  simpa using s.placeGranules_tables hr

theorem State.returnFrames_tables {q pool r model ps x} (h : s.returnFrames q pool r model ps = some x) :
    s.sameTables x.1 := by
  induction ps generalizing s x with
  | nil => cases h; exact ⟨rfl, rfl⟩
  | cons p ps ih =>
    unfold State.returnFrames at h
    split at h
    · cases h
    · obtain ⟨t, ht, rfl⟩ := Option.map_eq_some_iff.mp h
      simpa using ih _ ht

@[simp] theorem State.takeFrames_tables (q pool model) : s.sameTables (s.takeFrames q pool model) := by
  unfold State.takeFrames
  dsimp only
  split
  · exact ⟨rfl, rfl⟩
  · split
    · exact ⟨rfl, rfl⟩
    · next h => simpa using s.returnFrames_tables h

@[simp] theorem State.fillParcel_tables (q p) : s.sameTables (s.fillParcel q p) := by simp [State.fillParcel]

@[simp] theorem State.parcelsHome_tables (q) : s.sameTables (s.parcelsHome q) := by simp [State.parcelsHome]

/-! ### Tally -/

@[simp] theorem State.tallyWrite_tables (q off bs) : s.sameTables (s.tallyWrite q off bs) := by
  simp [State.tallyWrite]

@[simp] theorem State.setTallyHead_tables (q distinct full) : s.sameTables (s.setTallyHead q distinct full) := by
  simp [State.setTallyHead]

@[simp] theorem State.setTallyEntry_tables (q i tok count) : s.sameTables (s.setTallyEntry q i tok count) := by
  simp [State.setTallyEntry]

@[simp] theorem State.tally1_tables (q tok) : s.sameTables (s.tally1 q tok) := by
  unfold State.tally1
  split <;> simp

@[simp] theorem State.tallyAll_tables (q toks) : s.sameTables (s.tallyAll q toks) := by simp [State.tallyAll]

@[simp] theorem State.tallyClear_tables (q) : s.sameTables (s.tallyClear q) := by simp [State.tallyClear]

/-! ### Former -/

@[simp] theorem State.grantSlot_tables (q) : s.sameTables (s.grantSlot q) := by simp [State.grantSlot]

@[simp] theorem State.admitGo_tables (jn pool base overtake qs granted used) :
    s.sameTables (State.admitGo jn pool base overtake qs granted used s) := by
  induction qs generalizing granted used s with
  | nil => exact ⟨rfl, rfl⟩
  | cons q qs ih => simp [State.admitGo, ih]

@[simp] theorem State.fitTests_tables (jn) : s.sameTables (s.fitTests jn) := by simp [State.fitTests]

@[simp] theorem State.admTests_tables (q) : s.sameTables (s.admTests q) := by
  unfold State.admTests
  split <;> simp

@[simp] theorem State.runAdmission_tables (jn pool) : s.sameTables (s.runAdmission jn pool) := by
  simp [State.runAdmission]

@[simp] theorem State.replacePage_tables (q i f) : s.sameTables (s.replacePage q i f) := by simp [State.replacePage]

@[simp] theorem State.lookupGo_tables (q key model adapter pm gen fuel n h prev) :
    s.sameTables (State.lookupGo q key model adapter pm gen fuel n h prev s).1 := by
  induction fuel generalizing n h prev s with
  | zero => exact ⟨rfl, rfl⟩
  | succ fuel ih =>
    unfold State.lookupGo
    dsimp only
    split
    · simp
    · split
      · simp
      · split
        · simp
        · split <;> simp [ih]

@[simp] theorem State.lookup_tables (jn q t pm gen) : s.sameTables (s.lookup jn q t pm gen) := by simp [State.lookup]

@[simp] theorem State.staleAll_tables (q) : s.sameTables (s.staleAll q) := by simp [State.staleAll]

@[simp] theorem State.firstTally_tables (q) : s.sameTables (s.firstTally q) := by simp [State.firstTally]

@[simp] theorem State.refill_tables (jn q pm gen) : s.sameTables (s.refill jn q pm gen) := by simp [State.refill]

@[simp] theorem State.carry_tables (jn q gen) : s.sameTables (s.carry jn q gen) := by simp [State.carry]

@[simp] theorem State.stage1_tables (jn gen qs left acc) : s.sameTables (State.stage1 jn gen qs left s acc).1 := by
  induction qs generalizing left s acc with
  | nil => exact ⟨rfl, rfl⟩
  | cons q qs ih =>
    unfold State.stage1
    split
    · exact ih ..
    · dsimp only
      split <;> simp [ih]

@[simp] theorem State.stage3_tables (jn gen qs left room acc) :
    s.sameTables (State.stage3 jn gen qs left room s acc).1 := by
  induction qs generalizing left room s acc with
  | nil => exact ⟨rfl, rfl⟩
  | cons q qs ih =>
    unfold State.stage3
    dsimp only
    split
    · exact ih ..
    · split
      · exact ih ..
      · split <;> simp [ih]

@[simp] theorem State.chooseRows_tables (jn gen) : s.sameTables (s.chooseRows jn gen).1 := by simp [State.chooseRows]

@[simp] theorem State.cutSegments_tables (m fuel ps) : s.sameTables (State.cutSegments m fuel ps s).1 := by
  induction fuel generalizing ps s with
  | zero => exact ⟨rfl, rfl⟩
  | succ fuel ih =>
    unfold State.cutSegments
    split
    · exact ⟨rfl, rfl⟩
    · simp [ih]

@[simp] theorem State.noteRecord_tables (q r a) : s.sameTables (s.noteRecord q r a) := by simp [State.noteRecord]

theorem State.allocPage_tables {pool q i r} (h : s.allocPage pool q i = some r) : s.sameTables r.1 := by
  unfold State.allocPage at h
  split at h
  · cases h; exact ⟨rfl, rfl⟩
  · split at h
    · cases h
    · cases h; simp

@[simp] theorem State.allocRange_tables (pool q p0 n is p) :
    s.sameTables (State.allocRange pool q p0 n is s p).1 := by
  induction is generalizing s p with
  | nil => exact ⟨rfl, rfl⟩
  | cons i is ih =>
    unfold State.allocRange
    split
    · exact ⟨rfl, rfl⟩
    · next h => simpa [ih] using s.allocPage_tables h

@[simp] theorem State.allocPick_tables (pool m p) : s.sameTables (s.allocPick pool m p).1 := by simp [State.allocPick]

theorem State.spillSlot_tables {q t} (h : s.spillSlot q = some t) : s.sameTables t := by
  obtain ⟨r, hr, rfl⟩ := Option.map_eq_some_iff.mp h
  simpa using s.pauseSlot_tables hr

@[simp] theorem State.spill_tables (base p) : s.sameTables (s.spill base p).1 := by
  unfold State.spill
  dsimp only
  split
  · next h =>
    split at h
    · simpa using State.spillSlot_tables _ h
    · cases h
  · exact ⟨rfl, rfl⟩

@[simp] theorem State.allocDecodes_tables (base pool ps) : s.sameTables (State.allocDecodes base pool ps s).1 := by
  induction ps generalizing s with
  | nil => exact ⟨rfl, rfl⟩
  | cons p ps ih =>
    unfold State.allocDecodes
    dsimp only
    split
    · simp [ih]
    · split <;> simp [ih]

@[simp] theorem State.allocRest_tables (pool train qs ps) : s.sameTables (State.allocRest pool train qs ps s).1 := by
  induction qs generalizing ps s with
  | nil => exact ⟨rfl, rfl⟩
  | cons q qs ih =>
    unfold State.allocRest
    split
    · exact ih ..
    · dsimp only
      split <;> simp [ih]

@[simp] theorem State.sweepFor_tables (jn pool ps) : s.sameTables (s.sweepFor jn pool ps) := by simp [State.sweepFor]

@[simp] theorem State.takeParcels_tables (jn pool) : s.sameTables (s.takeParcels jn pool) := by
  simp [State.takeParcels]

@[simp] theorem State.noteLow_tables (pool) : s.sameTables (s.noteLow pool) := by simp [State.noteLow]

@[simp] theorem State.allocAll_tables (base jn pool ps) : s.sameTables (s.allocAll base jn pool ps).1 := by
  unfold State.allocAll
  split <;> simp

@[simp] theorem State.uncarry_tables (base q) : s.sameTables (s.uncarry base q) := by simp [State.uncarry]

@[simp] theorem State.uncarryAll_tables (base jn ps) : s.sameTables (s.uncarryAll base jn ps) := by
  simp [State.uncarryAll]

@[simp] theorem State.allocExact_tables (pool one qs ps bad) :
    s.sameTables (State.allocExact pool one qs ps bad s).1 := by
  induction qs generalizing ps bad s with
  | nil => exact ⟨rfl, rfl⟩
  | cons q qs ih =>
    unfold State.allocExact
    split
    · exact ih ..
    · simp [ih]

@[simp] theorem State.allocRecord_tables (jn pool ps) : s.sameTables (s.allocRecord jn pool ps).1 := by
  unfold State.allocRecord
  split <;> simp

@[simp] theorem State.lowerRungs_tables (jn fuel ps) : s.sameTables (State.lowerRungs jn fuel ps s).1 := by
  induction fuel generalizing ps s with
  | zero => exact ⟨rfl, rfl⟩
  | succ fuel ih =>
    unfold State.lowerRungs
    split
    · exact ⟨rfl, rfl⟩
    · simp [ih]

@[simp] theorem State.fixRungs_tables (jn ps) : s.sameTables (s.fixRungs jn ps).1 := by
  unfold State.fixRungs
  split <;> simp

/-! ### Steps -/

@[simp] theorem State.pinAll_tables (as) : s.sameTables (s.pinAll as) := by simp [State.pinAll]

@[simp] theorem State.beginStep_tables (jn gen ps from_) : s.sameTables (s.beginStep jn gen ps from_) := by
  simp [State.beginStep]

@[simp] theorem State.adoptSpill_tables (q) : s.sameTables (s.adoptSpill q) := by
  unfold State.adoptSpill
  split
  · cases h : s.spillSlot q with
    | none => exact ⟨rfl, rfl⟩
    | some t => exact s.spillSlot_tables h
  · exact ⟨rfl, rfl⟩

@[simp] theorem State.adoptGrant_tables (q) : s.sameTables (s.adoptGrant q) := by simp [State.adoptGrant]

@[simp] theorem State.adoptPick_tables (jn gen p) : s.sameTables (s.adoptPick jn gen p) := by simp [State.adoptPick]

@[simp] theorem State.failMismatch_tables (jn bad) : s.sameTables (s.failMismatch jn bad) := by
  unfold State.failMismatch
  split <;> simp

@[simp] theorem State.adoptJobs_tables (r) : s.sameTables (s.adoptJobs r) := by simp [State.adoptJobs]

@[simp] theorem State.adoptAll_tables (jn pool gen ps) : s.sameTables (s.adoptAll jn pool gen ps).1 := by
  simp [State.adoptAll]

@[simp] theorem State.startNamed_tables (qs) : s.sameTables (s.startNamed qs) := by simp [State.startNamed]

@[simp] theorem State.fixedPick_tables (jn gen q) : s.sameTables (s.fixedPick jn gen q).1 := by
  unfold State.fixedPick
  dsimp only
  (repeat' split) <;> simp

@[simp] theorem State.fixedPicks_tables (jn gen qs) : s.sameTables (State.fixedPicks jn gen qs s).1 := by
  induction qs generalizing s with
  | nil => exact ⟨rfl, rfl⟩
  | cons q qs ih => simp [State.fixedPicks, ih]

@[simp] theorem State.settleRows_tables (base jn pool ps) : s.sameTables (s.settleRows base jn pool ps).1 := by
  simp [State.settleRows]

@[simp] theorem State.grantRows_tables (jn pool) : s.sameTables (s.grantRows jn pool) := by simp [State.grantRows]

@[simp] theorem State.choose_tables (jn pool gen) : s.sameTables (s.choose jn pool gen).1 := by
  unfold State.choose
  dsimp only
  split <;> simp

@[simp] theorem State.askAll_tables (jn drafts) : s.sameTables (s.askAll jn drafts) := by simp [State.askAll]

theorem State.finishForm_tables (t jn gen ps from_) (h : s.sameTables t) :
    s.sameTables (s.finishForm t jn gen ps from_) := by
  obtain ⟨hf, hc⟩ := h
  simp [State.finishForm, hf, hc]

@[simp] theorem State.formBody_tables (jn) : s.sameTables (s.formBody jn) := by
  unfold State.formBody
  dsimp only
  split
  · simp
  · split
    · split
      · simp
      · split
        · simp
        · split <;> simp [State.finishForm_tables]
    · split <;> simp [State.finishForm_tables]

@[simp] theorem State.form_tables (jn) : s.sameTables (s.form jn) := by simp [State.form]

@[simp] theorem State.batchRefuse_tables (jn code) : s.sameTables (s.batchRefuse jn code) := ⟨rfl, rfl⟩

@[simp] theorem State.batchReady_tables (jn) : s.sameTables (s.batchReady jn) := by simp [State.batchReady]

@[simp] theorem State.batchCheck_tables (jn) : s.sameTables (s.batchCheck jn) := by simp [State.batchCheck]

@[simp] theorem State.askBatch_tables (jn stage off n) : s.sameTables (s.askBatch jn stage off n) := by
  simp [State.askBatch]

@[simp] theorem State.batchCame_tables (jn since ok) : s.sameTables (s.batchCame jn since ok) := by
  simp [State.batchCame]

@[simp] theorem batchGoOp_tables (jn) : s.sameTables (batchGoOp s jn) := by simp [batchGoOp]

/-! ### Plan -/

@[simp] theorem State.addPart_tables (jn x) : s.sameTables (s.addPart jn x) := by
  unfold State.addPart
  split <;> simp

/-! ### Place -/

@[simp] theorem State.stage_tables (d slice) : s.sameTables (s.stage d slice) := by
  unfold State.stage
  dsimp only
  (repeat' split) <;> simp

@[simp] theorem State.addSeg_tables (d slice) : s.sameTables (s.addSeg d slice) := by
  unfold State.addSeg
  split <;> simp

@[simp] theorem State.unstage_tables : s.sameTables (s.unstage) := ⟨rfl, rfl⟩

@[simp] theorem State.bury_tables (d) : s.sameTables (s.bury d) := by
  unfold State.bury
  repeat' split <;> simp

@[simp] theorem State.endOverrun_tables (f j w) : s.sameTables (s.endOverrun f j w) := by simp [State.endOverrun]

@[simp] theorem State.sparesLow_tables (t : State) (slice) : t.sameTables (s.sparesLow t slice) := by
  simp [State.sparesLow]

/-! ### Delta -/

@[simp] theorem State.stat_tables (jn cls fmt c) : s.sameTables (s.stat jn cls fmt c) := by simp [State.stat]

@[simp] theorem State.keep_tables (jn row tensor bs) : s.sameTables (s.keep jn row tensor bs) := by
  unfold State.keep
  split <;> simp

@[simp] theorem State.saveAt_tables (jn row layer tensor off bs) :
    s.sameTables (s.saveAt jn row layer tensor off bs) := by
  unfold State.saveAt
  repeat' split <;> simp

@[simp] theorem State.save_tables (jn row layer tensor bs) : s.sameTables (s.save jn row layer tensor bs) := by
  simp [State.save]

@[simp] theorem State.feedForm_tables (d r a) : s.sameTables (s.feedForm d r a) := by simp [State.feedForm]

@[simp] theorem State.feedAll_tables (d rs) : s.sameTables (s.feedAll d rs) := by simp [State.feedAll]

@[simp] theorem State.feedSaved_tables (d jn st rows layer tensors) :
    s.sameTables (s.feedSaved d jn st rows layer tensors) := by
  simp [State.feedSaved]

@[simp] theorem State.countGather_tables (d) : s.sameTables (s.countGather d) := by simp [State.countGather]

@[simp] theorem State.pushWrites_tables (ws) : s.sameTables (s.pushWrites ws) := by simp [State.pushWrites]

@[simp] theorem State.endUp_tables (d) : s.sameTables (s.endUp d) := by
  unfold State.endUp
  split <;> simp

@[simp] theorem State.feedGrad_tables (fd jn st d rows) : s.sameTables (s.feedGrad fd jn st d rows) := by
  simp [State.feedGrad]

@[simp] theorem State.putGrad_tables (f d gs) : s.sameTables (s.putGrad f d gs) := by simp [State.putGrad]

@[simp] theorem State.addPiece_tables (jn st d) : s.sameTables (s.addPiece jn st d) := ⟨rfl, rfl⟩

/-! ### Layout -/

@[simp] theorem State.noteEmbed_tables (model tok) : s.sameTables (s.noteEmbed model tok) := by
  unfold State.noteEmbed
  dsimp only
  split
  · simp
  · exact State.foldl_tables _ (fun s u => by split <;> simp) _ s

/-! ### Attn -/

@[simp] theorem State.tcPut_tables (slice q i f) : s.sameTables (s.tcPut slice q i f) := ⟨rfl, rfl⟩

@[simp] theorem State.fillTranslation_tables (fd slice q b) : s.sameTables (s.fillTranslation fd slice q b) := by
  unfold State.fillTranslation
  repeat' split <;> simp

@[simp] theorem State.translateKv_tables (fd slice a) : s.sameTables (s.translateKv fd slice a) := by
  simp [State.translateKv]

@[simp] theorem State.touchKv_tables (fd a slice lb values) : s.sameTables (s.touchKv fd a slice lb values) :=
  State.foldl_tables _ (fun s b => by split <;> simp) _ s

@[simp] theorem State.putContext_tables (jn st a hq m g p) : s.sameTables (s.putContext jn st a hq m g p) := by
  simp [State.putContext]

@[simp] theorem State.keepShare_tables (jn row layer tensor bs) :
    s.sameTables (s.keepShare jn row layer tensor bs) := by
  unfold State.keepShare
  split <;> simp

@[simp] theorem State.saveShares_tables (jn st a rs pd) : s.sameTables (s.saveShares jn st a rs pd) := by
  simp [State.saveShares]

@[simp] theorem State.endBack_tables (jn md x) : s.sameTables (s.endBack jn md x) := by
  unfold State.endBack
  split <;> simp

/-! ### Vec -/

@[simp] theorem State.setRow_tables (jn i f) : s.sameTables (s.setRow jn i f) := by
  unfold State.setRow
  split <;> simp

@[simp] theorem State.putX_tables (jn at_ cls vs) : s.sameTables (s.putX jn at_ cls vs) := by simp [State.putX]

@[simp] theorem State.normInput_tables (fd v st row m) : s.sameTables (s.normInput fd v st row m).1 := by
  unfold State.normInput
  split <;> simp

@[simp] theorem State.putKv_tables (slice jn md r row layer values hs) :
    s.sameTables (s.putKv slice jn md r row layer values hs) := by
  unfold State.putKv
  dsimp only
  split <;> simp

@[simp] theorem State.tagFrame_tables (st r row) : s.sameTables (s.tagFrame st r row) := by
  unfold State.tagFrame
  dsimp only
  split <;> simp

@[simp] theorem State.fullFrame_tables (r) : s.sameTables (s.fullFrame r) := by
  unfold State.fullFrame
  repeat' split <;> simp

@[simp] theorem State.translateRows_tables (fd slice st rows) : s.sameTables (s.translateRows fd slice st rows) := by
  simp [State.translateRows]

@[simp] theorem State.sampleRow_tables (jn st fd v row m) : s.sameTables (s.sampleRow jn st fd v row m) := by
  unfold State.sampleRow
  dsimp only
  (repeat' split) <;> simp

@[simp] theorem State.setTrain_tables (jn f) : s.sameTables (s.setTrain jn f) := ⟨rfl, rfl⟩

@[simp] theorem State.lossOne_tables (jn st d row m) : s.sameTables (s.lossOne jn st d row m) := by
  unfold State.lossOne
  dsimp only
  split <;> simp

@[simp] theorem State.bvecOne_tables (jn st d total row m) : s.sameTables (s.bvecOne jn st d total row m) := by
  unfold State.bvecOne
  split <;> simp

/-! ### Boundary -/

@[simp] theorem State.offer_tables (q model pm gen len fuel) :
    s.sameTables (State.offer q model pm gen len fuel s) := by
  induction fuel generalizing s with
  | zero => exact ⟨rfl, rfl⟩
  | succ fuel ih =>
    unfold State.offer
    dsimp only
    split
    · exact ⟨rfl, rfl⟩
    · split
      · exact ⟨rfl, rfl⟩
      · simp [ih]

@[simp] theorem State.offerAll_tables (st cs) : s.sameTables (s.offerAll st cs) := by simp [State.offerAll]

@[simp] theorem State.freePages_tables (jn cs) : s.sameTables (s.freePages jn cs) := by simp [State.freePages]

@[simp] theorem State.badWrites_tables (jn st) : s.sameTables (s.badWrites jn st) := by simp [State.badWrites]

@[simp] theorem State.settle_tables (c) : s.sameTables (s.settle c) := ⟨rfl, rfl⟩

@[simp] theorem State.trim_tables (q) : s.sameTables (s.trim q) := by simp [State.trim]

@[simp] theorem State.takeCmd_tables (q) : s.sameTables (s.takeCmd q) := by
  unfold State.takeCmd
  dsimp only
  split
  · exact ⟨rfl, rfl⟩
  · split
    · simp
    · split
      · split
        · next h => exact s.pauseSlot_tables h
        · simp
      · exact ⟨rfl, rfl⟩

@[simp] theorem State.outputs_tables (jn st v c) : s.sameTables (s.outputs jn st v c) := by
  unfold State.outputs
  dsimp only
  split
  · split
    · exact ⟨rfl, rfl⟩
    · exact State.foldl_tables _ (fun s x => by split <;> simp) _ s
  · exact ⟨rfl, rfl⟩
  · simp

@[simp] theorem State.closeRecord_tables (jn st c) : s.sameTables (s.closeRecord jn st c) := by
  simp [State.closeRecord]

@[simp] theorem State.deadline_tables (c) : s.sameTables (s.deadline c) := by simp [State.deadline]

@[simp] theorem State.takeTideline_tables : s.sameTables (s.takeTideline) := by simp [State.takeTideline]

@[simp] theorem State.unpin_tables (jn st) : s.sameTables (s.unpin jn st) := by simp [State.unpin]

@[simp] theorem State.refloorAll_tables : s.sameTables (s.refloorAll) := by simp [State.refloorAll]

/-! ### Training -/

@[simp] theorem State.acmdDone_tables (job adapter op code) :
    s.sameTables (s.acmdDone job adapter op code) := ⟨rfl, rfl⟩

@[simp] theorem acmdOp_tables (jn a op) : s.sameTables (acmdOp s jn a op) := by simp [acmdOp]

@[simp] theorem State.sendUpd_tables (hdr data) : s.sameTables (s.sendUpd hdr data) := ⟨rfl, rfl⟩

@[simp] theorem State.sendVerdict_tables (st commit) : s.sameTables (s.sendVerdict st commit) := by
  simp [State.sendVerdict]

@[simp] theorem State.recordDecision_tables (jn st d) : s.sameTables (s.recordDecision jn st d) := ⟨rfl, rfl⟩

@[simp] theorem State.sweepCommit_tables (as) : s.sameTables (s.sweepCommit as) := by simp [State.sweepCommit]

@[simp] theorem State.resetBeacons_tables (base) : s.sameTables (s.resetBeacons base) := ⟨rfl, rfl⟩

@[simp] theorem State.countVerdict_tables (jn d) : s.sameTables (s.countVerdict jn d) := by simp [State.countVerdict]

@[simp] theorem ctrlFrame_tables (jn dst kind num attempt w) :
    s.sameTables (ctrlFrame s jn dst kind num attempt w) := by
  simp [ctrlFrame]

@[simp] theorem State.holdVote_tables (jn v) : s.sameTables (s.holdVote jn v) := ⟨rfl, rfl⟩

@[simp] theorem State.ctrlStale_tables (m) : s.sameTables (s.ctrlStale m) := by simp [State.ctrlStale]

@[simp] theorem trainRetryOp_tables (jn) : s.sameTables (trainRetryOp s jn) := by simp [trainRetryOp]

/-! ### Intake -/

@[simp] theorem State.mcmdDone_tables (model op tr code) : s.sameTables (s.mcmdDone model op tr code) := ⟨rfl, rfl⟩

@[simp] theorem State.intakeFetch_tables : s.sameTables (s.intakeFetch) := by
  unfold State.intakeFetch
  repeat' split <;> simp

@[simp] theorem State.countPiece_tables (p good) : s.sameTables (s.countPiece p good) := by simp [State.countPiece]

@[simp] theorem intakeLoadOp_tables (model tr) : s.sameTables (intakeLoadOp s model tr) := by simp [intakeLoadOp]

@[simp] theorem intakeReplaceOp_tables (model) : s.sameTables (intakeReplaceOp s model) := by simp [intakeReplaceOp]

@[simp] theorem wfRetryOp_tables : s.sameTables (wfRetryOp s) := by simp [wfRetryOp]

@[simp] theorem wfRollbackOp_tables : s.sameTables (wfRollbackOp s) := by simp [wfRollbackOp]

@[simp] theorem intakeUnloadOp_tables (model) : s.sameTables (intakeUnloadOp s model) := by simp [intakeUnloadOp]

@[simp] theorem State.checkFail_tables (r) : s.sameTables (s.checkFail r) := ⟨rfl, rfl⟩

@[simp] theorem State.stallWf_tables (r) : s.sameTables (s.stallWf r) := ⟨rfl, rfl⟩

@[simp] theorem State.wfMemErr_tables (k) : s.sameTables (s.wfMemErr k) := by simp [State.wfMemErr]

@[simp] theorem State.wfPrepErr_tables : s.sameTables (s.wfPrepErr) := by simp [State.wfPrepErr]

@[simp] theorem State.wfLook_tables : s.sameTables (s.wfLook) := by simp [State.wfLook]

@[simp] theorem State.intakeMiss_tables : s.sameTables (s.intakeMiss) := by simp [State.intakeMiss]

@[simp] theorem State.intakeGot_tables : s.sameTables (s.intakeGot) := by
  unfold State.intakeGot
  split <;> simp

@[simp] theorem adapterIntakeOp_tables (a) : s.sameTables (adapterIntakeOp s a) := by simp [adapterIntakeOp]

@[simp] theorem State.adapterFetch_tables (a) : s.sameTables (s.adapterFetch a) := by
  unfold State.adapterFetch
  repeat' split <;> simp

@[simp] theorem State.adapterGot_tables (a) : s.sameTables (s.adapterGot a) := by
  unfold State.adapterGot
  repeat' split <;> simp

@[simp] theorem State.intakeFault_tables (a r) : s.sameTables (s.intakeFault a r) := by simp [State.intakeFault]

@[simp] theorem State.intakeEnd_tables (a r) : s.sameTables (s.intakeEnd a r) := by simp [State.intakeEnd]

@[simp] theorem State.adapterMiss_tables (a) : s.sameTables (s.adapterMiss a) := by simp [State.adapterMiss]

@[simp] theorem State.intakeUnc_tables (d r a) : s.sameTables (s.intakeUnc d r a) := by simp [State.intakeUnc]

@[simp] theorem State.intakeWork_tables (d) : s.sameTables (s.intakeWork d) := by
  unfold State.intakeWork
  dsimp only
  (repeat' split) <;> simp

/-! ### Memory -/

@[simp] theorem State.memCmdDone_tables (k op pc code) : s.sameTables (s.memCmdDone k op pc code) := ⟨rfl, rfl⟩

@[simp] theorem State.startRetrain_tables (k) : s.sameTables (s.startRetrain k) := by simp [State.startRetrain]

@[simp] theorem memRetrainOp_tables (k) : s.sameTables (memRetrainOp s k) := by simp [memRetrainOp]

@[simp] theorem State.trainEnd_tables (k ok) : s.sameTables (s.trainEnd k ok) := by simp [State.trainEnd]

@[simp] theorem memRetireOp_tables (k pc) : s.sameTables (memRetireOp s k pc) := by simp [memRetireOp]

@[simp] theorem State.moveUnit_tables (k) : s.sameTables (s.moveUnit k) := by simp [State.moveUnit]

@[simp] theorem memRegWriteOp_tables (n word v) : s.sameTables (memRegWriteOp s n word v) := by
  unfold memRegWriteOp
  split <;> simp

/-! ### Power -/

@[simp] theorem State.setPwr_tables (i p) : s.sameTables (s.setPwr i p) := ⟨rfl, rfl⟩

/-! ### Clock -/

@[simp] theorem State.copyUnit_tables (k) : s.sameTables (s.copyUnit k) := by simp [State.copyUnit]

@[simp] theorem State.copyUnits_tables : s.sameTables (s.copyUnits) := by simp [State.copyUnits]

/-! ### Security -/

@[simp] theorem State.newNonce_tables : s.sameTables (s.newNonce) := ⟨rfl, rfl⟩

@[simp] theorem State.secAsk_tables (k n op) : s.sameTables (s.secAsk k n op) := by simp [State.secAsk]

@[simp] theorem State.lcDone_tables (op code) : s.sameTables (s.lcDone op code) := ⟨rfl, rfl⟩

@[simp] theorem State.lcBurn_tables (op bits) : s.sameTables (s.lcBurn op bits) := ⟨rfl, rfl⟩

@[simp] theorem State.lcCmd_tables (f : State → State) (hf : ∀ s : State, s.sameTables (f s)) :
    s.sameTables (s.lcCmd f) := by
  simp [State.lcCmd, hf]

@[simp] theorem lcUnsealOp_tables (testPort) : s.sameTables (lcUnsealOp s testPort) := by simp [lcUnsealOp]

@[simp] theorem lcSealOp_tables : s.sameTables (lcSealOp s) := by simp [lcSealOp]

@[simp] theorem State.signedCmd_tables (op) : s.sameTables (s.signedCmd op) := by simp [State.signedCmd]

@[simp] theorem State.signedCame_tables (k) : s.sameTables (s.signedCame k) := by
  unfold State.signedCame
  dsimp only
  (repeat' split) <;> simp

@[simp] theorem lcReturnOp_tables : s.sameTables (lcReturnOp s) := by simp [lcReturnOp]

@[simp] theorem lcVoidOp_tables : s.sameTables (lcVoidOp s) :=
  s.lcCmd_tables _ fun s => by split <;> simp

@[simp] theorem raiseFwMinOp_tables : s.sameTables (raiseFwMinOp s) := by simp [raiseFwMinOp]

@[simp] theorem State.kcmdDone_tables (op code) : s.sameTables (s.kcmdDone op code) := ⟨rfl, rfl⟩

@[simp] theorem State.importEnd_tables (code) : s.sameTables (s.importEnd code) := by simp [State.importEnd]

@[simp] theorem State.importCame_tables (k) : s.sameTables (s.importCame k) := by
  unfold State.importCame
  repeat' split <;> simp

@[simp] theorem State.keyCmd_tables (busy f : State → State) (hb : ∀ s : State, s.sameTables (busy s))
    (hf : ∀ s : State, s.sameTables (f s)) : s.sameTables (s.keyCmd busy f) := by
  simp [State.keyCmd, hb, hf]

@[simp] theorem keyImportOp_tables : s.sameTables (keyImportOp s) := by simp [keyImportOp]

@[simp] theorem State.emptySlot_tables (n) : s.sameTables (s.emptySlot n) := ⟨rfl, rfl⟩

@[simp] theorem keyClearOp_tables : s.sameTables (keyClearOp s) := by simp [keyClearOp]

@[simp] theorem State.acmdEnd_tables (code) : s.sameTables (s.acmdEnd code) := ⟨rfl, rfl⟩

@[simp] theorem State.attestCame_tables (k) : s.sameTables (s.attestCame k) := by simp [State.attestCame]

@[simp] theorem attestOp_tables : s.sameTables (attestOp s) := by simp [attestOp]

@[simp] theorem State.secCame_tables (k ok) : s.sameTables (s.secCame k ok) := by
  unfold State.secCame
  repeat' split <;> simp

@[simp] theorem State.fwTry_tables (a) : s.sameTables (s.fwTry a).1 := by
  unfold State.fwTry
  dsimp only
  split <;> simp

@[simp] theorem State.fwNext_tables (k) : s.sameTables (s.fwNext k) := by simp [State.fwNext]

@[simp] theorem State.fwBegin_tables (target) : s.sameTables (s.fwBegin target) := by simp [State.fwBegin]

/-! ### Retained -/

@[simp] theorem State.restoreWord_tables (a w) : s.sameTables (s.restoreWord a w) := by
  unfold State.restoreWord
  split <;> simp

@[simp] theorem State.restoreRegs_tables (rs own) : s.sameTables (s.restoreRegs rs own) := by simp [State.restoreRegs]

@[simp] theorem State.restoreTide_tables (rs) : s.sameTables (s.restoreTide rs) := by simp [State.restoreTide]

@[simp] theorem State.restoreCirc_tables (rs) : s.sameTables (s.restoreCirc rs) := by simp [State.restoreCirc]

@[simp] theorem State.touchPage_tables (old p) : s.sameTables (s.touchPage old p) := by simp [State.touchPage]

@[simp] theorem State.touchRestored_tables : s.sameTables (s.touchRestored) := by simp [State.touchRestored]

@[simp] theorem State.rstDone_tables (op page sub code) : s.sameTables (s.rstDone op page sub code) := ⟨rfl, rfl⟩

@[simp] theorem State.startExport_tables : s.sameTables (s.startExport) := ⟨rfl, rfl⟩

@[simp] theorem rstExportOp_tables : s.sameTables (rstExportOp s) := by simp [rstExportOp]

/-! ### Reliability -/

@[simp] theorem State.relDone_tables (op core code) : s.sameTables (s.relDone op core code) := ⟨rfl, rfl⟩

@[simp] theorem State.setCluster_tables (c v) : s.sameTables (s.setCluster c v) := by simp [State.setCluster]

@[simp] theorem State.checkTables_tables : s.sameTables (s.checkTables) := by simp [State.checkTables]

@[simp] theorem State.poolReg_tables (off v) : s.sameTables (s.poolReg off v) := by simp [State.poolReg]

@[simp] theorem State.moveDuties_tables (c) : s.sameTables (s.moveDuties c) := by simp [State.moveDuties]

@[simp] theorem State.fwDone_tables (op c code) : s.sameTables (s.fwDone op c code) := ⟨rfl, rfl⟩

@[simp] theorem State.fwCmd_tables (op c) (f : State → State) (hf : ∀ s : State, s.sameTables (f s)) :
    s.sameTables (s.fwCmd op c f) := by
  unfold State.fwCmd
  split
  · exact hf s
  · simp

@[simp] theorem handoverOp_tables (c) : s.sameTables (handoverOp s c) := by simp [handoverOp]

@[simp] theorem fwLoadOp_tables (c) : s.sameTables (fwLoadOp s c) := by simp [fwLoadOp]

@[simp] theorem State.fwEnd_tables (k ok) : s.sameTables (s.fwEnd k ok) := by
  have hr : ∀ r, (if ok then State.fwTry { s with fwTask := none } k.addr.toNat
      else (State.raise { s with fwTask := none } pgCtl 2, none)) = r → s.sameTables r.1 := by
    rintro r rfl
    split <;> simp
  unfold State.fwEnd
  dsimp only
  split <;> next h => simpa using hr _ h

@[simp] theorem State.fwCame_tables (ok) : s.sameTables (s.fwCame ok) := by
  unfold State.fwCame
  split <;> simp

@[simp] theorem splitOp_tables : s.sameTables (splitOp s) := by simp [splitOp]

@[simp] theorem State.loseEntry_tables (id) : s.sameTables (s.loseEntry id) := by simp [State.loseEntry]

@[simp] theorem State.loseSlot_tables (q) : s.sameTables (s.loseSlot q) := by simp [State.loseSlot]

@[simp] theorem State.loseWay_tables (k) : s.sameTables (s.loseWay k) := by
  unfold State.loseWay
  split <;> simp

@[simp] theorem State.ctrlCorrected_tables (store index) : s.sameTables (s.ctrlCorrected store index) := by
  simp [State.ctrlCorrected]

/-! ### Sched -/

@[simp] theorem tidelineWrite_tables (v) : s.sameTables (tidelineWrite s v) := by simp [tidelineWrite]

@[simp] theorem grpWrite_tables (g v) : s.sameTables (grpWrite s g v) := by simp [grpWrite]

@[simp] theorem State.tideSel_tables (slot) : s.sameTables (s.tideSel slot) := ⟨rfl, rfl⟩

@[simp] theorem tideLoadOp_tables (slot) : s.sameTables (tideLoadOp s slot) := ⟨rfl, rfl⟩

@[simp] theorem tideCommitOp_tables (slot) : s.sameTables (tideCommitOp s slot) := by simp [tideCommitOp]

@[simp] theorem State.beginSlot_tables (k start) : s.sameTables (s.beginSlot k start) := by simp [State.beginSlot]

/-! ### Units -/

@[simp] theorem unitDisableOp_tables (page) : s.sameTables (unitDisableOp s page) := by
  unfold unitDisableOp
  dsimp only
  (repeat' split) <;> simp

@[simp] theorem State.clearTables_tables : s.sameTables (s.clearTables) := by simp [State.clearTables]

@[simp] theorem State.unitStarts_tables (page) : s.sameTables (s.unitStarts page) := by
  unfold State.unitStarts
  split <;> simp

@[simp] theorem unitEnableOp_tables (page) : s.sameTables (unitEnableOp s page) := by
  unfold unitEnableOp
  repeat' split <;> simp

@[simp] theorem State.imageCheck_tables : s.sameTables (s.imageCheck).1 := by simp [State.imageCheck]

@[simp] theorem State.hardRange_tables (lo n) : s.sameTables (s.hardRange lo n) := ⟨rfl, rfl⟩

@[simp] theorem State.pageTables_tables (page rs) : s.sameTables (s.pageTables page rs) := by
  unfold State.pageTables
  split <;> simp

@[simp] theorem State.resetPage_tables (page) : s.sameTables (s.resetPage page) := by simp [State.resetPage]

@[simp] theorem State.resetLane_tables (l) : s.sameTables (s.resetLane l) := by simp [State.resetLane]

@[simp] theorem unitResetOp_tables (page sub) : s.sameTables (unitResetOp s page sub) := by simp [unitResetOp]

/-! ### Boot -/

@[simp] theorem State.readFuses_tables : s.sameTables (s.readFuses) := ⟨rfl, rfl⟩

@[simp] theorem State.erase_tables (env) : s.sameTables (s.erase env) := ⟨rfl, rfl⟩

@[simp] theorem State.bootStore_tables (env) : s.sameTables (s.bootStore env) := by simp [State.bootStore]

@[simp] theorem State.bootClocks_tables (env) : s.sameTables (s.bootClocks env) := by simp [State.bootClocks]

@[simp] theorem State.bootDecl_tables (env) : s.sameTables (s.bootDecl env) := by simp [State.bootDecl]

@[simp] theorem State.bootKeys_tables : s.sameTables (s.bootKeys) := by simp [State.bootKeys]

@[simp] theorem State.bootLoad_tables : s.sameTables (s.bootLoad) := by simp [State.bootLoad]

@[simp] theorem State.bootStacks_tables (env) : s.sameTables (s.bootStacks env) := by simp [State.bootStacks]

@[simp] theorem State.bootPower_tables : s.sameTables (s.bootPower) := ⟨rfl, rfl⟩

@[simp] theorem State.bootUnits_tables (env) : s.sameTables (s.bootUnits env) := by
  refine State.foldl_tables _ (fun s p => ?_) _ s
  split
  · exact ⟨rfl, rfl⟩
  · split <;> simp

/-! ### HostPort -/

@[simp] theorem State.parcelFail_tables (q page) : s.sameTables (s.parcelFail q page) := by simp [State.parcelFail]

@[simp] theorem State.tenantCame_tables (q since ok) : s.sameTables (s.tenantCame q since ok) := by
  unfold State.tenantCame
  dsimp only
  split <;> simp

@[simp] theorem State.readFailed_tables (r) : s.sameTables (s.readFailed r) := by
  unfold State.readFailed
  split <;> simp

@[simp] theorem State.parcelRead_tables (q page at_ n) : s.sameTables (s.parcelRead q page at_ n) := by
  unfold State.parcelRead
  dsimp only
  split <;> simp

@[simp] theorem State.readDone_tables (r n) : s.sameTables (s.readDone r n) := by
  unfold State.readDone
  split <;> simp

@[simp] theorem hostReadResponseOp_tables (tag data last err) :
    s.sameTables (hostReadResponseOp s tag data last err) := by
  unfold hostReadResponseOp
  split <;> simp

@[simp] theorem hostReadTimeoutOp_tables (tag) : s.sameTables (hostReadTimeoutOp s tag) := by
  unfold hostReadTimeoutOp
  split <;> simp

/-! ### Registers -/

@[simp] theorem State.badAccess_tables (addr) : s.sameTables (s.badAccess addr) := by simp [State.badAccess]

@[simp] theorem State.viewDeny_tables : s.sameTables (s.viewDeny) := by simp [State.viewDeny]

@[simp] theorem State.plainWrite_tables (p off v) : s.sameTables (s.plainWrite p off v) := by
  unfold State.plainWrite
  split <;> simp

@[simp] theorem State.wholeWrite_tables (p off v ok) : s.sameTables (s.wholeWrite p off v ok) := by
  simp [State.wholeWrite]

@[simp] theorem State.fieldWrite_tables (p off v field ok) : s.sameTables (s.fieldWrite p off v field ok) := by
  simp [State.fieldWrite]

@[simp] theorem State.goWrite_tables (p off v) (cmd : State → State) (hc : ∀ s : State, s.sameTables (cmd s)) :
    s.sameTables (s.goWrite p off v cmd) := by
  unfold State.goWrite
  split
  · dsimp only
    split <;> simp [hc]
  · simp

@[simp] theorem State.goOnce_tables (p off v busy) (cmd : State → State) (hc : ∀ s : State, s.sameTables (cmd s)) :
    s.sameTables (s.goOnce p off v busy cmd) := by
  simp [State.goOnce, hc]

@[simp] theorem State.headerWrite_tables (p off v) : s.sameTables (s.headerWrite p off v) := by
  unfold State.headerWrite
  split <;> simp

@[simp] theorem State.capWrite_tables (v) : s.sameTables (s.capWrite v) := by simp [State.capWrite]

@[simp] theorem State.pwrWrite_tables (off v) : s.sameTables (s.pwrWrite off v) := by
  unfold State.pwrWrite
  split <;> simp

@[simp] theorem State.kcmdBad_tables (op) : s.sameTables (s.kcmdBad op) := ⟨rfl, rfl⟩

@[simp] theorem State.secWrite_tables (off v) : s.sameTables (s.secWrite off v) := by
  unfold State.secWrite
  split
  · exact s.goOnce_tables _ _ _ _ _ fun s => by split <;> simp
  · simp
  · exact s.goOnce_tables _ _ _ _ _ fun s => by split <;> simp
  · simp

@[simp] theorem State.ctlWrite_tables (off v) : s.sameTables (s.ctlWrite off v) := by
  unfold State.ctlWrite
  split
  · exact s.goOnce_tables _ _ _ _ _ fun s => by split <;> simp
  all_goals simp

@[simp] theorem State.schedWrite_tables (off v) : s.sameTables (s.schedWrite off v) := by simp [State.schedWrite]

@[simp] theorem State.tideWrite_tables (off v) : s.sameTables (s.tideWrite off v) := by
  unfold State.tideWrite
  split <;> simp

@[simp] theorem State.admWrite_tables (off v) : s.sameTables (s.admWrite off v) := by simp [State.admWrite]

@[simp] theorem State.dirGo_tables (id op) : s.sameTables (s.dirGo id op) := by
  unfold State.dirGo
  split <;> simp

@[simp] theorem State.dirWrite_tables (off v) : s.sameTables (s.dirWrite off v) := by
  unfold State.dirWrite
  split <;> simp

@[simp] theorem State.intakeWrite_tables (off v) : s.sameTables (s.intakeWrite off v) := by
  unfold State.intakeWrite
  split
  · exact s.goWrite_tables _ _ _ _ fun s => by dsimp only; split <;> simp
  all_goals simp

@[simp] theorem State.jconsWrite_tables (job v) : s.sameTables (s.jconsWrite job v) := by simp [State.jconsWrite]

@[simp] theorem State.stepWrite_tables (job off v) : s.sameTables (s.stepWrite job off v) := by
  unfold State.stepWrite
  split
  · exact s.goWrite_tables _ _ _ _ fun s => by dsimp only; split <;> simp
  all_goals simp

@[simp] theorem State.cacheWrite_tables (off v) : s.sameTables (s.cacheWrite off v) := by simp [State.cacheWrite]

@[simp] theorem State.sampWrite_tables (off v) : s.sameTables (s.sampWrite off v) := by
  unfold State.sampWrite
  split <;> simp

@[simp] theorem State.circWrite_tables (k v) : s.sameTables (s.circWrite k v) := by simp [State.circWrite]

@[simp] theorem State.poolPageWrite_tables (off v) : s.sameTables (s.poolPageWrite off v) := by
  simp [State.poolPageWrite]

@[simp] theorem State.hostPageWrite_tables (off v) : s.sameTables (s.hostPageWrite off v) := by
  unfold State.hostPageWrite
  split <;> simp

@[simp] theorem State.memPageWrite_tables (k off v) : s.sameTables (s.memPageWrite k off v) := by
  unfold State.memPageWrite
  dsimp only
  split
  · simp
  · split
    · exact s.goWrite_tables _ _ _ _ fun s => by split <;> simp
    · simp

@[simp] theorem State.linkWrite_tables (k off v) : s.sameTables (s.linkWrite k off v) := by simp [State.linkWrite]

@[simp] theorem State.peakClear_tables (l) : s.sameTables (s.peakClear l) := ⟨rfl, rfl⟩

@[simp] theorem State.laneWrite_tables (l off v) : s.sameTables (s.laneWrite l off v) := by
  unfold State.laneWrite
  split <;> simp

@[simp] theorem State.mergeWrite_tables (p off v) : s.sameTables (s.mergeWrite p off v) := by simp [State.mergeWrite]

@[simp] theorem State.beaconWrite_tables (b v) : s.sameTables (s.beaconWrite b v) := by
  unfold State.beaconWrite
  repeat' split <;> simp

@[simp] theorem State.slotWrite_tables (q off v) : s.sameTables (s.slotWrite q off v) := by simp [State.slotWrite]

end

end Sys2Proof.Machine

/-! SUPPORT. Tables in rising order of their keys, and the operations on the form table. -/

namespace Sys2Proof.Machine

section
variable {α β : Type}

theorem rising_cons (x : Nat × α) (t : Tab α) :
    rising (x :: t) = true ↔ (∀ y ∈ t, x.1 < y.1) ∧ rising t = true := by
  simp [rising]

theorem mem_tput {t : Tab α} {n : Nat} {v : α} {x : Nat × α} (h : x ∈ tput t n v) : x = (n, v) ∨ x ∈ t := by
  induction t with
  | nil => simpa [tput] using h
  | cons y t ih =>
    unfold tput at h
    split at h
    · simpa using h
    · split at h
      · exact (List.mem_cons.mp h).imp_right (List.mem_cons_of_mem _)
      · rcases List.mem_cons.mp h with rfl | h
        · exact .inr (List.mem_cons_self ..)
        · exact (ih h).imp_right (List.mem_cons_of_mem _)

/-- Setting a key's value keeps a table in rising order. -/
theorem rising_tput {t : Tab α} (h : rising t = true) (n : Nat) (v : α) : rising (tput t n v) = true := by
  induction t with
  | nil => rfl
  | cons x t ih =>
    obtain ⟨hx, ht⟩ := (rising_cons x t).mp h
    unfold tput
    split
    · next hn =>
      refine (rising_cons ..).mpr ⟨fun y hy => ?_, h⟩
      rcases List.mem_cons.mp hy with rfl | hy
      · exact hn
      · exact lt_trans hn (hx y hy)
    · split
      · next hn => exact (rising_cons ..).mpr ⟨hn ▸ hx, ht⟩
      · refine (rising_cons ..).mpr ⟨fun y hy => ?_, ih ht⟩
        rcases mem_tput hy with rfl | hy
        · dsimp only at *
          omega
        · exact hx y hy

theorem rising_filter {t : Tab α} (h : rising t = true) (p : Nat × α → Bool) : rising (t.filter p) = true := by
  simp only [rising, decide_eq_true_eq, List.pairwise_map] at h ⊢
  exact h.filter p

theorem rising_tdel {t : Tab α} (h : rising t = true) (n : Nat) : rising (tdel t n) = true := rising_filter h _

/-- A map that keeps every key keeps a table in rising order. -/
theorem rising_map {t : Tab α} (h : rising t = true) (f : Nat × α → Nat × β) (hf : ∀ x, (f x).1 = x.1) :
    rising (t.map f) = true := by
  have e : (t.map f).map (·.1) = t.map (·.1) := by simp [hf]
  simpa [rising, e] using h

theorem rising_foldl {γ : Type} (f : Tab α → γ → Tab α) (hf : ∀ t x, rising t = true → rising (f t x) = true)
    (l : List γ) {t : Tab α} (h : rising t = true) : rising (l.foldl f t) = true := by
  induction l generalizing t with
  | nil => exact h
  | cons x l ih => exact ih (hf t x h)

end

/-- The form table and the table of physical cores list their numbers in rising order, each once. -/
def State.inOrder (s : State) : Prop := rising s.forms = true ∧ rising s.cores = true

theorem State.inOrder.of_tables {s t : State} (h : s.inOrder) (e : s.sameTables t) : t.inOrder := by
  obtain ⟨hf, hc⟩ := e
  unfold State.inOrder
  rwa [hf, hc]

theorem State.foldl_inOrder {α : Type} {f : State → α → State} (hf : ∀ s x, s.inOrder → (f s x).inOrder) (l : List α)
    {s : State} (h : s.inOrder) : (l.foldl f s).inOrder := by
  induction l generalizing s with
  | nil => exact h
  | cons x l ih => exact ih (hf s x h)

theorem State.ite_inOrder {c : Prop} [Decidable c] {s t : State} (hs : s.inOrder) (ht : t.inOrder) :
    (if c then s else t).inOrder := by
  split <;> assumption

section
variable (s : State)

@[simp] theorem State.seatForm_forms (fid f) : (s.seatForm fid f).forms = tput s.forms fid f := by
  simp [State.seatForm]

@[simp] theorem State.seatForm_cores (fid f) : (s.seatForm fid f).cores = s.cores := by
  simp [State.seatForm]

@[simp] theorem State.takeCore_forms (fid f) : (s.takeCore fid f).forms = tput s.forms fid f := by
  simp [State.takeCore]

@[simp] theorem State.takeCore_cores (fid f) : (s.takeCore fid f).cores = s.cores := by
  simp [State.takeCore]

@[simp] theorem State.leaveCore_forms (fid f) : (s.leaveCore fid f).forms = tdel s.forms fid := by
  unfold State.leaveCore
  dsimp only
  split
  · split <;> simp
  · split <;> simp

@[simp] theorem State.leaveCore_cores (fid f) : (s.leaveCore fid f).cores = s.cores := by
  unfold State.leaveCore
  dsimp only
  split
  · split <;> simp
  · split <;> simp

end

end Sys2Proof.Machine

/-! SUPPORT. The forms: placement, the end of a form, its tearing down, and the fence of a core (R22, R96, R331). -/

namespace Sys2Proof.Machine

/-- A form that FORM_PLACEMENT takes up: of an intake, or of a step in flight. -/
def State.ownsForm (s : State) (d : FormDesc) : Bool :=
  match d with
  | .intake _ => true
  | _ => (s.formStep d).isSome

/-- What a fresh form enters the table as, before it has a core. -/
def State.freshForm (s : State) (d : FormDesc) : Form :=
  { desc := d, core := 0, berth := none, at_ := s.lcount, job := (descJob d).map (BitVec.ofNat 8) }

/-- Firmware would not bring the form now: it writes nothing, its step does not plan it, its inputs are not there, the wavefront
holds it, or another goes before it. -/
def State.notDue (s : State) (d : FormDesc) : Bool :=
  emptySum d || !s.planned d || !s.inputsIn d || s.placeHeld d || s.goesLater d

/-- FORM_PLACEMENT of a good form that is due: it takes the first core of its scan or waits for one. -/
def State.placeDue (s : State) (d : FormDesc) : State :=
  match s.findCore d none with
  | none =>
    { s with
      forms := tput s.forms s.formCount { s.freshForm d with waiting := true }, formCount := s.formCount + 1 }
  | some (n, b) =>
    if !s.stagedRight d (n / 6400) then s
    else
      { s.takeCore s.formCount { s.freshForm d with core := n, berth := b } with formCount := s.formCount + 1 }

theorem formPlacementOp_eq (s : State) (c : FormDesc) {d : FormDesc} (hd : d = s.chargeTo c) : formPlacementOp s c =
    if !s.ownsForm d then s
    else if descBad d then ((s.logOpen 0x04 pgSched 0).failForm d cDesc).bury d
    else if s.notDue d then s else s.placeDue d := by
  subst hd
  rfl

/-- The rows of which a form torn down had a beat merged fail, and are counted (R97). -/
def State.failMerged (s : State) (d : FormDesc) (hurt : List Nat) : State :=
  if hurt = [] then s
  else match s.formStep d with
    | some (j, _) => (s.failRows j hurt cForm).count (regAt pgSched 0x230) hurt.length
    | none => s

/-- A form torn down by a fault for the first time: it is to run again. -/
def Form.reissue (f : Form) : Form :=
  { f with reissued := true, waiting := true, charged := 0, acs := 0, wrote := false, unacked := false }

/-- The descriptor is of a DOWN or UP form, whose reissue is counted. -/
def isDownUp : FormDesc → Bool
  | .raw b => !isAttn (dForm b) && (dForm b = 0x10 || dForm b = 0x11)
  | _ => false

/-- A form torn down is no longer in the table, its core's time is charged, and the rows its merged beats belong to fail. -/
def State.tornForm (s : State) (fid : Nat) (f : Form) (core : Bool) : State :=
  (s.leaveCore fid f).failMerged f.desc (if core && f.sent then s.mergedRows f.desc else [])

theorem State.tearDown_none {s : State} {fid : Nat} (h : tget? s.forms fid = none) (core) : s.tearDown fid core = s := by
  simp [State.tearDown, h]

theorem State.tearDown_eq {s : State} {fid : Nat} {f : Form} (h : tget? s.forms fid = some f) (core) :
    s.tearDown fid core =
      let t := s.tornForm fid f core
      if f.reissued then (t.failForm f.desc cForm).bury f.desc
      else
        let t := if isDownUp f.desc then t.inc pgSched 0x228 else t
        { t with forms := tput t.forms fid f.reissue } := by
  unfold State.tearDown
  rw [h]
  rfl

@[simp] theorem State.failMerged_tables (s : State) (d hurt) : s.sameTables (s.failMerged d hurt) := by
  unfold State.failMerged
  split
  · exact ⟨rfl, rfl⟩
  · split <;> simp

@[simp] theorem State.tornForm_forms (s : State) (fid f core) : (s.tornForm fid f core).forms = tdel s.forms fid := by
  simp only [State.tornForm, (State.failMerged_tables _ _ _).1, State.leaveCore_forms]

@[simp] theorem State.tornForm_cores (s : State) (fid f core) : (s.tornForm fid f core).cores = s.cores := by
  simp only [State.tornForm, (State.failMerged_tables _ _ _).2, State.leaveCore_cores]

/-- A form torn down waits for another core; one reissued before leaves the table. -/
theorem State.tearDown_forms {s : State} {fid : Nat} {f : Form} (h : tget? s.forms fid = some f) (core) :
    (s.tearDown fid core).forms =
      if f.reissued then tdel s.forms fid else tput (tdel s.forms fid) fid f.reissue := by
  rw [State.tearDown_eq h]
  dsimp only
  split
  · simp
  · split <;> simp

@[simp] theorem State.tearDown_cores (s : State) (fid core) : (s.tearDown fid core).cores = s.cores := by
  cases h : tget? s.forms fid with
  | none => rw [State.tearDown_none h]
  | some f =>
    rw [State.tearDown_eq h]
    dsimp only
    split
    · simp
    · split <;> simp

theorem State.tearDown_rising {s : State} (hs : rising s.forms = true) (fid core) :
    rising (s.tearDown fid core).forms = true := by
  cases hf : tget? s.forms fid with
  | none => rwa [State.tearDown_none hf]
  | some f =>
    rw [State.tearDown_forms hf]
    split
    · exact rising_tdel hs fid
    · exact rising_tput (rising_tdel hs fid) fid _

theorem State.tearDown_inOrder {s : State} (h : s.inOrder) (fid core) : (s.tearDown fid core).inOrder :=
  ⟨State.tearDown_rising h.1 fid core, by simpa using h.2⟩

@[simp] theorem State.setCore_forms (s : State) (pc c) : (s.setCore pc c).forms = s.forms := rfl

@[simp] theorem State.setCore_cores (s : State) (pc c) : (s.setCore pc c).cores = tput s.cores pc c := rfl

theorem State.setCore_inOrder {s : State} (h : s.inOrder) (pc c) : (s.setCore pc c).inOrder :=
  ⟨h.1, rising_tput h.2 pc c⟩

theorem State.takeCore_inOrder {s : State} (h : s.inOrder) (fid f) : (s.takeCore fid f).inOrder := by
  simpa [State.inOrder] using And.intro (rising_tput h.1 fid f) h.2

theorem State.leaveCore_inOrder {s : State} (h : s.inOrder) (fid f) : (s.leaveCore fid f).inOrder := by
  simpa [State.inOrder] using And.intro (rising_tdel h.1 fid) h.2

theorem State.placeWaiting_inOrder {s : State} (h : s.inOrder) : s.placeWaiting.inOrder := by
  refine State.foldl_inOrder (fun s x h => ?_) _ h
  dsimp only
  split
  · exact h
  · exact State.ite_inOrder ⟨rising_tdel h.1 _, h.2⟩ (State.takeCore_inOrder h _ _)

theorem State.endForm_inOrder {s : State} (h : s.inOrder) (fid) : (s.endForm fid).inOrder := by
  unfold State.endForm
  split
  · exact h
  · exact State.placeWaiting_inOrder (State.leaveCore_inOrder h _ _)

/-- The end of a form, after work that leaves both tables alone. -/
theorem State.inOrder.endForm_of_tables {s t : State} (h : s.inOrder) (e : s.sameTables t) (fid) : (t.endForm fid).inOrder :=
  State.endForm_inOrder (h.of_tables e) fid

theorem State.inOrder.endStray {s : State} (h : s.inOrder) (fid is) : (s.endStray fid is).inOrder := by
  unfold State.endStray
  split
  · exact State.ite_inOrder h (State.endForm_inOrder h _)
  · exact h

theorem State.fault1_inOrder {s : State} (h : s.inOrder) (pc) : (s.fault1 pc).inOrder := State.setCore_inOrder h _ _

/-- The numbers of the forms that run on the core's logical number. -/
def State.formsServed (s : State) (pc : Nat) : List Nat :=
  match s.servedBy pc with
  | some n => s.fidsOn n
  | none => []

/-- A core's record as it is fenced: its epoch advances and its faults are forgotten (R331). -/
def CoreRec.fence (c : CoreRec) : CoreRec :=
  { c with st := .fenced, epoch := c.epoch + 1#8, deadLogged := false, faults := [] }

/-- The logical number a core serves awaits a binding. -/
def State.unbind (s : State) : Option Nat → State
  | some n => if (s.binding n).vacant then s else { s with unbound := s.unbound ++ [n] }
  | none => s

/-- The core is marked as fenced and its logical number as unbound, the fence is counted, logged and raised (R331). -/
def State.markFenced (s : State) (pc : Nat) : State :=
  let u := (s.sparesLow (s.setCore pc (s.core pc).fence) (pc / 6560)).unbind (s.servedBy pc)
  ((u.inc pgRel 0x220).logRec 0x09 pgRel 0 (BitVec.ofNat 32 pc)).raise pgRel 2

/-- The forms of the list are torn down, whole rows with them, as their core stops. -/
def State.tearDownAll (s : State) (fids : List Nat) : State := fids.foldl (fun s fid => s.tearDown fid true) s

theorem State.fenceCore_eq (s : State) (pc : Nat) : s.fenceCore pc =
    if (s.core pc).st = .fenced ∨ (s.core pc).st = .testing then s
    else ((s.markFenced pc).tearDownAll (s.formsServed pc)).touch.placeWaiting := rfl

theorem State.tearDownAll_inOrder {s : State} (h : s.inOrder) (fids) : (s.tearDownAll fids).inOrder :=
  State.foldl_inOrder (fun _ _ h => State.tearDown_inOrder h _ _) _ h

@[simp] theorem State.unbind_tables (s : State) (n) : s.sameTables (s.unbind n) := by
  unfold State.unbind
  split
  · split <;> exact ⟨rfl, rfl⟩
  · exact ⟨rfl, rfl⟩

theorem State.markFenced_tables (s : State) (pc) :
    (s.setCore pc (s.core pc).fence).sameTables (s.markFenced pc) := by
  simp [State.markFenced]

theorem State.markFenced_inOrder {s : State} (h : s.inOrder) (pc) : (s.markFenced pc).inOrder :=
  (State.setCore_inOrder h pc _).of_tables (s.markFenced_tables pc)

theorem State.fenceCore_inOrder {s : State} (h : s.inOrder) (pc) : (s.fenceCore pc).inOrder := by
  rw [State.fenceCore_eq]
  exact State.ite_inOrder h (State.placeWaiting_inOrder
    ((State.tearDownAll_inOrder (State.markFenced_inOrder h pc) (s.formsServed pc)).of_tables ⟨rfl, rfl⟩))

theorem State.placeDue_inOrder {s : State} (h : s.inOrder) (d) : (s.placeDue d).inOrder := by
  unfold State.placeDue
  split
  · exact ⟨rising_tput h.1 _ _, h.2⟩
  · exact State.ite_inOrder h (State.takeCore_inOrder h _ _)

theorem formPlacementOp_inOrder {s : State} (h : s.inOrder) (d) : (formPlacementOp s d).inOrder := by
  rw [formPlacementOp_eq s d rfl]
  exact State.ite_inOrder h (State.ite_inOrder (h.of_tables (by simp))
    (State.ite_inOrder h (State.placeDue_inOrder h _)))

theorem formFaultOp_inOrder {s : State} (h : s.inOrder) (fid core) : (formFaultOp s fid core).inOrder := by
  unfold formFaultOp
  split
  · exact h
  refine State.ite_inOrder h ?_
  split
  · exact h
  · dsimp only
    have hl (cls page inst v) : (s.logRec cls page inst v).inOrder := h.of_tables (by simp)
    have ht (k : Nat) (b : Bool) (r : State) (hr : r.inOrder) : (r.tearDown k b).inOrder := State.tearDown_inOrder hr k b
    refine State.ite_inOrder (State.ite_inOrder (State.fenceCore_inOrder (hl ..) _) (State.placeWaiting_inOrder ?_))
      (State.ite_inOrder (State.fenceCore_inOrder ?_ _) (State.placeWaiting_inOrder ?_))
    · exact State.foldl_inOrder (fun s x => ht x true s) _ (hl ..)
    · exact ht _ _ _ (State.fault1_inOrder (hl ..) _)
    · exact ht _ _ _ (State.fault1_inOrder (hl ..) _)

theorem wdogOp_inOrder {s : State} (h : s.inOrder) (fid) : (wdogOp s fid).inOrder := by
  unfold wdogOp
  split
  · exact h
  refine State.ite_inOrder h ?_
  split
  · exact h
  · next pc _ =>
    have ht := State.tearDown_inOrder (State.fault1_inOrder (h.of_tables (t := ((s.inc pgSched 0x070).raise pgSched 1).logRec
      0x03 (pgSlice (pc / 6560)) (pc / 6560) (BitVec.ofNat 32 pc)) (by simp)) pc) fid false
    exact State.ite_inOrder (State.fenceCore_inOrder ht _) (State.placeWaiting_inOrder ht)

end Sys2Proof.Machine

/-! PROOFS. Every step keeps the form table and the table of physical cores in rising order (O59). -/

namespace Sys2Proof.Machine

/-! ### The forms: each leaves its core, or its step has closed -/

theorem downOp_inOrder {s : State} (h : s.inOrder) (fid) : (downOp s fid).inOrder := by
  unfold downOp
  split
  · split
    · exact State.ite_inOrder h (h.endForm_of_tables (by simp) fid)
    · exact h.endStray fid _
  · exact h

theorem duOp_inOrder {s : State} (h : s.inOrder) (fid) : (duOp s fid).inOrder := by
  unfold duOp
  split
  · split
    · exact State.ite_inOrder h (h.endForm_of_tables (by simp) fid)
    · exact h.endStray fid _
  · exact h

theorem goutOp_inOrder {s : State} (h : s.inOrder) (fid) : (goutOp s fid).inOrder := by
  unfold goutOp
  split
  · split
    · exact State.ite_inOrder h (h.endForm_of_tables (by simp) fid)
    · exact h.endStray fid _
  · exact h

theorem mpoolOp_inOrder {s : State} (h : s.inOrder) (fid) : (mpoolOp s fid).inOrder := by
  unfold mpoolOp
  split
  · split
    · exact State.ite_inOrder h (h.endForm_of_tables (by simp) fid)
    · exact h.endStray fid _
  · exact h

theorem scoreOp_inOrder {s : State} (h : s.inOrder) (fid) : (scoreOp s fid).inOrder := by
  unfold scoreOp
  split
  · exact h.endStray fid _
  · exact h.endForm_of_tables (by simp) fid

theorem valueOp_inOrder {s : State} (h : s.inOrder) (fid) : (valueOp s fid).inOrder := by
  unfold valueOp
  split
  · exact h.endStray fid _
  · exact h.endForm_of_tables (by
      simp
      exact State.sameTables_trans (by simp) (State.foldl_tables _ (fun r x => by split <;> simp) _ _)) fid

theorem smergeOp_inOrder {s : State} (h : s.inOrder) (fid) : (smergeOp s fid).inOrder := by
  unfold smergeOp
  split
  · exact h.endStray fid _
  · exact h.endForm_of_tables (by
      simp
      exact State.sameTables_trans (by simp) (State.foldl_tables _ (fun r x => by split <;> simp) _ _)) fid

theorem battnOp_inOrder {s : State} (h : s.inOrder) (fid) : (battnOp s fid).inOrder := by
  unfold battnOp
  split
  · exact h.endStray fid _
  · exact h.endForm_of_tables (by simp) fid

theorem normOp_inOrder {s : State} (h : s.inOrder) (fid) : (normOp s fid).inOrder := by
  unfold normOp
  split
  · exact h.endStray fid _
  · exact h.endForm_of_tables (by simp) fid

theorem rotaryOp_inOrder {s : State} (h : s.inOrder) (fid) : (rotaryOp s fid).inOrder := by
  unfold rotaryOp
  split
  · exact h.endStray fid _
  · exact h.endForm_of_tables (by
      simp
      exact State.sameTables_trans (by simp) (State.foldl_tables _ (fun r x => by split <;> simp) _ _)) fid

theorem residOp_inOrder {s : State} (h : s.inOrder) (fid) : (residOp s fid).inOrder := by
  unfold residOp
  split
  · exact h.endStray fid _
  · exact h.endForm_of_tables (by simp) fid

theorem actOp_inOrder {s : State} (h : s.inOrder) (fid) : (actOp s fid).inOrder := by
  unfold actOp
  split
  · exact h.endStray fid _
  · exact h.endForm_of_tables (by simp) fid

theorem routeOp_inOrder {s : State} (h : s.inOrder) (fid) : (routeOp s fid).inOrder := by
  unfold routeOp
  split
  · exact h.endStray fid _
  · exact h.endForm_of_tables (by simp) fid

theorem sampleOp_inOrder {s : State} (h : s.inOrder) (fid) : (sampleOp s fid).inOrder := by
  unfold sampleOp
  split
  · exact h.endStray fid _
  · exact h.endForm_of_tables (by simp) fid

theorem lossOp_inOrder {s : State} (h : s.inOrder) (fid) : (lossOp s fid).inOrder := by
  unfold lossOp
  split
  · exact h.endStray fid _
  · exact h.endForm_of_tables (by simp) fid

theorem bvecOp_inOrder {s : State} (h : s.inOrder) (fid) : (bvecOp s fid).inOrder := by
  unfold bvecOp
  split
  · exact h.endStray fid _
  · exact h.endForm_of_tables (by simp) fid

end Sys2Proof.Machine

namespace Sys2Proof.Machine

section
variable {s : State}

/-! ### Writes of the crossing, and the intake's form -/

theorem State.endWrites_inOrder (h : s.inOrder) : s.endWrites.inOrder := by
  refine State.foldl_inOrder (fun s fid h => ?_) _ h
  split
  · exact h.endForm_of_tables (by simp) fid
  · exact h

theorem fillOp_inOrder (h : s.inOrder) (fid code) : (fillOp s fid code).inOrder := by
  unfold fillOp
  split
  · split
    · exact State.ite_inOrder h (State.endWrites_inOrder ⟨by simpa using rising_tput h.1 fid _, by simpa using h.2⟩)
    · exact h.endStray fid _
  · exact h

theorem intakeFormOp_inOrder (h : s.inOrder) (fid) : (intakeFormOp s fid).inOrder := by
  unfold intakeFormOp
  split
  · split
    · exact State.ite_inOrder h (h.endForm_of_tables (by simp) fid)
    · exact h
  · exact h

/-! ### The end of a step -/

theorem State.withdraw_inOrder (h : s.inOrder) (jn st) : (s.withdraw jn st).inOrder := ⟨rising_filter h.1 _, h.2⟩

theorem State.closeStep_inOrder (h : s.inOrder) (jn v) : (s.closeStep jn v).inOrder := by
  unfold State.closeStep
  split
  · exact h
  · next st _ => exact State.placeWaiting_inOrder ((State.withdraw_inOrder h jn st).of_tables (by simp))

theorem stepBoundaryOp_inOrder (h : s.inOrder) (jn) : (stepBoundaryOp s jn).inOrder := by
  unfold stepBoundaryOp
  split
  · exact h
  · exact State.ite_inOrder h (State.closeStep_inOrder h jn _)

theorem State.applyDecision_inOrder (h : s.inOrder) (jn d) : (s.applyDecision jn d).inOrder := by
  unfold State.applyDecision
  dsimp only
  split
  · exact h
  · exact State.closeStep_inOrder (h.of_tables (by simp)) jn _

theorem State.decide0_inOrder (h : s.inOrder) (jn st d) : (s.decide0 jn st d).inOrder := by
  unfold State.decide0
  dsimp only
  exact State.ite_inOrder (State.applyDecision_inOrder (h.of_tables (by simp)) jn d) (h.of_tables (by simp))

theorem State.tryDecide_inOrder (h : s.inOrder) (jn st) : (s.tryDecide jn st).inOrder := by
  unfold State.tryDecide
  refine State.ite_inOrder h ?_
  split
  · exact State.decide0_inOrder h jn st _
  · exact h

theorem voteOp_inOrder (h : s.inOrder) (jn) : (voteOp s jn).inOrder := by
  unfold voteOp
  dsimp only
  split
  · exact h
  refine State.ite_inOrder h (State.ite_inOrder ?_ (State.ite_inOrder ?_ (State.ite_inOrder ?_ ?_)))
  · exact State.applyDecision_inOrder (h.of_tables (by simp)) jn _
  · split
    · exact State.applyDecision_inOrder (h.of_tables (by simp)) jn _
    · exact State.tryDecide_inOrder (h.of_tables (by simp)) jn _
  · exact h.of_tables (by simp)
  · exact State.applyDecision_inOrder (h.of_tables (by simp)) jn _

theorem voteFrameOp_inOrder (h : s.inOrder) (jn) : (voteFrameOp s jn).inOrder := by
  unfold voteFrameOp
  split
  · exact h
  dsimp only
  split
  · exact State.ite_inOrder (h.of_tables (by simp))
      (State.ite_inOrder (State.tryDecide_inOrder (h.of_tables (by simp)) jn _) h)
  · exact h.of_tables (by simp)

theorem trainVoteTimeoutOp_inOrder (h : s.inOrder) (jn) : (trainVoteTimeoutOp s jn).inOrder := by
  unfold trainVoteTimeoutOp
  dsimp only
  split
  · exact h
  · exact State.ite_inOrder (State.decide0_inOrder h jn _ _) h

theorem decisionOp_inOrder (h : s.inOrder) (jn) : (decisionOp s jn).inOrder := by
  unfold decisionOp
  split
  · exact h
  dsimp only
  split
  · refine State.ite_inOrder (h.of_tables (by simp)) (State.ite_inOrder h (State.applyDecision_inOrder ?_ jn _))
    exact h
  · exact h.of_tables (by simp)

theorem resolveOp_inOrder (h : s.inOrder) (jn commit) : (resolveOp s jn commit).inOrder :=
  State.ite_inOrder (State.applyDecision_inOrder h jn _) (h.of_tables (by simp))

/-! ### Time and resets -/

theorem State.age_inOrder (h : s.inOrder) : s.age.inOrder := ⟨rising_map h.1 _ fun _ => rfl, h.2⟩

theorem State.clockTick_inOrder (h : s.inOrder) : s.clockTick.inOrder := by
  unfold State.clockTick
  refine State.ite_inOrder h ?_
  have ha : s.age.copyUnits.inOrder := (State.age_inOrder h).of_tables (by simp)
  refine ⟨?_, ha.2⟩
  dsimp only
  split
  · exact ((State.placeWaiting_inOrder (ha.of_tables (State.pumpParcels_tables _))).of_tables (State.pumpHw_tables _)).1
  · exact ha.1

theorem State.coldReset_inOrder (s : State) (cause) : (s.coldReset cause).inOrder := ⟨rfl, rfl⟩

theorem State.warmReset_inOrder (s : State) (cause) : (s.warmReset cause).inOrder := ⟨rfl, rfl⟩

theorem State.warm_inOrder (h : s.inOrder) (cause) : (s.warm cause).inOrder :=
  State.ite_inOrder h (State.warmReset_inOrder s cause)

theorem fuseBurnAckOp_inOrder (h : s.inOrder) (ok) : (fuseBurnAckOp s ok).inOrder := by
  unfold fuseBurnAckOp
  split
  · exact h
  split
  · exact State.coldReset_inOrder s 3
  · exact State.ite_inOrder (State.coldReset_inOrder _ 3) h
  · exact State.ite_inOrder h (h.of_tables (by simp))

/-! ### Fences, spares and tests of the cores -/

theorem State.restoreCores_inOrder (h : s.inOrder) (rs) : (s.restoreCores rs).inOrder := by
  unfold State.restoreCores State.inOrder
  dsimp only
  split
  · exact h
  · exact ⟨h.1, rising_foldl _ (fun _ x ht => rising_tput ht x.1 _) (tabWords 2 rs) h.2⟩

theorem State.bind_inOrder (h : s.inOrder) (n) : (s.bind n).inOrder := by
  unfold State.bind
  dsimp only
  split
  · next pc _ => exact ⟨by simpa using h.1, by simpa using rising_tput h.2 pc _⟩
  · exact h.of_tables (by simp)

theorem spareBindOp_inOrder (h : s.inOrder) (slice) : (spareBindOp s slice).inOrder := by
  unfold spareBindOp
  split
  · exact State.placeWaiting_inOrder (State.bind_inOrder h _)
  · exact h

theorem fenceOp_inOrder (h : s.inOrder) (pc) : (fenceOp s pc).inOrder :=
  State.ite_inOrder (h.of_tables (by simp)) (State.ite_inOrder (h.of_tables (by simp)) (State.ite_inOrder
    (h.of_tables (by simp)) ((State.fenceCore_inOrder h pc).of_tables (by simp))))

theorem State.testFails_inOrder (h : s.inOrder) (pc) : (s.testFails pc).inOrder :=
  (State.setCore_inOrder h pc { s.core pc with st := .fenced }).of_tables (by simp [State.testFails])

theorem State.startTest_inOrder (h : s.inOrder) (pc) : (s.startTest pc).inOrder :=
  State.ite_inOrder (h.of_tables (by simp)) (State.ite_inOrder (h.of_tables (by simp))
    ((State.setCore_inOrder h pc { s.core pc with st := .testing }).of_tables (by simp)))

theorem reinstateOp_inOrder (h : s.inOrder) (pc pass) : (reinstateOp s pc pass).inOrder := by
  refine State.ite_inOrder (h.of_tables (by simp)) (State.ite_inOrder (h.of_tables (by simp)) (State.ite_inOrder
    (h.of_tables (by simp)) (State.ite_inOrder (State.testFails_inOrder h pc) ?_)))
  let c : CoreRec := { s.core pc with st := .spare, own := (s.core pc).epoch }
  have hp : ((((s.setCore pc c).inc pgRel 0x230).logRec 0x0C pgRel 0 (BitVec.ofNat 32 pc)).touch).inOrder :=
    (State.setCore_inOrder h pc c).of_tables (by simp [State.touch])
  refine State.inOrder.of_tables ?_ (State.relDone_tables _ 2 pc 0)
  split
  · exact State.placeWaiting_inOrder (State.bind_inOrder hp _)
  · exact hp

theorem State.unack_inOrder (h : s.inOrder) (fid) : (s.unack fid).inOrder := by
  unfold State.unack
  split
  · exact State.ite_inOrder h ⟨rising_tput h.1 fid _, h.2⟩
  · exact h

theorem nocMessageOp_inOrder (h : s.inOrder) (pc form parityOk toBerth) :
    (nocMessageOp s pc form parityOk toBerth).inOrder := by
  unfold nocMessageOp
  refine State.ite_inOrder ?_ (State.ite_inOrder h (State.ite_inOrder h (State.ite_inOrder (h.of_tables (by simp)) ?_)))
  · have hu : (match form with
        | some fid => ((s.inc pgRel 0x218).logOpen 0x07 pgRel 0).unack fid
        | none => (s.inc pgRel 0x218).logOpen 0x07 pgRel 0).inOrder := by
      split
      · exact State.unack_inOrder (h.of_tables (by simp)) _
      · exact h.of_tables (by simp)
    dsimp only
    split
    · exact formFaultOp_inOrder hu _ false
    · exact hu
  · exact ⟨by simpa using h.1, by simpa using rising_tput h.2 pc _⟩

theorem State.clusterDown_inOrder (h : s.inOrder) (c) : (s.clusterDown c).inOrder :=
  State.ite_inOrder h (State.ite_inOrder (State.warm_inOrder (h.of_tables (by simp)) 6) (h.of_tables (by simp)))

theorem State.loseFence_inOrder (h : s.inOrder) (pc) : (s.loseFence pc).inOrder := by
  have ht : (if (s.core pc).st = .testing then s.testFails pc else s).inOrder :=
    State.ite_inOrder (State.testFails_inOrder h pc) h
  exact State.ite_inOrder ((State.setCore_inOrder ht pc _).of_tables ⟨rfl, rfl⟩) (State.fenceCore_inOrder ht pc)

theorem ctrlUncorrOp_inOrder (h : s.inOrder) (store index) : (ctrlUncorrOp s store index).inOrder := by
  unfold ctrlUncorrOp
  refine State.ite_inOrder h ?_
  have hl (p : Nat × Nat) (v) : ((s.inc pgRel 0x210).logRec 0x06 p.1 p.2 v).inOrder := h.of_tables (by simp)
  dsimp only
  split
  case h_3 => exact State.ite_inOrder (h.of_tables (by simp)) (hl ..)
  case h_7 => split <;> exact h.of_tables (by simp [State.touch])
  case h_10 => exact State.loseFence_inOrder (hl ..) index
  case h_11 => exact State.ite_inOrder (hl ..) (State.fenceCore_inOrder (hl ..) _)
  case h_12 => exact State.clusterDown_inOrder (hl ..) _
  all_goals exact h.of_tables (by simp)

theorem secdedOp_inOrder (h : s.inOrder) (error index) : (secdedOp s error index).inOrder := by
  unfold secdedOp
  split
  · exact ctrlUncorrOp_inOrder h _ index
  · exact State.ite_inOrder h (h.of_tables (by simp))

theorem State.advanceEpochs_inOrder (h : s.inOrder) (slice) : (s.advanceEpochs slice).inOrder :=
  ⟨h.1, rising_map h.2 _ fun x => by split; split <;> rfl⟩

theorem State.abandonTests_inOrder (h : s.inOrder) (slice) : (s.abandonTests slice).inOrder :=
  State.foldl_inOrder (fun _ _ h => State.testFails_inOrder h _) _ h

theorem sliceResetOp_inOrder (h : s.inOrder) (slice) : (sliceResetOp s slice).inOrder :=
  State.ite_inOrder (h.of_tables (by simp))
    ((State.advanceEpochs_inOrder (State.abandonTests_inOrder h slice) slice).of_tables (by simp))

theorem State.bootCores_inOrder (h : s.inOrder) (env) : (s.bootCores env).inOrder := by
  unfold State.bootCores
  dsimp only
  refine State.foldl_inOrder (fun _ n h => State.bind_inOrder h n) _ (State.foldl_inOrder (fun s pc h => ?_) _
    (State.ite_inOrder (State.restoreCores_inOrder ?_ _) h))
  · exact State.ite_inOrder h ((State.fenceCore_inOrder h pc).of_tables (by simp))
  · exact h

theorem State.bootRest_inOrder (h : s.inOrder) (env) : (s.bootRest env).inOrder := by
  have hb : ((s.bootStacks env).bootCores env).inOrder := State.bootCores_inOrder (h.of_tables (by simp)) env
  exact hb.of_tables (by simp [State.bootRest])

theorem State.bootFrom5_inOrder (h : s.inOrder) (env) : (s.bootFrom5 env).inOrder :=
  State.ite_inOrder (State.bootRest_inOrder h env) h

theorem State.bootFrom2_inOrder (h : s.inOrder) (env) : (s.bootFrom2 env).inOrder :=
  State.ite_inOrder (State.bootFrom5_inOrder (h.of_tables (by simp)) env) (h.of_tables (by simp))

theorem bringUpOp_inOrder (h : s.inOrder) (env) : (bringUpOp s env).inOrder := by
  unfold bringUpOp
  split
  · refine State.ite_inOrder h (State.ite_inOrder (h.of_tables (by simp)) ?_)
    split
    · exact h.of_tables (by simp)
    · exact h.of_tables (by simp)
    · exact State.bootFrom2_inOrder (h.of_tables (by simp)) env
  · exact State.bootFrom2_inOrder h env
  · exact State.bootFrom5_inOrder h env
  · exact h

end

end Sys2Proof.Machine

namespace Sys2Proof.Machine

section
variable {s : State}

/-! ### Register writes -/

theorem State.goWrite_inOrder (h : s.inOrder) (p off v) {cmd : State → State} (hc : ∀ s : State, s.inOrder → (cmd s).inOrder) :
    (s.goWrite p off v cmd).inOrder := by
  unfold State.goWrite
  refine State.ite_inOrder ?_ (h.of_tables (by simp))
  dsimp only
  split
  · exact hc s h
  · exact (hc s h).of_tables (by simp)

theorem State.goOnce_inOrder (h : s.inOrder) (p off v busy) {cmd : State → State}
    (hc : ∀ s : State, s.inOrder → (cmd s).inOrder) : (s.goOnce p off v busy cmd).inOrder :=
  State.ite_inOrder (h.of_tables (by simp)) (State.goWrite_inOrder h p off v hc)

theorem State.rstCmdWrite_inOrder (h : s.inOrder) (v) : (s.rstCmdWrite v).inOrder := by
  refine State.ite_inOrder (State.coldReset_inOrder s 2) (State.ite_inOrder (State.warm_inOrder h 5)
    (State.goWrite_inOrder h _ _ v fun s h => ?_))
  split
  · exact sliceResetOp_inOrder h _
  all_goals exact h.of_tables (by simp)

theorem State.rstWrite_inOrder (h : s.inOrder) (off v) : (s.rstWrite off v).inOrder := by
  unfold State.rstWrite
  split
  · exact State.rstCmdWrite_inOrder h v
  all_goals exact h.of_tables (by simp)

theorem State.relCmdWrite_inOrder (h : s.inOrder) (v) : (s.relCmdWrite v).inOrder := by
  refine State.goOnce_inOrder h _ _ v _ fun s h => ?_
  split
  · exact fenceOp_inOrder h _
  · exact State.startTest_inOrder h _
  · exact h.of_tables (by simp)

theorem State.relWrite_inOrder (h : s.inOrder) (off v) : (s.relWrite off v).inOrder := by
  unfold State.relWrite
  split
  · exact State.relCmdWrite_inOrder h v
  all_goals exact h.of_tables (by simp)

theorem State.trainWrite_inOrder (h : s.inOrder) (off v) : (s.trainWrite off v).inOrder := by
  unfold State.trainWrite
  dsimp only
  split
  · exact h.of_tables (by simp)
  · refine State.goWrite_inOrder h _ _ v fun r hr => ?_
    split
    · exact resolveOp_inOrder hr _ true
    · exact resolveOp_inOrder hr _ false
    all_goals exact hr.of_tables (by simp)
  all_goals exact h.of_tables (by simp)

theorem State.unitWrite_inOrder (h : s.inOrder) (stepJob p off v) : (s.unitWrite stepJob p off v).inOrder := by
  unfold State.unitWrite
  split
  case h_4 => exact State.rstWrite_inOrder h off v
  case h_6 => exact State.relWrite_inOrder h off v
  case h_16 => exact State.trainWrite_inOrder h off v
  all_goals exact h.of_tables (by simp)

theorem State.writeReg_inOrder (h : s.inOrder) (job a v) : (s.writeReg job a v).inOrder :=
  State.ite_inOrder h (State.ite_inOrder (h.of_tables (by simp)) (State.ite_inOrder (h.of_tables (by simp))
    (State.unitWrite_inOrder h _ _ _ v)))

theorem regWriteOp_inOrder (h : s.inOrder) (priv job addr v) : (regWriteOp s priv job addr v).inOrder := by
  unfold regWriteOp
  split
  · exact h.of_tables (by simp)
  · exact h.of_tables (by simp)
  · exact State.writeReg_inOrder h _ _ v

end

end Sys2Proof.Machine

namespace Sys2Proof.Machine

/-! ### One step -/

/-- A command that is gated gives one of two states. -/
theorem State.inOrder_of_gate {c : Prop} [Decidable c] {a b t : State}
    (e : (if c then Host.Outcome.next a else .next b : Host.Outcome State Fault Refusal) = .next t) (ha : a.inOrder)
    (hb : b.inOrder) : t.inOrder := by
  split at e <;> cases e <;> assumption

theorem State.inOrder_of_next {a t : State} (e : (Host.Outcome.next a : Host.Outcome State Fault Refusal) = .next t)
    (ha : a.inOrder) : t.inOrder := by
  cases e
  exact ha

/-- Every command keeps both tables in rising order. Most commands write neither table. -/
theorem exec_inOrder {s t : State} {c : Instr} (h : s.inOrder) (e : exec c s = .next t) : t.inOrder := by
  cases c with
  | formPlacement d => exact State.inOrder_of_gate e h ⟨(formPlacementOp_inOrder h d).1, h.2⟩
  | down f => exact State.inOrder_of_gate e h ⟨(downOp_inOrder h f).1, h.2⟩
  | up f => exact State.inOrder_of_gate e h ⟨(fillOp_inOrder h f 0x11).1, h.2⟩
  | pigeonholeWrite l =>
    have hp : (pigeonholeWriteOp s l.toNat).inOrder := h.of_tables (by simp)
    have hw : (if s.clkUp 1 then (pigeonholeWriteOp s l.toNat).endWrites else s).inOrder :=
      State.ite_inOrder (State.endWrites_inOrder hp) h
    exact State.inOrder_of_gate e h ⟨hw.1, h.2⟩
  | score f => exact State.inOrder_of_gate e h ⟨(scoreOp_inOrder h f).1, h.2⟩
  | value f => exact State.inOrder_of_gate e h ⟨(valueOp_inOrder h f).1, h.2⟩
  | smerge f => exact State.inOrder_of_gate e h ⟨(smergeOp_inOrder h f).1, h.2⟩
  | norm f => exact State.inOrder_of_gate e h ⟨(normOp_inOrder h f).1, h.2⟩
  | rotary f => exact State.inOrder_of_gate e h ⟨(rotaryOp_inOrder h f).1, h.2⟩
  | resid f => exact State.inOrder_of_gate e h ⟨(residOp_inOrder h f).1, h.2⟩
  | act f => exact State.inOrder_of_gate e h ⟨(actOp_inOrder h f).1, h.2⟩
  | route f => exact State.inOrder_of_gate e h ⟨(routeOp_inOrder h f).1, h.2⟩
  | sample f => exact State.inOrder_of_gate e h ⟨(sampleOp_inOrder h f).1, h.2⟩
  | loss f => exact State.inOrder_of_gate e h ⟨(lossOp_inOrder h f).1, h.2⟩
  | du f => exact State.inOrder_of_gate e h ⟨(duOp_inOrder h f).1, h.2⟩
  | dxa f => exact State.inOrder_of_gate e h ⟨(fillOp_inOrder h f 0x41).1, h.2⟩
  | gout f => exact State.inOrder_of_gate e h ⟨(goutOp_inOrder h f).1, h.2⟩
  | bvec f => exact State.inOrder_of_gate e h ⟨(bvecOp_inOrder h f).1, h.2⟩
  | battn f => exact State.inOrder_of_gate e h ⟨(battnOp_inOrder h f).1, h.2⟩
  | mpool f => exact State.inOrder_of_gate e h ⟨(mpoolOp_inOrder h f).1, h.2⟩
  | intakeForm f => exact State.inOrder_of_gate e h ⟨(intakeFormOp_inOrder h f).1, h.2⟩
  | stepBoundary j => exact State.inOrder_of_gate e h ⟨(stepBoundaryOp_inOrder h j.toNat).1, h.2⟩
  | vote j => exact State.inOrder_of_gate e h ⟨(voteOp_inOrder h j.toNat).1, h.2⟩
  | voteFrame j => exact State.inOrder_of_gate e h ⟨(voteFrameOp_inOrder h j.toNat).1, h.2⟩
  | trainVoteTimeout j => exact State.inOrder_of_gate e h ⟨(trainVoteTimeoutOp_inOrder h j.toNat).1, h.2⟩
  | decision j => exact State.inOrder_of_gate e h ⟨(decisionOp_inOrder h j.toNat).1, h.2⟩
  | resolveCommit j => exact State.inOrder_of_gate e h ⟨(resolveOp_inOrder h j.toNat true).1, h.2⟩
  | resolveAbort j => exact State.inOrder_of_gate e h ⟨(resolveOp_inOrder h j.toNat false).1, h.2⟩
  | formFault f core => exact State.inOrder_of_gate e h (formFaultOp_inOrder h f core)
  | wdog f => exact State.inOrder_of_gate e h (wdogOp_inOrder h f)
  | fence pc => exact State.inOrder_of_gate e h (fenceOp_inOrder h pc.toNat)
  | spareBind l => exact State.inOrder_of_gate e h (spareBindOp_inOrder h l.toNat)
  | reinstate pc pass => exact State.inOrder_of_gate e h (reinstateOp_inOrder h pc.toNat pass)
  | nocMessage pc form ok dst => exact State.inOrder_of_gate e h (nocMessageOp_inOrder h pc.toNat form ok dst)
  | sliceReset l => exact State.inOrder_of_gate e h ⟨h.1, (sliceResetOp_inOrder h l.toNat).2⟩
  | registerWrite priv job addr data =>
    exact State.inOrder_of_gate e h (regWriteOp_inOrder h priv job.toNat addr.toNat data)
  | hostReadResponse tag data last err =>
    have hr : (if s.clkUp 2 then hostReadResponseOp s tag.toNat data last err else s).inOrder :=
      State.ite_inOrder (h.of_tables (by simp)) h
    exact State.inOrder_of_gate e h hr
  | hostReadTimeout tag =>
    have hr : (hostReadTimeoutOp s tag.toNat).inOrder := h.of_tables (by simp)
    exact State.inOrder_of_gate e h hr
  | ctrlUncorr error index => exact State.inOrder_of_gate e h (secdedOp_inOrder h error index.toNat)
  | clusterFault c => exact State.inOrder_of_gate e h (State.clusterDown_inOrder h c)
  | fuseBurnAck ok => exact State.inOrder_of_gate e h (fuseBurnAckOp_inOrder h ok)
  | powerOnReset => exact State.inOrder_of_next e (State.coldReset_inOrder s 0)
  | coldResetInput => exact State.inOrder_of_next e (State.coldReset_inOrder s 1)
  | warmResetInput => exact State.inOrder_of_next e (State.warm_inOrder h 4)
  | rstCold => exact State.inOrder_of_gate e h (State.coldReset_inOrder s 2)
  | rstWarm => exact State.inOrder_of_gate e h (State.warm_inOrder h 5)
  | bringUp env => exact State.inOrder_of_next e (bringUpOp_inOrder h env)
  | clkfail | powerEstimate | droopAssert | droopDeassert => exact State.inOrder_of_next e ⟨h.1, h.2⟩
  | relLog0Read | relLog3Read | daccRead | afaultqLoRead | afaultqHiRead | missqLoRead | missqHiRead | ucqLoRead
  | ucqHiRead => exact State.inOrder_of_gate e (State.ite_inOrder h h) ⟨h.1, h.2⟩
  | _ => exact State.inOrder_of_gate e ⟨h.1, h.2⟩ ⟨h.1, h.2⟩

theorem step_inOrder {s t : State} (h : s.inOrder) (e : step s = .next t) : t.inOrder := by
  unfold step at e
  split at e
  · exact State.inOrder_of_next e (State.clockTick_inOrder h)
  · next rest _ =>
    have hr : ({ s with pending := rest } : State).inOrder := h
    exact exec_inOrder hr e

end Sys2Proof.Machine

/-- Settles O59: by cases on the command, each of which keeps both tables in rising order. -/
theorem theFormAndCoreTablesStayInOrder : Obligations.TheFormAndCoreTablesStayInOrder :=
  fun _ _ hf hc e => Sys2Proof.Machine.step_inOrder ⟨hf, hc⟩ e

/-! SUPPORT. What placement, the end of a form and its faults keep: units, events and the rows of the steps in flight. -/

namespace Sys2Proof.Machine

/-! ### What faults and placement keep -/

/-- A step's rows name the same positions and lose no failure code, and the step keeps its number. -/
structure Step.keeps (a b : Step) : Prop where
  num : b.num = a.num
  places : (b.rows.map fun r => (r.slot, r.pos)) = a.rows.map fun r => (r.slot, r.pos)
  fails : ∀ i c, c ∈ (a.row i).fails → c ∈ (b.row i).fails

/-- The units, the landing buffers and the count of watchdog expiries are as they were, no event is lost, and every step in
flight stays in flight and keeps its rows and their failures. -/
structure State.keeps (s t : State) : Prop where
  part : t.part = s.part
  units : sameUnits s t
  landing : t.landing = s.landing
  wdogs : t.ctr (regAt pgSched 0x070) = s.ctr (regAt pgSched 0x070)
  events : ∀ p b, s.event p b = true → t.event p b = true
  steps : ∀ j a, (s.job j).cur = some a → ∃ b, (t.job j).cur = some b ∧ a.keeps b

theorem Step.keeps.refl (a : Step) : a.keeps a := ⟨rfl, rfl, fun _ _ h => h⟩

theorem Step.keeps.trans {a b c : Step} (h : a.keeps b) (k : b.keeps c) : a.keeps c :=
  ⟨k.num.trans h.num, k.places.trans h.places, fun i x hx => k.fails i x (h.fails i x hx)⟩

/-- A change of a step that leaves its rows and its number alone. -/
theorem Step.keeps_of_rows {a b : Step} (hn : b.num = a.num) (hr : b.rows = a.rows) : a.keeps b :=
  ⟨hn, by rw [hr], fun i _ h => by unfold Step.row; rw [hr]; exact h⟩

namespace State.keeps
variable {s t u : State}

theorem refl (s : State) : s.keeps s := ⟨rfl, fun _ => rfl, rfl, rfl, fun _ _ h => h, fun _ a h => ⟨a, h, .refl a⟩⟩

theorem trans (h : s.keeps t) (k : t.keeps u) : s.keeps u where
  part := k.part.trans h.part
  units p := (k.units p).trans (h.units p)
  landing := k.landing.trans h.landing
  wdogs := k.wdogs.trans h.wdogs
  events p b e := k.events p b (h.events p b e)
  steps j a ha := by
    obtain ⟨b, hb, hab⟩ := h.steps j a ha
    obtain ⟨c, hc, hbc⟩ := k.steps j b hb
    exact ⟨c, hc, hab.trans hbc⟩

/-- A change of a field that none of the facts speaks of. -/
theorem of_eq (hp : t.part = s.part) (hh : t.hdrs = s.hdrs) (hl : t.landing = s.landing) (hc : t.ctrs = s.ctrs)
    (hj : t.jobs = s.jobs) : s.keeps t where
  part := hp
  units := State.unit_congr hh hp
  landing := hl
  wdogs := by unfold State.ctr; rw [hc]
  events p b e := by unfold State.event; rw [State.hdr_congr hh]; exact e
  steps j a ha := ⟨a, by rw [State.job_congr hj]; exact ha, .refl a⟩

theorem ite {c : Prop} [Decidable c] (ht : s.keeps t) (hu : s.keeps u) : s.keeps (if c then t else u) := by
  split <;> assumption

theorem foldl {α : Type} {f : State → α → State} (hf : ∀ (s : State) x, s.keeps (f s x)) (l : List α) (s : State) :
    s.keeps (l.foldl f s) := by
  induction l generalizing s with
  | nil => exact .refl s
  | cons x l ih => exact (hf s x).trans (ih _)

end State.keeps

section
variable (s : State)

theorem State.event_raise (p b q c : Nat) (h : s.event q c = true) : (s.raise p b).event q c = true := by
  unfold State.event at *
  rw [State.hdr_raise]
  split
  · next hq => subst hq; simp [h]
  · exact h

theorem State.event_raise_same (p b : Nat) (hb : b < 32) : (s.raise p b).event p b = true := by
  unfold State.event
  rw [State.hdr_raise, if_pos rfl]
  rw [BitVec.getLsbD_or, BitVec.getLsbD_ofNat, Nat.testBit_two_pow_self]
  simp [hb]

theorem State.raise_keeps (p b) : s.keeps (s.raise p b) :=
  ⟨rfl, fun _ => State.unit_raise s p b _, rfl, rfl, fun _ _ => s.event_raise p b _ _, fun _ a h => ⟨a, h, .refl a⟩⟩

/-- A register keeps 0x1000 bytes of its page's addresses, so an offset tells two counters apart. -/
theorem regAt_ne {p q a b : Nat} (ha : a < 0x1000) (hb : b < 0x1000) (h : a ≠ b) : regAt p a ≠ regAt q b := by
  unfold regAt
  omega

theorem State.event_count (a n p b : Nat) (h : s.event p b = true) : (s.count a n).event p b = true := by
  unfold State.count
  dsimp only
  split
  · exact h
  · split
    · exact h
    · exact State.event_raise _ _ _ _ _ h

theorem State.count_keeps {a : Nat} (n) (h : regAt pgSched 0x070 ≠ a) : s.keeps (s.count a n) where
  part := by simp
  units _ := by simp
  landing := by simp
  wdogs := State.ctr_count_other s a n _ h
  events p b := s.event_count a n p b
  steps j a ha := ⟨a, by rw [State.job_congr (State.count_jobs ..)]; exact ha, .refl a⟩

theorem State.inc_keeps (p) {off : Nat} (ho : off < 0x1000) (h : off ≠ 0x070) : s.keeps (s.inc p off) :=
  s.count_keeps 1 (regAt_ne (by decide) ho h.symm)

theorem State.setFld_keeps (p off lo width v) : s.keeps (s.setFld p off lo width v) := .of_eq rfl rfl rfl rfl rfl

theorem State.touch_keeps : s.keeps s.touch := .of_eq rfl rfl rfl rfl rfl

theorem State.setCore_keeps (pc c) : s.keeps (s.setCore pc c) := .of_eq rfl rfl rfl rfl rfl

theorem State.logRec_keeps (cls page inst detail) : s.keeps (s.logRec cls page inst detail) := by
  unfold State.logRec
  dsimp only
  refine .ite (.trans ?_ (State.raise_keeps _ pgRel 0)) ?_
  · exact .of_eq rfl rfl rfl rfl rfl
  have hl : s.keeps { s with logOvf := true } := .of_eq rfl rfl rfl rfl rfl
  exact (hl.trans (State.inc_keeps _ pgRel (by decide) (by decide))).trans (State.raise_keeps _ pgRel 1)

theorem State.logOpen_keeps (cls page inst) : s.keeps (s.logOpen cls page inst) :=
  (s.logRec_keeps cls page inst _).trans (.of_eq rfl rfl rfl rfl rfl)

/-! ### Steps in flight -/

theorem State.setStep_keeps {j : Nat} {a b : Step} (ha : (s.job j).cur = some a) (h : a.keeps b) :
    s.keeps (s.setStep j b) := by
  refine ⟨rfl, fun _ => rfl, rfl, rfl, fun _ _ e => e, fun k x hx => ?_⟩
  unfold State.setStep
  rw [State.job_setJob]
  split
  · next hk =>
    subst hk
    obtain rfl : a = x := Option.some.inj (ha.symm.trans hx)
    exact ⟨b, rfl, h⟩
  · exact ⟨x, hx, .refl x⟩

theorem Row.fail_place (r : Row) (code) : ((r.fail code).slot, (r.fail code).pos) = (r.slot, r.pos) := by
  unfold Row.fail
  split <;> rfl

theorem Row.mem_fails_fail (r : Row) (code) {c} (h : c ∈ r.fails) : c ∈ (r.fail code).fails := by
  unfold Row.fail
  split
  · exact h
  · exact List.mem_append_left _ h

theorem Row.fail_contains (r : Row) (code) : (r.fail code).fails.contains (BitVec.ofNat 8 code) = true := by
  unfold Row.fail
  split
  · assumption
  · simp

theorem Step.failRows_rows_getElem? (st : Step) (rows code) (i : Nat) :
    (st.failRows rows code).rows[i]? =
      (st.rows[i]?).map fun r => if rows.contains i then r.fail code else r := by
  simp [Step.failRows, List.getElem?_zipIdx]
  rfl

theorem Step.row_failRows (st : Step) (rows code) {i : Nat} (hi : i < st.rows.length) :
    (st.failRows rows code).row i = if rows.contains i then (st.row i).fail code else st.row i := by
  unfold Step.row
  rw [List.getD_eq_getElem?_getD, List.getD_eq_getElem?_getD, Step.failRows_rows_getElem?]
  simp [List.getElem?_eq_getElem hi]

theorem Step.failRows_length (st : Step) (rows code) : (st.failRows rows code).rows.length = st.rows.length := by
  simp [Step.failRows]

theorem Step.failRows_keeps (st : Step) (rows code) : st.keeps (st.failRows rows code) := by
  refine ⟨rfl, List.ext_getElem? fun i => ?_, fun i c hc => ?_⟩
  · rw [List.getElem?_map, List.getElem?_map, Step.failRows_rows_getElem?]
    cases st.rows[i]? with
    | none => rfl
    | some r =>
      simp only [Option.map_some]
      split
      · rw [Row.fail_place]
      · rfl
  · by_cases hi : i < st.rows.length
    · rw [Step.row_failRows st rows code hi]
      split
      · exact Row.mem_fails_fail _ code hc
      · exact hc
    · have : st.row i = (st.failRows rows code).row i := by
        unfold Step.row
        rw [List.getD_eq_default _ _ (by omega), List.getD_eq_default _ _ (by rw [Step.failRows_length]; omega)]
      exact this ▸ hc

theorem State.failRows_keeps (j rows code) : s.keeps (s.failRows j rows code) := by
  unfold State.failRows
  split
  · next a ha => exact .ite (.refl s) (s.setStep_keeps ha (a.failRows_keeps _ code))
  · exact .refl s

theorem State.failForm_keeps (d code) : s.keeps (s.failForm d code) := by
  unfold State.failForm
  split
  · exact s.failRows_keeps _ _ code
  · exact .refl s

theorem State.formStep_eq_some {d : FormDesc} {j : Nat} {a : Step} (h : s.formStep d = some (j, a)) :
    ∃ lo, descJob d = some j ∧ descStep d = some lo ∧ (s.job j).cur = some a ∧ a.num.setWidth 32 = lo := by
  unfold State.formStep at h
  split at h
  · next j' lo hj hlo =>
    obtain ⟨b, hb, hjb⟩ := Option.map_eq_some_iff.mp h
    obtain ⟨rfl, rfl⟩ := Prod.mk.inj hjb
    obtain ⟨hc, hn⟩ := Option.filter_eq_some_iff.mp hb
    exact ⟨lo, hj, hlo, hc, by simpa using hn⟩
  · cases h

theorem State.cur_of_formStep {d : FormDesc} {j : Nat} {a : Step} (h : s.formStep d = some (j, a)) :
    (s.job j).cur = some a := by
  obtain ⟨_, _, _, hc, _⟩ := s.formStep_eq_some h
  exact hc

theorem State.addSeg_keeps (d slice) : s.keeps (s.addSeg d slice) := by
  unfold State.addSeg
  split
  · next h => exact .ite (.refl s) (s.setStep_keeps (s.cur_of_formStep h) (Step.keeps_of_rows rfl rfl))
  · exact .refl s

/-- A dead form is noted with its step, or nothing changes. -/
theorem State.bury_cases (d) : s.bury d = s ∨
    ∃ j a x, s.formStep d = some (j, a) ∧ s.bury d = s.setStep j { a with dead := a.dead ++ [x] } := by
  unfold State.bury
  split
  · next j a h =>
    dsimp only
    split
    case h_5 => exact .inl rfl
    all_goals exact .inr ⟨j, a, _, h, rfl⟩
  · exact .inl rfl

theorem State.bury_keeps (d) : s.keeps (s.bury d) := by
  obtain h | ⟨j, a, x, hs, h⟩ := s.bury_cases d <;> rw [h]
  · exact .refl s
  · exact s.setStep_keeps (s.cur_of_formStep hs) (Step.keeps_of_rows rfl rfl)

/-! ### Uncorrectable reads -/

theorem State.ucPush_keeps (stack r) : s.keeps (s.ucPush stack r) :=
  .ite (.of_eq rfl rfl rfl rfl rfl) ((s.setFld_keeps ..).trans (State.raise_keeps _ _ 5))

theorem State.autoRetire_keeps (k pc) : s.keeps (s.autoRetire k pc) :=
  .ite (.refl s) (.ite (.of_eq rfl rfl rfl rfl rfl) (s.raise_keeps _ 0))

theorem State.seeUnc_keeps (k pc a) : s.keeps (s.seeUnc k pc a) := by
  have hs : s.keeps { s with stk := tput s.stk k { s.stack k with seen := (s.stack k).seen ++ [(a / 32, pc)] } } :=
    .of_eq rfl rfl rfl rfl rfl
  exact .ite (.refl s) (.ite (hs.trans (State.autoRetire_keeps _ k pc)) hs)

theorem State.uncRecord_keeps (a cls) : s.keeps (s.uncRecord a cls) :=
  (((((s.seeUnc_keeps _ _ a).trans (State.inc_keeps _ _ (by decide) (by decide))).trans (State.setFld_keeps ..)).trans
    (State.ucPush_keeps ..)).trans (State.raise_keeps _ _ 1)).trans (State.logRec_keeps ..)

theorem State.uncRange_keeps (a n cls) : s.keeps (s.uncRange a n cls) := by
  refine .ite (.refl s) (.foldl (fun s i => ?_) _ s)
  split
  · exact s.uncRecord_keeps _ cls
  · exact .refl s

theorem State.note_keeps (r a cls) : s.keeps (s.note r a cls) :=
  .ite ((s.count_keeps 1 (regAt_ne (by decide) (by decide) (by decide))).trans (State.raise_keeps _ _ 8))
    (.ite (s.uncRange_keeps a _ cls) (.refl s))

/-! ### Placement -/

/-- The wake of the core's domain, counted (R349). -/
def State.wake (s : State) (dom : Nat) : State :=
  if s.gated.getLsbD dom then ({ s with gated := s.gated &&& ~~~(BitVec.ofNat 20 (2 ^ dom)) }).inc pgPwr 0x218 else s

theorem State.seatForm_eq (fid f) : s.seatForm fid f =
    let t := (if f.berth.isSome && (s.formsOn f.core) ≠ [] then s.inc pgSched 0x220 else s).wake (powerDomain f.core)
    { t with forms := tput t.forms fid f, domIdle := tdel t.domIdle (powerDomain f.core) } := rfl

theorem State.wake_keeps (dom) : s.keeps (s.wake dom) := by
  refine .ite (.trans ?_ (State.inc_keeps _ pgPwr (by decide) (by decide))) (.refl s)
  exact .of_eq rfl rfl rfl rfl rfl

theorem State.seatForm_keeps (fid f) : s.keeps (s.seatForm fid f) := by
  rw [State.seatForm_eq]
  refine .trans (.trans (.ite ?_ (.refl s)) (State.wake_keeps _ _)) (.of_eq rfl rfl rfl rfl rfl)
  exact s.inc_keeps pgSched (by decide) (by decide)

theorem State.stage_keeps (d slice) : s.keeps (s.stage d slice) := by
  unfold State.stage
  split
  · dsimp only
    refine .ite (.refl s) ?_
    split
    · exact .refl s
    · split
      · exact .ite (s.failForm_keeps _ cMem) (.refl s)
      · refine .ite (.trans (.trans ?_ (State.note_keeps ..)) (State.failForm_keeps ..)) ?_
        · exact .of_eq rfl rfl rfl rfl rfl
        · exact .of_eq rfl rfl rfl rfl rfl
  · exact .refl s

theorem State.takeCore_keeps (fid f) : s.keeps (s.takeCore fid f) :=
  ((s.seatForm_keeps fid f).trans (State.addSeg_keeps ..)).trans (State.stage_keeps ..)

end

end Sys2Proof.Machine

/-! PROOFS. FORM_PLACEMENT seats a form, has it wait, gives it up or fails its rows (O20). -/

namespace Sys2Proof.Machine

section
variable {s : State}

/-- FORM_PLACEMENT's write back of what its operation gave. -/
def State.placed (s t : State) : State :=
  { s with
    forms := t.forms, formCount := t.formCount, jobs := t.jobs, gated := t.gated, domIdle := t.domIdle,
    staging := t.staging, stagedKeys := t.stagedKeys, stk := t.stk, log := t.log, logOvf := t.logOvf, fresh := t.fresh,
    ctrs := t.ctrs, hdrs := t.hdrs, regs := t.regs, ret := t.ret }

/-- FORM_PLACEMENT completes with what its operation gave. -/
theorem completes_formPlacement {c : FormDesc} {P : State → Prop} (h : P (s.placed (formPlacementOp s c))) :
    completes (.formPlacement c) s P := by
  intro hs
  refine ⟨s.placed (formPlacementOp s c), ?_, rfl, h⟩
  change execFormPlacement c s = _
  unfold execFormPlacement
  rw [hs]
  rfl

theorem State.sameUnits_placed {t : State} (h : s.keeps t) : sameUnits s (s.placed t) := fun p => by
  have e : (s.placed t).unit p = t.unit p := State.unit_congr (s := t) (t := s.placed t) rfl h.part.symm p
  rw [e, h.units p]

/-- A form that enters the table under the next form number leaves every other entry. -/
theorem State.enters_placed {t : State} {f : Form} (hf : t.forms = tput s.forms s.formCount f)
    (hc : t.formCount = s.formCount + 1) (hk : s.keeps t) :
    tget? (s.placed t).forms s.formCount = some f ∧ (s.placed t).formCount = s.formCount + 1 ∧
      (∀ k, k ≠ s.formCount → tget? (s.placed t).forms k = tget? s.forms k) ∧ sameUnits s (s.placed t) := by
  have e : (s.placed t).forms = tput s.forms s.formCount f := hf
  refine ⟨by rw [e, tget?_tput_same], hc, fun k hk => by rw [e, tget?_tput_other _ _ _ _ hk], State.sameUnits_placed hk⟩

theorem State.placeDue_seats {d : FormDesc} {n : Nat} {b : Option Bool} (hn : s.findCore d none = some (n, b))
    (hr : s.stagedRight d (n / 6400) = true) : s.placeDue d =
      { s.takeCore s.formCount { s.freshForm d with core := n, berth := b } with formCount := s.formCount + 1 } := by
  simp [State.placeDue, hn, hr]

theorem State.placeDue_waits {d : FormDesc} (hn : s.findCore d none = none) : s.placeDue d =
    { s with forms := tput s.forms s.formCount { s.freshForm d with waiting := true }, formCount := s.formCount + 1 } := by
  simp [State.placeDue, hn]

theorem State.placeDue_gives_up {d : FormDesc} {n : Nat} {b : Option Bool} (hn : s.findCore d none = some (n, b))
    (hr : s.stagedRight d (n / 6400) = false) : s.placeDue d = s := by
  simp [State.placeDue, hn, hr]

theorem State.ownsForm_of {d : FormDesc} (h : (∃ i, d = .intake i) ∨ (s.formStep d).isSome = true) :
    s.ownsForm d = true := by
  obtain ⟨i, rfl⟩ | h := h
  · rfl
  · cases d <;> simp_all [State.ownsForm]

/-- A bad descriptor's rows fail, and no form is placed (R21). -/
theorem formPlacementOp_bad {c d : FormDesc} (hd : d = s.chargeTo c) (ho : s.ownsForm d = true)
    (hb : descBad d = true) : formPlacementOp s c = ((s.logOpen 0x04 pgSched 0).failForm d cDesc).bury d := by
  rw [formPlacementOp_eq s c hd]
  simp [ho, hb]

theorem formPlacementOp_good {c d : FormDesc} (hd : d = s.chargeTo c) (ho : s.ownsForm d = true)
    (hb : descBad d = false) : formPlacementOp s c = if s.notDue d then s else s.placeDue d := by
  rw [formPlacementOp_eq s c hd]
  simp [ho, hb]

theorem State.logOpen_jobs (s : State) (cls page inst) : (s.logOpen cls page inst).jobs = s.jobs := by
  simp [State.logOpen]

theorem State.logOpen_landing (s : State) (cls page inst) : (s.logOpen cls page inst).landing = s.landing := by
  simp [State.logOpen]

/-- Which step a form belongs to is a matter of the jobs. -/
theorem State.formStep_congr {t : State} (h : t.jobs = s.jobs) (d) : t.formStep d = s.formStep d := by
  unfold State.formStep State.stepAt
  simp only [State.job_congr h]

/-- Which rows a form names is a matter of the jobs and of the landing buffers. -/
theorem State.formRows_congr {t : State} (h : t.jobs = s.jobs) (hl : t.landing = s.landing) (d) :
    t.formRows d = s.formRows d := by
  unfold State.formRows State.stepAt State.rowList
  simp only [State.job_congr h, hl]

theorem State.failForm_eq {d : FormDesc} {jn : Nat} {st : Step} (h : s.formStep d = some (jn, st))
    (hr : s.formRows d ≠ []) (code) : s.failForm d code =
      s.setStep jn (st.failRows (if (s.job jn).isTrain then List.range st.rows.length else s.formRows d) code) := by
  simp [State.failForm, State.failRows, h, hr, s.cur_of_formStep h]

theorem State.job_setStep (s : State) (j k st) :
    (s.setStep j st).job k = if k = j then { s.job j with cur := some st } else s.job k := s.job_setJob ..

/-- What burying a form leaves of the jobs: the rows of its step, and every other job. -/
theorem State.bury_job {d : FormDesc} {jn : Nat} {st : Step} (h : s.formStep d = some (jn, st)) :
    (∀ k, k ≠ jn → (s.bury d).job k = s.job k) ∧ ∃ u, ((s.bury d).job jn).cur = some u ∧ u.rows = st.rows := by
  obtain e | ⟨j, a, x, hs, e⟩ := s.bury_cases d
  · rw [e]
    exact ⟨fun _ _ => rfl, st, s.cur_of_formStep h, rfl⟩
  · obtain ⟨rfl, rfl⟩ : j = jn ∧ a = st := by simpa [h, eq_comm] using hs
    rw [e]
    refine ⟨fun k hk => ?_, ?_⟩
    · rw [State.job_setStep, if_neg hk]
    · rw [State.job_setStep, if_pos rfl]
      exact ⟨_, rfl, rfl⟩

/-- A form keeps its step as a failure is entered in it. -/
theorem State.formStep_setStep {d : FormDesc} {jn : Nat} {st u : Step} (h : s.formStep d = some (jn, st))
    (hu : u.num = st.num) : (s.setStep jn u).formStep d = some (jn, u) := by
  obtain ⟨lo, hj, hlo, _, hn⟩ := s.formStep_eq_some h
  simp [State.formStep, hj, hlo, State.stepAt, State.job_setStep, hu, hn]

/-- The jobs after a form's rows failed and it was buried. -/
theorem State.failForm_bury_job {d : FormDesc} {jn : Nat} {st : Step} (h : s.formStep d = some (jn, st))
    (hr : s.formRows d ≠ []) (code) :
    (∀ k, k ≠ jn → ((s.failForm d code).bury d).job k = s.job k) ∧
      ∃ u, (((s.failForm d code).bury d).job jn).cur = some u ∧
        u.rows = (st.failRows (if (s.job jn).isTrain then List.range st.rows.length else s.formRows d) code).rows := by
  rw [State.failForm_eq h hr]
  obtain ⟨ho, u, hu, hrows⟩ := State.bury_job (State.formStep_setStep h (u := st.failRows _ code) rfl)
  exact ⟨fun k hk => by rw [ho k hk, State.job_setStep, if_neg hk], u, hu, hrows⟩

/-- A descriptor that firmware would not build now changes nothing. -/
theorem formPlacementOp_held {c d : FormDesc} (hd : d = s.chargeTo c) (ho : s.ownsForm d = true) (hb : descBad d = false)
    (h : emptySum d = true ∨ s.planned d = false ∨ s.inputsIn d = false ∨ s.placeHeld d = true ∨
      s.goesLater d = true ∨ ∃ n b, s.findCore d none = some (n, b) ∧ s.stagedRight d (n / 6400) = false) :
    formPlacementOp s c = s := by
  rw [formPlacementOp_good hd ho hb]
  split
  · rfl
  · next hn =>
    obtain ⟨n, b, hf, hr⟩ : ∃ n b, s.findCore d none = some (n, b) ∧ s.stagedRight d (n / 6400) = false := by
      simp only [State.notDue, Bool.or_eq_true, Bool.not_eq_true'] at hn
      tauto
    exact State.placeDue_gives_up hf hr

theorem formPlacementOp_due {c d : FormDesc} (hd : d = s.chargeTo c) (ho : s.ownsForm d = true) (hb : descBad d = false)
    (hn : s.notDue d = false) : formPlacementOp s c = s.placeDue d := by
  rw [formPlacementOp_good hd ho hb, hn]
  rfl

end

end Sys2Proof.Machine

open Sys2Proof.Machine in

/-- Settles O20: by the branches of FORM_PLACEMENT. -/
theorem formPlacementSeatsTheFormOrHoldsIt : Obligations.FormPlacementSeatsTheFormOrHoldsIt := by
  intro s c d hd how
  have ho := State.ownsForm_of how
  refine ⟨fun hb he hp hi hh hl => ?_, fun hb hw => ?_, fun hb jn st hst hrows => ?_⟩
  · have hdue := formPlacementOp_due hd ho hb (by simp [State.notDue, he, hp, hi, hh, hl])
    refine ⟨fun n b hn hr => completes_formPlacement ?_, fun hn => completes_formPlacement ?_⟩
    · rw [hdue, State.placeDue_seats hn hr]
      refine State.enters_placed (by simp; rfl) rfl ((s.takeCore_keeps ..).trans (.of_eq rfl rfl rfl rfl rfl))
    · rw [hdue, State.placeDue_waits hn]
      exact State.enters_placed rfl rfl (.of_eq rfl rfl rfl rfl rfl)
  · refine completes_formPlacement ?_
    rw [formPlacementOp_held hd ho hb hw]
    rfl
  · refine completes_formPlacement ?_
    rw [formPlacementOp_bad hd ho hb]
    have hj : (s.logOpen 0x04 pgSched 0).jobs = s.jobs := s.logOpen_jobs ..
    have hr := State.formRows_congr hj (s.logOpen_landing ..) d
    obtain ⟨hk, u, hu, hus⟩ := State.failForm_bury_job (d := d) ((State.formStep_congr hj d).trans hst) (hr ▸ hrows) cDesc
    have hkeep := ((s.logOpen_keeps 0x04 pgSched 0).trans (State.failForm_keeps _ d cDesc)).trans (State.bury_keeps _ d)
    refine ⟨(((s.logOpen 0x04 pgSched 0).failForm d cDesc).bury_tables d).1.trans (by simp), State.sameUnits_placed hkeep,
      fun k hkj => (hk k hkj).trans (State.job_congr hj k), u, hu, ?_⟩
    rw [hus, State.job_congr hj, hr]
    rfl

/-! SUPPORT. The end of a form, its tearing down and the placement of what waits keep the units and the steps in flight. -/

namespace Sys2Proof.Machine

section
variable (s : State)

/-! ### The end of a form -/

/-- A form gone from the table, its core's time charged to its group, and its domain idle if it was the last there. -/
def State.freeCore (s : State) (fid : Nat) (f : Form) : State :=
  let t := { s with
    forms := tdel s.forms fid
    used := tput s.used (s.formGroup f)
      (BitVec.ofNat 64 (s.usedOf (s.formGroup f) + (if f.berth.isSome then 1 else 2) * f.acs)) }
  if t.forms.any fun (_, x) => powerDomain x.core = powerDomain f.core && !x.waiting then t
  else { t with domIdle := tput t.domIdle (powerDomain f.core) t.lcount }

/-- The core's time is charged to the form's step (R138). -/
def State.chargeStep (s : State) (f : Form) : State :=
  match s.formStep f.desc with
  | some (j, st) => s.setStep j { st with coreCycles := st.coreCycles + BitVec.ofNat 64 f.acs }
  | none => s

/-- The overruns of the form's job that it was the last to hold are measured (R209). -/
def State.endOverruns (s : State) (f : Form) : Option (BitVec 8) → State
  | none => s
  | some j => (s.overruns.filter (·.1 = j.toNat)).foldl (fun (s : State) x => s.endOverrun f j.toNat x.2) s

theorem State.leaveCore_eq (fid f) : s.leaveCore fid f = ((s.freeCore fid f).chargeStep f).endOverruns f f.job := by
  unfold State.leaveCore State.endOverruns
  rfl

theorem State.freeCore_keeps (fid f) : s.keeps (s.freeCore fid f) :=
  .ite (.of_eq rfl rfl rfl rfl rfl) (.of_eq rfl rfl rfl rfl rfl)

theorem State.chargeStep_keeps (f) : s.keeps (s.chargeStep f) := by
  unfold State.chargeStep
  split
  · next h => exact s.setStep_keeps (s.cur_of_formStep h) (Step.keeps_of_rows rfl rfl)
  · exact .refl s

theorem State.endOverrun_keeps (f j w) : s.keeps (s.endOverrun f j w) := by
  refine .ite (.refl s) (.trans (.trans ?_ (State.count_keeps _ _ (regAt_ne (by decide) (by decide) (by decide))))
    (State.raise_keeps _ pgTide 0))
  exact .of_eq rfl rfl rfl rfl rfl

theorem State.endOverruns_keeps (f j) : s.keeps (s.endOverruns f j) := by
  cases j with
  | none => exact .refl s
  | some j => exact .foldl (fun s (x : Nat × BitVec 64) => s.endOverrun_keeps f j.toNat x.2) _ s

theorem State.leaveCore_keeps (fid f) : s.keeps (s.leaveCore fid f) := by
  rw [State.leaveCore_eq]
  exact ((s.freeCore_keeps fid f).trans (State.chargeStep_keeps ..)).trans (State.endOverruns_keeps ..)

/-! ### Faults -/

theorem State.failMerged_keeps (d hurt) : s.keeps (s.failMerged d hurt) := by
  unfold State.failMerged
  refine .ite (.refl s) ?_
  split
  · exact (s.failRows_keeps _ hurt cForm).trans (State.count_keeps _ _ (regAt_ne (by decide) (by decide) (by decide)))
  · exact .refl s

theorem State.tornForm_keeps (fid f core) : s.keeps (s.tornForm fid f core) :=
  (s.leaveCore_keeps fid f).trans (State.failMerged_keeps ..)

theorem State.tearDown_keeps (fid core) : s.keeps (s.tearDown fid core) := by
  cases hf : tget? s.forms fid with
  | none => rw [State.tearDown_none hf]; exact .refl s
  | some f =>
    rw [State.tearDown_eq hf]
    have ht := s.tornForm_keeps fid f core
    refine .ite (ht.trans ((State.failForm_keeps _ f.desc cForm).trans (State.bury_keeps ..))) ?_
    refine .trans (ht.trans (.ite ?_ (.refl _))) (.of_eq rfl rfl rfl rfl rfl)
    exact State.inc_keeps _ pgSched (by decide) (by decide)

theorem State.sparesLow_keeps (t : State) (slice) : t.keeps (s.sparesLow t slice) :=
  .ite (t.raise_keeps pgRel 4) (.refl t)

theorem State.unbind_keeps (n) : s.keeps (s.unbind n) := by
  cases n with
  | none => exact .refl s
  | some n => exact .ite (.refl s) (.of_eq rfl rfl rfl rfl rfl)

theorem State.markFenced_keeps (pc) : s.keeps (s.markFenced pc) := by
  refine .trans (.trans (.trans (.trans (.trans (s.setCore_keeps pc _) (State.sparesLow_keeps _ _ _)) (State.unbind_keeps _ _))
    (State.inc_keeps _ pgRel ?_ ?_)) (State.logRec_keeps ..)) (State.raise_keeps _ pgRel 2) <;> decide

/-! ### Waiting forms -/

/-- A waiting form takes a core, or is given up as its STAGED bit is wrong there, or goes on waiting. -/
def State.placeOne (s : State) (x : Nat × Form) : State :=
  match (if s.placeHeld x.2.desc then none else s.findCore x.2.desc (if x.2.reissued then some x.2.core else none)) with
  | none => s
  | some (n, b) =>
    if !x.2.reissued && !s.stagedRight x.2.desc (n / 6400) then { s with forms := tdel s.forms x.1 }
    else
      s.takeCore x.1
        { x.2 with desc := s.restage x.2.desc (n / 6400), core := n, berth := b, at_ := s.lcount, charged := 0, acs := 0
                   waiting := false }

theorem State.placeWaiting_eq : s.placeWaiting = s.dispatchOrder.foldl State.placeOne s := rfl

theorem State.placeOne_keeps (x) : s.keeps (s.placeOne x) := by
  unfold State.placeOne
  split
  · exact .refl s
  · exact .ite (.of_eq rfl rfl rfl rfl rfl) (s.takeCore_keeps ..)

theorem State.placeWaiting_keeps : s.keeps s.placeWaiting := .foldl State.placeOne_keeps _ s

end

end Sys2Proof.Machine

/-! SUPPORT. A form torn down waits for another core, or its rows fail (R22, R96). -/

namespace Sys2Proof.Machine

/-! ### The entries of a table in rising order -/

section
variable {α : Type}

theorem mem_of_tget? {t : Tab α} {n : Nat} {v : α} (h : tget? t n = some v) : (n, v) ∈ t := by
  induction t with
  | nil => cases h
  | cons x t ih =>
    obtain ⟨k, w⟩ := x
    by_cases hk : k = n
    · subst hk
      obtain rfl : w = v := by simpa [tget?] using h
      exact List.mem_cons_self ..
    · exact List.mem_cons_of_mem _ (ih (by simpa [tget?, hk] using h))

/-- In a table in rising order each entry is the one its key reads. -/
theorem tget?_of_mem {t : Tab α} (ht : rising t = true) {n : Nat} {v : α} (h : (n, v) ∈ t) : tget? t n = some v := by
  induction t with
  | nil => cases h
  | cons x t ih =>
    obtain ⟨k, w⟩ := x
    obtain ⟨hk, ht⟩ := (rising_cons _ t).mp ht
    rcases List.mem_cons.mp h with h | h
    · obtain ⟨rfl, rfl⟩ := Prod.mk.inj h
      simp [tget?]
    · have hne : k ≠ n := (hk _ h).ne
      simpa [tget?, hne] using ih ht h

theorem nodup_keys {t : Tab α} (ht : rising t = true) (p : Nat × α → Bool) : ((t.filter p).map (·.1)).Nodup := by
  have h := rising_filter ht p
  simp only [rising, decide_eq_true_eq] at h
  exact h.imp Nat.ne_of_lt

end

section
variable {s t : State} {fid : Nat} {f : Form}

/-! ### The waiting forms -/

theorem State.mem_insertForm {x y : Nat × Form} {l : List (Nat × Form)} (h : y ∈ s.insertForm x l) : y = x ∨ y ∈ l := by
  induction l with
  | nil => simpa [State.insertForm] using h
  | cons z l ih =>
    unfold State.insertForm at h
    split at h
    · simpa using h
    · rcases List.mem_cons.mp h with rfl | h
      · exact .inr (List.mem_cons_self ..)
      · exact (ih h).imp_right (List.mem_cons_of_mem _)

theorem State.mem_of_mem_insertAll {l acc : List (Nat × Form)} {y : Nat × Form}
    (h : y ∈ l.foldl (fun acc x => s.insertForm x acc) acc) : y ∈ l ∨ y ∈ acc := by
  induction l generalizing acc with
  | nil => exact .inr h
  | cons x l ih =>
    rcases ih h with h | h
    · exact .inl (List.mem_cons_of_mem _ h)
    · rcases State.mem_insertForm h with rfl | h
      · exact .inl (List.mem_cons_self ..)
      · exact .inr h

theorem State.mem_forms_of_mem_dispatchOrder {x : Nat × Form} (h : x ∈ s.dispatchOrder) : x ∈ s.forms := by
  rcases State.mem_of_mem_insertAll h with h | h
  · exact List.mem_of_mem_filter h
  · cases h

/-- The scan passes over the core that a reissue may not take. -/
theorem State.findCore_ne_avoid {d : FormDesc} {k n : Nat} {b : Option Bool} (h : s.findCore d (some k) = some (n, b)) :
    n ≠ k := by
  obtain ⟨g, _, hg⟩ := List.exists_of_findSome?_eq_some h
  split at hg
  · cases hg
  · obtain ⟨r, _, hr⟩ := List.exists_of_findSome?_eq_some hg
    dsimp only at hr
    split at hr
    · cases hr
    · next hne =>
      obtain ⟨b', _, e⟩ := Option.map_eq_some_iff.mp hr
      obtain ⟨rfl, rfl⟩ := Prod.mk.inj e
      exact fun e => hne (e ▸ rfl)

/-- A form runs again: it waits as it was torn down, or it runs on another core with its descriptor or the one built again. -/
def Form.rerun (f g : Form) : Prop :=
  g = f.reissue ∨
    g.waiting = false ∧ g.reissued = true ∧ g.core ≠ f.core ∧ ∃ (u : State) (k : Nat), g.desc = u.restage f.desc k

theorem State.placeOne_forms_of_ne (x : Nat × Form) (hx : x.1 ≠ fid) :
    tget? (s.placeOne x).forms fid = tget? s.forms fid := by
  unfold State.placeOne
  split
  · rfl
  · split
    · exact tget?_tdel_other _ _ _ hx.symm
    · rw [State.takeCore_forms]
      exact tget?_tput_other _ _ _ _ hx.symm

theorem State.placeOne_reissue {g : Form} (hg : tget? s.forms fid = some g) (hr : f.rerun g) :
    ∃ g', tget? (s.placeOne (fid, f.reissue)).forms fid = some g' ∧ f.rerun g' := by
  unfold State.placeOne
  split
  · exact ⟨g, hg, hr⟩
  · next n b hn =>
    have hne : n ≠ f.core := by
      split at hn
      · cases hn
      · exact State.findCore_ne_avoid hn
    rw [if_neg (by simp [Form.reissue]), State.takeCore_forms]
    exact ⟨_, tget?_tput_same .., .inr ⟨rfl, rfl, hne, s, _, rfl⟩⟩

/-- Placing waiting forms brings no form back into the table. -/
theorem State.placeWaiting_none (hs : rising s.forms = true) (h : tget? s.forms fid = none) :
    tget? s.placeWaiting.forms fid = none := by
  have hne (x) (hx : x ∈ s.dispatchOrder) : x.1 ≠ fid := fun e => by
    have := tget?_of_mem hs (State.mem_forms_of_mem_dispatchOrder hx)
    rw [e, h] at this
    cases this
  rw [State.placeWaiting_eq]
  generalize s.dispatchOrder = l at hne
  clear hs
  induction l generalizing s with
  | nil => exact h
  | cons x l ih =>
    refine ih ?_ fun y hy => hne y (List.mem_cons_of_mem _ hy)
    rw [State.placeOne_forms_of_ne x (hne x (List.mem_cons_self ..)), h]

/-- A form that waits after its fault still waits, or runs again on another core. -/
theorem State.placeWaiting_reissue (hs : rising s.forms = true) (h : tget? s.forms fid = some f.reissue) :
    ∃ g, tget? s.placeWaiting.forms fid = some g ∧ f.rerun g := by
  have he (x) (hx : x ∈ s.dispatchOrder) (e : x.1 = fid) : x = (fid, f.reissue) := by
    have hg := tget?_of_mem hs (State.mem_forms_of_mem_dispatchOrder hx)
    rw [e, h] at hg
    exact Prod.ext e (Option.some.inj hg).symm
  rw [State.placeWaiting_eq]
  have hi : ∃ g, tget? s.forms fid = some g ∧ f.rerun g := ⟨_, h, .inl rfl⟩
  generalize s.dispatchOrder = l at he
  clear hs h
  induction l generalizing s with
  | nil => exact hi
  | cons x l ih =>
    refine ih ?_ fun y hy => he y (List.mem_cons_of_mem _ hy)
    by_cases hx : x.1 = fid
    · obtain ⟨g, hg, hr⟩ := hi
      rw [he x (List.mem_cons_self ..) hx]
      exact State.placeOne_reissue hg hr
    · rw [State.placeOne_forms_of_ne x hx]
      exact hi

/-! ### The rows a form names -/

theorem Step.rowsAt_eq (st : Step) (slot p0 m) : st.rowsAt slot p0 m =
    (((st.rows.map fun r => (r.slot, r.pos)).zipIdx).filter fun (r, _) =>
      r.1.toNat = slot && p0 ≤ r.2.toNat && r.2.toNat < p0 + m).map (·.2) := by
  unfold Step.rowsAt
  rw [List.zipIdx_map, List.filter_map, List.map_map]
  rfl

theorem Step.keeps.length {a b : Step} (h : a.keeps b) : b.rows.length = a.rows.length := by
  simpa using congrArg List.length h.places

theorem Step.keeps.rowsAt {a b : Step} (h : a.keeps b) (slot p0 m) : b.rowsAt slot p0 m = a.rowsAt slot p0 m := by
  rw [Step.rowsAt_eq, Step.rowsAt_eq, h.places]

theorem State.keeps.formStep (h : s.keeps t) {d : FormDesc} {j : Nat} {a : Step} (ha : s.formStep d = some (j, a)) :
    ∃ b, t.formStep d = some (j, b) ∧ a.keeps b := by
  obtain ⟨lo, hj, hlo, hc, hn⟩ := s.formStep_eq_some ha
  obtain ⟨b, hb, hab⟩ := h.steps j a hc
  refine ⟨b, ?_, hab⟩
  simp [State.formStep, hj, hlo, State.stepAt, hb, hab.num, hn]

theorem State.keeps.formRows (h : s.keeps t) {d : FormDesc} {j : Nat} {a : Step} (ha : s.formStep d = some (j, a)) :
    t.formRows d = s.formRows d := by
  obtain ⟨b, hb, hab⟩ := h.formStep ha
  cases d with
  | raw w =>
    have stepAt_of {r : State} {x : Step} (hx : r.formStep (.raw w) = some (j, x)) :
        r.stepAt (dJob w) (dStep w) = some x := by
      obtain ⟨lo, hj, hlo, hc, hn⟩ := r.formStep_eq_some hx
      obtain rfl := Option.some.inj hj
      obtain rfl := Option.some.inj hlo
      simp [State.stepAt, hc, hn]
    unfold State.formRows State.rowList
    simp only [stepAt_of ha, stepAt_of hb, hab.rowsAt, h.landing]
  | vec v => rfl
  | intake i => rfl

/-- Every row that a form names in a state has failed with FORM_FAULT in a later one. -/
def State.rowsFailed (s t : State) (d : FormDesc) : Prop :=
  ∀ jn st, s.formStep d = some (jn, st) → s.formRows d ≠ [] →
    ∃ u, (t.job jn).cur = some u ∧ ∀ i, i ∈ s.formRows d → i < st.rows.length → (u.row i).fails.contains 0x12#8 = true

theorem State.rowsFailed.later {u : State} {d} (h : s.rowsFailed t d) (k : t.keeps u) : s.rowsFailed u d := by
  intro jn st hst hr
  obtain ⟨a, ha, hf⟩ := h jn st hst hr
  obtain ⟨b, hb, hab⟩ := k.steps jn a ha
  exact ⟨b, hb, fun i hi hl => List.contains_iff_mem.mpr (hab.fails i _ (List.contains_iff_mem.mp (hf i hi hl)))⟩

theorem State.rowsFailed.since {r : State} {d} (k : r.keeps s) (h : s.rowsFailed t d) : r.rowsFailed t d := by
  intro jn st hst hr
  obtain ⟨b, hb, hab⟩ := k.formStep hst
  have e := k.formRows hst
  obtain ⟨u, hu, hf⟩ := h jn b hb (e ▸ hr)
  exact ⟨u, hu, fun i hi hl => hf i (e ▸ hi) (hab.length ▸ hl)⟩

theorem State.failForm_rowsFailed (d) : s.rowsFailed (s.failForm d cForm) d := by
  intro jn st hst hr
  rw [State.failForm_eq hst hr, State.job_setStep, if_pos rfl]
  refine ⟨_, rfl, fun i hi hl => ?_⟩
  rw [Step.row_failRows _ _ _ hl, if_pos]
  · exact Row.fail_contains _ cForm
  · split
    · simpa using hl
    · simpa using hi

/-! ### A form's fault -/

/-- What a fault makes of a form: a first fault has it run again, a second one takes it from the table and fails its rows. -/
def State.faulted (s t : State) (fid : Nat) (f : Form) : Prop :=
  s.keeps t ∧ (f.reissued = false → ∃ g, tget? t.forms fid = some g ∧ f.rerun g) ∧
    (f.reissued = true → tget? t.forms fid = none ∧ s.rowsFailed t f.desc)

/-- The form is torn down, and no form placed since. -/
structure State.torn (s t : State) (fid : Nat) (f : Form) : Prop where
  keeps : s.keeps t
  order : rising t.forms = true
  form : tget? t.forms fid = if f.reissued then none else some f.reissue
  rows : f.reissued = true → s.rowsFailed t f.desc

theorem State.torn.of_keeps (h : s.torn t fid f) {u : State} (k : t.keeps u) (ho : rising u.forms = true)
    (hf : tget? u.forms fid = tget? t.forms fid) : s.torn u fid f :=
  ⟨h.keeps.trans k, ho, hf.trans h.form, fun hr => (h.rows hr).later k⟩

theorem State.torn.since (h : s.torn t fid f) {r : State} (k : r.keeps s) : r.torn t fid f :=
  ⟨k.trans h.keeps, h.order, h.form, fun hr => (h.rows hr).since k⟩

theorem State.torn.faulted (h : s.torn t fid f) : s.faulted t fid f :=
  ⟨h.keeps, fun hr => ⟨_, by simpa [hr] using h.form, .inl rfl⟩, fun hr => ⟨by simpa [hr] using h.form, h.rows hr⟩⟩

theorem State.torn.placeWaiting (h : s.torn t fid f) : s.faulted t.placeWaiting fid f := by
  refine ⟨h.keeps.trans t.placeWaiting_keeps, fun hr => ?_, fun hr => ?_⟩
  · exact State.placeWaiting_reissue h.order (by simpa [hr] using h.form)
  · exact ⟨State.placeWaiting_none h.order (by simpa [hr] using h.form), (h.rows hr).later t.placeWaiting_keeps⟩

theorem State.tearDown_tget?_other {k : Nat} (hk : fid ≠ k) (core) :
    tget? (s.tearDown k core).forms fid = tget? s.forms fid := by
  cases hf : tget? s.forms k with
  | none => rw [State.tearDown_none hf]
  | some g =>
    rw [State.tearDown_forms hf]
    split
    · exact tget?_tdel_other _ _ _ hk
    · rw [tget?_tput_other _ _ _ _ hk, tget?_tdel_other _ _ _ hk]

theorem State.tearDown_torn (hs : rising s.forms = true) (hf : tget? s.forms fid = some f) (core) :
    s.torn (s.tearDown fid core) fid f where
  keeps := s.tearDown_keeps fid core
  order := State.tearDown_rising hs fid core
  form := by rw [State.tearDown_forms hf]; split <;> simp
  rows hr := by
    rw [State.tearDown_eq hf]
    simp only [hr, if_true]
    exact (State.failForm_rowsFailed f.desc).since (s.tornForm_keeps fid f core) |>.later (State.bury_keeps ..)

theorem State.torn.tearDownAll (h : s.torn t fid f) {fids : List Nat} (hn : fid ∉ fids) :
    s.torn (t.tearDownAll fids) fid f := by
  induction fids generalizing t with
  | nil => exact h
  | cons k fids ih =>
    obtain ⟨hk, hn⟩ := not_or.mp (List.mem_cons.not.mp hn)
    exact ih (h.of_keeps (t.tearDown_keeps k true) (State.tearDown_rising h.order ..) (State.tearDown_tget?_other hk _)) hn

/-- A form among those that are torn down, each once. -/
theorem State.tearDownAll_torn (hs : rising s.forms = true) (hf : tget? s.forms fid = some f) {fids : List Nat}
    (hm : fid ∈ fids) (hd : fids.Nodup) : s.torn (s.tearDownAll fids) fid f := by
  induction fids generalizing s with
  | nil => cases hm
  | cons k fids ih =>
    obtain ⟨hk, hd⟩ := List.nodup_cons.mp hd
    by_cases e : fid = k
    · subst e
      exact (State.tearDown_torn hs hf true).tearDownAll hk
    · have hm : fid ∈ fids := (List.mem_cons.mp hm).resolve_left e
      exact (ih (State.tearDown_rising hs k true) ((State.tearDown_tget?_other e true).trans hf) hm hd).since
        (s.tearDown_keeps k true)

/-! ### The forms of a core -/

theorem State.fidsOn_nodup (hs : rising s.forms = true) (n) : (s.fidsOn n).Nodup := nodup_keys hs _

theorem State.mem_fidsOn (hs : rising s.forms = true) (hf : tget? s.forms fid = some f) {n : Nat} :
    fid ∈ s.fidsOn n ↔ f.core = n ∧ f.waiting = false := by
  simp only [State.fidsOn, List.mem_map, List.mem_filter]
  constructor
  · rintro ⟨x, ⟨hx, hp⟩, rfl⟩
    obtain rfl : x.2 = f := Option.some.inj ((tget?_of_mem hs hx).symm.trans hf)
    simpa using hp
  · exact fun h => ⟨(fid, f), ⟨mem_of_tget? hf, by simpa using h⟩, rfl⟩

theorem State.not_mem_fidsOn (hs : rising s.forms = true) (hf : tget? s.forms fid = none) (n) : fid ∉ s.fidsOn n := by
  simp only [State.fidsOn, List.mem_map, List.mem_filter]
  rintro ⟨x, ⟨hx, -⟩, rfl⟩
  rw [tget?_of_mem hs hx] at hf
  cases hf

theorem State.torn.not_mem_fidsOn (h : s.torn t fid f) (n) : fid ∉ t.fidsOn n := by
  have hf := h.form
  split at hf
  · exact State.not_mem_fidsOn h.order hf n
  · rw [State.mem_fidsOn h.order hf]
    simp [Form.reissue]

/-- A form torn down already is not torn down by a fence that follows. -/
theorem State.torn.fenceCore (h : s.torn t fid f) (pc) : s.faulted (t.fenceCore pc) fid f := by
  rw [State.fenceCore_eq]
  split
  · exact h.faulted
  · have hn : fid ∉ t.formsServed pc := by
      unfold State.formsServed
      split
      · exact h.not_mem_fidsOn _
      · simp
    have hm : (t.markFenced pc).forms = t.forms := (t.markFenced_tables pc).1
    have ht := (h.of_keeps (t.markFenced_keeps pc) (hm ▸ h.order) (by rw [hm])).tearDownAll hn
    exact (ht.of_keeps (State.touch_keeps _) ht.order rfl).placeWaiting

/-- A fence tears down the forms that run on the core. -/
theorem State.fenceCore_faulted (hs : rising s.forms = true) (hf : tget? s.forms fid = some f) (hw : f.waiting = false)
    {pc : Nat} (hpc : s.servedBy pc = some f.core) (hst : (s.core pc).st = .inService) :
    s.faulted (s.fenceCore pc) fid f := by
  have hm : (s.markFenced pc).forms = s.forms := (s.markFenced_tables pc).1
  have hfs : s.formsServed pc = s.fidsOn f.core := by simp [State.formsServed, hpc]
  rw [State.fenceCore_eq, if_neg (by simp [hst]), hfs]
  have ht := (State.tearDownAll_torn (hm ▸ hs) (hm ▸ hf) ((State.mem_fidsOn hs hf).mpr ⟨rfl, hw⟩)
    (State.fidsOn_nodup hs f.core)).since (s.markFenced_keeps pc)
  exact (ht.of_keeps (State.touch_keeps _) ht.order rfl).placeWaiting

/-! ### FORM_FAULT and WDOG -/

theorem State.fault1_keeps (pc) : s.keeps (s.fault1 pc) := s.setCore_keeps pc _

theorem State.faulted.since {r : State} (h : s.faulted t fid f) (k : r.keeps s) : r.faulted t fid f :=
  ⟨k.trans h.1, h.2.1, fun hr => ⟨(h.2.2 hr).1, (h.2.2 hr).2.since k⟩⟩

end

end Sys2Proof.Machine

/-! PROOFS. FORM_FAULT and WDOG reissue a form once, then fail its rows (O28). -/

namespace Sys2Proof.Machine

section
variable {s : State} {fid : Nat} {f : Form} {pc : Nat}

/-- A fault of one form is logged with its core and counts toward the core's limit (R330). -/
def State.logFault (s : State) (cls pc : Nat) : State :=
  (s.logRec cls (pgSlice (pc / 6560)) (pc / 6560) (BitVec.ofNat 32 pc)).fault1 pc

/-- A form is torn down, and its core fenced with it once the core is past its limit (R330). -/
def State.dropForm (s : State) (fid pc : Nat) : State :=
  let t := s.tearDown fid false
  if bitsOf (t.rd pgRel 0x044) 7 4 ≤ t.recentFaults pc then t.fenceCore pc else t.placeWaiting

/-- A whole core's fault is logged, and the core fenced, or its forms torn down (R96). -/
def State.dropCore (s : State) (pc n : Nat) : State :=
  let t := s.logRec 0x01 (pgSlice (pc / 6560)) (pc / 6560) (BitVec.ofNat 32 pc)
  if (t.rd pgRel 0x044).getLsbD 0 then t.fenceCore pc else (t.tearDownAll (s.fidsOn n)).placeWaiting

theorem formFaultOp_eq (hf : tget? s.forms fid = some f) (hw : f.waiting = false) (hv : s.serving f.core = some pc) (core) :
    formFaultOp s fid core = if core then s.dropCore pc f.core else (s.logFault 0x02 pc).dropForm fid pc := by
  unfold formFaultOp
  simp only [hf, hw, hv]
  rfl

theorem wdogOp_eq (hf : tget? s.forms fid = some f) (hw : f.waiting = false) (hv : s.serving f.core = some pc)
    (hc : 32 * bitsOf (s.rd pgSched 0x058) 16 0 < f.charged) :
    wdogOp s fid = (((s.inc pgSched 0x070).raise pgSched 1).logFault 0x03 pc).dropForm fid pc := by
  unfold wdogOp
  simp only [hf, hw, hv, Nat.not_le.mpr hc]
  rfl

theorem State.logFault_keeps (s : State) (cls pc) : s.keeps (s.logFault cls pc) :=
  (s.logRec_keeps ..).trans (State.fault1_keeps pc)

theorem State.logFault_forms (s : State) (cls pc) : (s.logFault cls pc).forms = s.forms := by
  simp [State.logFault, State.fault1]

theorem State.dropForm_faulted (hs : rising s.forms = true) (hf : tget? s.forms fid = some f) (pc) :
    s.faulted (s.dropForm fid pc) fid f := by
  have ht := State.tearDown_torn hs hf false
  unfold State.dropForm
  dsimp only
  split
  · exact ht.fenceCore pc
  · exact ht.placeWaiting

theorem State.logFault_dropForm_faulted (hs : rising s.forms = true) (hf : tget? s.forms fid = some f) (cls pc) :
    s.faulted ((s.logFault cls pc).dropForm fid pc) fid f := by
  refine (State.dropForm_faulted ?_ ?_ pc).since (s.logFault_keeps cls pc)
  · rwa [State.logFault_forms]
  · rwa [State.logFault_forms]

/-- The number that a core serves is a matter of the bindings. -/
theorem State.servedBy_congr {t : State} (hr : t.remap = s.remap) (hu : t.unbound = s.unbound) (pc) :
    t.servedBy pc = s.servedBy pc := by
  unfold State.servedBy
  rw [hr, hu]

theorem State.core_congr {t : State} (hc : t.cores = s.cores) (hb : t.baseEpoch = s.baseEpoch) (pc) :
    t.core pc = s.core pc := by
  unfold State.core State.coreDefault
  rw [hc, hb]

theorem State.dropCore_faulted (hs : rising s.forms = true) (hf : tget? s.forms fid = some f) (hw : f.waiting = false)
    (hpc : s.servedBy pc = some f.core) (hst : (s.core pc).st = .inService) :
    s.faulted (s.dropCore pc f.core) fid f := by
  unfold State.dropCore
  dsimp only
  split
  · refine (State.fenceCore_faulted (by simpa using hs) (by simpa using hf) hw ?_ ?_).since (s.logRec_keeps ..)
    · rw [State.servedBy_congr (s := s) (by simp) (by simp), hpc]
    · rw [State.core_congr (s := s) (by simp) (by simp), hst]
  · exact ((State.tearDownAll_torn (by simpa using hs) (by simpa using hf) ((State.mem_fidsOn hs hf).mpr ⟨rfl, hw⟩)
      (State.fidsOn_nodup hs f.core)).placeWaiting).since (s.logRec_keeps ..)

/-- FORM_FAULT's and WDOG's write back of what their operations gave. -/
def State.faultWrites (s t : State) : State :=
  { s with
    forms := t.forms, jobs := t.jobs, used := t.used, cores := t.cores, unbound := t.unbound, overruns := t.overruns,
    debt := t.debt, gated := t.gated, domIdle := t.domIdle, staging := t.staging, stagedKeys := t.stagedKeys, stk := t.stk,
    log := t.log, logOvf := t.logOvf, ret := t.ret, ctrs := t.ctrs, hdrs := t.hdrs, regs := t.regs }

theorem completes_formFault {core : Bool} {P : State → Prop} (h : P (s.faultWrites (formFaultOp s fid core))) :
    completes (.formFault fid core) s P := by
  intro hs
  refine ⟨s.faultWrites (formFaultOp s fid core), ?_, rfl, h⟩
  change execFormFault fid core s = _
  unfold execFormFault
  rw [hs]
  rfl

theorem completes_wdog {P : State → Prop} (h : P (s.faultWrites (wdogOp s fid))) : completes (.wdog fid) s P := by
  intro hs
  refine ⟨s.faultWrites (wdogOp s fid), ?_, rfl, h⟩
  change execWdog fid s = _
  unfold execWdog
  rw [hs]
  rfl

/-- A form that runs again keeps its descriptor, or runs with the one built again, and not on the core of its fault. -/
theorem Form.rerun_fields {g : Form} (h : f.rerun g) : g.reissued = true ∧
    (g.desc = f.desc ∨ g.waiting = false ∧ ∃ u k, g.desc = State.restage u f.desc k) ∧
    (g.waiting = false → g.core ≠ f.core) := by
  obtain rfl | ⟨hw, hr, hc, u, k, hd⟩ := h
  · exact ⟨rfl, .inl rfl, fun h => by simp [Form.reissue] at h⟩
  · exact ⟨hr, .inr ⟨hw, u, k, hd⟩, fun _ => hc⟩

/-- The same as `State.faulted`, of the state written back, and with the fields of the form that runs again. -/
theorem State.faulted.written {r t : State} (h : r.faulted t fid f) (hp : r.part = s.part) (hu : sameUnits s r)
    (hj : r.jobs = s.jobs) (hl : r.landing = s.landing) :
    sameUnits s (s.faultWrites t) ∧
      (f.reissued = false → ∃ g, tget? (s.faultWrites t).forms fid = some g ∧ g.reissued = true ∧
        (g.desc = f.desc ∨ g.waiting = false ∧ ∃ u k, g.desc = State.restage u f.desc k) ∧
        (g.waiting = false → g.core ≠ f.core)) ∧
      (f.reissued = true → tget? (s.faultWrites t).forms fid = none ∧ s.rowsFailed (s.faultWrites t) f.desc) := by
  obtain ⟨hk, hfirst, hsecond⟩ := h
  refine ⟨fun p => ?_, fun hr => ?_, fun hr => ?_⟩
  · have e : (s.faultWrites t).unit p = t.unit p :=
      State.unit_congr (s := t) (t := s.faultWrites t) rfl (hk.part.trans hp).symm p
    rw [e, hk.units p, hu p]
  · obtain ⟨g, hg, hre⟩ := hfirst hr
    exact ⟨g, hg, Form.rerun_fields hre⟩
  · obtain ⟨hn, hrows⟩ := hsecond hr
    refine ⟨hn, fun jn st hst hne => ?_⟩
    have e := State.formRows_congr hj hl f.desc
    rw [← e] at hne ⊢
    exact hrows jn st ((State.formStep_congr hj f.desc).trans hst) hne

/-- An increment of a counter is counted, up to where it sticks (R374). -/
theorem State.inc_countedBy (s : State) (page off) : s.countedBy (s.inc page off) page off 1 := by
  intro hsat
  unfold State.counted State.inc State.count
  dsimp only
  rw [if_neg (by simp [hsat])]
  split
  · next h =>
    simp only [State.ctr, tget_tput_same] at h ⊢
    rw [BitVec.toNat_ofNat, Nat.mod_eq_of_lt (by omega)]
    omega
  · next h =>
    simp only [State.ctr_raise]
    simp only [State.ctr, tget_tput_same] at h ⊢
    rw [BitVec.toNat_allOnes]
    omega

/-- A watchdog expiry is counted and raised, whatever its fault does after. -/
theorem State.wdog_counted_and_raised {t : State} (k : ((s.inc pgSched 0x070).raise pgSched 1).keeps t) :
    s.countedBy (s.faultWrites t) pgSched 0x070 1 ∧ (s.faultWrites t).event pgSched 1 = true := by
  constructor
  · intro hsat
    have e : (s.faultWrites t).counted pgSched 0x070 = (s.inc pgSched 0x070).counted pgSched 0x070 :=
      congrArg (fun c : Ctr => c.value.toNat) k.wdogs
    rw [e]
    exact s.inc_countedBy pgSched 0x070 hsat
  · exact k.events _ _ (State.event_raise_same _ _ _ (by decide))

end

end Sys2Proof.Machine

open Sys2Proof.Machine in

/-- Settles O28: the form is torn down once, before the forms that wait take cores. -/
theorem formFaultsReissueOnceThenFailTheRows : Obligations.FormFaultsReissueOnceThenFailTheRows := by
  intro s form f pc c hs hf hw hv hpc hst hc
  have ff (core : Bool) : s.faulted (formFaultOp s form core) form f := by
    rw [formFaultOp_eq hf hw hv]
    cases core with
    | false => exact State.logFault_dropForm_faulted hs hf 0x02 pc
    | true => exact State.dropCore_faulted hs hf hw hpc hst
  obtain rfl | rfl | ⟨rfl, hcharged⟩ := hc
  · obtain ⟨hu, hfirst, hsecond⟩ := (ff false).written rfl (fun _ => rfl) rfl rfl
    exact completes_formFault ⟨hu, nofun, hfirst, hsecond⟩
  · obtain ⟨hu, hfirst, hsecond⟩ := (ff true).written rfl (fun _ => rfl) rfl rfl
    exact completes_formFault ⟨hu, nofun, hfirst, hsecond⟩
  · have hd : ((s.inc pgSched 0x070).raise pgSched 1).faulted (wdogOp s form) form f := by
      rw [wdogOp_eq hf hw hv hcharged]
      exact State.logFault_dropForm_faulted (by simpa using hs) (by simpa using hf) 0x03 pc
    obtain ⟨hu, hfirst, hsecond⟩ := hd.written (s := s) (by simp) (fun _ => by simp) (by simp) (by simp)
    exact completes_wdog ⟨hu, fun _ => State.wdog_counted_and_raised hd.1, hfirst, hsecond⟩

/-! SUPPORT. What the operations on a lane leave alone: the other lanes, the commands and their steps. -/

namespace Sys2Proof.Machine

section
variable (s : State)

/-! ### A lane's record, its counters and its events -/

theorem State.lane_congr {s t : State} (h : t.lanes = s.lanes) (k) : t.lane k = s.lane k := by
  unfold State.lane
  rw [h]

@[simp] theorem State.lane_setLane_same (l v) : (s.setLane l v).lane l = v := tget_tput_same ..

@[simp] theorem State.lane_setLane_other (l k v) (h : k ≠ l) : (s.setLane l v).lane k = s.lane k :=
  tget_tput_other _ _ _ _ _ h

@[simp] theorem State.laneInc_lanes (l off) : (s.laneInc l off).lanes = s.lanes := State.inc_lanes ..

@[simp] theorem State.lane_laneInc (l off k) : (s.laneInc l off).lane k = s.lane k :=
  State.lane_congr (s.laneInc_lanes l off) k

/-- Two counters of a lane are apart. -/
theorem State.ctr_laneInc_other (l) {a b : Nat} (h : a ≠ b) :
    (s.laneInc l b).ctr (regAt (pgMerge l) (laneOff l + a)) = s.ctr (regAt (pgMerge l) (laneOff l + a)) := by
  refine s.ctr_count_other _ 1 _ ?_
  unfold regAt
  omega

theorem State.laneInc_countedBy (l off) : s.countedBy (s.laneInc l off) (pgMerge l) (laneOff l + off) 1 :=
  s.inc_countedBy (pgMerge l) (laneOff l + off)

theorem State.laneInc_keeps (l) {off : Nat} (h : off < 0x100) : s.keeps (s.laneInc l off) := by
  refine s.inc_keeps _ ?_ ?_ <;> unfold laneOff <;> omega

theorem State.setLane_keeps (l v) : s.keeps (s.setLane l v) := .of_eq rfl rfl rfl rfl rfl

/-- A count is a matter of one counter, before and after. -/
theorem State.countedBy.congr {s t u v : State} {p o n : Nat} (h : s.countedBy t p o n)
    (hs : u.ctr (regAt p o) = s.ctr (regAt p o)) (ht : v.ctr (regAt p o) = t.ctr (regAt p o)) : u.countedBy v p o n := by
  unfold State.countedBy State.counted at *
  rwa [hs, ht]

/-! ### The commands and their steps -/

/-- The states differ in the lanes, the landing buffers, the counters, the registers and the headers alone. -/
def State.sameWork (s t : State) : Prop :=
  ∃ lanes landing ctrs regs hdrs,
    t = { s with lanes := lanes, landing := landing, ctrs := ctrs, regs := regs, hdrs := hdrs }

namespace State.sameWork
variable {s t u : State}

theorem refl (s : State) : s.sameWork s := ⟨_, _, _, _, _, rfl⟩

theorem trans (h : s.sameWork t) (k : t.sameWork u) : s.sameWork u := by
  obtain ⟨_, _, _, _, _, rfl⟩ := h
  obtain ⟨_, _, _, _, _, rfl⟩ := k
  exact ⟨_, _, _, _, _, rfl⟩

theorem part (h : s.sameWork t) : t.part = s.part := by obtain ⟨_, _, _, _, _, rfl⟩ := h; rfl
theorem jobs (h : s.sameWork t) : t.jobs = s.jobs := by obtain ⟨_, _, _, _, _, rfl⟩ := h; rfl
theorem cmds (h : s.sameWork t) : t.cmds = s.cmds := by obtain ⟨_, _, _, _, _, rfl⟩ := h; rfl
theorem cmdStep (h : s.sameWork t) (c) : t.cmdStep c = s.cmdStep c := by obtain ⟨_, _, _, _, _, rfl⟩ := h; rfl

theorem cmdOf (h : s.sameWork t) (key) : t.cmdOf key = s.cmdOf key := by obtain ⟨_, _, _, _, _, rfl⟩ := h; rfl
theorem cmdFp32 (h : s.sameWork t) (a) : t.cmdFp32 a = s.cmdFp32 a := by obtain ⟨_, _, _, _, _, rfl⟩ := h; rfl
theorem lcount (h : s.sameWork t) : t.lcount = s.lcount := by obtain ⟨_, _, _, _, _, rfl⟩ := h; rfl

theorem validBytes (h : s.sameWork t) (c x tag) : t.validBytes c x tag = s.validBytes c x tag := by
  obtain ⟨_, _, _, _, _, rfl⟩ := h
  rfl

end State.sameWork

theorem State.laneInc_sameWork (l off) : s.sameWork (s.laneInc l off) := ⟨_, _, _, _, _, s.count_shape ..⟩

theorem State.setLane_sameWork (l v) : s.sameWork (s.setLane l v) := ⟨_, _, _, _, _, rfl⟩

theorem State.laneEvent_sameWork (l e) : s.sameWork (s.laneEvent l e) := ⟨_, _, _, _, _, rfl⟩

theorem State.setLand_sameWork (a bs) : s.sameWork (s.setLand a bs) := ⟨_, _, _, _, _, rfl⟩

/-! ### The rows of a command on a lane -/

/-- Failing rows writes the jobs alone. -/
theorem State.failRows_shape (j rows code) : s.failRows j rows code = { s with jobs := (s.failRows j rows code).jobs } := by
  unfold State.failRows
  split
  · split <;> rfl
  · rfl

/-- A step in flight after rows of a job failed is the one it was, or the one with some rows failed. -/
theorem State.cur_failRows (j rows code k) : ((s.failRows j rows code).job k).cur = (s.job k).cur ∨
    ∃ st is, (s.job k).cur = some st ∧ ((s.failRows j rows code).job k).cur = some (st.failRows is code) := by
  unfold State.failRows
  split
  · next st hst =>
    split
    · exact .inl rfl
    · rw [State.job_setStep]
      split
      · next hk => exact .inr ⟨st, _, hk ▸ hst, rfl⟩
      · exact .inl rfl
  · exact .inl rfl

theorem State.cmdStep_eq_some {c : Cmd} {st : Step} :
    s.cmdStep c = some st ↔ (s.job c.arr.job.toNat).cur = some st ∧ st.num = c.step := by
  simp [State.cmdStep, Option.filter_eq_some_iff]

/-- A command's step stays in flight where steps do. -/
theorem State.keeps.cmdStep {s t : State} (k : s.keeps t) {c : Cmd} {st : Step} (h : s.cmdStep c = some st) :
    ∃ u, t.cmdStep c = some u ∧ st.keeps u := by
  obtain ⟨hst, hn⟩ := s.cmdStep_eq_some.mp h
  obtain ⟨u, hu, hk⟩ := k.steps _ st hst
  exact ⟨u, t.cmdStep_eq_some.mpr ⟨hu, hk.num.trans hn⟩, hk⟩

/-- Beats of each row of a command whose step is in flight. -/
def State.blocksOf (s : State) (c : Cmd) : Option Nat := (s.cmdStep c).map (s.cmdBlocks c.arr)

theorem State.blocksOf_failRows (j rows code c) : (s.failRows j rows code).blocksOf c = s.blocksOf c := by
  have hb : (s.failRows j rows code).cmdBlocks c.arr = s.cmdBlocks c.arr := by
    rw [State.failRows_shape]
    rfl
  unfold State.blocksOf State.cmdStep
  rw [hb]
  obtain e | ⟨st, is, hst, e⟩ := s.cur_failRows j rows code c.arr.job.toNat
  · rw [e]
  · rw [e, hst, Option.filter_some, Option.filter_some]
    change (if (st.num == c.step) = true then some (st.failRows is code) else none).map _ = _
    split <;> rfl

/-- The rows of a command's beats, in the order of the beats. -/
theorem State.cmdBeats_rows (c : ArrayCmd) (st) : (s.cmdBeats c st).map (·.1) =
    c.rows.flatMap fun r => List.replicate (s.cmdBlocks c st) r.toNat := by
  simp [State.cmdBeats, List.map_flatMap, Function.comp_def]

/-- Which rows travel on a lane is a matter of the rows of the beats. -/
theorem laneBeats_rows (nl l bs) : (laneBeats nl l bs).map (·.1) =
    ((bs.map (·.1)).zipIdx.filter fun x => x.2 % nl = l).map (·.1) := by
  simp [laneBeats, List.zipIdx_map, List.filter_map, Function.comp_def]

/-- A command's rows on a lane are a matter of the lanes there are and of the beats of each row. -/
theorem State.rowsOnLane_congr {s t : State} {c : Cmd} (hp : t.part = s.part) (hb : t.blocksOf c = s.blocksOf c) (l) :
    t.rowsOnLane c l = s.rowsOnLane c l := by
  unfold State.rowsOnLane
  unfold State.blocksOf at hb
  cases hs : s.cmdStep c <;> cases ht : t.cmdStep c <;> simp only [hs, ht, Option.map_some, Option.map_none] at hb ⊢
  case some.some st u =>
    simp only [laneBeats_rows, State.cmdBeats_rows, hp, Option.some.inj hb]
  all_goals cases hb

@[simp] theorem State.rowsOnLane_failRows (j rows code c l) :
    (s.failRows j rows code).rowsOnLane c l = s.rowsOnLane c l :=
  State.rowsOnLane_congr (by rw [State.failRows_shape]) (s.blocksOf_failRows ..) l

theorem State.sameWork.rowsOnLane {s t : State} (h : s.sameWork t) (c l) : t.rowsOnLane c l = s.rowsOnLane c l := by
  refine State.rowsOnLane_congr h.part ?_ l
  obtain ⟨_, _, _, _, _, rfl⟩ := h
  rfl

theorem State.rowFails.later {s t : State} {j i code : Nat} (h : s.rowFails j i code) (k : s.keeps t) :
    t.rowFails j i code := by
  obtain ⟨st, hst, hi⟩ := h
  obtain ⟨u, hu, hk⟩ := k.steps j st hst
  exact ⟨u, hu, hk.fails i _ hi⟩

theorem State.failRows_rowFails {j i : Nat} {rows : List Nat} {st : Step} (hst : (s.job j).cur = some st) (hi : i ∈ rows)
    (hl : i < st.rows.length) (code) : (s.failRows j rows code).rowFails j i code := by
  unfold State.failRows
  rw [hst]
  dsimp only
  rw [if_neg (List.ne_nil_of_mem hi)]
  refine ⟨_, by rw [State.job_setStep, if_pos rfl], ?_⟩
  rw [Step.row_failRows _ _ _ hl, if_pos]
  · exact List.contains_iff_mem.mp (Row.fail_contains _ code)
  · split
    · simpa using hl
    · simpa using hi

/-! ### The rows of every command on a lane -/

/-- The rows of a command with a beat on a lane fail (R112). -/
def State.failOnLane (l : Nat) (s : State) (c : Cmd) : State := s.failRows c.arr.job.toNat (s.rowsOnLane c l) cMiss

theorem State.failLane_eq (l) :
    s.failLane l = (s.cmds.filter fun c => (s.lane l).holders.contains c.key).foldl (State.failOnLane l) s := rfl

theorem State.failOnLane_fold_shape (l) (cs : List Cmd) (s : State) :
    cs.foldl (State.failOnLane l) s = { s with jobs := (cs.foldl (State.failOnLane l) s).jobs } := by
  induction cs generalizing s with
  | nil => rfl
  | cons c cs ih =>
    rw [List.foldl_cons, ih]
    unfold State.failOnLane
    rw [State.failRows_shape]

/-- A lane's failure writes the jobs alone. -/
theorem State.failLane_shape (l) : s.failLane l = { s with jobs := (s.failLane l).jobs } := by
  rw [State.failLane_eq]
  exact State.failOnLane_fold_shape ..

theorem State.failLane_keeps (l) : s.keeps (s.failLane l) :=
  .foldl (f := State.failOnLane l) (fun s _ => s.failRows_keeps ..) _ s

theorem State.failOnLane_fold_rowFails (l) {cs : List Cmd} {c : Cmd} (hc : c ∈ cs) {s : State} {st : Step}
    (hst : s.cmdStep c = some st) {i : Nat} (hi : i ∈ s.rowsOnLane c l) (hl : i < st.rows.length) :
    (cs.foldl (State.failOnLane l) s).rowFails c.arr.job.toNat i cMiss := by
  induction cs generalizing s st with
  | nil => cases hc
  | cons d cs ih =>
    rcases List.mem_cons.mp hc with rfl | hc
    · exact (s.failRows_rowFails (s.cmdStep_eq_some.mp hst).1 hi hl cMiss).later
        (.foldl (f := State.failOnLane l) (fun s _ => s.failRows_keeps ..) cs _)
    · obtain ⟨u, hu, hk⟩ := (s.failRows_keeps d.arr.job.toNat (s.rowsOnLane d l) cMiss).cmdStep hst
      exact ih hc hu (by unfold State.failOnLane; rwa [State.rowsOnLane_failRows]) (hk.length ▸ hl)

/-- Every row with a beat on the lane fails in every command that holds a reservation there (R112). -/
theorem State.failLane_rowFails (l) {c : Cmd} (hc : c ∈ s.cmds) (hh : (s.lane l).holders.contains c.key = true)
    {st : Step} (hst : s.cmdStep c = some st) {i : Nat} (hi : i ∈ s.rowsOnLane c l) (hl : i < st.rows.length) :
    (s.failLane l).rowFails c.arr.job.toNat i cMiss :=
  State.failOnLane_fold_rowFails l (List.mem_filter.mpr ⟨hc, hh⟩) hst hi hl

end

end Sys2Proof.Machine

/-! SUPPORT. An irregular arrival is recorded in the lane's miss queue, or overflows it (R111, R112). -/

namespace Sys2Proof.Machine

section
variable {s t : State} {l : Nat}

theorem State.missOverflow.since {r : State} (k : r.sameWork s) (hq : (s.lane l).missq = (r.lane l).missq)
    (hl : (s.lane l).ledger = (r.lane l).ledger) (h : s.missOverflow t l) : r.missOverflow t l := by
  obtain ⟨hmissq, hovf, hev, hrows⟩ := h
  refine ⟨hmissq.trans hq, hovf, hev, fun c hc hh st hst i hi hlt => ?_⟩
  refine hrows c (k.cmds ▸ hc) ?_ st ((k.cmdStep c).trans hst) i ((k.rowsOnLane c l).symm ▸ hi) hlt
  rw [← hh]
  unfold Lane.holders
  rw [hl]

theorem State.missOverflow.later {u : State} (k : t.keeps u) (hq : (u.lane l).missq = (t.lane l).missq)
    (ho : (u.lane l).ovf = (t.lane l).ovf) (h : s.missOverflow t l) : s.missOverflow u l := by
  obtain ⟨hmissq, hovf, hev, hrows⟩ := h
  exact ⟨hq.trans hmissq, ho.trans hovf, k.events _ _ hev,
    fun c hc hh st hst i hi hlt => (hrows c hc hh st hst i hi hlt).later k⟩

/-- The lane's counter of an irregular arrival: MISS, or that of its own for a bad tag. -/
def MissReason.counter : MissReason → Nat
  | .tagParity => 0x50
  | .stray => 0x48
  | _ => 0x38

/-- A record at the end of the lane's miss queue. -/
def Lane.queueMiss (v : Lane) (tag : W) (r : MissReason) : Lane := { v with missq := v.missq ++ [{ tag := tag, reason := r }] }

/-- An arrival that finds the miss queue full: MISSQ_OVF, its event and the failure of the rows on the lane. -/
def State.overflowMiss (s : State) (l : Nat) : State :=
  ((s.setLane l { s.lane l with ovf := true }).laneEvent l 1).failLane l

theorem State.miss_eq (s : State) (l tag r) : s.miss l tag r =
    if (s.lane l).missq.length < 64 then (s.laneInc l r.counter).setLane l ((s.lane l).queueMiss tag r)
    else (s.laneInc l r.counter).overflowMiss l := by
  unfold State.overflowMiss
  rw [State.lane_laneInc]
  cases r <;> simp only [State.miss, MissReason.counter, State.lane_laneInc] <;> rfl

theorem State.overflowMiss_keeps (s : State) (l) : s.keeps (s.overflowMiss l) :=
  ((s.setLane_keeps l _).trans (State.raise_keeps _ _ _)).trans (State.failLane_keeps _ l)

theorem State.overflowMiss_ctrs (s : State) (l) : (s.overflowMiss l).ctrs = s.ctrs := by
  unfold State.overflowMiss
  rw [State.failLane_shape]
  rfl

theorem State.overflowMiss_lanes (s : State) (l) :
    (s.overflowMiss l).lanes = (s.setLane l { s.lane l with ovf := true }).lanes := by
  unfold State.overflowMiss
  rw [State.failLane_shape]
  rfl

theorem State.overflowMiss_lane (s : State) (l) : (s.overflowMiss l).lane l = { s.lane l with ovf := true } :=
  (State.lane_congr (s.overflowMiss_lanes l) l).trans (State.lane_setLane_same ..)

theorem State.overflowMiss_missOverflow (s : State) (l) : s.missOverflow (s.overflowMiss l) l := by
  refine ⟨by rw [State.overflowMiss_lane], by rw [State.overflowMiss_lane], ?_, fun c hc hh st hst i hi hlt => ?_⟩
  · exact (State.failLane_keeps _ l).events _ _ (State.event_raise_same _ _ _ (by omega))
  · have k : s.sameWork ((s.setLane l { s.lane l with ovf := true }).laneEvent l 1) :=
      (s.setLane_sameWork l _).trans (State.laneEvent_sameWork ..)
    have hv : (((s.setLane l { s.lane l with ovf := true }).laneEvent l 1).lane l).holders = (s.lane l).holders := by
      change ((s.setLane l { s.lane l with ovf := true }).lane l).holders = _
      rw [State.lane_setLane_same]
      rfl
    exact State.failLane_rowFails _ l (k.cmds ▸ hc) (hv ▸ hh) ((k.cmdStep c).trans hst)
      ((k.rowsOnLane c l).symm ▸ hi) hlt

/-- What the record of an irregular arrival of a lane does: a place in the miss queue, or its overflow. -/
structure State.missed (s t : State) (l : Nat) (tag : W) (r : MissReason) : Prop where
  keeps : s.keeps t
  ctrs : t.ctrs = (s.laneInc l r.counter).ctrs
  others : ∀ k, k ≠ l → t.lane k = s.lane k
  lane : ∃ q o, t.lane l = { s.lane l with missq := q, ovf := o }
  room : (s.lane l).missq.length < 64 → t.lane l = (s.lane l).queueMiss tag r ∧ t.jobs = s.jobs
  full : 64 ≤ (s.lane l).missq.length → s.missOverflow t l

theorem MissReason.counter_lt (r : MissReason) : r.counter < 0x100 := by cases r <;> decide

theorem State.miss_missed (s : State) (l tag r) : s.missed (s.miss l tag r) l tag r := by
  have hk : s.keeps (s.laneInc l r.counter) := s.laneInc_keeps l r.counter_lt
  rw [State.miss_eq]
  split
  · next h =>
    exact {
      keeps := hk.trans (State.setLane_keeps ..)
      ctrs := rfl
      others := fun k hne => by rw [State.lane_setLane_other _ _ _ _ hne, State.lane_laneInc]
      lane := ⟨_, _, State.lane_setLane_same ..⟩
      room := fun _ => ⟨State.lane_setLane_same .., (s.laneInc_sameWork l _).jobs⟩
      full := fun hf => absurd h (Nat.not_lt.mpr hf) }
  · next h =>
    exact {
      keeps := hk.trans (State.overflowMiss_keeps ..)
      ctrs := State.overflowMiss_ctrs ..
      others := fun k hne => by
        rw [State.lane_congr (State.overflowMiss_lanes _ l) k, State.lane_setLane_other _ _ _ _ hne, State.lane_laneInc]
      lane := ⟨_, _, by rw [State.overflowMiss_lane, State.lane_laneInc]⟩
      room := fun hr => absurd hr h
      full := fun _ => (State.overflowMiss_missOverflow _ l).since (s.laneInc_sameWork l _)
        (by rw [State.lane_laneInc]) (by rw [State.lane_laneInc]) }

theorem State.missed.countedBy {tag r} (h : s.missed t l tag r) :
    s.countedBy t (pgMerge l) (laneOff l + r.counter) 1 :=
  (s.laneInc_countedBy l r.counter).congr rfl (by unfold State.ctr; rw [h.ctrs])

theorem State.missed.ctr_other {tag r} (h : s.missed t l tag r) {a : Nat} (ha : a ≠ r.counter) :
    t.ctr (regAt (pgMerge l) (laneOff l + a)) = s.ctr (regAt (pgMerge l) (laneOff l + a)) := by
  rw [← s.ctr_laneInc_other l ha]
  unfold State.ctr
  rw [h.ctrs]

end

end Sys2Proof.Machine

/-! PROOFS. A beat of a live tag lands, is merged or missed, and its reservation is released (O17; R43, R109, R110). -/

namespace Sys2Proof.Machine

section
variable {s t : State} {l : Nat} {tag : W}

/-- Why a delta beat is not merged, from its lane's state and its pigeonhole (Table 05-2). -/
def tapMiss (st : UnitState) (p : Pigeonhole) : Option MissReason :=
  if st = .draining then some .disabled
  else if st = .fault then some .fault
  else if p.filled = true then none
  else some .unfilled

theorem tapOf_eq (st : UnitState) (p : Pigeonhole) (isF32 : Bool) (data : BitVec 1024) : tapOf st p isF32 data =
    (if tapMiss st p = none then mergeBeat isF32 data p.data else data, tapMiss st p) := by
  cases st <;> cases h : p.filled <;> simp [tapOf, tapMiss, h]

/-- A beat's valid bytes at its place in the share's landing range (R110). -/
def State.landAt (s : State) (c : Cmd) (x : LaneShare) (tag : W) (data : BitVec 1024) : State :=
  s.setLand (x.land + 128 * (tag - x.tag0).toNat) ((leBytes 128 data.toNat).take (s.validBytes c x tag))

/-- The first tag that a DRAINING lane misses is kept (R115). -/
def State.noteDisabled (s : State) (l : Nat) (tag : W) (r : MissReason) : State :=
  if r = .disabled ∧ !(s.lane l).disSeen then s.setLane l { s.lane l with disSeen := true, ldisTag := tag } else s

/-- The release of a beat's reservation, once the beat has been looked up. -/
def State.releaseBeat (s : State) (l : Nat) (e : LedgerEntry) : State :=
  s.setLane l { (s.lane l).release e with metErr := none }

theorem beatOp_tagParity {data tpar} (hup : s.laneUp l = true) (hp : tagParityOk tag tpar = false) :
    beatOp s l data tag tpar = s.miss l tag .tagParity := by
  simp [beatOp, hup, hp]

theorem beatOp_stray {data tpar} (hup : s.laneUp l = true) (hp : tagParityOk tag tpar = true)
    (h : ∀ e, tget? (s.lane l).ledger (tag.toNat % 4096) = some e → e.tag ≠ tag) :
    beatOp s l data tag tpar = (s.laneInc l 0x20).miss l tag .stray := by
  have hn : (tget? (s.lane l).ledger (tag.toNat % 4096)).filter (fun e => e.tag == tag) = none := by
    simpa [Option.filter_eq_none_iff] using h
  simp [beatOp, hup, hp, hn]

theorem State.ledger_filter {e : LedgerEntry} (he : tget? (s.lane l).ledger (tag.toNat % 4096) = some e)
    (ht : e.tag = tag) : (tget? (s.lane l).ledger (tag.toNat % 4096)).filter (fun e => e.tag == tag) = some e := by
  simp [he, ht]

theorem State.landBeat_eq {e : LedgerEntry} {c : Cmd} {x : LaneShare} (hc : s.cmdOf e.cmd = some c)
    (hx : c.share l = some x) (ht : e.tag = tag) (data) : s.landBeat e l data = s.landAt c x tag data := by
  unfold State.landBeat State.landAt
  rw [hc]
  simp only [hx, ht]

section
variable {data : BitVec 1024} {tpar : BitVec 4} {e : LedgerEntry} {c : Cmd} {x : LaneShare}
  (hup : s.laneUp l = true) (hp : tagParityOk tag tpar = true)
  (he : tget? (s.lane l).ledger (tag.toNat % 4096) = some e) (ht : e.tag = tag)
  (hc : s.cmdOf e.cmd = some c) (hx : c.share l = some x)
include hup hp he ht hc hx

theorem beatOp_plain (hd : e.delta = false) : beatOp s l data tag tpar =
    (((s.laneInc l 0x20).laneInc l 0x30).landAt c x tag data).releaseBeat l e := by
  have hc' : ((s.laneInc l 0x20).laneInc l 0x30).cmdOf e.cmd = some c :=
    (((s.laneInc_sameWork l _).trans (State.laneInc_sameWork ..)).cmdOf _).trans hc
  simp only [beatOp, hup, hp, State.lane_laneInc, State.ledger_filter he ht, hd, State.landBeat_eq hc' hx ht,
    Bool.not_true, Bool.not_false, Bool.false_eq_true, if_false, if_true]
  rfl

variable (hd : e.delta = true) (hf : (s.lane l).st = .fault → (s.lane l).metErr ≠ some s.lcount)
include hd hf

theorem beatOp_merged (hw : tapMiss (s.lane l).st (tget {} (s.lane l).phs e.ph) = none) : beatOp s l data tag tpar =
    ((((s.laneInc l 0x20).laneInc l 0x28).landAt c x tag
      (mergeBeat (s.cmdFp32 c.arr) data (tget {} (s.lane l).phs e.ph).data)).noteMerged e l).releaseBeat l e := by
  have k := s.laneInc_sameWork l 0x20
  have hc' := ((k.trans (State.laneInc_sameWork _ l 0x28)).cmdOf e.cmd).trans hc
  have hf' : ¬ ((s.lane l).st = .fault ∧ ((s.lane l).metErr == some s.lcount) = true ∧
      (s.laneInc l 0x20).flagUnknown = true) := fun h => hf h.1 (by simpa using h.2.1)
  simp only [beatOp, hup, hp, State.lane_laneInc, State.ledger_filter he ht, hd, k.lcount, hf', k.cmdOf, hc, k.cmdFp32,
    tapOf_eq, hw, State.landBeat_eq hc' hx ht, Bool.not_true, Bool.false_eq_true, if_false, if_true]
  rfl

theorem beatOp_missed {r : MissReason} (hw : tapMiss (s.lane l).st (tget {} (s.lane l).phs e.ph) = some r) :
    beatOp s l data tag tpar =
      ((((s.laneInc l 0x20).landAt c x tag data).noteDisabled l tag r).miss l tag r).releaseBeat l e := by
  have k := s.laneInc_sameWork l 0x20
  have hc' := (k.cmdOf e.cmd).trans hc
  have hf' : ¬ ((s.lane l).st = .fault ∧ ((s.lane l).metErr == some s.lcount) = true ∧
      (s.laneInc l 0x20).flagUnknown = true) := fun h => hf h.1 (by simpa using h.2.1)
  have hl : ((s.laneInc l 0x20).landAt c x tag data).lane l = s.lane l := s.lane_laneInc l 0x20 l
  simp only [beatOp, hup, hp, State.lane_laneInc, State.ledger_filter he ht, hd, k.lcount, hf', hc',
    tapOf_eq, hw, State.landBeat_eq hc' hx ht, State.noteDisabled, hl, Bool.not_true, Bool.false_eq_true, if_false,
    reduceCtorEq]
  rfl

end

/-! ### What a live tag's beat does but for its landing and its release -/

/-- The beat is counted, and its miss, where it has one, is recorded; no other lane changes. -/
structure State.beatTaken (s t : State) (l : Nat) (tag : W) (why : Option MissReason) : Prop where
  part : t.part = s.part
  units : sameUnits s t
  others : ∀ k, k ≠ l → t.lane k = s.lane k
  counted : s.countedBy t (pgMerge l) (laneOff l + 0x20) 1
  disabled : why = some .disabled → (s.lane l).disSeen = false → (t.lane l).disSeen = true ∧ (t.lane l).ldisTag = tag
  served : why = none → (t.lane l).missq = (s.lane l).missq ∧ t.jobs = s.jobs
  room : ∀ r, why = some r → (s.lane l).missq.length < 64 →
    (t.lane l).missq = (s.lane l).missq ++ [{ tag := tag, reason := r }] ∧ t.jobs = s.jobs
  full : why ≠ none → 64 ≤ (s.lane l).missq.length → s.missOverflow t l

/-- A beat that leaves every lane's record and every job alone. -/
theorem State.beatTaken.of_served (hl : t.lanes = s.lanes) (hj : t.jobs = s.jobs) (hp : t.part = s.part)
    (hu : sameUnits s t) (hc : s.countedBy t (pgMerge l) (laneOff l + 0x20) 1) : s.beatTaken t l tag none where
  part := hp
  units := hu
  others := fun k _ => State.lane_congr hl k
  counted := hc
  disabled := nofun
  served := fun _ => ⟨by rw [State.lane_congr hl], hj⟩
  room := nofun
  full := fun h => absurd rfl h

theorem State.beatTaken.landAt {why} (h : s.beatTaken t l tag why) (c x d) : s.beatTaken (t.landAt c x tag d) l tag why :=
  ⟨h.part, h.units, h.others, h.counted, h.disabled, h.served, h.room, h.full⟩

theorem State.beatTaken.noteMerged {why} (h : s.beatTaken t l tag why) (e) : s.beatTaken (t.noteMerged e l) l tag why :=
  ⟨h.part, h.units, h.others, h.counted, h.disabled, h.served, h.room, h.full⟩

theorem State.lane_noteMerged (s : State) (e l k) : (s.noteMerged e l).lane k = s.lane k := rfl

theorem State.landing_noteMerged (s : State) (e l) : (s.noteMerged e l).landing = s.landing := rfl

theorem State.lane_landAt (s : State) (c x tag d k) : (s.landAt c x tag d).lane k = s.lane k := rfl

/-- A beat that another counter of the lane tells apart, and that is not missed. -/
theorem State.beatTaken.of_counted (s : State) (l tag) {off : Nat} (ho : off < 0x100) (hne : 0x20 ≠ off) :
    s.beatTaken ((s.laneInc l 0x20).laneInc l off) l tag none :=
  have k := (s.laneInc_keeps l (off := 0x20) (by decide)).trans (State.laneInc_keeps _ l ho)
  .of_served (by simp) ((s.laneInc_sameWork l 0x20).trans (State.laneInc_sameWork _ l off)).jobs k.part k.units
    ((s.laneInc_countedBy l 0x20).congr rfl (State.ctr_laneInc_other _ l hne))

/-- Where a live tag's beat lands depends on no lane, counter, register or header. -/
theorem State.sameWork.landing_landAt {u : State} (k : s.sameWork u) (hl : u.landing = s.landing) (c x tag d) :
    (u.landAt c x tag d).landing = mwrite s.landing (x.land + 128 * (tag - x.tag0).toNat)
      ((leBytes 128 d.toNat).take (s.validBytes c x tag)) := by
  rw [← hl, ← k.validBytes]
  rfl

theorem Lane.release_missq (v : Lane) (e) : (v.release e).missq = v.missq := by unfold Lane.release; split <;> rfl
theorem Lane.release_ovf (v : Lane) (e) : (v.release e).ovf = v.ovf := by unfold Lane.release; split <;> rfl
theorem Lane.release_disSeen (v : Lane) (e) : (v.release e).disSeen = v.disSeen := by unfold Lane.release; split <;> rfl
theorem Lane.release_ldisTag (v : Lane) (e) : (v.release e).ldisTag = v.ldisTag := by unfold Lane.release; split <;> rfl

theorem Lane.release_ledger (v : Lane) (e) : tget? (v.release e).ledger (e.tag.toNat % 4096) = none := by
  unfold Lane.release
  split <;> exact tget?_tdel_same ..

theorem Lane.release_delta (v : Lane) {e : LedgerEntry} (hd : e.delta = true) :
    (tget {} (v.release e).phs e.ph).reserved = false ∧ (v.release e).returning = v.returning ++ [e.ph] := by
  simp [Lane.release, hd]

theorem State.lane_releaseBeat (s : State) (l e) :
    (s.releaseBeat l e).lane l = { (s.lane l).release e with metErr := none } := State.lane_setLane_same ..

theorem State.beatTaken.release {why} (h : s.beatTaken t l tag why) (e) : s.beatTaken (t.releaseBeat l e) l tag why where
  part := h.part
  units := h.units
  others := fun k hk => (State.lane_setLane_other _ _ _ _ hk).trans (h.others k hk)
  counted := h.counted
  disabled := fun hw hs => by
    rw [State.lane_releaseBeat]
    exact ⟨(Lane.release_disSeen ..).trans (h.disabled hw hs).1, (Lane.release_ldisTag ..).trans (h.disabled hw hs).2⟩
  served := fun hw => by
    rw [State.lane_releaseBeat]
    exact ⟨(Lane.release_missq ..).trans (h.served hw).1, (h.served hw).2⟩
  room := fun r hw hr => by
    rw [State.lane_releaseBeat]
    exact ⟨(Lane.release_missq ..).trans (h.room r hw hr).1, (h.room r hw hr).2⟩
  full := fun hw hf => (h.full hw hf).later (t.setLane_keeps l _)
    (by rw [State.lane_releaseBeat]; exact Lane.release_missq ..) (by rw [State.lane_releaseBeat]; exact Lane.release_ovf ..)

theorem State.noteDisabled_lane (s : State) (l tag r) : (s.noteDisabled l tag r).lane l =
    if r = .disabled ∧ !(s.lane l).disSeen then { s.lane l with disSeen := true, ldisTag := tag } else s.lane l := by
  unfold State.noteDisabled
  split
  · exact State.lane_setLane_same ..
  · rfl

theorem State.noteDisabled_lane_other (s : State) (l tag r) {k : Nat} (hk : k ≠ l) :
    (s.noteDisabled l tag r).lane k = s.lane k := by
  unfold State.noteDisabled
  split
  · exact State.lane_setLane_other _ _ _ _ hk
  · rfl

theorem State.noteDisabled_keeps (s : State) (l tag r) : s.keeps (s.noteDisabled l tag r) :=
  .ite (s.setLane_keeps l _) (.refl s)

theorem State.noteDisabled_sameWork (s : State) (l tag r) : s.sameWork (s.noteDisabled l tag r) := by
  unfold State.noteDisabled
  split
  · exact s.setLane_sameWork l _
  · exact .refl s

theorem State.noteDisabled_ctrs (s : State) (l tag r) : (s.noteDisabled l tag r).ctrs = s.ctrs := by
  unfold State.noteDisabled
  split <;> rfl

theorem State.noteDisabled_missq (s : State) (l tag r) :
    ((s.noteDisabled l tag r).lane l).missq = (s.lane l).missq := by
  rw [State.noteDisabled_lane]
  split <;> rfl

theorem State.noteDisabled_ledger (s : State) (l tag r) :
    ((s.noteDisabled l tag r).lane l).ledger = (s.lane l).ledger := by
  rw [State.noteDisabled_lane]
  split <;> rfl

theorem State.missed.returning_of_noteDisabled {r} (h : (s.noteDisabled l tag r).missed t l tag r) :
    (t.lane l).returning = (s.lane l).returning := by
  obtain ⟨q, o, hl⟩ := h.lane
  rw [hl, State.noteDisabled_lane]
  split <;> rfl

/-- A DRAINING lane that had missed no tag before holds this one. -/
theorem State.missed.disabled_of_noteDisabled (h : (s.noteDisabled l tag .disabled).missed t l tag .disabled)
    (hs : (s.lane l).disSeen = false) : (t.lane l).disSeen = true ∧ (t.lane l).ldisTag = tag := by
  obtain ⟨q, o, hl⟩ := h.lane
  rw [hl, State.noteDisabled_lane, if_pos (by simp [hs])]
  exact ⟨rfl, rfl⟩

theorem State.beatTaken.noteDisabled (h : s.beatTaken t l tag none) (r) :
    s.beatTaken (t.noteDisabled l tag r) l tag none := by
  have k := t.noteDisabled_keeps l tag r
  exact {
    part := k.part.trans h.part
    units := fun p => (k.units p).trans (h.units p)
    others := fun k hk => (t.noteDisabled_lane_other l tag r hk).trans (h.others k hk)
    counted := h.counted.congr rfl (by unfold State.ctr; rw [State.noteDisabled_ctrs])
    disabled := nofun
    served := fun hw => ⟨(t.noteDisabled_missq ..).trans (h.served hw).1,
      (t.noteDisabled_sameWork ..).jobs.trans (h.served hw).2⟩
    room := nofun
    full := fun hw => absurd rfl hw }

/-- A beat that would have been served, but for the miss recorded after. -/
theorem State.beatTaken.of_miss {u : State} {r} (h : s.beatTaken u l tag none) (k : s.sameWork u)
    (hl : (u.lane l).ledger = (s.lane l).ledger) (m : u.missed t l tag r)
    (hd : r = .disabled → (s.lane l).disSeen = false → (t.lane l).disSeen = true ∧ (t.lane l).ldisTag = tag) :
    s.beatTaken t l tag (some r) := by
  obtain ⟨hq, hjobs⟩ := h.served rfl
  exact {
    part := m.keeps.part.trans h.part
    units := fun p => (m.keeps.units p).trans (h.units p)
    others := fun k hk => (m.others k hk).trans (h.others k hk)
    counted := h.counted.congr rfl (m.ctr_other (by cases r <;> decide))
    disabled := fun hw => hd (Option.some.inj hw)
    served := nofun
    room := fun r' hw hr => by
      obtain rfl := Option.some.inj hw
      obtain ⟨hlane, hj⟩ := m.room (hq ▸ hr)
      exact ⟨by rw [hlane, ← hq]; rfl, hj.trans hjobs⟩
    full := fun _ hf => (m.full (hq ▸ hf)).since k hq hl }

/-- A delta beat that lands as it came, and is missed. -/
theorem State.beatTaken.of_missed_landing (s : State) (l c x tag data) (r : MissReason) {u t : State}
    (hu : u = (s.laneInc l 0x20).landAt c x tag data) (ht : t = (u.noteDisabled l tag r).miss l tag r) :
    t.landing = u.landing ∧ (t.lane l).returning = (s.lane l).returning ∧ s.beatTaken t l tag (some r) := by
  have hm : (u.noteDisabled l tag r).missed t l tag r := ht ▸ State.miss_missed ..
  have hk := s.laneInc_keeps l (off := 0x20) (by decide)
  have hwork : s.sameWork u := by
    rw [hu]
    exact (s.laneInc_sameWork l 0x20).trans (State.setLand_sameWork ..)
  have hlane : u.lane l = s.lane l := by rw [hu, State.lane_landAt, State.lane_laneInc]
  have hbeat : s.beatTaken u l tag none := by
    rw [hu]
    exact (State.beatTaken.of_served (by simp) (s.laneInc_sameWork l 0x20).jobs hk.part hk.units
      (s.laneInc_countedBy l 0x20)).landAt c x data
  refine ⟨((u.noteDisabled_keeps l tag r).trans hm.keeps).landing, hm.returning_of_noteDisabled.trans (by rw [hlane]), ?_⟩
  refine (hbeat.noteDisabled r).of_miss (hwork.trans (State.noteDisabled_sameWork ..)) ?_ hm fun hr hs => ?_
  · rw [State.noteDisabled_ledger, hlane]
  · subst hr
    exact hm.disabled_of_noteDisabled (hlane ▸ hs)

/-- A live tag's beat lands, its miss is recorded where it has one, and its reservation is released. -/
theorem beatOp_live {data : BitVec 1024} {tpar : BitVec 4} {e : LedgerEntry} {c : Cmd} {x : LaneShare}
    (hup : s.laneUp l = true) (hp : tagParityOk tag tpar = true)
    (he : tget? (s.lane l).ledger (tag.toNat % 4096) = some e) (ht : e.tag = tag)
    (hc : s.cmdOf e.cmd = some c) (hx : c.share l = some x)
    (hf : (s.lane l).st = .fault → e.delta = true → (s.lane l).metErr ≠ some s.lcount)
    {p : Pigeonhole} (hph : p = tget {} (s.lane l).phs e.ph) {why : Option MissReason}
    (hw : why = if e.delta = false then none else tapMiss (s.lane l).st p) {out : BitVec 1024}
    (ho : out = if e.delta = true ∧ why = none then mergeBeat (s.cmdFp32 c.arr) data p.data else data) :
    ∃ t, beatOp s l data tag tpar = t.releaseBeat l e ∧
      t.landing = mwrite s.landing (x.land + 128 * (tag - x.tag0).toNat)
        ((leBytes 128 out.toNat).take (s.validBytes c x tag)) ∧
      (t.lane l).returning = (s.lane l).returning ∧ s.beatTaken t l tag why := by
  have twice (off) : s.sameWork ((s.laneInc l 0x20).laneInc l off) :=
    (s.laneInc_sameWork l 0x20).trans (State.laneInc_sameWork _ l off)
  have landing_twice (off) (ho : off < 0x100) : ((s.laneInc l 0x20).laneInc l off).landing = s.landing :=
    ((s.laneInc_keeps l (by decide)).trans (State.laneInc_keeps _ l ho)).landing
  subst hph
  cases hd : e.delta with
  | false =>
    obtain rfl : why = none := by rw [hw, if_pos hd]
    obtain rfl : data = out := by rw [ho, if_neg (by simp [hd])]
    exact ⟨_, beatOp_plain hup hp he ht hc hx hd, (twice 0x30).landing_landAt (landing_twice _ (by decide)) ..,
      by simp [State.lane_landAt], (State.beatTaken.of_counted s l tag (by decide) (by decide)).landAt ..⟩
  | true =>
    rw [if_neg (by simp [hd])] at hw
    cases why with
    | none =>
      rw [if_pos ⟨hd, rfl⟩] at ho
      subst ho
      refine ⟨_, beatOp_merged hup hp he ht hc hx hd (fun h => hf h hd) hw.symm, ?_, ?_, ?_⟩
      · rw [State.landing_noteMerged]
        exact (twice 0x28).landing_landAt (landing_twice _ (by decide)) ..
      · simp [State.lane_noteMerged, State.lane_landAt]
      · exact ((State.beatTaken.of_counted s l tag (by decide) (by decide)).landAt ..).noteMerged e
    | some r =>
      obtain rfl : data = out := by rw [ho, if_neg (by simp)]
      have k := s.laneInc_keeps l (off := 0x20) (by decide)
      obtain ⟨hland, hret, htaken⟩ := State.beatTaken.of_missed_landing s l c x tag data r rfl rfl
      exact ⟨_, beatOp_missed hup hp he ht hc hx hd (fun h => hf h hd) hw.symm,
        hland.trans ((s.laneInc_sameWork l 0x20).landing_landAt k.landing ..), hret, htaken⟩

/-- BEAT's write back of what its operation gave. -/
def State.beatWrites (s t : State) : State :=
  { s with
    lanes := t.lanes, cmds := t.cmds, landing := t.landing, fresh := t.fresh, jobs := t.jobs, ctrs := t.ctrs,
    hdrs := t.hdrs, regs := t.regs }

/-- BEAT completes with what its operation gave. -/
theorem completes_beat {lane : BitVec 6} {data : BitVec 1024} {tpar : BitVec 4} {P : State → Prop}
    (h : P (s.beatWrites (beatOp s lane.toNat data tag tpar))) : completes (.beat lane data tag tpar) s P := by
  intro hs
  refine ⟨s.beatWrites (beatOp s lane.toNat data tag tpar), ?_, rfl, h⟩
  have hclk : s.clkUp 1 = true := by simpa [State.serves, Instr.needs, State.clockOk] using hs
  change execBeat lane data tag tpar s = _
  unfold execBeat
  rw [hs, hclk]
  rfl

theorem State.sameUnits_beatWrites (hu : sameUnits s t) (hp : t.part = s.part) : sameUnits s (s.beatWrites t) :=
  fun p => (State.unit_congr (s := t) (t := s.beatWrites t) rfl hp.symm p).trans (hu p)

/-- An arrival that is discarded, as it is written back. -/
theorem State.missed.written {r} {u : State} (h : u.missed t l tag r) (k : s.sameWork u) (hlanes : u.lanes = s.lanes)
    (hland : u.landing = s.landing)
    (hctr : u.ctr (regAt (pgMerge l) (laneOff l + r.counter)) = s.ctr (regAt (pgMerge l) (laneOff l + r.counter))) :
    (s.beatWrites t).landing = s.landing ∧ (∀ k, k ≠ l → (s.beatWrites t).lane k = s.lane k) ∧
      s.countedBy (s.beatWrites t) (pgMerge l) (laneOff l + r.counter) 1 ∧
      ((s.lane l).missq.length < 64 → (s.beatWrites t).lane l =
        { s.lane l with missq := (s.lane l).missq ++ [{ tag := tag, reason := r }] }) ∧
      (64 ≤ (s.lane l).missq.length → s.missOverflow (s.beatWrites t) l) := by
  have hl := State.lane_congr hlanes
  have hroom := h.room
  have hfull := h.full
  rw [hl] at hroom hfull
  exact ⟨h.keeps.landing.trans hland, fun k hk => (h.others k hk).trans (hl k), h.countedBy.congr hctr.symm rfl,
    fun hr => (hroom hr).1, fun hf => (hfull hf).since k (by rw [hl]) (by rw [hl])⟩

end

end Sys2Proof.Machine

open Sys2Proof.Machine in

/-- Settles O17: by the branches of BEAT. -/
theorem beatIsMergedLandedOrMissed : Obligations.BeatIsMergedLandedOrMissed := by
  intro s lane data tag tpar hup
  refine ⟨fun hp => ⟨fun e c x he ht hc hx hf p why out hph hw ho => completes_beat ?_, fun hn => completes_beat ?_⟩,
    fun hp => completes_beat ?_⟩
  · obtain ⟨t, hop, hland, hret, htaken⟩ := beatOp_live hup hp he ht hc hx hf hph hw ho
    have h := htaken.release e
    have hlane := t.lane_releaseBeat lane.toNat e
    rw [hop]
    refine ⟨hland, ?_, fun hd => ?_, h.others, State.sameUnits_beatWrites h.units h.part, h.counted, h.disabled, h.served,
      h.room, h.full⟩
    · change tget? ((t.releaseBeat lane.toNat e).lane lane.toNat).ledger _ = none
      rw [hlane, ← ht]
      exact Lane.release_ledger ..
    · change (tget {} ((t.releaseBeat lane.toNat e).lane lane.toNat).phs e.ph).reserved = false ∧
        ((t.releaseBeat lane.toNat e).lane lane.toNat).returning = _
      rw [hlane, ← hret]
      exact Lane.release_delta _ hd
  · rw [beatOp_stray hup hp hn]
    have hk := s.laneInc_keeps lane.toNat (off := 0x20) (by decide)
    exact (State.miss_missed _ lane.toNat tag .stray).written (s.laneInc_sameWork ..) (s.laneInc_lanes ..) hk.landing
      (s.ctr_laneInc_other _ (by decide))
  · rw [beatOp_tagParity hup hp]
    exact (s.miss_missed lane.toNat tag .tagParity).written (.refl s) rfl rfl rfl

/-! SUPPORT. A command that is served completes with what its meaning writes back. -/

namespace Sys2Proof.Machine

/-- A command that asks whether it is served, and is, completes with the state it writes back. -/
theorem completes_of_exec {s t : State} {c : Instr} {P : State → Prop}
    (h : exec c s = if !s.serves c then .next s else .next t) (hw : c.onlyWrites s t) (hP : P t) : completes c s P :=
  fun hs => ⟨t, by rw [h, hs]; rfl, hw, hP⟩

theorem State.entry_of_empty {s : State} (h : s.dir = []) (a : Nat) : s.entry a = {} := by
  unfold State.entry
  rw [h]
  rfl

/-- The words of an entry whose every field is 0. -/
theorem imgWord_words_default (i : Nat) : imgWord ({} : DirEntry).words i = 0#32 := by
  unfold imgWord
  rw [show ({} : DirEntry).words = List.replicate 16 0#32 from rfl, List.getD_eq_getElem?_getD, List.getElem?_replicate]
  split <;> rfl

end Sys2Proof.Machine

/-! PROOFS. A reset empties the adapter directory, and no bring-up fills it again (O55; R57, R353, R354). -/

namespace Sys2Proof.Machine

/-! ### What bring-up keeps up to its phase 5 -/

/-- The directory and both control clusters are as they were. -/
structure State.sameDirAndClusters (s t : State) : Prop where
  dir : t.dir = s.dir
  cluster0 : t.cluster0 = s.cluster0
  cluster1 : t.cluster1 = s.cluster1

namespace State.sameDirAndClusters
variable {s t u : State}

theorem trans (h : s.sameDirAndClusters t) (k : t.sameDirAndClusters u) : s.sameDirAndClusters u :=
  ⟨k.dir.trans h.dir, k.cluster0.trans h.cluster0, k.cluster1.trans h.cluster1⟩

theorem ite {c : Prop} [Decidable c] (h : s.sameDirAndClusters t) (k : s.sameDirAndClusters u) :
    s.sameDirAndClusters (if c then t else u) := by
  split <;> assumption

theorem foldl {α : Type} {f : State → α → State} (h : ∀ (s : State) x, s.sameDirAndClusters (f s x)) (l : List α)
    (s : State) : s.sameDirAndClusters (l.foldl f s) := by
  induction l generalizing s with
  | nil => exact ⟨rfl, rfl, rfl⟩
  | cons x l ih => exact (h s x).trans (ih _)

end State.sameDirAndClusters

section
variable (s : State)

theorem State.issueRead_sameDirAndClusters : s.sameDirAndClusters s.issueRead := by
  unfold State.issueRead
  split <;> exact ⟨rfl, rfl, rfl⟩

theorem State.pumpReads_sameDirAndClusters : s.sameDirAndClusters s.pumpReads :=
  .ite (.foldl (fun s _ => s.issueRead_sameDirAndClusters) _ s) ⟨rfl, rfl, rfl⟩

theorem State.askHost_sameDirAndClusters (use a n) : s.sameDirAndClusters (s.askHost use a n) := by
  refine .trans ?_ (State.pumpReads_sameDirAndClusters _)
  exact ⟨rfl, rfl, rfl⟩

theorem State.fwBegin_sameDirAndClusters (target) : s.sameDirAndClusters (s.fwBegin target) := by
  refine .trans ?_ (State.askHost_sameDirAndClusters _ ..)
  exact ⟨rfl, rfl, rfl⟩

theorem State.wr_sameDirAndClusters (page off v) : s.sameDirAndClusters (s.wr page off v) := ⟨rfl, rfl, rfl⟩

theorem clkfailOp_sameDirAndClusters (c) : s.sameDirAndClusters (clkfailOp s c) := .ite ⟨rfl, rfl, rfl⟩ ⟨rfl, rfl, rfl⟩

theorem State.restoreWord_sameDirAndClusters (a w) : s.sameDirAndClusters (s.restoreWord a w) := by
  unfold State.restoreWord
  split
  · exact .ite ⟨rfl, rfl, rfl⟩ ⟨rfl, rfl, rfl⟩
  · exact ⟨rfl, rfl, rfl⟩

theorem State.restoreRegs_sameDirAndClusters (rs own) : s.sameDirAndClusters (s.restoreRegs rs own) := by
  refine .trans (.foldl (fun s x => ?_) _ s) (.foldl (fun s x => ?_) _ _) <;>
    exact .ite (s.restoreWord_sameDirAndClusters ..) ⟨rfl, rfl, rfl⟩

theorem State.restoreTide_sameDirAndClusters (rs) : s.sameDirAndClusters (s.restoreTide rs) :=
  .ite ⟨rfl, rfl, rfl⟩ ⟨rfl, rfl, rfl⟩

theorem State.restoreCirc_sameDirAndClusters (rs) : s.sameDirAndClusters (s.restoreCirc rs) :=
  .ite ⟨rfl, rfl, rfl⟩ ⟨rfl, rfl, rfl⟩

theorem State.bootStore_sameDirAndClusters (env) : s.sameDirAndClusters (s.bootStore env) := by
  unfold State.bootStore
  dsimp only
  split <;> exact .ite ⟨rfl, rfl, rfl⟩ ⟨rfl, rfl, rfl⟩

theorem State.bootDecl_sameDirAndClusters (env) : s.sameDirAndClusters (s.bootDecl env) := by
  unfold State.bootDecl
  dsimp only
  split <;> exact .ite ⟨rfl, rfl, rfl⟩ ⟨rfl, rfl, rfl⟩

theorem State.bootKeys_sameDirAndClusters : s.sameDirAndClusters s.bootKeys :=
  .ite ⟨rfl, rfl, rfl⟩ (.ite ⟨rfl, rfl, rfl⟩ ⟨rfl, rfl, rfl⟩)

theorem State.bootLoad_sameDirAndClusters : s.sameDirAndClusters s.bootLoad := by
  refine .ite ⟨rfl, rfl, rfl⟩ ?_
  exact (((s.restoreRegs_sameDirAndClusters _ _).trans (State.restoreTide_sameDirAndClusters _ _)).trans
    (State.restoreCirc_sameDirAndClusters _ _)).trans ((State.wr_sameDirAndClusters ..).trans
      (State.fwBegin_sameDirAndClusters _ none))

end

/-! ### What a reset leaves, and bring-up keeps -/

/-- The directory is empty and no control cluster runs an image. -/
structure State.emptyAndDown (s : State) : Prop where
  dir : s.dir = []
  down0 : s.cluster0.up = false
  down1 : s.cluster1.up = false

section
variable {s t : State}

theorem State.emptyAndDown.of_same (h : s.emptyAndDown) (k : s.sameDirAndClusters t) : t.emptyAndDown where
  dir := k.dir.trans h.dir
  down0 := by rw [k.cluster0, h.down0]
  down1 := by rw [k.cluster1, h.down1]

theorem State.coldReset_emptyAndDown (s : State) (cause) : (s.coldReset cause).emptyAndDown := ⟨rfl, rfl, rfl⟩

theorem State.warmReset_emptyAndDown (s : State) (cause) : (s.warmReset cause).emptyAndDown := ⟨rfl, rfl, rfl⟩

/-- Phase 6 waits for a cluster to run an image. -/
theorem State.bootFrom5_emptyAndDown (h : s.emptyAndDown) (env) : (s.bootFrom5 env).emptyAndDown := by
  unfold State.bootFrom5
  rw [if_neg (by simp [h.down0, h.down1])]
  exact ⟨h.dir, h.down0, h.down1⟩

theorem State.bootFrom2_emptyAndDown (h : s.emptyAndDown) (env) : (s.bootFrom2 env).emptyAndDown := by
  have hstore : State.emptyAndDown { s.bootStore env with phase := 3#4 } :=
    h.of_same ((s.bootStore_sameDirAndClusters env).trans ⟨rfl, rfl, rfl⟩)
  have hclocks := hstore.of_same (clkfailOp_sameDirAndClusters _ env.badClocks)
  unfold State.bootFrom2
  dsimp only
  split
  · exact State.bootFrom5_emptyAndDown (hclocks.of_same (((State.bootDecl_sameDirAndClusters _ env).trans
      (State.bootKeys_sameDirAndClusters _)).trans (State.bootLoad_sameDirAndClusters _))) env
  · exact hclocks

/-- Where no cluster runs, bring-up goes no further than phase 5, and up to there no phase writes the directory. -/
theorem bringUpOp_emptyAndDown (h : s.emptyAndDown) (env) : (bringUpOp s env).emptyAndDown := by
  have hfuses : s.readFuses.emptyAndDown := h.of_same ⟨rfl, rfl, rfl⟩
  unfold bringUpOp
  dsimp only
  split
  · split
    · exact h
    split
    · exact hfuses.of_same ⟨rfl, rfl, rfl⟩
    split
    · exact hfuses
    · exact hfuses
    · exact State.bootFrom2_emptyAndDown hfuses env
  · exact State.bootFrom2_emptyAndDown h env
  · exact State.bootFrom5_emptyAndDown h env
  · exact h

theorem completes_bringUp {env} {P : State → Prop}
    (h : P { bringUpOp s env with pending := s.pending, part := s.part, fuses := s.fuses }) :
    completes (.bringUp env) s P :=
  fun _ => ⟨_, rfl, ⟨rfl, rfl, rfl⟩, h⟩

theorem State.warm_past_phase1 (s : State) (h : s.phase ≠ 1#4) (cause) : s.warm cause = s.warmReset cause := if_neg h

/-- Every entry is FREE and zero, and so after any bring-up that follows. -/
theorem State.emptyAndDown.directory (h : s.emptyAndDown) :
    (∀ a, s.entry a = {} ∧ (s.entry a).st = .free ∧ ∀ i, i < 16 → imgWord (s.entry a).words i = 0#32) ∧
      ∀ env, completes (.bringUp env) s fun u => ∀ a, u.entry a = {} := by
  refine ⟨fun a => ?_, fun env => completes_bringUp fun a => State.entry_of_empty (bringUpOp_emptyAndDown h env).dir a⟩
  rw [State.entry_of_empty h.dir]
  exact ⟨rfl, rfl, fun i _ => imgWord_words_default i⟩

end

end Sys2Proof.Machine

open Sys2Proof Sys2Proof.Machine in

/-- Settles O55: a reset empties the directory and stops the clusters, and bring-up then ends before any phase that could
write the directory. -/
theorem theDirectoryIsEmptyAfterAReset : Obligations.TheDirectoryIsEmptyAfterAReset := by
  intro s c hc
  simp only [List.mem_cons, List.not_mem_nil, or_false] at hc
  obtain (rfl | rfl | rfl) | ⟨hp, rfl | rfl⟩ := hc
  · exact fun _ => ⟨_, rfl, ⟨rfl, rfl, rfl⟩, (s.coldReset_emptyAndDown 0).directory⟩
  · exact fun _ => ⟨_, rfl, ⟨rfl, rfl, rfl⟩, (s.coldReset_emptyAndDown 1).directory⟩
  · exact completes_of_exec rfl ⟨rfl, rfl, rfl⟩ (s.coldReset_emptyAndDown 2).directory
  · exact fun _ => ⟨_, congrArg Host.Outcome.next (s.warm_past_phase1 hp 4), ⟨rfl, rfl, rfl⟩,
      (s.warmReset_emptyAndDown 4).directory⟩
  · refine completes_of_exec (t := s.warmReset 5) ?_ ⟨rfl, rfl, rfl⟩ (s.warmReset_emptyAndDown 5).directory
    rw [← s.warm_past_phase1 hp 5]
    rfl


/-! SUPPORT. A field of a word reads what was set in it, whatever is set in the others. -/

namespace Sys2Proof.Machine

theorem getLsbD_ofNat_shifted {n x lo i : Nat} (hi : i < n) :
    (BitVec.ofNat n (x * 2 ^ lo)).getLsbD i = (decide (lo ≤ i) && x.testBit (i - lo)) := by
  rw [BitVec.getLsbD_ofNat, Nat.testBit_mul_two_pow]
  simp [hi]

/-- The bits of a word in which a field has been set. -/
theorem getLsbD_setField {n : Nat} (w : BitVec n) (lo width v : Nat) {i : Nat} (hi : i < n) :
    (setField w lo width v).getLsbD i = if lo ≤ i ∧ i < lo + width then v.testBit (i - lo) else w.getLsbD i := by
  unfold setField mergeBits
  rw [BitVec.getLsbD_or, BitVec.getLsbD_and, BitVec.getLsbD_and, BitVec.getLsbD_not, getLsbD_ofNat_shifted hi,
    getLsbD_ofNat_shifted hi, Nat.testBit_two_pow_sub_one, Nat.testBit_mod_two_pow]
  by_cases hlo : lo ≤ i
  · have hw : i - lo < width ↔ i < lo + width := by omega
    by_cases h : i < lo + width <;> simp [hi, hlo, hw, h]
  · simp [hi, hlo]

theorem testBit_bitsOf {n : Nat} (w : BitVec n) (hi lo i : Nat) :
    (bitsOf w hi lo).testBit i = (decide (i < hi + 1 - lo) && w.getLsbD (lo + i)) := by
  unfold bitsOf
  rw [Nat.testBit_mod_two_pow, Nat.testBit_div_two_pow, BitVec.testBit_toNat, Nat.add_comm i lo]

/-- A field reads what was set in it. -/
theorem bitsOf_setField_same {n : Nat} (w : BitVec n) {hi lo width v : Nat} (hw : hi + 1 = lo + width) (hn : hi < n)
    (hv : v < 2 ^ width) : bitsOf (setField w lo width v) hi lo = v := by
  apply Nat.eq_of_testBit_eq
  intro i
  rw [testBit_bitsOf]
  by_cases h : i < width
  · rw [getLsbD_setField w lo width v (by omega), if_pos (by omega)]
    simp [show i < hi + 1 - lo by omega]
  · have hbit : v.testBit i = false := Nat.testBit_lt_two_pow (hv.trans_le (Nat.pow_le_pow_right (by decide) (by omega)))
    simp [hbit, show ¬ i < hi + 1 - lo by omega]

/-- A field is left alone where another one is set. -/
theorem bitsOf_setField_other {n : Nat} (w : BitVec n) {hi lo l width v : Nat} (hn : hi < n)
    (h : hi < l ∨ l + width ≤ lo) : bitsOf (setField w l width v) hi lo = bitsOf w hi lo := by
  apply Nat.eq_of_testBit_eq
  intro i
  rw [testBit_bitsOf, testBit_bitsOf]
  by_cases hi' : i < hi + 1 - lo
  · rw [getLsbD_setField w l width v (by omega), if_neg (by omega)]
  · simp [hi']

end Sys2Proof.Machine

/-! SUPPORT. What the directory's commands report and what they leave alone (Table 03-8). -/

namespace Sys2Proof.Machine

/-! ### Writes of the stacks -/

/-- The units, the directory, the prefix table and the count of refused directory commands are as they were. -/
structure State.keepsDirectory (s t : State) : Prop where
  part : t.part = s.part
  units : sameUnits s t
  refused : t.ctr (regAt pgDir 0x050) = s.ctr (regAt pgDir 0x050)
  dir : t.dir = s.dir
  prefixes : t.prefixes = s.prefixes

namespace State.keepsDirectory
variable {s t u : State}

theorem refl (s : State) : s.keepsDirectory s := ⟨rfl, fun _ => rfl, rfl, rfl, rfl⟩

theorem trans (h : s.keepsDirectory t) (k : t.keepsDirectory u) : s.keepsDirectory u where
  part := k.part.trans h.part
  units p := (k.units p).trans (h.units p)
  refused := k.refused.trans h.refused
  dir := k.dir.trans h.dir
  prefixes := k.prefixes.trans h.prefixes

theorem ite {c : Prop} [Decidable c] (ht : s.keepsDirectory t) (hu : s.keepsDirectory u) :
    s.keepsDirectory (if c then t else u) := by
  split <;> assumption

theorem foldl {α : Type} {f : State → α → State} (hf : ∀ (s : State) x, s.keepsDirectory (f s x)) (l : List α)
    (s : State) : s.keepsDirectory (l.foldl f s) := by
  induction l generalizing s with
  | nil => exact .refl s
  | cons x l ih => exact (hf s x).trans (ih _)

end State.keepsDirectory

section
variable (s : State)

theorem State.raise_keepsDirectory (p b) : s.keepsDirectory (s.raise p b) :=
  ⟨rfl, fun _ => State.unit_raise s p b _, rfl, rfl, rfl⟩

theorem State.wr_keepsDirectory (p off v) : s.keepsDirectory (s.wr p off v) := ⟨rfl, fun _ => rfl, rfl, rfl, rfl⟩

theorem State.inc_keepsDirectory (p) {off : Nat} (ho : off < 0x1000) (h : off ≠ 0x050) :
    s.keepsDirectory (s.inc p off) where
  part := by simp
  units _ := by simp
  refused := s.ctr_count_other _ 1 _ (regAt_ne (by decide) ho h.symm)
  dir := by simp
  prefixes := by simp

theorem State.regFault_keepsDirectory : s.keepsDirectory s.regFault :=
  (s.inc_keepsDirectory 0x030 (by decide) (by decide)).trans (State.raise_keepsDirectory _ _ 8)

theorem State.store_keepsDirectory (a bs) : s.keepsDirectory (s.store_ a bs) := ⟨rfl, fun _ => rfl, rfl, rfl, rfl⟩

theorem State.wrCount_keepsDirectory (a n) : s.keepsDirectory (s.wrCount a n) :=
  .ite (.refl s) (.foldl (fun s _ => s.inc_keepsDirectory _ (by decide) (by decide)) _ s)

theorem State.poke_keepsDirectory (kind need a bs) : s.keepsDirectory (s.poke kind need a bs).1 := by
  unfold State.poke
  split
  · exact .refl s
  split
  · exact s.regFault_keepsDirectory
  · exact (s.store_keepsDirectory ..).trans (State.wrCount_keepsDirectory ..)
  · exact (s.store_keepsDirectory ..).trans (State.wrCount_keepsDirectory ..)

theorem State.dropWay_keepsDirectory (w) : s.keepsDirectory (s.dropWay w) :=
  have hdrop (s : State) (f : Nat) : s.keepsDirectory (s.dropHolder f) := s.poke_keepsDirectory ..
  .ite (hdrop s _) ((hdrop s _).trans (hdrop _ _))

/-- Ways leave the prefix table, and drop their references to frames in the stacks. -/
theorem State.removeWays_keepsDirectory (p : PrefixWay → Bool) :
    State.keepsDirectory { s with prefixes := s.prefixes.filter fun x => !p x.2 } (s.removeWays p) :=
  .foldl (fun s w => s.dropWay_keepsDirectory w) _ _

/-! ### What a command may change beside its own entry -/

/-- The units, the count of refused commands and every entry but one are as they were. -/
structure State.dirFrame (s t : State) (id : Nat) : Prop where
  part : t.part = s.part
  units : sameUnits s t
  refused : t.ctr (regAt pgDir 0x050) = s.ctr (regAt pgDir 0x050)
  others : ∀ k, k ≠ id → t.entry k = s.entry k

end

section
variable {s t u : State} {id : Nat}

theorem State.dirFrame.trans (h : s.dirFrame t id) (k : t.dirFrame u id) : s.dirFrame u id where
  part := k.part.trans h.part
  units p := (k.units p).trans (h.units p)
  refused := k.refused.trans h.refused
  others a ha := (k.others a ha).trans (h.others a ha)

theorem State.dirFrame.ite {c : Prop} [Decidable c] (ht : s.dirFrame t id) (hu : s.dirFrame u id) :
    s.dirFrame (if c then t else u) id := by
  split <;> assumption

theorem State.keepsDirectory.frame (h : s.keepsDirectory t) (id) : s.dirFrame t id :=
  ⟨h.part, h.units, h.refused, fun k _ => State.entry_congr h.dir k⟩

variable (s id)

theorem State.dirCmd_keepsDirectory (op) : s.keepsDirectory (s.dirCmd id op) := ⟨rfl, fun _ => rfl, rfl, rfl, rfl⟩

theorem State.dirCmd_frame (op) : s.dirFrame (s.dirCmd id op) id := (s.dirCmd_keepsDirectory id op).frame id

theorem State.setEntry_frame (e) : s.dirFrame (s.setEntry id e) id :=
  ⟨rfl, fun _ => rfl, rfl, fun k hk => by rw [State.entry_setEntry, if_neg hk]⟩

theorem State.stopIntake_frame : s.dirFrame (s.stopIntake id) id := ⟨rfl, fun _ => rfl, rfl, fun _ _ => rfl⟩

theorem State.freeEntry_frame : s.dirFrame (s.freeEntry id) id :=
  ⟨rfl, fun _ => State.unit_raise _ pgDir 1 _, rfl, fun k hk => tget_tdel_other ({} : DirEntry) s.dir id k hk⟩

theorem State.reapEntry_frame : s.dirFrame (s.reapEntry id) id :=
  .ite (s.freeEntry_frame id) ((State.keepsDirectory.refl s).frame id)

theorem State.removeWays_frame (p) : s.dirFrame (s.removeWays p) id :=
  .trans (t := { s with prefixes := s.prefixes.filter fun x => !p x.2 }) ⟨rfl, fun _ => rfl, rfl, fun _ _ => rfl⟩
    ((s.removeWays_keepsDirectory p).frame id)

@[simp] theorem State.entry_dirCmd (op k) : (s.dirCmd id op).entry k = s.entry k := rfl

@[simp] theorem State.entry_freeEntry_same : (s.freeEntry id).entry id = {} := tget_tdel_same ..

@[simp] theorem State.entry_removeWays (p k) : (s.removeWays p).entry k = s.entry k :=
  State.entry_congr (s.removeWays_keepsDirectory p).dir k

theorem State.event_freeEntry : (s.freeEntry id).event pgDir 1 = true := State.event_raise_same _ pgDir 1 (by decide)

/-- PM_FLOOR is all that is recomputed. -/
theorem State.refloor_cases : s.refloor id = s ∨ ∃ lo, s.refloor id = s.setEntry id { s.entry id with pmFloor := lo } := by
  unfold State.refloor State.entry tget
  split
  · exact .inl rfl
  · next e he =>
    rw [he]
    dsimp only
    split
    · exact .inl rfl
    split
    · exact .inr ⟨_, rfl⟩
    · exact .inl rfl

/-! ### The report -/

theorem DirState.code_lt (st : DirState) : st.code < 2 ^ 3 := by cases st <;> decide

/-- A report writes registers, and the counter and the events that go with them. -/
theorem State.dirDone_shape (code) : s.dirDone id code = { s with
    regs := (s.dirDone id code).regs, ret := (s.dirDone id code).ret, hdrs := (s.dirDone id code).hdrs,
    ctrs := (s.dirDone id code).ctrs } := by
  unfold State.dirDone
  dsimp only
  split
  · rfl
  · unfold State.inc
    rw [State.count_shape]
    rfl

@[simp] theorem State.dirDone_part (code) : (s.dirDone id code).part = s.part := by rw [State.dirDone_shape]
@[simp] theorem State.dirDone_dir (code) : (s.dirDone id code).dir = s.dir := by rw [State.dirDone_shape]
@[simp] theorem State.dirDone_prefixes (code) : (s.dirDone id code).prefixes = s.prefixes := by rw [State.dirDone_shape]
@[simp] theorem State.dirDone_intakes (code) : (s.dirDone id code).intakes = s.intakes := by rw [State.dirDone_shape]
@[simp] theorem State.dirDone_mem (code) : (s.dirDone id code).mem = s.mem := by rw [State.dirDone_shape]

theorem State.unit_dirDone (code p) : (s.dirDone id code).unit p = s.unit p := by
  unfold State.dirDone
  dsimp only
  split <;> simp

/-- A register of the directory after a report: DIR_RESULT alone has changed. -/
theorem State.rd_dirDone (code off) : (s.dirDone id code).rd pgDir off =
    (if off = 0x044 then setField (setField (s.rd pgDir 0x044) 0 4 code) 6 3 (s.entry id).st.code else s.rd pgDir off) := by
  unfold State.dirDone
  dsimp only
  have hsat : regAt pgDir off ≠ regAt pgTop 0x050 := by unfold regAt pgDir pgTop; omega
  rw [State.rd_raise, apply_ite (fun s : State => s.rd pgDir off), State.rd_inc _ _ _ _ _ hsat, ite_self]
  split
  · next h => rw [h]; simp
  · next h => simp [h]

theorem State.event_dirDone (code) : (s.dirDone id code).event pgDir 0 = true :=
  State.event_raise_same _ pgDir 0 (by decide)

theorem State.event_dirDone_of (code) {p b} (h : s.event p b = true) : (s.dirDone id code).event p b = true := by
  refine State.event_raise _ pgDir 0 p b ?_
  split
  · exact h
  · exact State.event_count _ _ 1 p b h

theorem State.dirDone_countedBy (code) :
    s.countedBy (s.dirDone id code) pgDir 0x050 (if code = 0 then 0 else 1) := by
  unfold State.dirDone
  dsimp only
  split
  · intro _
    change s.counted pgDir 0x050 = min (s.counted pgDir 0x050 + 0) (2 ^ 48 - 1)
    unfold State.counted
    omega
  · exact (State.inc_countedBy ((s.setFld ..).setFld ..) pgDir 0x050).congr rfl rfl

/-- What a command's meaning gives is written back: the directory, the registers, the headers and the counters. -/
structure State.dirWritten (v t : State) : Prop where
  part : t.part = v.part
  dir : t.dir = v.dir
  regs : t.regs = v.regs
  hdrs : t.hdrs = v.hdrs
  ctrs : t.ctrs = v.ctrs

variable {s id} {code : Nat}

theorem State.dirWritten.rd (w : s.dirWritten t) (p off) : t.rd p off = s.rd p off :=
  State.reg_congr w.regs w.part _

theorem State.dirWritten.event (w : s.dirWritten t) (p b) : t.event p b = s.event p b := by
  unfold State.event
  rw [State.hdr_congr w.hdrs]

theorem State.dirWritten.entry (w : (u.dirDone id code).dirWritten t) (k) : t.entry k = u.entry k :=
  State.entry_congr (w.dir.trans (u.dirDone_dir id code)) k

/-- A command that changes no more than its own entry, and then reports, answers as Table 03-8 states. -/
theorem State.dirFrame.reports (h : s.dirFrame u id) (hc : code < 16) (w : (u.dirDone id code).dirWritten t) :
    dirReports s t id code := by
  have hres : t.rd pgDir 0x044 = setField (setField (u.rd pgDir 0x044) 0 4 code) 6 3 (t.entry id).st.code := by
    rw [w.rd, State.rd_dirDone, if_pos rfl, w.entry]
  refine ⟨?_, ?_, ?_, ?_, fun p => ?_, fun k hk => (w.entry k).trans (h.others k hk)⟩
  · rw [hres, bitsOf_setField_other _ (by decide) (by decide), bitsOf_setField_same _ (by decide) (by decide) hc]
  · rw [hres, bitsOf_setField_same _ (by decide) (by decide) (DirState.code_lt _)]
  · rw [w.event, State.event_dirDone]
  · exact (u.dirDone_countedBy id code).congr h.refused.symm (by unfold State.ctr; rw [w.ctrs])
  · rw [State.unit_congr w.hdrs w.part, State.unit_dirDone, h.units]

/-- A command whose meaning v changes no more than its own entry, and then reports. -/
theorem completes_dir {c : Instr} {v : State} {P : State → Prop}
    (he : exec c s = if !s.serves c then .next s else .next t) (ho : c.onlyWrites s t) (hv : v = u.dirDone id code)
    (hpart : t.part = s.part) (hdir : t.dir = v.dir) (hregs : t.regs = v.regs) (hhdrs : t.hdrs = v.hdrs)
    (hctrs : t.ctrs = v.ctrs) (h : s.dirFrame u id) (hc : code < 16)
    (hP : dirReports s t id code → (u.dirDone id code).dirWritten t → P t) : completes c s P := by
  subst hv
  have w : (u.dirDone id code).dirWritten t := ⟨by rw [hpart, State.dirDone_part, h.part], hdir, hregs, hhdrs, hctrs⟩
  exact completes_of_exec he ho (hP (h.reports hc w) w)

/-- The directory, the prefix table, the intakes and the stacks' bytes are as they were. -/
structure State.dirUntouched (s t : State) : Prop where
  dir : t.dir = s.dir
  prefixes : t.prefixes = s.prefixes
  intakes : t.intakes = s.intakes
  mem : t.mem = s.mem

/-- A command that is refused at its first checks does no more than report their code. -/
theorem completes_refused {c : Instr} {v : State} {op : Nat}
    (he : exec c s = if !s.serves c then .next s else .next t) (ho : c.onlyWrites s t)
    (hv : v = (s.dirCmd id op).dirDone id code) (hpart : t.part = s.part) (hregs : t.regs = v.regs)
    (hhdrs : t.hdrs = v.hdrs) (hctrs : t.ctrs = v.ctrs) (hc : code < 16)
    (hkeep : s.dirUntouched v → s.dirUntouched t) :
    completes c s fun t => dirReports s t id code ∧ t.dir = s.dir ∧ t.prefixes = s.prefixes ∧ t.intakes = s.intakes ∧
      t.mem = s.mem := by
  have hq : s.dirUntouched v := by
    subst hv
    exact ⟨State.dirDone_dir .., State.dirDone_prefixes .., State.dirDone_intakes .., State.dirDone_mem ..⟩
  obtain ⟨hdir, hprefixes, hintakes, hmem⟩ := hkeep hq
  exact completes_dir he ho hv hpart (hdir.trans hq.dir.symm) hregs hhdrs hctrs (s.dirCmd_frame id op) hc
    fun hrep _ => ⟨hrep, hdir, hprefixes, hintakes, hmem⟩

end

end Sys2Proof.Machine

/-! SUPPORT. The eight directory commands past their checks, and where a check fails (R68, Tables 03-4 and 03-5). -/

namespace Sys2Proof.Machine

section
variable {s t : State} {id : Nat}

/-! ### The checks every command makes first -/

/-- The code of the first check of R68 that fails, 0 where none does. -/
theorem State.dirCheck_eq (byTrained : Bool) (allowed : DirState → Bool) : s.dirCheck id byTrained allowed =
    if s.running pgDir = false then 0xA else if id = 0 then 8
    else if (byTrained && (s.entry id).trained) = true then 7
    else if allowed (s.entry id).st = false then 1 else 0 := by
  unfold State.dirCheck
  simp only [Bool.not_eq_true', Bool.and_eq_true]

theorem State.dirCheck_dirCmd (op k byTrained allowed) :
    (s.dirCmd id op).dirCheck k byTrained allowed = s.dirCheck k byTrained allowed := rfl

theorem State.dirCheck_lt (byTrained allowed) : s.dirCheck id byTrained allowed < 16 := by
  rw [State.dirCheck_eq]
  split_ifs <;> decide

theorem State.dirCheck_pass {byTrained : Bool} {allowed : DirState → Bool} (hr : s.running pgDir = true) (hid : id ≠ 0)
    (ht : (byTrained && (s.entry id).trained) = false) (ha : allowed (s.entry id).st = true) :
    s.dirCheck id byTrained allowed = 0 := by
  rw [State.dirCheck_eq]
  simp [hr, hid, ht, ha]

/-! ### CREATE -/

/-- DIR_CMD is no register that CREATE's checks read. -/
theorem State.rawReg_dirCmd (op) {a : Nat} (h : a ≠ regAt pgDir 0x040) : (s.dirCmd id op).rawReg a = s.rawReg a := by
  unfold State.dirCmd State.setFld State.wr
  rw [State.rawReg_setReg, if_neg h, State.rawReg_setReg, if_neg h]

theorem State.reg_dirCmd (op) {a : Nat} (h : a ≠ regAt pgDir 0x040) : (s.dirCmd id op).reg a = s.reg a := by
  unfold State.dirCmd State.setFld State.wr
  rw [State.reg_setReg_other _ _ _ _ h, State.reg_setReg_other _ _ _ _ h]

theorem State.dirImg_dirCmd (op) : (s.dirCmd id op).dirImg = s.dirImg :=
  List.map_congr_left fun i _ => State.rawReg_dirCmd op (by unfold regAt; omega)

theorem State.region_dirCmd (op) : (s.dirCmd id op).region = s.region := by
  funext n
  unfold State.region State.rd
  rw [State.reg_dirCmd op, State.reg_dirCmd op, State.reg_dirCmd op] <;> (unfold regAt pgDir; omega)

theorem State.slotsOk_dirCmd (op) (e : DirEntry) : (s.dirCmd id op).slotsOk id e = s.slotsOk id e := by
  have hslot : (s.dirCmd id op).slotRegion e = s.slotRegion e := by
    funext a n
    unfold State.slotRegion State.regionOf
    rw [State.region_dirCmd]
    rfl
  unfold State.slotsOk
  rw [hslot]
  rfl

theorem State.createCheck_dirCmd (op img) : (s.dirCmd id op).createCheck id img = s.createCheck id img := by
  unfold State.createCheck
  simp only [State.slotsOk_dirCmd]
  rfl

/-- The entry that CREATE makes is in LOADING. -/
theorem State.createCheck_st (id img) : (s.createCheck id img).2.st = .loading := by
  unfold State.createCheck
  dsimp only
  split_ifs <;> rfl

theorem dirCreateOp_passed {e : DirEntry} (h : s.dirCheck id false (· == .free) = 0)
    (hc : s.createCheck id s.dirImg = (0, e)) : dirCreateOp s id = ((s.dirCmd id 1).setEntry id e).dirDone id 0 := by
  have hc' : (s.dirCmd id 1).createCheck id (s.dirCmd id 1).dirImg = (0, e) := by
    rw [State.createCheck_dirCmd, State.dirImg_dirCmd, hc]
  unfold dirCreateOp
  dsimp only
  rw [State.dirCheck_dirCmd, if_neg (not_not.mpr h), hc']
  rfl

/-! ### STAGE, PUBLISH, DISCARD and SET_POLICY -/

theorem dirStageOp_passed (h : s.dirCheck id true (· == .ready) = 0) : dirStageOp s id =
    ((s.dirCmd id 2).setEntry id { s.entry id with st := .staging, open_ := true }).dirDone id 0 :=
  if_neg (not_not.mpr h)

theorem dirPublishOp_passed (h : s.dirCheck id true (· == .staged) = 0) (hs : (s.entry id).spanBroken = false) :
    dirPublishOp s id = ((s.dirCmd id 3).setEntry id
      { (s.entry id).flip (s.entry id).idleRankord with st := .ready, open_ := false }).dirDone id 0 :=
  (if_neg (not_not.mpr h)).trans (if_neg (by simp [hs]))

theorem dirPublishOp_spanBroken (h : s.dirCheck id true (· == .staged) = 0) (hs : (s.entry id).spanBroken = true) :
    dirPublishOp s id = ((s.dirCmd id 3).raise pgDir 3).dirDone id 6 :=
  (if_neg (not_not.mpr h)).trans (if_pos hs)

theorem dirDiscardOp_passed (h : s.dirCheck id true (fun st => st == .staging || st == .staged) = 0) :
    dirDiscardOp s id =
      (((s.dirCmd id 4).stopIntake id).setEntry id { s.entry id with st := .ready, open_ := false }).dirDone id 0 :=
  if_neg (not_not.mpr h)

theorem dirSetPolicyOp_passed (h : s.dirCheck id false (fun st => st == .ready || st == .staging || st == .staged) = 0)
    (hres : imgReserved s.dirImg = false) (hpol : bitsOf (imgWord s.dirImg 0) 11 10 ≤ 1) : dirSetPolicyOp s id =
      ((s.dirCmd id 6).setEntry id
        { s.entry id with cpol := BitVec.ofNat 2 (bitsOf (imgWord s.dirImg 0) 11 10) }).dirDone id 0 := by
  unfold dirSetPolicyOp
  dsimp only
  rw [State.dirCheck_dirCmd, if_neg (not_not.mpr h), State.dirImg_dirCmd, if_neg (by simp [hres, hpol])]
  rfl

/-! ### RETIRE -/

/-- What RETIRE makes of an entry that is not FREE (Table 03-4). -/
def State.retired (s : State) (id : Nat) : State :=
  if (s.entry id).st = .loading then (s.stopIntake id).freeEntry id
  else if (s.entry id).st = .retiring then s
  else State.reapEntry (((s.stopIntake id).setEntry id { s.entry id with st := .retiring, open_ := false }).removeWays
    fun w => w.adapter.toNat == id) id

theorem dirRetireOp_passed (h : s.dirCheck id false (· != .free) = 0) :
    dirRetireOp s id = ((s.dirCmd id 5).retired id).dirDone id 0 :=
  if_neg (not_not.mpr h)

theorem State.retired_frame (s : State) (id) : s.dirFrame (s.retired id) id := by
  refine .ite ?_ (.ite ?_ ?_)
  · exact (s.stopIntake_frame id).trans (State.freeEntry_frame ..)
  · exact (State.keepsDirectory.refl s).frame id
  · exact (((s.stopIntake_frame id).trans (State.setEntry_frame ..)).trans (State.removeWays_frame ..)).trans
      (State.reapEntry_frame ..)

/-- An entry that is RETIRING and has no pin becomes FREE, and FREED is raised; a pinned one stays (R68). -/
theorem State.reapEntry_cases (h : (s.entry id).st = .retiring) :
    ((s.entry id).pinA = 0#16 ∧ (s.entry id).pinB = 0#16 ∧ (s.reapEntry id).entry id = {} ∧
      (s.reapEntry id).event pgDir 1 = true) ∨
    (¬((s.entry id).pinA = 0#16 ∧ (s.entry id).pinB = 0#16) ∧ s.reapEntry id = s) := by
  unfold State.reapEntry
  dsimp only
  split
  · next hp => exact .inl ⟨hp.2.1, hp.2.2, s.entry_freeEntry_same id, s.event_freeEntry id⟩
  · next hp => exact .inr ⟨fun h' => hp ⟨h, h'⟩, rfl⟩

theorem State.retired_cases (s : State) (id) :
    ((s.entry id).st = .retiring ∧ s.retired id = s) ∨
    ((s.entry id).st ≠ .retiring ∧ ((s.entry id).st = .loading ∨ (s.entry id).pinA = 0#16 ∧ (s.entry id).pinB = 0#16) ∧
      (s.retired id).entry id = {} ∧ (s.retired id).event pgDir 1 = true) ∨
    ((s.entry id).st ≠ .retiring ∧ ¬((s.entry id).st = .loading ∨ (s.entry id).pinA = 0#16 ∧ (s.entry id).pinB = 0#16) ∧
      (s.retired id).entry id = { s.entry id with st := .retiring, open_ := false }) := by
  unfold State.retired
  split
  · next hl =>
    exact .inr (.inl ⟨by simp [hl], .inl hl, State.entry_freeEntry_same .., State.event_freeEntry ..⟩)
  · next hl =>
    split
    · next hr => exact .inl ⟨hr, rfl⟩
    · next hr =>
      let u := ((s.stopIntake id).setEntry id { s.entry id with st := .retiring, open_ := false }).removeWays
        fun w => w.adapter.toNat == id
      have hu : u.entry id = { s.entry id with st := .retiring, open_ := false } := by simp [u]
      obtain ⟨ha, hb, he, hf⟩ | ⟨hp, he⟩ := State.reapEntry_cases (s := u) (id := id) (by rw [hu])
      · rw [hu] at ha hb
        exact .inr (.inl ⟨hr, .inr ⟨ha, hb⟩, he, hf⟩)
      · rw [hu] at hp
        exact .inr (.inr ⟨hr, not_or.mpr ⟨hl, hp⟩, (congrArg (State.entry · id) he).trans hu⟩)

theorem State.retired_entry (s : State) (id) : (s.retired id).entry id =
    if (s.entry id).st = .retiring then s.entry id
    else if (s.entry id).st = .loading ∨ (s.entry id).pinA = 0#16 ∧ (s.entry id).pinB = 0#16 then {}
    else { s.entry id with st := .retiring, open_ := false } := by
  obtain ⟨hr, he⟩ | ⟨hr, hfree, he, -⟩ | ⟨hr, hpin, he⟩ := s.retired_cases id
  · rw [if_pos hr, he]
  · rw [if_neg hr, if_pos hfree, he]
  · rw [if_neg hr, if_neg hpin, he]

/-- An entry that RETIRE frees raises FREED. -/
theorem State.retired_event (hn : (s.entry id).st ≠ .retiring) (h : (s.retired id).entry id = {}) :
    (s.retired id).event pgDir 1 = true := by
  obtain ⟨hr, -⟩ | ⟨-, -, -, hf⟩ | ⟨-, -, he⟩ := s.retired_cases id
  · exact absurd hr hn
  · exact hf
  · exact nomatch congrArg DirEntry.st (he.symm.trans h)

/-! ### READ -/

/-- Words written at consecutive registers of a page. -/
def State.wrWords (s : State) (p base : Nat) (ws : List (W × Nat)) : State :=
  ws.foldl (fun s x => s.wr p (base + 4 * x.2) x.1) s

theorem State.rd_wrWords (s : State) (p base : Nat) (ws : List W) (k i : Nat) :
    (s.wrWords p base (ws.zipIdx k)).rd p (base + 4 * i) =
      if k ≤ i ∧ i < k + ws.length then imgWord ws (i - k) else s.rd p (base + 4 * i) := by
  induction ws generalizing s k with
  | nil => exact (if_neg (by simp)).symm
  | cons w ws ih =>
    refine (ih (s.wr p (base + 4 * k) w) (k + 1)).trans ?_
    rw [List.length_cons]
    obtain hlt | rfl | hgt := lt_trichotomy i k
    · rw [if_neg (by omega), if_neg (by omega), State.rd_wr_offset _ _ _ _ _ (by omega)]
    · rw [if_neg (by omega), if_pos (by omega), State.rd_wr_same, Nat.sub_self]
      rfl
    · obtain ⟨j, rfl⟩ : ∃ j, i = k + 1 + j := ⟨i - (k + 1), by omega⟩
      rw [State.rd_wr_offset _ _ _ _ _ (by omega), show k + 1 + j - (k + 1) = j by omega,
        show k + 1 + j - k = j + 1 by omega]
      exact if_congr (by omega) rfl rfl

theorem State.wrWords_keepsDirectory (s : State) (p base ws) : s.keepsDirectory (s.wrWords p base ws) :=
  .foldl (fun s _ => s.wr_keepsDirectory ..) ws s

theorem dirReadOp_passed (h : s.dirCheck id false (fun _ => true) = 0) : dirReadOp s id =
    ((s.dirCmd id 0).wrWords pgDir 0x080 (s.entry id).words.zipIdx).dirDone id 0 :=
  if_neg (not_not.mpr h)

/-- DIR_IMG after READ. -/
theorem State.rd_img_read {i : Nat} (hi : i < 16) (e : DirEntry) (code) :
    ((s.wrWords pgDir 0x080 e.words.zipIdx).dirDone id code).rd pgDir (0x080 + 4 * i) = imgWord e.words i := by
  have hl : e.words.length = 16 := rfl
  rw [State.rd_dirDone, if_neg (by omega), State.rd_wrWords, if_pos (by omega), Nat.sub_zero]

/-! ### FLUSH_PREFIX -/

/-- The ways of an adapter that do not carry its postmark leave the table, and PM_FLOOR is recomputed (R74, R164). -/
def State.flushed (s : State) (id : Nat) : State :=
  (s.removeWays fun w => w.adapter.toNat == id && w.postmark != (s.entry id).postmark).refloor id

theorem dirFlushPrefixOp_passed (h : s.dirCheck id false (· != .free) = 0) :
    dirFlushPrefixOp s id = ((s.dirCmd id 7).flushed id).dirDone id 0 :=
  if_neg (not_not.mpr h)

theorem State.flushed_frame (s : State) (id) : s.dirFrame (s.flushed id) id := by
  unfold State.flushed
  obtain h | ⟨lo, h⟩ := State.refloor_cases (s.removeWays _) id <;> rw [h]
  · exact s.removeWays_frame id _
  · exact (s.removeWays_frame id _).trans (State.setEntry_frame ..)

theorem State.flushed_prefixes (s : State) (id) : (s.flushed id).prefixes =
    s.prefixes.filter fun x => !(x.2.adapter.toNat == id && x.2.postmark != (s.entry id).postmark) := by
  unfold State.flushed
  obtain h | ⟨lo, h⟩ := State.refloor_cases (s.removeWays _) id <;> rw [h]
  · exact (s.removeWays_keepsDirectory _).prefixes
  · exact (s.removeWays_keepsDirectory _).prefixes

theorem State.flushed_entry (s : State) (id) :
    (s.flushed id).entry id = { s.entry id with pmFloor := ((s.flushed id).entry id).pmFloor } := by
  unfold State.flushed
  obtain h | ⟨lo, h⟩ := State.refloor_cases (s.removeWays _) id <;> rw [h] <;> simp

/-! ### Refusals -/

/-- Each of the eight commands that a check of R68 refuses reports that check's code and changes nothing. -/
theorem completes_of_dirCheck {id : BitVec 16} {x : Instr × Bool × (DirState → Bool)} (hx : x ∈ dirCommands id)
    (h : s.dirCheck id.toNat x.2.1 x.2.2 ≠ 0) :
    completes x.1 s fun t => dirReports s t id.toNat (s.dirCheck id.toNat x.2.1 x.2.2) ∧ t.dir = s.dir ∧
      t.prefixes = s.prefixes ∧ t.intakes = s.intakes ∧ t.mem = s.mem := by
  simp only [dirCommands, List.mem_cons, List.not_mem_nil, or_false] at hx
  have hc := s.dirCheck_lt (id := id.toNat) x.2.1 x.2.2
  obtain rfl | rfl | rfl | rfl | rfl | rfl | rfl | rfl := hx
  · exact completes_refused (v := dirReadOp s id.toNat) rfl rfl (if_pos h) rfl rfl rfl rfl hc
      fun _ => ⟨rfl, rfl, rfl, rfl⟩
  · exact completes_refused (v := dirCreateOp s id.toNat) rfl rfl (if_pos h) rfl rfl rfl rfl hc
      fun q => ⟨q.dir, rfl, rfl, rfl⟩
  · exact completes_refused (v := dirStageOp s id.toNat) rfl rfl (if_pos h) rfl rfl rfl rfl hc
      fun q => ⟨q.dir, rfl, rfl, rfl⟩
  · exact completes_refused (v := dirPublishOp s id.toNat) rfl rfl (if_pos h) rfl rfl rfl rfl hc
      fun q => ⟨q.dir, rfl, rfl, rfl⟩
  · exact completes_refused (v := dirDiscardOp s id.toNat) rfl rfl (if_pos h) rfl rfl rfl rfl hc
      fun q => ⟨q.dir, rfl, q.intakes, rfl⟩
  · exact completes_refused (v := dirRetireOp s id.toNat) rfl rfl (if_pos h) rfl rfl rfl rfl hc
      fun q => ⟨q.dir, q.prefixes, q.intakes, q.mem⟩
  · exact completes_refused (v := dirSetPolicyOp s id.toNat) rfl rfl (if_pos h) rfl rfl rfl rfl hc
      fun q => ⟨q.dir, rfl, rfl, rfl⟩
  · exact completes_refused (v := dirFlushPrefixOp s id.toNat) rfl rfl (if_pos h) rfl rfl rfl rfl hc
      fun q => ⟨q.dir, q.prefixes, rfl, q.mem⟩

end

end Sys2Proof.Machine

/-! PROOFS. The directory's commands move an entry by Table 03-4 or leave it, and report (O7, O8). -/

open Sys2Proof Sys2Proof.Machine in

/-- Settles O7: each command passes its checks, changes its own entry alone, and then reports. -/
theorem directoryCommandsMoveTheEntryByTheStateTable : Obligations.DirectoryCommandsMoveTheEntryByTheStateTable := by
  intro s id hr hid
  have hid' : id.toNat ≠ 0 := fun h => hid (BitVec.eq_of_toNat_eq h)
  have frame (op) := s.dirCmd_frame id.toNat op
  refine ⟨fun e hst hc => ?create, fun hst ht => ?stage, fun hst ht hs => ?publish, fun hst ht => ?discard,
    fun hst => ?retire, fun hst hres hpol => ?setPolicy⟩
  case create =>
    have hpass := dirCreateOp_passed (State.dirCheck_pass hr hid' rfl (by simp [hst])) hc
    refine completes_dir rfl rfl hpass rfl rfl rfl rfl rfl ((frame 1).trans (State.setEntry_frame ..)) (by decide)
      fun hrep w => ⟨(w.entry _).trans (State.entry_setEntry_same ..), ?_, hrep⟩
    exact (congrArg (·.2.st) hc).symm.trans (s.createCheck_st id.toNat s.dirImg)
  case stage =>
    have hpass := dirStageOp_passed (State.dirCheck_pass hr hid' (by simp [ht]) (by simp [hst]))
    exact completes_dir rfl rfl hpass rfl rfl rfl rfl rfl ((frame 2).trans (State.setEntry_frame ..)) (by decide)
      fun hrep w => ⟨hrep, (w.entry _).trans (State.entry_setEntry_same ..)⟩
  case publish =>
    have hpass := dirPublishOp_passed (State.dirCheck_pass hr hid' (by simp [ht]) (by simp [hst])) hs
    exact completes_dir rfl rfl hpass rfl rfl rfl rfl rfl ((frame 3).trans (State.setEntry_frame ..)) (by decide)
      fun hrep w => ⟨hrep, (w.entry _).trans (State.entry_setEntry_same ..)⟩
  case discard =>
    have hpass := dirDiscardOp_passed (State.dirCheck_pass hr hid' (by simp [ht]) (by simpa using hst))
    exact completes_dir rfl rfl hpass rfl rfl rfl rfl rfl
      (((frame 4).trans (State.stopIntake_frame ..)).trans (State.setEntry_frame ..)) (by decide)
      fun hrep w => ⟨hrep, (w.entry _).trans (State.entry_setEntry_same ..)⟩
  case retire =>
    have hpass := dirRetireOp_passed (State.dirCheck_pass hr hid' rfl (by simpa using hst))
    refine completes_dir rfl rfl hpass rfl rfl rfl rfl rfl ((frame 5).trans (State.retired_frame ..)) (by decide)
      fun hrep w => ⟨hrep, ?_⟩
    rw [w.entry]
    exact ⟨State.retired_entry .., fun hn hfree =>
      (w.event ..).trans (State.event_dirDone_of _ _ _ (State.retired_event (s := s.dirCmd id.toNat 5) hn hfree))⟩
  case setPolicy =>
    have hpass := dirSetPolicyOp_passed (State.dirCheck_pass hr hid' rfl (by simpa [or_assoc] using hst)) hres hpol
    exact completes_dir rfl rfl hpass rfl rfl rfl rfl rfl ((frame 6).trans (State.setEntry_frame ..)) (by decide)
      fun hrep w => ⟨hrep, (w.entry _).trans (State.entry_setEntry_same ..)⟩

open Sys2Proof Sys2Proof.Machine in

/-- Settles O8: READ and FLUSH_PREFIX past their checks, the checks of all eight commands, and PUBLISH at the span rule. -/
theorem directoryReadAndFlushPrefix : Obligations.DirectoryReadAndFlushPrefix := by
  have pos {id : BitVec 16} (h : id ≠ 0#16) : id.toNat ≠ 0 := fun h0 => h (BitVec.eq_of_toNat_eq h0)
  refine ⟨fun s id hr hid => ⟨?read, fun hst => ?flush⟩, fun s id => ⟨?refused, fun hr hid hst ht hs => ?span⟩⟩
  case read =>
    have hpass := dirReadOp_passed (State.dirCheck_pass hr (pos hid) rfl rfl)
    have hkeep := (s.dirCmd_keepsDirectory id.toNat 0).trans
      (State.wrWords_keepsDirectory _ pgDir 0x080 (s.entry id.toNat).words.zipIdx)
    have hdir : s.dir = (dirReadOp s id.toNat).dir := by rw [hpass, State.dirDone_dir, hkeep.dir]
    refine completes_dir rfl rfl hpass rfl hdir rfl rfl rfl (hkeep.frame _) (by decide) fun hrep w => ?_
    have himg (i : Nat) (hi : i < 16) := (w.rd pgDir (0x080 + 4 * i)).trans (State.rd_img_read hi (s.entry id.toNat) 0)
    refine ⟨hrep, rfl, himg, fun h0 i hi => (himg i hi).trans ?_⟩
    rw [h0, imgWord_words_default]
  case flush =>
    have hpass := dirFlushPrefixOp_passed (State.dirCheck_pass hr (pos hid) rfl (by simpa using hst))
    refine completes_dir rfl rfl hpass rfl rfl rfl rfl rfl ((s.dirCmd_frame _ 7).trans (State.flushed_frame ..)) (by decide)
      fun hrep w => ⟨hrep, ?_, ?_⟩
    · exact (congrArg State.prefixes hpass).trans ((State.dirDone_prefixes ..).trans (State.flushed_prefixes ..))
    · rw [w.entry]
      exact State.flushed_entry ..
  case refused =>
    intro x hx code hcode h0
    obtain rfl : code = s.dirCheck id.toNat x.2.1 x.2.2 := by
      rw [hcode, State.dirCheck_eq]
      simp only [BitVec.toNat_eq, BitVec.toNat_ofNat, Nat.zero_mod]
    exact completes_of_dirCheck hx h0
  case span =>
    have hpass := dirPublishOp_spanBroken (State.dirCheck_pass hr (pos hid) (by simp [ht]) (by simp [hst])) hs
    exact completes_dir rfl rfl hpass rfl rfl rfl rfl rfl
      ((s.dirCmd_frame _ 3).trans ((State.raise_keepsDirectory _ pgDir 3).frame _)) (by decide) fun hrep w =>
        ⟨hrep, (w.event ..).trans (State.event_dirDone_of _ _ _ (State.event_raise_same _ pgDir 3 (by decide))),
          w.dir.trans (State.dirDone_dir ..)⟩

/-! PROOFS. A granted command issues, completes by its identity, or is dropped (O16; R93, R114, R116, R390). -/

namespace Sys2Proof.Machine

section
variable {s : State}

/-! ### COMMAND_ISSUE -/

/-- A granted command as it goes out to the arrays under an identity (R390). -/
def State.issued (s : State) (c : Cmd) (id : Nat) : Cmd :=
  { c with stage := .issued, id := BitVec.ofNat 8 id, issueAt := s.lcount }

/-- The feed units an issue is predicted to send (R210). -/
def State.issueUnits (s : State) (c : Cmd) : Nat :=
  match s.cmdStep c with
  | some st => s.feedUnits c.arr st
  | none => 0

theorem commandIssueOp_issues {c : Cmd} {id : Nat} (hc : s.cmds.find? (s.issueOk s.placedMap) = some c)
    (hid : (List.range 256).find? (fun i => !(s.idsOut.any fun x => x.toNat = i)) = some id)
    (hr : s.running pgArray = true) (hclk : s.clkUp 1 = true) (hn : s.idsOut.length < s.decl.nArray.toNat) :
    commandIssueOp s =
      ((s.setCmd (s.issued c id)).inc pgArray 0x200).count (regAt pgArray 0x210) (s.issueUnits c) := by
  unfold commandIssueOp
  dsimp only
  rw [hc]
  dsimp only
  rw [hid]
  dsimp only
  rw [if_neg (by simp [hr, hclk, hn])]
  rfl

/-- COMMAND_ISSUE's write back of what its operation gave. -/
def State.issueWrites (s t : State) : State := { s with cmds := t.cmds, ctrs := t.ctrs, hdrs := t.hdrs, regs := t.regs }

theorem commandIssueOp_bound (h : s.decl.nArray.toNat ≤ s.idsOut.length ∨ s.running pgArray = false) :
    commandIssueOp s = s := by
  unfold commandIssueOp
  dsimp only
  split
  · rfl
  · split
    · rfl
    · exact if_pos (h.elim (fun hn => .inr (.inr hn)) fun hr => .inl (by simp [hr]))

/-! ### ACMD_DONE -/

/-- The array link's clock runs where ACMD_DONE is served. -/
theorem State.clkUp_of_serves_acmdDone {id : BitVec 8} (h : s.serves (.acmdDone id) = true) : s.clkUp 1 = true := by
  simpa [State.serves, Instr.needs, State.clockOk] using h

/-- What an answer of the arrays does: its command is complete, or an identity of a closed step is free, or it is counted
as an error. -/
def State.answered (s : State) (id : BitVec 8) : State :=
  match s.outstanding.find? fun c => c.id = id with
  | some c => s.setCmd { c with done := true }
  | none => if s.late.contains id then { s with late := s.late.erase id } else s.errInc pgArray

/-- ACMD_DONE's write back of what its operation gave. -/
def State.answerWrites (s t : State) : State := { s with cmds := t.cmds, late := t.late, hdrs := t.hdrs }

theorem completes_acmdDone {id : BitVec 8} {P : State → Prop} (h : P (s.answerWrites (s.answered id))) :
    completes (.acmdDone id) s P := by
  intro hs
  refine ⟨s.answerWrites (s.answered id), ?_, rfl, h⟩
  change execAcmdDone id s = _
  unfold execAcmdDone
  rw [hs, State.clkUp_of_serves_acmdDone hs]
  rfl

theorem State.answered_outstanding {id : BitVec 8} {c : Cmd} (h : s.outstanding.find? (fun c => c.id = id) = some c) :
    s.answered id = s.setCmd { c with done := true } := by
  unfold State.answered
  rw [h]

theorem State.answered_other {id : BitVec 8} (h : s.outstanding.find? (fun c => c.id = id) = none) :
    s.answered id = if s.late.contains id then { s with late := s.late.erase id } else s.errInc pgArray := by
  unfold State.answered
  rw [h]

/-! ### COMMAND_DROP -/

/-- A command leaves the table of commands. -/
def State.withoutCmd (s : State) (c : Cmd) : State := { s with cmds := s.cmds.filter fun x => x.key ≠ c.key }

theorem commandDropOp_drops {c : Cmd} (hc : s.cmds.find? (fun c => c.stage = .ready) = some c)
    (hh : s.holdLimit ≤ c.hold) : commandDropOp s =
      (s.withoutCmd c).failRows c.arr.job.toNat (c.arr.rows.map fun r => r.toNat) cOff := by
  unfold commandDropOp
  rw [hc]
  exact if_neg (Nat.not_lt.mpr hh)

/-- Rows of a step in flight fail, in training every row of it. -/
theorem State.failRows_eq {j : Nat} {st : Step} {rows : List Nat} (hst : (s.job j).cur = some st) (hr : rows ≠ [])
    (code) : s.failRows j rows code =
      s.setStep j (st.failRows (if (s.job j).isTrain then List.range st.rows.length else rows) code) := by
  unfold State.failRows
  rw [hst]
  exact if_neg hr

end

end Sys2Proof.Machine

open Sys2Proof Sys2Proof.Machine in

/-- Settles O16: by the branches of COMMAND_ISSUE, ACMD_DONE and COMMAND_DROP. -/
theorem commandsIssueCompleteAndDrop : Obligations.CommandsIssueCompleteAndDrop := by
  refine ⟨fun s c id hc hid hr hclk hn => ?issues, fun s h => ?bound, fun s id c hc => ?answers, fun s id hn => ?strays,
    fun s c st hc hh hst hrows => ?drops⟩
  case issues =>
    have hop := commandIssueOp_issues hc hid hr hclk hn
    have hctr : (commandIssueOp s).ctr (regAt pgArray 0x200) =
        ((s.setCmd (s.issued c id)).inc pgArray 0x200).ctr (regAt pgArray 0x200) := by
      rw [hop]
      exact State.ctr_count_other _ _ _ _ (regAt_ne (by decide) (by decide) (by decide))
    have hunit (p : Nat) : (commandIssueOp s).unit p = s.unit p := by
      rw [hop, State.unit_count, State.unit_inc]
      rfl
    have hpart : (commandIssueOp s).part = s.part := by simp [hop, State.setCmd]
    have hcmds : (commandIssueOp s).cmds = (s.setCmd (s.issued c id)).cmds := by simp [hop]
    refine completes_of_exec (t := s.issueWrites (commandIssueOp s)) rfl rfl ⟨?_, fun p => ?_, hcmds⟩
    · exact ((s.setCmd (s.issued c id)).inc_countedBy pgArray 0x200).congr rfl hctr
    · have hw := State.unit_congr (s := commandIssueOp s) (t := s.issueWrites (commandIssueOp s)) rfl hpart.symm p
      exact hw.trans (hunit p)
  case bound =>
    have hop := commandIssueOp_bound h
    exact completes_of_exec rfl rfl ⟨(congrArg State.cmds hop :), (congrArg State.ctrs hop :)⟩
  case answers =>
    have ha := State.answered_outstanding hc
    exact completes_acmdDone ⟨(congrArg State.hdrs ha :), (congrArg State.late ha :), (congrArg State.cmds ha :)⟩
  case strays =>
    have ha := State.answered_other hn
    by_cases hl : id ∈ s.late
    · rw [if_pos (List.contains_iff_mem.mpr hl)] at ha
      have hh : (s.answered id).hdrs = s.hdrs := (congrArg State.hdrs ha :)
      exact completes_acmdDone ⟨(congrArg State.cmds ha :), (congrArg State.late ha :),
        fun p _ => State.hdr_congr (t := s.answerWrites _) hh p, fun _ => hh, fun hn => absurd hl hn⟩
    · rw [if_neg (mt List.contains_iff_mem.mp hl)] at ha
      have hh (p : Nat) : (s.answerWrites (s.answered id)).hdr p = (s.errInc pgArray).hdr p :=
        State.hdr_congr (congrArg State.hdrs ha :) p
      refine completes_acmdDone
        ⟨(congrArg State.cmds ha :), ?_, fun p hp => ?_, fun hm => absurd hm hl, fun _ he => ?_⟩
      · exact (congrArg State.late ha :).trans (List.erase_of_not_mem hl).symm
      · rw [hh, State.hdr_errInc, if_neg (by simpa using hp)]
      · rw [hh, State.hdr_errInc, if_pos rfl]
        exact if_neg he
  case drops =>
    have hop := (commandDropOp_drops hc hh).trans
      (State.failRows_eq (s := s.withoutCmd c) hst (by simpa using hrows) cOff)
    have hjob (k : Nat) := (congrArg (State.job · k) hop).trans (State.job_setStep ..)
    refine completes_of_exec rfl rfl ⟨(congrArg State.cmds hop :), ?_, fun k hk => ?_⟩
    · exact (congrArg Job.cur (hjob _)).trans (by rw [if_pos rfl]; rfl)
    · exact (hjob k).trans (by rw [if_neg hk]; rfl)

/-! SUPPORT. What the work of a form keeps: the basis it is charged on, the form counters and the choices of the rows. -/

namespace Sys2Proof.Machine

/-! ### The relations -/

/-- The step keeps its number, the group it is charged to, its model and its snapshots. -/
structure Step.keepsBasis (a b : Step) : Prop where
  num : b.num = a.num
  group : b.group = a.group
  model : b.model = a.model
  snaps : b.snaps = a.snaps

/-- What has been chosen for a row: its experts, its draw, and whether it is done. -/
def Row.choice (r : Row) : Tab (List (Nat × W)) × Option (BitVec 24 × W) × Bool := (r.routes, r.result, r.done)

/-- The units, the engine time of the groups, the lanes and the models are as they were, and every step in flight stays in
flight with its basis. -/
structure State.keepsBasis (s t : State) : Prop where
  part : t.part = s.part
  units : sameUnits s t
  used : t.used = s.used
  lanes : t.lanes = s.lanes
  models : t.models = s.models
  steps : ∀ j a, (s.job j).cur = some a → ∃ b, (t.job j).cur = some b ∧ a.keepsBasis b

/-- The counters in which forms count their reads and their completions: SCHED_DELTA_FORMS, _GATHER and _STAGED, and those
of the attention forms on the SAMP page. -/
def formCtr (a : Nat) : Prop :=
  (regAt pgSched 0x208 ≤ a ∧ a ≤ regAt pgSched 0x218) ∨ (regAt pgSamp 0x220 ≤ a ∧ a ≤ regAt pgSamp 0x230)

/-- Beside the basis, the landing buffers, the form counters and the rows' choices are as they were. -/
structure State.keepsWork (s t : State) : Prop extends basis : s.keepsBasis t where
  landing : t.landing = s.landing
  ctrs : ∀ a, formCtr a → t.ctr a = s.ctr a
  choices : ∀ j a b, (s.job j).cur = some a → (t.job j).cur = some b → b.rows.map Row.choice = a.rows.map Row.choice

theorem Step.keepsBasis.refl (a : Step) : a.keepsBasis a := ⟨rfl, rfl, rfl, rfl⟩

theorem Step.keepsBasis.trans {a b c : Step} (h : a.keepsBasis b) (k : b.keepsBasis c) : a.keepsBasis c :=
  ⟨k.num.trans h.num, k.group.trans h.group, k.model.trans h.model, k.snaps.trans h.snaps⟩

namespace State.keepsBasis
variable {s t u : State}

theorem refl (s : State) : s.keepsBasis s := ⟨rfl, fun _ => rfl, rfl, rfl, rfl, fun _ a h => ⟨a, h, .refl a⟩⟩

theorem trans (h : s.keepsBasis t) (k : t.keepsBasis u) : s.keepsBasis u where
  part := k.part.trans h.part
  units p := (k.units p).trans (h.units p)
  used := k.used.trans h.used
  lanes := k.lanes.trans h.lanes
  models := k.models.trans h.models
  steps j a ha := by
    obtain ⟨b, hb, hab⟩ := h.steps j a ha
    obtain ⟨c, hc, hbc⟩ := k.steps j b hb
    exact ⟨c, hc, hab.trans hbc⟩

theorem ite {c : Prop} [Decidable c] (ht : s.keepsBasis t) (hu : s.keepsBasis u) : s.keepsBasis (if c then t else u) := by
  split <;> assumption

theorem foldl {α : Type} {f : State → α → State} (hf : ∀ (s : State) x, s.keepsBasis (f s x)) (l : List α) (s : State) :
    s.keepsBasis (l.foldl f s) := by
  induction l generalizing s with
  | nil => exact .refl s
  | cons x l ih => exact (hf s x).trans (ih _)

end State.keepsBasis

namespace State.keepsWork
variable {s t u : State}

theorem refl (s : State) : s.keepsWork s :=
  ⟨.refl s, rfl, fun _ _ => rfl, fun _ a b ha hb => by cases ha.symm.trans hb; rfl⟩

theorem trans (h : s.keepsWork t) (k : t.keepsWork u) : s.keepsWork u where
  basis := h.basis.trans k.basis
  landing := k.landing.trans h.landing
  ctrs a ha := (k.ctrs a ha).trans (h.ctrs a ha)
  choices j a c ha hc := by
    obtain ⟨b, hb, -⟩ := h.steps j a ha
    exact (k.choices j b c hb hc).trans (h.choices j a b ha hb)

theorem ite {c : Prop} [Decidable c] (ht : s.keepsWork t) (hu : s.keepsWork u) : s.keepsWork (if c then t else u) := by
  split <;> assumption

theorem foldl {α : Type} {f : State → α → State} (hf : ∀ (s : State) x, s.keepsWork (f s x)) (l : List α) (s : State) :
    s.keepsWork (l.foldl f s) := by
  induction l generalizing s with
  | nil => exact .refl s
  | cons x l ih => exact (hf s x).trans (ih _)

/-- A change that leaves every job's step alone. -/
theorem of_steps (k : s.keeps t) (hc : ∀ a, formCtr a → t.ctr a = s.ctr a) (hj : ∀ j, (t.job j).cur = (s.job j).cur)
    (hu : t.used = s.used) (hl : t.lanes = s.lanes) (hm : t.models = s.models) : s.keepsWork t where
  part := k.part
  units := k.units
  used := hu
  lanes := hl
  models := hm
  steps j a ha := ⟨a, (hj j).trans ha, .refl a⟩
  landing := k.landing
  ctrs := hc
  choices j a b ha hb := by
    cases (hj j).symm.trans hb |>.symm.trans ha
    rfl

/-- A change of a field that none of the facts speaks of. -/
theorem of_eq (hp : t.part = s.part) (hh : t.hdrs = s.hdrs) (hld : t.landing = s.landing) (hc : t.ctrs = s.ctrs)
    (hj : t.jobs = s.jobs) (hu : t.used = s.used) (hl : t.lanes = s.lanes) (hm : t.models = s.models) : s.keepsWork t :=
  .of_steps (.of_eq hp hh hld hc hj) (fun _ _ => by unfold State.ctr; rw [hc]) (fun j => by rw [State.job_congr hj])
    hu hl hm

end State.keepsWork

section
variable (s : State)

/-! ### Counters, events and the log -/

theorem State.count_keepsBasis (a n) : s.keepsBasis (s.count a n) where
  part := by simp
  units _ := by simp
  used := by simp
  lanes := by simp
  models := by simp
  steps j x hx := ⟨x, by rw [State.job_congr (State.count_jobs ..)]; exact hx, .refl x⟩

theorem State.inc_keepsBasis (p off) : s.keepsBasis (s.inc p off) := s.count_keepsBasis _ 1

theorem State.ctr_inc_other {p off a : Nat} (h : a ≠ regAt p off) : (s.inc p off).ctr a = s.ctr a :=
  s.ctr_count_other _ 1 a h

theorem State.count_keepsWork {a : Nat} (n) (h : ¬formCtr a) : s.keepsWork (s.count a n) where
  basis := s.count_keepsBasis a n
  landing := by simp
  ctrs c hc := s.ctr_count_other a n c fun e => h (e ▸ hc)
  choices j x y hx hy := by
    rw [State.job_congr (State.count_jobs ..)] at hy
    cases hx.symm.trans hy
    rfl

theorem State.raise_keepsWork (p b) : s.keepsWork (s.raise p b) :=
  .of_steps (s.raise_keeps p b) (fun _ _ => rfl) (fun _ => rfl) rfl rfl rfl

theorem State.setFld_keepsWork (p off lo width v) : s.keepsWork (s.setFld p off lo width v) :=
  .of_eq rfl rfl rfl rfl rfl rfl rfl rfl

/-- The counters of the stacks' pages are none of the forms'. -/
theorem not_formCtr_pgMem (k) {off : Nat} (h : off < 0x1000) : ¬formCtr (regAt (pgMem k) off) := by
  unfold formCtr regAt pgMem pgSched pgSamp
  omega

theorem State.logRec_keepsWork (cls page inst detail) : s.keepsWork (s.logRec cls page inst detail) := by
  unfold State.logRec
  dsimp only
  refine .ite (.trans ?_ (State.raise_keepsWork _ pgRel 0)) ?_
  · exact .of_eq rfl rfl rfl rfl rfl rfl rfl rfl
  have hl : s.keepsWork { s with logOvf := true } := .of_eq rfl rfl rfl rfl rfl rfl rfl rfl
  exact (hl.trans (State.count_keepsWork _ 1 (by unfold formCtr; decide))).trans (State.raise_keepsWork _ pgRel 1)

theorem State.regFault_keepsWork : s.keepsWork s.regFault :=
  (s.count_keepsWork 1 (by unfold formCtr; decide)).trans (State.raise_keepsWork _ 0x030 8)

/-! ### Steps in flight -/

theorem State.setStep_keepsBasis {j : Nat} {a b : Step} (ha : (s.job j).cur = some a) (h : a.keepsBasis b) :
    s.keepsBasis (s.setStep j b) := by
  refine ⟨rfl, fun _ => rfl, rfl, rfl, rfl, fun k x hx => ?_⟩
  rw [State.job_setStep]
  split
  · next hk =>
    subst hk
    cases ha.symm.trans hx
    exact ⟨b, rfl, h⟩
  · exact ⟨x, hx, .refl x⟩

theorem State.setStep_keepsWork {j : Nat} {a b : Step} (ha : (s.job j).cur = some a) (h : a.keepsBasis b)
    (hr : b.rows.map Row.choice = a.rows.map Row.choice) : s.keepsWork (s.setStep j b) where
  basis := s.setStep_keepsBasis ha h
  landing := rfl
  ctrs _ _ := rfl
  choices k x y hx hy := by
    rw [State.job_setStep] at hy
    split at hy
    · next hk =>
      subst hk
      cases ha.symm.trans hx
      cases hy
      exact hr
    · cases hx.symm.trans hy
      rfl

/-- Rows changed by their places keep their choices where the change does. -/
theorem map_choice_zipIdx (rows : List Row) {f : Row × Nat → Row} (hf : ∀ r i, (f (r, i)).choice = r.choice) :
    (rows.zipIdx.map f).map Row.choice = rows.map Row.choice := by
  rw [List.map_map]
  calc _ = rows.zipIdx.map (Row.choice ∘ Prod.fst) := List.map_congr_left fun x _ => hf x.1 x.2
    _ = rows.map Row.choice := by rw [← List.map_map, List.zipIdx_map_fst]

theorem Row.choice_fail (r : Row) (code) : (r.fail code).choice = r.choice := by
  unfold Row.fail
  split <;> rfl

theorem Step.failRows_choices (st : Step) (rows code) :
    (st.failRows rows code).rows.map Row.choice = st.rows.map Row.choice :=
  map_choice_zipIdx _ fun r i => by
    dsimp only
    split
    · exact r.choice_fail code
    · rfl

theorem Step.markRows_choices (st : Step) (rows layer d) :
    (st.markRows rows layer d).rows.map Row.choice = st.rows.map Row.choice :=
  map_choice_zipIdx _ fun r i => by
    dsimp only
    split <;> rfl

theorem State.failRows_keepsWork (j rows code) : s.keepsWork (s.failRows j rows code) := by
  unfold State.failRows
  split
  · next a ha => exact .ite (.refl s) (s.setStep_keepsWork ha ⟨rfl, rfl, rfl, rfl⟩ (a.failRows_choices _ code))
  · exact .refl s

theorem State.failForm_keepsWork (d code) : s.keepsWork (s.failForm d code) := by
  unfold State.failForm
  split
  · exact s.failRows_keepsWork _ _ code
  · exact .refl s

theorem State.markRows_keepsWork (j rows layer d) : s.keepsWork (s.markRows j rows layer d) := by
  unfold State.markRows
  split
  · next a ha => exact s.setStep_keepsWork ha ⟨rfl, rfl, rfl, rfl⟩ (a.markRows_choices rows layer d)
  · exact .refl s

theorem State.addSeg_keepsWork (d slice) : s.keepsWork (s.addSeg d slice) := by
  unfold State.addSeg
  split
  · next h => exact .ite (.refl s) (s.setStep_keepsWork (s.cur_of_formStep h) ⟨rfl, rfl, rfl, rfl⟩ rfl)
  · exact .refl s

theorem State.keep_keepsWork (jn row tensor bs) : s.keepsWork (s.keep jn row tensor bs) := by
  unfold State.keep
  split
  · next h => exact s.setStep_keepsWork h ⟨rfl, rfl, rfl, rfl⟩ rfl
  · exact .refl s

theorem State.chargeStep_keepsWork (f) : s.keepsWork (s.chargeStep f) := by
  unfold State.chargeStep
  split
  · next h => exact s.setStep_keepsWork (s.cur_of_formStep h) ⟨rfl, rfl, rfl, rfl⟩ rfl
  · exact .refl s

/-- The statistics of a train job are no part of its step. -/
theorem State.stat_keepsWork (jn cls fmt c) : s.keepsWork (s.stat jn cls fmt c) := by
  unfold State.stat
  dsimp only
  have hcur (v : Train) (j) : ((s.setJob jn { s.job jn with train := v }).job j).cur = (s.job j).cur := by
    rw [State.job_setJob]
    split
    · next h => rw [h]
    · rfl
  refine .ite (.refl s) (.of_steps ⟨rfl, fun _ => rfl, rfl, rfl, fun _ _ h => h, fun j a ha => ?_⟩ (fun _ _ => rfl)
    (hcur _) rfl rfl rfl)
  exact ⟨a, (hcur _ j).trans ha, .refl a⟩

/-! ### Reads and writes of the stacks -/

theorem State.ucPush_keepsWork (stack r) : s.keepsWork (s.ucPush stack r) :=
  .ite (.of_eq rfl rfl rfl rfl rfl rfl rfl rfl) ((s.setFld_keepsWork ..).trans (State.raise_keepsWork _ _ 5))

theorem State.autoRetire_keepsWork (k pc) : s.keepsWork (s.autoRetire k pc) :=
  .ite (.refl s) (.ite (.of_eq rfl rfl rfl rfl rfl rfl rfl rfl) (s.raise_keepsWork _ 0))

theorem State.seeUnc_keepsWork (k pc a) : s.keepsWork (s.seeUnc k pc a) := by
  have hs : s.keepsWork { s with stk := tput s.stk k { s.stack k with seen := (s.stack k).seen ++ [(a / 32, pc)] } } :=
    .of_eq rfl rfl rfl rfl rfl rfl rfl rfl
  exact .ite (.refl s) (.ite (hs.trans (State.autoRetire_keepsWork _ k pc)) hs)

theorem State.uncRecord_keepsWork (a cls) : s.keepsWork (s.uncRecord a cls) :=
  (((((s.seeUnc_keepsWork _ _ a).trans (State.count_keepsWork _ 1 (not_formCtr_pgMem _ (by decide)))).trans
    (State.setFld_keepsWork ..)).trans (State.ucPush_keepsWork ..)).trans (State.raise_keepsWork _ _ 1)).trans
    (State.logRec_keepsWork ..)

theorem State.uncRange_keepsWork (a n cls) : s.keepsWork (s.uncRange a n cls) := by
  refine .ite (.refl s) (.foldl (fun s i => ?_) _ s)
  split
  · exact s.uncRecord_keepsWork _ cls
  · exact .refl s

theorem State.note_keepsWork (r a cls) : s.keepsWork (s.note r a cls) :=
  .ite s.regFault_keepsWork (.ite (s.uncRange_keepsWork a _ cls) (.refl s))

theorem State.wrCount_keepsWork (a n) : s.keepsWork (s.wrCount a n) :=
  .ite (.refl s) (.foldl (fun s _ => s.count_keepsWork 1 (not_formCtr_pgMem _ (by decide))) _ s)

theorem State.poke_keepsWork (kind need a bs) : s.keepsWork (s.poke kind need a bs).1 := by
  have store (s : State) (a bs) : s.keepsWork (s.store_ a bs) := .of_eq rfl rfl rfl rfl rfl rfl rfl rfl
  unfold State.poke
  split
  · exact .refl s
  · split
    · exact s.regFault_keepsWork
    · exact (store s a bs).trans (State.wrCount_keepsWork ..)
    · exact (store s _ _).trans (State.wrCount_keepsWork ..)

theorem State.save_keepsWork (jn row layer tensor bs) : s.keepsWork (s.save jn row layer tensor bs) := by
  unfold State.save State.saveAt
  split
  · split
    · have hp := s.poke_keepsWork kStaging
      exact .ite ((hp ..).trans (State.failRows_keepsWork ..)) (hp ..)
    · exact .refl s
  · exact .refl s

theorem State.feedForm_keepsWork (d r a) : s.keepsWork (s.feedForm d r a) :=
  .ite ((s.note_keepsWork r a 0).trans (State.failForm_keepsWork ..)) (.refl s)

theorem State.feedAll_keepsWork (d rs) : s.keepsWork (s.feedAll d rs) :=
  .foldl (fun s (x : Nat × MemRes) => s.feedForm_keepsWork d x.2 x.1) rs s

/-! ### Placement -/

theorem State.wake_keepsWork (dom) : s.keepsWork (s.wake dom) := by
  refine .ite (.trans ?_ (State.count_keepsWork _ 1 (by unfold formCtr; decide))) (.refl s)
  exact .of_eq rfl rfl rfl rfl rfl rfl rfl rfl

theorem State.seatForm_keepsWork (fid f) : s.keepsWork (s.seatForm fid f) := by
  rw [State.seatForm_eq]
  refine .trans (.trans (.ite ?_ (.refl s)) (State.wake_keepsWork _ _)) (.of_eq rfl rfl rfl rfl rfl rfl rfl rfl)
  exact s.count_keepsWork 1 (by unfold formCtr; decide)

theorem State.stage_keepsWork (d slice) : s.keepsWork (s.stage d slice) := by
  unfold State.stage
  split
  · dsimp only
    refine .ite (.refl s) ?_
    split
    · exact .refl s
    · split
      · exact .ite (s.failForm_keepsWork _ cMem) (.refl s)
      · refine .ite (.trans (.trans ?_ (State.note_keepsWork ..)) (State.failForm_keepsWork ..)) ?_
        · exact .of_eq rfl rfl rfl rfl rfl rfl rfl rfl
        · exact .of_eq rfl rfl rfl rfl rfl rfl rfl rfl
  · exact .refl s

theorem State.takeCore_keepsWork (fid f) : s.keepsWork (s.takeCore fid f) :=
  ((s.seatForm_keepsWork fid f).trans (State.addSeg_keepsWork ..)).trans (State.stage_keepsWork ..)

theorem State.placeOne_keepsWork (x) : s.keepsWork (s.placeOne x) := by
  unfold State.placeOne
  split
  · exact .refl s
  · exact .ite (.of_eq rfl rfl rfl rfl rfl rfl rfl rfl) (s.takeCore_keepsWork ..)

theorem State.placeWaiting_keepsWork : s.keepsWork s.placeWaiting := .foldl State.placeOne_keepsWork _ s

theorem State.endOverrun_keepsWork (f j w) : s.keepsWork (s.endOverrun f j w) := by
  refine .ite (.refl s) (.trans (.trans ?_ (State.count_keepsWork _ _ (by unfold formCtr; decide)))
    (State.raise_keepsWork _ pgTide 0))
  exact .of_eq rfl rfl rfl rfl rfl rfl rfl rfl

theorem State.endOverruns_keepsWork (f j) : s.keepsWork (s.endOverruns f j) := by
  cases j with
  | none => exact .refl s
  | some j => exact .foldl (fun s (x : Nat × BitVec 64) => s.endOverrun_keepsWork f j.toNat x.2) _ s

end

end Sys2Proof.Machine

/-! SUPPORT. A form that completes leaves its core, and the forms that run go on (R199). -/

namespace Sys2Proof.Machine

section
variable {s t u : State} {fid : Nat} {f : Form}

/-! ### The forms that wait and those that run -/

theorem State.waiting_of_mem_dispatchOrder {x : Nat × Form} (h : x ∈ s.dispatchOrder) : x.2.waiting = true := by
  rcases State.mem_of_mem_insertAll h with h | h
  · exact (List.mem_filter.mp h).2
  · cases h

/-- Placing waiting forms leaves a form that runs alone. -/
theorem State.placeWaiting_running (hs : rising s.forms = true) (h : tget? s.forms fid = some f)
    (hw : f.waiting = false) : tget? s.placeWaiting.forms fid = some f := by
  have hne (x) (hx : x ∈ s.dispatchOrder) : x.1 ≠ fid := fun e => by
    have hg := tget?_of_mem hs (State.mem_forms_of_mem_dispatchOrder hx)
    rw [e, h] at hg
    rw [Option.some.inj hg, State.waiting_of_mem_dispatchOrder hx] at hw
    cases hw
  rw [State.placeWaiting_eq]
  generalize s.dispatchOrder = l at hne
  clear hs
  induction l generalizing s with
  | nil => exact h
  | cons x l ih =>
    refine ih ?_ fun y hy => hne y (List.mem_cons_of_mem _ hy)
    rw [State.placeOne_forms_of_ne x (hne x (List.mem_cons_self ..)), h]

theorem State.placeOne_rising (hs : rising s.forms = true) (x) : rising (s.placeOne x).forms = true := by
  unfold State.placeOne
  split
  · exact hs
  · split
    · exact rising_tdel hs _
    · rw [State.takeCore_forms]
      exact rising_tput hs _ _

theorem State.placeWaiting_rising (hs : rising s.forms = true) : rising s.placeWaiting.forms = true := by
  rw [State.placeWaiting_eq]
  generalize s.dispatchOrder = l
  induction l generalizing s with
  | nil => exact hs
  | cons x l ih => exact ih (State.placeOne_rising hs x)

/-! ### The core is left -/

@[simp] theorem State.freeCore_jobs (s : State) (fid f) : (s.freeCore fid f).jobs = s.jobs := by
  unfold State.freeCore
  dsimp only
  split <;> rfl

@[simp] theorem State.freeCore_part (s : State) (fid f) : (s.freeCore fid f).part = s.part :=
  (s.freeCore_keeps fid f).part

@[simp] theorem State.freeCore_ctrs (s : State) (fid f) : (s.freeCore fid f).ctrs = s.ctrs := by
  unfold State.freeCore
  dsimp only
  split <;> rfl

@[simp] theorem State.freeCore_lanes (s : State) (fid f) : (s.freeCore fid f).lanes = s.lanes := by
  unfold State.freeCore
  dsimp only
  split <;> rfl

@[simp] theorem State.freeCore_used (s : State) (fid f) : (s.freeCore fid f).used = tput s.used (s.formGroup f)
    (BitVec.ofNat 64 (s.usedOf (s.formGroup f) + (if f.berth.isSome then 1 else 2) * f.acs)) := by
  unfold State.freeCore
  dsimp only
  split <;> rfl

theorem State.endForm_eq (h : tget? s.forms fid = some f) : s.endForm fid = (s.leaveCore fid f).placeWaiting := by
  unfold State.endForm
  rw [h]

/-- What a form's end does after its core is free. -/
theorem State.endForm_keepsWork (h : tget? s.forms fid = some f) : (s.freeCore fid f).keepsWork (s.endForm fid) := by
  rw [State.endForm_eq h, State.leaveCore_eq]
  exact ((State.chargeStep_keepsWork _ f).trans (State.endOverruns_keepsWork _ f f.job)).trans
    (State.placeWaiting_keepsWork _)

theorem State.endForm_part (s : State) (fid) : (s.endForm fid).part = s.part := by
  cases h : tget? s.forms fid with
  | none => simp [State.endForm, h]
  | some f => exact (State.endForm_keepsWork h).part.trans (s.freeCore_part fid f)

theorem State.endForm_lanes (s : State) (fid) : (s.endForm fid).lanes = s.lanes := by
  cases h : tget? s.forms fid with
  | none => simp [State.endForm, h]
  | some f => exact (State.endForm_keepsWork h).lanes.trans (s.freeCore_lanes fid f)

theorem State.endForm_landing (s : State) (fid) : (s.endForm fid).landing = s.landing := by
  cases h : tget? s.forms fid with
  | none => simp [State.endForm, h]
  | some f => exact (State.endForm_keepsWork h).landing.trans (s.freeCore_keeps fid f).landing

theorem State.endForm_ctr (s : State) (fid) {a : Nat} (ha : formCtr a) : (s.endForm fid).ctr a = s.ctr a := by
  cases h : tget? s.forms fid with
  | none => simp [State.endForm, h]
  | some f =>
    rw [(State.endForm_keepsWork h).ctrs a ha]
    unfold State.ctr
    rw [State.freeCore_ctrs]

/-- The rows of a step in flight keep their choices as a form of it ends. -/
theorem State.endForm_choices (s : State) (fid) {j : Nat} {a : Step} (ha : (s.job j).cur = some a) :
    ∃ b, ((s.endForm fid).job j).cur = some b ∧ b.rows.map Row.choice = a.rows.map Row.choice := by
  cases h : tget? s.forms fid with
  | none => exact ⟨a, by simpa [State.endForm, h] using ha, rfl⟩
  | some f =>
    have k := State.endForm_keepsWork h
    have hj : ((s.freeCore fid f).job j).cur = some a := by rw [State.job_congr (s.freeCore_jobs fid f), ha]
    obtain ⟨b, hb, -⟩ := k.steps j a hj
    exact ⟨b, hb, k.choices j a b hj hb⟩

theorem State.endForm_rising (hs : rising s.forms = true) (fid) : rising (s.endForm fid).forms = true := by
  unfold State.endForm
  split
  · exact hs
  · refine State.placeWaiting_rising ?_
    rw [State.leaveCore_forms]
    exact rising_tdel hs fid

theorem State.endForm_formEnded (hs : rising s.forms = true) (h : tget? s.forms fid = some f) :
    formEnded s (s.endForm fid) fid f := by
  have k := State.endForm_keepsWork h
  have hr : rising (s.leaveCore fid f).forms = true := by
    rw [State.leaveCore_forms]
    exact rising_tdel hs fid
  refine ⟨?_, fun i g hi hg hw => ?_, fun g => ?_, fun p => (k.units p).trans ((s.freeCore_keeps fid f).units p)⟩
  · rw [State.endForm_eq h]
    exact State.placeWaiting_none hr (by rw [State.leaveCore_forms, tget?_tdel_same])
  · rw [State.endForm_eq h]
    exact State.placeWaiting_running hr (by rw [State.leaveCore_forms, tget?_tdel_other _ _ _ hi, hg]) hw
  · rw [k.used, State.freeCore_used, tget_tput]
    exact if_ctx_congr Iff.rfl (fun e => by rw [e]) fun _ => rfl

/-! ### A form ends after its work -/

theorem State.keepsBasis.formStep (k : s.keepsBasis t) {d : FormDesc} {j : Nat} {a : Step}
    (ha : s.formStep d = some (j, a)) : ∃ b, t.formStep d = some (j, b) ∧ a.keepsBasis b := by
  obtain ⟨lo, hj, hlo, hc, hn⟩ := s.formStep_eq_some ha
  obtain ⟨b, hb, hab⟩ := k.steps j a hc
  refine ⟨b, ?_, hab⟩
  simp [State.formStep, hj, hlo, State.stepAt, hb, hab.num, hn]

/-- A form of a step in flight is charged to its step's group. -/
theorem State.formGroup_eq {j : Nat} {a : Step} (h : s.formStep f.desc = some (j, a)) : s.formGroup f = a.group := by
  unfold State.formGroup
  rw [h]

theorem State.keepsBasis.formGroup (k : s.keepsBasis t) {j : Nat} {a : Step} (h : s.formStep f.desc = some (j, a)) :
    t.formGroup f = s.formGroup f := by
  obtain ⟨b, hb, hab⟩ := k.formStep h
  rw [State.formGroup_eq h, State.formGroup_eq hb, hab.group]

/-- A form ends in the state its work left, and what it did is charged to the state before. -/
theorem State.keepsBasis.formEnded (k : s.keepsBasis u) (hforms : u.forms = s.forms) {j : Nat} {a : Step}
    (hst : s.formStep f.desc = some (j, a)) (hf : tget? s.forms fid = some f) (hs : rising s.forms = true) :
    formEnded s (u.endForm fid) fid f := by
  rw [← hforms] at hf hs
  obtain ⟨hgone, hrun, hused, hunits⟩ := State.endForm_formEnded hs hf
  refine ⟨hgone, fun i g hi hg => hrun i g hi (by rwa [hforms]), fun g => ?_, fun p => (hunits p).trans (k.units p)⟩
  have hu : u.usedOf g = s.usedOf g := by
    unfold State.usedOf
    rw [k.used]
  rw [hused, hu, k.formGroup hst, k.used]

/-- The end of a form as it is written back. -/
theorem formEnded.written {v : State} (h : formEnded s t fid f) (hforms : v.forms = t.forms) (hused : v.used = t.used)
    (hhdrs : v.hdrs = t.hdrs) (hpart : v.part = t.part) : formEnded s v fid f := by
  obtain ⟨hgone, hrun, hu, hunits⟩ := h
  refine ⟨by rwa [hforms], by rwa [hforms], by rwa [hused], fun p => ?_⟩
  rw [State.unit_congr hhdrs hpart, hunits p]

theorem State.formAt_eq_some (h : s.formAt fid = some f) : tget? s.forms fid = some f :=
  (Option.filter_eq_some_iff.mp h).1

/-! ### What a form's reads and completion count -/

/-- An advance of a counter is counted, up to where it sticks (R374). -/
theorem State.count_countedBy (s : State) (p off n) : s.countedBy (s.count (regAt p off) n) p off n := by
  intro hsat
  unfold State.counted State.count
  dsimp only
  rw [if_neg (by simp [hsat])]
  split
  · next h =>
    simp only [State.ctr, tget_tput_same] at h ⊢
    rw [BitVec.toNat_ofNat, Nat.mod_eq_of_lt (by omega)]
    omega
  · next h =>
    simp only [State.ctr_raise]
    simp only [State.ctr, tget_tput_same] at h ⊢
    rw [BitVec.toNat_allOnes]
    omega

/-- The counter that the reads of a factor advance. -/
def DeltaDesc.gatherCtr (d : DeltaDesc) : Nat := if d.staged then 0x218 else 0x210

theorem DeltaDesc.gatherCtr_formCtr (d : DeltaDesc) : formCtr (regAt pgSched d.gatherCtr) := by
  unfold DeltaDesc.gatherCtr formCtr
  split <;> decide

theorem DeltaDesc.gatherCtr_ne (d : DeltaDesc) : regAt pgSched d.gatherCtr ≠ regAt pgSched 0x208 := by
  unfold DeltaDesc.gatherCtr
  split <;> decide

end

end Sys2Proof.Machine

/-! PROOFS. DOWN and DU land their projections and leave their cores (O21; R84, R92, R199, R226). -/

namespace Sys2Proof.Machine

section
variable {s : State} {fid code jn : Nat} {f : Form} {b : BitVec 512} {st : Step}

/-! ### What DOWN and DU do -/

/-- A form's factor has been read, and its reads are counted. -/
def State.feedFactor (s : State) (f : Form) (b : BitVec 512) : State :=
  (s.feedAll (.raw b) (s.factorRows f (deltaDesc b)).1).countGather (deltaDesc b)

/-- The values of a form's factor. -/
def State.readFactor (s : State) (f : Form) (d : DeltaDesc) : List (List Val) := factorVals d d.k (s.factorRows f d).2

/-- A row of FP32 results lands at its place in the tile (R84). -/
def State.landResult (d : DeltaDesc) (s : State) (x : List W × Nat) : State :=
  s.setLand (d.dst + x.2 * d.k * 4) (wordsLe x.1)

/-- A row of U lands, and is saved in train mode (R84, R224). -/
def State.landU (jn : Nat) (st : Step) (d : DeltaDesc) (s : State) (x : (List W × Nat) × Nat) : State :=
  let s := s.landResult d (x.1.1, x.2)
  if d.train then s.save jn x.1.2 d.layer (s.uTensor st d d.expert) (wordsLe x.1.1) else s

/-- The rows of a tile as their results land one after another. -/
def landRows (d : DeltaDesc) (us : List (List W)) (m : Mem) : Mem :=
  us.zipIdx.foldl (fun m (u, i) => mwrite m (d.dst + i * d.k * 4) (wordsLe u)) m

/-- What a DOWN form does before it is counted and ends: its rows land, and it is entered for them. -/
def State.downWork (s : State) (f : Form) (b : BitVec 512) (jn : Nat) (st : Step) (us : List (List W)) : State :=
  ((us.zip (s.formRows (.raw b))).zipIdx.foldl (State.landU jn st (deltaDesc b)) (s.feedFactor f b)).markRows jn
    (s.formRows (.raw b)) (deltaDesc b).layer (.down (deltaDesc b).p (deltaDesc b).expert)

theorem downOp_eq (h : s.rawRuns fid 0x10 f b jn st) : downOp s fid =
    ((s.downWork f b jn st (s.downRows jn st (deltaDesc b) (s.formRows (.raw b))
      (s.readFactor f (deltaDesc b)))).inc pgSched 0x208).endForm fid := by
  obtain ⟨hf, hd, hc, hst, hi, -⟩ := h
  have hn : isAttn (dForm b) = false := by rw [hc]; rfl
  have hform : (deltaDesc b).form = 0x10 := hc
  unfold downOp
  rw [hf]
  simp only [hd, hst]
  rw [if_neg (by simp [hi, hn, hform])]
  rfl

/-- The results of a DU form: dU of each row (R226). -/
def State.duRows (s : State) (jn : Nat) (d : DeltaDesc) (n : Nat) (fac : List (List Val)) : List (List W) :=
  (List.range n).map fun m => fac.map fun y => s.timesKs jn (dot (if d.xfmt = 2 ∧ d.wfmt = 2 then 16 else 32)
    (zipProd (s.landRow d.xfmt (d.src + m * d.stride) d.width) y))

/-- What a DU form does before it ends: its rows land, and it is entered for them. -/
def State.duWork (s : State) (f : Form) (b : BitVec 512) (jn : Nat) (us : List (List W)) : State :=
  (us.zipIdx.foldl (State.landResult (deltaDesc b)) (s.feedFactor f b)).markRows jn (s.formRows (.raw b))
    (deltaDesc b).layer (.du (deltaDesc b).p (deltaDesc b).expert)

theorem duOp_eq (h : s.rawRuns fid 0x40 f b jn st) : duOp s fid =
    (s.duWork f b jn (s.duRows jn (deltaDesc b) (s.formRows (.raw b)).length (s.readFactor f (deltaDesc b)))).endForm
      fid := by
  obtain ⟨hf, hd, hc, hst, hi, -⟩ := h
  have hn : isAttn (dForm b) = false := by rw [hc]; rfl
  have hform : (deltaDesc b).form = 0x40 := hc
  unfold duOp
  rw [hf]
  simp only [hd, hst]
  rw [if_neg (by simp [hi, hn, hform])]
  rfl

/-! ### What is kept -/

theorem State.feedFactor_keepsBasis (s : State) (f b) : s.keepsBasis (s.feedFactor f b) :=
  (s.feedAll_keepsWork _ _).basis.trans (State.count_keepsBasis ..)

theorem State.feedFactor_landing (s : State) (f b) : (s.feedFactor f b).landing = s.landing :=
  (State.count_landing ..).trans (s.feedAll_keepsWork _ _).landing

theorem State.feedFactor_tables (s : State) (f b) : s.sameTables (s.feedFactor f b) := by simp [State.feedFactor]

theorem State.feedFactor_countedBy (s : State) (f b) :
    s.countedBy (s.feedFactor f b) pgSched (deltaDesc b).gatherCtr (gatherUnits (deltaDesc b)) :=
  (State.count_countedBy _ pgSched (deltaDesc b).gatherCtr _).congr
    ((s.feedAll_keepsWork _ _).ctrs _ (deltaDesc b).gatherCtr_formCtr).symm rfl

/-- The reads of a factor do not advance the count of forms. -/
theorem State.feedFactor_ctr_forms (s : State) (f b) :
    (s.feedFactor f b).ctr (regAt pgSched 0x208) = s.ctr (regAt pgSched 0x208) :=
  (State.ctr_count_other _ _ _ _ (deltaDesc b).gatherCtr_ne.symm).trans
    ((s.feedAll_keepsWork _ _).ctrs _ (by unfold formCtr; decide))

theorem State.landResult_keepsBasis (d) (s : State) (x) : s.keepsBasis (s.landResult d x) :=
  ⟨rfl, fun _ => rfl, rfl, rfl, rfl, fun _ a h => ⟨a, h, .refl a⟩⟩

/-- After a row of U has landed, its save leaves the landing buffers and the form counters alone. -/
theorem State.landU_keepsWork (jn st d) (s : State) (x : (List W × Nat) × Nat) :
    (s.landResult d (x.1.1, x.2)).keepsWork (State.landU jn st d s x) :=
  .ite (State.save_keepsWork ..) (.refl _)

theorem State.landU_keepsBasis (jn st d) (s : State) (x) : s.keepsBasis (State.landU jn st d s x) :=
  (State.landResult_keepsBasis d s _).trans (State.landU_keepsWork jn st d s x).basis

theorem foldl_ctr {α : Type} {g : State → α → State} {a : Nat} (hg : ∀ (s : State) x, (g s x).ctr a = s.ctr a) (l : List α)
    (s : State) : (l.foldl g s).ctr a = s.ctr a := by
  induction l generalizing s with
  | nil => rfl
  | cons x l ih => exact (ih _).trans (hg s x)

/-- The landing buffers after rows that land one after another, whatever else each of them does. -/
theorem foldl_landing {α : Type} {g : State → α → State} {w : Mem → α → Mem}
    (hg : ∀ (s : State) x, (g s x).landing = w s.landing x) (l : List α) (s : State) :
    (l.foldl g s).landing = l.foldl w s.landing := by
  induction l generalizing s with
  | nil => rfl
  | cons x l ih => exact (ih _).trans (by rw [hg s x]; rfl)

theorem foldl_landU_landing (jn st d) {us : List (List W)} {rows : List Nat} (h : us.length ≤ rows.length) (s : State) :
    ((us.zip rows).zipIdx.foldl (State.landU jn st d) s).landing = landRows d us s.landing := by
  have hus : us.zipIdx = (us.zip rows).zipIdx.map (Prod.map Prod.fst id) := by
    rw [← List.zipIdx_map, List.map_fst_zip h]
  unfold landRows
  rw [hus, List.foldl_map]
  exact foldl_landing (fun s x => (State.landU_keepsWork jn st d s x).landing) _ s

theorem State.downRows_length (s : State) (jn st d rows fac) : (s.downRows jn st d rows fac).length = rows.length := by
  simp [State.downRows]

/-! ### The rows of a tile -/

theorem State.downWork_keepsBasis (s : State) (f b jn st us) : s.keepsBasis (s.downWork f b jn st us) :=
  ((s.feedFactor_keepsBasis f b).trans (.foldl (State.landU_keepsBasis jn st _) _ _)).trans
    (State.markRows_keepsWork ..).basis

theorem State.downWork_tables (s : State) (f b jn st us) : s.sameTables (s.downWork f b jn st us) := by
  have hu (s : State) (x : (List W × Nat) × Nat) : s.sameTables (State.landU jn st (deltaDesc b) s x) := by
    simp [State.landU, State.landResult]
  exact State.sameTables_trans (s.feedFactor_tables f b)
    (State.sameTables_trans (State.foldl_tables _ hu _ _) (State.markRows_tables ..))

theorem State.downWork_landing (s : State) (f b jn st) {us : List (List W)}
    (h : us.length ≤ (s.formRows (.raw b)).length) :
    (s.downWork f b jn st us).landing = landRows (deltaDesc b) us s.landing := by
  unfold State.downWork
  rw [(State.markRows_keepsWork ..).landing, foldl_landU_landing _ _ _ h, State.feedFactor_landing]

theorem State.downWork_ctr (s : State) (f b jn st us) {a : Nat} (ha : formCtr a) :
    (s.downWork f b jn st us).ctr a = (s.feedFactor f b).ctr a :=
  ((State.markRows_keepsWork ..).ctrs a ha).trans
    (foldl_ctr (fun s x => (State.landU_keepsWork jn st _ s x).ctrs a ha) _ _)

theorem State.duWork_keepsBasis (s : State) (f b jn us) : s.keepsBasis (s.duWork f b jn us) :=
  ((s.feedFactor_keepsBasis f b).trans (.foldl (State.landResult_keepsBasis _) _ _)).trans
    (State.markRows_keepsWork ..).basis

theorem State.duWork_tables (s : State) (f b jn us) : s.sameTables (s.duWork f b jn us) :=
  State.sameTables_trans (s.feedFactor_tables f b)
    (State.sameTables_trans (State.foldl_tables (State.landResult _) (fun _ _ => ⟨rfl, rfl⟩) _ _)
      (State.markRows_tables ..))

theorem State.duWork_landing (s : State) (f b jn us) :
    (s.duWork f b jn us).landing = landRows (deltaDesc b) us s.landing := by
  unfold State.duWork landRows
  rw [(State.markRows_keepsWork ..).landing, ← State.feedFactor_landing s f b]
  exact foldl_landing (fun _ _ => rfl) _ _

theorem State.duWork_ctr (s : State) (f b jn us) {a : Nat} (ha : formCtr a) :
    (s.duWork f b jn us).ctr a = (s.feedFactor f b).ctr a :=
  ((State.markRows_keepsWork ..).ctrs a ha).trans (foldl_ctr (g := State.landResult _) (fun _ _ => rfl) _ _)

/-! ### The forms end -/

/-- DOWN's write back of what its operation gave. -/
def State.downWrites (s t : State) : State :=
  { s with
    mem := t.mem, uncorr := t.uncorr,
    landing := t.landing, forms := t.forms, jobs := t.jobs, used := t.used, overruns := t.overruns, debt := t.debt,
    gated := t.gated, domIdle := t.domIdle, staging := t.staging, stagedKeys := t.stagedKeys, stk := t.stk, log := t.log,
    logOvf := t.logOvf, ret := t.ret, ctrs := t.ctrs, hdrs := t.hdrs, regs := t.regs }

/-- DU's write back of what its operation gave. -/
def State.duWrites (s t : State) : State := { s.downWrites t with mem := s.mem, uncorr := s.uncorr }

theorem completes_down {P : State → Prop} (h : P (s.downWrites (downOp s fid))) : completes (.down fid) s P :=
  completes_of_exec (t := s.downWrites (downOp s fid)) rfl rfl h

theorem completes_du {P : State → Prop} (h : P (s.duWrites (duOp s fid))) : completes (.du fid) s P :=
  completes_of_exec (t := s.duWrites (duOp s fid)) rfl rfl h

theorem State.rawRuns.formEnded (h : s.rawRuns fid code f b jn st) {u : State} (k : s.keepsBasis u)
    (hforms : u.forms = s.forms) : formEnded s (u.endForm fid) fid f := by
  obtain ⟨hf, hd, -, hst, -, hs⟩ := h
  exact k.formEnded hforms (hd ▸ hst) (State.formAt_eq_some hf) hs

/-- What the end of a DOWN or DU form leaves: its results have landed, and the reads of its factor are counted. -/
structure State.projected (s t : State) (fid : Nat) (f : Form) (d : DeltaDesc) (us : List (List W)) : Prop where
  ended : Machine.formEnded s t fid f
  part : t.part = s.part
  landing : t.landing = landRows d us s.landing
  gathered : s.countedBy t pgSched d.gatherCtr (gatherUnits d)

theorem downOp_projected (h : s.rawRuns fid 0x10 f b jn st) :
    s.projected (downOp s fid) fid f (deltaDesc b)
      (s.downRows jn st (deltaDesc b) (s.formRows (.raw b)) (s.readFactor f (deltaDesc b))) ∧
    s.countedBy (downOp s fid) pgSched 0x208 1 := by
  rw [downOp_eq h]
  have hlen := (s.downRows_length jn st (deltaDesc b) (s.formRows (.raw b)) (s.readFactor f (deltaDesc b))).le
  generalize s.downRows jn st (deltaDesc b) (s.formRows (.raw b)) (s.readFactor f (deltaDesc b)) = us at *
  have k := (s.downWork_keepsBasis f b jn st us).trans (State.inc_keepsBasis _ pgSched 0x208)
  have hctr {a : Nat} (ha : formCtr a) := ((s.downWork f b jn st us).inc pgSched 0x208).endForm_ctr fid ha
  refine ⟨⟨h.formEnded k ?_, ?_, ?_, ?_⟩, ?_⟩
  · rw [State.inc_forms, (s.downWork_tables ..).1]
  · rw [State.endForm_part, k.part]
  · rw [State.endForm_landing, State.inc_landing, s.downWork_landing f b jn st hlen]
  · refine (s.feedFactor_countedBy f b).congr rfl ?_
    rw [hctr (deltaDesc b).gatherCtr_formCtr, State.ctr_inc_other _ (deltaDesc b).gatherCtr_ne,
      s.downWork_ctr f b jn st us (deltaDesc b).gatherCtr_formCtr]
  · refine (State.inc_countedBy _ pgSched 0x208).congr ?_ (hctr (by unfold formCtr; decide))
    rw [s.downWork_ctr f b jn st us (by unfold formCtr; decide), s.feedFactor_ctr_forms]

theorem duOp_projected (h : s.rawRuns fid 0x40 f b jn st) : s.projected (duOp s fid) fid f (deltaDesc b)
    (s.duRows jn (deltaDesc b) (s.formRows (.raw b)).length (s.readFactor f (deltaDesc b))) := by
  rw [duOp_eq h]
  generalize s.duRows jn (deltaDesc b) (s.formRows (.raw b)).length (s.readFactor f (deltaDesc b)) = us
  have k := s.duWork_keepsBasis f b jn us
  refine ⟨h.formEnded k (s.duWork_tables ..).1, ?_, ?_, ?_⟩
  · rw [State.endForm_part, k.part]
  · rw [State.endForm_landing, State.duWork_landing]
  · refine (s.feedFactor_countedBy f b).congr rfl ?_
    rw [State.endForm_ctr _ _ (deltaDesc b).gatherCtr_formCtr, s.duWork_ctr f b jn us (deltaDesc b).gatherCtr_formCtr]

end

end Sys2Proof.Machine

open Sys2Proof Sys2Proof.Machine in

/-- Settles O21: the rows land one after another, and the form then ends. -/
theorem downAndDuWriteTheirProjections : Obligations.DownAndDuWriteTheirProjections := by
  rintro s form f b jn st d rows fac rfl rfl rfl
  refine ⟨fun h => completes_down ?down, fun h => completes_du ?du⟩
  case down =>
    obtain ⟨hp, hc⟩ := downOp_projected h
    generalize downOp s form = t at *
    exact ⟨hp.ended.written rfl rfl rfl hp.part.symm, hp.landing, hp.gathered, hc⟩
  case du =>
    have hp := duOp_projected h
    generalize duOp s form = t at *
    exact ⟨hp.ended.written rfl rfl rfl hp.part.symm, hp.landing, hp.gathered⟩

/-! PROOFS. UP and DXA queue their writes and stay until they have crossed (O22; R85, R87, R94, R226). -/

namespace Sys2Proof.Machine

section
variable {s t : State} {fid code jn : Nat} {f : Form} {b : BitVec 512} {st : Step}

/-! ### Writes enter the queues of their lanes -/

theorem State.pushWrites_shape (s : State) (ws) : s.pushWrites ws = { s with lanes := (s.pushWrites ws).lanes } := by
  unfold State.pushWrites
  induction ws generalizing s with
  | nil => rfl
  | cons x ws ih => exact ih _

theorem State.pushWrites_lane (s : State) (ws : List (Nat × CrossWrite)) (l) : (s.pushWrites ws).lane l =
    { s.lane l with crossing := (s.lane l).crossing ++ (ws.filter fun x => x.1 = l).map (·.2) } := by
  unfold State.pushWrites
  induction ws generalizing s with
  | nil => simp
  | cons x ws ih =>
    rw [List.foldl_cons, ih]
    by_cases hx : x.1 = l
    · subst hx
      rw [State.lane_setLane_same]
      simp
    · rw [State.lane_setLane_other _ _ _ _ (Ne.symm hx)]
      simp [hx]

/-- A write of a form is one of its map's entries. -/
theorem mem_fillWrites {d : DeltaDesc} {per : Nat} {map : List MapEntry} {ys : List (List W)} {x : Nat × CrossWrite}
    (h : x ∈ fillWrites d per map ys) : ∃ e ∈ map, x.1 = e.lane ∧ x.2.ph = e.ph ∧ x.2.tag = e.tag := by
  obtain ⟨i, -, h⟩ := List.mem_flatMap.mp h
  obtain ⟨y, -, h⟩ := List.mem_flatMap.mp h
  obtain ⟨n, -, h⟩ := List.mem_filterMap.mp h
  obtain ⟨e, he, rfl⟩ := Option.map_eq_some_iff.mp h
  exact ⟨e, List.mem_of_getElem? he, rfl, rfl, rfl⟩

/-! ### The map of a form -/

theorem State.perRow_congr {d : DeltaDesc} {a c : Step} (hm : t.models = s.models) (k : a.keepsBasis c) :
    t.perRow d c = s.perRow d a := by
  have hdesc (m) : t.desc m = s.desc m := by unfold State.desc State.model; rw [hm]
  have hsnap : c.snap = a.snap := by unfold Step.snap; rw [k.snaps]
  unfold State.perRow State.sharedGate
  simp only [hdesc, hsnap, k.model]

theorem State.keepsBasis.formMap (k : s.keepsBasis t) (hl : t.landing = s.landing) {d : FormDesc}
    (h : s.formStep d = some (jn, st)) : t.formMap d = s.formMap d := by
  obtain ⟨c, hc, hb⟩ := k.formStep h
  cases d with
  | raw b =>
    unfold State.formMap State.mapEntry
    simp only [h, hc, hl, State.perRow_congr k.models hb]
  | vec v => rfl
  | intake i => rfl

/-! ### What UP and DXA do -/

/-- The values an UP (code 0x11) or DXA (0x41) form sends. -/
def State.fillRows (s : State) (code jn : Nat) (st : Step) (d : DeltaDesc) (rows : List Nat) (fac : List (List Val)) :
    List (List W) :=
  if code = 0x41 then s.dxaRows jn st d rows fac else s.upRows d rows.length fac

/-- What a form that sends its writes counts of their conversion (R229). -/
def fillCount (d : DeltaDesc) (ys : List (List W)) : ConvCount :=
  (ys.map fun y => countRow (if d.xfmt = 1 then 1 else 2) (y.map ofF32)).foldl ConvCount.plus {}

/-- A form that sends its writes has read its factor, and has counted their conversion once. -/
def State.fillFed (s : State) (f : Form) (b : BitVec 512) (jn : Nat) (ys : List (List W)) : State :=
  let u := s.feedFactor f b
  if f.counted then u else u.stat jn 1 (deltaDesc b).xfmt (fillCount (deltaDesc b) ys)

/-- The form has sent its writes. -/
def Form.sends (f : Form) : Form := { f with wrote := true, sent := true, counted := true }

/-- Writes are in the queues of their lanes, and the form waits for them. -/
def State.sendWrites (s : State) (fid : Nat) (f : Form) (ws : List (Nat × CrossWrite)) : State :=
  { s.pushWrites ws with forms := tput (s.pushWrites ws).forms fid f.sends }

theorem fillOp_eq (h : s.rawRuns fid code f b jn st) (hw : f.wrote = false) (hc : code = 0x11 ∨ code = 0x41)
    {ys : List (List W)}
    (hys : ys = s.fillRows code jn st (deltaDesc b) (s.formRows (.raw b)) (s.readFactor f (deltaDesc b))) :
    fillOp s fid code = ((s.fillFed f b jn ys).sendWrites fid f
      (fillWrites (deltaDesc b) (s.perRow (deltaDesc b) st) (s.formMap (.raw b)) ys)).endWrites := by
  obtain ⟨hf, hd, hcode, hst, hi, -⟩ := h
  have hn : isAttn (dForm b) = false := by
    obtain rfl | rfl := hc <;> rw [hcode] <;> rfl
  have hform : (deltaDesc b).form = code := hcode
  have hgo : ¬(f.idle ∨ f.wrote ∨ isAttn (dForm b) ∨ (deltaDesc b).form ≠ code) := by simp [hi, hn, hform, hw]
  cases f
  cases hd
  unfold fillOp
  rw [hf]
  simp only [hst]
  rw [if_neg hgo, hys]
  rfl

theorem State.fillFed_keepsWork (s : State) (f b jn ys) : (s.feedFactor f b).keepsWork (s.fillFed f b jn ys) :=
  .ite (.refl _) (State.stat_keepsWork ..)

theorem State.fillFed_tables (s : State) (f b jn ys) : s.sameTables (s.fillFed f b jn ys) := by
  have h := s.feedFactor_tables f b
  unfold State.fillFed
  dsimp only
  split
  · exact h
  · exact State.sameTables_trans h (State.stat_tables ..)

/-! ### The forms whose writes have all crossed -/

/-- A form whose every write has crossed completes. -/
def State.endWrite (s : State) (fid : Nat) : State :=
  match s.formAt fid with
  | some f => (s.endUp f.desc).endForm fid
  | none => s

/-- The forms whose every write has crossed. -/
def State.crossed (s : State) : List Nat :=
  (s.forms.filter fun (x : Nat × Form) => x.2.wrote && !x.2.unacked && !s.stillCrossing x.2.desc).map (·.1)

theorem State.endWrites_eq (s : State) : s.endWrites = s.crossed.foldl State.endWrite s := rfl

theorem State.endUp_keepsBasis (s : State) (d) : s.keepsBasis (s.endUp d) := by
  unfold State.endUp
  split
  · exact .ite ((s.inc_keepsBasis pgSched 0x208).trans (State.markRows_keepsWork ..).basis) (.refl s)
  · exact .ite (s.inc_keepsBasis pgSched 0x208) (.refl s)
  · exact .refl s

theorem State.endUp_ctr (s : State) (d) {a : Nat} (ha : formCtr a) (hne : a ≠ regAt pgSched 0x208) :
    (s.endUp d).ctr a = s.ctr a := by
  unfold State.endUp
  split
  · dsimp only
    split
    · exact ((State.markRows_keepsWork ..).ctrs a ha).trans (s.ctr_inc_other hne)
    · rfl
  · split
    · exact s.ctr_inc_other hne
    · rfl
  · rfl

theorem State.endWrite_lanes (s : State) (fid) : (s.endWrite fid).lanes = s.lanes := by
  unfold State.endWrite
  split
  · exact (State.endForm_lanes ..).trans (s.endUp_keepsBasis _).lanes
  · rfl

theorem State.endWrite_ctr (s : State) (fid) {a : Nat} (ha : formCtr a) (hne : a ≠ regAt pgSched 0x208) :
    (s.endWrite fid).ctr a = s.ctr a := by
  unfold State.endWrite
  split
  · exact (State.endForm_ctr _ _ ha).trans (s.endUp_ctr _ ha hne)
  · rfl

theorem State.endWrites_lanes (s : State) : s.endWrites.lanes = s.lanes := by
  rw [State.endWrites_eq]
  generalize s.crossed = l
  induction l generalizing s with
  | nil => rfl
  | cons k l ih => exact (ih _).trans (s.endWrite_lanes k)

theorem State.endWrites_ctr (s : State) {a : Nat} (ha : formCtr a) (hne : a ≠ regAt pgSched 0x208) :
    s.endWrites.ctr a = s.ctr a :=
  foldl_ctr (fun s k => s.endWrite_ctr k ha hne) s.crossed s

/-- A form that runs goes on as another one completes. -/
theorem State.endWrite_running (hs : rising s.forms = true) {k : Nat} (hk : fid ≠ k) (h : tget? s.forms fid = some f)
    (hw : f.waiting = false) : rising (s.endWrite k).forms = true ∧ tget? (s.endWrite k).forms fid = some f := by
  unfold State.endWrite
  split
  · next g hg =>
    have hforms := (s.endUp_tables g.desc).1
    have hr : rising (s.endUp g.desc).forms = true := by rwa [hforms]
    have hgo : tget? (s.endUp g.desc).forms k = some g := by rw [hforms]; exact State.formAt_eq_some hg
    obtain ⟨-, hrun, -⟩ := State.endForm_formEnded hr hgo
    exact ⟨State.endForm_rising hr k, hrun fid f hk (by rwa [hforms]) hw⟩
  · exact ⟨hs, h⟩

/-- A form some write of which is still to cross stays as it is. -/
theorem State.endWrites_crossing (hs : rising s.forms = true) (h : tget? s.forms fid = some f) (hw : f.waiting = false)
    (hc : s.stillCrossing f.desc = true) : tget? s.endWrites.forms fid = some f := by
  have hn : fid ∉ s.crossed := fun hm => by
    obtain ⟨⟨k, g⟩, hg, rfl⟩ := List.mem_map.mp hm
    obtain ⟨hg, hp⟩ := List.mem_filter.mp hg
    cases h.symm.trans (tget?_of_mem hs hg)
    simp [hc] at hp
  rw [State.endWrites_eq]
  generalize s.crossed = l at hn
  clear hc
  induction l generalizing s with
  | nil => exact h
  | cons k l ih =>
    obtain ⟨hk, hl⟩ := not_or.mp (mt List.mem_cons.mpr hn)
    obtain ⟨hs', h'⟩ := State.endWrite_running hs hk h hw
    exact ih hs' h' hl

/-! ### A form that sends -/

theorem State.sendWrites_lane (s : State) (fid f ws l) : (s.sendWrites fid f ws).lane l =
    { s.lane l with crossing := (s.lane l).crossing ++ (ws.filter fun x => x.1 = l).map (·.2) } :=
  s.pushWrites_lane ws l

theorem State.sendWrites_forms (s : State) (fid f ws) : (s.sendWrites fid f ws).forms = tput s.forms fid f.sends := by
  unfold State.sendWrites
  rw [State.pushWrites_shape]

theorem State.sendWrites_ctrs (s : State) (fid f ws) : (s.sendWrites fid f ws).ctrs = s.ctrs := by
  unfold State.sendWrites
  rw [State.pushWrites_shape]

theorem State.sendWrites_formMap (s : State) (fid f ws d) : (s.sendWrites fid f ws).formMap d = s.formMap d := by
  unfold State.sendWrites
  rw [State.pushWrites_shape]
  rfl

/-- A write that has just been sent is still to cross. -/
theorem State.stillCrossing_of_sent {d : FormDesc} {ws : List (Nat × CrossWrite)} (hne : ws ≠ [])
    (hm : ∀ x ∈ ws, ∃ e ∈ s.formMap d, x.1 = e.lane ∧ x.2.ph = e.ph ∧ x.2.tag = e.tag) :
    (s.sendWrites fid f ws).stillCrossing d = true := by
  obtain ⟨x, hx⟩ := List.exists_mem_of_ne_nil _ hne
  obtain ⟨e, he, hlane, hph, htag⟩ := hm x hx
  unfold State.stillCrossing
  rw [State.sendWrites_formMap]
  refine List.any_eq_true.mpr ⟨e, he, List.any_eq_true.mpr ⟨x.2, ?_, by simp [hph, htag]⟩⟩
  rw [State.sendWrites_lane]
  exact List.mem_append_right _ (List.mem_map_of_mem (List.mem_filter.mpr ⟨hx, by simp [hlane]⟩))

/-- What UP and DXA leave: their writes are queued, and the form waits for them. -/
structure State.sentAll (s t : State) (fid : Nat) (f : Form) (d : DeltaDesc) (ws : List (Nat × CrossWrite)) : Prop where
  lane : ∀ l, t.lane l = { s.lane l with
    crossing := (s.lane l).crossing ++ (ws.filter fun x => x.1 = l).map (·.2) }
  waits : ws ≠ [] → tget? t.forms fid = some f.sends
  gathered : s.countedBy t pgSched d.gatherCtr (gatherUnits d)

theorem fillOp_sentAll (h : s.rawRuns fid code f b jn st) (hw : f.wrote = false) (hc : code = 0x11 ∨ code = 0x41)
    {ys : List (List W)} {ws : List (Nat × CrossWrite)}
    (hys : ys = s.fillRows code jn st (deltaDesc b) (s.formRows (.raw b)) (s.readFactor f (deltaDesc b)))
    (hws : ws = fillWrites (deltaDesc b) (s.perRow (deltaDesc b) st) (s.formMap (.raw b)) ys) :
    s.sentAll (fillOp s fid code) fid f (deltaDesc b) ws := by
  rw [fillOp_eq h hw hc hys, ← hws]
  obtain ⟨-, hd, -, hst, hi, hs⟩ := h
  have ku := s.fillFed_keepsWork f b jn ys
  have kb := (s.feedFactor_keepsBasis f b).trans ku.basis
  have hforms := (s.fillFed_tables f b jn ys).1
  have hmap := kb.formMap (ku.landing.trans (s.feedFactor_landing f b)) hst
  generalize s.fillFed f b jn ys = u at *
  refine ⟨fun l => ?_, fun hne => ?_, ?_⟩
  · rw [State.lane_congr (State.endWrites_lanes _), State.sendWrites_lane, State.lane_congr kb.lanes]
  · have hwait : f.sends.waiting = false := (Bool.or_eq_false_iff.mp hi).1
    have hcross : (u.sendWrites fid f ws).stillCrossing f.sends.desc = true := by
      refine State.stillCrossing_of_sent hne fun x hx => ?_
      rw [show f.sends.desc = .raw b from hd, hmap]
      exact mem_fillWrites (hws ▸ hx)
    refine State.endWrites_crossing ?_ ?_ hwait hcross <;> rw [State.sendWrites_forms]
    · rw [hforms]
      exact rising_tput hs _ _
    · exact tget?_tput_same ..
  · refine (s.feedFactor_countedBy f b).congr rfl ?_
    have ha := (deltaDesc b).gatherCtr_formCtr
    rw [State.endWrites_ctr _ ha (deltaDesc b).gatherCtr_ne, ← ku.ctrs _ ha]
    unfold State.ctr
    rw [State.sendWrites_ctrs]

/-- UP's and DXA's write back of what their operation gave. -/
def State.fillBack (s t : State) : State :=
  { s with
    lanes := t.lanes, forms := t.forms, jobs := t.jobs, used := t.used, overruns := t.overruns, debt := t.debt,
    gated := t.gated, domIdle := t.domIdle, staging := t.staging, stagedKeys := t.stagedKeys, stk := t.stk, log := t.log,
    logOvf := t.logOvf, ret := t.ret, ctrs := t.ctrs, hdrs := t.hdrs, regs := t.regs }

theorem completes_up {P : State → Prop} (h : P (s.fillBack (fillOp s fid 0x11))) : completes (.up fid) s P :=
  completes_of_exec (t := s.fillBack (fillOp s fid 0x11)) rfl rfl h

theorem completes_dxa {P : State → Prop} (h : P (s.fillBack (fillOp s fid 0x41))) : completes (.dxa fid) s P :=
  completes_of_exec (t := s.fillBack (fillOp s fid 0x41)) rfl rfl h

end

end Sys2Proof.Machine

open Sys2Proof Sys2Proof.Machine in

/-- Settles O22: the writes enter the queues at once, and only a form whose writes have all crossed ends. -/
theorem upAndDxaQueueTheirWrites : Obligations.UpAndDxaQueueTheirWrites := by
  rintro s form code f b jn st d ys ws c h hw rfl hc rfl
  obtain ⟨rfl, rfl, hys⟩ | ⟨rfl, rfl, hys⟩ := hc
  · obtain ⟨hlane, hwaits, hcount⟩ := fillOp_sentAll h hw (.inl rfl) hys rfl
    exact completes_up ⟨hlane, hwaits, rfl, hcount⟩
  · obtain ⟨hlane, hwaits, hcount⟩ := fillOp_sentAll h hw (.inr rfl) hys rfl
    exact completes_dxa ⟨hlane, hwaits, rfl, hcount⟩

/-! PROOFS. ROUTE and SAMPLE record the choices of their rows (O25; R98, R190, R191, R192). -/

namespace Sys2Proof.Machine

section
variable {s t : State} {fid jn i : Nat} {f : Form} {v : VecDesc} {st : Step} {k : VecKind}
  {c : Tab (List (Nat × W)) × Option (BitVec 24 × W) × Bool}

/-! ### The choice of a row -/

/-- Row i of the step in flight of a job has made a choice. -/
def State.chosen (s : State) (jn i : Nat) (c : Tab (List (Nat × W)) × Option (BitVec 24 × W) × Bool) : Prop :=
  ∃ u, (s.job jn).cur = some u ∧ (u.row i).choice = c

theorem Step.row_choice {a b : Step} (h : b.rows.map Row.choice = a.rows.map Row.choice) (i) :
    (b.row i).choice = (a.row i).choice := by
  have e (l : List Row) (d : Row) : (l.getD i d).choice = (l.map Row.choice).getD i d.choice := by rw [List.getD_map]
  unfold Step.row
  rw [e, e, h]

theorem State.chosen.later (h : s.chosen jn i c) (w : s.keepsWork t) : t.chosen jn i c := by
  obtain ⟨a, ha, hc⟩ := h
  obtain ⟨b, hb, -⟩ := w.steps jn a ha
  exact ⟨b, hb, (Step.row_choice (w.choices jn a b ha hb) i).trans hc⟩

theorem State.chosen.endForm (h : s.chosen jn i c) (fid) : (s.endForm fid).chosen jn i c := by
  obtain ⟨a, ha, hc⟩ := h
  obtain ⟨b, hb, hr⟩ := s.endForm_choices fid ha
  exact ⟨b, hb, (Step.row_choice hr i).trans hc⟩

/-- The rows of a step, one of them changed. -/
theorem row_of_setRow {rows : List Row} (g : Row → Row) {d : Row} (h : i < rows.length) :
    (rows.zipIdx.map fun (r, k) => if k = i then g r else r).getD i d = g (rows.getD i d) := by
  simp [List.getD_eq_getElem?_getD, h]

theorem State.setRow_chosen (hst : (s.job jn).cur = some st) (hi : i < st.rows.length) (g : Row → Row) :
    (s.setRow jn i g).chosen jn i (g (st.row i)).choice := by
  unfold State.setRow
  rw [hst]
  refine ⟨_, by rw [State.job_setStep, if_pos rfl], ?_⟩
  exact congrArg Row.choice (row_of_setRow g hi)

theorem State.setRow_keepsBasis (s : State) (jn i g) : s.keepsBasis (s.setRow jn i g) := by
  unfold State.setRow
  split
  · next h => exact s.setStep_keepsBasis h ⟨rfl, rfl, rfl, rfl⟩
  · exact .refl s

/-! ### The vector form that a number places -/

theorem State.vecRuns.vecForm (h : s.vecRuns fid k f v jn st) : s.vecForm fid k = some (v, jn, st) := by
  obtain ⟨hf, hd, hk, hst, hi, -⟩ := h
  unfold State.vecForm
  rw [hf]
  simp only [hd, hst]
  exact if_neg (by simp [hi, hk])

theorem State.vecRuns.cur (h : s.vecRuns fid k f v jn st) : (s.job jn).cur = some st := by
  obtain ⟨-, -, -, hst, -⟩ := h
  exact s.cur_of_formStep hst

theorem State.vecRuns.formEnded (h : s.vecRuns fid k f v jn st) {u : State} (w : s.keepsBasis u)
    (hforms : u.forms = s.forms) : formEnded s (u.endForm fid) fid f := by
  obtain ⟨hf, hd, -, hst, -, hs⟩ := h
  exact w.formEnded hforms (hd ▸ hst) (State.formAt_eq_some hf) hs

theorem vecTile_singleton {row : Nat} (h : v.rows.map (·.toNat) = [row]) : vecTile v = [(row, 0)] := by
  unfold vecTile
  rw [h]
  rfl

/-! ### ROUTE -/

/-- The experts of a row by its landed router logits (R98). -/
def State.routesOf (s : State) (jn : Nat) (st : Step) (v : VecDesc) (md : ModelDesc) (row m : Nat) : List (Nat × W) :=
  routeRow ((s.landedOr jn st 9 0 v.layer.toNat 0 row (v.src.toNat + m * v.stride.toNat) md.experts).map toF32) md.route

/-- A tile's first row is read where its descriptor points. -/
theorem State.routesOf_zero (s : State) (jn st v md row) : s.routesOf jn st v md row 0 =
    routeRow ((s.landedOr jn st 9 0 v.layer.toNat 0 row v.src.toNat md.experts).map toF32) md.route := by
  simp [State.routesOf]

/-- A row has taken its experts in a layer. -/
def Row.route (r : Row) (layer : Nat) (es : List (Nat × W)) : Row := { r with routes := tput r.routes layer es }

/-- A row takes its experts, and saves them in train mode. -/
def State.routeOne (jn : Nat) (st : Step) (v : VecDesc) (md : ModelDesc) (s : State) (x : Nat × Nat) : State :=
  let es := s.routesOf jn st v md x.1 x.2
  (s.setRow jn x.1 fun r => r.route v.layer.toNat es).save jn x.1 v.layer.toNat tRoute
    (es.flatMap fun (e, w) => leBytes 4 e ++ leBytes 4 w.toNat)

/-- What a ROUTE form does before it ends. -/
def State.routeWork (s : State) (jn : Nat) (st : Step) (v : VecDesc) : State :=
  ((vecTile v).foldl (State.routeOne jn st v (s.desc st.model.toNat)) s).markRows jn (v.rows.map (·.toNat)) v.layer.toNat
    .route

theorem routeOp_eq (h : s.vecRuns fid .route f v jn st) : routeOp s fid = (s.routeWork jn st v).endForm fid := by
  unfold routeOp
  rw [h.vecForm]
  rfl

theorem State.routeWork_keepsBasis (s : State) (jn st v) : s.keepsBasis (s.routeWork jn st v) :=
  .trans (.foldl (fun _ _ => (State.setRow_keepsBasis ..).trans (State.save_keepsWork ..).basis) _ _)
    (State.markRows_keepsWork ..).basis

theorem State.routeWork_tables (s : State) (jn st v) : s.sameTables (s.routeWork jn st v) := by
  have h1 (md) (s : State) (x : Nat × Nat) : s.sameTables (State.routeOne jn st v md s x) := by simp [State.routeOne]
  exact State.sameTables_trans (State.foldl_tables _ (h1 _) _ _) (State.markRows_tables ..)

theorem State.routeWork_chosen {row : Nat} (hst : (s.job jn).cur = some st) (hrow : v.rows.map (·.toNat) = [row])
    (hi : row < st.rows.length) : (s.routeWork jn st v).chosen jn row
      ((st.row row).route v.layer.toNat (s.routesOf jn st v (s.desc st.model.toNat) row 0)).choice := by
  unfold State.routeWork
  rw [vecTile_singleton hrow]
  exact ((State.setRow_chosen hst hi _).later (State.save_keepsWork ..)).later (State.markRows_keepsWork ..)

/-! ### SAMPLE -/

/-- The landed logits of a row. -/
def State.logitsOf (s : State) (jn : Nat) (st : Step) (v : VecDesc) (row m : Nat) : List W :=
  (s.landedOr jn st 8 0 0 0 row (v.src.toNat + m * v.stride.toNat) (s.desc st.model.toNat).vocab).map toF32

theorem State.logitsOf_zero (s : State) (jn st v row) : s.logitsOf jn st v row 0 =
    (s.landedOr jn st 8 0 0 0 row v.src.toNat (s.desc st.model.toNat).vocab).map toF32 := by
  simp [State.logitsOf]

/-- The counts a row's draw is penalised by: those of its request, and the drafts before it (R190). -/
def State.overlayOf (s : State) (st : Step) (r : Row) : Overlay :=
  let drafts := match st.named.find? fun n => n.slot == r.slot with
    | some n => (n.drafts.map (·.toNat)).take (r.pos.toNat - (s.slot r.slot.toNat).len.toNat)
    | none => []
  s.overlay r.slot.toNat (if r.gen then drafts else [])

/-- The draw of a row: token, probability, how (R191, R192). -/
def State.drawOf (s : State) (jn : Nat) (st : Step) (v : VecDesc) (row m : Nat) : Nat × W × Chosen :=
  let r := st.row row
  let req := s.req r.slot.toNat
  drawToken req (penalise req (s.overCount r.slot.toNat (s.overlayOf st r)) (s.logitsOf jn st v row m))
    (uniformAt req r.pos.toNat)

/-- The request's tally feeds its draw: an uncorrectable word fails the form's rows. -/
def State.feedTally (s : State) (fd : FormDesc) (q : Nat) : State :=
  let tr := s.peek kTally (s.tallyKey q) (s.tallyAt q) 528384
  if tr.unc then (s.note tr (s.tallyAt q) 0).failForm fd cMem else s

/-- A row has drawn a token. -/
def Row.draw (r : Row) (tok : Nat) (prob : W) : Row := { r with result := some (BitVec.ofNat 24 tok, prob), done := true }

/-- A draw is counted by how it came about; one from values that are not all finite marks its step (R192). -/
def State.countDraw (s : State) (jn : Nat) : Chosen → State
  | .drawn => s.inc pgSamp 0x200
  | .greedy => s.inc pgSamp 0x208
  | .odd =>
    let s := s.inc pgSamp 0x218
    match (s.job jn).cur with
    | some st => if st.nanRow then s else (s.setStep jn { st with nanRow := true }).raise pgSamp 1
    | none => s

/-- The logits of a draw are kept where the request asks for them. -/
def State.keepLogits (s : State) (jn row probs : Nat) (raw : List W) : State :=
  if probs = 2 then s.keep jn row tLogits (raw.flatMap fun w => leBytes 4 w.toNat) else s

theorem State.sampleRow_eq (s : State) (jn st fd v row m) : s.sampleRow jn st fd v row m =
    ((((s.feedTally fd (st.row row).slot.toNat).setRow jn row
      fun r => r.draw (s.drawOf jn st v row m).1 (s.drawOf jn st v row m).2.1).keepLogits jn row
        (s.req (st.row row).slot.toNat).probs (s.logitsOf jn st v row m)).countDraw jn (s.drawOf jn st v row m).2.2) := by
  unfold State.sampleRow State.countDraw
  rfl

theorem State.feedTally_keepsWork (s : State) (fd q) : s.keepsWork (s.feedTally fd q) :=
  .ite ((s.note_keepsWork ..).trans (State.failForm_keepsWork ..)) (.refl s)

theorem State.keepLogits_keepsWork (s : State) (jn row probs raw) : s.keepsWork (s.keepLogits jn row probs raw) :=
  .ite (s.keep_keepsWork ..) (.refl s)

theorem State.countDraw_keepsWork (s : State) (jn how) : s.keepsWork (s.countDraw jn how) := by
  have inc {off : Nat} (h : ¬formCtr (regAt pgSamp off)) : s.keepsWork (s.inc pgSamp off) := s.count_keepsWork 1 h
  cases how with
  | drawn => exact inc (by unfold formCtr; decide)
  | greedy => exact inc (by unfold formCtr; decide)
  | odd =>
    refine (inc (off := 0x218) (by unfold formCtr; decide)).trans ?_
    unfold State.countDraw
    dsimp only
    split
    · next st h =>
      have hs := State.setStep_keepsWork _ h (b := { st with nanRow := true }) ⟨rfl, rfl, rfl, rfl⟩ rfl
      exact .ite (.refl _) (hs.trans (State.raise_keepsWork ..))
    · exact .refl _

theorem State.sampleRow_keepsBasis (s : State) (jn st fd v row m) : s.keepsBasis (s.sampleRow jn st fd v row m) := by
  rw [State.sampleRow_eq]
  exact ((s.feedTally_keepsWork ..).basis.trans (State.setRow_keepsBasis ..)).trans
    ((State.keepLogits_keepsWork ..).trans (State.countDraw_keepsWork ..)).basis

theorem State.sampleRow_chosen {row : Nat} (hst : (s.job jn).cur = some st) (hi : row < st.rows.length) (fd v m) :
    ∃ r : Row, (s.sampleRow jn st fd v row m).chosen jn row
      (r.draw (s.drawOf jn st v row m).1 (s.drawOf jn st v row m).2.1).choice := by
  rw [State.sampleRow_eq]
  have w := s.feedTally_keepsWork fd (st.row row).slot.toNat
  obtain ⟨u, hu, -⟩ := w.steps jn st hst
  have hlen : u.rows.length = st.rows.length := by simpa using congrArg List.length (w.choices jn st u hst hu)
  exact ⟨u.row row, ((State.setRow_chosen hu (hlen ▸ hi) _).later (State.keepLogits_keepsWork ..)).later
    (State.countDraw_keepsWork ..)⟩

/-- What a SAMPLE form does before it ends. -/
def State.sampleWork (s : State) (jn : Nat) (st : Step) (v : VecDesc) : State :=
  (vecTile v).foldl (fun (s : State) (x : Nat × Nat) =>
    if (st.row x.1).draws then s.sampleRow jn st (.vec v) v x.1 x.2 else s) s

theorem sampleOp_eq (h : s.vecRuns fid .sample f v jn st) : sampleOp s fid = (s.sampleWork jn st v).endForm fid := by
  unfold sampleOp
  rw [h.vecForm]
  rfl

theorem State.sampleWork_keepsBasis (s : State) (jn st v) : s.keepsBasis (s.sampleWork jn st v) :=
  .foldl (fun _ _ => .ite (State.sampleRow_keepsBasis ..) (.refl _)) _ _

theorem State.sampleWork_tables (s : State) (jn st v) : s.sameTables (s.sampleWork jn st v) :=
  State.foldl_tables _ (fun s x => by split <;> simp) _ _

theorem State.sampleWork_chosen {row : Nat} (hst : (s.job jn).cur = some st) (hrow : v.rows.map (·.toNat) = [row])
    (hi : row < st.rows.length) (hd : (st.row row).draws = true) : ∃ r : Row, (s.sampleWork jn st v).chosen jn row
      (r.draw (s.drawOf jn st v row 0).1 (s.drawOf jn st v row 0).2.1).choice := by
  unfold State.sampleWork
  rw [vecTile_singleton hrow, List.foldl_cons, List.foldl_nil, if_pos hd]
  exact State.sampleRow_chosen hst hi ..

/-! ### The forms end -/

/-- SAMPLE's write back of what its operation gave. -/
def State.sampleWrites (s t : State) : State :=
  { s with
    forms := t.forms, jobs := t.jobs, used := t.used, overruns := t.overruns, debt := t.debt, gated := t.gated,
    domIdle := t.domIdle, staging := t.staging, stagedKeys := t.stagedKeys, stk := t.stk, log := t.log,
    logOvf := t.logOvf, ret := t.ret, ctrs := t.ctrs, hdrs := t.hdrs, regs := t.regs }

/-- ROUTE's write back of what its operation gave. -/
def State.routeWrites (s t : State) : State := { s.sampleWrites t with mem := t.mem, uncorr := t.uncorr }

theorem completes_route {P : State → Prop} (h : P (s.routeWrites (routeOp s fid))) : completes (.route fid) s P :=
  completes_of_exec (t := s.routeWrites (routeOp s fid)) rfl rfl h

theorem completes_sample {P : State → Prop} (h : P (s.sampleWrites (sampleOp s fid))) : completes (.sample fid) s P :=
  completes_of_exec (t := s.sampleWrites (sampleOp s fid)) rfl rfl h

end

end Sys2Proof.Machine

open Sys2Proof Sys2Proof.Machine in

/-- Settles O25: each row makes its choice, and the form then ends. -/
theorem routeAndSampleRecordTheirChoice : Obligations.RouteAndSampleRecordTheirChoice := by
  rintro s form f v jn st md rfl
  refine ⟨fun h => completes_route ?route, fun h => completes_sample ?sample⟩
  case route =>
    have k := s.routeWork_keepsBasis jn st v
    have he := h.formEnded k (s.routeWork_tables jn st v).1
    have hp := ((s.routeWork jn st v).endForm_part form).trans k.part
    have hc {row} (hrow : v.rows.map (·.toNat) = [row]) (hi) := (State.routeWork_chosen h.cur hrow hi).endForm form
    rw [← routeOp_eq h] at he hp
    simp only [← routeOp_eq h] at hc
    generalize routeOp s form = t at *
    refine ⟨he.written rfl rfl rfl hp.symm, fun row hrow hi => ?_⟩
    obtain ⟨u, hu, hrec⟩ := hc hrow hi
    have hroutes : (u.row row).routes = _ := congrArg Prod.fst hrec
    refine ⟨u, hu, ?_⟩
    unfold Row.expertsAt
    rw [hroutes, ← State.routesOf_zero]
    exact tget_tput_same ..
  case sample =>
    have k := s.sampleWork_keepsBasis jn st v
    have he := h.formEnded k (s.sampleWork_tables jn st v).1
    have hp := ((s.sampleWork jn st v).endForm_part form).trans k.part
    rw [← sampleOp_eq h] at he hp
    have hc {row} (hrow : v.rows.map (·.toNat) = [row]) (hi) (hd) :=
      (State.sampleWork_chosen h.cur hrow hi hd).imp fun _ hr => hr.endForm form
    simp only [← sampleOp_eq h] at hc
    generalize sampleOp s form = t at *
    refine ⟨he.written rfl rfl rfl hp.symm, ?_⟩
    rintro row r q o tok p how hrow hi rfl hd rfl rfl hdraw
    obtain ⟨r, u, hu, hrec⟩ := hc hrow hi hd
    have hd0 : s.drawOf jn st v row 0 = (tok, p, how) := by
      unfold State.drawOf
      dsimp only
      rw [State.logitsOf_zero]
      exact hdraw.symm
    rw [hd0] at hrec
    exact ⟨u, hu, (congrArg (·.2.1) hrec :), (congrArg (·.2.2) hrec :)⟩

/-! SUPPORT. A lane's overdue beats, its miss queue and its miss log (R111, R112, R113, Table 05-6). -/

namespace Sys2Proof.Machine

/-- A command that is served completes with what its meaning writes back, whatever it answers where it is not served. -/
theorem completes_of_served {s t : State} {c : Instr} {r : Host.Outcome State Fault Refusal} {P : State → Prop}
    (h : exec c s = if !s.serves c then r else .next t) (hw : c.onlyWrites s t) (hP : P t) : completes c s P :=
  fun hs => ⟨t, by rw [h, hs]; rfl, hw, hP⟩

section
variable {s : State} {l : Nat}

/-! ### ABSENT -/

theorem beatAbsentOp_overdue {tag : W} {e : LedgerEntry} {c : Cmd}
    (he : tget? (s.lane l).ledger (tag.toNat % 4096) = some e) (ht : e.tag = tag) (hc : s.cmdOf e.cmd = some c)
    (hst : c.stage = .issued) (hd : c.issueAt.toNat + (s.rd (pgMerge 0) 0x040).toNat ≤ s.lcount.toNat) :
    beatAbsentOp s l tag = (s.miss l tag .absent).setLane l (((s.miss l tag .absent).lane l).release e) := by
  unfold beatAbsentOp
  dsimp only
  rw [State.ledger_filter he ht]
  dsimp only
  rw [hc]
  exact if_pos ⟨hst, hd⟩

/-- ABSENT's write back of what its operation gave. -/
def State.absentWrites (s t : State) : State :=
  { s with lanes := t.lanes, jobs := t.jobs, ctrs := t.ctrs, hdrs := t.hdrs, regs := t.regs }

theorem completes_beatAbsent {lane : BitVec 6} {tag : W} {P : State → Prop}
    (h : P (s.absentWrites (beatAbsentOp s lane.toNat tag))) : completes (.beatAbsent lane tag) s P :=
  completes_of_exec (t := s.absentWrites (beatAbsentOp s lane.toNat tag)) rfl rfl h

/-! ### MISS_DRAIN -/

/-- The row that a drained record names fails, where its reason fails one (Table 05-2). -/
def State.failMissed (s : State) (l : Nat) (r : MissRec) : State :=
  match (if r.reason.fails then s.rowOfTag l r.tag else none) with
  | some (j, i) => s.failRows j [i] cMiss
  | none => s

/-- A record is put last in the miss log and raises MISS, or is dropped where the log is full (R112). -/
def State.logMiss (s : State) (l : Nat) (r : MissRec) : State :=
  if (s.lane l).missLog.length < 64 then
    (s.setLane l { s.lane l with missLog := (s.lane l).missLog ++ [r] }).laneEvent l 0
  else s

/-- The oldest record leaves the miss queue. -/
def State.popMiss (s : State) (l : Nat) (rest : List MissRec) : State := s.setLane l { s.lane l with missq := rest }

theorem missDrainOp_record {r : MissRec} {rest : List MissRec} (h : (s.lane l).missq = r :: rest) :
    missDrainOp s l = ((s.popMiss l rest).failMissed l r).logMiss l r := by
  unfold missDrainOp
  dsimp only
  rw [h]
  rfl

theorem State.failMissed_shape (s : State) (l r) : s.failMissed l r = { s with jobs := (s.failMissed l r).jobs } := by
  unfold State.failMissed
  split
  · exact State.failRows_shape ..
  · rfl

theorem State.failMissed_lanes (s : State) (l r) : (s.failMissed l r).lanes = s.lanes := by rw [State.failMissed_shape]

theorem State.failMissed_of_not_fails {r : MissRec} (h : r.reason.fails = false) : s.failMissed l r = s := by
  simp [State.failMissed, h]

theorem State.failMissed_of_fails {r : MissRec} {j i : Nat} (h : r.reason.fails = true)
    (hr : s.rowOfTag l r.tag = some (j, i)) : s.failMissed l r = s.failRows j [i] cMiss := by
  simp [State.failMissed, h, hr]

theorem State.job_failRows_other (s : State) {j k : Nat} (rows code) (h : k ≠ j) :
    (s.failRows j rows code).job k = s.job k := by
  unfold State.failRows
  split
  · split
    · rfl
    · rw [State.job_setStep, if_neg h]
  · rfl

/-- Which rows fail is a matter of the jobs. -/
theorem State.failRows_jobs_congr {t : State} (h : t.jobs = s.jobs) (j rows code) :
    (t.failRows j rows code).jobs = (s.failRows j rows code).jobs := by
  unfold State.failRows
  rw [State.job_congr h]
  split
  · split
    · exact h
    · simp [State.setStep, State.setJob, State.job_congr h, h]
  · exact h

/-- The issue records, not the lanes, say which row a tag belonged to. -/
theorem State.failMissed_popMiss_jobs (s : State) (l rest r) :
    ((s.popMiss l rest).failMissed l r).jobs = (s.failMissed l r).jobs := by
  have hr : (s.popMiss l rest).rowOfTag l r.tag = s.rowOfTag l r.tag := rfl
  unfold State.failMissed
  rw [hr]
  split
  · exact State.failRows_jobs_congr (s := s) (t := s.popMiss l rest) rfl ..
  · rfl

theorem State.logMiss_jobs (s : State) (l r) : (s.logMiss l r).jobs = s.jobs := by
  unfold State.logMiss
  split <;> rfl

theorem State.logMiss_lane (s : State) (l r) : (s.logMiss l r).lane l =
    { s.lane l with missLog := (s.lane l).missLog ++ if (s.lane l).missLog.length < 64 then [r] else [] } := by
  unfold State.logMiss
  split
  · exact State.lane_setLane_same ..
  · rw [List.append_nil]

theorem State.logMiss_lane_other (s : State) (l r) {k : Nat} (h : k ≠ l) : (s.logMiss l r).lane k = s.lane k := by
  unfold State.logMiss
  split
  · exact State.lane_setLane_other _ _ _ _ h
  · rfl

theorem State.logMiss_event {r} (h : (s.lane l).missLog.length < 64) :
    (s.logMiss l r).event (pgMerge l) (4 * (l % 4)) = true := by
  unfold State.logMiss
  rw [if_pos h]
  exact State.event_raise_same _ _ _ (by omega)

section
variable {r : MissRec} {rest : List MissRec} (hq : (s.lane l).missq = r :: rest)
include hq

theorem missDrainOp_jobs : (missDrainOp s l).jobs = (s.failMissed l r).jobs := by
  rw [missDrainOp_record hq, State.logMiss_jobs, State.failMissed_popMiss_jobs]

theorem missDrainOp_lane : (missDrainOp s l).lane l = { s.lane l with
    missq := rest
    missLog := (s.lane l).missLog ++ if (s.lane l).missLog.length < 64 then [r] else [] } := by
  rw [missDrainOp_record hq, State.logMiss_lane, State.lane_congr (State.failMissed_lanes ..), State.popMiss,
    State.lane_setLane_same]

theorem missDrainOp_lane_other {k : Nat} (hk : k ≠ l) : (missDrainOp s l).lane k = s.lane k := by
  rw [missDrainOp_record hq, State.logMiss_lane_other _ _ _ hk, State.lane_congr (State.failMissed_lanes ..),
    State.popMiss, State.lane_setLane_other _ _ _ _ hk]

theorem missDrainOp_event (h : (s.lane l).missLog.length < 64) :
    (missDrainOp s l).event (pgMerge l) (4 * (l % 4)) = true := by
  rw [missDrainOp_record hq]
  refine State.logMiss_event ?_
  rwa [State.lane_congr (State.failMissed_lanes ..), State.popMiss, State.lane_setLane_same]

end

/-- MISS_DRAIN's write back of what its operation gave. -/
def State.drainWrites (s t : State) : State := { s with lanes := t.lanes, jobs := t.jobs, hdrs := t.hdrs }

theorem completes_missDrain {lane : BitVec 6} {P : State → Prop}
    (h : P (s.drainWrites (missDrainOp s lane.toNat))) : completes (.missDrain lane) s P :=
  completes_of_exec (t := s.drainWrites (missDrainOp s lane.toNat)) rfl rfl h

/-! ### MISSQ_LO and MISSQ_HI -/

theorem missqLoOp_up (hup : s.laneUp l = true) : missqLoOp s l =
    { s.setLane l { s.lane l with latched := (s.lane l).missLog.head?, loRead := true } with
      rdata := match (s.lane l).missLog.head? with | some r => r.tag | none => 0#32 } := by
  unfold missqLoOp
  rw [hup]
  rfl

theorem missqHiOp_latched {r : MissRec} (hup : s.laneUp l = true) (hlo : (s.lane l).loRead = true)
    (hr : (s.lane l).latched = some r) : missqHiOp s l =
      { s.setLane l { s.lane l with loRead := false, latched := none, missLog := (s.lane l).missLog.drop 1 } with
        rdata := BitVec.ofNat 32 (r.reason.code + 16) } := by
  unfold missqHiOp
  dsimp only
  rw [hup, hlo, hr]
  rfl

/-- Without a latched record MISSQ_HI reads 0, and at most the mark of the LO read goes. -/
theorem missqHiOp_empty (h : (s.lane l).loRead = false ∨ (s.lane l).latched = none) :
    missqHiOp s l = { s with rdata := 0#32 } ∨
    missqHiOp s l = { s.setLane l { s.lane l with loRead := false } with rdata := 0#32 } := by
  unfold missqHiOp
  dsimp only
  split
  · exact .inl rfl
  · next hn =>
    obtain ⟨-, hlo⟩ := not_or.mp hn
    rw [h.resolve_left (by simpa using hlo)]
    exact .inr rfl

/-- MISSQ_LO_READ's and MISSQ_HI_READ's write back of what their operations gave. -/
def State.missqWrites (s t : State) : State := { s with lanes := t.lanes, rdata := t.rdata }

theorem completes_missqLoRead {lane : BitVec 6} {P : State → Prop}
    (h : P (s.missqWrites (missqLoOp s lane.toNat))) : completes (.missqLoRead lane) s P :=
  completes_of_served (t := s.missqWrites (missqLoOp s lane.toNat)) rfl rfl h

theorem completes_missqHiRead {lane : BitVec 6} {P : State → Prop}
    (h : P (s.missqWrites (missqHiOp s lane.toNat))) : completes (.missqHiRead lane) s P :=
  completes_of_served (t := s.missqWrites (missqHiOp s lane.toNat)) rfl rfl h

end

end Sys2Proof.Machine

open Sys2Proof Sys2Proof.Machine in

/-- Settles O18: an overdue beat is recorded as a miss and released; a drained record fails its row and is logged; the
host reads the log's oldest record by LO and HI. -/
theorem absentBeatAndMissLog : Obligations.AbsentBeatAndMissLog := by
  refine ⟨fun s lane tag e c he ht hc hst hd => completes_beatAbsent ?absent,
    fun s lane r rest hq => completes_missDrain ?drain, fun s lane hup => completes_missqLoRead ?lo,
    fun s lane r hup hlo hr => completes_missqHiRead ?hi, fun s lane h => completes_missqHiRead ?empty⟩
  case absent =>
    rw [beatAbsentOp_overdue he ht hc hst hd]
    have hm := s.miss_missed lane.toNat tag .absent
    generalize s.miss lane.toNat tag .absent = u at hm
    have hl : (u.setLane lane.toNat ((u.lane lane.toNat).release e)).lane lane.toNat = _ := State.lane_setLane_same ..
    refine ⟨fun hr => ?room, fun hf => ?full, ?gone, rfl, fun k hk => ?others⟩
    case room =>
      obtain ⟨hlane, hjobs⟩ := hm.room hr
      refine ⟨?_, hjobs⟩
      change ((u.setLane lane.toNat _).lane lane.toNat).missq = _
      rw [hl, Lane.release_missq, hlane]
      rfl
    case full =>
      have h : s.missOverflow (u.setLane lane.toNat ((u.lane lane.toNat).release e)) lane.toNat :=
        (hm.full hf).later (u.setLane_keeps ..) (by rw [hl, Lane.release_missq]) (by rw [hl, Lane.release_ovf])
      exact h
    case gone =>
      change tget? ((u.setLane lane.toNat _).lane lane.toNat).ledger _ = none
      rw [hl, ← ht]
      exact Lane.release_ledger ..
    case others => exact (State.lane_setLane_other _ _ _ _ hk).trans (hm.others k hk)
  case drain =>
    have hlane := missDrainOp_lane hq
    have hjobs := missDrainOp_jobs hq
    refine ⟨congrArg Lane.missq hlane, fun hr => ⟨?logged, missDrainOp_event hq hr⟩, fun hf => ?dropped, fun hn => ?kept,
      fun hfail j i st hrow hst hi => ?fails, fun k hk => missDrainOp_lane_other hq hk⟩
    case logged => exact (congrArg Lane.missLog hlane).trans (by rw [if_pos hr])
    case dropped =>
      exact (congrArg Lane.missLog hlane).trans (by rw [if_neg (Nat.not_lt.mpr hf)]; exact List.append_nil _)
    case kept => exact hjobs.trans (by rw [State.failMissed_of_not_fails hn])
    case fails =>
      rw [State.failMissed_of_fails hfail hrow] at hjobs
      obtain ⟨u, hu, hc⟩ := s.failRows_rowFails hst (List.mem_singleton_self i) hi cMiss
      exact ⟨⟨u, (congrArg Job.cur (State.job_congr hjobs j)).trans hu, hc⟩,
        fun k hk => (State.job_congr hjobs k).trans (State.job_failRows_other _ _ _ hk)⟩
  case lo =>
    rw [missqLoOp_up hup]
    exact ⟨State.lane_setLane_same .., rfl, fun k hk => State.lane_setLane_other _ _ _ _ hk⟩
  case hi =>
    rw [missqHiOp_latched hup hlo hr]
    exact ⟨State.lane_setLane_same .., rfl, fun k hk => State.lane_setLane_other _ _ _ _ hk⟩
  case empty =>
    obtain hop | hop := missqHiOp_empty h <;> rw [hop]
    · exact ⟨rfl, rfl, fun _ _ => rfl⟩
    · refine ⟨rfl, ?_, fun k hk => State.lane_setLane_other _ _ _ _ hk⟩
      change ((s.setLane lane.toNat _).lane lane.toNat).missLog = _
      rw [State.lane_setLane_same]

/-! SUPPORT. The end of a form counts in no counter of a MERGE page (Table 17-1). -/

namespace Sys2Proof.Machine

/-- The counters from the MERGE pages on, those of the lanes among them, read alike. -/
structure State.keepsLaneCtrs (s t : State) : Prop where
  ctr : ∀ a, regAt (pgMerge 0) 0 ≤ a → t.ctr a = s.ctr a

namespace State.keepsLaneCtrs
variable {s t u : State}

theorem refl (s : State) : s.keepsLaneCtrs s := ⟨fun _ _ => rfl⟩

theorem trans (h : s.keepsLaneCtrs t) (k : t.keepsLaneCtrs u) : s.keepsLaneCtrs u :=
  ⟨fun a ha => (k.ctr a ha).trans (h.ctr a ha)⟩

theorem of_ctrs (h : t.ctrs = s.ctrs) : s.keepsLaneCtrs t where
  ctr a _ := by
    unfold State.ctr
    rw [h]

theorem ite {c : Prop} [Decidable c] (ht : s.keepsLaneCtrs t) (hu : s.keepsLaneCtrs u) :
    s.keepsLaneCtrs (if c then t else u) := by
  split <;> assumption

theorem foldl {α : Type} {f : State → α → State} (hf : ∀ (s : State) x, s.keepsLaneCtrs (f s x)) (l : List α) (s : State) :
    s.keepsLaneCtrs (l.foldl f s) :=
  ⟨fun _ ha => foldl_ctr (fun s x => (hf s x).ctr _ ha) l s⟩

end State.keepsLaneCtrs

section
variable (s : State)

/-- A counter of a page before the MERGE pages. -/
theorem State.count_keepsLaneCtrs (p off n) (hp : p < pgMerge 0) (ho : off < 0x1000) :
    s.keepsLaneCtrs (s.count (regAt p off) n) where
  ctr a ha := by
    refine s.ctr_count_other _ n a ?_
    unfold regAt at *
    omega

theorem State.inc_keepsLaneCtrs (p off) (hp : p < pgMerge 0) (ho : off < 0x1000) : s.keepsLaneCtrs (s.inc p off) :=
  s.count_keepsLaneCtrs p off 1 hp ho

theorem State.raise_keepsLaneCtrs (p b) : s.keepsLaneCtrs (s.raise p b) := .of_ctrs rfl

/-! ### Reads of the stacks -/

theorem State.pgMem_stackOf_lt (a : Nat) : pgMem (s.stackOf a) < pgMerge 0 := by
  have h : s.stackOf a < s.part.nStacks := Nat.mod_lt _ (by cases s.part <;> decide)
  have hn : s.part.nStacks ≤ 16 := by cases s.part <;> decide
  unfold pgMem pgMerge
  omega

theorem State.logRec_keepsLaneCtrs (cls page inst detail) : s.keepsLaneCtrs (s.logRec cls page inst detail) := by
  unfold State.logRec
  dsimp only
  refine .ite (.of_ctrs rfl) ?_
  have hl : s.keepsLaneCtrs { s with logOvf := true } := .of_ctrs rfl
  exact (hl.trans (State.inc_keepsLaneCtrs _ pgRel 0x238 (by decide) (by decide))).trans (State.raise_keepsLaneCtrs ..)

theorem State.uncRecord_keepsLaneCtrs (a cls) : s.keepsLaneCtrs (s.uncRecord a cls) := by
  have hseen (s : State) (k pc a) : s.keepsLaneCtrs (s.seeUnc k pc a) := by
    have hret (s : State) : s.keepsLaneCtrs (s.autoRetire k pc) := .ite (.refl s) (.ite (.of_ctrs rfl) (.of_ctrs rfl))
    refine .ite (.refl s) (.ite (.trans ?_ (hret _)) ?_) <;> exact .of_ctrs rfl
  have hfld (s : State) (p off lo width v) : s.keepsLaneCtrs (s.setFld p off lo width v) := .of_ctrs rfl
  have hpush (s : State) (k r) : s.keepsLaneCtrs (s.ucPush k r) := .ite (.of_ctrs rfl) (.of_ctrs rfl)
  exact (((((hseen s _ _ a).trans (State.inc_keepsLaneCtrs _ _ _ (s.pgMem_stackOf_lt a) (by decide))).trans
    (hfld ..)).trans (hpush ..)).trans (State.raise_keepsLaneCtrs ..)).trans (State.logRec_keepsLaneCtrs ..)

theorem State.note_keepsLaneCtrs (r a cls) : s.keepsLaneCtrs (s.note r a cls) := by
  refine .ite (.trans (s.count_keepsLaneCtrs 0x030 0x300 1 (by decide) (by decide)) (State.raise_keepsLaneCtrs ..))
    (.ite (.ite (.refl s) (.foldl (fun s i => ?_) _ s)) (.refl s))
  split
  · exact s.uncRecord_keepsLaneCtrs _ cls
  · exact .refl s

/-! ### Placement -/

theorem State.setStep_keepsLaneCtrs (j st) : s.keepsLaneCtrs (s.setStep j st) := .of_ctrs rfl

theorem State.failRows_keepsLaneCtrs (j rows code) : s.keepsLaneCtrs (s.failRows j rows code) := by
  rw [State.failRows_shape]
  exact .of_ctrs rfl

theorem State.failForm_keepsLaneCtrs (d code) : s.keepsLaneCtrs (s.failForm d code) := by
  unfold State.failForm
  split
  · exact s.failRows_keepsLaneCtrs ..
  · exact .refl s

theorem State.addSeg_keepsLaneCtrs (d slice) : s.keepsLaneCtrs (s.addSeg d slice) := by
  unfold State.addSeg
  split
  · exact .ite (.refl s) (s.setStep_keepsLaneCtrs ..)
  · exact .refl s

theorem State.seatForm_keepsLaneCtrs (fid f) : s.keepsLaneCtrs (s.seatForm fid f) := by
  rw [State.seatForm_eq]
  have hwake (s : State) (dom) : s.keepsLaneCtrs (s.wake dom) := by
    refine .ite (.trans ?_ (State.inc_keepsLaneCtrs _ pgPwr 0x218 (by decide) (by decide))) (.refl s)
    exact .of_ctrs rfl
  exact .trans (.trans (.ite (s.inc_keepsLaneCtrs pgSched 0x220 (by decide) (by decide)) (.refl s)) (hwake ..)) (.of_ctrs rfl)

theorem State.stage_keepsLaneCtrs (d slice) : s.keepsLaneCtrs (s.stage d slice) := by
  unfold State.stage
  split
  · dsimp only
    refine .ite (.refl s) ?_
    split
    · exact .refl s
    · split
      · exact .ite (s.failForm_keepsLaneCtrs ..) (.refl s)
      · refine .ite (.trans (.trans ?_ (State.note_keepsLaneCtrs ..)) (State.failForm_keepsLaneCtrs ..)) (.of_ctrs rfl)
        exact .of_ctrs rfl
  · exact .refl s

theorem State.placeOne_keepsLaneCtrs (x) : s.keepsLaneCtrs (s.placeOne x) := by
  unfold State.placeOne
  split
  · exact .refl s
  · exact .ite (.of_ctrs rfl) (((s.seatForm_keepsLaneCtrs ..).trans (State.addSeg_keepsLaneCtrs ..)).trans
      (State.stage_keepsLaneCtrs ..))

/-! ### The end of a form -/

theorem State.endOverrun_keepsLaneCtrs (f j w) : s.keepsLaneCtrs (s.endOverrun f j w) := by
  refine .ite (.refl s) (.trans (.trans ?_ (State.count_keepsLaneCtrs _ pgTide 0x068 _ (by decide) (by decide)))
    (State.raise_keepsLaneCtrs _ pgTide 0))
  exact .of_ctrs rfl

theorem State.endOverruns_keepsLaneCtrs (f j) : s.keepsLaneCtrs (s.endOverruns f j) := by
  cases j with
  | none => exact .refl s
  | some j => exact .foldl (fun s (x : Nat × BitVec 64) => s.endOverrun_keepsLaneCtrs f j.toNat x.2) _ s

theorem State.leaveCore_keepsLaneCtrs (fid f) : s.keepsLaneCtrs (s.leaveCore fid f) := by
  have hcharge (s : State) : s.keepsLaneCtrs (s.chargeStep f) := by
    unfold State.chargeStep
    split
    · exact s.setStep_keepsLaneCtrs ..
    · exact .refl s
  rw [State.leaveCore_eq]
  exact (State.keepsLaneCtrs.of_ctrs (s.freeCore_ctrs fid f)).trans ((hcharge _).trans (State.endOverruns_keepsLaneCtrs ..))

theorem State.endForm_keepsLaneCtrs (fid) : s.keepsLaneCtrs (s.endForm fid) := by
  unfold State.endForm
  split
  · exact .refl s
  · exact (s.leaveCore_keepsLaneCtrs ..).trans (.foldl State.placeOne_keepsLaneCtrs _ _)

theorem State.endUp_keepsLaneCtrs (d) : s.keepsLaneCtrs (s.endUp d) := by
  have hmark (s : State) (j rows layer d) : s.keepsLaneCtrs (s.markRows j rows layer d) := by
    unfold State.markRows
    split
    · exact s.setStep_keepsLaneCtrs ..
    · exact .refl s
  have hinc : s.keepsLaneCtrs (s.inc pgSched 0x208) := s.inc_keepsLaneCtrs pgSched 0x208 (by decide) (by decide)
  unfold State.endUp
  split
  · exact .ite (hinc.trans (hmark ..)) (.refl s)
  · exact .ite hinc (.refl s)
  · exact .refl s

/-- The forms whose last write has crossed complete without a count on a MERGE page. -/
theorem State.endWrites_keepsLaneCtrs : s.keepsLaneCtrs s.endWrites := by
  rw [State.endWrites_eq]
  refine .foldl (fun s fid => ?_) _ s
  unfold State.endWrite
  split
  · exact (s.endUp_keepsLaneCtrs _).trans (State.endForm_keepsLaneCtrs ..)
  · exact .refl s

end

end Sys2Proof.Machine

/-! SUPPORT. A lane's enable, drain and fault, its pigeonholes and its landing space (R94, R109, R115, R117). -/

namespace Sys2Proof.Machine

section
variable {s : State} {l : Nat}

/-! ### Enable, drain and fault -/

theorem laneDisableOp_up (hup : s.laneUp l = true) : laneDisableOp s l = (s.setLaneEnable l false).setLane l
    { s.lane l with reEnable := false, st := if (s.lane l).st = .running then .draining else (s.lane l).st } := by
  unfold laneDisableOp
  rw [hup]
  rfl

/-- A lane after a write of 1 to its ENABLE (R115). -/
def Lane.enabled (v : Lane) (ready : Bool) : Lane :=
  match v.st with
  | .off => { v with disSeen := false, st := if ready then .running else .off }
  | .draining => { v with disSeen := false, reEnable := true }
  | _ => { v with disSeen := false }

theorem State.laneOn_eq (s : State) (l) : s.laneOn l = s.setLane l ((s.lane l).enabled s.ready) := by
  unfold State.laneOn Lane.enabled
  cases h : (s.lane l).st <;> simp [h]

theorem laneEnableOp_up (hup : s.laneUp l = true) :
    laneEnableOp s l = (s.setLaneEnable l true).setLane l ((s.lane l).enabled s.ready) := by
  unfold laneEnableOp
  rw [hup, State.laneOn_eq]
  rfl

theorem Lane.enabled_disSeen (v : Lane) (r) : (v.enabled r).disSeen = false := by unfold Lane.enabled; split <;> rfl

theorem Lane.enabled_ledger (v : Lane) (r) : (v.enabled r).ledger = v.ledger := by unfold Lane.enabled; split <;> rfl

theorem Lane.enabled_off {v : Lane} (h : v.st = .off) : (v.enabled true).st = .running := by
  simp [Lane.enabled, h]

theorem Lane.enabled_draining {v : Lane} (r) (h : v.st = .draining) :
    (v.enabled r).st = .draining ∧ (v.enabled r).reEnable = true := by
  simp [Lane.enabled, h]

theorem Lane.enabled_fault {v : Lane} (r) (h : v.st = .fault) : (v.enabled r).st = .fault := by
  simp [Lane.enabled, h]

/-- LANE_DISABLE's and LANE_ENABLE's write back of what their operations gave. -/
def State.laneWrites (s t : State) : State := { s with lanes := t.lanes, regs := t.regs, ret := t.ret }

/-- LCTRL.ENABLE reads as it was written, whatever then befalls the lane. -/
theorem State.rd_laneWrites (s : State) (l on v) :
    (s.laneWrites ((s.setLaneEnable l on).setLane l v)).rd (pgMerge l) (laneOff l) = if on then 1#32 else 0#32 :=
  State.rd_wr_same ..

theorem State.lane_laneWrites_other (s : State) (l on v) {k : Nat} (hk : k ≠ l) :
    (s.laneWrites ((s.setLaneEnable l on).setLane l v)).lane k = s.lane k :=
  State.lane_setLane_other _ _ _ _ hk

theorem completes_laneDisable {lane : BitVec 6} {P : State → Prop}
    (h : P (s.laneWrites (laneDisableOp s lane.toNat))) : completes (.laneDisable lane) s P :=
  completes_of_exec (t := s.laneWrites (laneDisableOp s lane.toNat)) rfl rfl h

theorem completes_laneEnable {lane : BitVec 6} {P : State → Prop}
    (h : P (s.laneWrites (laneEnableOp s lane.toNat))) : completes (.laneEnable lane) s P :=
  completes_of_exec (t := s.laneWrites (laneEnableOp s lane.toNat)) rfl rfl h

theorem laneDrainedOp_drained (hst : (s.lane l).st = .draining) (hl : (s.lane l).ledger = []) : laneDrainedOp s l =
    (s.setLane l { s.lane l with st := if (s.lane l).reEnable then .running else .off, reEnable := false }).laneEvent l 2 :=
  if_pos ⟨hst, hl⟩

theorem completes_laneDrained {lane : BitVec 6} {P : State → Prop}
    (h : P { s with lanes := (laneDrainedOp s lane.toNat).lanes, hdrs := (laneDrainedOp s lane.toNat).hdrs }) :
    completes (.laneDrained lane) s P :=
  completes_of_exec rfl rfl h

/-- A lane in FAULT, its event raised, before the log. -/
def State.laneFaulted (s : State) (l : Nat) : State :=
  (s.setLane l { s.lane l with st := .fault, metErr := some s.lcount }).laneEvent l 3

theorem State.laneFault_eq (hup : s.laneUp l = true) (hst : (s.lane l).st ≠ .fault) :
    s.laneFault l = (s.laneFaulted l).logOpen 0x12 (pgMerge l) l :=
  if_neg (by simp [hup, hst])

/-- A record that the log has room for stands last in it (R329). -/
theorem State.logOpen_log (cls page inst) (h : s.log.length < 1024) : ∃ d, (s.logOpen cls page inst).log =
    s.log ++ [{ cls := BitVec.ofNat 6 cls, page := BitVec.ofNat 9 page, inst := BitVec.ofNat 16 inst, detail := d,
                time := s.lcount }] := by
  unfold State.logOpen State.logRec
  rw [if_pos h]
  exact ⟨_, rfl⟩

theorem State.logOpen_lanes (s : State) (cls page inst) : (s.logOpen cls page inst).lanes = s.lanes :=
  State.logRec_lanes ..

/-- LANE_FAULT's write back of what its operation gave. -/
def State.laneFaultWrites (s t : State) : State :=
  { s with
    lanes := t.lanes, hdrs := t.hdrs, log := t.log, logOvf := t.logOvf, fresh := t.fresh, ctrs := t.ctrs,
    regs := t.regs }

theorem completes_laneFault {lane : BitVec 6} {P : State → Prop} (h : P (s.laneFaultWrites (s.laneFault lane.toNat))) :
    completes (.laneFault lane) s P :=
  completes_of_exec (t := s.laneFaultWrites (s.laneFault lane.toNat)) rfl rfl h

/-! ### Pigeonholes -/

/-- A crossing write finds its pigeonhole still reserved under its tag (R94). -/
abbrev Lane.takes (v : Lane) (w : CrossWrite) : Prop := (tget {} v.phs w.ph).reserved = true ∧ (tget {} v.phs w.ph).tag = w.tag

/-- The pigeonhole that a crossing write enters. -/
def Lane.fill (v : Lane) (w : CrossWrite) : Lane :=
  { v with phs := tput v.phs w.ph { tget {} v.phs w.ph with data := w.data, filled := true } }

section
variable {w : CrossWrite} {ws : List CrossWrite} (hq : (s.lane l).crossing = w :: ws)
include hq

theorem pigeonholeWriteOp_takes (h : (s.lane l).takes w) :
    pigeonholeWriteOp s l = s.setLane l ({ s.lane l with crossing := ws }.fill w) := by
  unfold pigeonholeWriteOp
  dsimp only
  rw [hq]
  exact if_pos h

theorem pigeonholeWriteOp_drops (h : ¬ (s.lane l).takes w) :
    pigeonholeWriteOp s l = (s.setLane l { s.lane l with crossing := ws }).laneInc l 0x40 := by
  unfold pigeonholeWriteOp
  dsimp only
  rw [hq]
  exact if_neg h

end

/-- A count of none. -/
theorem State.countedBy_zero {t : State} {p o : Nat} (h : t.ctr (regAt p o) = s.ctr (regAt p o)) : s.countedBy t p o 0 := by
  intro _
  have hlt := (s.ctr (regAt p o)).value.isLt
  unfold State.counted
  rw [h]
  omega

/-- PIGEONHOLE_WRITE's write back of what its operation gave. -/
def State.crossWrites (s t : State) : State :=
  { s with
    lanes := t.lanes, forms := t.forms, jobs := t.jobs, used := t.used, overruns := t.overruns, debt := t.debt,
    gated := t.gated, domIdle := t.domIdle, staging := t.staging, stagedKeys := t.stagedKeys, stk := t.stk, log := t.log,
    logOvf := t.logOvf, ret := t.ret, ctrs := t.ctrs, hdrs := t.hdrs, regs := t.regs }

theorem completes_pigeonholeWrite {lane : BitVec 6} {P : State → Prop}
    (h : P (s.crossWrites (pigeonholeWriteOp s lane.toNat).endWrites)) : completes (.pigeonholeWrite lane) s P := by
  intro hs
  refine ⟨s.crossWrites (pigeonholeWriteOp s lane.toNat).endWrites, ?_, rfl, h⟩
  have hclk : s.clkUp 1 = true := by simpa [State.serves, Instr.needs, State.clockOk] using hs
  change execPigeonholeWrite lane s = _
  unfold execPigeonholeWrite
  rw [hs, hclk]
  rfl

theorem State.lane_crossWrites (s u : State) (k) : (s.crossWrites u.endWrites).lane k = u.lane k :=
  State.lane_congr u.endWrites_lanes k

theorem State.ctr_crossWrites (s u : State) (l off) : (s.crossWrites u.endWrites).ctr (regAt (pgMerge l) off) =
    u.ctr (regAt (pgMerge l) off) :=
  u.endWrites_keepsLaneCtrs.ctr _ (by unfold regAt pgMerge; omega)

theorem completes_pigeonholeCredit {lane : BitVec 6} {p : Nat} {ps : List Nat} {P : State → Prop}
    (hq : (s.lane lane.toNat).returning = p :: ps) (hclk : s.clkUp 1 = true)
    (h : P (s.setLane lane.toNat { s.lane lane.toNat with returning := ps })) : completes (.pigeonholeCredit lane) s P := by
  intro hs
  refine ⟨s.setLane lane.toNat { s.lane lane.toNat with returning := ps }, ?_, rfl, h⟩
  change execPigeonholeCredit lane s = _
  unfold execPigeonholeCredit
  rw [hs, hclk]
  dsimp only
  rw [hq]
  rfl

/-! ### Landing space -/

theorem landingFreeOp_idle {a : Nat} {r : LandRange} (hr : s.landUse.find? (fun r => r.addr = a) = some r)
    (hi : s.landIdle r = true) : landingFreeOp s a = { s with landUse := s.landUse.erase r } := by
  unfold landingFreeOp
  rw [hr]
  exact if_pos hi

theorem landingFreeOp_busy {a : Nat} (h : ∀ r, s.landUse.find? (fun r => r.addr = a) = some r → s.landIdle r = false) :
    landingFreeOp s a = s := by
  unfold landingFreeOp
  split
  · rfl
  · next r hr => exact if_neg (by simp [h r hr])

theorem completes_landingFree {a : BitVec 27} {P : State → Prop}
    (h : P { s with landUse := (landingFreeOp s a.toNat).landUse }) : completes (.landingFree a) s P :=
  completes_of_exec rfl rfl h

end

end Sys2Proof.Machine

/-! PROOFS. A lane drains, restarts and faults; its pigeonholes and its landing space come free (O19). -/

open Sys2Proof Sys2Proof.Machine in

/-- Settles O19: by the branches of each of the lane's commands. -/
theorem lanesEnableDrainAndFault : Obligations.LanesEnableDrainAndFault := by
  intro s lane
  refine ⟨fun hup => ⟨completes_laneDisable ?disable, completes_laneEnable ?enable, fun hst => completes_laneFault ?fault⟩,
    fun hst hl => completes_laneDrained ?drained, fun w ws hq => completes_pigeonholeWrite ?write,
    fun p ps hq hclk => completes_pigeonholeCredit hq hclk ?credit,
    fun a r hr hi => completes_landingFree ?freed, fun a h => completes_landingFree ?kept⟩
  case disable =>
    rw [laneDisableOp_up hup]
    exact ⟨fun k hk => s.lane_laneWrites_other _ _ _ hk, s.rd_laneWrites .., State.lane_setLane_same ..⟩
  case enable =>
    rw [laneEnableOp_up hup]
    have hv : (s.laneWrites ((s.setLaneEnable lane.toNat true).setLane lane.toNat
        ((s.lane lane.toNat).enabled s.ready))).lane lane.toNat = _ := State.lane_setLane_same ..
    refine ⟨fun k hk => s.lane_laneWrites_other _ _ _ hk, s.rd_laneWrites .., ?_⟩
    rw [hv]
    exact ⟨Lane.enabled_disSeen .., Lane.enabled_ledger .., fun ho hr => by rw [hr]; exact Lane.enabled_off ho,
      Lane.enabled_draining _, Lane.enabled_fault _⟩
  case fault =>
    rw [State.laneFault_eq hup hst]
    have hlane (k) := State.lane_congr ((s.laneFaulted lane.toNat).logOpen_lanes 0x12 (pgMerge lane.toNat) lane.toNat) k
    refine ⟨(hlane _).trans (State.lane_setLane_same ..), fun k hk => (hlane k).trans (State.lane_setLane_other _ _ _ _ hk),
      ?_, fun hroom => ?_⟩
    · exact ((s.laneFaulted lane.toNat).logOpen_keeps ..).events _ _ (State.event_raise_same _ _ _ (by omega))
    · obtain ⟨d, hd⟩ := State.logOpen_log (s := s.laneFaulted lane.toNat) 0x12 (pgMerge lane.toNat) lane.toNat hroom
      refine ⟨_, hd, rfl, ?_, ?_, rfl⟩
      all_goals
        have := lane.isLt
        unfold pgMerge
        simp only [BitVec.toNat_ofNat]
        omega
  case drained =>
    rw [laneDrainedOp_drained hst hl]
    exact ⟨fun k hk => State.lane_setLane_other _ _ _ _ hk, State.lane_setLane_same ..,
      State.event_raise_same _ _ _ (by omega)⟩
  case write =>
    simp only [State.lane_crossWrites]
    by_cases h : (s.lane lane.toNat).takes w
    · have hop := pigeonholeWriteOp_takes hq h
      refine ⟨?_, fun k hk => ?_, ?_, ?_⟩
      · rw [hop, State.lane_setLane_same]
        rfl
      · rw [hop, State.lane_setLane_other _ _ _ _ hk]
      · rw [hop, State.lane_setLane_same, if_pos h]
        exact tget_tput_same ..
      · rw [if_pos h]
        refine State.countedBy_zero ?_
        rw [State.ctr_crossWrites, hop]
        rfl
    · have hop := pigeonholeWriteOp_drops hq h
      refine ⟨?_, fun k hk => ?_, ?_, ?_⟩
      · rw [hop, State.lane_laneInc, State.lane_setLane_same]
      · rw [hop, State.lane_laneInc, State.lane_setLane_other _ _ _ _ hk]
      · rw [hop, State.lane_laneInc, State.lane_setLane_same, if_neg h]
      · rw [if_neg h]
        exact (State.laneInc_countedBy (s.setLane lane.toNat _) _ 0x40).congr rfl (by rw [State.ctr_crossWrites, hop])
  case credit => exact ⟨State.lane_setLane_same .., fun k hk => State.lane_setLane_other _ _ _ _ hk⟩
  case freed => rw [landingFreeOp_idle hr hi]
  case kept => rw [landingFreeOp_busy h]

/-! SUPPORT. A submission writes the commands and their steps, a share its lane and the landing ranges, a map the landing
buffers (R90, R107, R108). -/

namespace Sys2Proof.Machine

section
variable {s t : State}

/-! ### Submission -/

/-- Nothing but the commands and the jobs has changed. -/
def State.submitsOnly (s t : State) : Prop := ∃ cmds n jobs, t = { s with cmds := cmds, cmdCount := n, jobs := jobs }

theorem State.submitOne_submitsOnly (s : State) (c) : s.submitsOnly (s.submitOne c) := by
  unfold State.submitOne
  split <;> exact ⟨_, _, _, rfl⟩

theorem State.submit_submitsOnly (s : State) (cs) : s.submitsOnly (s.submit cs) := by
  unfold State.submit
  induction cs generalizing s with
  | nil => exact ⟨_, _, _, rfl⟩
  | cons c cs ih =>
    obtain ⟨_, _, _, hc⟩ := s.submitOne_submitsOnly c
    obtain ⟨_, _, _, hcs⟩ := ih (s.submitOne c)
    exact ⟨_, _, _, hcs.trans (by rw [hc])⟩

/-! ### Reservation -/

/-- A command's beats on a lane have been reserved there: the lane was RUNNING, its serials go on after them, and nothing but
that lane and the landing ranges has changed (R107). -/
structure State.reserved (s t : State) (l n : Nat) : Prop where
  shape : t = { s with lanes := t.lanes, landUse := t.landUse }
  running : (s.lane l).st = .running
  serial : (t.lane l).nextSerial = (s.lane l).nextSerial + BitVec.ofNat 32 n
  others : ∀ k, k ≠ l → t.lane k = s.lane k

/-- A share that is taken: the lane was RUNNING, and what is written is the lane and one more landing range. -/
theorem State.takeLane_eq_some {key : Nat} {c : ArrayCmd} {num : BitVec 64} {l : Nat} {bs : List (Nat × Nat × Bool)}
    {sh : LaneShare} (h : s.takeLane key c num l bs = some (t, sh)) : (s.lane l).st = .running ∧
      ∃ w r, w.nextSerial = (s.lane l).nextSerial + BitVec.ofNat 32 bs.length ∧
        t = { s.setLane l w with landUse := s.landUse ++ [r] } := by
  obtain ⟨hn, h⟩ := Option.ite_none_left_eq_some.mp h
  refine ⟨by simpa using (not_or.mp hn).1, ?_⟩
  split at h
  · cases h
  · obtain ⟨ht, -⟩ := Prod.mk.inj (Option.some.inj h)
    exact ⟨_, _, rfl, ht.symm⟩

theorem State.takeLane_reserved {key : Nat} {c : ArrayCmd} {num : BitVec 64} {l : Nat} {bs : List (Nat × Nat × Bool)}
    {sh : LaneShare} (h : s.takeLane key c num l bs = some (t, sh)) : s.reserved t l bs.length := by
  obtain ⟨hrun, w, r, hserial, rfl⟩ := State.takeLane_eq_some h
  have hlane : (s.setLane l w).lane l = w := State.lane_setLane_same ..
  exact {
    shape := rfl
    running := hrun
    serial := (congrArg Lane.nextSerial hlane).trans hserial
    others := fun k hk => State.lane_setLane_other _ _ _ _ hk }

/-- The beats of a command on its lanes have been reserved: each lane of a list with a beat was RUNNING and its serials go on
after its beats, and every other lane is as it was. -/
structure State.reservedAll (s t : State) (bs : List (Nat × Nat × Bool)) (ls : List Nat) : Prop where
  shape : t = { s with lanes := t.lanes, landUse := t.landUse }
  serial : ∀ l ∈ ls, (t.lane l).nextSerial =
    (s.lane l).nextSerial + BitVec.ofNat 32 (laneBeats s.part.nLanes l bs).length
  running : ∀ l ∈ ls, laneBeats s.part.nLanes l bs ≠ [] → (s.lane l).st = .running
  idle : ∀ l, laneBeats s.part.nLanes l bs = [] → t.lane l = s.lane l
  others : ∀ l, l ∉ ls → t.lane l = s.lane l

theorem State.reserved.part {l n : Nat} (h : s.reserved t l n) : t.part = s.part := by rw [h.shape]

theorem State.reservedAll.skip {bs : List (Nat × Nat × Bool)} {l : Nat} {ls : List Nat} (h : s.reservedAll t bs ls)
    (hb : laneBeats s.part.nLanes l bs = []) : s.reservedAll t bs (l :: ls) where
  shape := h.shape
  serial k hk := by
    rcases List.mem_cons.mp hk with rfl | hk
    · rw [h.idle k hb, hb]
      simp
    · exact h.serial k hk
  running k hk hne := by
    rcases List.mem_cons.mp hk with rfl | hk
    · exact absurd hb hne
    · exact h.running k hk hne
  idle := h.idle
  others k hk := h.others k fun hm => hk (List.mem_cons_of_mem _ hm)

theorem State.reservedAll.cons {u : State} {bs : List (Nat × Nat × Bool)} {l : Nat} {ls : List Nat}
    (hl : s.reserved u l (laneBeats s.part.nLanes l bs).length) (h : u.reservedAll t bs ls)
    (hb : laneBeats s.part.nLanes l bs ≠ []) (hnot : l ∉ ls) : s.reservedAll t bs (l :: ls) := by
  obtain ⟨hshape, hserial, hrunning, hidle, hothers⟩ := h
  rw [hl.part] at hserial hrunning hidle
  have hne {k : Nat} (hk : k ∈ ls) : k ≠ l := fun e => hnot (e ▸ hk)
  exact {
    shape := by rw [hshape, hl.shape]
    serial := fun k hk => by
      rcases List.mem_cons.mp hk with rfl | hk
      · rw [hothers k hnot, hl.serial]
      · rw [hserial k hk, hl.others k (hne hk)]
    running := fun k hk hbk => by
      rcases List.mem_cons.mp hk with rfl | hk
      · exact hl.running
      · exact hl.others k (hne hk) ▸ hrunning k hk hbk
    idle := fun k hbk => (hidle k hbk).trans (hl.others k fun e => hb (e ▸ hbk))
    others := fun k hk => by
      obtain ⟨hkl, hk⟩ := not_or.mp (mt List.mem_cons.mpr hk)
      exact (hothers k hk).trans (hl.others k hkl) }

/-- Shares are taken lane by lane, each lane once. -/
theorem State.takeLanes_reservedAll {key : Nat} {c : ArrayCmd} {num : BitVec 64} {bs : List (Nat × Nat × Bool)}
    {ls : List Nat} (hls : ls.Nodup) {shs : List LaneShare} (h : s.takeLanes key c num bs ls = some (t, shs)) :
    s.reservedAll t bs ls := by
  induction ls generalizing s shs with
  | nil =>
    cases h
    exact ⟨rfl, nofun, nofun, fun _ _ => rfl, fun _ _ => rfl⟩
  | cons l ls ih =>
    obtain ⟨hnot, hls⟩ := List.nodup_cons.mp hls
    unfold State.takeLanes at h
    dsimp only at h
    split at h
    · next hb => exact (ih hls h).skip hb
    · next hb =>
      split at h
      · cases h
      · next u sh hu =>
        obtain ⟨⟨v, shs'⟩, hv, he⟩ := Option.map_eq_some_iff.mp h
        cases he
        exact .cons (State.takeLane_reserved hu) (ih hls hv) hb hnot

/-! ### Maps and marks -/

/-- Nothing but the landing buffers has changed. -/
def State.landsOnly (s t : State) : Prop := ∃ m, t = { s with landing := m }

theorem State.landsOnly.foldl {α : Type} {f : State → α → State} (hf : ∀ (s : State) x, s.landsOnly (f s x)) (l : List α)
    (s : State) : s.landsOnly (l.foldl f s) := by
  induction l generalizing s with
  | nil => exact ⟨_, rfl⟩
  | cons x l ih =>
    obtain ⟨_, hx⟩ := hf s x
    obtain ⟨_, hl⟩ := ih (f s x)
    exact ⟨_, hl.trans (by rw [hx])⟩

theorem State.writeMaps_landsOnly (s : State) (c st) : s.landsOnly (s.writeMaps c st) := by
  unfold State.writeMaps
  refine .foldl (fun s a => .foldl (fun s b => .foldl (fun s x => ?_) _ s) _ s) _ s
  dsimp only
  split
  · exact ⟨_, rfl⟩
  · split
    · exact ⟨_, rfl⟩
    · split
      · split <;> exact ⟨_, rfl⟩
      · exact ⟨_, rfl⟩

/-- Commands held are counted, and marked where they are ready (R108). -/
theorem State.markHeld_eq (s : State) : ∃ ctrs hdrs regs, s.markHeld = { s with
    cmds := s.cmds.map (fun x => if x.stage = .ready then { x with held := true } else x)
    ctrs := ctrs, hdrs := hdrs, regs := regs } := by
  unfold State.markHeld
  dsimp only
  split
  · exact ⟨_, _, _, rfl⟩
  · exact ⟨_, _, _, State.count_shape ..⟩

end

end Sys2Proof.Machine

/-! PROOFS. A grant reserves a command's beats on every lane it uses, or on none (O15; R105, R107, R108, R372). -/

namespace Sys2Proof.Machine

/-- What a grant does with the first ready command: its shares where every lane it uses gives one, else the marks (R108). -/
def State.grantReady (u : State) (c : Cmd) (st : Step) : State :=
  match u.takeLanes c.key c.arr c.step (u.cmdBeats c.arr st) (List.range u.part.nLanes) with
  | none => u.markHeld
  | some (t, shs) => (t.setCmd { c with stage := .granted, shares := shs }).writeMaps
      { c with stage := .granted, shares := shs } st

section
variable {s u : State} {cs : List ArrayCmd} (hu : u = s.submit cs)
include hu

theorem State.running_submit (p : Nat) : u.running p = s.running p := by
  obtain ⟨_, _, _, h⟩ := s.submit_submitsOnly cs
  rw [hu, h]
  rfl

theorem commandGrantOp_stopped (hr : s.running pgArray = false) : commandGrantOp s cs = u := by
  unfold commandGrantOp
  rw [← hu]
  dsimp only
  rw [State.running_submit hu, hr]
  rfl

section
variable {c : Cmd} {st : Step} (hr : s.running pgArray = true)
  (hc : u.cmds.find? (fun c => c.stage = .ready) = some c) (hst : u.cmdStep c = some st)
include hr hc hst

theorem commandGrantOp_ready : commandGrantOp s cs = u.grantReady c st := by
  unfold commandGrantOp
  rw [← hu]
  dsimp only
  rw [State.running_submit hu, hr, if_pos rfl, hc]
  dsimp only
  rw [hst]
  rfl

theorem commandGrantOp_granted {t0 : State} {shs : List LaneShare}
    (h : u.takeLanes c.key c.arr c.step (u.cmdBeats c.arr st) (List.range u.part.nLanes) = some (t0, shs)) :
    commandGrantOp s cs = (t0.setCmd { c with stage := .granted, shares := shs }).writeMaps
      { c with stage := .granted, shares := shs } st := by
  rw [commandGrantOp_ready hu hr hc hst, State.grantReady, h]

theorem commandGrantOp_held
    (h : u.takeLanes c.key c.arr c.step (u.cmdBeats c.arr st) (List.range u.part.nLanes) = none) :
    commandGrantOp s cs = u.markHeld := by
  rw [commandGrantOp_ready hu hr hc hst, State.grantReady, h]

end

end

/-- COMMAND_GRANT's write back of what its operation gave. -/
def State.grantWrites (s t : State) : State :=
  { s with
    cmds := t.cmds, cmdCount := t.cmdCount, jobs := t.jobs, lanes := t.lanes, landUse := t.landUse, landing := t.landing,
    ctrs := t.ctrs, hdrs := t.hdrs, regs := t.regs }

theorem completes_commandGrant {s : State} {cs : List ArrayCmd} {P : State → Prop}
    (h : P (s.grantWrites (commandGrantOp s cs))) : completes (.commandGrant cs) s P :=
  completes_of_exec (t := s.grantWrites (commandGrantOp s cs)) rfl rfl h

/-- A granted command stands in the place of the one that was ready, with its shares; its lanes are as they were taken. -/
theorem State.grantWrites_granted {s u t0 : State} {c : Cmd} {st : Step} {bs : List (Nat × Nat × Bool)} {ls : List Nat}
    (h : u.reservedAll t0 bs ls) :
    let t := s.grantWrites ((t0.setCmd c).writeMaps c st)
    t.cmds = u.cmds.map (fun x => if x.key = c.key then c else x) ∧ t.landUse = t0.landUse ∧ t.ctrs = u.ctrs ∧
      t.hdrs = u.hdrs ∧ ∀ l, t.lane l = t0.lane l := by
  obtain ⟨m, hw⟩ := (t0.setCmd c).writeMaps_landsOnly c st
  have hs := h.shape
  dsimp only
  rw [hw]
  exact ⟨by rw [hs]; rfl, rfl, by rw [hs]; rfl, by rw [hs]; rfl, fun _ => rfl⟩

end Sys2Proof.Machine

open Sys2Proof Sys2Proof.Machine in

/-- Settles O15: the shares of the lanes are taken one after another, and kept only where every lane has its share. -/
theorem commandGrantReservesOnEveryLaneOrNone : Obligations.CommandGrantReservesOnEveryLaneOrNone := by
  intro s u cs hu
  obtain ⟨_, _, _, hsub⟩ := s.submit_submitsOnly cs
  have hshape := hu.trans hsub
  have hlanes : u.lanes = s.lanes := by rw [hshape]
  have hpart : u.part = s.part := by rw [hshape]
  have huse : u.landUse = s.landUse := by rw [hshape]
  have hland : u.landing = s.landing := by rw [hshape]
  refine ⟨fun c st hr hc hst => ⟨fun t0 shs htake => completes_commandGrant ?granted,
    fun hnone => completes_commandGrant ?held⟩, fun hr => completes_commandGrant ?stopped⟩
  case granted =>
    rw [commandGrantOp_granted hu hr hc hst htake]
    have hall := State.takeLanes_reservedAll List.nodup_range htake
    obtain ⟨hcmds, hranges, hctrs, hhdrs, hlane⟩ := State.grantWrites_granted (s := s)
      (c := { c with stage := .granted, shares := shs }) (st := st) hall
    refine ⟨hcmds, hranges, hctrs.trans (by rw [hshape]), hhdrs.trans (by rw [hshape]), fun l hl bs hbs => ?_⟩
    rw [← hpart] at hl hbs
    subst hbs
    have hmem := List.mem_range.mpr hl
    rw [hlane, ← State.lane_congr hlanes l]
    exact ⟨hall.serial l hmem, hall.running l hmem, hall.idle l⟩
  case held =>
    rw [commandGrantOp_held hu hr hc hst hnone]
    obtain ⟨ctrs, hdrs, regs, hm⟩ := u.markHeld_eq
    rw [hm]
    exact ⟨hlanes, huse, hland, rfl⟩
  case stopped =>
    rw [commandGrantOp_stopped hu hr]
    exact ⟨hlanes, huse, hland, rfl⟩

/-! PROOFS. A reset leaves no request, no job and nothing of a step (O54; R144). -/

namespace Sys2Proof.Machine

/-- No register of a slot page has a default but 0: these pages have no header, and hold the host's record bodies alone. -/
theorem hardOf_slot (part : Part) {a : Nat} (h : pageKind (a / 0x1000) = some .slot) : hardOf part a = 0#32 := by
  have hne : ¬ (part = .irz2F ∧ a = regAt pgPwr 0x040) := by
    rintro ⟨-, rfl⟩
    exact absurd h (by decide)
  have hrows : headerRows (a / 0x1000) ++ pageRows (a / 0x1000) = rowsSlot := by
    simp [headerRows, pageRows, pageHeader, h]
  rw [hardOf, if_neg hne, regInfo, hrows]
  cases hf : rowsSlot.find? fun r => r.covers (a % 0x1000) with
  | none => rfl
  | some r =>
    obtain ⟨i, -, rfl⟩ := List.mem_map.mp (List.mem_of_find?_eq_some hf)
    rfl

/-- A warm reset keeps registers of the stack controllers only (Table 16-2). -/
theorem warmKeeps_slot {a : Nat} (h : pageKind (a / 0x1000) = some .slot) : warmKeeps a = 0#32 := by
  simp [warmKeeps, h]

theorem tget_of_keys {α : Type} {d : α} {t : Tab α} {n : Nat} (h : ∀ x ∈ t, x.1 ≠ n) : tget d t n = d := by
  unfold tget
  cases hf : tget? t n with
  | none => rfl
  | some v => exact absurd rfl (h _ (mem_of_tget? hf))

/-- Nothing of a request, of a job or of a step stands. -/
structure State.noWork (s : State) : Prop where
  slots : s.slots = []
  jobs : s.jobs = []
  slotRegs : ∀ a, pageKind (a / 0x1000) = some .slot → s.reg a = 0#32
  steps : s.forms = [] ∧ s.cmds = [] ∧ s.orphans = [] ∧ s.granules = [] ∧ s.colls = [] ∧ s.intakes = [] ∧ s.landUse = [] ∧
    s.ctrlIn = [] ∧ s.hostReads = [] ∧ s.hostWrites = []

theorem State.coldReset_noWork (s : State) (cause) : (s.coldReset cause).noWork where
  slots := rfl
  jobs := rfl
  slotRegs _ h := hardOf_slot s.part h
  steps := ⟨rfl, rfl, rfl, rfl, rfl, rfl, rfl, rfl, rfl, rfl⟩

theorem State.warmReset_noWork (s : State) (cause) : (s.warmReset cause).noWork where
  slots := rfl
  jobs := rfl
  slotRegs a h := by
    refine (tget_of_keys fun x hx hxa => ?_).trans (hardOf_slot s.part h)
    obtain ⟨y, hy, rfl⟩ := List.mem_map.mp hx
    have hk := of_decide_eq_true (List.mem_filter.mp hy).2
    exact hk (hxa ▸ warmKeeps_slot h)
  steps := ⟨rfl, rfl, rfl, rfl, rfl, rfl, rfl, rfl, rfl, rfl⟩

/-- Every slot then is IDLE with all its values 0, and every job context FREE with no step. -/
theorem State.noWork.reads {s : State} (h : s.noWork) : s.slots = [] ∧ s.jobs = [] ∧
    (∀ q, s.slot q = {} ∧ (s.slot q).st = .idle) ∧ (∀ j, s.job j = {} ∧ (s.job j).st = 0#2 ∧ (s.job j).cur = none) ∧
    (∀ a, pageKind (a / 0x1000) = some .slot → s.reg a = 0#32) ∧
    s.forms = [] ∧ s.cmds = [] ∧ s.orphans = [] ∧ s.granules = [] ∧ s.colls = [] ∧ s.intakes = [] ∧ s.landUse = [] ∧
    s.ctrlIn = [] ∧ s.hostReads = [] ∧ s.hostWrites = [] := by
  have hslot (q : Nat) : s.slot q = {} := by rw [State.slot, h.slots]; rfl
  have hjob (j : Nat) : s.job j = {} := by rw [State.job, h.jobs]; rfl
  exact ⟨h.slots, h.jobs, fun q => ⟨hslot q, by rw [hslot]⟩, fun j => ⟨hjob j, by rw [hjob], by rw [hjob]⟩, h.slotRegs, h.steps⟩

end Sys2Proof.Machine

open Sys2Proof Sys2Proof.Machine in

/-- Settles O54: by the fields a cold and a warm reset set, and the registers a warm one keeps. -/
theorem noRequestOrJobSurvivesAReset : Obligations.NoRequestOrJobSurvivesAReset := by
  intro s c hc
  simp only [List.mem_cons, List.not_mem_nil, or_false] at hc
  obtain (rfl | rfl | rfl) | ⟨hp, rfl | rfl⟩ := hc
  · exact fun _ => ⟨_, rfl, ⟨rfl, rfl, rfl⟩, (s.coldReset_noWork 0).reads⟩
  · exact fun _ => ⟨_, rfl, ⟨rfl, rfl, rfl⟩, (s.coldReset_noWork 1).reads⟩
  · exact completes_of_exec rfl ⟨rfl, rfl, rfl⟩ (s.coldReset_noWork 2).reads
  · exact fun _ => ⟨_, congrArg Host.Outcome.next (s.warm_past_phase1 hp 4), ⟨rfl, rfl, rfl⟩, (s.warmReset_noWork 4).reads⟩
  · refine completes_of_exec (t := s.warmReset 5) ?_ ⟨rfl, rfl, rfl⟩ (s.warmReset_noWork 5).reads
    rw [← s.warm_past_phase1 hp 5]
    rfl

/-! SUPPORT. What a slot's request gives up when it ends outside a step: other slots and the job contexts stay (R139, R170). -/

namespace Sys2Proof.Machine

/-! ### Requests and jobs left alone -/

/-- The request slots and the job contexts are as they were. -/
structure State.sameRequests (s t : State) : Prop where
  jobs : t.jobs = s.jobs
  slots : t.slots = s.slots

section
variable {s t u : State}

theorem State.sameRequests.trans (h : s.sameRequests t) (k : t.sameRequests u) : s.sameRequests u :=
  ⟨k.jobs.trans h.jobs, k.slots.trans h.slots⟩

theorem State.sameRequests.foldl {α : Type} {f : State → α → State} (hf : ∀ (s : State) x, s.sameRequests (f s x))
    (l : List α) (s : State) : s.sameRequests (l.foldl f s) := by
  induction l generalizing s with
  | nil => exact ⟨rfl, rfl⟩
  | cons x l ih => exact (hf s x).trans (ih _)

end

section
variable (s : State)

theorem State.count_sameRequests (a n) : s.sameRequests (s.count a n) := ⟨s.count_jobs a n, s.count_slots a n⟩

theorem State.wrCount_sameRequests (a n) : s.sameRequests (s.wrCount a n) := by
  unfold State.wrCount
  split
  · exact ⟨rfl, rfl⟩
  · exact .foldl (fun s _ => s.count_sameRequests _ 1) _ s

theorem State.poke_sameRequests (kind need a bs) : s.sameRequests (s.poke kind need a bs).1 := by
  have store (b : Nat) (cs : List Byte) : s.sameRequests ((s.store_ b cs).wrCount a bs.length) :=
    State.sameRequests.trans (t := s.store_ b cs) ⟨rfl, rfl⟩ (State.wrCount_sameRequests _ a bs.length)
  unfold State.poke
  split
  · exact ⟨rfl, rfl⟩
  · split
    · exact (s.count_sameRequests _ 1).trans ⟨rfl, rfl⟩
    · exact store _ _
    · exact store _ _

end

/-! ### A slot's own writes -/

/-- Of the slots only this one may have changed, and neither its state nor a decided end of it; no job context has. -/
structure State.slotOnly (s t : State) (q : Nat) : Prop where
  jobs : t.jobs = s.jobs
  other : ∀ k, k ≠ q → t.slot k = s.slot k
  st : (t.slot q).st = (s.slot q).st
  pendingEnd : (t.slot q).pendingEnd = (s.slot q).pendingEnd

section
variable {s t u : State} {q : Nat}

theorem State.slotOnly.trans (h : s.slotOnly t q) (k : t.slotOnly u q) : s.slotOnly u q where
  jobs := k.jobs.trans h.jobs
  other i hi := (k.other i hi).trans (h.other i hi)
  st := k.st.trans h.st
  pendingEnd := k.pendingEnd.trans h.pendingEnd

theorem State.slotOnly.of_same (h : s.sameRequests t) : s.slotOnly t q where
  jobs := h.jobs
  other k _ := State.slot_congr h.slots k
  st := by rw [State.slot_congr h.slots]
  pendingEnd := by rw [State.slot_congr h.slots]

theorem State.slotOnly.foldl {α : Type} {f : State → α → State} (hf : ∀ (s : State) x, s.slotOnly (f s x) q) (l : List α)
    (s : State) : s.slotOnly (l.foldl f s) q := by
  induction l generalizing s with
  | nil => exact .of_same ⟨rfl, rfl⟩
  | cons x l ih => exact (hf s x).trans (ih _)

theorem State.setSlot_slotOnly {v : Slot} (hst : v.st = (s.slot q).st) (hp : v.pendingEnd = (s.slot q).pendingEnd) :
    s.slotOnly (s.setSlot q v) q where
  jobs := rfl
  other k hk := by rw [State.slot_setSlot, if_neg hk]
  st := by rw [State.slot_setSlot_same, hst]
  pendingEnd := by rw [State.slot_setSlot_same, hp]

end

section
variable (s : State) (q : Nat)

theorem State.pokeFor_slotOnly (kind need a bs) : s.slotOnly (s.pokeFor q kind need a bs) q := by
  have hpoke : s.slotOnly (s.poke kind need a bs).1 q := .of_same (s.poke_sameRequests kind need a bs)
  unfold State.pokeFor
  split
  next t bad e =>
    rw [e] at hpoke
    split
    · exact hpoke.trans (State.setSlot_slotOnly rfl rfl)
    · exact hpoke

theorem State.dropHolderFor_slotOnly (f) : s.slotOnly (s.dropHolderFor q f) q := by
  unfold State.dropHolderFor State.setFrameFor
  exact s.pokeFor_slotOnly q ..

theorem State.setListEntry_slotOnly (i w) : s.slotOnly (s.setListEntry q i w) q := by
  unfold State.setListEntry
  refine .trans (.trans (s.pokeFor_slotOnly q kControl none (s.listAt q i) (leBytes 4 w.toNat)) ?_)
    (State.setSlot_slotOnly (by rfl) (by rfl))
  exact .of_same ⟨rfl, rfl⟩

theorem State.dropPage_slotOnly (i) : s.slotOnly (s.dropPage q i) q := by
  unfold State.dropPage
  dsimp only
  split
  · refine .trans ?_ (State.setListEntry_slotOnly ..)
    split
    · exact .of_same ⟨rfl, rfl⟩
    · exact s.dropHolderFor_slotOnly q _
  · exact .of_same ⟨rfl, rfl⟩

theorem State.releasePages_slotOnly : s.slotOnly (s.releasePages q) q := .foldl (fun s => s.dropPage_slotOnly q) _ s

theorem State.dropStale_slotOnly : s.slotOnly (s.dropStale q) q := by
  unfold State.dropStale
  exact (State.slotOnly.foldl (fun s => s.dropHolderFor_slotOnly q) _ s).trans (State.setSlot_slotOnly (by rfl) (by rfl))

theorem State.dropParked_slotOnly : s.slotOnly (s.dropParked q) q := by
  refine .trans ?_ (State.releasePages_slotOnly ..)
  refine .trans ?_ (State.dropStale_slotOnly ..)
  refine .trans ?_ (State.setSlot_slotOnly (by rfl) (by rfl))
  exact (State.slotOnly.foldl (f := fun s (p : Parcel) => s.freeGranules p.granule p.count)
    (fun _ _ => .of_same ⟨rfl, rfl⟩) _ s).trans (.of_same ⟨rfl, rfl⟩)

end

/-! ### Decided ends -/

section
variable {s : State} {q jn : Nat}

theorem Job.st_of_owns {j : Job} (h : j.owns q = true) : j.st ≠ 0#2 := by
  unfold Job.owns at h
  simp only [Bool.and_eq_true, bne_iff_ne] at h
  exact h.1.1

/-- A slot of a job has an owner; where two jobs' ranges meet, it need not be this one. -/
theorem State.slotJob_of_owns (h : (s.job jn).owns q = true) : ∃ k, s.slotJob q = some k := by
  cases hj : tget? s.jobs jn with
  | none =>
    have hd : s.job jn = {} := by rw [State.job, tget, hj]; rfl
    exact absurd rfl (Job.st_of_owns (hd ▸ h))
  | some v =>
    have hv : s.job jn = v := by rw [State.job, tget, hj]; rfl
    have hf : (s.jobs.find? fun (_, j) => j.owns q).isSome = true :=
      List.find?_isSome.mpr ⟨_, mem_of_tget? hj, hv ▸ h⟩
    obtain ⟨x, hx⟩ := Option.isSome_iff_exists.mp hf
    exact ⟨x.1, by rw [State.slotJob, hx]; rfl⟩

theorem State.queueEnd_owned (h : s.slotJob q = some jn) (r : EndRec) : s.queueEnd q r =
    (s.setSlot q { s.slot q with pendingEnd := some r }).setJob jn
      { s.job jn with outQ := (s.job jn).outQ ++ [BitVec.ofNat 12 q] } := by
  unfold State.queueEnd
  rw [h]
  rfl

theorem State.queueEnd_slot_other (r : EndRec) {k : Nat} (hk : k ≠ q) : (s.queueEnd q r).slot k = s.slot k := by
  cases h : s.slotJob q with
  | none => rw [State.queueEnd, h]
  | some j =>
    rw [State.queueEnd_owned h]
    exact (State.slot_setSlot ..).trans (if_neg hk)

/-- A decided end leaves each job its image and its state. -/
theorem State.queueEnd_job (r : EndRec) (k : Nat) :
    ((s.queueEnd q r).job k).st = (s.job k).st ∧ ((s.queueEnd q r).job k).img = (s.job k).img := by
  cases h : s.slotJob q with
  | none => rw [State.queueEnd, h]; exact ⟨rfl, rfl⟩
  | some j =>
    rw [State.queueEnd_owned h, State.job_setJob]
    split
    · next e => subst e; exact ⟨rfl, rfl⟩
    · exact ⟨rfl, rfl⟩

end

end Sys2Proof.Machine

/-! PROOFS. JOB_CLOSE_ENDS ends a closing job's requests and frees its context (O10; R122, R220). -/

namespace Sys2Proof.Machine

/-- Ends were decided: each job has its image and state, and no request lives that did not. -/
structure State.endsOnly (s t : State) : Prop where
  job : ∀ k, (t.job k).st = (s.job k).st ∧ (t.job k).img = (s.job k).img
  dead : ∀ k, (s.slot k).alive = false → (t.slot k).alive = false

/-- A request of a closing job ends (R122). -/
def State.endRequest (s : State) (q : Nat) : State := (s.dropParked q).queueEnd q { reason := 0x0F#8 }

section
variable {s t u : State}

theorem State.endsOnly.trans (h : s.endsOnly t) (k : t.endsOnly u) : s.endsOnly u where
  job i := ⟨(k.job i).1.trans (h.job i).1, (k.job i).2.trans (h.job i).2⟩
  dead i hi := k.dead i (h.dead i hi)

theorem Job.owns_congr {i j : Job} (hst : i.st = j.st) (himg : i.img = j.img) (q) : i.owns q = j.owns q := by
  unfold Job.owns Job.slotBase Job.slotPages
  rw [hst, himg]

theorem State.endsOnly.owns (h : s.endsOnly t) (k q) : (t.job k).owns q = (s.job k).owns q :=
  Job.owns_congr (h.job k).1 (h.job k).2 q

theorem State.endRequest_endsOnly {q : Nat} : s.endsOnly (s.endRequest q) where
  job k := by
    have hd := State.job_congr (s.dropParked_slotOnly q).jobs k
    exact hd ▸ State.queueEnd_job { reason := 0x0F#8 } k
  dead k hk := by
    have hd := s.dropParked_slotOnly q
    by_cases hkq : k = q
    · subst hkq
      unfold State.endRequest
      cases hj : (s.dropParked k).slotJob k with
      | none => rw [State.queueEnd, hj, Slot.alive, hd.st, hd.pendingEnd]; exact hk
      | some j => rw [State.queueEnd_owned hj]; simp [Slot.alive, State.setJob, State.slot, State.setSlot]
    · rw [State.endRequest, State.queueEnd_slot_other _ hkq, hd.other k hkq]
      exact hk

theorem State.endRequest_dead {q jn : Nat} (h : (s.job jn).owns q = true) : ((s.endRequest q).slot q).alive = false := by
  have hd := State.job_congr (s.dropParked_slotOnly q).jobs jn
  obtain ⟨j, hj⟩ := State.slotJob_of_owns (hd.symm ▸ h)
  rw [State.endRequest, State.queueEnd_owned hj]
  simp [Slot.alive, State.setJob, State.slot, State.setSlot]

theorem State.endRequests_endsOnly (l : List Nat) (s : State) : s.endsOnly (l.foldl State.endRequest s) := by
  induction l generalizing s with
  | nil => exact ⟨fun _ => ⟨rfl, rfl⟩, fun _ h => h⟩
  | cons q l ih => exact State.endRequest_endsOnly.trans (ih _)

theorem State.endRequests_dead {jn : Nat} {l : List Nat} {s : State} (hl : ∀ q ∈ l, (s.job jn).owns q = true) {q : Nat}
    (hq : q ∈ l) : ((l.foldl State.endRequest s).slot q).alive = false := by
  induction l generalizing s with
  | nil => cases hq
  | cons x l ih =>
    by_cases hx : q = x
    · subst hx
      exact (State.endRequests_endsOnly l _).dead q (State.endRequest_dead (hl q hq))
    · refine ih (fun y hy => ?_) ((List.mem_cons.mp hq).resolve_left hx)
      rw [(State.endRequest_endsOnly (q := x)).owns]
      exact hl y (List.mem_cons_of_mem _ hy)

theorem State.mem_jobSlots {jn q : Nat} (h : q ∈ s.jobSlots jn) : (s.job jn).owns q = true := by
  obtain ⟨x, hx, rfl⟩ := List.mem_map.mp h
  exact (List.mem_filter.mp hx).2

/-- A slot that holds a living request is in the slot table. -/
theorem State.mem_jobSlots_of_alive {jn q : Nat} (ho : (s.job jn).owns q = true) (ha : (s.slot q).alive = true) :
    q ∈ s.jobSlots jn := by
  cases hv : tget? s.slots q with
  | none =>
    have hd : s.slot q = {} := by rw [State.slot, tget, hv]; rfl
    rw [hd] at ha
    cases ha
  | some v => exact List.mem_map.mpr ⟨_, List.mem_filter.mpr ⟨mem_of_tget? hv, ho⟩, rfl⟩

theorem State.closeEnds_eq (s : State) (jn) :
    s.closeEnds jn = ((s.jobSlots jn).filter fun q => (s.slot q).alive).foldl State.endRequest s := rfl

/-- No slot of the job holds a request without a decided end. -/
theorem State.closeEnds_dead {jn q : Nat} (h : (s.job jn).owns q = true) : ((s.closeEnds jn).slot q).alive = false := by
  rw [State.closeEnds_eq]
  cases ha : (s.slot q).alive with
  | false => exact (State.endRequests_endsOnly _ s).dead q ha
  | true =>
    refine State.endRequests_dead (fun x hx => State.mem_jobSlots (List.mem_filter.mp hx).1) ?_
    exact List.mem_filter.mpr ⟨State.mem_jobSlots_of_alive h ha, ha⟩

/-- Only the closing job's state and the directory can change. -/
theorem State.finishClose_frame (s : State) (jn) :
    (s.finishClose jn).slots = s.slots ∧ ∀ k, k ≠ jn → (s.finishClose jn).job k = s.job k := by
  unfold State.finishClose
  dsimp only
  split
  · exact ⟨rfl, fun k hk => tget_tput_other _ _ _ _ _ hk⟩
  · exact ⟨rfl, fun _ _ => rfl⟩

/-- A directory entry that a closing job may hold for training, let go (R220). -/
def DirEntry.released (e : DirEntry) (jn : Nat) : DirEntry :=
  if e.trained = true ∧ e.trainJob.toNat = jn then { e with trained := false, trainJob := 0#8 } else e

/-- The directory with the adapters of a job let go. -/
def releaseDir (d : Tab DirEntry) (jn : Nat) : Tab DirEntry :=
  d.map fun (a, e) => if e.trained ∧ e.trainJob.toNat = jn then (a, { e with trained := false, trainJob := 0#8 }) else (a, e)

theorem tget?_releaseDir (d : Tab DirEntry) (jn a : Nat) :
    tget? (releaseDir d jn) a = (tget? d a).map fun e => e.released jn := by
  induction d with
  | nil => rfl
  | cons x d ih =>
    obtain ⟨k, e⟩ := x
    have hcons : releaseDir ((k, e) :: d) jn = (k, e.released jn) :: releaseDir d jn := by
      unfold releaseDir DirEntry.released
      rw [List.map_cons]
      dsimp only
      split <;> rfl
    rw [hcons, tget?, tget?]
    split
    · rfl
    · exact ih

theorem tget_releaseDir (d : Tab DirEntry) (jn a : Nat) : tget {} (releaseDir d jn) a = (tget {} d a).released jn := by
  unfold tget
  rw [tget?_releaseDir]
  cases tget? d a <;> rfl

theorem State.finishClose_free {jn : Nat} (hst : (s.job jn).st = 2#2) (hcur : (s.job jn).cur = none)
    (hq : (s.job jn).outQ = []) (ha : (s.jobSlots jn).all (fun q => !(s.slot q).alive) = true) : s.finishClose jn =
    { s with jobs := tput s.jobs jn { s.job jn with st := 0#2 }, dir := releaseDir s.dir jn } := by
  unfold State.finishClose
  dsimp only
  rw [if_pos ⟨hst, by rw [hcur]; rfl, hq, ha⟩]
  rfl

/-- With no request alive there is none to end. -/
theorem State.closeEnds_of_dead {jn : Nat} (h : (s.jobSlots jn).all (fun q => !(s.slot q).alive) = true) :
    s.closeEnds jn = s := by
  have hnil : ((s.jobSlots jn).filter fun q => (s.slot q).alive) = [] :=
    List.filter_eq_nil_iff.mpr fun q hq => by simpa using List.all_eq_true.mp h q hq
  rw [State.closeEnds_eq, hnil]
  rfl

/-- JOB_CLOSE_ENDS's write back of what its operation gave. -/
def State.closeWrites (s t : State) : State :=
  { s with
    jobs := t.jobs, slots := t.slots, dir := t.dir, mem := t.mem, uncorr := t.uncorr, tcache := t.tcache,
    granules := t.granules, orphans := t.orphans, ctrs := t.ctrs, hdrs := t.hdrs, regs := t.regs }

theorem completes_jobCloseEnds {job : BitVec 8} {P : State → Prop} (hst : (s.job job.toNat).st = 2#2)
    (hcur : (s.job job.toNat).cur = none) (h : P (s.closeWrites ((s.closeEnds job.toNat).finishClose job.toNat))) :
    completes (.jobCloseEnds job) s P := by
  refine completes_of_exec (t := s.closeWrites ((s.closeEnds job.toNat).finishClose job.toNat)) ?_ rfl h
  change execJobCloseEnds job s = _
  unfold execJobCloseEnds
  dsimp only
  rw [if_pos (show _ ∧ _ from ⟨hst, by rw [hcur]; rfl⟩)]
  rfl

end

end Sys2Proof.Machine

open Sys2Proof Sys2Proof.Machine in

/-- Settles O10: the living requests of the job end one by one, and a context with none left is freed. -/
theorem closeEndsEveryRequestOfTheJob : Obligations.CloseEndsEveryRequestOfTheJob := by
  intro s job hst hcur
  refine ⟨completes_jobCloseEnds hst hcur ⟨fun k hk => ?otherJobs, fun q hq => ?noneAlive⟩,
    fun hq ha => completes_jobCloseEnds hst hcur ?freed⟩
  case otherJobs =>
    have hf := ((s.closeEnds job.toNat).finishClose_frame job.toNat).2 k hk
    exact (congrArg Job.st hf).trans ((State.endRequests_endsOnly _ s).job k).1
  case noneAlive =>
    have hf := State.slot_congr ((s.closeEnds job.toNat).finishClose_frame job.toNat).1 q
    exact (congrArg Slot.alive hf).trans (State.closeEnds_dead hq)
  case freed =>
    rw [State.closeEnds_of_dead ha, State.finishClose_free hst hcur hq ha]
    exact ⟨tget_tput_same .., rfl, rfl, fun a => tget_releaseDir s.dir job.toNat a⟩

/-! PROOFS. POST makes a posting; CANCEL, PAUSE, RESUME and TRIM are taken where the state allows them (O11; R124, R129). -/

namespace Sys2Proof.Machine

/-- A request's state allows a command (R129). -/
def Slot.allows (v : Slot) (c : Nat) : Prop :=
  (c = 1 ∧ v.st ≠ .idle ∧ v.st ≠ .ended) ∨ ((c = 2 ∨ c = 4) ∧ v.active) ∨ (c = 3 ∧ v.st = .paused)

/-- The slot with a value of CMD. -/
def State.withCmd (s : State) (q : Nat) (c : BitVec 3) : State := s.setSlot q { s.slot q with cmd := c }

section
variable {s : State} {q c : Nat}

theorem State.slotCmd_cancelled (h : (s.slot q).cmd = 1#3) : s.slotCmd q c = s := if_pos h

theorem State.slotCmd_none (h : (s.slot q).cmd ≠ 1#3) : s.slotCmd q 0 = s.withCmd q 0#3 := by
  rw [State.slotCmd, if_neg h, if_pos rfl]
  rfl

theorem State.slotCmd_allowed (h : (s.slot q).cmd ≠ 1#3) (hc : c ≠ 0) (ha : (s.slot q).allows c) :
    s.slotCmd q c = s.withCmd q (BitVec.ofNat 3 c) := by
  rw [State.slotCmd, if_neg h, if_neg hc]
  exact if_pos ha

theorem State.slotCmd_refused (h : (s.slot q).cmd ≠ 1#3) (hc : c ≠ 0) (ha : ¬ (s.slot q).allows c) :
    s.slotCmd q c = (s.withCmd q 0#3).errInc pgStep := by
  rw [State.slotCmd, if_neg h, if_neg hc]
  exact if_neg ha

/-- A write of CMD does one of three things. -/
theorem State.slotCmd_cases (s : State) (q c) : s.slotCmd q c = s ∨ (∃ x, s.slotCmd q c = s.withCmd q x) ∨
    s.slotCmd q c = (s.withCmd q 0#3).errInc pgStep := by
  by_cases h : (s.slot q).cmd = 1#3
  · exact .inl (State.slotCmd_cancelled h)
  by_cases hc : c = 0
  · subst hc
    exact .inr (.inl ⟨_, State.slotCmd_none h⟩)
  by_cases ha : (s.slot q).allows c
  · exact .inr (.inl ⟨_, State.slotCmd_allowed h hc ha⟩)
  · exact .inr (.inr (State.slotCmd_refused h hc ha))

theorem State.withCmd_slot_other (x : BitVec 3) {k : Nat} (hk : k ≠ q) : (s.withCmd q x).slot k = s.slot k :=
  (State.slot_setSlot ..).trans (if_neg hk)

theorem State.withCmd_slot (x : BitVec 3) : (s.withCmd q x).slot q = { s.slot q with cmd := x } := State.slot_setSlot_same ..

/-- What a write of CMD leaves alone: the other slots, the units, and every header but STEP's. -/
structure State.cmdFrame (s t : State) (q : Nat) : Prop where
  slots : ∀ k, k ≠ q → t.slot k = s.slot k
  units : sameUnits s t
  hdrs : sameHdrsBut [pgStep] s t
  ctrs : t.ctrs = s.ctrs

theorem State.slotCmd_cmdFrame (s : State) (q c) : s.cmdFrame (s.slotCmd q c) q := by
  obtain h | ⟨x, h⟩ | h := s.slotCmd_cases q c
  · rw [h]
    exact ⟨fun _ _ => rfl, fun _ => rfl, fun _ _ => rfl, rfl⟩
  · rw [h]
    exact ⟨fun _ => State.withCmd_slot_other x, fun _ => rfl, fun _ _ => rfl, rfl⟩
  · rw [h]
    refine ⟨fun _ => State.withCmd_slot_other 0#3, fun p => State.unit_errInc .., fun p hp => ?_, rfl⟩
    rw [State.hdr_errInc, if_neg (by simpa using hp)]
    rfl

end

/-! ### CANCEL, PAUSE, RESUME and TRIM -/

/-- A slot command's write back of what the write of CMD gave. -/
def State.cmdWrites (s t : State) : State := { s with slots := t.slots, hdrs := t.hdrs }

section
variable {s : State} {slot : BitVec 12} {c : Instr} {n : BitVec 3}

/-- Each of the four commands writes its value of CMD. -/
theorem completes_slotCmd {P : State → Prop}
    (hc : c = .cancel slot ∧ n = 1#3 ∨ c = .pause slot ∧ n = 2#3 ∨ c = .resume slot ∧ n = 3#3 ∨ c = .trim slot ∧ n = 4#3)
    (h : P (s.cmdWrites (s.slotCmd slot.toNat n.toNat))) : completes c s P := by
  obtain ⟨rfl, rfl⟩ | ⟨rfl, rfl⟩ | ⟨rfl, rfl⟩ | ⟨rfl, rfl⟩ := hc <;>
    exact completes_of_exec (t := s.cmdWrites _) rfl rfl h

theorem State.cmdFrame.written {t : State} {q : Nat} (h : s.cmdFrame t q) (hp : t.part = s.part) :
    (∀ k, k ≠ q → (s.cmdWrites t).slot k = s.slot k) ∧ sameUnits s (s.cmdWrites t) ∧
      sameHdrsBut [pgStep] s (s.cmdWrites t) :=
  ⟨h.slots, fun p => (State.unit_congr (s := t) (t := s.cmdWrites t) rfl hp.symm p).trans (h.units p), h.hdrs⟩

theorem State.slotCmd_part (s : State) (q c) : (s.slotCmd q c).part = s.part := by
  obtain h | ⟨x, h⟩ | h := s.slotCmd_cases q c <;> rw [h] <;> rfl

/-- The statement's conditions are those of R129. -/
theorem Slot.allows_of {v : Slot} (hn : n = 1#3 ∨ n = 2#3 ∨ n = 3#3 ∨ n = 4#3)
    (h1 : n = 1#3 → v.st ≠ .idle ∧ v.st ≠ .ended) (h2 : n = 2#3 ∨ n = 4#3 → v.active = true)
    (h3 : n = 3#3 → v.st = .paused) : v.allows n.toNat := by
  obtain rfl | rfl | rfl | rfl := hn
  · exact .inl ⟨rfl, h1 rfl⟩
  · exact .inr (.inl ⟨.inl rfl, h2 (.inl rfl)⟩)
  · exact .inr (.inr ⟨rfl, h3 rfl⟩)
  · exact .inr (.inl ⟨.inr rfl, h2 (.inr rfl)⟩)

theorem Slot.not_allows_of {v : Slot} (h : n = 1#3 ∧ (v.st = .idle ∨ v.st = .ended) ∨
    (n = 2#3 ∨ n = 4#3) ∧ v.active = false ∨ n = 3#3 ∧ v.st ≠ .paused) : ¬ v.allows n.toNat := by
  unfold Slot.allows
  obtain ⟨rfl, h⟩ | ⟨rfl | rfl, h⟩ | ⟨rfl, h⟩ := h
  · simpa [or_iff_not_imp_left] using h
  · simp [h]
  · simp [h]
  · simpa using h

end

/-! ### POST -/

/-- POST's write back of what its operation gave. -/
def State.postWrites (s t : State) : State := { s with slots := t.slots, hdrs := t.hdrs, ctrs := t.ctrs, regs := t.regs }

theorem completes_post {s : State} {slot : BitVec 12} {cmd : BitVec 3} {P : State → Prop}
    (h : P (s.postWrites (postSlot s slot.toNat cmd.toNat))) : completes (.post slot cmd) s P :=
  completes_of_exec (t := s.postWrites (postSlot s slot.toNat cmd.toNat)) rfl rfl h

/-- The block's part of a slot as a posting starts it. -/
def State.posting (s : State) : Slot := { own := true, st := .posted, ownAt := s.lcount }

section
variable {s : State} {q : Nat}

theorem postSlot_fresh (h : (s.slot q).own = false) (c) :
    postSlot s q c = ((s.setSlot q s.posting).slotCmd q c).inc pgStep 0x0C0 := by
  rw [postSlot, h]
  rfl

/-- Of the commands that POST can carry, only CANCEL is allowed in POSTED. -/
theorem State.slotCmd_posted (c : BitVec 3) :
    ((s.setSlot q s.posting).slotCmd q c.toNat).slot q = { s.posting with cmd := if c = 1#3 then 1#3 else 0#3 } := by
  have hv : (s.setSlot q s.posting).slot q = s.posting := State.slot_setSlot_same ..
  have hn : ((s.setSlot q s.posting).slot q).cmd ≠ 1#3 := by rw [hv]; exact (by decide : (0#3 : BitVec 3) ≠ 1#3)
  by_cases h1 : c = 1#3
  · subst h1
    have ha : ((s.setSlot q s.posting).slot q).allows 1 := by rw [hv]; simp [Slot.allows, State.posting]
    rw [show (1#3 : BitVec 3).toNat = 1 from rfl, State.slotCmd_allowed hn one_ne_zero ha, State.withCmd_slot, hv]
    rfl
  rw [if_neg h1]
  by_cases h0 : c = 0#3
  · subst h0
    exact (congrArg (fun t : State => t.slot q) (State.slotCmd_none hn)).trans (by rw [State.withCmd_slot, hv])
  · have hc0 : c.toNat ≠ 0 := fun e => h0 (BitVec.eq_of_toNat_eq e)
    have hc1 : c.toNat ≠ 1 := fun e => h1 (BitVec.eq_of_toNat_eq e)
    have ha : ¬ ((s.setSlot q s.posting).slot q).allows c.toNat := by
      rw [hv]; simp [Slot.allows, State.posting, Slot.active, hc1]
    rw [State.slotCmd_refused hn hc0 ha]
    exact (State.withCmd_slot _).trans (by rw [hv])

end

end Sys2Proof.Machine

open Sys2Proof Sys2Proof.Machine in

/-- Settles O11: by what a write of CMD does where it is taken and where it is not. -/
theorem slotCommandsSetOrClearCmd : Obligations.SlotCommandsSetOrClearCmd := by
  refine ⟨fun s slot cmd ho => completes_post ?post, fun s slot c n hc => completes_slotCmd hc ?command⟩
  case post =>
    rw [postSlot_fresh ho]
    have hf := (s.setSlot slot.toNat s.posting).slotCmd_cmdFrame slot.toNat cmd.toNat
    have hp := (s.setSlot slot.toNat s.posting).slotCmd_part slot.toNat cmd.toNat
    have hv := s.slotCmd_posted (q := slot.toNat) cmd
    generalize (s.setSlot slot.toNat s.posting).slotCmd slot.toNat cmd.toNat = t at hf hp hv ⊢
    have hslot (k : Nat) : (s.postWrites (t.inc pgStep 0x0C0)).slot k = t.slot k :=
      State.slot_congr (s := t) (t := s.postWrites (t.inc pgStep 0x0C0)) (t.inc_slots ..) k
    have hunit (p : Nat) : (s.postWrites (t.inc pgStep 0x0C0)).unit p = s.unit p :=
      (State.unit_congr (s := t.inc pgStep 0x0C0) (t := s.postWrites (t.inc pgStep 0x0C0)) rfl
        (hp.symm.trans (t.inc_part ..).symm) p).trans
        ((t.unit_inc ..).trans (hf.units p))
    rw [hslot, hv]
    refine ⟨rfl, rfl, rfl, rfl, ?_, fun k hk => ?_, hunit⟩
    · exact (t.inc_countedBy pgStep 0x0C0).congr (by rw [State.ctr, State.ctr, hf.ctrs]; rfl) rfl
    · rw [hslot, hf.slots k hk, State.slot_setSlot, if_neg hk]
  case command =>
    have hf := (s.slotCmd_cmdFrame slot.toNat n.toNat).written (s.slotCmd_part ..)
    refine ⟨hf.1, hf.2.1, hf.2.2, fun h1 => ?_, fun h1 => ⟨fun ha hb hr => ?_, fun hx => ?_⟩⟩
    · rw [State.slotCmd_cancelled h1]
      exact ⟨rfl, rfl⟩
    · have hn : n = 1#3 ∨ n = 2#3 ∨ n = 3#3 ∨ n = 4#3 := hc.imp And.right (.imp And.right (.imp And.right And.right))
      have hn0 : n.toNat ≠ 0 := by obtain rfl | rfl | rfl | rfl := hn <;> decide
      rw [State.slotCmd_allowed h1 hn0 (Slot.allows_of hn ha hb hr), BitVec.ofNat_toNat, BitVec.setWidth_eq]
      exact ⟨State.withCmd_slot n, rfl⟩
    · have hn0 : n.toNat ≠ 0 := by
        obtain ⟨rfl, -⟩ | ⟨rfl | rfl, -⟩ | ⟨rfl, -⟩ := hx <;> decide
      rw [State.slotCmd_refused h1 hn0 (Slot.not_allows_of hx)]
      refine ⟨State.withCmd_slot 0#3, fun he => ?_⟩
      refine (congrArg Hdr.err (State.hdr_errInc (s.withCmd slot.toNat 0#3) pgStep pgStep)).trans ?_
      rw [if_pos rfl]
      exact if_neg he

/-! PROOFS. POSTING_CHECK puts a posted request in HELD, or refuses it (O12; R126, R139). -/

namespace Sys2Proof.Machine

/-- A request that passed every check, in HELD (R126). -/
def State.accepted (s : State) (q : Nat) : Slot :=
  { s.slot q with
    st := .held, acceptAt := s.lcount, admLater := !s.running pgAdm
    fitLater := (match s.slotJob q with | some j => (s.modelPool (s.job j).model).isNone | none => false) }

/-- A refusal with reason c counted and raised, with the counters of the checks of R318 and R214. -/
def State.noteRefusal (s : State) (c : Nat) : State :=
  let s := (s.inc pgStep 0x0C8).raise pgStep 0
  let s := if c = 0x08 then (s.inc pgSec 0x208).raise pgSec 1 else s
  if c = 0x0E then s.inc pgAdm 0x218 else s

/-- Counters, events and TOP_SAT alone may have changed: a refusal was counted, and REFUSED raised. -/
structure State.refusalNoted (s t : State) : Prop where
  requests : s.sameRequests t
  part : t.part = s.part
  units : sameUnits s t
  counted : s.countedBy t pgStep 0x0C8 1
  event : t.event pgStep 0 = true

section
variable {s t : State} {q : Nat}

theorem State.refusalNoted.inc (h : s.refusalNoted t) (p) {off : Nat} (ho : off < 0x1000) (hne : 0x0C8 ≠ off) :
    s.refusalNoted (t.inc p off) where
  requests := h.requests.trans (t.count_sameRequests _ 1)
  part := (t.inc_part p off).trans h.part
  units k := (t.unit_inc p off k).trans (h.units k)
  counted := h.counted.congr rfl (t.ctr_count_other _ 1 _ (regAt_ne (by decide) ho hne))
  event := t.event_count _ 1 _ _ h.event

theorem State.refusalNoted.raise (h : s.refusalNoted t) (p b) : s.refusalNoted (t.raise p b) where
  requests := h.requests.trans ⟨rfl, rfl⟩
  part := h.part
  units k := (t.unit_raise p b k).trans (h.units k)
  counted := h.counted.congr rfl rfl
  event := t.event_raise p b _ _ h.event

theorem State.noteRefusal_refusalNoted (s : State) (c) : s.refusalNoted (s.noteRefusal c) := by
  have hcount : s.refusalNoted ((s.inc pgStep 0x0C8).raise pgStep 0) :=
    { requests := (s.count_sameRequests _ 1).trans ⟨rfl, rfl⟩
      part := s.inc_part ..
      units := fun k => (State.unit_raise ..).trans (s.unit_inc ..)
      counted := (s.inc_countedBy pgStep 0x0C8).congr rfl rfl
      event := State.event_raise_same _ _ _ (by decide) }
  unfold State.noteRefusal
  dsimp only
  split
  · split
    · exact ((hcount.inc pgSec (off := 0x208) (by decide) (by decide)).raise ..).inc pgAdm (by decide) (by decide)
    · exact hcount.inc pgAdm (by decide) (by decide)
  · split
    · exact (hcount.inc pgSec (by decide) (by decide)).raise ..
    · exact hcount

/-- A request whose slot's entry was not lost is ENDED with the end's reason (R124, R129). -/
theorem Slot.end_of_kept {v : Slot} (h : v.lost = false) (r : EndRec) :
    (v.end_ r).st = .ended ∧ (v.end_ r).reason = r.reason ∧ (v.end_ r).own = false ∧ (v.end_ r).cmd = 0#3 := by
  rw [Slot.end_, h]
  exact ⟨rfl, rfl, rfl, rfl⟩

theorem State.ctr_congr (h : t.ctrs = s.ctrs) (a) : t.ctr a = s.ctr a := by rw [State.ctr, State.ctr, h]

theorem State.event_congr (h : t.hdrs = s.hdrs) (p b) : t.event p b = s.event p b := by
  rw [State.event, State.event, State.hdr_congr h]

/-- The reasons for which no job carries the record of the refusal (R126). -/
abbrev noRecord (c : Nat) : Prop := c = 0x0C ∨ c = 0x0B ∨ c = 0x0A

theorem noRecord_iff (c : Nat) : noRecord c ↔ c ∈ [0x0A, 0x0B, 0x0C] := by
  simp only [noRecord, List.mem_cons, List.not_mem_nil, or_false]
  omega

section
variable (hst : (s.slot q).st = .posted) (hp : (s.slot q).pendingEnd = none)
include hst hp

theorem postingCheckOp_accepts (h : s.postReason q = 0) : postingCheckOp s q = s.setSlot q (s.accepted q) := by
  unfold postingCheckOp
  dsimp only
  rw [if_neg (by simp [hst, hp]), if_pos h]
  rfl

theorem postingCheckOp_refuses (h : s.postReason q ≠ 0) : postingCheckOp s q =
    let t := s.noteRefusal (s.postReason q)
    let r : EndRec := { reason := BitVec.ofNat 8 (s.postReason q) }
    if noRecord (s.postReason q) then t.setSlot q ((t.slot q).end_ r) else t.queueEnd q r := by
  unfold postingCheckOp
  dsimp only
  rw [if_neg (by simp [hst, hp]), if_neg h]
  rfl

end

/-- POSTING_CHECK's write back of what its operation gave. -/
def State.checkWrites (s t : State) : State :=
  { s with slots := t.slots, jobs := t.jobs, hdrs := t.hdrs, ctrs := t.ctrs, regs := t.regs }

theorem completes_postingCheck {slot : BitVec 12} {P : State → Prop} (h : P (s.checkWrites (postingCheckOp s slot.toNat))) :
    completes (.postingCheck slot) s P :=
  completes_of_exec (t := s.checkWrites (postingCheckOp s slot.toNat)) rfl rfl h

theorem State.slotJob_congr (h : t.jobs = s.jobs) (q) : t.slotJob q = s.slotJob q := by
  unfold State.slotJob
  rw [h]

theorem State.checkWrites_units {u : State} (hu : sameUnits s u) (hp : u.part = s.part) (ht : t.hdrs = u.hdrs) :
    sameUnits s (s.checkWrites t) := fun p =>
  (State.unit_congr (s := u) (t := s.checkWrites t) ht hp.symm p).trans (hu p)

/-- A decided end touches slots and jobs alone. -/
theorem State.queueEnd_frame (s : State) (q r) : (s.queueEnd q r).hdrs = s.hdrs ∧ (s.queueEnd q r).ctrs = s.ctrs := by
  cases h : s.slotJob q with
  | none => rw [State.queueEnd, h]; exact ⟨rfl, rfl⟩
  | some j => rw [State.queueEnd_owned h]; exact ⟨rfl, rfl⟩

end

end Sys2Proof.Machine

open Sys2Proof Sys2Proof.Machine in

/-- Settles O12: where the checks pass, and where the first that fails leaves a job to carry the record or none. -/
theorem postingCheckAcceptsOrRefuses : Obligations.PostingCheckAcceptsOrRefuses := by
  intro s slot hst hp
  refine completes_postingCheck ?_
  by_cases h : s.postReason slot.toNat = 0
  · rw [postingCheckOp_accepts hst hp h]
    have hv := State.slot_setSlot_same s slot.toNat (s.accepted slot.toNat)
    refine ⟨fun k hk => (State.slot_setSlot ..).trans (if_neg hk), fun _ => rfl, fun _ => ?_, fun hn => absurd h hn⟩
    exact ⟨congrArg Slot.st hv, congrArg Slot.acceptAt hv, (congrArg Slot.own hv).trans rfl, rfl, rfl, rfl⟩
  rw [postingCheckOp_refuses hst hp h]
  have hn := s.noteRefusal_refusalNoted (s.postReason slot.toNat)
  generalize s.noteRefusal (s.postReason slot.toNat) = t at hn
  have hslot (k : Nat) : t.slot k = s.slot k := State.slot_congr hn.requests.slots k
  dsimp only
  split
  case isTrue hc =>
    refine ⟨fun k hk => ?_, State.checkWrites_units hn.units hn.part rfl, fun h0 => absurd h0 h,
      fun _ => ⟨hn.counted.congr rfl rfl, hn.event, fun _ hl => ?_, fun hni => absurd ((noRecord_iff _).mp hc) hni⟩⟩
    · exact ((State.slot_setSlot ..).trans (if_neg hk)).trans (hslot k)
    · have hv := State.slot_setSlot_same t slot.toNat
        ((t.slot slot.toNat).end_ { reason := BitVec.ofNat 8 (s.postReason slot.toNat) })
      obtain ⟨he, hr, ho, -⟩ := Slot.end_of_kept ((congrArg Slot.lost (hslot _)).trans hl)
        { reason := BitVec.ofNat 8 (s.postReason slot.toNat) }
      exact ⟨(congrArg Slot.st hv).trans he, (congrArg Slot.own hv).trans ho, (congrArg Slot.reason hv).trans hr,
        hn.requests.jobs⟩
  case isFalse hc =>
    obtain ⟨hhdrs, hctrs⟩ := t.queueEnd_frame slot.toNat { reason := BitVec.ofNat 8 (s.postReason slot.toNat) }
    refine ⟨fun k hk => ?_, State.checkWrites_units hn.units hn.part hhdrs, fun h0 => absurd h0 h, fun _ =>
      ⟨hn.counted.congr rfl (State.ctr_congr (s := t) (t := s.checkWrites _) hctrs _), ?_, fun hi => absurd ((noRecord_iff _).mpr hi) hc, fun _ jn hj => ?_⟩⟩
    · exact (State.queueEnd_slot_other _ hk).trans (hslot k)
    · exact (State.event_congr (s := t) (t := s.checkWrites _) hhdrs _ _).trans hn.event
    · have hjob (k : Nat) : t.job k = s.job k := State.job_congr hn.requests.jobs k
      rw [State.queueEnd_owned ((State.slotJob_congr hn.requests.jobs _).trans hj), hslot, hjob, BitVec.ofNat_toNat, BitVec.setWidth_eq]
      refine ⟨State.slot_setSlot_same t _ _, ?_, fun k hk => ?_⟩
      · exact congrArg Job.outQ (State.job_setJob_same (t.setSlot _ _) _ _)
      · exact ((State.job_setJob (t.setSlot _ _) ..).trans (if_neg hk)).trans (hjob k)

/-! SUPPORT. The job commands past their checks, and where a check fails (R120, R122). -/

namespace Sys2Proof.Machine

section
variable (s : State) (id : Nat)

/-! ### STEP_JCMD is no register that OPEN's checks read -/

theorem State.rawReg_jobCmd (op) {a : Nat} (h : a ≠ regAt pgStep 0x040) : (s.jobCmd id op).rawReg a = s.rawReg a := by
  unfold State.jobCmd State.setFld State.wr
  rw [State.rawReg_setReg, if_neg h, State.rawReg_setReg, if_neg h]

theorem State.reg_jobCmd (op) {a : Nat} (h : a ≠ regAt pgStep 0x040) : (s.jobCmd id op).reg a = s.reg a := by
  unfold State.jobCmd State.setFld State.wr
  rw [State.reg_setReg_other _ _ _ _ h, State.reg_setReg_other _ _ _ _ h]

theorem State.jobImg_jobCmd (op) : (s.jobCmd id op).jobImg = s.jobImg :=
  List.map_congr_left fun i _ => State.rawReg_jobCmd s id op (by unfold regAt; omega)

theorem State.region_jobCmd (op) : (s.jobCmd id op).region = s.region := by
  funext n
  unfold State.region State.rd
  rw [State.reg_jobCmd s id op, State.reg_jobCmd s id op, State.reg_jobCmd s id op] <;> (unfold regAt pgStep; omega)

theorem State.rankTableOk_jobCmd (op j n r) : (s.jobCmd id op).rankTableOk j n r = s.rankTableOk j n r := by
  have hdev : (s.jobCmd id op).devid = s.devid := by
    unfold State.devid State.rd
    rw [State.reg_jobCmd s id op (by decide)]
  unfold State.rankTableOk
  rw [hdev]
  rfl

theorem State.trainImageOk_jobCmd (op k) (j : Job) : (s.jobCmd id op).trainImageOk k j = s.trainImageOk k j := by
  unfold State.trainImageOk State.regionOf
  rw [State.region_jobCmd, State.rankTableOk_jobCmd]
  rfl

theorem State.openCode_jobCmd (op k) (j : Job) : (s.jobCmd id op).openCode k j = s.openCode k j := by
  have hshard : (s.jobCmd id op).rd pgIntake 0x048 = s.rd pgIntake 0x048 := State.reg_jobCmd s id op (by decide)
  unfold State.openCode State.openOk
  dsimp only
  simp only [State.trainImageOk_jobCmd, State.rankTableOk_jobCmd, hshard]
  rfl

theorem State.openCode_lt (k) (j : Job) : s.openCode k j < 16 := by
  unfold State.openCode
  dsimp only
  split_ifs <;> decide

end

theorem State.part_jobDone (s : State) (code) : (s.jobDone code).part = s.part := rfl

theorem State.part_wrWords (s : State) (pg off) (l : List (W × Nat)) : (s.wrWords pg off l).part = s.part := by
  induction l generalizing s with
  | nil => rfl
  | cons x l ih => exact ih _

/-! ### The commands past their checks -/

/-- The context that OPEN makes of the image. -/
def State.openedJob (s : State) (id : Nat) : Job :=
  let j : Job := { img := s.jobImg }
  { j with
    st := 1#2, next := BitVec.ofNat 64 j.firstStep, batchLo := (s.job id).batchLo, batchHi := (s.job id).batchHi,
    draftFrom := 16 * j.slotBase, grantBase := s.grants,
    train := { lsExp := BitVec.ofInt 8 j.lsInit, ks := dropKs j.dropD } }

section
variable {s : State} {id : Nat}

theorem not_stepUp_jobCmd (h : s.stepUp = true) (op) : ¬ (!(s.jobCmd id op).stepUp) = true := by
  rw [show (s.jobCmd id op).stepUp = true from h]
  decide

section
variable (h : s.stepUp = true)
include h

theorem jobReadOp_up : jobReadOp s id =
    ((s.jobCmd id 0).wrWords pgStep 0x080 (s.job id).image.zipIdx).jobDone 0 := if_neg (not_stepUp_jobCmd h 0)

theorem jobOpenOp_checks (hst : (s.job id).st = 0#2) : jobOpenOp s id =
    if s.openCode id { img := s.jobImg } ≠ 0 then (s.jobCmd id 1).jobDone (s.openCode id { img := s.jobImg })
    else ((s.jobCmd id 1).setJob id (s.openedJob id)).jobDone 0 := by
  have hj : (s.jobCmd id 1).job id = s.job id := rfl
  unfold jobOpenOp
  dsimp only
  rw [if_neg (not_stepUp_jobCmd h 1), hj, if_neg (not_not.mpr hst), State.jobImg_jobCmd, State.openCode_jobCmd]
  rfl

theorem jobUpdateOp_up (hst : (s.job id).st = 1#2)
    (hmask : updateMask s.jobImg (s.job id).img = updateMask (s.job id).img (s.job id).img)
    (hok : imageOk { s.job id with img := s.jobImg } = true) :
    jobUpdateOp s id = ((s.jobCmd id 2).setJob id { s.job id with img := s.jobImg }).jobDone 0 := by
  have hj : (s.jobCmd id 2).job id = s.job id := rfl
  unfold jobUpdateOp
  dsimp only
  rw [if_neg (not_stepUp_jobCmd h 2), hj, if_neg (not_not.mpr hst), State.jobImg_jobCmd, if_neg (by simp [hmask, hok])]

theorem jobCloseOp_up (hst : (s.job id).st = 1#2) : jobCloseOp s id =
    ((s.jobCmd id 3).setJob id { s.job id with st := 2#2, closeAt := s.lcount }).jobDone 0 := by
  have hj : (s.jobCmd id 3).job id = s.job id := rfl
  unfold jobCloseOp
  dsimp only
  rw [if_neg (not_stepUp_jobCmd h 3), hj, if_neg (not_not.mpr hst)]
  rfl

end

/-! ### Reports -/

theorem State.code_jobDone (s : State) {code : Nat} (h : code < 16) : bitsOf ((s.jobDone code).rd pgStep 0x044) 3 0 = code := by
  unfold State.jobDone
  rw [State.rd_setFld_same]
  exact bitsOf_setField_same _ (by decide) (by decide) h

theorem State.rd_jobDone (s : State) (code) {off : Nat} (h : off ≠ 0x044) :
    (s.jobDone code).rd pgStep off = s.rd pgStep off := State.rd_setFld_offset _ _ _ _ _ _ _ h

/-- A job command whose work leaves u reports its code, and writes back the registers and, but for READ, the contexts. -/
theorem completes_job {c : Instr} {t u v : State} {code : Nat} {P : State → Prop}
    (he : exec c s = if !s.serves c then .next s else .next t) (ho : c.onlyWrites s t) (hv : v = u.jobDone code)
    (hpart : t.part = u.part) (hregs : t.regs = v.regs) (hc : code < 16) (hP : bitsOf (t.rd pgStep 0x044) 3 0 = code → P t) :
    completes c s P := by
  refine completes_of_exec he ho (hP ?_)
  subst hv
  rw [State.rd, State.reg_congr (s := u.jobDone code) hregs hpart]
  exact u.code_jobDone hc

/-- A command that does not pass its checks reports the code alone. -/
theorem completes_job_refused {c : Instr} {t v : State} {op code : Nat}
    (he : exec c s = if !s.serves c then .next s else .next t) (ho : c.onlyWrites s t)
    (hv : v = (s.jobCmd id op).jobDone code) (hpart : t.part = s.part) (hregs : t.regs = v.regs)
    (hjobs : t.jobs = s.jobs ∨ t.jobs = v.jobs) (hc : code < 16) :
    completes c s fun t => bitsOf (t.rd pgStep 0x044) 3 0 = code ∧ t.jobs = s.jobs :=
  completes_job he ho hv hpart hregs hc fun h =>
    ⟨h, hjobs.elim (·) fun e => e.trans (hv ▸ rfl)⟩

end

/-- The write back of OPEN, UPDATE and CLOSE. -/
def State.jobWrites (s t : State) : State := { s with jobs := t.jobs, regs := t.regs }

/-- A context set and reported: the others stay. -/
theorem State.job_jobWrites (s u : State) (id code k) (j : Job) (hu : u.jobs = s.jobs) :
    (s.jobWrites ((u.setJob id j).jobDone code)).job k = if k = id then j else s.job k := by
  have hj := State.job_setJob u id k j
  rw [State.job_congr hu] at hj
  exact hj

end Sys2Proof.Machine

/-! PROOFS. The job commands change a context past their checks, and else report a code alone (O9; R120, R122). -/

namespace Sys2Proof.Machine

section
variable {s : State} {job : BitVec 8}

/-- The write back of READ. -/
def State.jobRead (s : State) (id : Nat) : State := { s with regs := (jobReadOp s id).regs }

theorem State.part_jobReadOp (h : s.stepUp = true) (id : Nat) : (jobReadOp s id).part = s.part := by
  rw [jobReadOp_up h, State.part_jobDone, State.part_wrWords]
  rfl

theorem State.rd_jobRead (h : s.stepUp = true) (id off : Nat) : (s.jobRead id).rd pgStep off = (jobReadOp s id).rd pgStep off :=
  State.reg_congr (s := jobReadOp s id) (t := s.jobRead id) rfl (State.part_jobReadOp h id).symm _

theorem completes_jobRead (h : s.stepUp = true) :
    completes (.jobRead job) s fun t => bitsOf (t.rd pgStep 0x044) 3 0 = 0 ∧ t.jobs = s.jobs ∧
      ∀ i, i < 16 → t.rd pgStep (0x080 + 4 * i) = imgWord (s.job job.toNat).image i := by
  have hl : (s.job job.toNat).image.length = 16 := by simp [Job.image]
  refine completes_of_exec (t := s.jobRead job.toNat) rfl rfl ⟨?_, rfl, fun i hi => ?_⟩
  · rw [State.rd_jobRead h, jobReadOp_up h]
    exact State.code_jobDone _ (by decide)
  · rw [State.rd_jobRead h, jobReadOp_up h, State.rd_jobDone _ _ (by omega), State.rd_wrWords, if_pos (by omega), Nat.sub_zero]

theorem completes_jobOpen (h : s.stepUp = true) (hst : (s.job job.toNat).st = 0#2)
    (hc : s.openCode job.toNat { img := s.jobImg } = 0) {P : State → Prop}
    (hP : ∀ t : State, bitsOf (t.rd pgStep 0x044) 3 0 = 0 →
      (∀ k, t.job k = if k = job.toNat then s.openedJob job.toNat else s.job k) → P t) : completes (.jobOpen job) s P := by
  have hop := jobOpenOp_checks h hst
  rw [if_neg (not_not.mpr hc)] at hop
  refine completes_job (t := s.jobWrites (jobOpenOp s job.toNat)) rfl rfl hop rfl rfl (by decide)
    fun hcode => hP _ hcode fun k => ?_
  rw [hop]
  exact s.job_jobWrites (s.jobCmd job.toNat 1) job.toNat 0 k _ rfl

theorem completes_jobUpdate (h : s.stepUp = true) (hst : (s.job job.toNat).st = 1#2)
    (hmask : updateMask s.jobImg (s.job job.toNat).img = updateMask (s.job job.toNat).img (s.job job.toNat).img)
    (hok : imageOk { s.job job.toNat with img := s.jobImg } = true) :
    completes (.jobUpdate job) s fun t => bitsOf (t.rd pgStep 0x044) 3 0 = 0 ∧
      t.job job.toNat = { s.job job.toNat with img := s.jobImg } ∧ ∀ k, k ≠ job.toNat → t.job k = s.job k := by
  have hop := jobUpdateOp_up h hst hmask hok
  refine completes_job (t := s.jobWrites (jobUpdateOp s job.toNat)) rfl rfl hop rfl rfl (by decide)
    fun hcode => ⟨hcode, ?_, fun k hk => ?_⟩
  · rw [hop]
    exact (s.job_jobWrites (s.jobCmd job.toNat 2) job.toNat 0 _ _ rfl).trans (if_pos rfl)
  · rw [hop]
    exact (s.job_jobWrites (s.jobCmd job.toNat 2) job.toNat 0 _ _ rfl).trans (if_neg hk)

theorem completes_jobClose (h : s.stepUp = true) (hst : (s.job job.toNat).st = 1#2) :
    completes (.jobClose job) s fun t => bitsOf (t.rd pgStep 0x044) 3 0 = 0 ∧
      t.job job.toNat = { s.job job.toNat with st := 2#2, closeAt := s.lcount } ∧ ∀ k, k ≠ job.toNat → t.job k = s.job k := by
  have hop := jobCloseOp_up h hst
  refine completes_job (t := s.jobWrites (jobCloseOp s job.toNat)) rfl rfl hop rfl rfl (by decide)
    fun hcode => ⟨hcode, ?_, fun k hk => ?_⟩
  · rw [hop]
    exact (s.job_jobWrites (s.jobCmd job.toNat 3) job.toNat 0 _ _ rfl).trans (if_pos rfl)
  · rw [hop]
    exact (s.job_jobWrites (s.jobCmd job.toNat 3) job.toNat 0 _ _ rfl).trans (if_neg hk)

/-- A job command's check of the unit, and the next one, of the context's state. -/
theorem completes_job_down (h : s.stepUp = false) {c : Instr}
    (hc : c = .jobRead job ∨ c = .jobOpen job ∨ c = .jobUpdate job ∨ c = .jobClose job) :
    completes c s fun t => bitsOf (t.rd pgStep 0x044) 3 0 = 6 ∧ t.jobs = s.jobs := by
  have hdown (op : Nat) : (!(s.jobCmd job.toNat op).stepUp) = true := by
    rw [show (s.jobCmd job.toNat op).stepUp = false from h]
    rfl
  obtain rfl | rfl | rfl | rfl := hc
  · exact completes_job_refused (t := { s with regs := (jobReadOp s job.toNat).regs }) rfl rfl (if_pos (hdown 0)) rfl rfl
      (.inl rfl) (by decide)
  · exact completes_job_refused (t := s.jobWrites (jobOpenOp s job.toNat)) rfl rfl (if_pos (hdown 1)) rfl rfl
      (.inr rfl) (by decide)
  · exact completes_job_refused (t := s.jobWrites (jobUpdateOp s job.toNat)) rfl rfl (if_pos (hdown 2)) rfl rfl
      (.inr rfl) (by decide)
  · exact completes_job_refused (t := s.jobWrites (jobCloseOp s job.toNat)) rfl rfl (if_pos (hdown 3)) rfl rfl
      (.inr rfl) (by decide)

theorem completes_jobOpen_busy (h : s.stepUp = true) (hst : (s.job job.toNat).st ≠ 0#2) :
    completes (.jobOpen job) s fun t => bitsOf (t.rd pgStep 0x044) 3 0 = 1 ∧ t.jobs = s.jobs :=
  completes_job_refused (t := s.jobWrites (jobOpenOp s job.toNat)) rfl rfl
    ((if_neg (not_stepUp_jobCmd h 1)).trans (if_pos hst)) rfl rfl (.inr rfl) (by decide)

theorem completes_jobUpdate_notOpen (h : s.stepUp = true) (hst : (s.job job.toNat).st ≠ 1#2) :
    completes (.jobUpdate job) s fun t => bitsOf (t.rd pgStep 0x044) 3 0 = 1 ∧ t.jobs = s.jobs :=
  completes_job_refused (t := s.jobWrites (jobUpdateOp s job.toNat)) rfl rfl
    ((if_neg (not_stepUp_jobCmd h 2)).trans (if_pos hst)) rfl rfl (.inr rfl) (by decide)

theorem completes_jobClose_notOpen (h : s.stepUp = true) (hst : (s.job job.toNat).st ≠ 1#2) :
    completes (.jobClose job) s fun t => bitsOf (t.rd pgStep 0x044) 3 0 = 1 ∧ t.jobs = s.jobs :=
  completes_job_refused (t := s.jobWrites (jobCloseOp s job.toNat)) rfl rfl
    ((if_neg (not_stepUp_jobCmd h 3)).trans (if_pos hst)) rfl rfl (.inr rfl) (by decide)

theorem completes_jobOpen_refused (h : s.stepUp = true) (hst : (s.job job.toNat).st = 0#2)
    (hc : s.openCode job.toNat { img := s.jobImg } ≠ 0) :
    completes (.jobOpen job) s fun t =>
      bitsOf (t.rd pgStep 0x044) 3 0 = s.openCode job.toNat { img := s.jobImg } ∧ t.jobs = s.jobs :=
  completes_job_refused (t := s.jobWrites (jobOpenOp s job.toNat)) rfl rfl
    ((jobOpenOp_checks h hst).trans (if_pos hc)) rfl rfl (.inr rfl) (s.openCode_lt ..)

end

end Sys2Proof.Machine

open Sys2Proof Sys2Proof.Machine in

/-- Settles O9: the commands past their checks, and the check at which each is refused. -/
theorem jobCommandsOpenUpdateAndCloseAContext : Obligations.JobCommandsOpenUpdateAndCloseAContext := by
  refine ⟨fun s job h => ⟨completes_jobRead h, fun hst hc => completes_jobOpen h hst hc fun t hcode hjob => ?opened,
      completes_jobUpdate h, completes_jobClose h⟩,
    fun s job c hc => ⟨fun h => completes_job_down h hc, fun h ho hu hr => ?refused, ?checked⟩⟩
  case opened =>
    have hj := (hjob job.toNat).trans (if_pos rfl)
    rw [hj]
    exact ⟨hcode, rfl, rfl, rfl, rfl, rfl, rfl, rfl, fun k hk => (hjob k).trans (if_neg hk)⟩
  case refused =>
    obtain rfl | rfl | rfl | rfl := hc
    · exact absurd rfl hr
    · exact completes_jobOpen_busy h (ho rfl)
    · exact completes_jobUpdate_notOpen h (hu (.inl rfl))
    · exact completes_jobClose_notOpen h (hu (.inr rfl))
  case checked =>
    rintro h rfl hst hcode
    exact completes_jobOpen_refused h hst hcode

/-! PROOFS. A formation that waits for the ring keeps no grant (refutes O29; R130, R131, R136). -/

namespace Sys2Proof.Machine

/-- An OPEN job with fixed batching whose pending list names the HELD request of slot 0, its model resident and bound to
pool 0, and 255 records in its ring of 256: the ring has room for one more. -/
def listedRingFull : State :=
  { State.reset with
    phase := 0#4, ready := true, lc := 0b00001#5, tablesBad := false
    hdrs := [pgStep, pgHost, pgCache, pgSamp].map fun p => (p, { st := .running })
    jobs := [(0, {
      st := 1#2, img := [8#32, 0x100#32, 0#32, 0#32, 8#32, 0x10001#32], batchPend := true, batch := [0#12], prod := 255#32 })]
    slots := [(0, { own := true, st := .held, inAsked := true })]
    models := [(0, { loaded := true })], modelRes := [{ valid := true }, {}]
    regs := [(regAt pgCache 0x100, 0x80000000#32), (regAt pgCache 0x108, 4#32), (regAt pgCache 0x180, 0#32)] }

/-- The state after the tests, the grants of the list and the asks for input: the request is in PREFILL. -/
def listedGranted : State := ((listedRingFull.fitTests 0).grantRows 0 0).askAll 0 true

/-- The rows chosen from it. -/
def listedChoice : State × List Pick × Nat := listedGranted.choose 0 0 (listedRingFull.model (listedRingFull.job 0).model).gen

theorem listedRingFull_grantable : listedRingFull.grantable 0 = true := by decide

theorem listedRingFull_pool : listedRingFull.poolGood (listedRingFull.job 0).model = some 0 := by decide

theorem listedGranted_prefill : (listedGranted.slot 0).st = .prefill := by decide

theorem listedGranted_inputs : listedGranted.inputsDue 0 = false := by decide

theorem listedGranted_room : (listedGranted.job 0).room = 1 := by decide

theorem listedChoice_one : listedChoice.2.1.length = 1 := by decide

theorem listedChoice_notHeld : listedGranted.formHeld listedChoice.1 0 listedChoice.2.1 = false := by decide

theorem slots_of_stepForm {s t : State} {job : BitVec 8} (hs : s.serves (.stepForm job) = true)
    (h : exec (.stepForm job) s = .next t) : t.slots = (s.form job.toNat).slots := by
  change execStepForm job s = .next t at h
  unfold execStepForm at h
  rw [hs] at h
  cases h
  rfl

theorem listedRingFull_serves : listedRingFull.serves (.stepForm 0#8) = true := by decide

/-- The step does not form, and the grant is not kept. -/
theorem listedRingFull_form_held : ((listedRingFull.form 0).slot 0).st = .held := by decide

end Sys2Proof.Machine

open Sys2Proof Sys2Proof.Machine in

/-- Refutes O29: where the ring lacks the room, a list's grant of a HELD request is not kept, so the slots are not those
after the grants. -/
theorem not_stepFormationBringsTheChosenRowsIntoFlight :
    ¬ Obligations.StepFormationBringsTheChosenRowsIntoFlight := by
  unfold Obligations.StepFormationBringsTheChosenRowsIntoFlight
  intro h
  have hlen : listedChoice.2.1.length = 1 := listedChoice_one
  have hroom : (listedGranted.job 0).room < ((listedChoice.2.1.length + 1 : Nat) : Int) := by
    rw [listedGranted_room, hlen]
    decide
  have hps : listedChoice.2.1 ≠ [] := fun he => by simp [he] at hlen
  obtain ⟨-, hfull⟩ := ((h listedRingFull 0#8).2 listedGranted listedChoice.1 0 listedChoice.2.1 listedChoice.2.2
    listedRingFull_grantable listedRingFull_pool rfl (.inr (by decide))).2 listedGranted_inputs rfl hps listedChoice_notHeld
  obtain ⟨t, he, -, -, -, -, hslots, -⟩ := hfull hroom listedRingFull_serves
  have ht : t.slots = (listedRingFull.form 0).slots := slots_of_stepForm listedRingFull_serves he
  have hst : ((listedRingFull.form 0).slot 0).st = (listedGranted.slot 0).st := by
    rw [← State.slot_congr hslots, State.slot_congr ht]
  rw [listedRingFull_form_held, listedGranted_prefill] at hst
  exact absurd hst (by decide)

/-! SUPPORT. Host-port requests that go out leave the requests, the job contexts, the directory and the memory alone, and
clear no event (R338, R386, R387). -/

namespace Sys2Proof.Machine

/-- Requests, contexts, directory and memory are as they were, and every event that stood still stands. -/
structure State.portFrame (s t : State) : Prop where
  jobs : t.jobs = s.jobs
  slots : t.slots = s.slots
  dir : t.dir = s.dir
  mem : t.mem = s.mem
  event : ∀ p b, s.event p b = true → t.event p b = true

namespace State.portFrame
variable {s t u : State}

theorem refl (s : State) : s.portFrame s := ⟨rfl, rfl, rfl, rfl, fun _ _ => id⟩

theorem trans (h : s.portFrame t) (k : t.portFrame u) : s.portFrame u where
  jobs := k.jobs.trans h.jobs
  slots := k.slots.trans h.slots
  dir := k.dir.trans h.dir
  mem := k.mem.trans h.mem
  event p b e := k.event p b (h.event p b e)

theorem foldl {α : Type} {f : State → α → State} (hf : ∀ (s : State) x, s.portFrame (f s x)) (l : List α) (s : State) :
    s.portFrame (l.foldl f s) := by
  induction l generalizing s with
  | nil => exact refl s
  | cons x l ih => exact (hf s x).trans (ih _)

theorem ite {c : Prop} [Decidable c] (ht : s.portFrame t) (hu : s.portFrame u) : s.portFrame (if c then t else u) := by
  split <;> assumption

end State.portFrame

section
variable (s : State)

theorem State.count_portFrame (a n) : s.portFrame (s.count a n) :=
  ⟨s.count_jobs a n, s.count_slots a n, s.count_dir a n, s.count_mem a n, s.event_count a n⟩

theorem State.issueRead_portFrame : s.portFrame s.issueRead := by
  unfold State.issueRead
  split
  · exact ⟨rfl, rfl, rfl, rfl, fun _ _ => id⟩
  · exact .refl s

theorem State.issueWrite_portFrame : s.portFrame s.issueWrite := by
  unfold State.issueWrite
  split
  next w rest t _ _ =>
    refine State.portFrame.trans ?_ (State.count_portFrame _ _ _)
    exact ⟨rfl, rfl, rfl, rfl, fun _ _ => id⟩
  · exact .refl s

theorem State.pumpReads_portFrame : s.portFrame s.pumpReads :=
  .ite (.foldl (fun s _ => s.issueRead_portFrame) _ s) (.refl s)

theorem State.pumpWrites_portFrame : s.portFrame s.pumpWrites :=
  .ite (.foldl (fun s _ => s.issueWrite_portFrame) _ s) (.refl s)

theorem State.pumpHost_portFrame : s.portFrame s.pumpHost := s.pumpReads_portFrame.trans s.pumpReads.pumpWrites_portFrame

theorem State.pumpReads_stays {s : State} (h : s.hostGoes = false) : s.pumpReads = s := if_neg (by simp [h])

/-- Reads that go out leave the unit headers and the counters. -/
theorem State.pumpReads_headers : s.pumpReads.hdrs = s.hdrs := by
  have one (s : State) : s.issueRead.hdrs = s.hdrs := by
    unfold State.issueRead
    split <;> rfl
  have all (l : List ReadReq) (s : State) : (l.foldl (fun (s : State) _ => s.issueRead) s).hdrs = s.hdrs := by
    induction l generalizing s with
    | nil => rfl
    | cons r l ih => exact (ih _).trans (one s)
  unfold State.pumpReads
  split
  · exact all _ s
  · rfl

end

end Sys2Proof.Machine

/-! PROOFS. BATCH_GO asks for its list; a list that passes forms the step, another reports its code (O30; R131, R381). -/

namespace Sys2Proof.Machine

/-! ### What the checks of a list read -/

section
variable {s t : State}

/-- A request's record is what its slot's registers hold. -/
theorem State.req_congr {q : Nat} (h : ∀ a, 0x100000 ≤ a → t.rawReg a = s.rawReg a) : t.req q = s.req q := by
  have hw : t.recWord q = s.recWord q := funext fun off => h _ (by unfold slotAt; omega)
  have hp : t.recPair q = s.recPair q := funext fun off => by unfold State.recPair; rw [hw]
  unfold State.req
  rw [hw, hp]

theorem State.rawReg_count (s : State) (a n) {b : Nat} (h : b ≠ regAt pgTop 0x050) : (s.count a n).rawReg b = s.rawReg b := by
  unfold State.count
  dsimp only
  split_ifs
  · rfl
  · rfl
  · exact (tget_tput ..).trans (if_neg h)

theorem State.batchList_congr (h : t.host = s.host) (j : Job) : t.batchList j = s.batchList j := by
  unfold State.batchList
  rw [h]

/-- A list's own code depends on host memory, the contexts, the slots, the directory and the requests' records. -/
theorem State.batchListCode_congr (hjobs : t.jobs = s.jobs) (hslots : t.slots = s.slots) (hdir : t.dir = s.dir)
    (hhost : t.host = s.host) (hreg : ∀ a, 0x100000 ≤ a → t.rawReg a = s.rawReg a) (jn) :
    t.batchListCode jn = s.batchListCode jn := by
  have hok (q : Nat) : t.batchSlotOk jn q = s.batchSlotOk jn q := by
    unfold State.batchSlotOk
    simp only [State.job_congr hjobs, State.slot_congr hslots, State.req_congr hreg, State.entry_congr hdir]
  unfold State.batchListCode
  simp only [State.job_congr hjobs, State.batchList_congr hhost, hok]

end

/-! ### BATCH_GO -/

/-- The write back of BATCH_GO. -/
def State.batchWrites (s t : State) : State :=
  { s with
    jobs := t.jobs, slots := t.slots, dir := t.dir, mem := t.mem, uncorr := t.uncorr, prefixes := t.prefixes
    stamps := t.stamps, evictPtr := t.evictPtr, tcache := t.tcache, granules := t.granules, orphans := t.orphans
    grants := t.grants, served := t.served, modelRes := t.modelRes, colls := t.colls, ports := t.ports, host := t.host
    readQ := t.readQ, hostReads := t.hostReads, writeQ := t.writeQ, hostWrites := t.hostWrites, stk := t.stk, log := t.log
    logOvf := t.logOvf, regs := t.regs, ret := t.ret, hdrs := t.hdrs, ctrs := t.ctrs }

theorem completes_batchGo {s t : State} {job : BitVec 8} {P : State → Prop} (ht : batchGoOp s job.toNat = t)
    (h : P (s.batchWrites t)) : completes (.batchGo job) s P := by
  subst ht
  exact completes_of_exec (t := s.batchWrites (batchGoOp s job.toNat)) rfl rfl h

section
variable {s : State} {jn : Nat}

theorem batchGoOp_drops (h : (s.job jn).st ≠ 1#2 ∨ (s.job jn).fixed = false ∨ s.stepUp = false) :
    batchGoOp s jn = s.errInc pgStep := if_pos (by simpa using h)

variable (hst : (s.job jn).st = 1#2) (hfix : (s.job jn).fixed = true) (hup : s.stepUp = true)
include hst hfix hup

theorem batchGoOp_up : batchGoOp s jn =
    if (s.job jn).batchPend ∨ (s.job jn).cur.isSome ∨ (s.job jn).batchStage ≠ 0 then
      s.setJob jn { s.job jn with batchCode := 1#4 }
    else (s.setJob jn { s.job jn with
      batchAt := s.lcount, batchSrc := (s.job jn).batchHi ++ (s.job jn).batchLo, batchBad := false }).askBatch jn 1 0 16 :=
  if_neg (by simp [hst, hfix, hup])

end

/-- The context of a job whose list's first 16 bytes are asked for. -/
def Job.listAsked (j : Job) (now : BitVec 64) : Job :=
  { j with
    batchAt := now, batchSrc := j.batchHi ++ j.batchLo, batchBad := false, batchStage := 1
    batchDue := (hostPieces (j.batchHi ++ j.batchLo).toNat 16).length }

/-- The state in which the list's first reads wait at the port. -/
def State.listWaits (s : State) (job : BitVec 8) : State :=
  { s.setJob job.toNat ((s.job job.toNat).listAsked s.lcount) with
    readQ := s.readQ ++ (hostPieces ((s.job job.toNat).batchHi ++ (s.job job.toNat).batchLo).toNat 16).map fun (x, b) =>
      { use := .batch job s.lcount, addr := BitVec.ofNat 64 x, beats := b } }

theorem tput_tput_same {α : Type} (t : Tab α) (n : Nat) (v w : α) : tput (tput t n v) n w = tput t n w := by
  induction t with
  | nil => simp [tput]
  | cons x t ih =>
    rcases Nat.lt_trichotomy n x.1 with h | h | h
    · simp [tput, h]
    · simp [tput, h]
    · simp [tput, h.ne', Nat.lt_asymm h, ih]

theorem State.askBatch_go (s : State) (job : BitVec 8) :
    (s.setJob job.toNat { s.job job.toNat with
      batchAt := s.lcount, batchSrc := (s.job job.toNat).batchHi ++ (s.job job.toNat).batchLo, batchBad := false }).askBatch
        job.toNat 1 0 16 = (s.listWaits job).pumpReads := by
  unfold State.askBatch State.askHost State.listWaits Job.listAsked
  simp only [State.job_setJob_same, BitVec.ofNat_toNat, BitVec.setWidth_eq, Nat.add_zero]
  simp only [State.setJob, tput_tput_same]

/-! ### A list whose last read has come -/

/-- The context once the last read of a stage of the list is answered. -/
def State.listCame (s : State) (jn : Nat) (ok : Bool) : State :=
  s.setJob jn { s.job jn with batchDue := 0, batchBad := (s.job jn).batchBad || !ok }

section
variable {s : State} {jn : Nat} {since : BitVec 64} {ok : Bool}
variable (hat : (s.job jn).batchAt = since) (hdue : (s.job jn).batchDue = 1)
include hat hdue

theorem State.batchCame_bad (h : ((s.job jn).batchBad || !ok) = true) :
    s.batchCame jn since ok = (s.listCame jn ok).batchRefuse jn 2 := by
  unfold State.batchCame State.listCame
  simp [hat, hdue, h]

theorem State.batchCame_refused (h : ((s.job jn).batchBad || !ok) = false)
    (hl : (s.job jn).batchStage = 2 ∨ ((s.listCame jn ok).batchList ((s.listCame jn ok).job jn)).2.1 = [])
    (hc : (s.listCame jn ok).batchListCode jn ≠ 0) :
    s.batchCame jn since ok = (s.listCame jn ok).batchRefuse jn ((s.listCame jn ok).batchListCode jn) := by
  have hl' : ¬((s.job jn).batchStage = 1 ∧ ((s.listCame jn ok).batchList ((s.listCame jn ok).job jn)).2.1.length ≠ 0) := by
    obtain hl | hl := hl
    · simp [hl]
    · simp [hl]
  have hcheck : (s.listCame jn ok).batchCheck jn = (s.listCame jn ok).batchRefuse jn ((s.listCame jn ok).batchListCode jn) :=
    if_pos hc
  rw [← hcheck]
  unfold State.batchCame
  dsimp only
  rw [if_neg (by simp [hat, hdue]), if_neg (by simp [hdue]), if_neg (by simp [h])]
  simp only [hdue, Nat.sub_self]
  unfold State.listCame at hl' ⊢
  rw [State.job_setJob_same] at hl'
  exact if_neg hl'

end

/-- A list refused: its context takes the code, the others and the slots stay, and BATCH is raised. -/
theorem State.batchRefuse_facts (s : State) (jn code : Nat) :
    (s.batchRefuse jn code).job jn = { s.job jn with batchStage := 0, batch := [], batchCode := BitVec.ofNat 4 code } ∧
      (∀ k, k ≠ jn → (s.batchRefuse jn code).job k = s.job k) ∧ (s.batchRefuse jn code).slots = s.slots ∧
      (s.batchRefuse jn code).mem = s.mem ∧ (s.batchRefuse jn code).event pgStep 3 = true :=
  ⟨State.job_setJob_same s .., fun k hk => (State.job_setJob s ..).trans (if_neg hk), rfl, rfl,
    State.event_raise_same _ _ _ (by decide)⟩


/-! ### The last response to a read -/

/-- Host memory as the port's reads know it, with one beat more of a read. -/
def State.beatMem (s : State) (r : HostRead) (x : BitVec 1024) : Mem :=
  mwrite s.host (r.addr.toNat + 128 * r.got) (leBytes 128 x.toNat)

/-- The state once the last beat of a read has come, before its use is told. -/
def State.readLanded (s : State) (h : Mem) (rs : Tab HostRead) : State :=
  { State.count { s with host := h } (regAt pgHost 0x200) 128 with hostReads := rs }

/-- The use of the read is told that it has come, or failed. -/
def State.readTold (s : State) (r : HostRead) (err : Bool) : State :=
  let r' := { r with got := r.got + 1, err := r.err || err }
  if (r.err || err) = true then s.hostRdErr.readFailed r' else s.readDone r' (128 * (r.got + 1))

section
variable {s : State} {r : HostRead}

theorem hostReadResponseOp_last {tag : Nat} (hr : tget? s.hostReads tag = some r) (x : BitVec 1024) (err : Bool) :
    hostReadResponseOp s tag x true err = ((s.readLanded (s.beatMem r x) (tdel s.hostReads tag)).readTold r err).pumpHost := by
  unfold hostReadResponseOp State.readTold State.readLanded State.beatMem
  rw [hr]
  dsimp only
  rw [State.count_hostReads]
  rfl

/-- The write back of a read's response. -/
def State.responseWrites (s t : State) : State := { t with pending := s.pending, part := s.part, fuses := s.fuses }

theorem completes_lastRead {tag : BitVec 10} {x : BitVec 1024} {err : Bool} {v : State} {P : State → Prop}
    (hr : tget? s.hostReads tag.toNat = some r) (hclk : s.clkUp 2 = true) 
    (hv : (s.readLanded (s.beatMem r x) (tdel s.hostReads tag.toNat)).readTold r err = v)
    (hP : ∀ t, v.portFrame t → P t) : completes (.hostReadResponse tag x true err) s P := by
  subst hv
  have hop := hostReadResponseOp_last hr x err
  refine completes_of_exec (t := s.responseWrites (if s.clkUp 2 then hostReadResponseOp s tag.toNat x true err else s))
    rfl ⟨rfl, rfl, rfl⟩ (hP _ ?_)
  rw [if_pos hclk, hop]
  generalize (s.readLanded (s.beatMem r x) (tdel s.hostReads tag.toNat)).readTold r err = v
  exact v.pumpHost_portFrame.trans ⟨rfl, rfl, rfl, rfl, fun _ _ => id⟩

theorem State.readLanded_portFrame (s : State) (h rs) : s.portFrame (s.readLanded h rs) :=
  .trans (t := { s with host := h }) ⟨rfl, rfl, rfl, rfl, fun _ _ => id⟩
    ((State.count_portFrame { s with host := h } _ 128).trans ⟨rfl, rfl, rfl, rfl, fun _ _ => id⟩)

theorem State.readLanded_host (s : State) (h rs) : (s.readLanded h rs).host = h := State.count_host { s with host := h } _ 128

theorem State.readLanded_rawReg (s : State) (h rs) {a : Nat} (ha : a ≠ regAt pgTop 0x050) :
    (s.readLanded h rs).rawReg a = s.rawReg a := State.rawReg_count { s with host := h } _ 128 ha

theorem State.hostRdErr_portFrame (s : State) : s.portFrame s.hostRdErr :=
  (s.count_portFrame _ 1).trans ⟨rfl, rfl, rfl, rfl, fun p b => State.event_raise _ _ _ p b⟩

end

/-! ### A read of the list, and the input of a request that it names -/

section
variable {s v t : State} {jn : Nat} {r : HostRead} {err : Bool}

/-- What a list refused at its last read leaves, after the port's requests have gone out. -/
theorem State.listRefused_facts {ok : Bool} {code : Nat} (hv : s.portFrame v)
    (ht : ((v.listCame jn ok).batchRefuse jn code).portFrame t) :
    t.job jn = { s.job jn with
        batchDue := 0, batchBad := (s.job jn).batchBad || !ok, batchStage := 0, batch := [], batchCode := BitVec.ofNat 4 code } ∧
      (∀ k, k ≠ jn → t.job k = s.job k) ∧ t.slots = s.slots ∧ t.event pgStep 3 = true := by
  obtain ⟨hjob, hother, hslots, -, hevent⟩ := (v.listCame jn ok).batchRefuse_facts jn code
  have hcame : (v.listCame jn ok).job jn = { s.job jn with batchDue := 0, batchBad := (s.job jn).batchBad || !ok } := by
    rw [State.listCame, State.job_setJob_same, State.job_congr hv.jobs]
  refine ⟨?_, fun k hk => ?_, ht.slots.trans (hslots.trans hv.slots), ht.event _ _ hevent⟩
  · rw [State.job_congr ht.jobs, hjob, hcame]
  · rw [State.job_congr ht.jobs, hother k hk, State.listCame, State.job_setJob, if_neg hk, State.job_congr hv.jobs]

theorem State.readTold_batch {job : BitVec 8} {since : BitVec 64} (h : r.use = .batch job since) :
    s.readTold r err = (if (r.err || err) = true then s.hostRdErr else s).batchCame job.toNat since (!(r.err || err)) := by
  unfold State.readTold State.readFailed State.readDone
  dsimp only
  rw [h]
  split
  next hbad => rw [hbad]; rfl
  next hbad => rw [Bool.eq_false_of_not_eq_true hbad]; rfl

theorem State.readTold_tenant {q : BitVec 12} {since : BitVec 64} (h : r.use = .tenant q since) (hr : r.err = false) :
    s.readTold r false = s.tenantCame q.toNat since true := by
  unfold State.readTold State.readDone
  dsimp only
  rw [h, hr]
  rfl

/-- The context and the host memory as the list's last beat leaves them. -/
def State.listRead (s : State) (h : Mem) (jn : Nat) (bad : Bool) : State :=
  State.setJob { s with host := h } jn { s.job jn with batchDue := 0, batchBad := (s.job jn).batchBad || bad }

section
variable (s : State) (h : Mem) (rs : Tab HostRead) (jn : Nat) (ok : Bool)

theorem State.listCame_landed_jobs : ((s.readLanded h rs).listCame jn ok).jobs = (s.listRead h jn (!ok)).jobs := by
  have hv := s.readLanded_portFrame h rs
  rw [State.listCame, State.job_congr hv.jobs]
  exact congrArg (tput · jn _) hv.jobs

theorem State.listCame_landed_list (j : Job) :
    ((s.readLanded h rs).listCame jn ok).batchList j = (s.listRead h jn (!ok)).batchList j :=
  State.batchList_congr (s.readLanded_host h rs) j

theorem State.listCame_landed_code :
    ((s.readLanded h rs).listCame jn ok).batchListCode jn = (s.listRead h jn (!ok)).batchListCode jn :=
  have hv := s.readLanded_portFrame h rs
  State.batchListCode_congr (s.listCame_landed_jobs h rs jn ok) hv.slots hv.dir (s.readLanded_host h rs)
    (fun _ ha => s.readLanded_rawReg h rs (by unfold regAt pgTop; omega)) jn

end

theorem State.inputCame_shape (s : State) (q since ok) :
    s.inputCame q since ok = { s with slots := (s.inputCame q since ok).slots } := by
  unfold State.inputCame
  dsimp only
  split <;> rfl

theorem State.tenantCame_ready {q : Nat} {since : BitVec 64} (hq : s.slotJob q = some jn) (hst : (s.job jn).batchStage = 3)
    (hdue : ∀ k ∈ (s.job jn).batch, ((s.inputCame q since true).slot k.toNat).inDue = 0) :
    s.tenantCame q since true =
      let u := s.inputCame q since true
      if u.batchCodeOf jn ≠ 0 then u.batchRefuse jn (u.batchCodeOf jn)
      else (u.setJob jn { s.job jn with batchStage := 0, batchCode := 0#4, batchPend := true }).form jn := by
  have hshape := s.inputCame_shape q since true
  have hready : s.tenantCame q since true = (s.inputCame q since true).batchReady jn := by
    have hj : (s.inputCame q since true).slotJob q = some jn := by
      rw [hshape]
      exact hq
    unfold State.tenantCame
    dsimp only
    rw [hj]
  have hjob : (s.inputCame q since true).job jn = s.job jn := by
    rw [hshape]
    rfl
  rw [hready]
  unfold State.batchReady
  dsimp only
  rw [hjob, if_neg]
  simpa [hst] using hdue

/-- What a list refused after the last input of its requests leaves, after the port's requests have gone out. -/
theorem State.inputRefused_facts {q code : Nat} {since : BitVec 64} {ok : Bool} (hv : s.portFrame v)
    (ht : ((v.inputCame q since ok).batchRefuse jn code).portFrame t) :
    t.job jn = { s.job jn with batchStage := 0, batch := [], batchCode := BitVec.ofNat 4 code } ∧
      (∀ k, k ≠ jn → t.job k = s.job k) ∧ t.slots = (v.inputCame q since ok).slots ∧ t.mem = s.mem ∧
      t.event pgStep 3 = true := by
  have hshape := v.inputCame_shape q since ok
  generalize v.inputCame q since ok = u at hshape ht ⊢
  obtain ⟨hjob, hother, hslots, hmem, hevent⟩ := u.batchRefuse_facts jn code
  have huj (k : Nat) : u.job k = s.job k := (State.job_congr (by rw [hshape]) k).trans (State.job_congr hv.jobs k)
  refine ⟨?_, fun k hk => ?_, ht.slots.trans hslots, ht.mem.trans (hmem.trans ?_), ht.event _ _ hevent⟩
  · rw [State.job_congr ht.jobs, hjob, huj]
  · rw [State.job_congr ht.jobs, hother k hk, huj]
  · rw [hshape]
    exact hv.mem

end

section
variable {s : State} {job : BitVec 8} {tag : BitVec 10} {x : BitVec 1024} {err : Bool} {r : HostRead}
variable (hr : tget? s.hostReads tag.toNat = some r) (huse : r.use = .batch job (s.job job.toNat).batchAt)
variable (hdue : (s.job job.toNat).batchDue = 1) (hclk : s.clkUp 2 = true)
include hr huse hdue hclk

theorem completes_listUnread (hbad : ((s.job job.toNat).batchBad || (r.err || err)) = true) :
    completes (.hostReadResponse tag x true err) s fun t =>
      t.job job.toNat = { (s.listRead (s.beatMem r x) job.toNat (r.err || err)).job job.toNat with
        batchStage := 0, batch := [], batchCode := 2#4 } ∧
      (∀ k, k ≠ job.toNat → t.job k = s.job k) ∧ t.slots = s.slots ∧ t.event pgStep 3 = true := by
  have hland := s.readLanded_portFrame (s.beatMem r x) (tdel s.hostReads tag.toNat)
  have hv := State.portFrame.ite (c := (r.err || err) = true) (hland.trans (State.hostRdErr_portFrame _)) hland
  have hj := State.job_congr hv.jobs job.toNat
  refine completes_lastRead hr hclk ((State.readTold_batch huse).trans (State.batchCame_bad (by rw [hj])
    (by rw [hj]; exact hdue) (by rw [hj, Bool.not_not]; exact hbad))) fun t ht => ?_
  have hfacts := State.listRefused_facts hv ht
  rw [Bool.not_not] at hfacts
  rw [State.listRead, State.job_setJob_same]
  exact hfacts

theorem completes_listFailing (hgood : ((s.job job.toNat).batchBad || (r.err || err)) = false)
    (hlast : (s.job job.toNat).batchStage = 2 ∨ ((s.listRead (s.beatMem r x) job.toNat (r.err || err)).batchList
      ((s.listRead (s.beatMem r x) job.toNat (r.err || err)).job job.toNat)).2.1 = [])
    (hcode : (s.listRead (s.beatMem r x) job.toNat (r.err || err)).batchListCode job.toNat ≠ 0) :
    completes (.hostReadResponse tag x true err) s fun t =>
      t.job job.toNat = { (s.listRead (s.beatMem r x) job.toNat (r.err || err)).job job.toNat with
        batchStage := 0, batch := []
        batchCode := BitVec.ofNat 4 ((s.listRead (s.beatMem r x) job.toNat (r.err || err)).batchListCode job.toNat) } ∧
      (∀ k, k ≠ job.toNat → t.job k = s.job k) ∧ t.slots = s.slots ∧ t.event pgStep 3 = true := by
  have herr : ¬(r.err || err) = true := by
    rw [(Bool.or_eq_false_iff.mp hgood).2]
    decide
  have hv := s.readLanded_portFrame (s.beatMem r x) (tdel s.hostReads tag.toNat)
  have hj := State.job_congr hv.jobs job.toNat
  have hcame := State.job_congr (s.listCame_landed_jobs (s.beatMem r x) (tdel s.hostReads tag.toNat) job.toNat (!(r.err || err)))
    job.toNat
  have hcode' := s.listCame_landed_code (s.beatMem r x) (tdel s.hostReads tag.toNat) job.toNat (!(r.err || err))
  have hlist := s.listCame_landed_list (s.beatMem r x) (tdel s.hostReads tag.toNat) job.toNat (!(r.err || err))
  have htold := State.readTold_batch (s := s.readLanded (s.beatMem r x) (tdel s.hostReads tag.toNat)) (err := err) huse
  rw [Bool.not_not] at hcame hcode' hlist
  rw [if_neg herr] at htold
  refine completes_lastRead hr hclk (htold.trans (State.batchCame_refused (by rw [hj]) (by rw [hj]; exact hdue)
    (by rw [hj, Bool.not_not]; exact hgood) (by rw [hj, hcame, hlist]; exact hlast) (by rw [hcode']; exact hcode)))
    fun t ht => ?_
  have hfacts := State.listRefused_facts hv ht
  rw [Bool.not_not, hcode'] at hfacts
  rw [State.listRead, State.job_setJob_same]
  exact hfacts

end

end Sys2Proof.Machine

open Sys2Proof Sys2Proof.Machine in

/-- Settles O30: BATCH_GO's three outcomes, the last read of the list, and the last input of the requests it names. -/
theorem batchGoTakesAListOrReportsItsCode : Obligations.BatchGoTakesAListOrReportsItsCode := by
  refine ⟨?go, ?list, ?input⟩
  case go =>
    rintro s job j rfl
    refine ⟨fun h => ?dropped, fun hst hfix hup => ⟨fun h => ?busy, fun hpend hcur hstage => ?asked⟩⟩
    case dropped =>
      refine completes_batchGo (batchGoOp_drops h) ⟨rfl, rfl, fun p hp => ?_, fun herr => ?_⟩
      · exact (State.hdr_errInc s pgStep p).trans (if_neg (by simpa using hp))
      · refine (congrArg Hdr.err (State.hdr_errInc s pgStep pgStep)).trans ?_
        rw [if_pos rfl]
        exact if_neg herr
    case busy =>
      refine completes_batchGo ((batchGoOp_up hst hfix hup).trans (if_pos h)) ⟨?_, fun k hk => ?_, rfl, rfl, rfl⟩
      · exact State.job_setJob_same s ..
      · exact (State.job_setJob s ..).trans (if_neg hk)
    case asked =>
      have hop : batchGoOp s job.toNat = (s.listWaits job).pumpReads := by
        rw [batchGoOp_up hst hfix hup, if_neg (by simp [hpend, hcur, hstage]), State.askBatch_go]
      have hframe := (s.listWaits job).pumpReads_portFrame
      refine completes_batchGo hop ⟨?_, fun k hk => ?_, hframe.slots, hframe.mem, State.pumpReads_headers _, fun hgo => ?_⟩
      · exact (State.job_congr hframe.jobs _).trans (State.job_setJob_same s ..)
      · exact (State.job_congr hframe.jobs _).trans ((State.job_setJob s ..).trans (if_neg hk))
      · rw [State.pumpReads_stays (s := s.listWaits job) hgo]
        exact ⟨rfl, rfl⟩
  case list =>
    rintro s job tag x err r j u rfl hr huse hdue hclk hu
    obtain rfl : u = s.listRead (s.beatMem r x) job.toNat (r.err || err) := hu
    exact ⟨fun hbad => completes_listUnread hr huse hdue hclk hbad,
      fun hgood hlast hcode => completes_listFailing hr huse hdue hclk hgood hlast hcode⟩
  case input =>
    intro s job q tag x r u hr huse hdue herr hclk hq hstage hu hin
    obtain rfl : u = (s.readLanded (s.beatMem r x) (tdel s.hostReads tag.toNat)).inputCame q.toNat
      (s.slot q.toNat).acceptAt true := hu
    have hv := s.readLanded_portFrame (s.beatMem r x) (tdel s.hostReads tag.toNat)
    have hj := State.job_congr hv.jobs job.toNat
    have htold := (State.readTold_tenant huse herr).trans
      (State.tenantCame_ready ((State.slotJob_congr hv.jobs _).trans hq) (by rw [hj]; exact hstage) (by rw [hj]; exact hin))
    rw [hj] at htold
    exact ⟨fun hcode => completes_lastRead hr hclk (htold.trans (if_pos hcode)) fun t ht =>
        State.inputRefused_facts (s.readLanded_portFrame ..) ht,
      fun hcode => completes_lastRead hr hclk (htold.trans (if_neg (not_not.mpr hcode))) fun t ht =>
        ⟨_, rfl, ht.jobs, ht.slots, ht.dir, ht.mem⟩⟩

/-! SUPPORT. Host-port writes that go out: what they leave of host memory, and what a write of bytes stores (R386, R387). -/

namespace Sys2Proof.Machine

/-! ### Units and clocks stay -/

/-- The configuration, the unit states and what lets requests go out are as they were. -/
structure State.portUnits (s t : State) : Prop where
  part : t.part = s.part
  units : sameUnits s t
  goes : t.hostGoes = s.hostGoes

theorem State.portUnits.refl (s : State) : s.portUnits s := ⟨rfl, fun _ => rfl, rfl⟩

theorem State.portUnits.trans {s t u : State} (h : s.portUnits t) (k : t.portUnits u) : s.portUnits u :=
  ⟨k.part.trans h.part, fun p => (k.units p).trans (h.units p), k.goes.trans h.goes⟩

section
variable (s : State)

theorem State.count_portUnits (a n) : s.portUnits (s.count a n) where
  part := s.count_part a n
  units p := s.unit_count a n p
  goes := by
    unfold State.hostGoes State.clkUp State.running
    rw [State.count_clkmon, State.count_ready, State.unit_count]

theorem State.issueWrite_portUnits : s.portUnits s.issueWrite := by
  unfold State.issueWrite
  split
  next w rest t _ _ =>
    refine State.portUnits.trans ?_ (State.count_portUnits _ _ _)
    exact ⟨rfl, fun _ => rfl, rfl⟩
  · exact .refl s

/-- A relation that every write going out has, the writes that go out together have. -/
theorem State.pumpWrites_of_issueWrite {R : State → State → Prop} (refl : ∀ s, R s s)
    (trans : ∀ {s t u}, R s t → R t u → R s u) (one : ∀ s, R s s.issueWrite) : R s s.pumpWrites := by
  have all (l : List WriteReq) (s : State) : R s (l.foldl (fun (s : State) _ => s.issueWrite) s) := by
    induction l generalizing s with
    | nil => exact refl s
    | cons w l ih => exact trans (one s) (ih _)
  unfold State.pumpWrites
  split
  · exact all _ s
  · exact refl s

theorem State.pumpWrites_portUnits : s.portUnits s.pumpWrites :=
  s.pumpWrites_of_issueWrite .refl .trans State.issueWrite_portUnits

/-- Writes wait at the port. -/
def State.queued (s : State) (ws : List WriteReq) : State := { s with writeQ := s.writeQ ++ ws }

theorem State.hostWrite_eq (a bs) :
    s.hostWrite a bs = if bs = [] then s else (s.queued (writePieces a bs none 0)).pumpWrites := rfl

theorem State.hostWrite_portUnits (a bs) : s.portUnits (s.hostWrite a bs) := by
  rw [State.hostWrite_eq]
  split
  · exact .refl s
  · exact .trans (t := s.queued _) ⟨rfl, fun _ => rfl, rfl⟩ (State.pumpWrites_portUnits _)

theorem State.hostWrite_portFrame (a bs) : s.portFrame (s.hostWrite a bs) := by
  rw [State.hostWrite_eq]
  exact .ite (.refl s) (.trans (t := s.queued _) ⟨rfl, rfl, rfl, rfl, fun _ _ => id⟩ (State.pumpWrites_portFrame _))

end

/-! ### Addresses that no write meets -/

/-- The request's bytes do not meet an address. -/
def WriteReq.off (w : WriteReq) (a : Nat) : Prop := a < w.addr ∨ w.addr + w.data.length ≤ a

/-- Where no write waiting meets an address, its byte stays, and no write waiting then meets it. -/
def State.writesOff (a : Nat) (s t : State) : Prop :=
  Memory.wf s.host = true → (∀ w ∈ s.writeQ, w.off a) →
    Memory.wf t.host = true ∧ (∀ w ∈ t.writeQ, w.off a) ∧ mget t.host a = mget s.host a

section
variable {s t u : State} {a : Nat}

theorem State.writesOff.refl (s : State) : s.writesOff a s := fun hwf hq => ⟨hwf, hq, rfl⟩

theorem State.writesOff.trans (h : s.writesOff a t) (k : t.writesOff a u) : s.writesOff a u := fun hwf hq => by
  obtain ⟨hwf, hq, ht⟩ := h hwf hq
  obtain ⟨hwf, hq, hu⟩ := k hwf hq
  exact ⟨hwf, hq, hu.trans ht⟩

theorem mget_mwrite_off {m : Mem} (h : Memory.wf m = true) {w : WriteReq} (hw : w.off a) :
    mget (mwrite m w.addr w.data) a = mget m a := by
  rw [mget_mwrite _ _ _ _ h, if_neg]
  unfold WriteReq.off at hw
  omega

theorem State.issueWrite_writesOff (s : State) : s.writesOff a s.issueWrite := by
  intro hwf hq
  unfold State.issueWrite
  split
  next w rest t hw _ =>
    rw [State.count_host, State.count_writeQ]
    rw [hw] at hq
    exact ⟨mwrite_wf _ _ _ hwf, fun x hx => hq x (List.mem_cons_of_mem _ hx), mget_mwrite_off hwf (hq w List.mem_cons_self)⟩
  · exact ⟨hwf, hq, rfl⟩

theorem State.pumpWrites_writesOff (s : State) : s.writesOff a s.pumpWrites :=
  s.pumpWrites_of_issueWrite .refl .trans State.issueWrite_writesOff

/-- No piece of a write meets an address outside the bytes written. -/
theorem writePieces_off {b : Nat} {bs : List Byte} (h : a < b ∨ b + bs.length ≤ a) {p g} {w : WriteReq}
    (hw : w ∈ writePieces b bs p g) : w.off a := by
  obtain ⟨i, -, rfl⟩ := List.mem_map.mp hw
  unfold WriteReq.off
  have hlo : b ≤ (if i = 0 then b else (b / 4096 + i) * 4096) := by
    split <;> omega
  simp only [List.length_take, List.length_drop]
  omega

theorem State.hostWrite_writesOff (s : State) {b : Nat} {bs : List Byte} (h : a < b ∨ b + bs.length ≤ a) :
    s.writesOff a (s.hostWrite b bs) := by
  rw [State.hostWrite_eq]
  split
  · exact .refl s
  · intro hwf hq
    refine State.pumpWrites_writesOff (s.queued (writePieces b bs none 0)) hwf fun w hw => ?_
    obtain hw | hw := List.mem_append.mp hw
    · exact hq w hw
    · exact writePieces_off h hw

end

/-! ### Bytes written piece by piece -/

theorem mwrite_append (m : Mem) (a : Nat) (xs ys : List Byte) :
    mwrite m a (xs ++ ys) = mwrite (mwrite m a xs) (a + xs.length) ys := by
  induction xs generalizing m a with
  | nil => rfl
  | cons x xs ih =>
    rw [List.cons_append, mwrite, ih, mwrite, List.length_cons, Nat.add_assoc, Nat.add_comm 1]

/-- Requests stored in their order. -/
def storeReqs (m : Mem) (ws : List WriteReq) : Mem := ws.foldl (fun m w => mwrite m w.addr w.data) m

/-- How many of n bytes from a on lie in the first i pieces. -/
def pieceEnd (a n i : Nat) : Nat := if i = 0 then 0 else min n ((a / 4096 + i) * 4096 - a)

/-- The i-th piece of a write. -/
def writePiece (a : Nat) (bs : List Byte) (p : Option (BitVec 12 × Nat)) (g i : Nat) : WriteReq :=
  let lo := if i = 0 then a else (a / 4096 + i) * 4096
  let hi := min (a + bs.length) ((a / 4096 + i + 1) * 4096)
  { addr := lo, data := (bs.drop (lo - a)).take (hi - lo)
    parcel := if i + 1 = ceilDiv (a % 4096 + bs.length) 4096 then p else none, granule := g }

theorem writePiece_addr {a : Nat} {bs : List Byte} {p g i} (h : i < ceilDiv (a % 4096 + bs.length) 4096) :
    (writePiece a bs p g i).addr = a + pieceEnd a bs.length i := by
  unfold ceilDiv at h
  unfold writePiece pieceEnd
  dsimp only
  split <;> omega

theorem writePiece_data {a : Nat} {bs : List Byte} {p g i} (h : i < ceilDiv (a % 4096 + bs.length) 4096) :
    (writePiece a bs p g i).data =
      (bs.drop (pieceEnd a bs.length i)).take (pieceEnd a bs.length (i + 1) - pieceEnd a bs.length i) := by
  have haddr : (if i = 0 then a else (a / 4096 + i) * 4096) = a + pieceEnd a bs.length i := writePiece_addr (p := p) (g := g) h
  have hend : pieceEnd a bs.length (i + 1) = min bs.length ((a / 4096 + (i + 1)) * 4096 - a) := if_neg (by omega)
  unfold ceilDiv at h
  unfold writePiece
  dsimp only
  rw [haddr, hend, Nat.add_sub_cancel_left]
  congr 1
  omega

/-- The pieces of a write store its bytes. -/
theorem storeReqs_writePieces (m : Mem) (a : Nat) (bs : List Byte) (p g) :
    storeReqs m (writePieces a bs p g) = mwrite m a bs := by
  have firsts (i : Nat) (hi : i ≤ ceilDiv (a % 4096 + bs.length) 4096) :
      storeReqs m ((List.range i).map (writePiece a bs p g)) = mwrite m a (bs.take (pieceEnd a bs.length i)) := by
    induction i with
    | zero => rfl
    | succ i ih =>
      have hle : pieceEnd a bs.length i ≤ pieceEnd a bs.length (i + 1) := by
        unfold pieceEnd
        split <;> simp only [Nat.add_one_ne_zero, if_false] <;> omega
      have hlen : (bs.take (pieceEnd a bs.length i)).length = pieceEnd a bs.length i := by
        rw [List.length_take]
        unfold pieceEnd
        split <;> omega
      have hsplit : bs.take (pieceEnd a bs.length (i + 1)) = bs.take (pieceEnd a bs.length i) ++
          (bs.drop (pieceEnd a bs.length i)).take (pieceEnd a bs.length (i + 1) - pieceEnd a bs.length i) := by
        rw [← List.take_add, Nat.add_sub_cancel' hle]
      rw [hsplit, mwrite_append, hlen, ← ih (by omega), ← writePiece_addr hi, ← writePiece_data hi]
      unfold storeReqs
      rw [List.range_succ, List.map_append, List.foldl_append]
      rfl
  have hall : bs.take (pieceEnd a bs.length (ceilDiv (a % 4096 + bs.length) 4096)) = bs := by
    refine List.take_of_length_le ?_
    unfold pieceEnd ceilDiv
    split <;> omega
  exact (firsts _ le_rfl).trans (by rw [hall])

/-! ### Writes that all go out -/

/-- Every tag from n on is free. -/
def State.tagsBelow (s : State) (n : Nat) : Prop := ∀ i, n ≤ i → tget? s.hostWrites i = none

theorem freeTag_of_free {α : Type} {t : Tab α} {n m : Nat} (h : tget? t n = none) (hn : n < m) :
    ∃ k, k ≤ n ∧ freeTag t m = some k := by
  have hsome : (freeTag t m).isSome = true := by
    unfold freeTag
    rw [List.find?_isSome]
    exact ⟨n, List.mem_range.mpr hn, by simp [h]⟩
  obtain ⟨k, hk⟩ := Option.isSome_iff_exists.mp hsome
  refine ⟨k, ?_, hk⟩
  by_contra hlt
  unfold freeTag at hk
  have := (List.find?_range_eq_some.mp hk).2.2 n (by omega)
  simp [h] at this

theorem State.issueWrite_issues {s : State} {w : WriteReq} {l : List WriteReq} {n : Nat} (hq : s.writeQ = w :: l)
    (ht : s.tagsBelow n) (hn : n < 1024) :
    s.issueWrite.writeQ = l ∧ s.issueWrite.tagsBelow (n + 1) ∧ s.issueWrite.host = mwrite s.host w.addr w.data := by
  obtain ⟨k, hk, hfree⟩ := freeTag_of_free (ht n le_rfl) hn
  unfold State.issueWrite
  rw [hq, hfree]
  refine ⟨State.count_writeQ .., fun i hi => ?_, State.count_host ..⟩
  dsimp only
  rw [State.count_hostWrites]
  exact (tget?_tput_other _ _ _ _ (by omega)).trans (ht i (by omega))

theorem State.issueWrites_all (l : List WriteReq) {s : State} {n : Nat} (hq : s.writeQ = l) (ht : s.tagsBelow n)
    (hn : n + l.length ≤ 1024) :
    (l.foldl (fun (s : State) _ => s.issueWrite) s).writeQ = [] ∧
      (l.foldl (fun (s : State) _ => s.issueWrite) s).tagsBelow (n + l.length) ∧
      (l.foldl (fun (s : State) _ => s.issueWrite) s).host = storeReqs s.host l := by
  induction l generalizing s n with
  | nil => exact ⟨hq, ht, rfl⟩
  | cons w l ih =>
    rw [List.length_cons] at hn
    obtain ⟨hq', ht', hh⟩ := State.issueWrite_issues hq ht (by omega)
    obtain ⟨hq'', ht'', hh'⟩ := ih hq' ht' (by omega)
    refine ⟨hq'', ?_, ?_⟩
    · rw [List.length_cons, show n + (l.length + 1) = n + 1 + l.length by omega]
      exact ht''
    · rw [hh] at hh'
      exact hh'

theorem writePieces_length_le {a : Nat} {bs : List Byte} (h : bs.length ≤ 4096) (p g) : (writePieces a bs p g).length ≤ 2 := by
  unfold writePieces ceilDiv
  rw [List.length_map, List.length_range]
  omega

/-- A short write with nothing before it is stored whole. -/
theorem State.hostWrite_stores {s : State} {n a : Nat} {bs : List Byte} (hgo : s.hostGoes = true) (hq : s.writeQ = [])
    (ht : s.tagsBelow n) (hne : bs ≠ []) (hlen : bs.length ≤ 4096) (hn : n + 2 ≤ 1024) :
    (s.hostWrite a bs).writeQ = [] ∧ (s.hostWrite a bs).tagsBelow (n + 2) ∧ (s.hostWrite a bs).host = mwrite s.host a bs := by
  have hp := writePieces_length_le (a := a) hlen none 0
  obtain ⟨hq', ht', hh⟩ := State.issueWrites_all (writePieces a bs none 0) (n := n)
    (s := s.queued (writePieces a bs none 0)) (by rw [State.queued, hq]; rfl) ht (by omega)
  have hput : s.hostWrite a bs =
      (writePieces a bs none 0).foldl (fun (s : State) _ => s.issueWrite) (s.queued (writePieces a bs none 0)) := by
    rw [State.hostWrite_eq, if_neg hne, State.pumpWrites, if_pos (show (s.queued _).hostGoes = true from hgo), State.queued, hq]
    rfl
  rw [hput]
  exact ⟨hq', fun i hi => ht' i (by omega), hh.trans (storeReqs_writePieces ..)⟩

end Sys2Proof.Machine

/-! PROOFS. The oldest end due goes to the job's ring and ends its slot; JCONS frees ring entries (O14; R124, R136, R139). -/

namespace Sys2Proof.Machine

/-! ### The record -/

theorem leBytes_length (n x : Nat) : (leBytes n x).length = n := by simp [leBytes]

theorem State.encOut_length (s : State) (tenant lo hi off bs) : (s.encOut tenant lo hi off bs).length = bs.length := by
  unfold State.encOut
  split
  · exact List.length_replicate ..
  · simp [ctrXor]

theorem State.record_length (s : State) (jn q i) : (s.record jn q i).length = 128 := by
  have htoks (l : List Nat) : (l.flatMap fun t => leBytes 4 t).length = 4 * l.length := by
    induction l with
    | nil => rfl
    | cons x l ih => rw [List.flatMap_cons, List.length_append, ih, leBytes_length, List.length_cons]; omega
  unfold State.record
  simp only [List.length_append, leBytes_length, State.encOut_length, htoks, List.length_take, List.length_replicate]
  omega

/-- What an end's record says beside what the slot holds (R139). -/
def State.endInfo (s : State) (jn q : Nat) (r : EndRec) : RecInfo :=
  { kind := 2, state := 7, final := true, reason := r.reason.toNat, cancelSeen := r.cancelSeen
    rung := (s.slot q).rung.toNat, step := (s.job jn).next.toNat, postmark := (s.slot q).pmCarried, due := s.due q }

/-! ### The two writes -/

/-- The address of a job's next ring entry. -/
def Job.ringEntry (j : Job) : Nat := j.ringBase + 128 * (j.prod.toNat % 2 ^ j.ringLog2)

/-- The record goes to the ring, and the producer's mirror after it. -/
def State.ringRecorded (s : State) (jn : Nat) (bs : List Byte) : State := (s.ringWrite jn bs).mirror jn

section
variable {s : State} {jn : Nat} {bs : List Byte}

theorem State.ringWrite_job (s : State) (jn bs k) :
    (s.ringWrite jn bs).job k = if k = jn then { s.job jn with prod := (s.job jn).prod + 1#32 } else s.job k := by
  have hf := s.hostWrite_portFrame (s.job jn).ringEntry bs
  exact (State.job_setJob (s.hostWrite _ bs) ..).trans (if_congr Iff.rfl rfl (State.job_congr hf.jobs k))

theorem State.ringRecorded_eq (s : State) (jn bs) : s.ringRecorded jn bs =
    (s.ringWrite jn bs).hostWrite (s.job jn).prodAddr (leBytes 4 ((s.job jn).prod + 1#32).toNat) := by
  unfold State.ringRecorded State.mirror
  rw [s.ringWrite_job jn bs jn, if_pos rfl]
  rfl

theorem State.ringRecorded_job (s : State) (jn bs k) :
    (s.ringRecorded jn bs).job k = if k = jn then { s.job jn with prod := (s.job jn).prod + 1#32 } else s.job k :=
  (State.job_congr (State.hostWrite_portFrame ..).jobs k).trans (s.ringWrite_job jn bs k)

theorem State.ringRecorded_slots (s : State) (jn bs) : (s.ringRecorded jn bs).slots = s.slots :=
  (State.hostWrite_portFrame ..).slots.trans (s.hostWrite_portFrame _ bs).slots

theorem State.ringWrite_portUnits (s : State) (jn bs) : s.portUnits (s.ringWrite jn bs) :=
  (s.hostWrite_portUnits _ bs).trans ⟨rfl, fun _ => rfl, rfl⟩

theorem State.ringRecorded_portUnits (s : State) (jn bs) : s.portUnits (s.ringRecorded jn bs) := by
  rw [State.ringRecorded_eq]
  exact (s.ringWrite_portUnits jn bs).trans (State.hostWrite_portUnits ..)

/-- Host memory outside the ring entry and the mirror stays. -/
theorem State.ringRecorded_writesOff (hbs : bs.length = 128) {a : Nat}
    (hring : a < (s.job jn).ringEntry ∨ (s.job jn).ringEntry + 128 ≤ a)
    (hmir : a < (s.job jn).prodAddr ∨ (s.job jn).prodAddr + 4 ≤ a) : s.writesOff a (s.ringRecorded jn bs) := by
  have hfirst : s.writesOff a (s.ringWrite jn bs) := s.hostWrite_writesOff (by rw [hbs]; exact hring)
  rw [State.ringRecorded_eq]
  exact hfirst.trans (State.hostWrite_writesOff _ (by rw [leBytes_length]; exact hmir))

/-- With nothing waiting or outstanding, both writes are stored at once. -/
theorem State.ringRecorded_host (hbs : bs.length = 128) (hgo : s.hostGoes = true) (hq : s.writeQ = []) (hw : s.hostWrites = []) :
    (s.ringRecorded jn bs).host = mwrite (mwrite s.host (s.job jn).ringEntry bs) (s.job jn).prodAddr
      (leBytes 4 ((s.job jn).prod + 1#32).toNat) := by
  have ht : s.tagsBelow 0 := fun i _ => by rw [hw]; rfl
  obtain ⟨hq₁, ht₁, hh₁⟩ := State.hostWrite_stores (a := (s.job jn).ringEntry) (bs := bs) hgo hq ht
    (List.ne_nil_of_length_pos (by omega)) (by omega) (by omega)
  obtain ⟨-, -, hh₂⟩ := State.hostWrite_stores (s := s.ringWrite jn bs) (n := 2) (a := (s.job jn).prodAddr)
    (bs := leBytes 4 ((s.job jn).prod + 1#32).toNat) ((s.ringWrite_portUnits jn bs).goes.trans hgo) hq₁ ht₁
    (List.ne_nil_of_length_pos (by rw [leBytes_length]; omega)) (by rw [leBytes_length]; omega) (by omega)
  rw [State.ringRecorded_eq, hh₂]
  exact congrArg (mwrite · _ _) hh₁

end

theorem mread_mwrite_apart {m : Mem} (h : Memory.wf m = true) {a n b : Nat} {bs : List Byte}
    (hab : a + n ≤ b ∨ b + bs.length ≤ a) : mread (mwrite m b bs) a n = mread m a n := by
  refine List.map_congr_left fun i hi => ?_
  rw [List.mem_range] at hi
  rw [mget_mwrite _ _ _ _ h, if_neg (by omega)]

/-! ### OUT_OF_STEP_RECORD -/

theorem State.finishClose_job (s : State) (jn : Nat) :
    ((s.finishClose jn).job jn).prod = (s.job jn).prod ∧ ((s.finishClose jn).job jn).outQ = (s.job jn).outQ := by
  unfold State.finishClose
  dsimp only
  split
  · have hj := State.job_setJob_same s jn { s.job jn with st := 0#2 }
    exact ⟨(congrArg Job.prod hj :), (congrArg Job.outQ hj :)⟩
  · exact ⟨rfl, rfl⟩

theorem State.finishClose_port (s : State) (jn : Nat) :
    (s.finishClose jn).host = s.host ∧ s.portUnits (s.finishClose jn) := by
  unfold State.finishClose
  dsimp only
  split
  · exact ⟨rfl, rfl, fun _ => rfl, rfl⟩
  · exact ⟨rfl, .refl s⟩

/-- The context with the end taken off its ends due. -/
def Job.endTaken (j : Job) (rest : List (BitVec 12)) : Job := { j with outQ := rest, outWait := j.outWait && rest != [] }

/-- The state with the end taken off the ends due, before its record is written. -/
def State.endTaken (s : State) (jn : Nat) (rest : List (BitVec 12)) : State := s.setJob jn ((s.job jn).endTaken rest)

/-- The state with the record written and the slot ended. -/
def State.endRecorded (s : State) (jn q : Nat) (rest : List (BitVec 12)) (r : EndRec) : State :=
  let t := (s.endTaken jn rest).ringRecorded jn (s.record jn q (s.endInfo jn q r))
  t.setSlot q ((t.slot q).end_ r)

section
variable {s : State} {jn : Nat} {q : BitVec 12} {rest : List (BitVec 12)} {r : EndRec}

theorem outOfStepOp_records (hq : (s.job jn).outQ = q :: rest) (hrun : s.running pgHost = true)
    (hroom : ((s.job jn).reserved : Int) < (s.job jn).room) (hp : (s.slot q.toNat).pendingEnd = some r) :
    outOfStepOp s jn = (s.endRecorded jn q.toNat rest r).finishClose jn := by
  unfold outOfStepOp
  dsimp only
  rw [hq]
  dsimp only
  rw [hrun, if_neg (by decide), if_neg (by omega), hp]
  rfl


theorem State.endRecorded_slot (s : State) (jn q rest r k) :
    (s.endRecorded jn q rest r).slot k = if k = q then (s.slot q).end_ r else s.slot k := by
  have hs (k : Nat) := State.slot_congr ((s.endTaken jn rest).ringRecorded_slots jn (s.record jn q (s.endInfo jn q r))) k
  unfold State.endRecorded
  rw [State.slot_setSlot, hs, hs]
  rfl

theorem State.endRecorded_job (s : State) (jn q rest r k) : (s.endRecorded jn q rest r).job k =
    if k = jn then { (s.job jn).endTaken rest with prod := (s.job jn).prod + 1#32 } else s.job k := by
  refine ((s.endTaken jn rest).ringRecorded_job jn (s.record jn q (s.endInfo jn q r)) k).trans ?_
  have htaken : (s.endTaken jn rest).job jn = (s.job jn).endTaken rest := State.job_setJob_same s ..
  rw [htaken]
  split
  · rfl
  next hk => exact (State.job_setJob s ..).trans (if_neg hk)

theorem State.endRecorded_portUnits (s : State) (jn q rest r) : s.portUnits (s.endRecorded jn q rest r) :=
  have htaken : s.portUnits (s.endTaken jn rest) := ⟨rfl, fun _ => rfl, rfl⟩
  (htaken.trans (State.ringRecorded_portUnits _ jn (s.record jn q (s.endInfo jn q r)))).trans ⟨rfl, fun _ => rfl, rfl⟩

theorem State.endRecorded_writesOff (s : State) (jn q rest r) {a : Nat}
    (hring : a < (s.job jn).ringEntry ∨ (s.job jn).ringEntry + 128 ≤ a)
    (hmir : a < (s.job jn).prodAddr ∨ (s.job jn).prodAddr + 4 ≤ a) : s.writesOff a (s.endRecorded jn q rest r) := by
  have htaken : (s.endTaken jn rest).job jn = (s.job jn).endTaken rest := State.job_setJob_same s ..
  exact State.ringRecorded_writesOff (s := s.endTaken jn rest) (s.record_length jn q (s.endInfo jn q r))
    (by rw [htaken]; exact hring) (by rw [htaken]; exact hmir)

theorem State.endRecorded_host (hgo : s.hostGoes = true) (hq : s.writeQ = []) (hw : s.hostWrites = []) (k rest r) :
    (s.endRecorded jn k rest r).host = mwrite (mwrite s.host (s.job jn).ringEntry (s.record jn k (s.endInfo jn k r)))
      (s.job jn).prodAddr (leBytes 4 ((s.job jn).prod + 1#32).toNat) := by
  have htaken : (s.endTaken jn rest).job jn = (s.job jn).endTaken rest := State.job_setJob_same s ..
  have hh := State.ringRecorded_host (s := s.endTaken jn rest) (jn := jn) (s.record_length jn k (s.endInfo jn k r)) hgo hq hw
  rw [htaken] at hh
  exact hh

end

/-- What OUT_OF_STEP_RECORD has done once a record is written: the slot ended, the end taken, the rest left alone. -/
structure State.endDone (s t : State) (jn q : Nat) (rest : List (BitVec 12)) (r : EndRec) : Prop where
  slot : ∀ k, t.slot k = if k = q then (s.slot q).end_ r else s.slot k
  prod : (t.job jn).prod = (s.job jn).prod + 1#32
  outQ : (t.job jn).outQ = rest
  jobs : ∀ k, k ≠ jn → t.job k = s.job k
  port : s.portUnits t
  host : t.host = (s.endRecorded jn q rest r).host

theorem State.finishClose_endDone (s : State) (jn q rest r) :
    s.endDone ((s.endRecorded jn q rest r).finishClose jn) jn q rest r := by
  have hjob := (s.endRecorded_job jn q rest r jn).trans (if_pos rfl)
  obtain ⟨hslots, hjobs⟩ := (s.endRecorded jn q rest r).finishClose_frame jn
  obtain ⟨hprod, hout⟩ := (s.endRecorded jn q rest r).finishClose_job jn
  obtain ⟨hhost, hclose⟩ := (s.endRecorded jn q rest r).finishClose_port jn
  exact {
    slot := fun k => (State.slot_congr hslots k).trans (s.endRecorded_slot jn q rest r k)
    prod := by rw [hprod, hjob]
    outQ := by rw [hout, hjob]; rfl
    jobs := fun k hk => (hjobs k hk).trans ((s.endRecorded_job ..).trans (if_neg hk))
    port := (s.endRecorded_portUnits jn q rest r).trans hclose
    host := hhost }

/-- The write back of OUT_OF_STEP_RECORD. -/
def State.recordWrites (s t : State) : State :=
  { s with
    jobs := t.jobs, slots := t.slots, host := t.host, writeQ := t.writeQ, hostWrites := t.hostWrites, dir := t.dir
    hdrs := t.hdrs, ctrs := t.ctrs, regs := t.regs }

theorem completes_outOfStepRecord {s t : State} {job : BitVec 8} {P : State → Prop} (ht : outOfStepOp s job.toNat = t)
    (h : P (s.recordWrites t)) : completes (.outOfStepRecord job) s P := by
  subst ht
  exact completes_of_exec (t := s.recordWrites (outOfStepOp s job.toNat)) rfl rfl h

theorem State.endDone.recordWrites_units {s t : State} {jn q rest r} (h : s.endDone t jn q rest r) :
    sameUnits s (s.recordWrites t) := fun p =>
  (State.unit_congr (s := t) (t := s.recordWrites t) rfl h.port.part.symm p).trans (h.port.units p)

/-- What the two writes leave in host memory, where the ring entry and the mirror do not meet. -/
theorem mread_record_mirror {m : Mem} (h : Memory.wf m = true) {a b : Nat} {xs ys : List Byte} (hxs : xs.length = 128)
    (hys : ys.length = 4) (hab : a + 128 ≤ b ∨ b + 4 ≤ a) :
    mread (mwrite (mwrite m a xs) b ys) a 128 = xs ∧ mread (mwrite (mwrite m a xs) b ys) b 4 = ys := by
  have hwf := mwrite_wf m a xs h
  constructor
  · rw [mread_mwrite_apart hwf (by omega), ← hxs]
    exact mread_mwrite_same m a xs h
  · rw [← hys]
    exact mread_mwrite_same _ b ys hwf

/-! ### JCONS_WRITE -/

section
variable {s : State} {job : BitVec 8} {v : W}

/-- The write back of JCONS_WRITE. -/
def State.jconsWrites (s t : State) : State := { s with jobs := t.jobs, hdrs := t.hdrs }

theorem Job.room_neg (j : Job) : j.room < 0 ↔ 2 ^ j.ringLog2 < (j.prod - j.cons).toNat := by
  unfold Job.room
  rw [sub_neg]
  exact_mod_cast Iff.rfl

theorem completes_jcons {P : State → Prop}
    (hfree : ((s.job job.toNat).prod - v).toNat ≤ 2 ^ (s.job job.toNat).ringLog2 →
      P (s.jconsWrites (s.setJob job.toNat { s.job job.toNat with cons := v })))
    (hpast : 2 ^ (s.job job.toNat).ringLog2 < ((s.job job.toNat).prod - v).toNat → P (s.jconsWrites (s.errInc pgStep))) :
    completes (.jconsWrite job v) s P := by
  have hroom := Job.room_neg { s.job job.toNat with cons := v }
  refine completes_of_exec (t := s.jconsWrites (if ({ s.job job.toNat with cons := v } : Job).room < 0 then s.errInc pgStep
    else s.setJob job.toNat { s.job job.toNat with cons := v })) rfl rfl ?_
  split
  next h => exact hpast (hroom.mp h)
  next h => exact hfree (Nat.le_of_not_lt fun hlt => h (hroom.mpr hlt))

end

end Sys2Proof.Machine

open Sys2Proof Sys2Proof.Machine in

/-- Settles O14: the record's writes, the slot's end, and JCONS_WRITE's two outcomes. -/
theorem outOfStepRecordEndsTheSlot : Obligations.OutOfStepRecordEndsTheSlot := by
  refine ⟨fun s job q rest r hq hrun hroom hp hlost hwf hwq => ?record, fun s job v => ?jcons⟩
  case record =>
    have hdone := s.finishClose_endDone job.toNat q.toNat rest r
    have hslot := (hdone.slot q.toNat).trans (if_pos rfl)
    obtain ⟨hst, hreason, hown, hcmd⟩ := Slot.end_of_kept hlost r
    rw [← hslot] at hst hreason hown hcmd
    refine completes_outOfStepRecord (outOfStepOp_records hq hrun hroom hp) ⟨hst, hreason, hown, hcmd,
      fun k hk => (hdone.slot k).trans (if_neg hk), hdone.prod, hdone.outQ, hdone.jobs, hdone.recordWrites_units, ?stored,
      fun a hring hmir => ?apart⟩
    case stored =>
      rintro hw hclk base rfl hapart
      have hgo : s.hostGoes = true := by simp [State.hostGoes, hclk, hrun]
      have hwrite := mread_record_mirror (a := (s.job job.toNat).ringEntry) hwf
        (s.record_length job.toNat q.toNat (s.endInfo job.toNat q.toNat r))
        (leBytes_length 4 ((s.job job.toNat).prod + 1#32).toNat) hapart
      rw [← State.endRecorded_host hgo hwq hw q.toNat rest r, ← hdone.host, ← hdone.prod] at hwrite
      exact hwrite
    case apart =>
      obtain ⟨-, -, hget⟩ := s.endRecorded_writesOff job.toNat q.toNat rest r hring hmir hwf (by simp [hwq])
      rw [← hdone.host] at hget
      exact hget
  case jcons =>
    refine completes_jcons (fun hle => ?free) fun hlt => ?past
    case free =>
      refine ⟨fun k hk => (State.job_setJob s ..).trans (if_neg hk), fun _ _ => rfl, fun _ => ⟨?_, rfl⟩, fun hlt => absurd hle (by omega)⟩
      exact State.job_setJob_same s ..
    case past =>
      refine ⟨fun _ _ => rfl, fun p hp => ?_, fun hle => absurd hlt (by omega), fun _ => ⟨rfl, fun herr => ?_⟩⟩
      · exact (State.hdr_errInc s pgStep p).trans (if_neg (by simpa using hp))
      · refine (congrArg Hdr.err (State.hdr_errInc s pgStep pgStep)).trans ?_
        rw [if_pos rfl]
        exact if_neg herr

/-! PROOFS. A form on a core of a slice that no part has counts a translation miss as a SCORE form (refutes O23; R154, R173,
R178). -/

namespace Sys2Proof.Machine

/-- SCORE of a query row at position 0 against block 0, for no head. -/
def oneBlockScore : BitVec 512 := BitVec.ofNat 512 (0x20 + 2 ^ 86 + 2 ^ 112)

/-- A step in flight, its number 0, that the descriptor names. -/
def scoreStep : Step :=
  { num := 0#64, tForm := 0#64, model := 0#8, gen := 0#32, snaps := [], named := [], rows := [] }

/-- The form on a core of slice 500: CACHE_TCMISS of that slice, 8 × 500 past 0x280 of the CACHE page, is
SAMP_SCORE_FORMS. -/
def farForm : Form := { desc := .raw oneBlockScore, core := 6400 * 500, berth := some false, at_ := 0#64 }

/-- The part after a reset with the step and the form, and no translation in any slice's cache. -/
def farScore : State :=
  { State.reset with jobs := [(0, { cur := some scoreStep })], forms := [(0, farForm)] }

theorem farScore_serves : farScore.serves (.score 0) = true := by decide +kernel

theorem farScore_rawRuns : farScore.rawRuns 0 0x20 farForm oneBlockScore 0 scoreStep := by
  unfold State.rawRuns
  decide +kernel

theorem farScore_counter : farScore.ctr (regAt pgSamp 0x220) = {} := by decide +kernel

/-- The miss of block 0 is counted there, and then the form. -/
theorem farScore_counts_twice : (scoreOp farScore 0).counted pgSamp 0x220 = 2 := by decide +kernel

theorem ctrs_of_score {s t : State} {form : Nat} (hs : s.serves (.score form) = true)
    (h : exec (.score form) s = .next t) : t.ctrs = (scoreOp s form).ctrs := by
  change execScore form s = .next t at h
  unfold execScore at h
  rw [hs] at h
  cases h
  rfl

end Sys2Proof.Machine

open Sys2Proof Sys2Proof.Machine in

/-- Refutes O23: of a form on a core beyond the part's slices, a translation miss advances the count of SCORE forms, which
then gains 2. -/
theorem not_attentionFormsLandTheirResults : ¬ Obligations.AttentionFormsLandTheirResults := by
  unfold Obligations.AttentionFormsLandTheirResults
  intro h
  obtain ⟨hscore, -⟩ := h farScore _ 0 _ farForm oneBlockScore 0 scoreStep _ _ _ rfl rfl rfl rfl fun _ => rfl
  obtain ⟨t, he, -, -, -, hcount⟩ := hscore farScore_rawRuns farScore_serves
  have ht : t.counted pgSamp 0x220 = 2 := by
    rw [← farScore_counts_twice]
    unfold State.counted State.ctr
    rw [ctrs_of_score farScore_serves he]
  have hone := hcount (by rw [farScore_counter])
  rw [ht, State.counted, farScore_counter] at hone
  exact absurd hone (by decide)

/-! SUPPORT. What the record of an uncorrectable read, its consequences and the writes of the frame table count, raise and
leave alone (R164, R276, R280, R281). -/

namespace Sys2Proof.Machine

/-! ### Counters, events and the registers outside the stacks -/

/-- Only counters at these offsets of their pages have advanced, no event is lost, HOST_DACC_STAT loses no flag, and the other
registers from the page after TOP's up to the first stack's read alike. -/
structure State.countsOnly (s t : State) (offs : List Nat) : Prop where
  part : t.part = s.part
  ctrs : ∀ p off, off < 0x1000 → off ∉ offs → t.ctr (regAt p off) = s.ctr (regAt p off)
  events : ∀ p b, s.event p b = true → t.event p b = true
  flags : ∀ b, (s.rd pgHost 0x054).getLsbD b = true → (t.rd pgHost 0x054).getLsbD b = true
  regs : ∀ p off, 1 ≤ p → p < 0x030 → off < 0x1000 → ¬(p = pgHost ∧ off = 0x054) → t.rd p off = s.rd p off

/-- The counters that writes of the stacks, region faults, quarantines and records lost from the log advance. -/
def tableCtrs : List Nat := [0x208, 0x238, 0x300]

namespace State.countsOnly
variable {s t u : State} {offs : List Nat}

theorem refl (s : State) : s.countsOnly s offs := ⟨rfl, fun _ _ _ _ => rfl, fun _ _ h => h, fun _ h => h, fun _ _ _ _ _ _ => rfl⟩

theorem trans (h : s.countsOnly t offs) (k : t.countsOnly u offs) : s.countsOnly u offs where
  part := k.part.trans h.part
  ctrs p o ho hn := (k.ctrs p o ho hn).trans (h.ctrs p o ho hn)
  events p b e := k.events p b (h.events p b e)
  flags b e := k.flags b (h.flags b e)
  regs p o h1 h2 h3 h4 := (k.regs p o h1 h2 h3 h4).trans (h.regs p o h1 h2 h3 h4)

theorem mono {offs' : List Nat} (h : s.countsOnly t offs) (hsub : offs ⊆ offs') : s.countsOnly t offs' :=
  { h with ctrs := fun p o ho hn => h.ctrs p o ho fun hm => hn (hsub hm) }

theorem ite {c : Prop} [Decidable c] (ht : s.countsOnly t offs) (hu : s.countsOnly u offs) :
    s.countsOnly (if c then t else u) offs := by
  split <;> assumption

theorem foldl {α : Type} {f : State → α → State} (hf : ∀ (s : State) x, s.countsOnly (f s x) offs) (l : List α)
    (s : State) : s.countsOnly (l.foldl f s) offs := by
  induction l generalizing s with
  | nil => exact .refl s
  | cons x l ih => exact (hf s x).trans (ih _)

/-- A change that leaves every register outside the stacks' pages alone. -/
theorem of_regs (hp : t.part = s.part) (hc : ∀ p off, off < 0x1000 → off ∉ offs → t.ctr (regAt p off) = s.ctr (regAt p off))
    (he : ∀ p b, s.event p b = true → t.event p b = true)
    (hr : ∀ p off, 1 ≤ p → p < 0x030 → off < 0x1000 → t.rd p off = s.rd p off) : s.countsOnly t offs :=
  ⟨hp, hc, he, fun b h => by rwa [hr pgHost 0x054 (by decide) (by decide) (by decide)], fun p o h1 h2 h3 _ => hr p o h1 h2 h3⟩

/-- A change of a field that none of the facts speaks of. -/
theorem of_eq (hp : t.part = s.part) (hc : t.ctrs = s.ctrs) (hh : t.hdrs = s.hdrs) (hr : t.regs = s.regs) :
    s.countsOnly t offs := by
  refine .of_regs hp (fun p o _ _ => ?_) (fun p b h => ?_) fun p o _ _ _ => State.reg_congr hr hp _
  · unfold State.ctr
    rw [hc]
  · unfold State.event
    rwa [State.hdr_congr hh]

/-- The pools of the context cache stand in registers outside the stacks' pages. -/
theorem pool (h : s.countsOnly t offs) {p : Nat} (hp : p < 8) : t.pool p = s.pool p := by
  have hrd (o : Nat) (ho : o < 0x1000) : t.rd pgCache o = s.rd pgCache o :=
    h.regs pgCache o (by decide) (by decide) ho fun ⟨hc, _⟩ => absurd hc (by decide)
  unfold State.pool
  rw [hrd _ (by omega), hrd _ (by omega), hrd _ (by omega), hrd _ (by omega)]

theorem frameAt (h : s.countsOnly t offs) (a) : t.frameAt a = s.frameAt a := by
  unfold State.frameAt
  simp only [show List.range 8 = [0, 1, 2, 3, 4, 5, 6, 7] from rfl, List.findSome?_cons, List.findSome?_nil,
    h.pool (show 0 < 8 by decide), h.pool (show 1 < 8 by decide), h.pool (show 2 < 8 by decide), h.pool (show 3 < 8 by decide),
    h.pool (show 4 < 8 by decide), h.pool (show 5 < 8 by decide), h.pool (show 6 < 8 by decide), h.pool (show 7 < 8 by decide)]

/-- A counter's advance is counted whatever other counters advance before and after it. -/
theorem countedBy {p off n : Nat} {v : State} (hc : t.countedBy u p off n) (h : s.countsOnly t offs)
    (k : u.countsOnly v offs) (ho : off < 0x1000) (hn : off ∉ offs) : s.countedBy v p off n :=
  hc.congr (h.ctrs p off ho hn).symm (k.ctrs p off ho hn)

end State.countsOnly

section
variable (s : State) {offs : List Nat}

theorem State.inc_countsOnly (p) {off : Nat} (ho : off < 0x1000) (h : off ∈ offs) : s.countsOnly (s.inc p off) offs :=
  .of_regs (by simp) (fun q o hq hn => s.ctr_count_other _ 1 _ (regAt_ne hq ho fun e => hn (e ▸ h)))
    (fun q b => s.event_count _ 1 q b) fun q o h1 _ _ => s.rd_inc _ _ _ _ (by unfold regAt pgTop; omega)

theorem State.raise_countsOnly (p b) : s.countsOnly (s.raise p b) offs :=
  .of_regs rfl (fun _ _ _ _ => rfl) (fun q c => s.event_raise p b q c) fun _ _ _ _ _ => rfl

/-- A field of a stack's register is set. -/
theorem State.setFld_countsOnly {p : Nat} (hp : 0x030 ≤ p) (off lo width v) :
    s.countsOnly (s.setFld p off lo width v) offs := by
  refine .of_regs rfl (fun _ _ _ _ => rfl) (fun _ _ h => h) fun q o h1 h2 h3 => ?_
  unfold State.setFld
  rw [State.rd_wr, if_neg (by unfold regAt; omega)]

/-- A flag of HOST_DACC_STAT is set. -/
theorem State.setFlag_countsOnly (b) : s.countsOnly (s.setFld pgHost 0x054 b 1 1) offs := by
  refine ⟨rfl, fun _ _ _ _ => rfl, fun _ _ h => h, fun i h => ?_, fun q o _ _ ho hne => ?_⟩
  · have hi : i < 32 := BitVec.lt_of_getLsbD h
    rw [State.rd_setFld_same, getLsbD_setField _ _ _ _ hi]
    split
    · next hb => simp [show i - b = 0 by omega]
    · exact h
  · unfold State.setFld
    rw [State.rd_wr, if_neg]
    unfold regAt pgHost at *
    omega

theorem State.logRec_countsOnly (h : 0x238 ∈ offs) (cls page inst detail) :
    s.countsOnly (s.logRec cls page inst detail) offs := by
  unfold State.logRec
  dsimp only
  refine .ite (.trans ?_ (State.raise_countsOnly _ pgRel 0)) ?_
  · exact .of_eq rfl rfl rfl rfl
  have hl : s.countsOnly { s with logOvf := true } offs := .of_eq rfl rfl rfl rfl
  exact (hl.trans (State.inc_countsOnly _ pgRel (by decide) h)).trans (State.raise_countsOnly _ pgRel 1)

theorem State.regFault_countsOnly (h : 0x300 ∈ offs) : s.countsOnly s.regFault offs :=
  (s.inc_countsOnly 0x030 (by decide) h).trans (State.raise_countsOnly ..)

theorem pgMem_ge (k : Nat) : 0x030 ≤ pgMem k := Nat.le_add_right ..

/-! ### The record of an uncorrectable read -/

theorem State.autoRetire_countsOnly (k pc) : s.countsOnly (s.autoRetire k pc) offs :=
  .ite (.refl s) (.ite (.of_eq rfl rfl rfl rfl) (s.raise_countsOnly ..))

theorem State.seeUnc_countsOnly (k pc a) : s.countsOnly (s.seeUnc k pc a) offs := by
  have hs : s.countsOnly { s with stk := tput s.stk k { s.stack k with seen := (s.stack k).seen ++ [(a / 32, pc)] } } offs :=
    .of_eq rfl rfl rfl rfl
  exact .ite (.refl s) (.ite (hs.trans (State.autoRetire_countsOnly _ k pc)) hs)

theorem State.ucPush_countsOnly (k r) : s.countsOnly (s.ucPush k r) offs :=
  .ite (.of_eq rfl rfl rfl rfl) ((s.setFld_countsOnly (pgMem_ge k) ..).trans (State.raise_countsOnly ..))

/-- The record once the read is counted: MEM_PCERR, MEM_UCQ, the event, the log. -/
def State.uncNoted (s : State) (k pc a cls : Nat) : State :=
  (((s.setFld (pgMem k) (0x400 + 4 * pc) 16 1 1).ucPush k { addr := BitVec.ofNat 40 a, cls := BitVec.ofNat 4 cls }).raise
    (pgMem k) 1).logRec 0x0E (pgMem k) k (BitVec.ofNat 32 (a / 256))

theorem State.uncRecord_eq (a cls) : s.uncRecord a cls =
    ((s.seeUnc (s.stackOf a) (s.place a).1 a).inc (pgMem (s.stackOf a)) 0x218).uncNoted (s.stackOf a)
      ((s.seeUnc (s.stackOf a) (s.place a).1 a).place a).1 a cls := rfl

theorem State.uncNoted_countsOnly (h : 0x238 ∈ offs) (k pc a cls) : s.countsOnly (s.uncNoted k pc a cls) offs :=
  (((s.setFld_countsOnly (pgMem_ge k) ..).trans (State.ucPush_countsOnly ..)).trans (State.raise_countsOnly ..)).trans
    (State.logRec_countsOnly _ h ..)

theorem State.uncRecord_countsOnly (h : 0x218 ∈ offs) (h' : 0x238 ∈ offs) (a cls) : s.countsOnly (s.uncRecord a cls) offs := by
  rw [State.uncRecord_eq]
  exact ((s.seeUnc_countsOnly ..).trans (State.inc_countsOnly _ _ (by decide) h)).trans (State.uncNoted_countsOnly _ h' ..)

theorem State.uncRange_countsOnly (h : 0x218 ∈ offs) (h' : 0x238 ∈ offs) (a n cls) : s.countsOnly (s.uncRange a n cls) offs := by
  refine .ite (.refl s) (.foldl (fun s i => ?_) _ s)
  split
  · exact s.uncRecord_countsOnly h h' _ cls
  · exact .refl s

/-! ### Writes of the tables in the stacks -/

theorem State.wrCount_countsOnly (a n) : s.countsOnly (s.wrCount a n) tableCtrs :=
  .ite (.refl s) (.foldl (fun s _ => s.inc_countsOnly _ (by decide) (by decide)) _ s)

theorem State.poke_countsOnly (kind need a bs) : s.countsOnly (s.poke kind need a bs).1 tableCtrs := by
  have store (s : State) (a bs b n) : s.countsOnly ((s.store_ a bs).wrCount b n) tableCtrs :=
    State.countsOnly.trans (t := s.store_ a bs) (.of_eq rfl rfl rfl rfl) (State.wrCount_countsOnly ..)
  unfold State.poke
  split
  · exact .refl s
  · split
    · exact s.regFault_countsOnly (by decide)
    · exact store s a bs _ _
    · exact store s _ _ _ _

theorem State.dropWay_countsOnly (w) : s.countsOnly (s.dropWay w) tableCtrs :=
  have hdrop (s : State) (f : Nat) : s.countsOnly (s.dropHolder f) tableCtrs := s.poke_countsOnly ..
  .ite (hdrop s _) ((hdrop s _).trans (hdrop _ _))

theorem State.removeWays_countsOnly (p) : s.countsOnly (s.removeWays p) tableCtrs :=
  .trans (t := { s with prefixes := s.prefixes.filter fun x => !p x.2 }) (.of_eq rfl rfl rfl rfl)
    (.foldl (fun s w => s.dropWay_countsOnly w) _ _)

theorem State.frameWays_countsOnly (a) : s.countsOnly (s.frameWays a) tableCtrs := by
  unfold State.frameWays
  split
  · exact s.removeWays_countsOnly _
  · exact .refl s

theorem State.pokeFor_countsOnly (q kind need a bs) : s.countsOnly (s.pokeFor q kind need a bs) tableCtrs := by
  have hp := s.poke_countsOnly kind need a bs
  unfold State.pokeFor
  split
  next t bad e =>
    rw [e] at hp
    split
    · exact hp.trans (.of_eq rfl rfl rfl rfl)
    · exact hp

theorem State.dropHolderFor_countsOnly (q f) : s.countsOnly (s.dropHolderFor q f) tableCtrs := by
  unfold State.dropHolderFor State.setFrameFor
  exact s.pokeFor_countsOnly ..

theorem State.setSlot_countsOnly (q v) : s.countsOnly (s.setSlot q v) offs := .of_eq rfl rfl rfl rfl

theorem State.setListEntry_countsOnly (q i w) : s.countsOnly (s.setListEntry q i w) tableCtrs := by
  unfold State.setListEntry
  refine .trans (.trans (s.pokeFor_countsOnly q kControl none (s.listAt q i) (leBytes 4 w.toNat)) ?_)
    (State.setSlot_countsOnly ..)
  exact .of_eq rfl rfl rfl rfl

theorem State.dropPage_countsOnly (q i) : s.countsOnly (s.dropPage q i) tableCtrs := by
  unfold State.dropPage
  dsimp only
  refine .ite (.trans (.ite (.refl s) (s.dropHolderFor_countsOnly ..)) (State.setListEntry_countsOnly ..)) (.refl s)

theorem State.dropParked_countsOnly (q) : s.countsOnly (s.dropParked q) tableCtrs := by
  refine .trans ?_ (.foldl (fun s i => s.dropPage_countsOnly q i) _ _)
  refine .trans ?_ (.trans (.foldl (fun s f => s.dropHolderFor_countsOnly q f) _ _) (State.setSlot_countsOnly ..))
  refine .trans ?_ (State.setSlot_countsOnly ..)
  exact (State.countsOnly.foldl (f := fun s (p : Parcel) => s.freeGranules p.granule p.count)
    (fun _ _ => .of_eq rfl rfl rfl rfl) _ s).trans (.of_eq rfl rfl rfl rfl)

/-! ### What the requester of an uncorrectable read does (Table 12-4) -/

theorem State.failRows_countsOnly (j rows code) : s.countsOnly (s.failRows j rows code) offs := by
  rw [State.failRows_shape]
  exact .of_eq rfl rfl rfl rfl

theorem State.failForm_countsOnly (d code) : s.countsOnly (s.failForm d code) offs := by
  unfold State.failForm
  split
  · exact s.failRows_countsOnly ..
  · exact .refl s

theorem State.queueEnd_countsOnly (q r) : s.countsOnly (s.queueEnd q r) offs := by
  unfold State.queueEnd
  split
  · exact .refl s
  · exact .of_eq rfl rfl rfl rfl

theorem State.slotUnc_countsOnly (q) : s.countsOnly (s.slotUnc q) tableCtrs := by
  unfold State.slotUnc
  split
  · exact .refl s
  · exact .ite (s.failRows_countsOnly ..) (.ite ((s.dropParked_countsOnly q).trans (State.queueEnd_countsOnly ..)) (.refl s))

theorem State.frameUnc_countsOnly (k f) : s.countsOnly (s.frameUnc k f) tableCtrs := by
  have hq : s.countsOnly { s with quarantine := s.quarantine ++ [f] } tableCtrs := .of_eq rfl rfl rfl rfl
  unfold State.frameUnc
  dsimp only
  refine .trans (.trans (.ite (.refl s) ?_) (.foldl (fun s q => s.slotUnc_countsOnly q) _ _)) (State.removeWays_countsOnly ..)
  exact hq.trans (State.inc_countsOnly _ (pgMem k) (off := 0x238) (by decide) (by decide))

theorem State.wfPrepErr_countsOnly : s.countsOnly s.wfPrepErr offs := by
  unfold State.wfPrepErr State.wfMemErr
  dsimp only
  refine .ite (.of_eq rfl rfl rfl rfl) (.ite (.trans ?_ (State.raise_countsOnly _ pgIntake 1)) (.of_eq rfl rfl rfl rfl))
  exact .of_eq rfl rfl rfl rfl

theorem State.uncFor_countsOnly (k req) : s.countsOnly (s.uncFor k req) tableCtrs := by
  unfold State.uncFor
  cases req with
  | form f =>
    dsimp only
    split
    · exact s.failForm_countsOnly ..
    · exact .refl s
  | feed c =>
    unfold State.feedUnc
    dsimp only
    split
    · split
      · exact s.failRows_countsOnly ..
      · exact .refl s
    · exact .refl s
  | staging j rows => exact .ite (s.failRows_countsOnly ..) (.refl s)
  | intakeBase => exact .ite s.wfPrepErr_countsOnly (.refl s)
  | intakeAdapter a => exact .of_eq rfl rfl rfl rfl
  | pageList q => exact s.slotUnc_countsOnly _
  | frameTable f => exact s.frameUnc_countsOnly ..
  | prBitmap g => exact .of_eq rfl rfl rfl rfl
  | translation q =>
    dsimp only
    split
    · split
      · exact s.failRows_countsOnly ..
      · exact .refl s
    · exact .refl s
  | direct => exact s.setFlag_countsOnly 0
  | parcel q => exact .ite ((s.dropParked_countsOnly _).trans (State.queueEnd_countsOnly ..)) (.refl s)
  | update j => exact .ite (.of_eq rfl rfl rfl rfl) (.refl s)
  | retireCopy => exact .refl s
  | prefixCompare f => exact s.removeWays_countsOnly _

/-! ### The prefix entry of a frame -/

theorem State.frameWays_none {a} (h : s.frameAt a = none) : s.frameWays a = s := by
  unfold State.frameWays
  rw [h]

/-- No entry of the frame is left (R164). -/
theorem State.frameWays_prefixes {a f} (h : s.frameAt a = some f) :
    ∀ e ∈ (s.frameWays a).prefixes, e.2.frame.toNat ≠ f := by
  unfold State.frameWays
  rw [h]
  dsimp only
  rw [(s.removeWays_keepsDirectory fun w => w.frame.toNat == f).prefixes]
  intro e he
  simpa using (List.mem_filter.mp he).2

theorem State.frameWays_sameRequests (a) : s.sameRequests (s.frameWays a) := by
  have hway (s : State) (w) : s.sameRequests (s.dropWay w) := by
    have hdrop (s : State) (f : Nat) : s.sameRequests (s.dropHolder f) := s.poke_sameRequests ..
    unfold State.dropWay
    dsimp only
    split
    · exact hdrop s _
    · exact (hdrop s _).trans (hdrop _ _)
  unfold State.frameWays
  split
  · next f _ =>
    exact .trans (t := { s with prefixes := s.prefixes.filter fun x => !(x.2.frame.toNat == f) }) ⟨rfl, rfl⟩
      (.foldl hway _ _)
  · exact ⟨rfl, rfl⟩

/-! ### What the record of a read's errors writes -/

/-- The states differ in the stacks' records, the log, the registers, the counters and the headers alone. -/
def State.noted (s t : State) : Prop :=
  ∃ stk log ovf regs ret ctrs hdrs,
    t = { s with stk := stk, log := log, logOvf := ovf, regs := regs, ret := ret, ctrs := ctrs, hdrs := hdrs }

end

namespace State.noted
variable {s t u : State}

theorem refl (s : State) : s.noted s := ⟨_, _, _, _, _, _, _, rfl⟩

theorem trans (h : s.noted t) (k : t.noted u) : s.noted u := by
  obtain ⟨_, _, _, _, _, _, _, rfl⟩ := h
  obtain ⟨_, _, _, _, _, _, _, rfl⟩ := k
  exact ⟨_, _, _, _, _, _, _, rfl⟩

theorem ite {c : Prop} [Decidable c] (ht : s.noted t) (hu : s.noted u) : s.noted (if c then t else u) := by
  split <;> assumption

theorem foldl {α : Type} {f : State → α → State} (hf : ∀ (s : State) x, s.noted (f s x)) (l : List α) (s : State) :
    s.noted (l.foldl f s) := by
  induction l generalizing s with
  | nil => exact .refl s
  | cons x l ih => exact (hf s x).trans (ih _)

theorem jobs (h : s.noted t) : t.jobs = s.jobs := by obtain ⟨_, _, _, _, _, _, _, rfl⟩ := h; rfl
theorem slots (h : s.noted t) : t.slots = s.slots := by obtain ⟨_, _, _, _, _, _, _, rfl⟩ := h; rfl
theorem forms (h : s.noted t) : t.forms = s.forms := by obtain ⟨_, _, _, _, _, _, _, rfl⟩ := h; rfl
theorem landing (h : s.noted t) : t.landing = s.landing := by obtain ⟨_, _, _, _, _, _, _, rfl⟩ := h; rfl
theorem mem (h : s.noted t) : t.mem = s.mem := by obtain ⟨_, _, _, _, _, _, _, rfl⟩ := h; rfl
theorem uncorr (h : s.noted t) : t.uncorr = s.uncorr := by obtain ⟨_, _, _, _, _, _, _, rfl⟩ := h; rfl

end State.noted

section
variable (s : State)

theorem State.count_noted (a n) : s.noted (s.count a n) := ⟨_, _, _, _, _, _, _, s.count_shape ..⟩

theorem State.raise_noted (p b) : s.noted (s.raise p b) := ⟨_, _, _, _, _, _, _, rfl⟩

theorem State.setFld_noted (p off lo width v) : s.noted (s.setFld p off lo width v) := ⟨_, _, _, _, _, _, _, rfl⟩

theorem State.logRec_noted (cls page inst detail) : s.noted (s.logRec cls page inst detail) := by
  unfold State.logRec
  dsimp only
  refine .ite ⟨_, _, _, _, _, _, _, rfl⟩ ?_
  have hl : s.noted { s with logOvf := true } := ⟨_, _, _, _, _, _, _, rfl⟩
  exact (hl.trans (State.count_noted ..)).trans (State.raise_noted ..)

theorem State.autoRetire_noted (k pc) : s.noted (s.autoRetire k pc) :=
  .ite (.refl s) (.ite ⟨_, _, _, _, _, _, _, rfl⟩ (s.raise_noted ..))

theorem State.seeUnc_noted (k pc a) : s.noted (s.seeUnc k pc a) := by
  have hs : s.noted { s with stk := tput s.stk k { s.stack k with seen := (s.stack k).seen ++ [(a / 32, pc)] } } :=
    ⟨_, _, _, _, _, _, _, rfl⟩
  exact .ite (.refl s) (.ite (hs.trans (State.autoRetire_noted _ k pc)) hs)

theorem State.uncNoted_noted (k pc a cls) : s.noted (s.uncNoted k pc a cls) := by
  have hpush (s : State) (r) : s.noted (s.ucPush k r) :=
    .ite ⟨_, _, _, _, _, _, _, rfl⟩ ((s.setFld_noted ..).trans (State.raise_noted ..))
  exact (((s.setFld_noted ..).trans (hpush _ _)).trans (State.raise_noted ..)).trans (State.logRec_noted ..)

theorem State.uncRecord_noted (a cls) : s.noted (s.uncRecord a cls) := by
  rw [State.uncRecord_eq]
  exact ((s.seeUnc_noted ..).trans (State.count_noted ..)).trans (State.uncNoted_noted ..)

theorem State.uncRange_noted (a n cls) : s.noted (s.uncRange a n cls) := by
  refine .ite (.refl s) (.foldl (fun s i => ?_) _ s)
  split
  · exact s.uncRecord_noted _ cls
  · exact .refl s

end

end Sys2Proof.Machine

/-! PROOFS. Reads of the stacks, patrol and the halving of the error counts (O44; R164, R267, R277, R279, R280, R281, R282). -/

namespace Sys2Proof.Machine

section
variable {s t u v : State} {a k pc : Nat} {req : Sys2Proof.Requester}

/-! ### A read that completes -/

/-- The read and the retry of a first parity error are counted. -/
def State.readCounted (s : State) (k parity : Nat) : State :=
  let s := s.inc (pgMem k) 0x200
  if parity = 0 then s else s.inc (pgMem k) 0x228

theorem State.readCounted_noted (s : State) (k parity) : s.noted (s.readCounted k parity) :=
  (s.count_noted ..).trans (.ite (.refl _) (State.count_noted ..))

theorem State.readCounted_countsOnly (s : State) (k parity) : s.countsOnly (s.readCounted k parity) [0x200, 0x228] :=
  (s.inc_countsOnly _ (by decide) (by decide)).trans (.ite (.refl _) (State.inc_countsOnly _ _ (by decide) (by decide)))

theorem State.readCounted_stk (s : State) (k parity) : (s.readCounted k parity).stk = s.stk := by
  unfold State.readCounted
  dsimp only
  split <;> simp

theorem State.readCounted_unit (s : State) (k parity p) : (s.readCounted k parity).unit p = s.unit p := by
  unfold State.readCounted
  dsimp only
  split <;> simp

theorem State.readCounted_rd (s : State) (k parity) {p off : Nat} (h : regAt p off ≠ regAt pgTop 0x050) :
    (s.readCounted k parity).rd p off = s.rd p off := by
  unfold State.readCounted
  dsimp only
  split <;> simp only [State.rd_inc _ _ _ _ _ h]

theorem State.readCounted_fault (s : State) (k parity j) : (s.readCounted k parity).stackFault j = s.stackFault j := by
  unfold State.stackFault
  rw [State.readCounted_unit]

/-- A counter that has not moved has counted nothing. -/
theorem State.countedBy_none {p off : Nat} (h : t.ctr (regAt p off) = s.ctr (regAt p off)) : s.countedBy t p off 0 := by
  intro _
  unfold State.counted
  rw [h]
  have := (s.ctr (regAt p off)).value.isLt
  omega

theorem State.readCounted_reads (s : State) (k parity) : s.countedBy (s.readCounted k parity) (pgMem k) 0x200 1 := by
  refine (s.inc_countedBy (pgMem k) 0x200).congr rfl ?_
  unfold State.readCounted
  dsimp only
  split
  · rfl
  · exact State.ctr_inc_other _ (regAt_ne (by decide) (by decide) (by decide))

theorem State.readCounted_retries (s : State) (k) {parity : Nat} (h : parity < 2) :
    s.countedBy (s.readCounted k parity) (pgMem k) 0x228 parity := by
  have hread : (s.inc (pgMem k) 0x200).ctr (regAt (pgMem k) 0x228) = s.ctr (regAt (pgMem k) 0x228) :=
    State.ctr_inc_other _ (regAt_ne (by decide) (by decide) (by decide))
  unfold State.readCounted
  dsimp only
  split
  · next h0 => exact h0 ▸ State.countedBy_none hread
  · obtain rfl : parity = 1 := by omega
    exact (State.inc_countedBy _ (pgMem k) 0x228).congr hread.symm rfl

/-! ### An uncorrectable read -/

theorem State.stack_congr (h : t.stk = s.stk) (j) : t.stack j = s.stack j := by
  unfold State.stack
  rw [h]

theorem State.autoRetire_ucq (s : State) (k pc j) : ((s.autoRetire k pc).stack j).ucq = (s.stack j).ucq := by
  unfold State.autoRetire
  split
  · rfl
  · split
    · unfold State.startCopy State.stack
      dsimp only
      rw [tget_tput]
      split
      · next h => rw [h]
      · rfl
    · rfl

theorem State.seeUnc_ucq (s : State) (k pc a j) : ((s.seeUnc k pc a).stack j).ucq = (s.stack j).ucq := by
  have hseen : ∀ x, ((({ s with stk := tput s.stk k { s.stack k with seen := x } } : State).stack j)).ucq = (s.stack j).ucq := by
    intro x
    unfold State.stack
    dsimp only
    rw [tget_tput]
    split
    · next h => rw [h]
    · rfl
  unfold State.seeUnc
  dsimp only
  split
  · rfl
  · split
    · rw [State.autoRetire_ucq, hseen]
    · exact hseen _

theorem State.logRec_stack (s : State) (cls page inst detail j) : (s.logRec cls page inst detail).stack j = s.stack j :=
  State.stack_congr (by simp) j

/-- A record joins a queue that has room (R280, R290). -/
theorem State.ucPush_ucq (h : (s.stack k).ucq.length < 16) (r) : ((s.ucPush k r).stack k).ucq = (s.stack k).ucq ++ [r] := by
  unfold State.ucPush
  dsimp only
  rw [if_pos h]
  exact congrArg Stack.ucq (tget_tput_same ..)

theorem State.uncNoted_ucq (h : (s.stack k).ucq.length < 16) (pc a cls) : ((s.uncNoted k pc a cls).stack k).ucq =
    (s.stack k).ucq ++ [{ addr := BitVec.ofNat 40 a, cls := BitVec.ofNat 4 cls }] :=
  (congrArg Stack.ucq (State.logRec_stack ..)).trans
    (State.ucPush_ucq (s := s.setFld (pgMem k) (0x400 + 4 * pc) 16 1 1) h _)

theorem State.uncRecord_ucq (h : (s.stack (s.stackOf a)).ucq.length < 16) (cls) :
    ((s.uncRecord a cls).stack (s.stackOf a)).ucq =
      (s.stack (s.stackOf a)).ucq ++ [{ addr := BitVec.ofNat 40 a, cls := BitVec.ofNat 4 cls }] := by
  have hu : (((s.seeUnc (s.stackOf a) (s.place a).1 a).inc (pgMem (s.stackOf a)) 0x218).stack (s.stackOf a)).ucq =
      (s.stack (s.stackOf a)).ucq := by
    rw [State.stack_congr (State.inc_stk ..), State.seeUnc_ucq]
  rw [State.uncRecord_eq, State.uncNoted_ucq (by rw [hu]; exact h), hu]

theorem State.uncRecord_countedBy (s : State) (a cls) : s.countedBy (s.uncRecord a cls) (pgMem (s.stackOf a)) 0x218 1 := by
  rw [State.uncRecord_eq]
  exact State.countsOnly.countedBy (offs := [0x238]) (State.inc_countedBy _ _ 0x218) (s.seeUnc_countsOnly ..)
    (State.uncNoted_countsOnly _ (by decide) ..) (by decide) (by decide)

theorem State.event_logRec (s : State) (cls page inst detail) {p b : Nat} (h : s.event p b = true) :
    (s.logRec cls page inst detail).event p b = true :=
  (s.logRec_keeps cls page inst detail).events p b h

theorem State.uncRecord_event (s : State) (a cls) : (s.uncRecord a cls).event (pgMem (s.stackOf a)) 1 = true :=
  State.event_logRec _ _ _ _ _ (State.event_raise_same _ _ 1 (by decide))

/-- A word whose symbols are damaged is marked, unless its stack is in FAULT (R280). -/
theorem State.mem_uncorr_damage {w : Nat} (h : s.stackFault (s.stackOf (32 * w)) = false) : w ∈ (s.damage w).uncorr := by
  unfold State.damage
  split
  · next hc => simpa [h] using hc
  · simp [State.tick]

theorem State.damage_shape (s : State) (w) : ∃ mem uncorr fresh,
    s.damage w = { s with mem := mem, uncorr := uncorr, fresh := fresh } := by
  unfold State.damage
  split
  · exact ⟨_, _, _, rfl⟩
  · exact ⟨_, _, _, rfl⟩

/-- The other words keep their bytes. -/
theorem State.damage_mem_other {w y : Nat} (h : Memory.wf s.mem = true) (hy : y / 32 ≠ w) :
    mget (s.damage w).mem y = mget s.mem y := by
  unfold State.damage
  split
  · rfl
  · rw [State.tick_mem, mget_mwrite _ _ _ _ h, leBytes_length, if_neg (by omega)]

/-- The bytes and marks of the stacks, their records and the request slots are as they were. -/
structure State.sameStacks (s t : State) : Prop where
  mem : t.mem = s.mem
  uncorr : t.uncorr = s.uncorr
  stk : t.stk = s.stk
  slots : t.slots = s.slots

theorem State.sameStacks.ite {c : Prop} [Decidable c] (ht : s.sameStacks t) (hu : s.sameStacks u) :
    s.sameStacks (if c then t else u) := by
  split <;> assumption

theorem State.failRows_sameStacks (s : State) (j rows code) : s.sameStacks (s.failRows j rows code) := by
  rw [State.failRows_shape]
  exact ⟨rfl, rfl, rfl, rfl⟩

/-- The classes that write no table of the stacks (Table 12-4). -/
theorem State.uncFor_sameStacks (s : State) (k) (h : Requester.cls req ∉ [4, 7, 10]) : s.sameStacks (s.uncFor k req) := by
  have hs : s.sameStacks s := ⟨rfl, rfl, rfl, rfl⟩
  unfold State.uncFor
  cases req with
  | form f =>
    unfold State.failForm
    dsimp only
    split
    · split
      · exact s.failRows_sameStacks ..
      · exact hs
    · exact hs
  | feed c =>
    unfold State.feedUnc
    dsimp only
    split
    · split
      · exact s.failRows_sameStacks ..
      · exact hs
    · exact hs
  | staging j rows => exact .ite (s.failRows_sameStacks ..) hs
  | intakeBase =>
    unfold State.wfPrepErr State.wfMemErr
    exact .ite (.ite ⟨rfl, rfl, rfl, rfl⟩ (.ite ⟨rfl, rfl, rfl, rfl⟩ ⟨rfl, rfl, rfl, rfl⟩)) hs
  | intakeAdapter a => exact ⟨rfl, rfl, rfl, rfl⟩
  | translation q =>
    dsimp only
    split
    · split
      · exact s.failRows_sameStacks ..
      · exact hs
    · exact hs
  | direct => exact ⟨rfl, rfl, rfl, rfl⟩
  | update j => exact .ite ⟨rfl, rfl, rfl, rfl⟩ hs
  | retireCopy => exact hs
  | pageList _ | frameTable _ | prBitmap _ | parcel _ | prefixCompare _ => exact absurd h (by simp [Requester.cls])

/-- A read that is counted, its word damaged where its own symbols are bad. -/
def State.readBad (s : State) (k parity : Nat) (bad : Bool) (w : Nat) : State :=
  if bad then (s.readCounted k parity).damage w else s.readCounted k parity

theorem State.readBad_countsOnly (s : State) (k parity bad w) :
    s.countsOnly (s.readBad k parity bad w) [0x200, 0x228] := by
  refine (s.readCounted_countsOnly k parity).trans (.ite ?_ (.refl _))
  obtain ⟨_, _, _, h⟩ := (s.readCounted k parity).damage_shape w
  rw [h]
  exact .of_eq rfl rfl rfl rfl

/-- What feeds a form and the stacks' records stay. -/
theorem State.readBad_work (s : State) (k parity bad w) : (s.readBad k parity bad w).stk = s.stk ∧
    (s.readBad k parity bad w).jobs = s.jobs ∧ (s.readBad k parity bad w).slots = s.slots ∧
    (s.readBad k parity bad w).forms = s.forms ∧ (s.readBad k parity bad w).landing = s.landing := by
  have hn := s.readCounted_noted k parity
  have hk := s.readCounted_stk k parity
  unfold State.readBad
  split
  · obtain ⟨_, _, _, h⟩ := (s.readCounted k parity).damage_shape w
    rw [h]
    exact ⟨hk, hn.jobs, hn.slots, hn.forms, hn.landing⟩
  · exact ⟨hk, hn.jobs, hn.slots, hn.forms, hn.landing⟩

theorem State.readBad_good (s : State) (k parity w) : (s.readBad k parity false w).mem = s.mem :=
  (s.readCounted_noted k parity).mem

theorem State.readBad_mem_other {w y : Nat} (h : Memory.wf s.mem = true) (hy : y / 32 ≠ w) (k parity bad) :
    mget (s.readBad k parity bad w).mem y = mget s.mem y := by
  have hm := (s.readCounted_noted k parity).mem
  unfold State.readBad
  split
  · rw [State.damage_mem_other (hm ▸ h) hy, hm]
  · rw [hm]

theorem State.readBad_marked {w : Nat} (h : s.stackFault (s.stackOf (32 * w)) = false) (k parity) :
    w ∈ (s.readBad k parity true w).uncorr := by
  refine State.mem_uncorr_damage ?_
  rw [State.readCounted_fault]
  unfold State.stackOf at *
  rwa [(s.readCounted_countsOnly k parity).part]

/-- An uncorrectable read: it is recorded, its requester does what its class says, the frame's prefix entry goes. -/
def State.readFails (s : State) (a : Nat) (req : Sys2Proof.Requester) (parity : Nat) (bad : Bool) : State :=
  (((s.readBad (s.stackOf a) parity bad (a / 32)).uncRecord a (Requester.cls req)).uncFor (s.stackOf a) req).frameWays a

theorem stackReadDoneOp_beyond (h : s.top ≤ a) (req n mis par) : stackReadDoneOp s a req n mis par = s := if_pos h

theorem State.readCounted_uncorr (s : State) (k parity) : (s.readCounted k parity).uncorr = s.uncorr :=
  (s.readCounted_noted k parity).uncorr

theorem stackReadDoneOp_fails {n par : Nat} {mis : Bool} (ha : a < s.top)
    (h : uncorrectable n mis = true ∨ s.uncorr.contains (a / 32) = true ∨ s.stackFault (s.stackOf a) = true ∨ 2 ≤ par) :
    stackReadDoneOp s a req n mis par = s.readFails a req par (uncorrectable n mis) := by
  rw [← State.readCounted_uncorr s (s.stackOf a) par, ← State.readCounted_fault s (s.stackOf a) par] at h
  unfold stackReadDoneOp
  rw [if_neg (by omega)]
  exact if_pos h

theorem stackReadDoneOp_good {n par : Nat} {mis : Bool} (ha : a < s.top) (hn : uncorrectable n mis = false)
    (hu : s.uncorr.contains (a / 32) = false) (hf : s.stackFault (s.stackOf a) = false) (hp : par < 2) :
    stackReadDoneOp s a req n mis par = if n = 0 then s.readCounted (s.stackOf a) par
      else (if 4 ≤ n then (s.readCounted (s.stackOf a) par).miscorrect a else s.readCounted (s.stackOf a) par).corrected
        (s.stackOf a) ((s.readCounted (s.stackOf a) par).place a).1 := by
  rw [← State.readCounted_uncorr s (s.stackOf a) par] at hu
  rw [← State.readCounted_fault s (s.stackOf a) par] at hf
  unfold stackReadDoneOp
  rw [if_neg (by omega)]
  refine if_neg ?_
  rintro (h | h | h | h)
  · rw [hn] at h
    cases h
  · exact absurd (hu.symm.trans h) (by decide)
  · exact absurd (hf.symm.trans h) (by decide)
  · omega

/-- The state in which the requester acts. -/
def State.readRecorded (s : State) (a : Nat) (req : Sys2Proof.Requester) (parity : Nat) (bad : Bool) : State :=
  (s.readBad (s.stackOf a) parity bad (a / 32)).uncRecord a (Requester.cls req)

theorem State.readRecorded_work (s : State) (a req parity bad) :
    (s.readRecorded a req parity bad).jobs = s.jobs ∧ (s.readRecorded a req parity bad).slots = s.slots ∧
    (s.readRecorded a req parity bad).forms = s.forms ∧ (s.readRecorded a req parity bad).landing = s.landing := by
  obtain ⟨-, hj, hs, hf, hl⟩ := s.readBad_work (s.stackOf a) parity bad (a / 32)
  have hn := (s.readBad (s.stackOf a) parity bad (a / 32)).uncRecord_noted a (Requester.cls req)
  exact ⟨hn.jobs.trans hj, hn.slots.trans hs, hn.forms.trans hf, hn.landing.trans hl⟩

theorem State.stackOf_congr (h : t.part = s.part) (a) : t.stackOf a = s.stackOf a := by
  unfold State.stackOf
  rw [h]

theorem State.readRecorded_countsOnly (s : State) (a req parity bad) :
    s.countsOnly (s.readRecorded a req parity bad) [0x200, 0x228, 0x218, 0x238] :=
  ((s.readBad_countsOnly ..).mono (by decide)).trans (State.uncRecord_countsOnly _ (by decide) (by decide) ..)

theorem State.readFails_countsOnly (s : State) (a req parity bad) :
    (s.readRecorded a req parity bad).countsOnly (s.readFails a req parity bad) tableCtrs :=
  (State.uncFor_countsOnly ..).trans (State.frameWays_countsOnly ..)

theorem State.readFails_counted (s : State) (a req parity bad) :
    s.countedBy (s.readFails a req parity bad) (pgMem (s.stackOf a)) 0x218 1 := by
  have h := s.readBad_countsOnly (s.stackOf a) parity bad (a / 32)
  have hr := (s.readBad (s.stackOf a) parity bad (a / 32)).uncRecord_countedBy a (Requester.cls req)
  rw [State.stackOf_congr h.part] at hr
  exact State.countsOnly.countedBy (offs := [0x200, 0x228, 0x208, 0x238, 0x300]) hr (h.mono (by decide))
    ((s.readFails_countsOnly a req parity bad).mono (by decide)) (by decide) (by decide)

theorem State.readFails_event (s : State) (a req parity bad) :
    (s.readFails a req parity bad).event (pgMem (s.stackOf a)) 1 = true := by
  have h := s.readBad_countsOnly (s.stackOf a) parity bad (a / 32)
  have hr := (s.readBad (s.stackOf a) parity bad (a / 32)).uncRecord_event a (Requester.cls req)
  rw [State.stackOf_congr h.part] at hr
  exact (s.readFails_countsOnly a req parity bad).events _ _ hr

/-- The frame of the address is the one it lay in before the read. -/
theorem State.readFails_frameAt (s : State) (a req parity bad) :
    ((s.readRecorded a req parity bad).uncFor (s.stackOf a) req).frameAt a = s.frameAt a :=
  ((State.uncFor_countsOnly ..).frameAt a).trans ((s.readRecorded_countsOnly a req parity bad).frameAt a)

theorem State.readFails_prefixes {f : Nat} (h : s.frameAt a = some f) (parity bad) :
    ∀ e ∈ (s.readFails a req parity bad).prefixes, e.2.frame.toNat ≠ f :=
  State.frameWays_prefixes _ ((s.readFails_frameAt a req parity bad).trans h)

/-- Outside every frame, a requester whose class writes no table leaves what the record left. -/
theorem State.readFails_sameStacks (h : Requester.cls req ∉ [4, 7, 10]) (hf : s.frameAt a = none) (parity bad) :
    (s.readRecorded a req parity bad).sameStacks (s.readFails a req parity bad) := by
  have e := State.frameWays_none _ ((s.readFails_frameAt a req parity bad).trans hf)
  have k := (s.readRecorded a req parity bad).uncFor_sameStacks (s.stackOf a) h
  rwa [← e] at k

theorem State.readFails_jobs (s : State) (a req parity bad) : (s.readFails a req parity bad).jobs =
    ((s.readRecorded a req parity bad).uncFor (s.stackOf a) req).jobs :=
  (State.frameWays_sameRequests ..).jobs

theorem State.readRecorded_ucq (h : (s.stack (s.stackOf a)).ucq.length < 16) (req parity bad) :
    ((s.readRecorded a req parity bad).stack (s.stackOf a)).ucq = (s.stack (s.stackOf a)).ucq ++
      [{ addr := BitVec.ofNat 40 a, cls := BitVec.ofNat 4 (Requester.cls req) }] := by
  have hk := (s.readBad_work (s.stackOf a) parity bad (a / 32)).1
  have hp := State.stackOf_congr (s.readBad_countsOnly (s.stackOf a) parity bad (a / 32)).part a
  have hu := State.uncRecord_ucq (s := s.readBad (s.stackOf a) parity bad (a / 32)) (a := a)
  rw [hp, State.stack_congr hk] at hu
  exact hu h _

/-- What a failed form's rows are depends on the steps in flight and the landing buffers. -/
theorem State.failForm_jobs_congr (h : t.jobs = s.jobs) (hl : t.landing = s.landing) (d code) :
    (t.failForm d code).jobs = (s.failForm d code).jobs := by
  unfold State.failForm
  rw [State.formStep_congr h, State.formRows_congr h hl]
  split
  · exact State.failRows_jobs_congr h ..
  · exact h

theorem State.readFails_form {f : Nat} {v : Form} (hf : tget? s.forms f = some v) (a parity bad) :
    (s.readFails a (.form f) parity bad).jobs = (s.failForm v.desc cMem).jobs := by
  obtain ⟨hj, -, hforms, hl⟩ := s.readRecorded_work a (.form f) parity bad
  rw [State.readFails_jobs, ← State.failForm_jobs_congr hj hl]
  unfold State.uncFor
  dsimp only
  rw [hforms, hf]

theorem State.readFails_update {j : BitVec 8} (ht : (s.job j.toNat).isTrain = true)
    (hc : (s.job j.toNat).cur.isSome = true) (a parity bad) :
    ((s.readFails a (.update j) parity bad).job j.toNat).train.uncorrFail = true := by
  obtain ⟨hj, -⟩ := s.readRecorded_work a (.update j) parity bad
  rw [State.job_congr (State.readFails_jobs ..)]
  unfold State.uncFor
  dsimp only
  rw [State.job_congr hj, if_pos ⟨ht, hc⟩]
  unfold State.setTrain
  rw [State.job_setJob_same]

/-! ### A corrected read -/

/-- The pseudo-channel an address reaches hangs on the stacks' registers and copies. -/
theorem State.place_congr (hp : t.part = s.part) (hk : t.stk = s.stk) (hr : ∀ j off, t.rd (pgMem j) off = s.rd (pgMem j) off)
    (a) : t.place a = s.place a := by
  have hcap : t.capCode = s.capCode := funext fun j => by
    unfold State.capCode
    rw [hr]
  unfold State.place State.stackOf State.retiredPc State.movedUnit State.pcUnits State.stackCap
  rw [hcap]
  simp only [hp, hk, hr]

theorem regAt_pgMem_ne_top (j off : Nat) : regAt (pgMem j) off ≠ regAt pgTop 0x050 := by
  unfold regAt pgMem pgTop
  omega

theorem State.readCounted_place (s : State) (k parity a) : (s.readCounted k parity).place a = s.place a :=
  State.place_congr (s.readCounted_countsOnly k parity).part (s.readCounted_stk k parity)
    (fun j off => s.readCounted_rd k parity (regAt_pgMem_ne_top j off)) a

/-- What a pseudo-channel's count of corrected reads becomes. -/
def State.corrNext (s : State) (k pc : Nat) : Nat := min 0xFFFF (bitsOf (s.rd (pgMem k) (0x400 + 4 * pc)) 15 0 + 1)

theorem State.corrected_noted (s : State) (k pc) : s.noted (s.corrected k pc) :=
  ((s.count_noted ..).trans (State.setFld_noted ..)).trans (.ite (State.autoRetire_noted ..) (.refl _))

theorem State.corrected_countsOnly (s : State) (k pc) : s.countsOnly (s.corrected k pc) [0x210] :=
  ((s.inc_countsOnly _ (by decide) (by decide)).trans (State.setFld_countsOnly _ (pgMem_ge k) ..)).trans
    (.ite (State.autoRetire_countsOnly ..) (.refl _))

theorem State.corrected_counted (s : State) (k pc) : s.countedBy (s.corrected k pc) (pgMem k) 0x210 1 :=
  State.countsOnly.countedBy (offs := []) (s.inc_countedBy (pgMem k) 0x210) (.refl s)
    ((State.setFld_countsOnly _ (pgMem_ge k) ..).trans (.ite (State.autoRetire_countsOnly ..) (.refl _))) (by decide) (by decide)

theorem State.autoRetire_rd (s : State) (k pc p off) : (s.autoRetire k pc).rd p off = s.rd p off := by
  unfold State.autoRetire
  split
  · rfl
  · split <;> rfl

theorem State.corrected_corr (s : State) (k pc) :
    bitsOf ((s.corrected k pc).rd (pgMem k) (0x400 + 4 * pc)) 15 0 = s.corrNext k pc := by
  have hinc : (s.inc (pgMem k) 0x210).rd (pgMem k) (0x400 + 4 * pc) = s.rd (pgMem k) (0x400 + 4 * pc) :=
    State.rd_inc _ _ _ _ _ (regAt_pgMem_ne_top _ _)
  have hfld : ∀ n, n ≤ 0xFFFF → bitsOf (((s.inc (pgMem k) 0x210).setFld (pgMem k) (0x400 + 4 * pc) 0 16 n).rd (pgMem k)
      (0x400 + 4 * pc)) 15 0 = n := fun n hn => by
    rw [State.rd_setFld_same]
    exact bitsOf_setField_same _ (by decide) (by decide) (by omega)
  unfold State.corrected State.corrNext
  dsimp only
  rw [hinc]
  split
  · rw [State.autoRetire_rd]
    exact hfld _ (Nat.min_le_left ..)
  · exact hfld _ (Nat.min_le_left ..)

/-! ### STACK_READ_DONE -/

/-- STACK_READ_DONE's write back of what its operation gave. -/
def State.readWrites (s t : State) : State :=
  { s with
    mem := t.mem, uncorr := t.uncorr, stk := t.stk, quarantine := t.quarantine, lostGranules := t.lostGranules,
    jobs := t.jobs, slots := t.slots, granules := t.granules, orphans := t.orphans, tcache := t.tcache,
    prefixes := t.prefixes, wf := t.wf, intakes := t.intakes, fresh := t.fresh, log := t.log, logOvf := t.logOvf,
    ret := t.ret, hdrs := t.hdrs, ctrs := t.ctrs, regs := t.regs }

section
variable {addr : BitVec 40} {n : BitVec 3} {mis : Bool} {par : BitVec 2} {P : State → Prop}

theorem exec_stackReadDone (ht : stackReadDoneOp s addr.toNat req n.toNat mis par.toNat = t) :
    exec (.stackReadDone addr req n ⟨mis, par⟩) s =
      if !s.serves (.stackReadDone addr req n ⟨mis, par⟩) then .next s else .next (s.readWrites t) := by
  subst ht
  rfl

theorem completes_stackReadDone (ht : stackReadDoneOp s addr.toNat req n.toNat mis par.toNat = t)
    (h : P (s.readWrites t)) : completes (.stackReadDone addr req n ⟨mis, par⟩) s P :=
  completes_of_exec (exec_stackReadDone ht) rfl h

theorem exec_stackReadDone_beyond (h : s.top ≤ addr.toNat) : exec (.stackReadDone addr req n ⟨mis, par⟩) s = .next s := by
  rw [exec_stackReadDone (stackReadDoneOp_beyond h ..)]
  split <;> rfl

end

/-! ### PATROL (R279) -/

section
variable {u : Nat} {sym : Nat → Nat} {mis : Nat → Bool}

theorem State.firstUnc_none {n : Nat}
    (h : ∀ w, a / 32 ≤ w → 32 * w < a + n → w ∉ s.uncorr ∧ s.stackFault (s.stackOf (32 * w)) = false) :
    s.firstUnc a n = none := by
  unfold State.firstUnc
  split
  · rfl
  · rw [Option.map_eq_none_iff, List.find?_eq_none]
    intro w hw
    obtain ⟨i, hi, rfl⟩ := List.mem_map.mp hw
    rw [List.mem_range] at hi
    obtain ⟨hu, hf⟩ := h (a / 32 + i) (by omega) (by omega)
    simp [hu, hf]

/-- A range whose words all read good leaves no record. -/
theorem State.uncRange_good {n : Nat}
    (h : ∀ w, a / 32 ≤ w → 32 * w < a + n → w ∉ s.uncorr ∧ s.stackFault (s.stackOf (32 * w)) = false) (cls) :
    s.uncRange a n cls = s := by
  unfold State.uncRange
  split
  · rfl
  · refine List.foldl_fixed' (fun i => ?_) _
    have hnone : s.firstUnc (unitPart a n i).1 (unitPart a n i).2 = none := by
      unfold unitPart
      dsimp only
      by_cases hz : min (a + n) (256 * (a / 256 + i + 1)) - max a (256 * (a / 256 + i)) = 0
      · rw [hz]
        exact if_pos rfl
      · exact State.firstUnc_none fun w hw hw' => h w (by omega) (by omega)
    rw [hnone]

/-- A unit of the control tables lies in one page of its stack. -/
theorem State.mem_controlUnits (h : u ∈ s.controlUnits k) : u % 256 = 0 ∧ ∀ x, x < 256 → s.stackOf (u + x) = k := by
  unfold State.controlUnits at h
  simp only [List.mem_flatMap, List.mem_map, List.mem_range, List.mem_filterMap, List.mem_filter] at h
  obtain ⟨b, ⟨r, ⟨⟨n, -, rfl⟩, -⟩, i, -, hb⟩, j, hj, rfl⟩ := h
  split at hb
  next hk =>
    obtain rfl := Option.some.inj hb
    have hbase : (s.region n).base % 4096 = 0 := Nat.mul_mod_left ..
    refine ⟨by omega, fun x hx => ?_⟩
    rw [← hk]
    unfold State.stackOf
    rw [show ((s.region n).base + 4096 * i + 256 * j + x) / 4096 = ((s.region n).base + 4096 * i) / 4096 by omega]
  · cases hb

theorem mem_of_find_or_head {l : List Nat} {p : Nat → Bool} (h : ((l.find? p).orElse fun _ => l.head?) = some u) : u ∈ l := by
  cases hf : l.find? p with
  | some x =>
    rw [hf] at h
    obtain rfl := Option.some.inj h
    exact List.mem_of_find?_eq_some hf
  | none =>
    rw [hf] at h
    exact List.mem_of_head? h

theorem State.mem_of_patrolNext (h : s.patrolNext k = some u) : u ∈ s.controlUnits k := by
  unfold State.patrolNext at h
  exact mem_of_find_or_head h

/-- The patrol read of a unit is counted, and patrol moves on past it. -/
def State.patrolRead (s : State) (k u : Nat) : State :=
  State.inc { s with stk := tput s.stk k { s.stack k with patrolAt := u + 256, patrolTime := s.lcount } } (pgMem k) 0x200

/-- The words of a unit are looked at one after another. -/
def State.patrolWords (s : State) (k u : Nat) (sym : Nat → Nat) (mis : Nat → Bool) : State :=
  (List.range 8).foldl (fun (s : State) i => s.patrolWord k (u / 32 + i) (sym i) (mis i)) s

theorem patrolOp_early (h : s.lcount.toNat < (s.stack k).patrolTime.toNat + bitsOf (s.rd (pgMem k) 0x050) 15 0) (sym mis) :
    patrolOp s k sym mis = s := by
  unfold patrolOp
  exact if_pos (.inr (.inr (.inr (.inr h))))

theorem patrolOp_reads (hk : k < s.part.nStacks) (hrun : s.running (pgMem k) = true) (htrain : (s.stack k).retrain = false)
    (hon : (s.rd (pgMem k) 0x040).getLsbD 9 = true)
    (hdue : (s.stack k).patrolTime.toNat + bitsOf (s.rd (pgMem k) 0x050) 15 0 ≤ s.lcount.toNat)
    (hu : s.patrolNext k = some u) (sym mis) : patrolOp s k sym mis = (s.patrolRead k u).patrolUnit k u sym mis := by
  have hnot : ¬(s.part.nStacks ≤ k ∨ (!s.running (pgMem k)) = true ∨ (s.stack k).retrain = true ∨
      (!(s.rd (pgMem k) 0x040).getLsbD 9) = true ∨
      s.lcount.toNat < (s.stack k).patrolTime.toNat + bitsOf (s.rd (pgMem k) 0x050) 15 0) := by
    rw [hrun, htrain, hon]
    simpa [hk] using hdue
  unfold patrolOp State.patrolRead
  rw [if_neg hnot, hu]

/-- A unit whose words read good after their correction loses nothing. -/
theorem State.patrolUnit_good (hk : s.patrolWords k u sym mis = t)
    (hmem : u % 256 = 0 ∧ ∀ x, x < 256 → t.stackOf (u + x) = k)
    (hgood : ∀ w ∈ t.uncorr, w < u / 32 ∨ u / 32 + 8 ≤ w) (hf : t.stackFault k = false) : s.patrolUnit k u sym mis = t := by
  obtain ⟨h256, hst⟩ := hmem
  have hbad : ((List.range 8).map (u / 32 + ·)).filter (fun w => t.uncorr.contains w || t.stackFault k) = [] := by
    rw [List.filter_eq_nil_iff]
    intro w hw
    obtain ⟨i, hi, rfl⟩ := List.mem_map.mp hw
    rw [List.mem_range] at hi
    have hnot : u / 32 + i ∉ t.uncorr := fun hm => by have := hgood _ hm; omega
    simp [hnot, hf]
  have hrange : t.uncRange u 256 4 = t := State.uncRange_good (fun w hw hw' => by
    refine ⟨fun hm => by have := hgood _ hm; omega, ?_⟩
    rw [show 32 * w = u + (32 * w - u) by omega, hst _ (by omega), hf]) 4
  unfold State.patrolWords at hk
  unfold State.patrolUnit
  rw [hk]
  dsimp only
  rw [hbad, hrange]
  rfl

theorem State.patrolWord_clean (s : State) (k w m) : s.patrolWord k w 0 m = s := by
  unfold State.patrolWord
  rw [if_neg (by simp [uncorrectable]), if_pos (.inl rfl)]

theorem State.patrolWord_corrects {w : Nat} (h : w ∉ s.uncorr) (k m) :
    s.patrolWord k w 1 m = (s.inc (pgMem k) 0x220).corrected k (s.place (32 * w)).1 := by
  unfold State.patrolWord
  rw [if_neg (by simp [uncorrectable]), if_neg (by simp [h])]
  rfl

/-- A fold in which one element alone does anything. -/
theorem foldl_of_only {α β : Type} {f : α → β → α} {l : List β} {i : β} (hn : l.Nodup) (hi : i ∈ l)
    (h : ∀ a, ∀ j ∈ l, j ≠ i → f a j = a) (a : α) : l.foldl f a = f a i := by
  have hid : ∀ m : List β, (∀ a, ∀ j ∈ m, f a j = a) → ∀ a, m.foldl f a = a := by
    intro m hm
    induction m with
    | nil => exact fun _ => rfl
    | cons x m ih =>
      intro a
      rw [List.foldl_cons, hm a x (List.mem_cons_self ..)]
      exact ih (fun a j hj => hm a j (List.mem_cons_of_mem _ hj)) a
  obtain ⟨l₁, l₂, rfl⟩ := List.append_of_mem hi
  have hd := List.nodup_middle.mp hn
  obtain ⟨hx, -⟩ := List.nodup_cons.mp hd
  have hne (j : β) (hj : j ∈ l₁ ++ l₂) : j ≠ i := fun e => hx (e ▸ hj)
  rw [List.foldl_append, List.foldl_cons,
    hid l₁ (fun a j hj => h a j (List.mem_append_left _ hj) (hne j (List.mem_append_left _ hj))),
    hid l₂ fun a j hj => h a j (List.mem_append_right _ (List.mem_cons_of_mem _ hj)) (hne j (List.mem_append_right _ hj))]

end

end

section
variable {s t : State} {k u : Nat} {sym : BitVec 24} {mis : BitVec 8} {P : State → Prop}

/-! ### PATROL -/

theorem State.patrolRead_countsOnly (s : State) (k u) : s.countsOnly (s.patrolRead k u) [0x200] :=
  State.countsOnly.trans
    (t := { s with stk := tput s.stk k { s.stack k with patrolAt := u + 256, patrolTime := s.lcount } })
    (.of_eq rfl rfl rfl rfl) (State.inc_countsOnly _ (pgMem k) (off := 0x200) (by decide) (by decide))

theorem State.patrolRead_noted (s : State) (k u) : s.noted (s.patrolRead k u) :=
  .trans ⟨_, _, _, _, _, _, _, rfl⟩ (State.count_noted ..)

theorem State.patrolRead_counted (s : State) (k u) : s.countedBy (s.patrolRead k u) (pgMem k) 0x200 1 :=
  State.inc_countedBy { s with stk := tput s.stk k { s.stack k with patrolAt := u + 256, patrolTime := s.lcount } } _ _

theorem State.patrolRead_stack (s : State) (k u j) : (s.patrolRead k u).stack j =
    if j = k then { s.stack k with patrolAt := u + 256, patrolTime := s.lcount } else s.stack j := by
  unfold State.patrolRead
  rw [State.stack_congr (State.inc_stk ..)]
  exact tget_tput ..

theorem State.patrolRead_unit (s : State) (k u p) : (s.patrolRead k u).unit p = s.unit p := State.unit_inc ..

theorem State.corrected_unit (s : State) (k pc p) : (s.corrected k pc).unit p = s.unit p := by
  have hauto (s : State) : (s.autoRetire k pc).unit p = s.unit p := by
    unfold State.autoRetire
    split
    · rfl
    · split
      · rfl
      · exact State.unit_raise ..
  have hfld (n) : ((s.inc (pgMem k) 0x210).setFld (pgMem k) (0x400 + 4 * pc) 0 16 n).unit p = s.unit p := State.unit_inc ..
  unfold State.corrected
  dsimp only
  split
  · rw [hauto, hfld]
  · exact hfld _

/-- A patrol's correction of a word. -/
def State.patrolFix (s : State) (k u i : Nat) : State := (s.inc (pgMem k) 0x220).corrected k (s.place (32 * (u / 32 + i))).1

theorem State.patrolFix_noted (s : State) (k u i) : s.noted (s.patrolFix k u i) :=
  (s.count_noted ..).trans (State.corrected_noted ..)

theorem State.patrolFix_part (s : State) (k u i) : (s.patrolFix k u i).part = s.part :=
  (State.corrected_countsOnly ..).part.trans (State.inc_part ..)

theorem State.patrolFix_unit (s : State) (k u i p) : (s.patrolFix k u i).unit p = s.unit p :=
  (State.corrected_unit ..).trans (State.unit_inc ..)

theorem State.patrolFix_patrolled (s : State) (k u i) : s.countedBy (s.patrolFix k u i) (pgMem k) 0x220 1 :=
  State.countsOnly.countedBy (s.inc_countedBy (pgMem k) 0x220) (.refl s) (State.corrected_countsOnly ..) (by decide) (by decide)

theorem State.patrolFix_corrected (s : State) (k u i) : s.countedBy (s.patrolFix k u i) (pgMem k) 0x210 1 :=
  have hread := s.inc_countsOnly (offs := [0x220]) (pgMem k) (off := 0x220) (by decide) (by decide)
  State.countsOnly.countedBy (State.corrected_counted _ k _) hread (.refl _) (by decide) (by decide)

/-- The three bits of `symbols` that PATROL gives each word of the unit. -/
def patrolSyms (sym : BitVec 24) (i : Nat) : Nat := bitsOf (sym.setWidth 32) (3 * i + 2) (3 * i)

theorem patrolSyms_zero (i : Nat) : patrolSyms 0#24 i = 0 := by simp [patrolSyms, bitsOf]

/-- One symbol in error of the word i alone. -/
theorem patrolSyms_single : ∀ i, i < 8 → ∀ j, j < 8 →
    patrolSyms (BitVec.ofNat 24 (2 ^ (3 * i))) j = if j = i then 1 else 0 := by decide

theorem State.patrolWords_clean (s : State) (k u m) : s.patrolWords k u (patrolSyms 0#24) m = s :=
  List.foldl_fixed' (fun i => by rw [patrolSyms_zero, State.patrolWord_clean]) _

theorem State.patrolWords_single {i : Nat} (hi : i < 8) (hu : u / 32 + i ∉ s.uncorr) (m) :
    s.patrolWords k u (patrolSyms (BitVec.ofNat 24 (2 ^ (3 * i)))) m = s.patrolFix k u i := by
  have hone := patrolSyms_single i hi
  unfold State.patrolWords State.patrolFix
  rw [foldl_of_only List.nodup_range (List.mem_range.mpr hi) fun s j hj hne => by
    rw [hone j (List.mem_range.mp hj), if_neg hne, State.patrolWord_clean]]
  rw [hone i hi, if_pos rfl, State.patrolWord_corrects hu]

/-- PATROL's write back of what its operation gave. -/
def State.patrolWrites (s t : State) : State :=
  { s with
    mem := t.mem, uncorr := t.uncorr, stk := t.stk, quarantine := t.quarantine, lostGranules := t.lostGranules,
    jobs := t.jobs, slots := t.slots, granules := t.granules, orphans := t.orphans, tcache := t.tcache,
    prefixes := t.prefixes, fresh := t.fresh, log := t.log, logOvf := t.logOvf, ret := t.ret, hdrs := t.hdrs,
    ctrs := t.ctrs, regs := t.regs }

theorem exec_patrol {k : BitVec 4} (ht : patrolOp s k.toNat (patrolSyms sym) mis.getLsbD = t) :
    exec (.patrol k sym mis) s = if !s.serves (.patrol k sym mis) then .next s else .next (s.patrolWrites t) := by
  subst ht
  rfl

theorem completes_patrol {k : BitVec 4} (ht : patrolOp s k.toNat (patrolSyms sym) mis.getLsbD = t)
    (h : P (s.patrolWrites t)) : completes (.patrol k sym mis) s P :=
  completes_of_exec (exec_patrol ht) rfl h

theorem exec_patrol_early {k : BitVec 4}
    (h : s.lcount.toNat < (s.stack k.toNat).patrolTime.toNat + bitsOf (s.rd (pgMem k.toNat) 0x050) 15 0) (sym mis) :
    exec (.patrol k sym mis) s = .next s := by
  rw [exec_patrol (patrolOp_early h ..)]
  split <;> rfl

/-- Patrol is due on the stack, and the unit it would read next has no word marked uncorrectable. -/
structure State.patrolDue (s : State) (k u : Nat) : Prop where
  present : k < s.part.nStacks
  running : s.running (pgMem k) = true
  untrained : (s.stack k).retrain = false
  on : (s.rd (pgMem k) 0x040).getLsbD 9 = true
  time : (s.stack k).patrolTime.toNat + bitsOf (s.rd (pgMem k) 0x050) 15 0 ≤ s.lcount.toNat
  next : s.patrolNext k = some u
  good : ∀ w ∈ s.uncorr, w < u / 32 ∨ u / 32 + 8 ≤ w

/-- A patrol whose words read good after their correction does nothing else. -/
theorem patrolOp_good {sym : Nat → Nat} {mis : Nat → Bool} (h : s.patrolDue k u)
    (ht : (s.patrolRead k u).patrolWords k u sym mis = t) (hp : t.part = s.part) (hu : t.uncorr = s.uncorr)
    (hs : t.unit (pgMem k) = s.unit (pgMem k)) : patrolOp s k sym mis = t := by
  obtain ⟨h256, hst⟩ := s.mem_controlUnits (State.mem_of_patrolNext h.next)
  have hrun : s.unit (pgMem k) = .running := by simpa [State.running] using h.running
  have hf : t.stackFault k = false := by
    unfold State.stackFault
    rw [hs, hrun]
    rfl
  rw [patrolOp_reads h.present h.running h.untrained h.on h.time h.next]
  exact State.patrolUnit_good ht ⟨h256, fun x hx => (State.stackOf_congr hp _).trans (hst x hx)⟩ (hu ▸ h.good) hf

theorem patrolOp_clean (h : s.patrolDue k u) (mis) : patrolOp s k (patrolSyms 0#24) mis = s.patrolRead k u :=
  patrolOp_good h (State.patrolWords_clean ..) (s.patrolRead_countsOnly k u).part (s.patrolRead_noted k u).uncorr
    (s.patrolRead_unit ..)

theorem patrolOp_single {i : Nat} (h : s.patrolDue k u) (hi : i < 8) (mis) :
    patrolOp s k (patrolSyms (BitVec.ofNat 24 (2 ^ (3 * i)))) mis = (s.patrolRead k u).patrolFix k u i := by
  have hr := (s.patrolRead_noted k u).uncorr
  have hword : u / 32 + i ∉ (s.patrolRead k u).uncorr := fun hm => by
    have := h.good _ (hr ▸ hm)
    omega
  exact patrolOp_good h (State.patrolWords_single hi hword mis)
    ((State.patrolFix_part ..).trans (s.patrolRead_countsOnly k u).part)
    ((State.patrolFix_noted ..).uncorr.trans hr) ((State.patrolFix_unit ..).trans (s.patrolRead_unit ..))

/-! ### The halving of the error counts (R282) -/

/-- MEM_PCERRj with its count halved. -/
def halfCorr (w : W) : W := if bitsOf w 15 0 = 0 then w else setField w 0 16 (bitsOf w 15 0 / 2)

theorem bitsOf_lt {n : Nat} (w : BitVec n) (hi lo : Nat) : bitsOf w hi lo < 2 ^ (hi + 1 - lo) := Nat.mod_lt _ (Nat.two_pow_pos _)

theorem bitsOf_halfCorr (w : W) : bitsOf (halfCorr w) 15 0 = bitsOf w 15 0 / 2 ∧ bitsOf (halfCorr w) 31 16 = bitsOf w 31 16 := by
  have hlt := bitsOf_lt w 15 0
  unfold halfCorr
  split
  · next h => exact ⟨by omega, rfl⟩
  · exact ⟨bitsOf_setField_same w (by decide) (by decide) (by omega), bitsOf_setField_other w (by decide) (by decide)⟩

/-- The count of one register is halved. -/
def State.halveReg (s : State) (a : Nat) : State :=
  if bitsOf (s.reg a) 15 0 = 0 then s else s.setReg a (setField (s.reg a) 0 16 (bitsOf (s.reg a) 15 0 / 2))

theorem State.reg_halveReg (s : State) (a b) : (s.halveReg a).reg b = if b = a then halfCorr (s.reg a) else s.reg b := by
  unfold State.halveReg halfCorr
  split
  · split
    · next h => rw [h]
    · rfl
  · exact State.reg_setReg ..

/-- The registers of the error counts of the stacks of the part. -/
def State.corrRegs (s : State) : List Nat :=
  (List.range s.part.nStacks).flatMap fun k => (List.range 64).map fun j => regAt (pgMem k) (0x400 + 4 * j)

theorem State.corrRegs_nodup (s : State) : s.corrRegs.Nodup := by
  refine List.nodup_flatMap.mpr ⟨fun k _ => List.nodup_range.map fun i j h => ?_, List.nodup_range.imp fun hne => ?_⟩
  · unfold regAt at h
    omega
  · intro a ha hb
    simp only [List.mem_map, List.mem_range] at ha hb
    obtain ⟨i, hi, rfl⟩ := ha
    obtain ⟨j, hj, h⟩ := hb
    unfold regAt pgMem at h
    omega

theorem State.mem_corrRegs {k j : Nat} (hk : k < s.part.nStacks) (hj : j < 64) : regAt (pgMem k) (0x400 + 4 * j) ∈ s.corrRegs :=
  List.mem_flatMap.mpr ⟨k, List.mem_range.mpr hk, List.mem_map.mpr ⟨j, List.mem_range.mpr hj, rfl⟩⟩

theorem State.reg_foldl_halveReg {l : List Nat} (hl : l.Nodup) (s : State) (a : Nat) :
    (l.foldl State.halveReg s).reg a = if a ∈ l then halfCorr (s.reg a) else s.reg a := by
  induction l generalizing s with
  | nil => rfl
  | cons x l ih =>
    obtain ⟨hx, hl⟩ := List.nodup_cons.mp hl
    rw [List.foldl_cons, ih hl, State.reg_halveReg]
    by_cases ha : a = x
    · subst ha
      simp [hx]
    · simp [ha]

theorem State.foldl_halveReg_kept (l : List Nat) (s : State) :
    (l.foldl State.halveReg s).part = s.part ∧ (l.foldl State.halveReg s).halvedAt = s.halvedAt := by
  refine List.foldlRecOn (motive := fun (t : State) => t.part = s.part ∧ t.halvedAt = s.halvedAt) l _ ⟨rfl, rfl⟩
    fun t ht a _ => ?_
  unfold State.halveReg
  split
  · exact ht
  · exact ht

/-- The next halving is a period later. -/
def State.halvingNoted (s : State) : State := { s with halvedAt := s.halvedAt + 0x40000000#64 }

theorem State.halvingNoted_reg (s : State) (a) : s.halvingNoted.reg a = s.reg a := by
  unfold State.halvingNoted State.reg
  dsimp only

theorem corrHalvingOp_early (h : s.lcount.toNat < s.halvedAt.toNat + 2 ^ 30) : corrHalvingOp s = s := if_pos h

theorem corrHalvingOp_due (h : s.halvedAt.toNat + 2 ^ 30 ≤ s.lcount.toNat) :
    corrHalvingOp s = s.corrRegs.foldl State.halveReg s.halvingNoted := by
  unfold corrHalvingOp State.corrRegs
  rw [if_neg (by omega), List.foldl_flatMap]
  simp only [List.foldl_map]
  rfl

/-- CORR_HALVING's write back of what its operation gave. -/
def State.halvingWrites (s t : State) : State := { s with halvedAt := t.halvedAt, regs := t.regs, ret := t.ret }

theorem exec_corrHalving (ht : corrHalvingOp s = t) :
    exec .corrHalving s = if !s.serves .corrHalving then .next s else .next (s.halvingWrites t) := by
  subst ht
  rfl

theorem exec_corrHalving_early (h : s.lcount.toNat < s.halvedAt.toNat + 2 ^ 30) : exec .corrHalving s = .next s := by
  rw [exec_corrHalving (corrHalvingOp_early h)]
  split <;> rfl

theorem completes_corrHalving (h : s.halvedAt.toNat + 2 ^ 30 ≤ s.lcount.toNat) : completes .corrHalving s fun t =>
    t.halvedAt = s.halvedAt + 0x40000000#64 ∧ ∀ k j, k < s.part.nStacks → j < 64 →
      bitsOf (t.rd (pgMem k) (0x400 + 4 * j)) 15 0 = bitsOf (s.rd (pgMem k) (0x400 + 4 * j)) 15 0 / 2 ∧
      bitsOf (t.rd (pgMem k) (0x400 + 4 * j)) 31 16 = bitsOf (s.rd (pgMem k) (0x400 + 4 * j)) 31 16 := by
  obtain ⟨hpart, hat⟩ := State.foldl_halveReg_kept s.corrRegs s.halvingNoted
  have hreg := State.reg_foldl_halveReg s.corrRegs_nodup s.halvingNoted
  have hop := corrHalvingOp_due h
  generalize s.corrRegs.foldl State.halveReg s.halvingNoted = t at hpart hat hreg hop
  refine completes_of_exec (exec_corrHalving hop) rfl ⟨hat, fun k j hk hj => ?_⟩
  have hrd : (s.halvingWrites t).rd (pgMem k) (0x400 + 4 * j) = halfCorr (s.rd (pgMem k) (0x400 + 4 * j)) := by
    refine (State.reg_congr (s := t) (t := s.halvingWrites t) rfl hpart.symm _).trans ?_
    rw [hreg, if_pos (State.mem_corrRegs hk hj)]
    exact congrArg halfCorr (s.halvingNoted_reg _)
  rw [hrd]
  exact bitsOf_halfCorr _

end

section
variable {s t : State} {addr : BitVec 40} {req : Sys2Proof.Requester} {n : BitVec 3} {mis : Bool} {par : BitVec 2}

/-! ### The cases of STACK_READ_DONE -/

theorem State.sameUnits_readWrites (hp : t.part = s.part) (h : sameUnits s t) : sameUnits s (s.readWrites t) :=
  fun p => (State.unit_congr (s := t) (t := s.readWrites t) rfl hp.symm p).trans (h p)

/-- A word that is good, on a stack that is not in FAULT, read with at most one parity error. -/
structure State.readGood (s : State) (addr : BitVec 40) (par : BitVec 2) : Prop where
  below : addr.toNat < s.top
  alive : s.stackFault (s.stackOf addr.toNat) = false
  unmarked : s.uncorr.contains (addr.toNat / 32) = false
  parity : par.toNat < 2

theorem completes_stackReadDone_clean (h : s.readGood addr par) (req mis) :
    completes (.stackReadDone addr req 0#3 ⟨mis, par⟩) s fun t =>
      s.countedBy t (pgMem (s.stackOf addr.toNat)) 0x200 1 ∧
      s.countedBy t (pgMem (s.stackOf addr.toNat)) 0x228 par.toNat ∧ t.mem = s.mem ∧ t.uncorr = s.uncorr ∧ t.stk = s.stk ∧
      t.jobs = s.jobs ∧ t.slots = s.slots ∧ sameUnits s t := by
  have hop := stackReadDoneOp_good (req := req) (n := (0#3).toNat) (mis := mis) h.below rfl h.unmarked h.alive h.parity
  rw [if_pos (by decide)] at hop
  have hn := s.readCounted_noted (s.stackOf addr.toNat) par.toNat
  exact completes_stackReadDone hop ⟨(s.readCounted_reads _ _).congr rfl rfl, (s.readCounted_retries _ h.parity).congr rfl rfl,
    hn.mem, hn.uncorr, s.readCounted_stk .., hn.jobs, hn.slots,
    State.sameUnits_readWrites (s.readCounted_countsOnly ..).part (s.readCounted_unit _ _)⟩

theorem completes_stackReadDone_corrected (h : s.readGood addr par) (req mis) :
    completes (.stackReadDone addr req 1#3 ⟨mis, par⟩) s fun t =>
      s.countedBy t (pgMem (s.stackOf addr.toNat)) 0x200 1 ∧
      s.countedBy t (pgMem (s.stackOf addr.toNat)) 0x228 par.toNat ∧
      s.countedBy t (pgMem (s.stackOf addr.toNat)) 0x210 1 ∧ t.mem = s.mem ∧ t.uncorr = s.uncorr ∧ t.jobs = s.jobs ∧
      t.slots = s.slots ∧
      bitsOf (t.rd (pgMem (s.stackOf addr.toNat)) (0x400 + 4 * (s.place addr.toNat).1)) 15 0 =
        s.corrNext (s.stackOf addr.toNat) (s.place addr.toNat).1 := by
  have hop := stackReadDoneOp_good (req := req) (n := (1#3).toNat) (mis := mis) h.below rfl h.unmarked h.alive h.parity
  rw [if_neg (by decide), if_neg (by decide), State.readCounted_place] at hop
  generalize s.stackOf addr.toNat = k at hop ⊢
  generalize (s.place addr.toNat).1 = pc at hop ⊢
  have hr := s.readCounted_countsOnly k par.toNat
  have hc := (s.readCounted k par.toNat).corrected_countsOnly k pc
  have hn := (s.readCounted_noted k par.toNat).trans (State.corrected_noted _ k pc)
  have hreads : s.countedBy ((s.readCounted k par.toNat).corrected k pc) (pgMem k) 0x200 1 :=
    (s.readCounted_reads k _).congr rfl (hc.ctrs (pgMem k) 0x200 (by decide) (by decide))
  have hretries : s.countedBy ((s.readCounted k par.toNat).corrected k pc) (pgMem k) 0x228 par.toNat :=
    (s.readCounted_retries k h.parity).congr rfl (hc.ctrs (pgMem k) 0x228 (by decide) (by decide))
  have hcorrected : s.countedBy ((s.readCounted k par.toNat).corrected k pc) (pgMem k) 0x210 1 :=
    (State.corrected_counted _ k pc).congr (hr.ctrs (pgMem k) 0x210 (by decide) (by decide)).symm rfl
  refine completes_stackReadDone hop ⟨hreads.congr rfl rfl, hretries.congr rfl rfl, hcorrected.congr rfl rfl, hn.mem, hn.uncorr,
    hn.jobs, hn.slots, ?_⟩
  have hrd := State.reg_congr (s := (s.readCounted k par.toNat).corrected k pc)
    (t := s.readWrites ((s.readCounted k par.toNat).corrected k pc)) rfl (hc.part.trans hr.part).symm
    (regAt (pgMem k) (0x400 + 4 * pc))
  have hnext : (s.readCounted k par.toNat).corrNext k pc = s.corrNext k pc := by
    unfold State.corrNext
    rw [State.readCounted_rd _ _ _ (regAt_pgMem_ne_top _ _)]
  exact (congrArg (bitsOf · 15 0) hrd).trans ((State.corrected_corr ..).trans hnext)

/-- What an uncorrectable read leaves where its address lies in no frame and its requester writes no table. -/
theorem State.readFails_outside {a : Nat} {bad : Bool} (h : Requester.cls req ∉ [4, 7, 10]) (hf : s.frameAt a = none)
    (parity : Nat) (ht : s.readFails a req parity bad = t) :
    t.slots = s.slots ∧
    ((s.stack (s.stackOf a)).ucq.length < 16 → (t.stack (s.stackOf a)).ucq = (s.stack (s.stackOf a)).ucq ++
      [{ addr := BitVec.ofNat 40 a, cls := BitVec.ofNat 4 (Requester.cls req) }]) ∧
    (bad = false → t.mem = s.mem) ∧
    (Memory.wf s.mem = true → ∀ y, y / 32 ≠ a / 32 → mget t.mem y = mget s.mem y) ∧
    (bad = true → s.stackFault (s.stackOf a) = false → a / 32 ∈ t.uncorr) := by
  obtain ⟨hmem, hunc, hstk, hslots⟩ := ht ▸ State.readFails_sameStacks h hf parity bad
  obtain ⟨-, hs, -⟩ := s.readRecorded_work a req parity bad
  have hn := (s.readBad (s.stackOf a) parity bad (a / 32)).uncRecord_noted a (Requester.cls req)
  refine ⟨hslots.trans hs, fun hroom => ?_, fun hb => ?_, fun hwf y hy => ?_, fun hb hfault => ?_⟩
  · rw [State.stack_congr hstk, State.readRecorded_ucq hroom]
  · subst hb
    exact hmem.trans (hn.mem.trans (State.readBad_good ..))
  · rw [hmem]
    exact (congrArg (mget · y) hn.mem).trans (State.readBad_mem_other hwf hy ..)
  · subst hb
    have hpage : s.stackOf (32 * (a / 32)) = s.stackOf a := by
      unfold State.stackOf
      rw [show 32 * (a / 32) / 4096 = a / 4096 by omega]
    rw [hunc, State.readRecorded, hn.uncorr]
    exact State.readBad_marked (by rw [hpage]; exact hfault) ..

theorem completes_stackReadDone_uncorrectable (ha : addr.toNat < s.top)
    (h : uncorrectable n.toNat mis = true ∨ s.uncorr.contains (addr.toNat / 32) = true ∨
      s.stackFault (s.stackOf addr.toNat) = true ∨ 2 ≤ par.toNat) (req) :
    completes (.stackReadDone addr req n ⟨mis, par⟩) s fun t =>
      s.countedBy t (pgMem (s.stackOf addr.toNat)) 0x218 1 ∧ t.event (pgMem (s.stackOf addr.toNat)) 1 = true ∧
      (Requester.cls req ∉ [4, 7, 10] → s.frameAt addr.toNat = none → t.slots = s.slots ∧
        ((s.stack (s.stackOf addr.toNat)).ucq.length < 16 → (t.stack (s.stackOf addr.toNat)).ucq =
          (s.stack (s.stackOf addr.toNat)).ucq ++ [{ addr := addr, cls := BitVec.ofNat 4 (Requester.cls req) }]) ∧
        (uncorrectable n.toNat mis = false → t.mem = s.mem) ∧
        (Memory.wf s.mem = true → ∀ y, y / 32 ≠ addr.toNat / 32 → mget t.mem y = mget s.mem y) ∧
        (uncorrectable n.toNat mis = true → s.stackFault (s.stackOf addr.toNat) = false → addr.toNat / 32 ∈ t.uncorr)) ∧
      (∀ f, s.frameAt addr.toNat = some f → ∀ e ∈ t.prefixes, e.2.frame.toNat ≠ f) ∧
      (∀ f v, req = .form f → tget? s.forms f = some v → t.jobs = (s.failForm v.desc cMem).jobs) ∧
      (∀ j, req = .update j → (s.job j.toNat).isTrain = true → (s.job j.toNat).cur.isSome = true →
        (t.job j.toNat).train.uncorrFail = true) := by
  refine completes_stackReadDone (stackReadDoneOp_fails ha h) ⟨(s.readFails_counted _ _ _ _).congr rfl rfl, s.readFails_event ..,
    fun hc hf => ?_, fun f hf => State.readFails_prefixes hf _ _, ?_, ?_⟩
  · have hout := State.readFails_outside hc hf par.toNat (bad := uncorrectable n.toNat mis) rfl
    rw [BitVec.ofNat_toNat, BitVec.setWidth_eq] at hout
    exact hout
  · rintro f v rfl hv
    exact State.readFails_form hv ..
  · rintro j rfl htrain hcur
    exact State.readFails_update htrain hcur ..

/-! ### The cases of PATROL -/

theorem completes_patrol_clean {k : BitVec 4} {u : Nat} (h : s.patrolDue k.toNat u) (mis : BitVec 8) :
    completes (.patrol k 0#24 mis) s fun t => s.countedBy t (pgMem k.toNat) 0x200 1 ∧ t.mem = s.mem ∧
      t.uncorr = s.uncorr ∧ t.jobs = s.jobs ∧
      t.stack k.toNat = { s.stack k.toNat with patrolAt := u + 256, patrolTime := s.lcount } ∧
      ∀ j, j ≠ k.toNat → t.stack j = s.stack j := by
  have hn := s.patrolRead_noted k.toNat u
  have hstack (j) : (s.patrolWrites (s.patrolRead k.toNat u)).stack j = _ := s.patrolRead_stack k.toNat u j
  exact completes_patrol (patrolOp_clean h _) ⟨(s.patrolRead_counted _ _).congr rfl rfl, hn.mem, hn.uncorr, hn.jobs,
    by rw [hstack, if_pos rfl], fun j hj => by rw [hstack, if_neg hj]⟩

theorem completes_patrol_corrects {k : BitVec 4} {u i : Nat} (h : s.patrolDue k.toNat u) (hi : i < 8) (mis : BitVec 8) :
    completes (.patrol k (BitVec.ofNat 24 (2 ^ (3 * i))) mis) s fun t => s.countedBy t (pgMem k.toNat) 0x220 1 ∧
      s.countedBy t (pgMem k.toNat) 0x210 1 ∧ t.mem = s.mem ∧ t.uncorr = s.uncorr ∧ t.jobs = s.jobs := by
  have hr := s.patrolRead_countsOnly k.toNat u
  have hn := (s.patrolRead_noted k.toNat u).trans (State.patrolFix_noted _ k.toNat u i)
  exact completes_patrol (patrolOp_single h hi _)
    ⟨(State.patrolFix_patrolled _ k.toNat u i).congr (hr.ctrs (pgMem k.toNat) 0x220 (by decide) (by decide)).symm rfl,
      (State.patrolFix_corrected _ k.toNat u i).congr (hr.ctrs (pgMem k.toNat) 0x210 (by decide) (by decide)).symm rfl, hn.mem, hn.uncorr, hn.jobs⟩

end

end Sys2Proof.Machine

open Sys2Proof Sys2Proof.Machine in
/-- Settles O44: a read fails exactly where its symbols, its word's mark, its stack or its parity say so, and then it is
recorded before its requester acts; a patrol of good words is a fold that does nothing but where a symbol is in error; the
halving is a fold over registers that differ. -/
theorem stackReadsAndPatrolCountAndRecordErrors : Obligations.StackReadsAndPatrolCountAndRecordErrors := by
  refine ⟨?_, ?_, fun s => ⟨exec_corrHalving_early, completes_corrHalving⟩⟩
  · rintro s addr req n mis par _ _ rfl rfl
    refine ⟨exec_stackReadDone_beyond, fun ha hf hu hp => ⟨?_, ?_⟩, fun ha h => completes_stackReadDone_uncorrectable ha h req⟩
    · rintro rfl
      exact completes_stackReadDone_clean ⟨ha, hf, hu, hp⟩ req mis
    · rintro rfl
      exact completes_stackReadDone_corrected ⟨ha, hf, hu, hp⟩ req mis
  · refine fun s k mis sym => ⟨fun h => exec_patrol_early h sym mis, fun u hk hrun htrain hon hdue hnext hgood => ?_⟩
    have h : s.patrolDue k.toNat u := ⟨hk, hrun, htrain, hon, hdue, hnext, hgood⟩
    refine ⟨?_, fun i hi => ?_⟩
    · rintro rfl
      exact completes_patrol_clean h mis
    · rintro rfl
      exact completes_patrol_corrects h hi mis

/-! PROOFS. Direct accesses: the host port's window and the register port's (O43; R164, R272, R276, R381, R388). -/

namespace Sys2Proof.Machine

section
variable {s t : State} {a : Nat} {P : State → Prop}

/-! ### A refused access and an uncorrectable read -/

theorem State.directRefuse_noted (s : State) (a) : s.noted (s.directRefuse a) :=
  (s.setFld_noted ..).trans (.ite ((State.count_noted ..).trans (State.raise_noted ..)) (State.count_noted ..))

theorem State.directRefuse_countsOnly (s : State) (a) : s.countsOnly (s.directRefuse a) [0x300] :=
  (s.setFlag_countsOnly 1).trans (.ite (State.regFault_countsOnly _ (by decide))
    (State.inc_countsOnly _ 0x030 (by decide) (by decide)))

/-- The flag that a bit of HOST_DACC_STAT is. -/
theorem State.setFlag_set (s : State) {b : Nat} (h : b < 32) :
    ((s.setFld pgHost 0x054 b 1 1).rd pgHost 0x054).getLsbD b = true := by
  rw [State.rd_setFld_same, getLsbD_setField _ _ _ _ h, if_pos (by omega), Nat.sub_self]
  rfl

theorem State.directRefuse_flag (s : State) (a) : ((s.directRefuse a).rd pgHost 0x054).getLsbD 1 = true := by
  have hrest : (s.setFld pgHost 0x054 1 1 1).countsOnly (s.directRefuse a) [0x300] :=
    .ite (State.regFault_countsOnly _ (by decide)) (State.inc_countsOnly _ 0x030 (by decide) (by decide))
  exact hrest.flags 1 (s.setFlag_set (by decide))

theorem State.directRefuse_counted (s : State) (a) : s.countedBy (s.directRefuse a) 0x030 0x300 1 := by
  have h : s.countedBy ((s.setFld pgHost 0x054 1 1 1).inc 0x030 0x300) 0x030 0x300 1 :=
    (State.inc_countedBy (s.setFld pgHost 0x054 1 1 1) 0x030 0x300).congr rfl rfl
  unfold State.directRefuse
  dsimp only
  split
  · exact h.congr rfl rfl
  · exact h

theorem State.directRefuse_event (h : s.top ≤ a) : (s.directRefuse a).event 0x030 8 = true := by
  have htop : (s.setFld pgHost 0x054 1 1 1).top = s.top := by
    have hrd (j : Nat) : (s.setFld pgHost 0x054 1 1 1).rd (pgMem j) 0x040 = s.rd (pgMem j) 0x040 := by
      unfold State.setFld
      rw [State.rd_wr, if_neg (by unfold regAt pgMem pgHost; omega)]
    unfold State.top State.stackCap State.capCode
    simp only [hrd]
    rfl
  unfold State.directRefuse
  dsimp only
  rw [if_pos (htop ▸ h)]
  exact State.event_raise_same _ 0x030 8 (by decide)

/-- The record of an uncorrectable direct read, before the frame's prefix entry goes. -/
def State.directNoted (s : State) (a n : Nat) : State := (s.setFld pgHost 0x054 0 1 1).uncRange a n 6

theorem State.directNoted_noted (s : State) (a n) : s.noted (s.directNoted a n) :=
  (s.setFld_noted ..).trans (State.uncRange_noted ..)

theorem State.directNoted_countsOnly (s : State) (a n) : s.countsOnly (s.directNoted a n) [0x218, 0x238] :=
  (s.setFlag_countsOnly 0).trans (State.uncRange_countsOnly _ (by decide) (by decide) ..)

theorem State.directUnc_eq (s : State) (a n) : s.directUnc a n = (s.directNoted a n).frameWays a := rfl

theorem State.directUnc_countsOnly (s : State) (a n) : s.countsOnly (s.directUnc a n) (0x218 :: tableCtrs) :=
  ((s.directNoted_countsOnly a n).mono (by decide)).trans ((State.frameWays_countsOnly ..).mono (by decide))

theorem State.directUnc_flag (s : State) (a n) : ((s.directUnc a n).rd pgHost 0x054).getLsbD 0 = true := by
  have hrest : (s.setFld pgHost 0x054 0 1 1).countsOnly (s.directUnc a n) (0x218 :: tableCtrs) :=
    (State.uncRange_countsOnly _ (by decide) (by decide) ..).trans ((State.frameWays_countsOnly ..).mono (by decide))
  exact hrest.flags 0 (s.setFlag_set (by decide))

theorem State.directNoted_frameAt (s : State) (a n) : (s.directNoted a n).frameAt a = s.frameAt a :=
  (s.directNoted_countsOnly a n).frameAt a

/-- Outside every frame no byte and no mark changes. -/
theorem State.directUnc_mem (h : s.frameAt a = none) (n) :
    (s.directUnc a n).mem = s.mem ∧ (s.directUnc a n).uncorr = s.uncorr := by
  rw [State.directUnc_eq, State.frameWays_none _ ((s.directNoted_frameAt a n).trans h)]
  exact ⟨(s.directNoted_noted a n).mem, (s.directNoted_noted a n).uncorr⟩

theorem State.directUnc_prefixes {f : Nat} (h : s.frameAt a = some f) (n) :
    ∀ e ∈ (s.directUnc a n).prefixes, e.2.frame.toNat ≠ f :=
  State.frameWays_prefixes _ ((s.directNoted_frameAt a n).trans h)

/-! ### Stores on stacks that are not in FAULT -/

theorem store_fold_eq_mwrite {f : Nat → Bool} {bs : List Byte} {k : Nat}
    (h : ∀ i, k ≤ i → i < k + bs.length → f (a + i) = false) (m : Mem) :
    (bs.zipIdx k).foldl (fun m (b, i) => if f (a + i) then m else mset m (a + i) b) m = mwrite m (a + k) bs := by
  induction bs generalizing k m with
  | nil => rfl
  | cons b bs ih =>
    rw [List.length_cons] at h
    rw [List.zipIdx_cons, List.foldl_cons, ih fun i hi hi' => h i (by omega) (by omega)]
    dsimp only
    rw [h k (by omega) (by omega), mwrite, Nat.add_assoc]
    rfl

theorem State.store_mem_eq_mwrite {bs : List Byte} (h : ∀ i, i < bs.length → s.stackFault (s.stackOf (a + i)) = false) :
    (s.store_ a bs).mem = mwrite s.mem a bs :=
  store_fold_eq_mwrite (f := fun x => s.stackFault (s.stackOf x)) (fun i _ hi => h i (by omega)) s.mem

theorem State.wrCount_mem (s : State) (a n) : (s.wrCount a n).mem = s.mem := by
  have hn : s.noted (s.wrCount a n) := .ite (.refl s) (.foldl (fun s _ => s.count_noted ..) _ s)
  exact hn.mem

/-- A byte of a host-port write is stored where it is enabled. -/
def State.storeByte (s : State) (a : Nat) (be : BitVec 128) (b : Byte) (i : Nat) : State :=
  if be.getLsbD i then s.store_ (a + i) [b] else s

theorem State.storeByte_fault (s : State) (a be b i x) :
    (s.storeByte a be b i).stackFault ((s.storeByte a be b i).stackOf x) = s.stackFault (s.stackOf x) := by
  unfold State.storeByte
  split <;> rfl

theorem State.storeByte_mem_wf (h : Memory.wf s.mem = true) (a be b i) : Memory.wf (s.storeByte a be b i).mem = true := by
  unfold State.storeByte
  split
  · exact State.store_mem_wf s _ _ h
  · exact h

theorem State.mget_storeByte {be : BitVec 128} {i : Nat} (hwf : Memory.wf s.mem = true)
    (h : s.stackFault (s.stackOf (a + i)) = false) (b : Byte) (y : Nat) :
    mget (s.storeByte a be b i).mem y = if y = a + i ∧ be.getLsbD i = true then b else mget s.mem y := by
  unfold State.storeByte
  split
  · next hbe =>
    have hm : (s.store_ (a + i) [b]).mem = mset s.mem (a + i) b := State.store_mem_eq_mwrite fun j hj => by
      obtain rfl : j = 0 := by rw [List.length_singleton] at hj; omega
      exact h
    rw [hm]
    by_cases hy : y = a + i
    · rw [hy, mget_mset_same _ _ _ hwf, if_pos ⟨rfl, hbe⟩]
    · rw [mget_mset_other _ _ _ _ hwf hy, if_neg fun hc => hy hc.1]
  · next hbe => rw [if_neg fun hc => hbe hc.2]

/-- The bytes a host-port write enables, from the place k of the block on. -/
def storeEnabledFrom (s : State) (a : Nat) (be : BitVec 128) (bs : List Byte) (k : Nat) : State :=
  (bs.zipIdx k).foldl (fun s (b, i) => s.storeByte a be b i) s

theorem storeEnabled_eq (s : State) (a be bs) : storeEnabled s a be bs = storeEnabledFrom s a be bs 0 := rfl

/-- Each enabled byte is stored, and no other byte changes. -/
theorem mget_storeEnabledFrom {be : BitVec 128} {bs : List Byte} {k : Nat} (hwf : Memory.wf s.mem = true)
    (h : ∀ i, k ≤ i → i < k + bs.length → s.stackFault (s.stackOf (a + i)) = false) (y : Nat) :
    mget (storeEnabledFrom s a be bs k).mem y =
      if a + k ≤ y ∧ y < a + k + bs.length ∧ be.getLsbD (y - a) = true then bs.getD (y - (a + k)) 0#8 else mget s.mem y := by
  induction bs generalizing s k with
  | nil => exact (if_neg fun ⟨h1, h2, _⟩ => by rw [List.length_nil] at h2; omega).symm
  | cons b bs ih =>
    rw [List.length_cons] at h ⊢
    have hrest := ih (s := s.storeByte a be b k) (k := k + 1) (s.storeByte_mem_wf hwf a be b k)
      fun i h1 h2 => (s.storeByte_fault ..).trans (h i (by omega) (by omega))
    refine hrest.trans ?_
    rw [State.mget_storeByte hwf (h k (Nat.le_refl k) (by omega))]
    by_cases hy : y = a + k
    · subst hy
      rw [if_neg (by omega), Nat.add_sub_cancel_left, Nat.sub_self]
      by_cases hbe : be.getLsbD k = true
      · rw [if_pos ⟨rfl, hbe⟩, if_pos ⟨Nat.le_refl _, by omega, hbe⟩, List.getD_cons_zero]
      · rw [if_neg fun hc => hbe hc.2, if_neg fun hc => hbe hc.2.2]
    · rw [if_neg (c := y = a + k ∧ be.getLsbD k = true) fun hc => hy hc.1]
      by_cases hin : a + (k + 1) ≤ y ∧ y < a + (k + 1) + bs.length ∧ be.getLsbD (y - a) = true
      · rw [if_pos hin, if_pos ⟨by omega, by omega, hin.2.2⟩, show y - (a + k) = y - (a + (k + 1)) + 1 by omega,
          List.getD_cons_succ]
      · rw [if_neg hin, if_neg fun hc => hin ⟨by omega, by omega, hc.2.2⟩]

theorem getD_leBytes {n i : Nat} (x : Nat) (h : i < n) : (leBytes n x).getD i 0#8 = BitVec.ofNat 8 (x / 256 ^ i) := by
  rw [List.getD_eq_getElem _ _ (by rw [leBytes_length]; exact h)]
  simp [leBytes]

/-- The byte i of a word's little-endian bytes is its bits 8i+7 to 8i. -/
theorem ofNat_bitsOf_byte {n : Nat} (x : BitVec n) (i : Nat) :
    BitVec.ofNat 8 (x.toNat / 256 ^ i) = BitVec.ofNat 8 (bitsOf x (8 * i + 7) (8 * i)) := by
  apply BitVec.eq_of_toNat_eq
  unfold bitsOf
  rw [BitVec.toNat_ofNat, BitVec.toNat_ofNat, show 8 * i + 7 + 1 - 8 * i = 8 by omega, Nat.mod_mod, Nat.pow_mul]

/-- A block of 128 bytes lies on one stack. -/
theorem State.stackOf_block (s : State) (n : Nat) {i : Nat} (hi : i < 128) :
    s.stackOf (n / 128 * 128 + i) = s.stackOf (n / 128 * 128) := by
  unfold State.stackOf
  rw [show (n / 128 * 128 + i) / 4096 = n / 128 * 128 / 4096 by omega]

/-! ### The host port's window -/

/-- The 128-byte block that a request names. -/
def HwReq.block (r : HwReq) : Nat := r.addr.toNat / 128 * 128

/-- R388 and R276 refuse the request. -/
def State.windowRefuses (s : State) (r : HwReq) : Prop :=
  r.priv = false ∨ (s.rd pgHost 0x040).getLsbD 16 = false ∨ s.running pgHost = false ∨ s.top < r.block + 128 ∨
    (r.we = true ∧ (s.directWriteOk r.block 128 = false ∨ s.stackFault (s.stackOf r.block) = true))

theorem State.windowRefuses_iff (s : State) (r : HwReq) : s.windowRefuses r ↔
    (!r.priv) = true ∨ (!(s.rd pgHost 0x040).getLsbD 16) = true ∨ (!s.running pgHost) = true ∨ s.top < r.block + 128 ∨
      (r.we = true ∧ ((!s.directWriteOk r.block 128) = true ∨ s.stackFault (s.stackOf r.block) = true)) := by
  simp only [State.windowRefuses, Bool.not_eq_true']

theorem State.not_windowRefuses {r : HwReq} (hpriv : r.priv = true) (hon : (s.rd pgHost 0x040).getLsbD 16 = true)
    (hrun : s.running pgHost = true) (htop : r.block + 128 ≤ s.top)
    (hw : r.we = true → s.directWriteOk r.block 128 = true ∧ s.stackFault (s.stackOf r.block) = false) :
    ¬s.windowRefuses r := by
  rintro (h | h | h | h | ⟨hwe, h⟩)
  · exact absurd (h.symm.trans hpriv) (by decide)
  · exact absurd (h.symm.trans hon) (by decide)
  · exact absurd (h.symm.trans hrun) (by decide)
  · omega
  · obtain ⟨hok, hf⟩ := hw hwe
    rcases h with h | h
    · exact absurd (h.symm.trans hok) (by decide)
    · exact absurd (h.symm.trans hf) (by decide)

/-- The host port's answer: its data and its status. -/
def State.hwAnswer (s : State) (data : BitVec 1024) (stat : BitVec 2) : State := { s with hwData := data, hwStat := stat }

theorem State.answerHw_refused {r : HwReq} (h : s.windowRefuses r) :
    s.answerHw r = (s.directRefuse r.block).hwAnswer 0#1024 2#2 :=
  if_pos ((s.windowRefuses_iff r).mp h)

theorem State.answerHw_write {r : HwReq} (h : ¬s.windowRefuses r) (hw : r.we = true) : s.answerHw r =
    ((storeEnabled s r.block r.be (leBytes 128 r.data.toNat)).wrCount r.block 128).hwAnswer 0#1024 0#2 :=
  (if_neg (mt (s.windowRefuses_iff r).mpr h)).trans (if_pos hw)

theorem State.answerHw_read {r : HwReq} (h : ¬s.windowRefuses r) (hw : r.we = false) : s.answerHw r =
    if s.uncIn r.block 128 then (s.directUnc r.block 128).hwAnswer (BitVec.ofNat 1024 (ofLe (s.stored r.block 128))) 1#2
    else s.hwAnswer (BitVec.ofNat 1024 (ofLe (s.stored r.block 128))) 0#2 :=
  (if_neg (mt (s.windowRefuses_iff r).mpr h)).trans (if_neg (by rw [hw]; decide))

section
variable {we priv : Bool} {addr : BitVec 40} {be : BitVec 128} {x : BitVec 1024}

theorem directWindowOp_waits (h : s.hwQ ≠ [] ∨ (s.stack (s.stackOf addr.toNat)).retrain = true) (hroom : s.hwQ.length < 16) :
    directWindowOp s we priv addr be x =
      { s with hwQ := s.hwQ ++ [{ we := we, priv := priv, addr := addr, be := be, data := x }] } := by
  refine (if_neg ?_).trans (if_pos hroom)
  rintro ⟨hq, hw⟩
  rcases h with h | h
  · exact h hq
  · rw [State.hwWaits, h] at hw
    cases hw

theorem directWindowOp_answers (hq : s.hwQ = []) (hw : (s.stack (s.stackOf addr.toNat)).retrain = false) :
    directWindowOp s we priv addr be x = s.answerHw { we := we, priv := priv, addr := addr, be := be, data := x } :=
  if_pos ⟨hq, by rw [State.hwWaits, hw]; rfl⟩

/-- DIRECT_WINDOW_REQUEST's write back of what its operation gave. -/
def State.windowWrites (s t : State) : State :=
  { s with
    mem := t.mem, uncorr := t.uncorr, prefixes := t.prefixes, regs := t.regs, hdrs := t.hdrs, ctrs := t.ctrs, ret := t.ret,
    log := t.log, logOvf := t.logOvf, stk := t.stk, hwData := t.hwData, hwStat := t.hwStat, hwQ := t.hwQ }

theorem State.windowWrites_rd (h : t.part = s.part) (data stat p off) :
    (s.windowWrites (t.hwAnswer data stat)).rd p off = t.rd p off :=
  State.reg_congr (s := t) (t := s.windowWrites (t.hwAnswer data stat)) rfl h.symm _

theorem completes_directWindow (ht : directWindowOp s we priv addr be x = t) (h : P (s.windowWrites t)) :
    completes (.directWindowRequest we priv addr be x) s P := by
  subst ht
  exact completes_of_exec (t := s.windowWrites _) rfl rfl h

end

end

section
variable {s t : State} {a : Nat} {P : State → Prop}

section
variable {we priv : Bool} {addr : BitVec 40} {be : BitVec 128} {x : BitVec 1024}

theorem completes_directWindow_refused (hq : s.hwQ = []) (hw : (s.stack (s.stackOf addr.toNat)).retrain = false)
    (ha : a = addr.toNat / 128 * 128)
    (h : s.windowRefuses { we := we, priv := priv, addr := addr, be := be, data := x }) :
    completes (.directWindowRequest we priv addr be x) s fun t => t.hwStat = 2#2 ∧ t.hwData = 0#1024 ∧ t.mem = s.mem ∧
      t.uncorr = s.uncorr ∧ s.countedBy t 0x030 0x300 1 ∧ (t.rd pgHost 0x054).getLsbD 1 = true ∧
      (s.top ≤ a → t.event 0x030 8 = true) := by
  have hop := (directWindowOp_answers (s := s) (priv := priv) (be := be) (x := x) hq hw).trans (State.answerHw_refused h)
  rw [HwReq.block, ← ha] at hop
  have hn := s.directRefuse_noted a
  refine completes_directWindow hop ⟨rfl, rfl, hn.mem, hn.uncorr, (s.directRefuse_counted a).congr rfl rfl, ?_,
    State.directRefuse_event⟩
  rw [State.windowWrites_rd (s.directRefuse_countsOnly a).part]
  exact s.directRefuse_flag a

/-- An accepted read returns the stored bytes. -/
theorem completes_directWindow_read (hq : s.hwQ = []) (hw : (s.stack (s.stackOf addr.toNat)).retrain = false)
    (ha : a = addr.toNat / 128 * 128)
    (h : ¬s.windowRefuses { we := false, priv := priv, addr := addr, be := be, data := x }) :
    completes (.directWindowRequest false priv addr be x) s fun t =>
      (s.uncIn a 128 = false ∨ s.frameAt a = none → t.mem = s.mem ∧ t.uncorr = s.uncorr) ∧
      t.hwData = BitVec.ofNat 1024 (ofLe (s.stored a 128)) ∧
      (s.uncIn a 128 = true → t.hwStat = 1#2 ∧ (t.rd pgHost 0x054).getLsbD 0 = true ∧
        ∀ f, s.frameAt a = some f → ∀ e ∈ t.prefixes, e.2.frame.toNat ≠ f) ∧
      (s.uncIn a 128 = false → t.hwStat = 0#2 ∧ t.regs = s.regs ∧ t.hdrs = s.hdrs ∧ t.ctrs = s.ctrs) := by
  have hop := (directWindowOp_answers (s := s) (priv := priv) (be := be) (x := x) hq hw).trans (State.answerHw_read h rfl)
  rw [HwReq.block, ← ha] at hop
  generalize BitVec.ofNat 1024 (ofLe (s.stored a 128)) = data at hop ⊢
  by_cases hu : s.uncIn a 128 = true
  · rw [if_pos hu] at hop
    refine completes_directWindow hop ⟨fun hm => ?_, rfl, fun _ => ⟨rfl, ?_, fun f hf => State.directUnc_prefixes hf 128⟩,
      fun hn => absurd (hn.symm.trans hu) (by decide)⟩
    · exact State.directUnc_mem (hm.resolve_left fun hn => absurd (hn.symm.trans hu) (by decide)) 128
    · rw [State.windowWrites_rd (s.directUnc_countsOnly a 128).part]
      exact s.directUnc_flag a 128
  · rw [if_neg hu] at hop
    exact completes_directWindow hop ⟨fun _ => ⟨rfl, rfl⟩, rfl, fun hn => absurd hn hu, fun _ => ⟨rfl, rfl, rfl, rfl⟩⟩

/-- An accepted write stores exactly the enabled bytes. -/
theorem completes_directWindow_write (hq : s.hwQ = []) (hw : (s.stack (s.stackOf addr.toNat)).retrain = false)
    (hwf : Memory.wf s.mem = true) (ha : a = addr.toNat / 128 * 128) (hfault : s.stackFault (s.stackOf a) = false)
    (h : ¬s.windowRefuses { we := true, priv := priv, addr := addr, be := be, data := x }) :
    completes (.directWindowRequest true priv addr be x) s fun t =>
      t.hwStat = 0#2 ∧ (∀ y, (y < a ∨ a + 128 ≤ y) → mget t.mem y = mget s.mem y) ∧
      ∀ i, i < 128 → mget t.mem (a + i) =
        if be.getLsbD i then BitVec.ofNat 8 (bitsOf x (8 * i + 7) (8 * i)) else mget s.mem (a + i) := by
  have hop := (directWindowOp_answers (s := s) (priv := priv) (be := be) (x := x) hq hw).trans (State.answerHw_write h rfl)
  rw [HwReq.block, ← ha] at hop
  have hmem (y) : mget ((storeEnabled s a be (leBytes 128 x.toNat)).wrCount a 128).mem y =
      if a ≤ y ∧ y < a + 128 ∧ be.getLsbD (y - a) = true then (leBytes 128 x.toNat).getD (y - a) 0#8 else mget s.mem y := by
    rw [State.wrCount_mem, storeEnabled_eq, mget_storeEnabledFrom hwf, leBytes_length, Nat.add_zero]
    intro i _ hi
    rw [leBytes_length] at hi
    rw [ha, State.stackOf_block _ _ (by omega), ← ha]
    exact hfault
  refine completes_directWindow hop ⟨rfl, fun y hy => (hmem y).trans (if_neg (by omega)), fun i hi => (hmem _).trans ?_⟩
  rw [Nat.add_sub_cancel_left, getD_leBytes _ hi, ofNat_bitsOf_byte]
  split
  · next hc => rw [if_pos hc.2.2]
  · next hc => rw [if_neg fun hbe => hc ⟨by omega, by omega, hbe⟩]

end

/-! ### The register port's window -/

theorem State.daccAddr_congr (h : t.regs = s.regs) (hp : t.part = s.part) : t.daccAddr = s.daccAddr := by
  unfold State.daccAddr State.rd
  rw [State.reg_congr h hp, State.reg_congr h hp]

theorem State.daccAddr_daccStep (s : State) (a) : (s.daccStep a).daccAddr = (a + 4) % 2 ^ 40 := by
  unfold State.daccAddr State.daccStep
  dsimp only
  rw [State.rd_inc _ _ _ _ _ (by decide), State.rd_inc _ _ _ _ _ (by decide), State.rd_wr_same,
    State.rd_wr_offset _ _ _ _ _ (by decide), State.rd_wr_same]
  have hb : (a + 4) % 2 ^ 40 < 2 ^ 40 := Nat.mod_lt _ (by decide)
  unfold bitsOf
  rw [BitVec.toNat_ofNat, BitVec.toNat_ofNat]
  omega

theorem State.daccStep_noted (s : State) (a) : s.noted (s.daccStep a) :=
  .trans ⟨_, _, _, _, _, _, _, rfl⟩ (State.count_noted ..)

theorem State.daccStep_counted (s : State) (a) : s.countedBy (s.daccStep a) pgHost 0x228 1 :=
  (State.inc_countedBy ((s.wr pgHost 0x048 _).wr pgHost 0x04C _) pgHost 0x228).congr rfl rfl

theorem State.daccStep_ctr (s : State) (a) {p off : Nat} (ho : off < 0x1000) (h : off ≠ 0x228) :
    (s.daccStep a).ctr (regAt p off) = s.ctr (regAt p off) :=
  (State.ctr_inc_other _ (regAt_ne ho (by decide) h)).trans rfl

theorem State.daccStep_part (s : State) (a) : (s.daccStep a).part = s.part := State.inc_part ..

theorem State.daccStep_log (s : State) (a) : (s.daccStep a).log = s.log ∧ (s.daccStep a).stk = s.stk :=
  ⟨State.inc_log .., State.inc_stk ..⟩

/-- DACC_READ's write back of what its operation gave. -/
def State.daccReadWrites (s t : State) : State :=
  { s with
    mem := t.mem, uncorr := t.uncorr, prefixes := t.prefixes, regs := t.regs, hdrs := t.hdrs, ctrs := t.ctrs, ret := t.ret,
    log := t.log, logOvf := t.logOvf, stk := t.stk, rdata := t.rdata }

theorem completes_daccRead_of (ht : daccReadOp s = t) (h : P (s.daccReadWrites t)) : completes .daccRead s P := by
  subst ht
  exact completes_of_served (t := s.daccReadWrites _) rfl rfl h

theorem daccReadOp_beyond (h : s.top ≤ s.daccAddr) : daccReadOp s =
    { (s.directRefuse s.daccAddr).daccStep s.daccAddr with rdata := 0#32 } := if_pos h

theorem daccReadOp_below (h : s.daccAddr < s.top) : daccReadOp s =
    { (if s.uncIn s.daccAddr 4 then s.directUnc s.daccAddr 4 else s).daccStep s.daccAddr with
      rdata := BitVec.ofNat 32 (ofLe (s.stored s.daccAddr 4)) } := if_neg (Nat.not_le.mpr h)

/-- After an access that counted no access of the window, the step advances the address and counts one. -/
theorem State.daccStep_done {offs : List Nat} (h : s.countsOnly t offs) (hn : 0x228 ∉ offs) {u : State}
    (hr : u.regs = (t.daccStep s.daccAddr).regs) (hp : u.part = s.part) (hc : u.ctrs = (t.daccStep s.daccAddr).ctrs) :
    u.daccAddr = (s.daccAddr + 4) % 2 ^ 40 ∧ s.countedBy u pgHost 0x228 1 := by
  constructor
  · rw [State.daccAddr_congr hr (hp.trans ((t.daccStep_part _).trans h.part).symm), State.daccAddr_daccStep]
  · refine (t.daccStep_counted s.daccAddr).congr (h.ctrs pgHost 0x228 (by decide) hn).symm ?_
    unfold State.ctr
    rw [hc]

theorem completes_daccRead (s : State) : completes .daccRead s fun t =>
    t.daccAddr = (s.daccAddr + 4) % 2 ^ 40 ∧ s.countedBy t pgHost 0x228 1 ∧
    (s.top ≤ s.daccAddr → t.rdata = 0#32 ∧ s.countedBy t 0x030 0x300 1) ∧
    (s.daccAddr < s.top → t.rdata = BitVec.ofNat 32 (ofLe (s.stored s.daccAddr 4)) ∧
      (s.uncIn s.daccAddr 4 = false → t.log = s.log ∧ t.stk = s.stk)) := by
  by_cases h : s.top ≤ s.daccAddr
  · have hr := s.directRefuse_countsOnly s.daccAddr
    have hcount := (s.directRefuse_counted s.daccAddr).congr rfl
      ((s.directRefuse s.daccAddr).daccStep_ctr s.daccAddr (p := 0x030) (off := 0x300) (by decide) (by decide))
    obtain ⟨hstep, hacc⟩ := State.daccStep_done hr (by decide)
      (u := s.daccReadWrites { (s.directRefuse s.daccAddr).daccStep s.daccAddr with rdata := 0#32 }) rfl rfl rfl
    exact completes_daccRead_of (daccReadOp_beyond h) ⟨hstep, hacc, fun _ => ⟨rfl, hcount.congr rfl rfl⟩,
      fun hb => absurd h (Nat.not_le.mpr hb)⟩
  · have hop := daccReadOp_below (Nat.lt_of_not_le h)
    have hu : s.countsOnly (if s.uncIn s.daccAddr 4 then s.directUnc s.daccAddr 4 else s) (0x218 :: tableCtrs) :=
      .ite (s.directUnc_countsOnly ..) (.refl s)
    have hclean : s.uncIn s.daccAddr 4 = false → (if s.uncIn s.daccAddr 4 then s.directUnc s.daccAddr 4 else s) = s :=
      fun hn => if_neg (by rw [hn]; decide)
    generalize (if s.uncIn s.daccAddr 4 then s.directUnc s.daccAddr 4 else s) = t at hop hu hclean
    obtain ⟨hstep, hacc⟩ := State.daccStep_done hu (by decide) (u := s.daccReadWrites
      { t.daccStep s.daccAddr with rdata := BitVec.ofNat 32 (ofLe (s.stored s.daccAddr 4)) }) rfl rfl rfl
    refine completes_daccRead_of hop ⟨hstep, hacc, fun hb => absurd hb h, fun _ => ⟨rfl, fun hn => ?_⟩⟩
    obtain ⟨hlog, hstk⟩ := t.daccStep_log s.daccAddr
    rw [hclean hn] at hlog hstk ⊢
    exact ⟨hlog, hstk⟩

/-- DACC_WRITE's write back of what its operation gave. -/
def State.daccWriteWrites (s t : State) : State :=
  { s with mem := t.mem, uncorr := t.uncorr, regs := t.regs, hdrs := t.hdrs, ctrs := t.ctrs, ret := t.ret }

theorem completes_daccWrite_of {v : W} (ht : (daccWriteOp s v) = t) (h : P (s.daccWriteWrites t)) :
    completes (.daccWrite v) s P := by
  subst ht
  exact completes_of_exec (t := s.daccWriteWrites _) rfl rfl h

theorem daccWriteOp_refused (v : W) (h : s.top < s.daccAddr + 4 ∨ s.directWriteOk s.daccAddr 4 = false) :
    daccWriteOp s v = (s.directRefuse s.daccAddr).daccStep s.daccAddr := by
  have hnot : ¬(s.daccAddr + 4 ≤ s.top ∧ s.directWriteOk s.daccAddr 4 = true) := by
    rintro ⟨hb, hok⟩
    rcases h with h | h
    · omega
    · exact absurd (h.symm.trans hok) (by decide)
  unfold daccWriteOp
  dsimp only
  rw [if_neg hnot]

theorem daccWriteOp_stored (v : W) (hb : s.daccAddr + 4 ≤ s.top) (hok : s.directWriteOk s.daccAddr 4 = true) :
    daccWriteOp s v = ((s.store_ s.daccAddr (leBytes 4 v.toNat)).wrCount s.daccAddr 4).daccStep s.daccAddr := by
  unfold daccWriteOp
  dsimp only
  rw [if_pos ⟨hb, hok⟩]

theorem completes_daccWrite (v : W) (hwf : Memory.wf s.mem = true) : completes (.daccWrite v) s fun t =>
    t.daccAddr = (s.daccAddr + 4) % 2 ^ 40 ∧ s.countedBy t pgHost 0x228 1 ∧
    (∀ y, (y < s.daccAddr ∨ s.daccAddr + 4 ≤ y) → mget t.mem y = mget s.mem y) ∧
    (s.top < s.daccAddr + 4 ∨ s.directWriteOk s.daccAddr 4 = false → t.mem = s.mem ∧ s.countedBy t 0x030 0x300 1) ∧
    (s.daccAddr + 4 ≤ s.top → s.directWriteOk s.daccAddr 4 = true →
      (∀ i, i < 4 → s.stackFault (s.stackOf (s.daccAddr + i)) = false) → mread t.mem s.daccAddr 4 = leBytes 4 v.toNat) := by
  by_cases h : s.top < s.daccAddr + 4 ∨ s.directWriteOk s.daccAddr 4 = false
  · have hmem := ((s.directRefuse_noted s.daccAddr).trans (State.daccStep_noted _ s.daccAddr)).mem
    have hcount := (s.directRefuse_counted s.daccAddr).congr rfl
      ((s.directRefuse s.daccAddr).daccStep_ctr s.daccAddr (p := 0x030) (off := 0x300) (by decide) (by decide))
    obtain ⟨hstep, hacc⟩ := State.daccStep_done (s.directRefuse_countsOnly s.daccAddr) (by decide)
      (u := s.daccWriteWrites ((s.directRefuse s.daccAddr).daccStep s.daccAddr)) rfl rfl rfl
    refine completes_daccWrite_of (daccWriteOp_refused v h) ⟨hstep, hacc, fun y _ => congrArg (mget · y) hmem,
      fun _ => ⟨hmem, hcount.congr rfl rfl⟩, fun hb hok => ?_⟩
    rcases h with h | h
    · omega
    · exact absurd (h.symm.trans hok) (by decide)
  · obtain ⟨hb, hok⟩ := not_or.mp h
    have hop := daccWriteOp_stored v (Nat.le_of_not_lt hb) (by simpa using hok)
    have hs : s.countsOnly ((s.store_ s.daccAddr (leBytes 4 v.toNat)).wrCount s.daccAddr 4) tableCtrs :=
      State.countsOnly.trans (t := s.store_ s.daccAddr (leBytes 4 v.toNat)) (.of_eq rfl rfl rfl rfl) (State.wrCount_countsOnly ..)
    have hmem : (((s.store_ s.daccAddr (leBytes 4 v.toNat)).wrCount s.daccAddr 4).daccStep s.daccAddr).mem =
        (s.store_ s.daccAddr (leBytes 4 v.toNat)).mem := (State.daccStep_noted ..).mem.trans (State.wrCount_mem ..)
    obtain ⟨hstep, hacc⟩ := State.daccStep_done hs (by decide) (u := s.daccWriteWrites
      (((s.store_ s.daccAddr (leBytes 4 v.toNat)).wrCount s.daccAddr 4).daccStep s.daccAddr)) rfl rfl rfl
    refine completes_daccWrite_of hop ⟨hstep, hacc, fun y hy => ?_, fun hn => absurd hn h, fun _ _ hf => ?_⟩
    · refine (congrArg (mget · y) hmem).trans (State.store_mem_other s _ _ _ hwf ?_)
      rwa [leBytes_length]
    · have hstored := State.store_mem_eq_mwrite (s := s) (a := s.daccAddr) (bs := leBytes 4 v.toNat) fun i hi =>
        hf i (by rwa [leBytes_length] at hi)
      have hread := mread_mwrite_same s.mem s.daccAddr (leBytes 4 v.toNat) hwf
      rw [leBytes_length] at hread
      exact (congrArg (mread · s.daccAddr 4) (hmem.trans hstored)).trans hread

end

end Sys2Proof.Machine

open Sys2Proof Sys2Proof.Machine in
/-- Settles O43: the window refuses by one condition, and otherwise stores the enabled bytes of a block on one stack or reads
it; the register port's window steps its address after either. -/
theorem directAccessesReadStoredBytesAndWriteOnlyBase : Obligations.DirectAccessesReadStoredBytesAndWriteOnlyBase := by
  refine ⟨?_, completes_daccRead, fun s v hwf => completes_daccWrite v hwf⟩
  rintro s we priv addr be x _ rfl hwf
  refine ⟨fun h hroom => completes_directWindow (directWindowOp_waits h hroom) ⟨rfl, rfl, rfl, rfl, rfl⟩, fun hq hw =>
    ⟨fun h => completes_directWindow_refused hq hw rfl h, fun hpriv hon hrun htop => ⟨?_, ?_⟩⟩⟩
  · rintro rfl
    exact completes_directWindow_read hq hw rfl (State.not_windowRefuses hpriv hon hrun htop fun hwe => Bool.noConfusion hwe)
  · rintro rfl hok hfault
    exact completes_directWindow_write hq hw hwf rfl hfault
      (State.not_windowRefuses hpriv hon hrun htop fun _ => ⟨hok, hfault⟩)

/-! PROOFS. NORM, ROTARY, RESID and ACT work through the rows of their tile and leave their cores (O24; R99, R184, R185). -/

namespace Sys2Proof.Machine

/-- Beside the basis, the landing buffers are as they were. -/
structure State.keepsLanded (s t : State) : Prop extends basis : s.keepsBasis t where
  landing : t.landing = s.landing

namespace State.keepsLanded
variable {s t u : State}

theorem refl (s : State) : s.keepsLanded s := ⟨.refl s, rfl⟩

theorem trans (h : s.keepsLanded t) (k : t.keepsLanded u) : s.keepsLanded u :=
  ⟨h.basis.trans k.basis, k.landing.trans h.landing⟩

theorem ite {c : Prop} [Decidable c] (ht : s.keepsLanded t) (hu : s.keepsLanded u) :
    s.keepsLanded (if c then t else u) := by
  split <;> assumption

theorem foldl {α : Type} {f : State → α → State} (hf : ∀ (s : State) x, s.keepsLanded (f s x)) (l : List α)
    (s : State) : s.keepsLanded (l.foldl f s) := by
  induction l generalizing s with
  | nil => exact .refl s
  | cons x l ih => exact (hf s x).trans (ih _)

end State.keepsLanded

theorem State.keepsWork.keepsLanded {s t : State} (h : s.keepsWork t) : s.keepsLanded t := ⟨h.basis, h.landing⟩

section
variable {s t u : State} {fid jn row : Nat} {f : Form} {v : VecDesc} {st : Step} {k : VecKind}
  {g : State → Nat × Nat → State}

/-! ### What the operations of a row keep -/

theorem State.setLand_keepsBasis (s : State) (a bs) : s.keepsBasis (s.setLand a bs) :=
  ⟨rfl, fun _ => rfl, rfl, rfl, rfl, fun _ b h => ⟨b, h, .refl b⟩⟩

theorem State.setRow_landing (s : State) (jn i g) : (s.setRow jn i g).landing = s.landing := by
  unfold State.setRow
  split <;> rfl

theorem State.putX_keepsBasis (s : State) (jn a cls vs) : s.keepsBasis (s.putX jn a cls vs) :=
  (s.stat_keepsWork ..).basis.trans (State.setLand_keepsBasis ..)

theorem State.putX_landing (s : State) (jn a cls vs) :
    (s.putX jn a cls vs).landing = mwrite s.landing a (encRow s.decl.xFmt.toNat vs) := by
  unfold State.putX
  exact congrArg (mwrite · a _) (s.stat_keepsWork ..).landing

theorem State.addPart_keepsWork (s : State) (jn x) : s.keepsWork (s.addPart jn x) := by
  unfold State.addPart
  split
  · next h => exact .ite (s.setStep_keepsWork h ⟨rfl, rfl, rfl, rfl⟩ rfl) (.refl s)
  · exact .refl s

theorem State.noteEmbed_keepsWork (s : State) (model tok) : s.keepsWork (s.noteEmbed model tok) := by
  refine .ite s.regFault_keepsWork (.foldl (fun s i => ?_) _ s)
  split
  · exact s.uncRecord_keepsWork _ 0
  · exact .refl s

theorem State.pokeFor_keepsWork (s : State) (q kind need a bs) : s.keepsWork (s.pokeFor q kind need a bs) :=
  .ite ((s.poke_keepsWork ..).trans (.of_eq rfl rfl rfl rfl rfl rfl rfl rfl)) (s.poke_keepsWork ..)

theorem State.setFrameFor_keepsWork (s : State) (q f w) : s.keepsWork (s.setFrameFor q f w) := s.pokeFor_keepsWork ..

theorem State.tcPut_keepsWork (s : State) (slice q i f) : s.keepsWork (s.tcPut slice q i f) :=
  .of_eq rfl rfl rfl rfl rfl rfl rfl rfl

/-- A slice's count of translation misses is, for a slice past the part's, a counter of another page, so the counters of the
forms need not stay. -/
theorem State.fillTranslation_keepsLanded (s : State) (fd slice q b) :
    s.keepsLanded (s.fillTranslation fd slice q b) := by
  have hcount : s.keepsLanded (s.inc pgCache (0x280 + 8 * slice)) := ⟨s.inc_keepsBasis .., State.inc_landing ..⟩
  refine .ite (.refl s) (hcount.trans (.trans (.foldl (fun s i => ?entry) _ _) (.ite ?unc (.refl _))))
  case entry => exact .ite (s.tcPut_keepsWork ..).keepsLanded (.refl s)
  case unc =>
    dsimp only
    split
    · exact ((State.note_keepsWork ..).trans (State.failRows_keepsWork ..)).keepsLanded
    · exact (State.note_keepsWork ..).keepsLanded

theorem State.translateRows_keepsLanded (s : State) (fd slice st rows) :
    s.keepsLanded (s.translateRows fd slice st rows) :=
  .foldl (fun _ _ => State.fillTranslation_keepsLanded ..) rows s

theorem State.putKv_keepsWork (s : State) (slice jn md r row layer values hs) :
    s.keepsWork (s.putKv slice jn md r row layer values hs) := by
  unfold State.putKv
  dsimp only
  split
  · exact .refl s
  · exact .foldl (fun s x => .ite ((s.poke_keepsWork ..).trans (State.failRows_keepsWork ..)) (s.poke_keepsWork ..)) _ s

theorem State.tagFrame_keepsWork (s : State) (st r row) : s.keepsWork (s.tagFrame st r row) := by
  unfold State.tagFrame
  dsimp only
  split
  · exact .refl s
  · refine .trans (.ite ?_ (.ite ?_ (.refl s))) (State.pokeFor_keepsWork ..)
    all_goals exact s.setFrameFor_keepsWork ..

theorem State.fullFrame_keepsWork (s : State) (r) : s.keepsWork (s.fullFrame r) := by
  refine .ite (.refl s) ?_
  split
  · exact .refl s
  · exact s.setFrameFor_keepsWork ..

/-! ### A vector form works through its tile, and ends -/

/-- The rows of a tile are worked on one after another, and the tile is entered as done. -/
def State.tileWork (s : State) (g : State → Nat × Nat → State) (jn : Nat) (v : VecDesc) (layer : Nat) (d : Done) : State :=
  ((vecTile v).foldl g s).markRows jn (v.rows.map (·.toNat)) layer d

theorem State.tileWork_keepsBasis (hg : ∀ (s : State) x, s.keepsBasis (g s x)) (s : State) (jn v layer d) :
    s.keepsBasis (s.tileWork g jn v layer d) :=
  .trans (.foldl hg _ _) (State.markRows_keepsWork ..).basis

theorem State.tileWork_keepsLanded (hg : ∀ (s : State) x, s.keepsLanded (g s x)) (s : State) (jn v layer d) :
    s.keepsLanded (s.tileWork g jn v layer d) :=
  .trans (.foldl hg _ _) (State.markRows_keepsWork ..).keepsLanded

theorem State.tileWork_tables (hg : ∀ (s : State) x, s.sameTables (g s x)) (s : State) (jn v layer d) :
    s.sameTables (s.tileWork g jn v layer d) :=
  State.sameTables_trans (State.foldl_tables g hg _ _) (State.markRows_tables ..)

theorem State.tileWork_landing_singleton (hrow : v.rows.map (·.toNat) = [row]) (s : State) (g jn layer d) :
    (s.tileWork g jn v layer d).landing = (g s (row, 0)).landing := by
  unfold State.tileWork
  rw [vecTile_singleton hrow]
  exact (State.markRows_keepsWork ..).landing

/-- What the end of a vector form leaves: its core, and the landing buffers as its work left them. -/
structure State.vecEnded (s t u : State) (fid : Nat) (f : Form) : Prop where
  ended : Machine.formEnded s t fid f
  part : t.part = s.part
  landing : t.landing = u.landing

theorem State.vecRuns.vecEnded (h : s.vecRuns fid k f v jn st) (w : s.keepsBasis u) (hu : s.sameTables u) :
    s.vecEnded (u.endForm fid) u fid f :=
  ⟨h.formEnded w hu.1, (u.endForm_part fid).trans w.part, u.endForm_landing fid⟩

/-! ### NORM -/

/-- The tensors in which a NORM form's input and result are saved. -/
def normTensors (v : VecDesc) : Nat × Nat :=
  match v.sel.toNat with
  | 0 => (tResid, tAttnX)
  | 1 => (tResid2, tMlpX)
  | _ => (tFinal, tFinalX)

/-- A norm's input xs and result ys are saved in train mode; the last norm's result is kept in the step. -/
def State.saveNorm (s : State) (jn row : Nat) (v : VecDesc) (xs ys : List Val) : State :=
  let s := s.save jn row v.layer.toNat (normTensors v).1 (encRow 2 xs)
  let y := encRow s.decl.xFmt.toNat ys
  if (normTensors v).2 = tFinalX then (if (s.job jn).isTrain then s.keep jn row (normTensors v).2 y else s)
  else s.save jn row v.layer.toNat (normTensors v).2 y

/-- The norm of a row lands, and is saved. -/
def State.normRow (jn : Nat) (st : Step) (v : VecDesc) (eps : W) (gain : List W) (s : State) (x : Nat × Nat) : State :=
  let i := s.normInput (.vec v) v st x.1 x.2
  let ys := (rmsNorm eps (i.2.map toF32) gain).map ofF32
  (i.1.putX jn (v.dst.toNat + x.2 * v.dstStride.toNat) 0 ys).saveNorm jn x.1 v i.2 ys

/-- What a NORM form does before it ends. -/
def State.normWork (s : State) (jn : Nat) (st : Step) (v : VecDesc) (md : ModelDesc) : State :=
  s.tileWork (State.normRow jn st v md.eps (s.gain st.model.toNat (md.gainKey (normKind v.sel.toNat) v.layer.toNat))) jn v
    (if min 2 v.sel.toNat = 2 then md.layers else v.layer.toNat) (.norm (min 2 v.sel.toNat))

theorem normOp_eq (h : s.vecRuns fid .norm f v jn st) :
    normOp s fid = (s.normWork jn st v (s.desc st.model.toNat)).endForm fid := by
  unfold normOp
  rw [h.vecForm]
  rfl

theorem State.saveNorm_keepsWork (s : State) (jn row v xs ys) : s.keepsWork (s.saveNorm jn row v xs ys) :=
  (s.save_keepsWork ..).trans (.ite (.ite (State.keep_keepsWork ..) (.refl _)) (State.save_keepsWork ..))

theorem State.saveNorm_tables (s : State) (jn row v xs ys) : s.sameTables (s.saveNorm jn row v xs ys) := by
  unfold State.saveNorm
  dsimp only
  (repeat' split) <;> simp

theorem State.normInput_keepsBasis (s : State) (fd v st row m) : s.keepsBasis (s.normInput fd v st row m).1 := by
  unfold State.normInput
  split
  · exact .trans (.ite ((s.noteEmbed_keepsWork ..).trans (State.failForm_keepsWork ..)).basis (.refl s))
      (State.setLand_keepsBasis ..)
  · exact .refl s

/-- Every norm but the embedding norm reads the residual row as it has landed. -/
theorem State.normInput_of_landed (s : State) (fd st row m) (h : ¬(v.sel = 0#2 ∧ v.layer = 0#7)) :
    s.normInput fd v st row m =
      (s, s.landRow 2 (v.src.toNat + m * v.stride.toNat) (s.desc st.model.toNat).dModel) :=
  if_neg h

theorem State.normRow_keepsBasis (jn st v eps gain) (s : State) (x) : s.keepsBasis (State.normRow jn st v eps gain s x) :=
  ((s.normInput_keepsBasis ..).trans (State.putX_keepsBasis ..)).trans (State.saveNorm_keepsWork ..).basis

theorem State.normRow_tables (jn st v eps gain) (s : State) (x) : s.sameTables (State.normRow jn st v eps gain s x) :=
  State.sameTables_trans (State.sameTables_trans (s.normInput_tables ..) (State.putX_tables ..)) (State.saveNorm_tables ..)

theorem State.normRow_landing (h : ¬(v.sel = 0#2 ∧ v.layer = 0#7)) (s : State) (jn st eps gain row) :
    (State.normRow jn st v eps gain s (row, 0)).landing = mwrite s.landing v.dst.toNat (encRow s.decl.xFmt.toNat
      ((rmsNorm eps ((s.landRow 2 v.src.toNat (s.desc st.model.toNat).dModel).map toF32) gain).map ofF32)) := by
  unfold State.normRow
  rw [s.normInput_of_landed _ _ _ _ h]
  simp [(State.saveNorm_keepsWork ..).landing, State.putX_landing]

theorem normOp_vecEnded (h : s.vecRuns fid .norm f v jn st) :
    s.vecEnded (normOp s fid) (s.normWork jn st v (s.desc st.model.toNat)) fid f :=
  normOp_eq h ▸ h.vecEnded (State.tileWork_keepsBasis (fun _ _ => State.normRow_keepsBasis ..) ..)
    (State.tileWork_tables (fun _ _ => State.normRow_tables ..) ..)

theorem State.normWork_landing (s : State) (jn st) {md : ModelDesc} (hrow : v.rows.map (·.toNat) = [row])
    (h : ¬(v.sel = 0#2 ∧ v.layer = 0#7)) (hmd : md = s.desc st.model.toNat) :
    (s.normWork jn st v md).landing = mwrite s.landing v.dst.toNat (encRow s.decl.xFmt.toNat
      ((rmsNorm md.eps ((s.landRow 2 v.src.toNat md.dModel).map toF32)
        (s.gain st.model.toNat (md.gainKey (normKind v.sel.toNat) v.layer.toNat))).map ofF32)) := by
  subst hmd
  exact (State.tileWork_landing_singleton hrow ..).trans (State.normRow_landing h ..)

/-! ### RESID -/

/-- A row whose layer is over. -/
def Row.layerOver (r : Row) (layer layers : Nat) : Row :=
  { r with layers := layer + 1, done := r.done || (!r.draws && layer + 1 == layers) }

/-- The residual of a row and its branch land as their sum; after the MLP the row's layer is over. -/
def State.residRow (jn : Nat) (st : Step) (v : VecDesc) (md : ModelDesc) (s : State) (x : Nat × Nat) : State :=
  let u := s.setLand (v.dst.toNat + x.2 * v.dstStride.toNat) (encRow 2 (List.zipWith Val.add
    (s.landRow 2 (v.src.toNat + x.2 * v.stride.toNat) md.dModel) (s.branch jn st md v x.1 x.2)))
  if v.sel = 0#2 then u else u.setRow jn x.1 fun r => r.layerOver v.layer.toNat md.layers

/-- What a RESID form does before it ends. -/
def State.residWork (s : State) (jn : Nat) (st : Step) (v : VecDesc) (md : ModelDesc) : State :=
  s.tileWork (State.residRow jn st v md) jn v v.layer.toNat (.resid (min 1 v.sel.toNat))

theorem residOp_eq (h : s.vecRuns fid .resid f v jn st) :
    residOp s fid = (s.residWork jn st v (s.desc st.model.toNat)).endForm fid := by
  unfold residOp
  rw [h.vecForm]
  rfl

theorem State.residRow_keepsBasis (jn st v md) (s : State) (x) : s.keepsBasis (State.residRow jn st v md s x) :=
  have hland := s.setLand_keepsBasis _ _
  .ite hland (hland.trans (State.setRow_keepsBasis ..))

theorem State.residRow_tables (jn st v md) (s : State) (x) : s.sameTables (State.residRow jn st v md s x) := by
  unfold State.residRow
  dsimp only
  split <;> simp

theorem State.residRow_landing (s : State) (jn st v md row) : (State.residRow jn st v md s (row, 0)).landing =
    mwrite s.landing v.dst.toNat
      (encRow 2 (List.zipWith Val.add (s.landRow 2 v.src.toNat md.dModel) (s.branch jn st md v row 0))) := by
  unfold State.residRow
  split <;> simp [State.setRow_landing, State.setLand]

theorem residOp_vecEnded (h : s.vecRuns fid .resid f v jn st) :
    s.vecEnded (residOp s fid) (s.residWork jn st v (s.desc st.model.toNat)) fid f :=
  residOp_eq h ▸ h.vecEnded (State.tileWork_keepsBasis (fun _ _ => State.residRow_keepsBasis ..) ..)
    (State.tileWork_tables (fun _ _ => State.residRow_tables ..) ..)

theorem State.residWork_landing (s : State) (jn st md) (hrow : v.rows.map (·.toNat) = [row]) :
    (s.residWork jn st v md).landing = mwrite s.landing v.dst.toNat
      (encRow 2 (List.zipWith Val.add (s.landRow 2 v.src.toNat md.dModel) (s.branch jn st md v row 0))) :=
  (State.tileWork_landing_singleton hrow ..).trans (State.residRow_landing ..)

/-! ### ACT -/

/-- The landed gate (pass 4) or up (pass 5) of a row's columns, n of them. -/
def State.actInput (s : State) (jn : Nat) (st : Step) (v : VecDesc) (pass row at_ n : Nat) : List Val :=
  s.landedOr jn st pass 0 v.layer.toNat v.expert.toNat row at_ n

/-- The gated SiLU of a gate and an up. -/
def actOf (gate up : List Val) : List Val := (List.zipWith (fun g u => gatedSilu (toF32 g) (toF32 u)) gate up).map ofF32

/-- An activation, its gate and its up are saved in train mode. -/
def State.saveAct (s : State) (jn row : Nat) (v : VecDesc) (beat : Nat) (gate up : List Val) : State :=
  let e := 32 * (v.expert.toNat + 1)
  ((s.save jn row v.layer.toNat (tGate + e) (encRow beat gate)).save jn row v.layer.toNat (tUp + e)
    (encRow beat up)).save jn row v.layer.toNat (tAct + e) (encRow s.decl.xFmt.toNat (actOf gate up))

/-- The activation of a row's columns lands; it is this device's part of the row, and is saved. -/
def State.actRow (jn : Nat) (st : Step) (v : VecDesc) (beat : Nat) (cols : Nat × Nat) (s : State) (x : Nat × Nat) : State :=
  let n := cols.2 - cols.1
  let gate := s.actInput jn st v 4 x.1 (v.src.toNat + x.2 * v.stride.toNat) n
  let up := s.actInput jn st v 5 x.1 (v.src2.toNat + x.2 * v.stride.toNat) n
  let at_ := v.dst.toNat + x.2 * v.dstStride.toNat
  let u := s.putX jn at_ 0 (actOf gate up)
  (u.addPart jn { row := x.1, layer := v.layer.toNat, kind := 2, expert := v.expert.toNat, place := at_, first := cols.1,
                  n := n, bytes := encRow u.decl.xFmt.toNat (actOf gate up) }).saveAct jn x.1 v beat gate up

/-- What an ACT form does before it ends. -/
def State.actWork (s : State) (jn : Nat) (st : Step) (v : VecDesc) : State :=
  s.tileWork (State.actRow jn st v s.decl.beat.toNat
    (s.ownCols st.model.toNat 4 v.layer.toNat v.expert.toNat)) jn v v.layer.toNat (.act v.expert.toNat)

theorem actOp_eq (h : s.vecRuns fid .act f v jn st) : actOp s fid = (s.actWork jn st v).endForm fid := by
  unfold actOp
  rw [h.vecForm]
  rfl

theorem State.saveAct_keepsWork (s : State) (jn row v beat gate up) : s.keepsWork (s.saveAct jn row v beat gate up) :=
  ((s.save_keepsWork ..).trans (State.save_keepsWork ..)).trans (State.save_keepsWork ..)

theorem State.actRow_keepsBasis (jn st v beat cols) (s : State) (x) : s.keepsBasis (State.actRow jn st v beat cols s x) :=
  (s.putX_keepsBasis ..).trans ((State.addPart_keepsWork ..).trans (State.saveAct_keepsWork ..)).basis

theorem State.actRow_tables (jn st v beat cols) (s : State) (x) : s.sameTables (State.actRow jn st v beat cols s x) := by
  simp [State.actRow, State.saveAct]

theorem State.actRow_landing (s : State) (jn st v beat cols row) : (State.actRow jn st v beat cols s (row, 0)).landing =
    mwrite s.landing v.dst.toNat (encRow s.decl.xFmt.toNat (actOf (s.actInput jn st v 4 row v.src.toNat (cols.2 - cols.1))
      (s.actInput jn st v 5 row v.src2.toNat (cols.2 - cols.1)))) := by
  unfold State.actRow
  rw [((State.addPart_keepsWork ..).trans (State.saveAct_keepsWork ..)).landing]
  simp [State.putX_landing]

theorem actOp_vecEnded (h : s.vecRuns fid .act f v jn st) : s.vecEnded (actOp s fid) (s.actWork jn st v) fid f :=
  actOp_eq h ▸ h.vecEnded (State.tileWork_keepsBasis (fun _ _ => State.actRow_keepsBasis ..) ..)
    (State.tileWork_tables (fun _ _ => State.actRow_tables ..) ..)

theorem State.actWork_landing (s : State) (jn st) (hrow : v.rows.map (·.toNat) = [row]) {lo hi n : Nat}
    (hcols : (lo, hi) = s.ownCols st.model.toNat 4 v.layer.toNat v.expert.toNat) (hn : n = hi - lo) :
    (s.actWork jn st v).landing = mwrite s.landing v.dst.toNat (encRow s.decl.xFmt.toNat
      (actOf (s.actInput jn st v 4 row v.src.toNat n) (s.actInput jn st v 5 row v.src2.toNat n))) := by
  subst hn
  unfold State.actWork
  rw [← hcols, State.tileWork_landing_singleton hrow, State.actRow_landing]

/-! ### ROTARY -/

/-- The heads of a row that a ROTARY form reads, nh of them. -/
def State.rotaryHeads (s : State) (jn : Nat) (st : Step) (v : VecDesc) (d nh row m : Nat) : List (List W) :=
  headsOf d nh ((s.landedOr jn st (min 2 v.sel.toNat) 0 v.layer.toNat 0 row (v.src.toNat + m * v.stride.toNat)
    (nh * d)).map toF32)

/-- The rotated heads of a row's query land, and are saved. -/
def State.landQ (s : State) (jn row : Nat) (v : VecDesc) (md : ModelDesc) (pos m : Nat) (hs : List (List W)) : State :=
  let bs := encRow 2 ((hs.flatMap fun h => md.rotate pos h).map ofF32)
  (s.setLand (v.dst.toNat + m * v.dstStride.toNat) bs).save jn row v.layer.toNat tQ bs

/-- The first layer's keys and values tag their frame. -/
def State.tagFirst (s : State) (st : Step) (row layer : Nat) : State :=
  if layer = 0 then s.tagFrame st (st.row row) row else s

/-- The rotated heads of a row's key enter its frame. -/
def State.putK (s : State) (slice jn : Nat) (st : Step) (md : ModelDesc) (row layer : Nat) (hs : List (List W)) : State :=
  (s.tagFirst st row layer).putKv slice jn md (st.row row) row layer false
    (hs.map fun h => md.rotate (st.row row).pos.toNat h)

/-- The heads of a row's value enter its frame, which the last layer may fill. -/
def State.putV (s : State) (slice jn : Nat) (st : Step) (md : ModelDesc) (row layer : Nat) (hs : List (List W)) : State :=
  let u := (s.tagFirst st row layer).putKv slice jn md (st.row row) row layer true hs
  if layer + 1 = md.layers then u.fullFrame (st.row row) else u

/-- What a ROTARY form does for a row. -/
def State.rotaryRow (jn : Nat) (st : Step) (v : VecDesc) (md : ModelDesc) (slice nh : Nat) (s : State) (x : Nat × Nat) :
    State :=
  let hs := s.rotaryHeads jn st v md.d nh x.1 x.2
  match v.sel.toNat with
  | 0 => s.landQ jn x.1 v md (st.row x.1).pos.toNat x.2 hs
  | 1 => s.putK slice jn st md x.1 v.layer.toNat hs
  | _ => s.putV slice jn st md x.1 v.layer.toNat hs

/-- The rows of a ROTARY form that writes keys or values have been translated. -/
def State.rotaryFed (s : State) (slice : Nat) (st : Step) (v : VecDesc) : State :=
  if v.sel = 0#2 then s else s.translateRows (.vec v) slice st (v.rows.map (·.toNat))

/-- What a ROTARY form does before it ends. -/
def State.rotaryWork (s : State) (slice jn : Nat) (st : Step) (v : VecDesc) (md : ModelDesc) : State :=
  (s.rotaryFed slice st v).tileWork (State.rotaryRow jn st v md slice (if v.sel = 0#2 then md.ownQ else md.ownKv)) jn v
    v.layer.toNat (.rotary (min 2 v.sel.toNat))

theorem rotaryOp_eq (h : s.vecRuns fid .rotary f v jn st) :
    rotaryOp s fid = (s.rotaryWork (f.core / 6400) jn st v (s.desc st.model.toNat)).endForm fid := by
  unfold rotaryOp
  rw [h.vecForm, h.1]
  rfl

theorem State.landQ_keepsBasis (s : State) (jn row v md pos m hs) : s.keepsBasis (s.landQ jn row v md pos m hs) :=
  (s.setLand_keepsBasis ..).trans (State.save_keepsWork ..).basis

theorem State.tagFirst_keepsWork (s : State) (st row layer) : s.keepsWork (s.tagFirst st row layer) :=
  .ite (s.tagFrame_keepsWork ..) (.refl s)

theorem State.putK_keepsWork (s : State) (slice jn st md row layer hs) :
    s.keepsWork (s.putK slice jn st md row layer hs) :=
  (s.tagFirst_keepsWork ..).trans (State.putKv_keepsWork ..)

theorem State.putV_keepsWork (s : State) (slice jn st md row layer hs) :
    s.keepsWork (s.putV slice jn st md row layer hs) :=
  have h := (s.tagFirst_keepsWork st row layer).trans (State.putKv_keepsWork ..)
  .ite (h.trans (State.fullFrame_keepsWork ..)) h

theorem State.rotaryRow_of_q (hq : v.sel = 0#2) (s : State) (jn st md slice nh x) :
    State.rotaryRow jn st v md slice nh s x =
      s.landQ jn x.1 v md (st.row x.1).pos.toNat x.2 (s.rotaryHeads jn st v md.d nh x.1 x.2) := by
  unfold State.rotaryRow
  rw [hq]
  rfl

/-- The keys and values of a row go to its frame alone. -/
theorem State.rotaryRow_keepsLanded (hkv : v.sel ≠ 0#2) (jn st md slice nh) (s : State) (x) :
    s.keepsLanded (State.rotaryRow jn st v md slice nh s x) := by
  unfold State.rotaryRow
  dsimp only
  split
  · next h => exact absurd (BitVec.eq_of_toNat_eq h) hkv
  · exact (State.putK_keepsWork ..).keepsLanded
  · exact (State.putV_keepsWork ..).keepsLanded

theorem State.rotaryRow_keepsBasis (jn st v md slice nh) (s : State) (x) :
    s.keepsBasis (State.rotaryRow jn st v md slice nh s x) := by
  by_cases hq : v.sel = 0#2
  · rw [State.rotaryRow_of_q hq]
    exact State.landQ_keepsBasis ..
  · exact (State.rotaryRow_keepsLanded hq ..).basis

theorem State.rotaryRow_tables (jn st v md slice nh) (s : State) (x) :
    s.sameTables (State.rotaryRow jn st v md slice nh s x) := by
  have htag (row layer) : s.sameTables (s.tagFirst st row layer) := by
    unfold State.tagFirst
    split <;> simp
  unfold State.rotaryRow State.putK State.putV
  dsimp only
  split
  · simp [State.landQ]
  · exact State.sameTables_trans (htag ..) (State.putKv_tables ..)
  · split
    · exact State.sameTables_trans (State.sameTables_trans (htag ..) (State.putKv_tables ..)) (State.fullFrame_tables ..)
    · exact State.sameTables_trans (htag ..) (State.putKv_tables ..)

theorem State.rotaryFed_keepsLanded (s : State) (slice st v) : s.keepsLanded (s.rotaryFed slice st v) :=
  .ite (.refl s) (s.translateRows_keepsLanded ..)

theorem State.rotaryFed_tables (s : State) (slice st v) : s.sameTables (s.rotaryFed slice st v) := by
  unfold State.rotaryFed
  split <;> simp

theorem rotaryOp_vecEnded (h : s.vecRuns fid .rotary f v jn st) :
    s.vecEnded (rotaryOp s fid) (s.rotaryWork (f.core / 6400) jn st v (s.desc st.model.toNat)) fid f :=
  rotaryOp_eq h ▸ h.vecEnded
    ((s.rotaryFed_keepsLanded ..).basis.trans (State.tileWork_keepsBasis (fun _ _ => State.rotaryRow_keepsBasis ..) ..))
    (State.sameTables_trans (s.rotaryFed_tables ..) (State.tileWork_tables (fun _ _ => State.rotaryRow_tables ..) ..))

theorem State.rotaryWork_landing_kv (s : State) (slice jn st md) (hkv : v.sel ≠ 0#2) :
    (s.rotaryWork slice jn st v md).landing = s.landing :=
  ((s.rotaryFed_keepsLanded ..).trans (State.tileWork_keepsLanded (fun _ _ => State.rotaryRow_keepsLanded hkv ..) ..)).landing

theorem State.rotaryWork_landing_q (s : State) (slice jn st md) (hrow : v.rows.map (·.toNat) = [row]) (hq : v.sel = 0#2) :
    (s.rotaryWork slice jn st v md).landing = mwrite s.landing v.dst.toNat (encRow 2
      (((headsOf md.d md.ownQ ((s.landedOr jn st 0 0 v.layer.toNat 0 row v.src.toNat (md.ownQ * md.d)).map toF32)).flatMap
        fun h => md.rotate (st.row row).pos.toNat h).map ofF32)) := by
  unfold State.rotaryWork State.rotaryFed
  rw [if_pos hq, if_pos hq, State.tileWork_landing_singleton hrow, State.rotaryRow_of_q hq]
  refine (State.save_keepsWork ..).landing.trans ?_
  simp [State.setLand, State.rotaryHeads, hq]

/-! ### The forms end -/

/-- ROTARY's write back of what its operation gave. -/
def State.rotaryWrites (s t : State) : State := { s.downWrites t with tcache := t.tcache, slots := t.slots }

theorem completes_norm {P : State → Prop} (h : P (s.downWrites (normOp s fid))) : completes (.norm fid) s P :=
  completes_of_exec (t := s.downWrites (normOp s fid)) rfl rfl h

theorem completes_rotary {P : State → Prop} (h : P (s.rotaryWrites (rotaryOp s fid))) : completes (.rotary fid) s P :=
  completes_of_exec (t := s.rotaryWrites (rotaryOp s fid)) rfl rfl h

theorem completes_resid {P : State → Prop} (h : P (s.duWrites (residOp s fid))) : completes (.resid fid) s P :=
  completes_of_exec (t := s.duWrites (residOp s fid)) rfl rfl h

theorem completes_act {P : State → Prop} (h : P (s.downWrites (actOp s fid))) : completes (.act fid) s P :=
  completes_of_exec (t := s.downWrites (actOp s fid)) rfl rfl h

end

end Sys2Proof.Machine

open Sys2Proof Sys2Proof.Machine in

/-- Settles O24: each form works through the rows of its tile and then ends, and a tile of one row lands that row alone. -/
theorem vectorFormsWriteTheirRows : Obligations.VectorFormsWriteTheirRows := by
  rintro s form k f v jn st _ c h rfl hc
  obtain ⟨rfl, rfl⟩ | ⟨rfl, rfl⟩ | ⟨rfl, rfl⟩ | ⟨rfl, rfl⟩ := hc
  · obtain ⟨hend, hpart, hland⟩ := normOp_vecEnded h
    refine completes_norm ⟨hend.written rfl rfl rfl hpart.symm, nofun, fun row hrow => ⟨?norm, nofun, nofun, nofun⟩⟩
    exact fun _ hlanded => hland.trans (s.normWork_landing jn st hrow hlanded rfl)
  · obtain ⟨hend, hpart, hland⟩ := rotaryOp_vecEnded h
    refine completes_rotary ⟨hend.written rfl rfl rfl hpart.symm, ?keyOrValue, fun row hrow =>
      ⟨nofun, nofun, nofun, ?query⟩⟩
    case keyOrValue => exact fun _ hkv => hland.trans (s.rotaryWork_landing_kv _ jn st _ hkv)
    case query => exact fun _ hq => hland.trans (s.rotaryWork_landing_q _ jn st _ hrow hq)
  · obtain ⟨hend, hpart, hland⟩ := residOp_vecEnded h
    refine completes_resid ⟨hend.written rfl rfl rfl hpart.symm, nofun, fun row hrow => ⟨nofun, ?sum, nofun, nofun⟩⟩
    exact fun _ => hland.trans (s.residWork_landing jn st _ hrow)
  · obtain ⟨hend, hpart, hland⟩ := actOp_vecEnded h
    refine completes_act ⟨hend.written rfl rfl rfl hpart.symm, nofun, fun row hrow => ⟨nofun, nofun, ?act, nofun⟩⟩
    exact fun _ lo hi n hcols hn => hland.trans (s.actWork_landing jn st hrow hcols hn)


/-! SUPPORT. What a local count leaves alone: the clock, SCHED_CAP, the fuses, the directory, the keys and the queue stay
through a retirement copy's reads and writes (R199, R284, R347). -/

namespace Sys2Proof.Machine

/-- The local count, SCHED_CAP, the fuses, the directory, the keys and the queue are as they were. -/
structure State.keepsClock (s t : State) : Prop where
  lcount : t.lcount = s.lcount
  cap : t.cap = s.cap
  fuses : t.fuses = s.fuses
  dir : t.dir = s.dir
  keys : t.keys = s.keys
  pending : t.pending = s.pending

namespace State.keepsClock
variable {s t u : State}

theorem refl (s : State) : s.keepsClock s := ⟨rfl, rfl, rfl, rfl, rfl, rfl⟩

theorem trans (h : s.keepsClock t) (k : t.keepsClock u) : s.keepsClock u where
  lcount := k.lcount.trans h.lcount
  cap := k.cap.trans h.cap
  fuses := k.fuses.trans h.fuses
  dir := k.dir.trans h.dir
  keys := k.keys.trans h.keys
  pending := k.pending.trans h.pending

theorem ite {c : Prop} [Decidable c] (ht : s.keepsClock t) (hu : s.keepsClock u) : s.keepsClock (if c then t else u) := by
  split <;> assumption

theorem foldl {α : Type} {f : State → α → State} (hf : ∀ (s : State) x, s.keepsClock (f s x)) (l : List α) (s : State) :
    s.keepsClock (l.foldl f s) := by
  induction l generalizing s with
  | nil => exact .refl s
  | cons x l ih => exact (hf s x).trans (ih _)

theorem of_noted (h : s.noted t) : s.keepsClock t := by
  obtain ⟨_, _, _, _, _, _, _, rfl⟩ := h
  exact ⟨rfl, rfl, rfl, rfl, rfl, rfl⟩

end State.keepsClock

section
variable (s : State)

/-! ### Writes of the stacks -/

theorem State.wrCount_keepsClock (a n) : s.keepsClock (s.wrCount a n) :=
  .ite (.refl s) (.foldl (fun s _ => .of_noted (s.count_noted _ 1)) _ s)

theorem State.poke_keepsClock (kind need a bs) : s.keepsClock (s.poke kind need a bs).1 := by
  have store (b : Nat) (cs : List Byte) : s.keepsClock ((s.store_ b cs).wrCount a bs.length) :=
    .trans (t := s.store_ b cs) ⟨rfl, rfl, rfl, rfl, rfl, rfl⟩ (State.wrCount_keepsClock ..)
  unfold State.poke
  split
  · exact .refl s
  · split
    · exact .of_noted ((s.count_noted ..).trans (State.raise_noted ..))
    · exact store _ _
    · exact store _ _

theorem State.dropWay_keepsClock (w) : s.keepsClock (s.dropWay w) :=
  have hdrop (s : State) (f : Nat) : s.keepsClock (s.dropHolder f) := s.poke_keepsClock ..
  .ite (hdrop s _) ((hdrop s _).trans (hdrop _ _))

theorem State.frameWays_keepsClock (a) : s.keepsClock (s.frameWays a) := by
  unfold State.frameWays
  split
  · next f _ =>
    exact .trans (t := { s with prefixes := s.prefixes.filter fun x => !(x.2.frame.toNat == f) })
      ⟨rfl, rfl, rfl, rfl, rfl, rfl⟩ (.foldl State.dropWay_keepsClock _ _)
  · exact .refl s

/-! ### Retirement copies -/

/-- A unit is read for its copy: an uncorrectable word of it is recorded (R284). -/
def State.unitRead (a : Nat) : State := if s.uncIn a 256 then s.uncRange a 256 9 else s

/-- The copy goes on at a unit of its pseudo-channel. -/
def State.copyAt (k : Nat) (p : BitVec 22) : State := { s with stk := tput s.stk k { s.stack k with copyPtr := p } }

theorem State.moveUnit_eq {k a} (ha : a = s.unitAddr k (s.stack k).copyPc.toNat (s.stack k).copyPtr.toNat) :
    s.moveUnit k =
      if s.uncIn a 256 then ((s.unitRead a).copyAt k ((s.stack k).copyPtr + 1#22)).frameWays a
      else (s.unitRead a).copyAt k ((s.stack k).copyPtr + 1#22) := by
  subst ha
  rfl

theorem State.unitRead_keepsClock (a) : s.keepsClock (s.unitRead a) := .ite (.of_noted (s.uncRange_noted ..)) (.refl s)

theorem State.copyAt_keepsClock (k p) : s.keepsClock (s.copyAt k p) := ⟨rfl, rfl, rfl, rfl, rfl, rfl⟩

theorem State.moveUnit_keepsClock (k) : s.keepsClock (s.moveUnit k) := by
  rw [s.moveUnit_eq rfl]
  have hmoved (a p) := (s.unitRead_keepsClock a).trans (State.copyAt_keepsClock _ k p)
  exact .ite ((hmoved _ _).trans (State.frameWays_keepsClock ..)) (hmoved _ _)

theorem State.tick_keepsClock : s.keepsClock s.tick := ⟨rfl, rfl, rfl, rfl, rfl, rfl⟩

theorem State.copyUnit_keepsClock (k) : s.keepsClock (s.copyUnit k) := by
  have hcopy (c : Prop) [Decidable c] : s.keepsClock (if c then s.moveUnit k else s) :=
    .ite (s.moveUnit_keepsClock k) (.refl s)
  exact .ite ((hcopy _).trans (State.tick_keepsClock _)) (.refl s)

theorem State.copyUnits_keepsClock : s.keepsClock s.copyUnits := .foldl State.copyUnit_keepsClock _ s

/-! ### A local count -/

/-- No local count passes before phase 4 of bring-up, nor while the control clock has failed (R346, R347). -/
theorem State.clockTick_stopped (h : (s.phase ≠ 0#4 ∧ s.phase.toNat < 4) ∨ s.clkUp 0 = false) : s.clockTick = s :=
  if_pos (by simpa using h)

/-- What waits for room in a local count writes none of these fields. -/
theorem State.clockTick_keepsClock (h : ¬((s.phase ≠ 0#4 ∧ s.phase.toNat < 4) ∨ s.clkUp 0 = false)) :
    s.age.keepsClock s.clockTick := by
  unfold State.clockTick
  rw [if_neg (by simpa using h)]
  exact s.age.copyUnits_keepsClock.trans ⟨rfl, rfl, rfl, rfl, rfl, rfl⟩

theorem step_of_idle {s : State} (h : s.pending = []) : step s = .next s.clockTick := by
  unfold step
  rw [h]

end

end Sys2Proof.Machine

open Sys2Proof Sys2Proof.Machine in

/-- Settles O2: the counters age, and neither the retirement copies nor the work that waits for room touch the clock. -/
theorem idleStepIsOneLocalCount : Obligations.IdleStepIsOneLocalCount := by
  intro s hidle
  refine ⟨fun hphase hclk => ⟨_, step_of_idle hidle, ?_⟩, fun h => ?_⟩
  · have hruns : ¬((s.phase ≠ 0#4 ∧ s.phase.toNat < 4) ∨ s.clkUp 0 = false) := by
      rintro (⟨hne, hlt⟩ | hoff)
      · exact hphase.elim hne fun h4 => absurd hlt (by omega)
      · simp [hclk] at hoff
    have k := s.clockTick_keepsClock hruns
    exact ⟨k.lcount, k.cap, k.fuses, k.dir, k.keys, k.pending.trans hidle⟩
  · rw [step_of_idle hidle, s.clockTick_stopped h]

/-! SUPPORT. A refused write of a register is counted in ERR_COUNT of its page alone; a command that finds nothing to do changes
nothing (Table 17-6, log 9). -/

namespace Sys2Proof.Machine

/-- ERR_COUNT of one page advances, and no other header changes. -/
theorem State.errInc_refusal (s : State) (p : Nat) : sameHdrsBut [p] s (s.errInc p) ∧
    ((s.hdr p).err ≠ 0xFFFF#16 → ((s.errInc p).hdr p).err = (s.hdr p).err + 1#16) := by
  refine ⟨fun q hq => ?_, fun herr => ?_⟩
  · rw [State.hdr_errInc, if_neg (by simpa using hq)]
  · rw [State.hdr_errInc, if_pos rfl]
    exact if_neg herr

/-- A command that, served or not, leaves the state as it is. -/
theorem exec_of_unchanged {s t : State} {c : Instr} (h : exec c s = if !s.serves c then .next s else .next t) (ht : t = s) :
    exec c s = .next s := by
  rw [h, ht, ite_self]

/-- The write back of a setting: registers, headers and the image of the retained settings. -/
def State.settingWrites (s t : State) : State := { s with regs := t.regs, hdrs := t.hdrs, ret := t.ret }

end Sys2Proof.Machine

/-! PROOFS. The tideline, the share groups, the accounting period and the model entries (O33; R197, R198, R199, R202, R205). -/

namespace Sys2Proof.Machine

section
variable {s : State}

/-! ### The tideline and the share groups -/

theorem tidelineWrite_refused {v : W} (h : v.getLsbD 8 = true ∧ bitsOf v 5 0 = 0) :
    tidelineWrite s v = s.errInc pgSched := if_pos h

theorem tidelineWrite_stored {v : W} (h : ¬(v.getLsbD 8 = true ∧ bitsOf v 5 0 = 0)) :
    tidelineWrite s v = s.wr pgSched 0x048 ((v &&& 0x33F#32) ||| 0x10000#32) := if_neg h

theorem completes_tidelineWrite {v : W} {P : State → Prop} (h : P (s.settingWrites (tidelineWrite s v))) :
    completes (.schedTidelineWrite v) s P :=
  completes_of_exec (t := s.settingWrites (tidelineWrite s v)) rfl rfl h

theorem grpWrite_refused {g : Nat} {v : W} (h : s.grpLegal g (v &&& 0x01FFFF03#32) = false) :
    grpWrite s g v = s.errInc pgSched := if_neg (by simp [h])

theorem grpWrite_stored {g : Nat} {v : W} (h : s.grpLegal g (v &&& 0x01FFFF03#32) = true) :
    grpWrite s g v = s.wr pgSched (0x100 + 4 * g) (v &&& 0x01FFFF03#32) := if_pos h

theorem completes_grpWrite {g : BitVec 6} {v : W} {P : State → Prop} (h : P (s.settingWrites (grpWrite s g.toNat v))) :
    completes (.schedGrpWrite g v) s P :=
  completes_of_exec (t := s.settingWrites (grpWrite s g.toNat v)) rfl rfl h

/-- The words of the share groups once one of them is written. -/
theorem State.grpWord_wr (s : State) (g k : Nat) (w : W) :
    (s.wr pgSched (0x100 + 4 * g) w).grpWord k = if k = g then w else s.grpWord k := by
  unfold State.grpWord
  rw [State.rd_wr]
  exact if_congr (by unfold regAt; omega) rfl rfl

/-- The shares with one group's word replaced: those of the other groups, and its own. -/
theorem sum_shares_replaced {l : List Nat} (hl : l.Nodup) {g : Nat} (hg : g ∈ l) (f : Nat → W) (w : W) :
    (l.map fun k => lcShare (if k = g then w else f k)).sum =
      ((l.filter fun k => k ≠ g).map fun k => lcShare (f k)).sum + lcShare w := by
  have hothers : (l.erase g).map (fun k => lcShare (if k = g then w else f k)) =
      (l.filter fun k => k ≠ g).map fun k => lcShare (f k) := by
    rw [hl.erase_eq_filter]
    refine (List.map_congr_left fun k hk => ?_).trans (congrArg (List.map _) (List.filter_congr fun k _ => ?_))
    · rw [if_neg (by simpa using (List.mem_filter.mp hk).2)]
    · rw [Bool.eq_iff_iff]
      simp
  rw [← List.sum_map_erase _ hg, hothers, if_pos rfl, Nat.add_comm]

theorem State.shares_le_of_grpLegal {g : Nat} {w : W} (h : s.grpLegal g w = true) :
    (((List.range 64).filter fun k => k ≠ g).map fun k => lcShare (s.grpWord k)).sum + lcShare w ≤ 256 := by
  unfold State.grpLegal at h
  exact of_decide_eq_true (Bool.and_eq_true_iff.mp h).1

/-- A legal word keeps the shares of the enabled latency-critical groups within a whole period (R198). -/
theorem State.shares_wr_le {g : Nat} (hg : g < 64) {w : W} (h : s.grpLegal g w = true) :
    ((List.range 64).map fun k => lcShare ((s.wr pgSched (0x100 + 4 * g) w).grpWord k)).sum ≤ 256 := by
  simp only [State.grpWord_wr]
  rw [sum_shares_replaced List.nodup_range (List.mem_range.mpr hg)]
  exact State.shares_le_of_grpLegal h

/-! ### The accounting period -/

theorem tget?_map {α β : Type} (f : α → β) (t : Tab α) (n : Nat) :
    tget? (t.map fun x => (x.1, f x.2)) n = (tget? t n).map f := by
  induction t with
  | nil => rfl
  | cons x t ih =>
    obtain ⟨k, v⟩ := x
    simp only [List.map_cons, tget?]
    split
    · rfl
    · exact ih

/-- The counters of a period, halved, and the period that begins (R199). -/
def State.periodEnded (s : State) : State :=
  { s with cap := s.cap >>> 1, used := s.used.map fun (g, u) => (g, u >>> 1), periodAt := s.lcount }

theorem periodEndOp_early (h : s.lcount.toNat < s.periodAt.toNat + (s.rd pgSched 0x044).toNat) : periodEndOp s = s := if_pos h

theorem periodEndOp_due (h : s.periodAt.toNat + (s.rd pgSched 0x044).toNat ≤ s.lcount.toNat) :
    periodEndOp s = s.periodEnded := if_neg (Nat.not_lt.mpr h)

/-- PERIOD_END's write back. -/
def State.periodWrites (s t : State) : State := { s with cap := t.cap, used := t.used, periodAt := t.periodAt }

theorem exec_periodEnd : exec .periodEnd s = if !s.serves .periodEnd then .next s else .next (s.periodWrites (periodEndOp s)) :=
  rfl

theorem toNat_half {n : Nat} (w : BitVec n) : (w >>> 1).toNat = w.toNat / 2 := by
  rw [BitVec.toNat_ushiftRight, Nat.shiftRight_one]

theorem State.usedOf_periodEnded (s : State) (g : Nat) : s.periodEnded.usedOf g = s.usedOf g / 2 := by
  unfold State.usedOf State.periodEnded tget
  dsimp only
  rw [tget?_map fun u : BitVec 64 => u >>> 1]
  cases tget? s.used g with
  | none => rfl
  | some u => exact toNat_half u

/-! ### Model entries -/

/-- The choice between the best entry so far, with its place and its time of use, and the next one. -/
def leastUsed (best : Option (Nat × Nat)) (x : ModelRes × Nat) : Option (Nat × Nat) :=
  match best with
  | none => some (x.2, x.1.used)
  | some (_, u) => if x.1.used < u then some (x.2, x.1.used) else best

/-- The entries that no step uses, with their places. -/
def State.freeEntries (s : State) : List (ModelRes × Nat) := s.modelRes.zipIdx.filter fun x => s.entryFree x.1

theorem State.entryToFill_eq (s : State) : s.entryToFill = (s.freeEntries.foldl leastUsed none).map (·.1) := rfl

/-- Of a best entry and those of a list, one is chosen that none of them was used before. -/
theorem leastUsed_foldl (l : List (ModelRes × Nat)) (p : ModelRes × Nat) :
    ∃ q ∈ p :: l, l.foldl leastUsed (some (p.2, p.1.used)) = some (q.2, q.1.used) ∧ ∀ x ∈ p :: l, q.1.used ≤ x.1.used := by
  induction l generalizing p with
  | nil => exact ⟨p, List.mem_singleton_self p, rfl, by simp⟩
  | cons y l ih =>
    rw [List.foldl_cons]
    by_cases hy : y.1.used < p.1.used
    · obtain ⟨q, hq, hfold, hmin⟩ := ih y
      refine ⟨q, List.mem_cons_of_mem p hq, ?_, fun x hx => ?_⟩
      · rw [← hfold]
        exact congrArg (l.foldl leastUsed) (if_pos hy)
      · obtain rfl | hx := List.mem_cons.mp hx
        · exact (hmin y List.mem_cons_self).trans hy.le
        · exact hmin x hx
    · obtain ⟨q, hq, hfold, hmin⟩ := ih p
      have hp := hmin p List.mem_cons_self
      refine ⟨q, ?_, ?_, fun x hx => ?_⟩
      · exact (List.mem_cons.mp hq).elim (fun h => h ▸ List.mem_cons_self) fun h => by simp [h]
      · rw [← hfold]
        exact congrArg (l.foldl leastUsed) (if_neg hy)
      · obtain rfl | hx := List.mem_cons.mp hx
        · exact hp
        obtain rfl | hx := List.mem_cons.mp hx
        · omega
        · exact hmin x (List.mem_cons_of_mem p hx)

theorem State.mem_freeEntries {e : ModelRes} {i : Nat} :
    (e, i) ∈ s.freeEntries ↔ s.modelRes[i]? = some e ∧ s.entryFree e = true := by
  unfold State.freeEntries
  rw [List.mem_filter, List.mk_mem_zipIdx_iff_getElem?]

/-- Where no entry is free there is none to fill. -/
theorem State.entryToFill_none (h : ∀ e ∈ s.modelRes, s.entryFree e = false) : s.entryToFill = none := by
  have hnone : s.freeEntries = [] := by
    refine List.eq_nil_iff_forall_not_mem.mpr fun ⟨e, i⟩ he => ?_
    obtain ⟨hi, hfree⟩ := State.mem_freeEntries.mp he
    rw [h e (List.mem_of_getElem? hi)] at hfree
    cases hfree
  rw [State.entryToFill_eq, hnone]
  rfl

/-- The entry to fill is free, and no free entry was used before it (R202). -/
theorem State.entryToFill_some (h : ∃ e ∈ s.modelRes, s.entryFree e = true) :
    ∃ i e, s.entryToFill = some i ∧ s.modelRes[i]? = some e ∧ s.entryFree e = true ∧
      ∀ (k : Nat) (x : ModelRes), s.modelRes[k]? = some x → s.entryFree x = true → e.used ≤ x.used := by
  obtain ⟨e, he, hfree⟩ := h
  obtain ⟨i, hi⟩ := List.mem_iff_getElem?.mp he
  have hmem := State.mem_freeEntries.mpr ⟨hi, hfree⟩
  rw [State.entryToFill_eq]
  cases hl : s.freeEntries with
  | nil => simp [hl] at hmem
  | cons p l =>
    obtain ⟨⟨f, j⟩, hq, hfold, hmin⟩ := leastUsed_foldl l p
    obtain ⟨hj, hjfree⟩ := State.mem_freeEntries.mp (hl ▸ hq)
    refine ⟨j, f, ?_, hj, hjfree, fun k x hk hx => hmin (x, k) (hl ▸ State.mem_freeEntries.mpr ⟨hk, hx⟩)⟩
    rw [List.foldl_cons]
    exact congrArg (Option.map Prod.fst) hfold

/-- A job waits for the model, which is loaded, and no entry holds it (R197, R202). -/
def State.switchDue (s : State) (m : Nat) : Prop :=
  s.resident m = false ∧ (s.model m).loaded = true ∧
    (s.jobs.any fun (k, j) => j.model == m && s.turnOf k && s.wouldForm k) = true

/-- The entry becomes the model's. -/
def State.entryFilled (s : State) (i m : Nat) : State :=
  { s with modelRes := s.modelRes.set i { valid := true, model := BitVec.ofNat 8 m, used := s.lcount.toNat } }

/-- The entry becomes the model's, and the switch is counted and raised. -/
def State.switched (s : State) (i m : Nat) : State := ((s.entryFilled i m).inc pgSched 0x068).raise pgSched 0

theorem modelSwitchOp_due {m : Nat} (h : s.switchDue m) :
    modelSwitchOp s m = match s.entryToFill with | none => s | some i => s.switched i m := by
  obtain ⟨hres, hload, hjob⟩ := h
  unfold modelSwitchOp
  rw [if_neg (by rw [hres, hload, hjob]; decide)]
  rfl

/-- SWITCH's write back. -/
def State.switchWrites (s t : State) : State := { s with modelRes := t.modelRes, ctrs := t.ctrs, hdrs := t.hdrs, regs := t.regs }

theorem exec_modelSwitch {m : BitVec 8} : exec (.modelSwitch m) s =
    if !s.serves (.modelSwitch m) then .next s else .next (s.switchWrites (modelSwitchOp s m.toNat)) := rfl

/-- What counts and raises a switch leaves every unit's state alone. -/
theorem State.switched_sameUnits (s : State) (i m) : sameUnits s (s.switchWrites (s.switched i m)) := by
  intro p
  have hpart : s.part = (s.switched i m).part := (State.count_part (s.entryFilled i m) _ 1).symm
  refine (State.unit_congr (s := s.switched i m) (t := s.switchWrites (s.switched i m)) rfl hpart p).trans ?_
  unfold State.switched
  rw [State.unit_raise, State.unit_inc]
  rfl

theorem State.switched_modelRes (s : State) (i m) : (s.switched i m).modelRes = (s.entryFilled i m).modelRes :=
  State.count_modelRes ..

end

end Sys2Proof.Machine

open Sys2Proof Sys2Proof.Machine in

/-- Settles O33: what each setting's write does where it is taken and where it is not, and the commands that are due or early. -/
theorem schedulerSettingsAndPeriod : Obligations.SchedulerSettingsAndPeriod := by
  refine ⟨fun s v => ⟨fun hen hval => ?tideRefused, fun hv => ?tideStored⟩,
    fun s g v => ⟨fun hv => ?groupStored, fun hv => ?groupRefused⟩, fun s => ⟨fun h => ?early, fun h => ?periodEnds⟩,
    fun s m hres hload hjob => ⟨fun hfree => ?noEntry, fun hfree => ?switches⟩⟩
  case tideRefused =>
    refine completes_tidelineWrite ?_
    rw [tidelineWrite_refused ⟨hen, hval⟩]
    exact ⟨rfl, s.errInc_refusal pgSched⟩
  case tideStored =>
    refine completes_tidelineWrite ?_
    rw [tidelineWrite_stored hv]
    exact ⟨State.rd_wr_same .., fun a ha => State.reg_setReg_other _ _ _ _ (by simpa using ha), rfl⟩
  case groupStored =>
    refine completes_grpWrite ?_
    rw [grpWrite_stored hv]
    exact ⟨State.rd_wr_same .., fun a ha => State.reg_setReg_other _ _ _ _ (by simpa using ha), rfl,
      State.shares_wr_le g.isLt hv⟩
  case groupRefused =>
    refine completes_grpWrite ?_
    rw [grpWrite_refused hv]
    exact ⟨rfl, s.errInc_refusal pgSched⟩
  case early => exact exec_of_unchanged exec_periodEnd (by rw [periodEndOp_early h]; rfl)
  case periodEnds =>
    refine completes_of_exec exec_periodEnd rfl ?_
    rw [periodEndOp_due h]
    exact ⟨toNat_half s.cap, rfl, s.usedOf_periodEnded⟩
  case noEntry =>
    refine exec_of_unchanged exec_modelSwitch ?_
    rw [modelSwitchOp_due ⟨hres, hload, hjob⟩, State.entryToFill_none hfree]
    rfl
  case switches =>
    obtain ⟨i, e, hfill, hi, he, hleast⟩ := State.entryToFill_some hfree
    refine completes_of_exec exec_modelSwitch rfl ?_
    rw [modelSwitchOp_due ⟨hres, hload, hjob⟩, hfill]
    refine ⟨((s.entryFilled i m.toNat).inc_countedBy pgSched 0x068).congr rfl rfl, State.event_raise_same _ _ _ (by decide),
      s.switched_sameUnits i m.toNat, i, e, hi, he, hleast, (s.switched_modelRes i m.toNat).trans ?_⟩
    unfold State.entryFilled
    rw [BitVec.ofNat_toNat, BitVec.setWidth_eq]

/-! PROOFS. The tide table: its image, its slots, and the slot in progress with its window (O34; R206, R207, R209). -/

namespace Sys2Proof.Machine

section
variable {s : State}

/-! ### The image of a slot -/

/-- A slot's word of job and VALID. -/
theorem bitsOf_jobWord (j : BitVec 8) (b : Bool) : bitsOf (BitVec.ofNat 32 (j.toNat + 256 * b2n b)) 7 0 = j.toNat := by
  have hj := j.isLt
  have hb : b2n b ≤ 1 := by cases b <;> decide
  unfold bitsOf
  rw [BitVec.toNat_ofNat]
  omega

theorem getLsbD_jobWord (j : BitVec 8) (b : Bool) : (BitVec.ofNat 32 (j.toNat + 256 * b2n b)).getLsbD 8 = b := by
  have hj := j.isLt
  rw [BitVec.getLsbD_ofNat, Nat.testBit_eq_decide_div_mod_eq]
  cases b <;> simp [b2n] <;> omega

theorem bitsOf_maskWord (m : BitVec 20) : bitsOf (m.setWidth 32) 19 0 = m.toNat := by
  have hm := m.isLt
  unfold bitsOf
  rw [BitVec.toNat_setWidth]
  omega

/-- TIDE_LOAD's write back. -/
def State.loadWrites (s t : State) : State := { s with regs := t.regs }

theorem State.rd_loadWrites {t : State} (h : t.part = s.part) (p o : Nat) : (s.loadWrites t).rd p o = t.rd p o :=
  State.reg_congr (s := t) (t := s.loadWrites t) rfl h.symm _

/-- The three words of the selected slot (Table 09-2). -/
theorem tideLoadOp_image (s : State) (k : BitVec 12) :
    (s.loadWrites (tideLoadOp s k)).rd pgTide 0x048 = (s.tideSlot k.toNat).dur ∧
    (s.loadWrites (tideLoadOp s k)).rd pgTide 0x04C =
      BitVec.ofNat 32 ((s.tideSlot k.toNat).job.toNat + 256 * b2n (s.tideSlot k.toNat).valid) ∧
    (s.loadWrites (tideLoadOp s k)).rd pgTide 0x050 = (s.tideSlot k.toNat).mask.setWidth 32 := by
  have hpart : (tideLoadOp s k).part = s.part := by simp [tideLoadOp, State.tideSel]
  simp only [State.rd_loadWrites hpart]
  simp [tideLoadOp]

theorem completes_tideLoad {k : BitVec 12} {P : State → Prop} (h : P (s.loadWrites (tideLoadOp s k))) :
    completes (.tideLoad k) s P :=
  completes_of_exec (t := s.loadWrites (tideLoadOp s k)) rfl rfl h

/-! ### The slots -/

/-- The selection of a slot is no part of the image. -/
theorem State.tideImg_tideSel (s : State) (k) : (s.tideSel k).tideImg = s.tideImg := by simp [State.tideImg, State.tideSel]

theorem State.tideLegal_tideSel (s : State) (k x) : (s.tideSel k).tideLegal x = s.tideLegal x := rfl

/-- The table with a slot written; a slot of zeros is not listed. -/
def State.tidePut (s : State) (n : Nat) (x : TideSlot) : State :=
  { s with tide := if x = TideSlot.mk 0#32 0#8 false 0#20 then tdel s.tide n else tput s.tide n x }

theorem State.tideSlot_tidePut (s : State) (n : Nat) (x : TideSlot) (i : Nat) :
    (s.tidePut n x).tideSlot i = if i = n then x else s.tideSlot i := by
  unfold State.tideSlot State.tidePut
  dsimp only
  split
  case isTrue hx =>
    split
    case isTrue hi => rw [hi, tget_tdel_same, hx]
    case isFalse hi => exact tget_tdel_other _ _ _ _ hi
  case isFalse => exact tget_tput ..

theorem tideCommitOp_refused {k : BitVec 12} (h : s.tideLegal s.tideImg = false) :
    tideCommitOp s k = (s.tideSel k).errInc pgTide := by
  unfold tideCommitOp
  dsimp only
  rw [State.tideImg_tideSel, State.tideLegal_tideSel]
  exact if_pos (by simp [h])

/-- A legal image that the slot holds already changes no setting. -/
theorem tideCommitOp_stored {k : BitVec 12} (h : s.tideLegal s.tideImg = true) :
    tideCommitOp s k =
      if s.tideSlot k.toNat = s.tideImg then s.tideSel k else ((s.tideSel k).tidePut k.toNat s.tideImg).touch := by
  unfold tideCommitOp
  dsimp only
  rw [State.tideImg_tideSel, State.tideLegal_tideSel]
  exact if_neg (by simp [h])

theorem tideCommitOp_slots {k : BitVec 12} (h : s.tideLegal s.tideImg = true) (n : Nat) :
    (tideCommitOp s k).tideSlot n = if n = k.toNat then s.tideImg else s.tideSlot n := by
  rw [tideCommitOp_stored h]
  split
  case isTrue hheld =>
    split
    case isTrue hn => exact hn ▸ hheld
    case isFalse => rfl
  case isFalse => exact (s.tideSel k).tideSlot_tidePut ..

theorem tideCommitOp_frame {k : BitVec 12} (h : s.tideLegal s.tideImg = true) :
    (tideCommitOp s k).hdrs = s.hdrs ∧ (tideCommitOp s k).regs = (s.tideSel k).regs := by
  rw [tideCommitOp_stored h]
  split <;> exact ⟨rfl, rfl⟩

/-- TIDE_COMMIT's write back. -/
def State.commitWrites (s t : State) : State := { s with tide := t.tide, regs := t.regs, hdrs := t.hdrs, ret := t.ret }

theorem completes_tideCommit {k : BitVec 12} {P : State → Prop} (h : P (s.commitWrites (tideCommitOp s k))) :
    completes (.tideCommit k) s P :=
  completes_of_exec (t := s.commitWrites (tideCommitOp s k)) rfl rfl h

/-! ### The end of a window -/

theorem State.endWindow_closed (h : s.tideCur.windowOpen = true) : s.endWindow =
    { s with
      tideCur := { s.tideCur with windowOpen := false }
      overruns := if (s.forms.any fun (_, f) => f.job == some s.tideCur.fields.job && !f.waiting) = true
        then s.overruns ++ [(s.tideCur.fields.job.toNat, BitVec.ofNat 64 s.windowEndAt)] else s.overruns } := by
  unfold State.endWindow
  exact if_neg (by simp [h])

/-- The end of a window writes the slot in progress and the overruns alone. -/
theorem State.endWindow_shape (s : State) : ∃ c o, s.endWindow = { s with tideCur := c, overruns := o } := by
  unfold State.endWindow
  dsimp only
  split <;> exact ⟨_, _, rfl⟩

/-- WINDOW_END's write back. -/
def State.windowEndWrites (s t : State) : State := { s with tideCur := t.tideCur, overruns := t.overruns }

theorem completes_windowEnd {P : State → Prop} (hdue : s.windowEndAt ≤ s.lcount.toNat)
    (h : P (s.windowEndWrites s.endWindow)) : completes .windowEnd s P :=
  completes_of_exec (t := s.windowEndWrites (if s.windowEndAt ≤ s.lcount.toNat then s.endWindow else s)) rfl rfl
    (by rwa [if_pos hdue])

/-! ### The beginning of a slot -/

/-- A slot opens a window: it is valid and its job is an open train-mode job (R207). -/
def State.slotOpens (s : State) (x : TideSlot) : Bool :=
  x.valid && (s.job x.job.toNat).st == 1#2 && (s.job x.job.toNat).isTrain

/-- The local counts of its job's debt by which a slot's window is shortened (R209). -/
def State.slotDeducts (s : State) (x : TideSlot) : Nat :=
  if s.slotOpens x then min (tget 0 s.debt x.job.toNat) x.dur.toNat else 0

/-- The slot in progress once slot k has begun. -/
def State.slotBegun (s : State) (k start : Nat) : TideCur :=
  { slot := BitVec.ofNat 12 k, fields := { s.tideSlot k with valid := s.slotOpens (s.tideSlot k) },
    start := BitVec.ofNat 64 start, deduct := s.slotDeducts (s.tideSlot k),
    windowOpen := s.slotOpens (s.tideSlot k) && decide (s.slotDeducts (s.tideSlot k) < (s.tideSlot k).dur.toNat) }

/-- The debts with d local counts of one paid; a debt paid off is not listed. -/
def payDebt (t : Tab Nat) (j d : Nat) : Tab Nat :=
  if d = 0 then t else if tget 0 t j = d then tdel t j else tput t j (tget 0 t j - d)

theorem tget_payDebt (t : Tab Nat) (j d i : Nat) :
    tget 0 (payDebt t j d) i = if i = j then tget 0 t j - d else tget 0 t i := by
  unfold payDebt
  split
  case isTrue hd =>
    subst hd
    split
    case isTrue hi => exact hi ▸ rfl
    case isFalse => rfl
  case isFalse =>
    split
    case isTrue hpaid =>
      split
      case isTrue hi => rw [hi, tget_tdel_same, hpaid, Nat.sub_self]
      case isFalse hi => exact tget_tdel_other _ _ _ _ hi
    case isFalse => exact tget_tput ..

theorem State.beginSlot_eq (s : State) (k start : Nat) : s.beginSlot k start =
    { s with
      tideCur := s.slotBegun k start
      debt := payDebt s.debt (s.tideSlot k).job.toNat (s.slotDeducts (s.tideSlot k)) } := by
  by_cases hd : s.slotDeducts (s.tideSlot k) = 0
  · rw [payDebt, if_pos hd]
    exact congrArg (fun u : State => { u with tideCur := s.slotBegun k start }) (if_pos hd)
  · rw [payDebt, if_neg hd]
    exact congrArg (fun u : State => { u with tideCur := s.slotBegun k start }) (if_neg hd)

/-- The slot in progress has run its duration at this local count. -/
def State.slotEndAt (s : State) : Nat := s.tideCur.start.toNat + s.tideCur.fields.dur.toNat

/-- The slot after the one in progress, the first after the last of the cycle (R207). -/
def State.nextSlot (s : State) : Nat :=
  if s.tideCur.slot.toNat + 1 < bitsOf (s.rd pgTide 0x040) 12 0 then s.tideCur.slot.toNat + 1 else 0

/-- The window in progress ends and the next slot begins where the slot before ended. -/
def State.slotTurned (s : State) : State := s.endWindow.beginSlot s.nextSlot s.slotEndAt

/-- The cycle that the first slot begins is counted and raised. -/
def State.cycleNoted (s : State) : State :=
  if s.nextSlot = 0 then (s.slotTurned.inc pgTide 0x060).raise pgTide 1 else s.slotTurned

theorem slotBeginOp_early (h : s.running pgTide = false ∨ s.lcount.toNat < s.slotEndAt) : slotBeginOp s = s :=
  if_pos (h.elim (fun hoff => .inl (by simp [hoff])) .inr)

theorem slotBeginOp_due (hrun : s.running pgTide = true) (hdue : s.slotEndAt ≤ s.lcount.toNat) :
    slotBeginOp s = s.cycleNoted := by
  obtain ⟨c, o, hend⟩ := s.endWindow_shape
  have hrd : s.endWindow.rd pgTide 0x040 = s.rd pgTide 0x040 := by rw [hend]; rfl
  unfold slotBeginOp State.cycleNoted State.slotTurned State.nextSlot
  dsimp only
  have hgoes : ¬((!s.running pgTide) = true ∨ s.lcount.toNat < s.tideCur.start.toNat + s.tideCur.fields.dur.toNat) := by
    rw [hrun]
    exact fun h => h.elim nofun (Nat.not_lt.mpr hdue)
  rw [if_neg hgoes, hrd]
  split <;> rfl

theorem State.slotTurned_eq (s : State) : ∃ o, s.slotTurned =
    { s with
      tideCur := s.slotBegun s.nextSlot s.slotEndAt
      overruns := o
      debt := payDebt s.debt (s.tideSlot s.nextSlot).job.toNat (s.slotDeducts (s.tideSlot s.nextSlot)) } := by
  obtain ⟨c, o, hend⟩ := s.endWindow_shape
  refine ⟨o, ?_⟩
  unfold State.slotTurned
  rw [hend, State.beginSlot_eq]
  rfl

/-- The next slot is in progress, and its job has paid the debt deducted from the window. -/
theorem State.slotTurned_begun (s : State) : s.slotTurned.tideCur = s.slotBegun s.nextSlot s.slotEndAt ∧
    s.slotTurned.debt =
      payDebt s.debt (s.tideSlot s.nextSlot).job.toNat (s.slotDeducts (s.tideSlot s.nextSlot)) := by
  obtain ⟨o, hturned⟩ := s.slotTurned_eq
  rw [hturned]
  exact ⟨rfl, rfl⟩

theorem State.slotTurned_frame (s : State) :
    s.slotTurned.part = s.part ∧ s.slotTurned.hdrs = s.hdrs ∧ s.slotTurned.ctrs = s.ctrs := by
  obtain ⟨o, hturned⟩ := s.slotTurned_eq
  rw [hturned]
  exact ⟨rfl, rfl, rfl⟩

theorem State.cycleNoted_first (h : s.nextSlot = 0) : s.cycleNoted = (s.slotTurned.inc pgTide 0x060).raise pgTide 1 := if_pos h

theorem State.cycleNoted_within (h : s.nextSlot ≠ 0) : s.cycleNoted = s.slotTurned := if_neg h

/-- Counting and raising the cycle writes neither the slot in progress nor the debts, and keeps every unit's state. -/
theorem State.cycleNoted_frame (s : State) : s.cycleNoted.tideCur = s.slotTurned.tideCur ∧
    s.cycleNoted.debt = s.slotTurned.debt ∧ s.cycleNoted.part = s.slotTurned.part ∧ sameUnits s.slotTurned s.cycleNoted := by
  by_cases h : s.nextSlot = 0
  · rw [State.cycleNoted_first h]
    exact ⟨by simp, by simp, by simp, fun p => by simp⟩
  · rw [State.cycleNoted_within h]
    exact ⟨rfl, rfl, rfl, fun _ => rfl⟩

/-- SLOT_BEGIN's write back. -/
def State.slotWrites (s t : State) : State :=
  { s with
    tideCur := t.tideCur, debt := t.debt, overruns := t.overruns, ctrs := t.ctrs, hdrs := t.hdrs, regs := t.regs }

theorem exec_slotBegin : exec .slotBegin s = if !s.serves .slotBegin then .next s else .next (s.slotWrites (slotBeginOp s)) :=
  rfl

theorem State.unit_slotWrites {t : State} (h : t.part = s.part) (p : Nat) : (s.slotWrites t).unit p = t.unit p :=
  State.unit_congr (s := t) (t := s.slotWrites t) rfl h.symm p

theorem State.ctr_slotWrites (s t : State) (a : Nat) : (s.slotWrites t).ctr a = t.ctr a := rfl

theorem State.event_slotWrites (s t : State) (p b : Nat) : (s.slotWrites t).event p b = t.event p b := rfl

theorem State.slotWrites_sameUnits (s : State) : sameUnits s (s.slotWrites s.cycleNoted) := by
  obtain ⟨-, -, hpart, hunits⟩ := s.cycleNoted_frame
  obtain ⟨hpart', hhdrs, -⟩ := s.slotTurned_frame
  intro p
  calc (s.slotWrites s.cycleNoted).unit p
    _ = s.cycleNoted.unit p := State.unit_slotWrites (hpart.trans hpart') p
    _ = s.slotTurned.unit p := hunits p
    _ = s.unit p := State.unit_congr hhdrs hpart' p

theorem State.slotWrites_cycle (h : s.nextSlot = 0) :
    s.countedBy (s.slotWrites s.cycleNoted) pgTide 0x060 1 ∧ (s.slotWrites s.cycleNoted).event pgTide 1 = true := by
  obtain ⟨-, -, hctrs⟩ := s.slotTurned_frame
  have hctr : s.ctr (regAt pgTide 0x060) = s.slotTurned.ctr (regAt pgTide 0x060) := by
    unfold State.ctr
    rw [hctrs]
  rw [State.event_slotWrites, State.cycleNoted_first h]
  exact ⟨(s.slotTurned.inc_countedBy pgTide 0x060).congr hctr
      ((State.ctr_slotWrites ..).trans (State.ctr_raise ..)),
    State.event_raise_same _ _ _ (by decide)⟩

end

end Sys2Proof.Machine

open Sys2Proof Sys2Proof.Machine in

/-- Settles O34: the image loaded and committed, the slot that begins with its window and its debt, and the window's end. -/
theorem tideTableAndWindows : Obligations.TideTableAndWindows := by
  refine ⟨fun s k => ?load, fun s k => ⟨fun hlegal => ?stored, fun hlegal => ?refused⟩,
    fun s => ⟨fun hearly => ?early, fun hrun hdue n x j ok d hn hx hj hok hd => ?begins⟩, fun s hdue hopen => ?windowEnds⟩
  case load =>
    obtain ⟨hdur, hjob, hmask⟩ := tideLoadOp_image s k
    refine completes_tideLoad ?_
    rw [hdur, hjob, hmask]
    exact ⟨rfl, bitsOf_jobWord .., getLsbD_jobWord .., bitsOf_maskWord _⟩
  case stored =>
    obtain ⟨hhdrs, hregs⟩ := tideCommitOp_frame (k := k) hlegal
    refine completes_tideCommit ?_
    refine ⟨?_, fun n hn => ?_, hhdrs, fun a ha => ?_⟩
    · exact (tideCommitOp_slots hlegal _).trans (if_pos rfl)
    · exact (tideCommitOp_slots hlegal n).trans (if_neg hn)
    · refine (State.reg_congr (s := s.tideSel k) (t := s.commitWrites (tideCommitOp s k)) hregs rfl a).trans ?_
      exact State.reg_setReg_other _ _ _ _ (by simpa using ha)
  case refused =>
    refine completes_tideCommit ?_
    rw [tideCommitOp_refused hlegal]
    exact ⟨rfl, (s.tideSel k).errInc_refusal pgTide⟩
  case early => exact exec_of_unchanged exec_slotBegin (by rw [slotBeginOp_early hearly]; rfl)
  case begins =>
    obtain rfl : n = s.nextSlot := hn
    obtain rfl : ok = s.slotOpens x := by rw [hok, hj]; rfl
    obtain rfl : d = s.slotDeducts x := hd
    subst hx
    refine completes_of_exec exec_slotBegin rfl ?_
    rw [slotBeginOp_due hrun hdue]
    obtain ⟨hcur, hdebt, -, -⟩ := s.cycleNoted_frame
    obtain ⟨hbegun, hpaid⟩ := s.slotTurned_begun
    have hslot : (s.slotWrites s.cycleNoted).tideCur = s.slotBegun s.nextSlot s.slotEndAt := hcur.trans hbegun
    have howed (i : Nat) : tget 0 (s.slotWrites s.cycleNoted).debt i = _ :=
      (congrArg (tget 0 · i) (hdebt.trans hpaid)).trans (tget_payDebt ..)
    have hstart : (BitVec.ofNat 64 s.slotEndAt).toNat = s.slotEndAt := by
      rw [BitVec.toNat_ofNat]
      exact Nat.mod_eq_of_lt (hdue.trans_lt s.lcount.isLt)
    rw [hslot]
    refine ⟨rfl, rfl, hstart, rfl, ?_, s.slotWrites_sameUnits, (howed _).trans (if_pos rfl), fun k hk =>
      (howed k).trans (if_neg hk), State.slotWrites_cycle, fun hn => ?_⟩
    · simp [State.slotBegun]
    · obtain ⟨-, hhdrs, hctrs⟩ := s.slotTurned_frame
      rw [State.cycleNoted_within hn]
      exact ⟨hhdrs, hctrs⟩
  case windowEnds =>
    refine completes_windowEnd hdue ?_
    rw [State.endWindow_closed hopen]
    refine ⟨rfl, ?_⟩
    unfold State.windowEndWrites
    split
    case isTrue => rfl
    case isFalse => exact (List.append_nil _).symm

/-! PROOFS. TAKE, RELEASE and RETRY: an adapter's training mark and a job's STUCK (O35; R220, R239). -/

namespace Sys2Proof.Machine

section
variable {s : State} {jn a op : Nat}

/-! ### Reports of TRAIN_ACMD -/

theorem State.acmdCode_lt (s : State) (jn a op : Nat) : s.acmdCode jn a op < 2 ^ 5 := by
  unfold State.acmdCode
  dsimp only
  split_ifs <;> decide

theorem State.rd_acmdDone (s : State) (jn a op : Nat) {code : Nat} (h : code < 2 ^ 5) :
    bitsOf ((s.acmdDone jn a op code).rd pgTrain 0x044) 4 0 = code := by
  unfold State.acmdDone
  rw [State.rd_setFld_same]
  exact bitsOf_setField_same _ (by decide) (by decide) h

theorem State.reg_setFld_other (s : State) (p o l w v : Nat) {b : Nat} (h : b ≠ regAt p o) :
    (s.setFld p o l w v).reg b = s.reg b := State.reg_setReg_other _ _ _ _ h

theorem State.acmdDone_sameRegs (s : State) (jn a op code : Nat) :
    sameRegsBut [regAt pgTrain 0x040, regAt pgTrain 0x044] s (s.acmdDone jn a op code) := by
  intro b hb
  obtain ⟨hcmd, hres⟩ : b ≠ regAt pgTrain 0x040 ∧ b ≠ regAt pgTrain 0x044 := by simpa using hb
  unfold State.acmdDone
  rw [State.reg_setFld_other _ _ _ _ _ _ hres, State.reg_setFld_other _ _ _ _ _ _ hcmd,
    State.reg_setFld_other _ _ _ _ _ _ hcmd, State.reg_setFld_other _ _ _ _ _ _ hcmd]

/-! ### TAKE and RELEASE -/

/-- The entry that a TAKE (1) or RELEASE (2) which passes leaves (R220). -/
def DirEntry.marked (e : DirEntry) (jn op : Nat) : DirEntry :=
  if op = 1 then { e with trained := true, trainJob := BitVec.ofNat 8 jn } else { e with trained := false, trainJob := 0#8 }

theorem acmdOp_refused (h : s.acmdCode jn a op ≠ 0) : acmdOp s jn a op = s.acmdDone jn a op (s.acmdCode jn a op) :=
  if_pos h

theorem acmdOp_passed (h : s.acmdCode jn a op = 0) :
    acmdOp s jn a op = (s.acmdDone jn a op 0).setEntry a ((s.entry a).marked jn op) := by
  have he : (s.acmdDone jn a op 0).entry a = s.entry a := State.entry_congr rfl a
  unfold acmdOp
  dsimp only
  rw [h, if_neg (by decide), he, DirEntry.marked]
  exact (apply_ite ((s.acmdDone jn a op 0).setEntry a) _ _ _).symm

/-- TAKE's and RELEASE's write back of what the command gave. -/
def State.acmdWrites (s t : State) : State := { s with dir := t.dir, regs := t.regs, ret := t.ret }

/-- The registers that a TAKE or RELEASE writes back are those of its report. -/
theorem State.acmdWrites_reg (s : State) (jn a op b : Nat) :
    (s.acmdWrites (acmdOp s jn a op)).reg b = (s.acmdDone jn a op (s.acmdCode jn a op)).reg b := by
  refine State.reg_congr (s := s.acmdDone jn a op (s.acmdCode jn a op)) (t := s.acmdWrites (acmdOp s jn a op)) ?_ rfl b
  change (acmdOp s jn a op).regs = _
  by_cases h : s.acmdCode jn a op = 0
  · rw [acmdOp_passed h, h, State.setEntry]
  · rw [acmdOp_refused h]

theorem State.acmdWrites_entry (h : s.acmdCode jn a op = 0) (k : Nat) :
    (s.acmdWrites (acmdOp s jn a op)).entry k = if k = a then (s.entry a).marked jn op else s.entry k := by
  have hw (t : State) : (s.acmdWrites t).entry k = t.entry k := State.entry_congr rfl k
  rw [hw, acmdOp_passed h, State.entry_setEntry, State.entry_congr (s := s) (t := s.acmdDone jn a op 0) rfl]

/-- A command that TRAIN_ACMD carries reports its code, and marks the entry where the code is 0. -/
theorem completes_acmd {c : Instr}
    (he : exec c s = if !s.serves c then .next s else .next (s.acmdWrites (acmdOp s jn a op)))
    (ho : c.onlyWrites s (s.acmdWrites (acmdOp s jn a op))) :
    completes c s fun t => bitsOf (t.rd pgTrain 0x044) 4 0 = s.acmdCode jn a op ∧
      sameRegsBut [regAt pgTrain 0x040, regAt pgTrain 0x044] s t ∧
      (s.acmdCode jn a op = 0 → t.entry a = (s.entry a).marked jn op ∧ ∀ k, k ≠ a → t.entry k = s.entry k) ∧
      (s.acmdCode jn a op ≠ 0 → t.dir = s.dir) := by
  refine completes_of_exec he ho ⟨?_, fun b hb => ?_, fun h => ⟨?_, fun k hk => ?_⟩, fun h => ?_⟩
  · rw [State.rd, State.acmdWrites_reg]
    exact s.rd_acmdDone jn a op (s.acmdCode_lt jn a op)
  · rw [State.acmdWrites_reg]
    exact s.acmdDone_sameRegs jn a op _ b hb
  · rw [State.acmdWrites_entry h, if_pos rfl]
  · rw [State.acmdWrites_entry h, if_neg hk]
  · change (acmdOp s jn a op).dir = s.dir
    rw [acmdOp_refused h]
    rfl

/-! ### RETRY -/

theorem trainRetryOp_stuck (h : (s.job jn).train.stuck = true) :
    trainRetryOp s jn = s.setTrain jn fun t => { t with stuck := false, attempt := 0#4 } := if_pos h

theorem trainRetryOp_running (h : (s.job jn).train.stuck = false) : trainRetryOp s jn = s.errInc pgTrain :=
  if_neg (by simp [h])

/-- RETRY's write back of what its operation gave. -/
def State.retryWrites (s t : State) : State := { s with jobs := t.jobs, hdrs := t.hdrs }

theorem State.job_retryWrites (s t : State) (k : Nat) : (s.retryWrites t).job k = t.job k := rfl

theorem completes_trainRetry {job : BitVec 8} {P : State → Prop} (h : P (s.retryWrites (trainRetryOp s job.toNat))) :
    completes (.trainRetry job) s P :=
  completes_of_exec (t := s.retryWrites (trainRetryOp s job.toNat)) rfl rfl h

/-- A change of a job's training state is one of that job alone. -/
theorem State.job_setTrain (s : State) (jn k : Nat) (f : Train → Train) :
    (s.setTrain jn f).job k = if k = jn then { s.job jn with train := f (s.job jn).train } else s.job k :=
  State.job_setJob _ _ _ _

end

end Sys2Proof.Machine

open Sys2Proof Sys2Proof.Machine in
/-- Settles O35: by whether the command's code is 0, and whether the job is stuck. -/
theorem trainingTakesAndReleasesAdapters : Obligations.TrainingTakesAndReleasesAdapters := by
  refine ⟨fun s job a c op e h => ?acmd, fun s job => ⟨fun h => ?stuck, fun h => ?running⟩⟩
  case acmd =>
    obtain ⟨rfl, rfl, rfl⟩ | ⟨rfl, rfl, rfl⟩ := h
    · have hm : (s.entry a.toNat).marked job.toNat 1 = { s.entry a.toNat with trained := true, trainJob := job } := by
        simp [DirEntry.marked]
      rw [← hm]
      exact completes_acmd rfl rfl
    · exact completes_acmd rfl rfl
  case stuck =>
    refine completes_trainRetry ?_
    rw [trainRetryOp_stuck h]
    refine ⟨rfl, ?_, fun k hk => ?_⟩
    · rw [State.job_retryWrites, State.job_setTrain, if_pos rfl]
    · rw [State.job_retryWrites, State.job_setTrain, if_neg hk]
  case running =>
    refine completes_trainRetry ?_
    rw [trainRetryOp_running h]
    exact ⟨rfl, s.errInc_refusal pgTrain⟩

/-! SUPPORT. What placement and the end of a form leave of the jobs: their steps apart, they stay, with the directory, the stacks
and the messages (R199, R225, R231). -/

namespace Sys2Proof.Machine

/-! ### The relation -/

/-- Of the jobs only the steps in flight may have changed, none of which began or ended or had a loss recorded; the directory, the
stacks and the messages are as they were. -/
structure State.stepsOnly (s t : State) : Prop where
  jobs : ∀ j, t.job j = { s.job j with cur := (t.job j).cur }
  idle : ∀ j, (s.job j).cur = none → (t.job j).cur = none
  steps : ∀ j a, (s.job j).cur = some a → ∃ b, (t.job j).cur = some b ∧ b.rows.map Row.loss = a.rows.map Row.loss
  dir : t.dir = s.dir
  mem : t.mem = s.mem
  updOut : t.updOut = s.updOut
  ctrlIn : t.ctrlIn = s.ctrlIn

namespace State.stepsOnly
variable {s t u : State}

/-- A change of a field that none of the facts speaks of. -/
theorem of_eq (hj : t.jobs = s.jobs) (hd : t.dir = s.dir) (hm : t.mem = s.mem) (hu : t.updOut = s.updOut)
    (hc : t.ctrlIn = s.ctrlIn) : s.stepsOnly t where
  jobs j := by rw [State.job_congr hj]
  idle j h := by rwa [State.job_congr hj]
  steps j a h := ⟨a, by rwa [State.job_congr hj], rfl⟩
  dir := hd
  mem := hm
  updOut := hu
  ctrlIn := hc

theorem refl (s : State) : s.stepsOnly s := .of_eq rfl rfl rfl rfl rfl

theorem of_noted (h : s.noted t) : s.stepsOnly t := by
  obtain ⟨_, _, _, _, _, _, _, rfl⟩ := h
  exact .of_eq rfl rfl rfl rfl rfl

theorem trans (h : s.stepsOnly t) (k : t.stepsOnly u) : s.stepsOnly u where
  jobs j := by rw [k.jobs j, h.jobs j]
  idle j hj := k.idle j (h.idle j hj)
  steps j a ha := by
    obtain ⟨b, hb, hab⟩ := h.steps j a ha
    obtain ⟨c, hc, hbc⟩ := k.steps j b hb
    exact ⟨c, hc, hbc.trans hab⟩
  dir := k.dir.trans h.dir
  mem := k.mem.trans h.mem
  updOut := k.updOut.trans h.updOut
  ctrlIn := k.ctrlIn.trans h.ctrlIn

theorem ite {c : Prop} [Decidable c] (ht : s.stepsOnly t) (hu : s.stepsOnly u) : s.stepsOnly (if c then t else u) := by
  split <;> assumption

theorem foldl {α : Type} {f : State → α → State} (hf : ∀ (s : State) x, s.stepsOnly (f s x)) (l : List α) (s : State) :
    s.stepsOnly (l.foldl f s) := by
  induction l generalizing s with
  | nil => exact .refl s
  | cons x l ih => exact (hf s x).trans (ih _)

theorem train (h : s.stepsOnly t) (j : Nat) : (t.job j).train = (s.job j).train := by rw [h.jobs j]

end State.stepsOnly

section
variable (s : State)

theorem State.count_stepsOnly (a n) : s.stepsOnly (s.count a n) := .of_noted (s.count_noted a n)

theorem State.raise_stepsOnly (p b) : s.stepsOnly (s.raise p b) := .of_noted (s.raise_noted p b)

theorem State.note_noted (r a cls) : s.noted (s.note r a cls) :=
  .ite ((s.count_noted ..).trans (State.raise_noted ..)) (.ite (s.uncRange_noted ..) (.refl s))

theorem State.note_stepsOnly (r a cls) : s.stepsOnly (s.note r a cls) := .of_noted (s.note_noted r a cls)

/-! ### Steps in flight -/

theorem State.setStep_stepsOnly {j : Nat} {a b : Step} (ha : (s.job j).cur = some a)
    (h : b.rows.map Row.loss = a.rows.map Row.loss) : s.stepsOnly (s.setStep j b) where
  jobs k := by
    rw [State.job_setStep]
    split
    · next e => rw [e]
    · rfl
  idle k hk := by
    rw [State.job_setStep]
    split
    · next e => rw [e, ha] at hk; cases hk
    · exact hk
  steps k x hx := by
    rw [State.job_setStep]
    split
    · next e =>
      rw [e, ha] at hx
      cases hx
      exact ⟨b, rfl, h⟩
    · exact ⟨x, hx, rfl⟩
  dir := rfl
  mem := rfl
  updOut := rfl
  ctrlIn := rfl

/-- A change of rows that keeps a part of each keeps the list of these parts. -/
theorem map_part_zipIdx {β : Type} (g : Row → β) (rows : List Row) {f : Row × Nat → Row} (hf : ∀ r i, g (f (r, i)) = g r) :
    (rows.zipIdx.map f).map g = rows.map g := by
  rw [List.map_map]
  calc _ = rows.zipIdx.map (g ∘ Prod.fst) := List.map_congr_left fun x _ => hf x.1 x.2
    _ = rows.map g := by rw [← List.map_map, List.zipIdx_map_fst]

theorem Row.loss_fail (r : Row) (code) : (r.fail code).loss = r.loss := by
  unfold Row.fail
  split <;> rfl

theorem Step.failRows_losses (st : Step) (rows code) :
    (st.failRows rows code).rows.map Row.loss = st.rows.map Row.loss :=
  map_part_zipIdx Row.loss _ fun r i => by
    dsimp only
    split
    · exact r.loss_fail code
    · rfl

theorem Step.markRows_losses (st : Step) (rows layer d) :
    (st.markRows rows layer d).rows.map Row.loss = st.rows.map Row.loss :=
  map_part_zipIdx Row.loss _ fun r i => by
    dsimp only
    split <;> rfl

theorem State.failRows_stepsOnly (j rows code) : s.stepsOnly (s.failRows j rows code) := by
  unfold State.failRows
  split
  · next a ha => exact .ite (.refl s) (s.setStep_stepsOnly ha (a.failRows_losses _ code))
  · exact .refl s

theorem State.failForm_stepsOnly (d code) : s.stepsOnly (s.failForm d code) := by
  unfold State.failForm
  split
  · exact s.failRows_stepsOnly _ _ code
  · exact .refl s

theorem State.markRows_stepsOnly (j rows layer d) : s.stepsOnly (s.markRows j rows layer d) := by
  unfold State.markRows
  split
  · next a ha => exact s.setStep_stepsOnly ha (a.markRows_losses rows layer d)
  · exact .refl s

theorem State.addSeg_stepsOnly (d slice) : s.stepsOnly (s.addSeg d slice) := by
  unfold State.addSeg
  split
  · next h => exact .ite (.refl s) (s.setStep_stepsOnly (s.cur_of_formStep h) rfl)
  · exact .refl s

theorem State.chargeStep_stepsOnly (f) : s.stepsOnly (s.chargeStep f) := by
  unfold State.chargeStep
  split
  · next h => exact s.setStep_stepsOnly (s.cur_of_formStep h) rfl
  · exact .refl s

theorem State.feedForm_stepsOnly (d r a) : s.stepsOnly (s.feedForm d r a) :=
  .ite ((s.note_stepsOnly r a 0).trans (State.failForm_stepsOnly ..)) (.refl s)

theorem State.feedAll_stepsOnly (d rs) : s.stepsOnly (s.feedAll d rs) :=
  .foldl (fun s (x : Nat × MemRes) => s.feedForm_stepsOnly d x.2 x.1) rs s

/-! ### Placement and the end of a form -/

theorem State.wake_stepsOnly (dom) : s.stepsOnly (s.wake dom) := by
  refine .ite (.trans ?_ (State.count_stepsOnly _ _ 1)) (.refl s)
  exact .of_eq rfl rfl rfl rfl rfl

theorem State.seatForm_stepsOnly (fid f) : s.stepsOnly (s.seatForm fid f) := by
  rw [State.seatForm_eq]
  refine .trans (.trans (.ite ?_ (.refl s)) (State.wake_stepsOnly _ _)) (.of_eq rfl rfl rfl rfl rfl)
  exact s.count_stepsOnly _ 1

theorem State.stage_stepsOnly (d slice) : s.stepsOnly (s.stage d slice) := by
  unfold State.stage
  split
  · dsimp only
    refine .ite (.refl s) ?_
    split
    · exact .refl s
    · split
      · exact .ite (s.failForm_stepsOnly _ cMem) (.refl s)
      · refine .ite (.trans (.trans ?_ (State.note_stepsOnly ..)) (State.failForm_stepsOnly ..)) ?_
        · exact .of_eq rfl rfl rfl rfl rfl
        · exact .of_eq rfl rfl rfl rfl rfl
  · exact .refl s

theorem State.takeCore_stepsOnly (fid f) : s.stepsOnly (s.takeCore fid f) :=
  ((s.seatForm_stepsOnly fid f).trans (State.addSeg_stepsOnly ..)).trans (State.stage_stepsOnly ..)

theorem State.placeOne_stepsOnly (x) : s.stepsOnly (s.placeOne x) := by
  unfold State.placeOne
  split
  · exact .refl s
  · exact .ite (.of_eq rfl rfl rfl rfl rfl) (s.takeCore_stepsOnly ..)

theorem State.placeWaiting_stepsOnly : s.stepsOnly s.placeWaiting := .foldl State.placeOne_stepsOnly _ s

theorem State.endOverrun_stepsOnly (f j w) : s.stepsOnly (s.endOverrun f j w) := by
  refine .ite (.refl s) (.trans (.trans ?_ (State.count_stepsOnly _ _ _)) (State.raise_stepsOnly _ pgTide 0))
  exact .of_eq rfl rfl rfl rfl rfl

theorem State.endOverruns_stepsOnly (f j) : s.stepsOnly (s.endOverruns f j) := by
  cases j with
  | none => exact .refl s
  | some j => exact .foldl (fun s (x : Nat × BitVec 64) => s.endOverrun_stepsOnly f j.toNat x.2) _ s

theorem State.freeCore_stepsOnly (fid f) : s.stepsOnly (s.freeCore fid f) :=
  .ite (.of_eq rfl rfl rfl rfl rfl) (.of_eq rfl rfl rfl rfl rfl)

theorem State.endForm_stepsOnly (fid) : s.stepsOnly (s.endForm fid) := by
  cases h : tget? s.forms fid with
  | none => rw [State.endForm, h]; exact .refl s
  | some f =>
    rw [State.endForm_eq h, State.leaveCore_eq]
    exact (((s.freeCore_stepsOnly fid f).trans (State.chargeStep_stepsOnly _ f)).trans
      (State.endOverruns_stepsOnly _ f f.job)).trans (State.placeWaiting_stepsOnly _)

end

end Sys2Proof.Machine

/-! PROOFS. LOSS records the loss and lands its gradient, BVEC lands its rows, and each leaves its core (O26; R225, R227, R230). -/

namespace Sys2Proof.Machine

section
variable {s t u : State} {fid code jn row m : Nat} {f : Form} {b : BitVec 512} {st : Step} {d : DeltaDesc}

/-! ### The form that a number places, and its step -/

theorem State.rawRuns.deltaForm (h : s.rawRuns fid code f b jn st) :
    s.deltaForm fid code = some (f, b, deltaDesc b, jn, st) := by
  obtain ⟨hf, hd, hc, hst, hi, -⟩ := h
  unfold State.deltaForm
  rw [hf]
  simp only [hd, hst]
  rw [if_neg (by simp [hi, hc])]

theorem State.rawRuns.cur (h : s.rawRuns fid code f b jn st) : (s.job jn).cur = some st := by
  obtain ⟨-, -, -, hst, -⟩ := h
  exact s.cur_of_formStep hst

theorem State.desc_congr (h : t.models = s.models) (n : Nat) : t.desc n = s.desc n := by
  unfold State.desc State.model
  rw [h]

theorem State.setTrain_keepsBasis (s : State) (jn g) : s.keepsBasis (s.setTrain jn g) := by
  refine ⟨rfl, fun _ => rfl, rfl, rfl, rfl, fun k a ha => ⟨a, ?_, .refl a⟩⟩
  rw [State.job_setTrain]
  split
  · next e => rw [← e, ha]
  · exact ha

/-- The statistics of a tile change a job's counts and its NaN mark alone. -/
theorem State.stat_job (s : State) (jn cls fmt c k) : ∃ stats flag, (s.stat jn cls fmt c).job k =
    { s.job k with train := { (s.job k).train with stats := stats, nanFlag := flag } } := by
  unfold State.stat
  dsimp only
  split
  · exact ⟨_, _, rfl⟩
  · rw [State.job_setJob]
    split
    · next e => rw [e]; exact ⟨_, _, rfl⟩
    · exact ⟨_, _, rfl⟩

theorem State.putX_job (s : State) (jn a cls vs k) : ∃ stats flag, (s.putX jn a cls vs).job k =
    { s.job k with train := { (s.job k).train with stats := stats, nanFlag := flag } } := s.stat_job jn cls _ _ k

theorem State.setRow_train (s : State) (jn i g k) : ((s.setRow jn i g).job k).train = (s.job k).train := by
  unfold State.setRow
  split
  · rw [State.job_setStep]
    split
    · next e => rw [e]
    · rfl
  · rfl

/-! ### The loss of a row -/

/-- Row i of the step in flight has had this loss recorded. -/
def State.lossAt (s : State) (jn i : Nat) (w : Option W) : Prop := ∃ a, (s.job jn).cur = some a ∧ (a.row i).loss = w

theorem Step.row_loss {a b : Step} (h : b.rows.map Row.loss = a.rows.map Row.loss) (i) : (b.row i).loss = (a.row i).loss := by
  have e (l : List Row) (d : Row) : (l.getD i d).loss = (l.map Row.loss).getD i d.loss := by rw [List.getD_map]
  unfold Step.row
  rw [e, e, h]

theorem State.lossAt.later {i : Nat} {w : Option W} (h : s.lossAt jn i w) (k : s.stepsOnly t) : t.lossAt jn i w := by
  obtain ⟨a, ha, hw⟩ := h
  obtain ⟨b, hb, hr⟩ := k.steps jn a ha
  exact ⟨b, hb, (Step.row_loss hr i).trans hw⟩

theorem State.setRow_lossAt {a : Step} {i : Nat} (ha : (s.job jn).cur = some a) (hi : i < a.rows.length) (w : W) :
    (s.setRow jn i fun r => { r with loss := some w }).lossAt jn i (some w) := by
  unfold State.setRow
  rw [ha]
  refine ⟨_, by rw [State.job_setStep, if_pos rfl], ?_⟩
  exact congrArg Row.loss (row_of_setRow (fun r : Row => { r with loss := some w }) hi)

/-! ### LOSS -/

/-- A row's label has been read: one out of range is counted, and one that is lost fails the row (R225). -/
def State.lossNoted (s : State) (jn : Nat) (st : Step) (row : Nat) : State :=
  let u := if (s.targetOf (st.row row) (s.desc st.model.toNat).vocab).2 then s.inc pgTrain 0x228 else s
  if u.labelLost (st.row row) then u.failRows jn [row] cDesc else u

/-- The landed logits of a row (R225). -/
def State.lossLogits (s : State) (jn : Nat) (st : Step) (d : DeltaDesc) (row m : Nat) : List W :=
  (s.landedOr jn st 8 0 0 0 row (d.src + m * d.stride) d.width).map toF32

/-- Where LOSS lands a row's gradient. -/
def State.lossPlace (s : State) (d : DeltaDesc) (m : Nat) : Nat := d.dst + m * rowLen s.decl.xFmt.toNat d.width

/-- A row with a loss is one more valid row of the attempt, and the loss is recorded for it (R225). -/
def State.lossTaken (s : State) (jn row : Nat) (loss : W) : State :=
  (s.setTrain jn fun t => { t with nvalid := t.nvalid + 1, nanFlag := t.nanFlag || !(ofF32 loss).isFinite }).setRow jn row
    fun r => { r with loss := some loss }

theorem State.lossOne_unlabelled (h : (s.targetOf (st.row row) (s.desc st.model.toNat).vocab).1 = none) :
    s.lossOne jn st d row m = (s.lossNoted jn st row).putX jn ((s.lossNoted jn st row).lossPlace d m) 2
      (List.replicate d.width .zero) := by
  unfold State.lossOne State.lossNoted State.lossPlace
  generalize s.targetOf (st.row row) (s.desc st.model.toNat).vocab = x at *
  obtain ⟨target, bad⟩ := x
  cases h
  rfl

theorem State.lossOne_labelled {v : Nat} {r : W × List W}
    (h : (s.targetOf (st.row row) (s.desc st.model.toNat).vocab).1 = some v)
    (hr : r = lossRow (s.lossLogits jn st d row m) v ((s.lossNoted jn st row).job jn).train.lsExp.toInt) :
    s.lossOne jn st d row m = ((s.lossNoted jn st row).lossTaken jn row r.1).putX jn
      ((s.lossNoted jn st row).lossPlace d m) 2 (r.2.map ofF32) := by
  subst hr
  unfold State.lossOne State.lossNoted State.lossPlace State.lossTaken State.lossLogits
  generalize s.targetOf (st.row row) (s.desc st.model.toNat).vocab = x at *
  obtain ⟨target, bad⟩ := x
  cases h
  rfl

theorem State.lossNoted_stepsOnly (s : State) (jn st row) : s.stepsOnly (s.lossNoted jn st row) := by
  have hinc : s.stepsOnly (if (s.targetOf (st.row row) (s.desc st.model.toNat).vocab).2 then s.inc pgTrain 0x228 else s) :=
    .ite (s.count_stepsOnly _ 1) (.refl s)
  exact .ite (hinc.trans (State.failRows_stepsOnly ..)) hinc

theorem State.lossNoted_keepsWork (s : State) (jn st row) : s.keepsWork (s.lossNoted jn st row) := by
  have hinc : s.keepsWork (if (s.targetOf (st.row row) (s.desc st.model.toNat).vocab).2 then s.inc pgTrain 0x228 else s) :=
    .ite (s.count_keepsWork 1 (by unfold formCtr; decide)) (.refl s)
  exact .ite (hinc.trans (State.failRows_keepsWork ..)) hinc

theorem State.decl_failRows (s : State) (j rows code) : (s.failRows j rows code).decl = s.decl := by
  rw [State.failRows_shape]

theorem State.lossNoted_decl (s : State) (jn st row) : (s.lossNoted jn st row).decl = s.decl := by
  have hinc : (if (s.targetOf (st.row row) (s.desc st.model.toNat).vocab).2 then s.inc pgTrain 0x228 else s).decl = s.decl := by
    split
    · exact State.inc_decl ..
    · rfl
  have hlost (u : State) (hu : u.decl = s.decl) :
      (if u.labelLost (st.row row) then u.failRows jn [row] cDesc else u).decl = s.decl := by
    split
    · rw [State.decl_failRows, hu]
    · exact hu
  exact hlost _ hinc

theorem State.lossTaken_keepsBasis (s : State) (jn row w) : s.keepsBasis (s.lossTaken jn row w) :=
  (s.setTrain_keepsBasis jn _).trans (State.setRow_keepsBasis ..)

theorem State.lossTaken_landing (s : State) (jn row w) : (s.lossTaken jn row w).landing = s.landing :=
  State.setRow_landing ..

theorem State.decl_setRow (s : State) (jn i g) : (s.setRow jn i g).decl = s.decl := by
  unfold State.setRow
  split <;> rfl

theorem State.lossTaken_decl (s : State) (jn row w) : (s.lossTaken jn row w).decl = s.decl := State.decl_setRow ..

theorem State.lossOne_keepsBasis (s : State) (jn st d row m) : s.keepsBasis (s.lossOne jn st d row m) := by
  have hn := (s.lossNoted_keepsWork jn st row).basis
  cases h : (s.targetOf (st.row row) (s.desc st.model.toNat).vocab).1 with
  | none => rw [State.lossOne_unlabelled h]; exact hn.trans (State.putX_keepsBasis ..)
  | some v =>
    rw [State.lossOne_labelled h rfl]
    exact (hn.trans (State.lossTaken_keepsBasis ..)).trans (State.putX_keepsBasis ..)

/-- What a LOSS form does before it ends. -/
def State.lossWork (s : State) (b : BitVec 512) (jn : Nat) (st : Step) : State :=
  ((s.formRows (.raw b)).zipIdx.foldl (fun s x => s.lossOne jn st (deltaDesc b) x.1 x.2) s).markRows jn (s.formRows (.raw b)) 0
    .loss

theorem lossOp_eq (h : s.rawRuns fid 0x43 f b jn st) : lossOp s fid = (s.lossWork b jn st).endForm fid := by
  unfold lossOp
  rw [h.deltaForm]
  obtain ⟨-, hd, -⟩ := h
  simp only [hd] <;> rfl

theorem lossOp_formEnded (h : s.rawRuns fid 0x43 f b jn st) : formEnded s (lossOp s fid) fid f := by
  rw [lossOp_eq h]
  refine h.formEnded (.trans (.foldl (fun s x => s.lossOne_keepsBasis ..) _ _) (State.markRows_keepsWork ..).basis) ?_
  exact (State.sameTables_trans (State.foldl_tables _ (fun s x => s.lossOne_tables ..) _ _) (State.markRows_tables ..)).1

/-- After its one row has been worked on, a LOSS form changes no landing byte and of the jobs only their steps. -/
theorem lossOp_of_row (h : s.rawRuns fid 0x43 f b jn st) (hrow : s.formRows (.raw b) = [row]) :
    (s.lossOne jn st (deltaDesc b) row 0).stepsOnly (lossOp s fid) ∧
      (lossOp s fid).landing = (s.lossOne jn st (deltaDesc b) row 0).landing := by
  rw [lossOp_eq h, State.lossWork, hrow]
  refine ⟨(State.markRows_stepsOnly _ jn [row] 0 .loss).trans (State.endForm_stepsOnly ..), ?_⟩
  rw [State.endForm_landing]
  exact (State.markRows_keepsWork ..).landing

theorem State.lossNoted_place (s : State) (jn st row d) : (s.lossNoted jn st row).lossPlace d 0 = d.dst := by
  simp [State.lossPlace]

theorem State.lossLogits_zero (s : State) (jn st d row) : s.lossLogits jn st d row 0 =
    (s.landedOr jn st 8 0 0 0 row d.src d.width).map toF32 := by
  simp [State.lossLogits]

/-- A row without a valid label lands zeros and is not counted. -/
theorem State.lossOne_zeros (h : (s.targetOf (st.row row) (s.desc st.model.toNat).vocab).1 = none) :
    (s.lossOne jn st d row 0).landing =
        mwrite s.landing d.dst (encRow s.decl.xFmt.toNat (List.replicate d.width .zero)) ∧
      ((s.lossOne jn st d row 0).job jn).train.nvalid = (s.job jn).train.nvalid := by
  rw [State.lossOne_unlabelled h]
  constructor
  · rw [State.putX_landing, s.lossNoted_place, (s.lossNoted_keepsWork ..).landing, s.lossNoted_decl]
  · obtain ⟨stats, flag, hj⟩ := (s.lossNoted jn st row).putX_job jn ((s.lossNoted jn st row).lossPlace d 0) 2
      (List.replicate d.width .zero) jn
    rw [hj, (s.lossNoted_stepsOnly jn st row).train]

/-- A row with a valid label has its loss recorded, is counted, and lands its scaled gradient. -/
theorem State.lossOne_scaled {v : Nat} {r : W × List W} (hst : (s.job jn).cur = some st) (hi : row < st.rows.length)
    (h : (s.targetOf (st.row row) (s.desc st.model.toNat).vocab).1 = some v)
    (hr : r = lossRow ((s.landedOr jn st 8 0 0 0 row d.src d.width).map toF32) v (s.job jn).train.lsExp.toInt) :
    (s.lossOne jn st d row 0).landing = mwrite s.landing d.dst (encRow s.decl.xFmt.toNat (r.2.map ofF32)) ∧
      ((s.lossOne jn st d row 0).job jn).train.nvalid = (s.job jn).train.nvalid + 1 ∧
      (s.lossOne jn st d row 0).lossAt jn row (some r.1) := by
  have k := s.lossNoted_stepsOnly jn st row
  rw [← s.lossLogits_zero, ← k.train] at hr
  rw [State.lossOne_labelled h hr]
  obtain ⟨stats, flag, hj⟩ := ((s.lossNoted jn st row).lossTaken jn row r.1).putX_job jn
    ((s.lossNoted jn st row).lossPlace d 0) 2 (r.2.map ofF32) jn
  refine ⟨?_, ?_, ?_⟩
  · rw [State.putX_landing, s.lossNoted_place, State.lossTaken_landing, State.lossTaken_decl,
      (s.lossNoted_keepsWork ..).landing, s.lossNoted_decl]
  · rw [hj]
    dsimp only
    rw [State.lossTaken, State.setRow_train, State.job_setTrain, if_pos rfl, k.train]
  · obtain ⟨a, ha, hloss⟩ := k.steps jn st hst
    have hlen : a.rows.length = st.rows.length := by simpa using congrArg List.length hloss
    obtain ⟨c, hc, hw⟩ := State.setRow_lossAt (s := (s.lossNoted jn st row).setTrain jn fun t =>
      { t with nvalid := t.nvalid + 1, nanFlag := t.nanFlag || !(ofF32 r.1).isFinite }) (a := a) (i := row)
      (by rw [State.job_setTrain, if_pos rfl, ← ha]) (hlen ▸ hi) r.1
    exact ⟨c, by rw [hj]; exact hc, hw⟩

/-! ### BVEC -/

/-- The saved tensors that a BVEC form reads (R227). -/
def DeltaDesc.backTensors (d : DeltaDesc) : List Nat :=
  match d.bvec with
  | 0 => [if d.vocab then tFinal else if 4 ≤ d.proj then tResid2 else tResid]
  | 3 => [tGate + 32 * (d.expert + 1), tUp + 32 * (d.expert + 1)]
  | _ => []

/-- What a BVEC form is entered for. -/
def DeltaDesc.backDone (d : DeltaDesc) : Done :=
  .bvec d.bvec (if d.bvec = 3 then 6 else d.p) (if d.bvec = 3 then d.expert else 0)

/-- What a BVEC form does before it ends. -/
def State.bvecWork (s : State) (b : BitVec 512) (jn : Nat) (st : Step) : State :=
  ((s.formRows (.raw b)).zipIdx.foldl (fun s x => s.bvecOne jn st (deltaDesc b) (deltaDesc b).m x.1 x.2)
    (s.feedSaved (.raw b) jn st (s.formRows (.raw b)) (deltaDesc b).layer (deltaDesc b).backTensors)).markRows jn
      (s.formRows (.raw b)) (deltaDesc b).layer (deltaDesc b).backDone

theorem bvecOp_eq (h : s.rawRuns fid 0x44 f b jn st) : bvecOp s fid = (s.bvecWork b jn st).endForm fid := by
  unfold bvecOp State.bvecWork DeltaDesc.backDone DeltaDesc.backTensors
  rw [h.deltaForm]
  obtain ⟨-, hd, -⟩ := h
  simp only [hd, decide_eq_true_eq] <;> rfl

theorem State.bvecOne_keepsBasis (s : State) (jn st d total row m) : s.keepsBasis (s.bvecOne jn st d total row m) := by
  unfold State.bvecOne
  dsimp only
  split
  · exact s.setLand_keepsBasis _ _
  · exact s.putX_keepsBasis ..
  · exact (s.setLand_keepsBasis _ _).trans (State.putX_keepsBasis ..)
  · exact (s.putX_keepsBasis ..).trans (State.putX_keepsBasis ..)

theorem State.feedSaved_keepsWork (s : State) (fd jn st rows layer ts) :
    s.keepsWork (s.feedSaved fd jn st rows layer ts) := s.feedAll_keepsWork fd _

theorem bvecOp_formEnded (h : s.rawRuns fid 0x44 f b jn st) : formEnded s (bvecOp s fid) fid f := by
  rw [bvecOp_eq h]
  refine h.formEnded (.trans (.trans (s.feedSaved_keepsWork ..).basis (.foldl (fun s x => s.bvecOne_keepsBasis ..) _ _))
    (State.markRows_keepsWork ..).basis) ?_
  exact (State.sameTables_trans (State.sameTables_trans (s.feedSaved_tables ..)
    (State.foldl_tables _ (fun s x => s.bvecOne_tables ..) _ _)) (State.markRows_tables ..)).1

theorem bvecOp_landing (h : s.rawRuns fid 0x44 f b jn st) (hrow : s.formRows (.raw b) = [row]) :
    (bvecOp s fid).landing = ((s.feedSaved (.raw b) jn st [row] (deltaDesc b).layer (deltaDesc b).backTensors).bvecOne jn st
      (deltaDesc b) (deltaDesc b).m row 0).landing := by
  rw [bvecOp_eq h, State.endForm_landing, State.bvecWork, hrow]
  exact (State.markRows_keepsWork ..).landing

/-- NORM of a layer's attention input lands the FP32 gradient of the RMS norm. -/
theorem State.bvecOne_norm (s : State) (jn st total row) (hb : d.bvec = 0) (hv : d.vocab = false) (hp : d.proj < 4)
    {md : ModelDesc} (hmd : md = s.desc st.model.toNat) : (s.bvecOne jn st d total row 0).landing =
      mwrite s.landing d.dst (wordsLe (normBack md.eps
        ((decRow 2 d.width (s.savedTensor jn st row d.layer tResid (rowLen 2 d.width))).map toF32)
        (s.gain st.model.toNat (md.gainKey 0x11 d.layer))
        (s.backIn jn st [(0, 0), (1, 0), (2, 0)] d.layer row d.src d.width))) := by
  subst hmd
  have hp' : ¬ 4 ≤ d.proj := by omega
  simp only [State.bvecOne, hb, hv, hp', if_false, Bool.false_eq_true, Nat.zero_mul, Nat.add_zero]
  rfl

/-- ROTARY lands the gradients in the X format, rotated back but for V's. -/
theorem State.bvecOne_rotary (s : State) (jn st total row) (hb : d.bvec = 1) {md : ModelDesc}
    (hmd : md = s.desc st.model.toNat) : (s.bvecOne jn st d total row 0).landing =
      mwrite s.landing d.dst (encRow s.decl.xFmt.toNat ((if d.proj = 2 then s.landF32 d.src d.width
        else (headsOf md.d (d.width / md.d) (s.landF32 d.src d.width)).flatMap fun h =>
          md.unrotate (st.row row).pos.toNat h).map ofF32)) := by
  subst hmd
  simp only [State.bvecOne, hb, State.putX_landing, Nat.zero_mul, Nat.add_zero]

/-- A form that reads no saved tensor is fed nothing. -/
theorem State.feedSaved_nil (s : State) (fd jn st rows layer) : s.feedSaved fd jn st rows layer [] = s := by
  unfold State.feedSaved
  rw [show (rows.flatMap fun r => [].map (s.savedRead jn st r layer)) = [] by simp]
  rfl

/-! ### The forms end -/

theorem completes_loss {P : State → Prop} (h : P (s.duWrites (lossOp s fid))) : completes (.loss fid) s P :=
  completes_of_exec (t := s.duWrites (lossOp s fid)) rfl rfl h

theorem completes_bvec {P : State → Prop} (h : P (s.duWrites (bvecOp s fid))) : completes (.bvec fid) s P :=
  completes_of_exec (t := s.duWrites (bvecOp s fid)) rfl rfl h

theorem State.job_duWrites (s t : State) (k : Nat) : (s.duWrites t).job k = t.job k := State.job_congr rfl k

theorem State.landing_duWrites (s t : State) : (s.duWrites t).landing = t.landing := rfl

end

end Sys2Proof.Machine

open Sys2Proof Sys2Proof.Machine in

/-- Settles O26: each form works through its rows and then ends; of one row the branches of LOSS and BVEC say what lands. -/
theorem lossAndBackwardVectorFormsComplete : Obligations.LossAndBackwardVectorFormsComplete := by
  rintro s form f b jn st d md rfl rfl
  refine ⟨fun h => completes_loss ⟨?loss, fun row hrow hi => ⟨fun tgt z htgt hz => ?valid, fun hnone => ?invalid⟩⟩,
    fun h => completes_bvec ⟨?bvec, fun row hrow => ⟨fun hb hv hp u hu => ?norm, fun hb => ?rotary⟩⟩⟩
  case loss =>
    have he := lossOp_formEnded h
    have hpart : (lossOp s form).part = s.part := by
      rw [lossOp_eq h, State.endForm_part]
      exact (State.keepsBasis.trans (.foldl (fun s x => s.lossOne_keepsBasis ..) _ _) (State.markRows_keepsWork ..).basis).part
    exact he.written rfl rfl rfl hpart.symm
  case valid =>
    obtain ⟨k, hland⟩ := lossOp_of_row h hrow
    subst hz
    obtain ⟨hl, hn, hloss⟩ := State.lossOne_scaled (d := deltaDesc b) (row := row) h.cur hi (by rw [htgt]) rfl
    refine ⟨?_, ?_, ?_⟩
    · rw [State.landing_duWrites, hland, hl]
    · rw [State.job_duWrites, k.train, hn]
    · rw [State.job_duWrites]
      exact hloss.later k
  case invalid =>
    obtain ⟨k, hland⟩ := lossOp_of_row h hrow
    obtain ⟨hl, hn⟩ := State.lossOne_zeros (d := deltaDesc b) (jn := jn) hnone
    exact ⟨by rw [State.landing_duWrites, hland, hl], by rw [State.job_duWrites, k.train, hn]⟩
  case bvec =>
    have hpart : (bvecOp s form).part = s.part := by
      rw [bvecOp_eq h, State.endForm_part]
      exact (State.keepsBasis.trans (.trans (s.feedSaved_keepsWork ..).basis (.foldl (fun s x => s.bvecOne_keepsBasis ..) _ _))
        (State.markRows_keepsWork ..).basis).part
    exact (bvecOp_formEnded h).written rfl rfl rfl hpart.symm
  case norm =>
    have ht : (deltaDesc b).backTensors = [tResid] := by
      have hp' : ¬ 4 ≤ (deltaDesc b).proj := by omega
      simp [DeltaDesc.backTensors, hb, hv, hp']
    have k := s.feedSaved_keepsWork (.raw b) jn st [row] (deltaDesc b).layer [tResid]
    rw [State.landing_duWrites, bvecOp_landing h hrow, ht, ← hu]
    rw [← hu] at k
    rw [u.bvecOne_norm jn st _ row hb hv hp (State.desc_congr k.models st.model.toNat).symm, k.landing]
  case rotary =>
    have ht : (deltaDesc b).backTensors = [] := by simp [DeltaDesc.backTensors, hb]
    rw [State.landing_duWrites, bvecOp_landing h hrow, ht, State.feedSaved_nil, s.bvecOne_rotary jn st _ row hb rfl]

/-! PROOFS. GOUT and MPOOL write their gradients and record the piece, and intake forms do their work (O27; R227, R231, R245,
R253, R255). -/

namespace Sys2Proof.Machine

/-! ### What a write of the stacks hangs on -/

/-- The stored bytes, the region table, the stacks' registers and units and the keys are as they were: a write of the stacks does
the same in both states. -/
structure State.sameStore (s t : State) : Prop where
  mem : t.mem = s.mem
  part : t.part = s.part
  keys : t.keys = s.keys
  regs : ∀ j off, t.rd (pgMem j) off = s.rd (pgMem j) off
  units : ∀ j, t.unit (pgMem j) = s.unit (pgMem j)

section
variable {s t u v : State}

theorem State.sameStore.refl (s : State) : s.sameStore s := ⟨rfl, rfl, rfl, fun _ _ => rfl, fun _ => rfl⟩

theorem State.sameStore.trans (h : s.sameStore t) (k : t.sameStore u) : s.sameStore u :=
  ⟨k.mem.trans h.mem, k.part.trans h.part, k.keys.trans h.keys, fun j o => (k.regs j o).trans (h.regs j o),
    fun j => (k.units j).trans (h.units j)⟩

theorem State.sameStore.symm (h : s.sameStore t) : t.sameStore s :=
  ⟨h.mem.symm, h.part.symm, h.keys.symm, fun j o => (h.regs j o).symm, fun j => (h.units j).symm⟩

theorem State.sameStore.of_eq (hm : t.mem = s.mem) (hp : t.part = s.part) (hk : t.keys = s.keys) (hr : t.regs = s.regs)
    (hh : t.hdrs = s.hdrs) : s.sameStore t :=
  ⟨hm, hp, hk, fun _ _ => State.reg_congr hr hp _, fun _ => State.unit_congr hh hp _⟩

theorem State.sameStore.foldl {α : Type} {f : State → α → State} (hf : ∀ (s : State) x, s.sameStore (f s x)) (l : List α)
    (s : State) : s.sameStore (l.foldl f s) := by
  induction l generalizing s with
  | nil => exact .refl s
  | cons x l ih => exact (hf s x).trans (ih _)

theorem State.sameStore.stackFault (h : s.sameStore t) (a) : t.stackFault (t.stackOf a) = s.stackFault (s.stackOf a) := by
  unfold State.stackFault
  rw [State.stackOf_congr h.part, h.units]

theorem State.sameStore.top (h : s.sameStore t) : t.top = s.top := by
  have hcap : t.capCode = s.capCode := funext fun j => by
    unfold State.capCode
    rw [h.regs]
  unfold State.top State.stackCap
  rw [hcap, h.part]

theorem State.sameStore.checkAccess (h : s.sameStore t) (kind need a n) :
    t.checkAccess kind need a n = s.checkAccess kind need a n := by
  have hr : t.region = s.region := funext fun i => by
    have hrd (o : Nat) : t.rd 0x030 o = s.rd 0x030 o := h.regs 0 o
    unfold State.region
    simp only [hrd]
  unfold State.checkAccess State.regionOf
  rw [hr, h.top, h.keys]

theorem State.count_sameStore (s : State) (a n) : s.sameStore (s.count a n) where
  mem := (s.count_noted a n).mem
  part := by simp
  keys := by rw [State.count_shape]
  regs j o := s.rd_count a n _ _ (regAt_pgMem_ne_top j o)
  units j := by simp

theorem State.raise_sameStore (s : State) (p b) : s.sameStore (s.raise p b) :=
  ⟨rfl, rfl, rfl, fun _ _ => rfl, fun _ => by simp⟩

theorem State.wrCount_sameStore (s : State) (a n) : s.sameStore (s.wrCount a n) := by
  unfold State.wrCount
  split
  · exact .refl s
  · exact .foldl (fun s _ => s.count_sameStore _ 1) _ s

theorem State.failForm_sameStore (s : State) (d code) : s.sameStore (s.failForm d code) := by
  unfold State.failForm
  split
  · rw [State.failRows_shape]
    exact .of_eq rfl rfl rfl rfl rfl
  · exact .refl s

theorem State.stat_sameStore (s : State) (jn cls fmt c) : s.sameStore (s.stat jn cls fmt c) := by
  unfold State.stat
  dsimp only
  split
  · exact .refl s
  · exact .of_eq rfl rfl rfl rfl rfl

theorem State.addPiece_sameStore (s : State) (jn st d) : s.sameStore (s.addPiece jn st d) := .of_eq rfl rfl rfl rfl rfl

theorem State.sameStore.store (h : s.sameStore t) (a bs) : (s.store_ a bs).sameStore (t.store_ a bs) := by
  refine ⟨?_, h.part, h.keys, h.regs, h.units⟩
  unfold State.store_
  simp only [h.stackFault, h.mem]

/-- A write of the stacks stores the same and faults alike. -/
theorem State.sameStore.poke (h : s.sameStore t) (kind need a bs) :
    (s.poke kind need a bs).1.sameStore (t.poke kind need a bs).1 ∧
      (t.poke kind need a bs).2 = (s.poke kind need a bs).2 := by
  have stored (b cs n) : ((s.store_ b cs).wrCount a n).sameStore ((t.store_ b cs).wrCount a n) :=
    ((State.wrCount_sameStore _ a n).symm.trans (h.store b cs)).trans (State.wrCount_sameStore _ a n)
  have fault (v : State) : v.sameStore v.regFault := (v.count_sameStore _ 1).trans (State.raise_sameStore ..)
  unfold State.poke
  rw [h.checkAccess]
  split
  · exact ⟨h, rfl⟩
  · split
    · exact ⟨((fault s).symm.trans h).trans (fault t), rfl⟩
    · exact ⟨stored a bs _, rfl⟩
    · rw [h.mem]
      exact ⟨stored _ _ _, rfl⟩

/-! ### The gradient words -/

/-- Row j of a form's gradient words goes to the activation area. -/
def State.putGradRow (s : State) (f : Form) (d : DeltaDesc) (x : List W × Nat) : State :=
  let r := s.poke kStaging none (d.factor + 4 * (x.2 * d.width + d.col0)) (x.1.flatMap fun w => leBytes 4 w.toNat)
  if r.2 then r.1.failForm f.desc cMem else r.1

theorem State.putGrad_eq (s : State) (f d gs) :
    s.putGrad f d gs = gs.zipIdx.foldl (fun s x => s.putGradRow f d x) s := rfl

theorem State.sameStore.putGradRow (h : s.sameStore t) (f : Form) (d x) :
    (s.putGradRow f d x).sameStore (t.putGradRow f d x) := by
  unfold State.putGradRow
  dsimp only
  obtain ⟨hs, hbad⟩ := h.poke kStaging none (d.factor + 4 * (x.2 * d.width + d.col0)) (x.1.flatMap fun w => leBytes 4 w.toNat)
  rw [hbad]
  split
  · exact ((State.failForm_sameStore _ f.desc cMem).symm.trans hs).trans (State.failForm_sameStore ..)
  · exact hs

/-- The gradient words leave the same bytes where the stored bytes, the regions and the keys are the same. -/
theorem State.sameStore.putGrad (h : s.sameStore t) (f : Form) (d gs) : (s.putGrad f d gs).sameStore (t.putGrad f d gs) := by
  rw [State.putGrad_eq, State.putGrad_eq]
  induction gs.zipIdx generalizing s t with
  | nil => exact h
  | cons x l ih => exact ih (h.putGradRow f d x)

theorem State.putGradRow_keepsWork (s : State) (f d x) : s.keepsWork (s.putGradRow f d x) :=
  .ite ((s.poke_keepsWork ..).trans (State.failForm_keepsWork ..)) (s.poke_keepsWork ..)

theorem State.putGrad_keepsWork (s : State) (f d gs) : s.keepsWork (s.putGrad f d gs) :=
  .foldl (fun s x => s.putGradRow_keepsWork f d x) _ s

theorem State.putGradRow_train (s : State) (f d x j) : ((s.putGradRow f d x).job j).train = (s.job j).train := by
  unfold State.putGradRow
  dsimp only
  split
  · rw [(State.failForm_stepsOnly _ f.desc cMem).train, State.job_congr (s.poke_sameRequests ..).jobs]
  · rw [State.job_congr (s.poke_sameRequests ..).jobs]

theorem State.putGrad_train (s : State) (f d gs j) : ((s.putGrad f d gs).job j).train = (s.job j).train := by
  rw [State.putGrad_eq]
  induction gs.zipIdx generalizing s with
  | nil => rfl
  | cons x l ih => exact (ih _).trans (s.putGradRow_train f d x j)

/-! ### The piece of a form -/

variable {fid jn code : Nat} {f : Form} {b : BitVec 512} {st : Step} {d : DeltaDesc} {ws : List (List W)}

/-- The piece of an adapter's gradient that a form computes (R231). -/
def State.pieceOf (s : State) (st : Step) (d : DeltaDesc) : GradPiece :=
  { adapter := BitVec.ofNat 16 d.adapter, e0 := s.elemBase st d + d.col0, k := d.k, width := d.width, n := d.n,
    addr := d.factor + 4 * d.col0 }

theorem State.pieceOf_congr (h : t.models = s.models) (st d) : t.pieceOf st d = s.pieceOf st d := by
  have he : t.elemBase st d = s.elemBase st d := by
    unfold State.elemBase
    rw [State.desc_congr h]
  rw [State.pieceOf, he, State.pieceOf]

theorem State.addPiece_grads (s : State) (jn st d) : ((s.addPiece jn st d).job jn).train.grads =
    (s.job jn).train.grads.filter (· ≠ s.pieceOf st d) ++ [s.pieceOf st d] := by
  unfold State.addPiece
  rw [State.job_setJob, if_pos rfl]
  rfl

theorem State.addPiece_keepsWork (s : State) (jn st d) : s.keepsWork (s.addPiece jn st d) := by
  have hcur (j) : ((s.addPiece jn st d).job j).cur = (s.job j).cur := by
    unfold State.addPiece
    rw [State.job_setJob]
    split
    · next e => rw [e]
    · rfl
  exact .of_steps ⟨rfl, fun _ => rfl, rfl, rfl, fun _ _ h => h, fun j a ha => ⟨a, (hcur j).trans ha, .refl a⟩⟩ (fun _ _ => rfl)
    hcur rfl rfl rfl

/-- What a GOUT or MPOOL form counts before it writes: no gradient piece, no stored byte, nothing of a step. -/
structure State.gradNoted (s t : State) : Prop where
  work : s.keepsWork t
  store : s.sameStore t
  tables : s.sameTables t
  grads : ∀ j, (t.job j).train.grads = (s.job j).train.grads

theorem State.gradNoted.trans (h : s.gradNoted t) (k : t.gradNoted u) : s.gradNoted u :=
  ⟨h.work.trans k.work, h.store.trans k.store, State.sameTables_trans h.tables k.tables,
    fun j => (k.grads j).trans (h.grads j)⟩

theorem State.stat_gradNoted (s : State) (jn cls fmt c) : s.gradNoted (s.stat jn cls fmt c) :=
  ⟨s.stat_keepsWork .., s.stat_sameStore .., s.stat_tables .., fun j => by
    obtain ⟨stats, flag, hj⟩ := s.stat_job jn cls fmt c j
    rw [hj]⟩

theorem State.count_gradNoted (s : State) {a : Nat} (ha : ¬ formCtr a) (n) : s.gradNoted (s.count a n) :=
  ⟨s.count_keepsWork n ha, s.count_sameStore .., by simp, fun j => by rw [State.job_congr (s.count_jobs a n)]⟩

/-- The end of a form that has fed, counted its values and now enters its piece and writes its words. -/
theorem gradForm_ends (h : s.rawRuns fid code f b jn st) {rows : List Nat} (hu : u = s.feedGrad (.raw b) jn st d rows)
    (hv : u.gradNoted v) (he : t = ((v.addPiece jn st d).putGrad f d ws).endForm fid) :
    formEnded s t fid f ∧ t.part = s.part ∧ (t.job jn).train.grads =
      (s.job jn).train.grads.filter (· ≠ s.pieceOf st d) ++ [s.pieceOf st d] ∧
      t.landing = s.landing ∧ t.mem = (u.putGrad f d ws).mem := by
  subst hu he
  have hfed : s.keepsWork (s.feedGrad (.raw b) jn st d rows) := s.feedAll_keepsWork ..
  have htrain : s.stepsOnly (s.feedGrad (.raw b) jn st d rows) := s.feedAll_stepsOnly ..
  have hw := ((hfed.trans hv.work).trans (v.addPiece_keepsWork jn st d)).trans (State.putGrad_keepsWork _ f d ws)
  have htab := State.sameTables_trans (State.sameTables_trans (State.sameTables_trans
    (s.feedGrad_tables (.raw b) jn st d rows) hv.tables) (v.addPiece_tables jn st d)) (State.putGrad_tables _ f d ws)
  have hend := State.endForm_stepsOnly ((v.addPiece jn st d).putGrad f d ws) fid
  refine ⟨h.formEnded hw.basis htab.1, ?_, ?_, ?_, ?_⟩
  · rw [State.endForm_part, hw.basis.part]
  · rw [hend.train, State.putGrad_train, State.addPiece_grads, hv.grads, htrain.train,
      State.pieceOf_congr (hfed.trans hv.work).basis.models]
  · rw [State.endForm_landing, hw.landing]
  · rw [hend.mem]
    exact ((hv.store.trans (v.addPiece_sameStore jn st d)).putGrad f d ws).mem

/-! ### GOUT and MPOOL -/

theorem goutOp_eq (h : s.rawRuns fid 0x42 f b jn st) (hd : d = deltaDesc b) {gs : List (List W)}
    (hg : gs = s.gradRows jn st d (s.formRows (.raw b))) (hu : u = s.feedGrad (.raw b) jn st d (s.formRows (.raw b))) :
    goutOp s fid = (((u.stat jn 3 1 (countGrad gs.flatten)).addPiece jn st d).putGrad f d gs).endForm fid := by
  subst hd hg hu
  obtain ⟨hf, hd, hc, hst, hi, -⟩ := h
  have hn : isAttn (dForm b) = false := by rw [hc]; rfl
  have hform : (deltaDesc b).form = 0x42 := hc
  unfold goutOp
  rw [hf]
  simp only [hd, hst]
  rw [if_neg (by simp [hi, hn, hform])]

/-- The values of an MPOOL form that saturated, were not a number, or were clipped are counted (R244). -/
def State.poolCounted (u : State) (vs : List PoolVal) : State :=
  let n (p : PoolVal → Bool) : Nat := (vs.filter p).length
  ((u.count (regAt pgPool 0x200) (n (·.sat))).count (regAt pgPool 0x208) (n (·.nan))).count (regAt pgPool 0x210) (n (·.clip))

theorem mpoolOp_eq (h : s.rawRuns fid 0x50 f b jn st) (hd : d = deltaDesc b) {gs : List (List W)} {vs : List (List PoolVal)}
    (hg : gs = s.gradRows jn st d (s.formRows (.raw b))) (hu : u = s.feedGrad (.raw b) jn st d (s.formRows (.raw b)))
    (hvs : vs = u.poolVals jn gs) :
    mpoolOp s fid = (((((u.poolCounted vs.flatten).stat jn 3 1 (countGrad gs.flatten)).stat jn 5 8
      (countPool vs.flatten)).addPiece jn st d).putGrad f d (u.maskedRows jn st d vs)).endForm fid := by
  subst hd hg hu hvs
  obtain ⟨hf, hd, hc, hst, hi, -⟩ := h
  have hn : isAttn (dForm b) = false := by rw [hc]; rfl
  have hform : (deltaDesc b).form = 0x50 := hc
  unfold mpoolOp
  rw [hf]
  simp only [hd, hst]
  rw [if_neg (by simp [hi, hn, hform])] <;> rfl

theorem State.poolCounted_gradNoted (u : State) (vs) : u.gradNoted (u.poolCounted vs) :=
  ((u.count_gradNoted (by unfold formCtr; decide) _).trans (State.count_gradNoted _ (by unfold formCtr; decide) _)).trans
    (State.count_gradNoted _ (by unfold formCtr; decide) _)

theorem completes_gout {P : State → Prop} (h : P (s.routeWrites (goutOp s fid))) : completes (.gout fid) s P :=
  completes_of_exec (t := s.routeWrites (goutOp s fid)) rfl rfl h

theorem completes_mpool {P : State → Prop} (h : P (s.routeWrites (mpoolOp s fid))) : completes (.mpool fid) s P :=
  completes_of_exec (t := s.routeWrites (mpoolOp s fid)) rfl rfl h

theorem State.job_routeWrites (s t : State) (k : Nat) : (s.routeWrites t).job k = t.job k := State.job_congr rfl k

/-- The end of a gradient form as GOUT and MPOOL write it back. -/
theorem gradForm_written {p : GradPiece} (h : formEnded s t fid f ∧ t.part = s.part ∧
      (t.job jn).train.grads = (s.job jn).train.grads.filter (· ≠ p) ++ [p] ∧ t.landing = s.landing ∧
      t.mem = (u.putGrad f d ws).mem) :
    formEnded s (s.routeWrites t) fid f ∧
      ((s.routeWrites t).job jn).train.grads = (s.job jn).train.grads.filter (· ≠ p) ++ [p] ∧
      (s.routeWrites t).landing = s.landing ∧ (s.routeWrites t).mem = (u.putGrad f d ws).mem := by
  obtain ⟨he, hp, hg, -, hm⟩ := h
  exact ⟨he.written rfl rfl rfl hp.symm, by rw [State.job_routeWrites, hg], rfl, hm⟩

/-! ### Intake forms -/

theorem State.wfPrepErr_keepsWork (s : State) : s.keepsWork s.wfPrepErr := by
  unfold State.wfPrepErr State.wfMemErr
  dsimp only
  refine .ite (.of_eq rfl rfl rfl rfl rfl rfl rfl rfl) (.ite (.trans ?_ (State.raise_keepsWork _ pgIntake 1))
    (.of_eq rfl rfl rfl rfl rfl rfl rfl rfl))
  exact .of_eq rfl rfl rfl rfl rfl rfl rfl rfl

theorem State.wfPrepErr_jobs (s : State) : s.wfPrepErr.jobs = s.jobs := by
  unfold State.wfPrepErr State.wfMemErr
  dsimp only
  split
  · rfl
  · split <;> rfl

theorem State.intakeUnc_keepsWork (s : State) (d r a) : s.keepsWork (s.intakeUnc d r a) := by
  refine .ite (.refl s) (.ite ((s.note_keepsWork r a 3).trans (State.wfPrepErr_keepsWork _)) ((s.note_keepsWork r a 3).trans ?_))
  exact .of_eq rfl rfl rfl rfl rfl rfl rfl rfl

theorem State.intakeUnc_jobs (s : State) (d r a) : (s.intakeUnc d r a).jobs = s.jobs := by
  unfold State.intakeUnc
  split
  · rfl
  · dsimp only
    split
    · rw [State.wfPrepErr_jobs, (s.note_noted r a 3).jobs]
    · exact (s.note_noted r a 3).jobs

theorem State.intakeWork_keepsWork (s : State) (i) : s.keepsWork (s.intakeWork i) := by
  unfold State.intakeWork
  dsimp only
  split
  · split
    · exact .refl s
    · split
      · exact s.poke_keepsWork ..
      · exact .refl s
  · exact (s.intakeUnc_keepsWork ..).trans (State.poke_keepsWork ..)
  · exact (s.intakeUnc_keepsWork ..).trans (State.poke_keepsWork ..)
  · exact (((s.intakeUnc_keepsWork ..).trans (State.intakeUnc_keepsWork ..)).trans (State.poke_keepsWork ..)).trans
      (State.poke_keepsWork ..)

theorem State.intakeWork_jobs (s : State) (i) : (s.intakeWork i).jobs = s.jobs := by
  unfold State.intakeWork
  dsimp only
  split
  · split
    · rfl
    · split
      · exact (s.poke_sameRequests ..).jobs
      · rfl
  · exact (State.poke_sameRequests ..).jobs.trans (s.intakeUnc_jobs ..)
  · exact (State.poke_sameRequests ..).jobs.trans (s.intakeUnc_jobs ..)
  · exact ((State.poke_sameRequests ..).jobs.trans (State.poke_sameRequests ..).jobs).trans
      ((State.intakeUnc_jobs ..).trans (s.intakeUnc_jobs ..))

theorem intakeFormOp_eq {i : IntakeDesc} (hf : s.formAt fid = some f) (hd : f.desc = .intake i) (hi : f.idle = false) :
    intakeFormOp s fid = (s.intakeWork i).endForm fid := by
  unfold intakeFormOp
  rw [hf]
  simp only [hd]
  rw [if_neg (by simp [hi])]

theorem intakeFormOp_formEnded {i : IntakeDesc} (hf : s.formAt fid = some f) (hr : rising s.forms = true) :
    formEnded s ((s.intakeWork i).endForm fid) fid f := by
  have k := (s.intakeWork_keepsWork i).basis
  have hforms : (s.intakeWork i).forms = s.forms := (s.intakeWork_tables i).1
  have hgroup : (s.intakeWork i).formGroup f = s.formGroup f := by
    have hj := State.job_congr (s.intakeWork_jobs i)
    unfold State.formGroup
    rw [State.formStep_congr (s.intakeWork_jobs i)]
    simp only [hj]
  have husedOf (g) : (s.intakeWork i).usedOf g = s.usedOf g := by
    unfold State.usedOf
    rw [k.used]
  obtain ⟨hgone, hrun, hused, hunits⟩ := State.endForm_formEnded (s := s.intakeWork i) (by rwa [hforms])
    (by rw [hforms]; exact State.formAt_eq_some hf)
  refine ⟨hgone, fun n g hn hg => hrun n g hn (by rwa [hforms]), fun g => ?_, fun p => (hunits p).trans (k.units p)⟩
  rw [hused, hgroup, husedOf, k.used]

/-- INTAKE_FORM's write back of what its operation gave. -/
def State.intakeFormWrites (s t : State) : State := { s.routeWrites t with wf := t.wf, intakes := t.intakes }

theorem completes_intakeForm {P : State → Prop} (h : P (s.intakeFormWrites (intakeFormOp s fid))) :
    completes (.intakeForm fid) s P :=
  completes_of_exec (t := s.intakeFormWrites (intakeFormOp s fid)) rfl rfl h

end

end Sys2Proof.Machine

open Sys2Proof Sys2Proof.Machine in
/-- Settles O27: GOUT and MPOOL feed, count, enter their piece and write their words before they end; an intake form works and
ends. -/
theorem gradientFormsRecordTheirPiece : Obligations.GradientFormsRecordTheirPiece := by
  refine fun s form f => ⟨fun b jn st d p u gs hd hg hu hp => ?grads, fun i hf hd hi hr => completes_intakeForm ?intake⟩
  case grads =>
    subst hp
    refine ⟨fun h => completes_gout (gradForm_written ?_), fun h => completes_mpool (gradForm_written ?_)⟩
    · exact gradForm_ends h hu (u.stat_gradNoted jn 3 1 (countGrad gs.flatten)) (goutOp_eq h hd hg hu)
    · exact gradForm_ends h hu (((u.poolCounted_gradNoted _).trans (State.stat_gradNoted _ jn 3 1 _)).trans
        (State.stat_gradNoted _ jn 5 8 _)) (mpoolOp_eq h hd hg hu rfl)
  case intake =>
    have he := intakeFormOp_formEnded (i := i) hf hr
    have k := (s.intakeWork_keepsWork i).basis
    rw [intakeFormOp_eq hf hd hi]
    refine ⟨he.written rfl rfl rfl ?_, rfl, ?_⟩
    · exact (((s.intakeWork i).endForm_part form).trans k.part).symm
    · exact (State.endForm_stepsOnly (s.intakeWork i) form).mem

/-! SUPPORT. Which stored bytes a write of the stacks may change: those of the cipher blocks that it meets (R272, R275). -/

namespace Sys2Proof.Machine

/-! ### Lengths of enciphered bytes -/

theorem piecesOf_length_le (fuel : Nat) (l : List Byte) : (piecesOf 16 fuel l).length ≤ (l.length + 15) / 16 := by
  induction fuel generalizing l with
  | zero => simp [piecesOf]
  | succ fuel ih =>
    cases l with
    | nil => simp [piecesOf]
    | cons x xs =>
      have h := ih ((x :: xs).drop 16)
      rw [List.length_drop] at h
      rw [piecesOf, List.length_cons, List.length_cons] at *
      omega

theorem length_le_of_mem_piecesOf {fuel : Nat} {l p : List Byte} (h : p ∈ piecesOf 16 fuel l) : p.length ≤ 16 := by
  induction fuel generalizing l with
  | zero => simp [piecesOf] at h
  | succ fuel ih =>
    cases l with
    | nil => simp [piecesOf] at h
    | cons x xs =>
      rw [piecesOf, List.mem_cons] at h
      obtain rfl | h := h
      · exact List.length_take_le ..
      · exact ih h

theorem xorBytes_length_le (a b : List Byte) : (xorBytes a b).length ≤ b.length := by
  rw [xorBytes, List.length_map, List.length_zip]
  exact Nat.min_le_right ..

theorem xts_fold_length_le (enc : Bool) (key : List Byte) (ps : List (List Byte)) (acc : List Byte × Nat) :
    (ps.foldl (fun (acc : List Byte × Nat) b =>
      let tb := leBytes 16 acc.2
      let x := xorBytes b tb
      let y := if enc then aesEnc key x else aesDec key x
      (acc.1 ++ xorBytes y tb, mulAlpha acc.2)) acc).1.length ≤ acc.1.length + 16 * ps.length := by
  induction ps generalizing acc with
  | nil => simp
  | cons p ps ih =>
    rw [List.foldl_cons, List.length_cons]
    refine (ih _).trans ?_
    dsimp only
    rw [List.length_append]
    have h := xorBytes_length_le (if enc then aesEnc key (xorBytes p (leBytes 16 acc.2)) else
      aesDec key (xorBytes p (leBytes 16 acc.2))) (leBytes 16 acc.2)
    rw [leBytes_length] at h
    omega

/-- A piece of a cipher block becomes a cipher block at most. -/
theorem xts_length_le (enc : Bool) (k1 k2 : List Byte) (t j : Nat) {p : List Byte} (h : p.length ≤ 16) :
    (xts enc k1 k2 t j p).length ≤ 16 := by
  have hfold := xts_fold_length_le enc k1 (blocks16 p) ([], (List.range j).foldl (fun t _ => mulAlpha t)
    (ofLe (aesEnc k2 (leBytes 16 t))))
  have hone := piecesOf_length_le p.length p
  simp only [List.length_nil] at hfold
  unfold xts
  dsimp only
  unfold blocks16 at *
  omega

theorem length_flatMap_le {α β : Type} {f : α → List β} {n : Nat} {l : List α} (h : ∀ x ∈ l, (f x).length ≤ n) :
    (l.flatMap f).length ≤ n * l.length := by
  rw [List.length_flatMap, Nat.mul_comm, ← List.length_map (f := fun x => (f x).length)]
  exact List.sum_le_card_nsmul _ _ fun x hx => by
    obtain ⟨y, hy, rfl⟩ := List.mem_map.mp hx
    exact h y hy

/-- The stored image of bytes fills no more cipher blocks than the bytes meet. -/
theorem enciphered_length_le (k : KeySlot) (b0 : Nat) (bs : List Byte) :
    (enciphered k b0 bs).length ≤ 16 * ((bs.length + 15) / 16) := by
  have hblocks := piecesOf_length_le bs.length bs
  have hflat : (enciphered k b0 bs).length ≤ 16 * (blocks16 bs).zipIdx.length := by
    refine length_flatMap_le fun x hx => xts_length_le _ _ _ _ _ ?_
    exact length_le_of_mem_piecesOf (List.fst_mem_of_mem_zipIdx hx)
  rw [List.length_zipIdx] at hflat
  unfold blocks16 at *
  omega

theorem deciphered_length_le (k : KeySlot) (m : Nat → Byte) (a n : Nat) : (deciphered k m a n).length ≤ n :=
  List.length_take_le ..

/-! ### Bytes that a store leaves -/

theorem store_fold_frame {f : Nat → Bool} {a y k : Nat} {bs : List Byte} (hy : y < a + k ∨ a + k + bs.length ≤ y) {m : Mem}
    (h : Memory.wf m = true) :
    Memory.wf ((bs.zipIdx k).foldl (fun m (b, i) => if f (a + i) then m else mset m (a + i) b) m) = true ∧
      mget ((bs.zipIdx k).foldl (fun m (b, i) => if f (a + i) then m else mset m (a + i) b) m) y = mget m y := by
  induction bs generalizing k m with
  | nil => exact ⟨h, rfl⟩
  | cons b bs ih =>
    rw [List.length_cons] at hy
    rw [List.zipIdx_cons, List.foldl_cons]
    dsimp only
    split
    · exact ih (by omega) h
    · obtain ⟨hw, hg⟩ := ih (k := k + 1) (m := mset m (a + k) b) (by omega) (mset_wf _ _ _ h)
      exact ⟨hw, hg.trans (mget_mset_other _ _ _ _ h (by omega))⟩

/-- Byte y reads in t what it read in s, and the stacks keep the canonical form. -/
def State.keepsByte (s t : State) (y : Nat) : Prop :=
  Memory.wf s.mem = true → Memory.wf t.mem = true ∧ mget t.mem y = mget s.mem y

section
variable {s t u : State} {y : Nat}

theorem State.keepsByte.of_mem (h : t.mem = s.mem) : s.keepsByte t y := fun hw => by rw [h]; exact ⟨hw, rfl⟩

theorem State.keepsByte.trans (h : s.keepsByte t y) (k : t.keepsByte u y) : s.keepsByte u y := fun hw => by
  obtain ⟨ht, hg⟩ := h hw
  obtain ⟨hu, hg'⟩ := k ht
  exact ⟨hu, hg'.trans hg⟩

theorem State.stored_keepsByte (s : State) {a b n : Nat} {bs : List Byte} (hy : y < a ∨ a + bs.length ≤ y) :
    s.keepsByte ((s.store_ a bs).wrCount b n) y := fun hw => by
  rw [State.wrCount_mem]
  exact store_fold_frame (f := fun x => s.stackFault (s.stackOf x)) (k := 0) hy hw

/-- A write changes no byte outside the cipher blocks that it meets. -/
theorem State.poke_keepsByte (s : State) (kind need a : _) {bs : List Byte}
    (hy : bs ≠ [] → y / 16 < a / 16 ∨ (a + bs.length - 1) / 16 < y / 16) : s.keepsByte (s.poke kind need a bs).1 y := by
  unfold State.poke
  split
  · exact .of_mem rfl
  · next hne =>
    have hlen := List.length_pos_iff.mpr hne
    have hy := hy hne
    split
    · exact .of_mem ((s.count_noted ..).trans (State.raise_noted ..)).mem
    · exact s.stored_keepsByte (by omega)
    · next k _ =>
      refine s.stored_keepsByte ?_
      have hold := deciphered_length_le k (fun x => mget s.mem x) (a / 16 * 16) ((a + bs.length + 15) / 16 * 16 - a / 16 * 16)
      generalize deciphered k (fun x => mget s.mem x) (a / 16 * 16) ((a + bs.length + 15) / 16 * 16 - a / 16 * 16) = old at *
      have hnew := enciphered_length_le k (a / 16 * 16 / 16)
        (old.take (a - a / 16 * 16) ++ bs ++ old.drop (a - a / 16 * 16 + bs.length))
      rw [List.length_append, List.length_append, List.length_take, List.length_drop] at hnew
      omega

end

end Sys2Proof.Machine

/-! PROOFS. The messages of the update port: GRAD and END, WRITE, ACK and the timeout (O37; R232, R233, R391). -/

namespace Sys2Proof.Machine

section
variable {s t : State} {jn a : Nat} {u : Upd} {st : Step}

/-! ### The updates that are held -/

theorem find?_replaced {l : List Upd} {u : Upd} {a : Nat} (h : u.adapter.toNat = a) :
    (l.filter (fun v => v.adapter ≠ u.adapter) ++ [u]).find? (fun v => v.adapter.toNat = a) = some u := by
  have hnone : (l.filter (fun v => v.adapter ≠ u.adapter)).find? (fun v => v.adapter.toNat = a) = none := by
    rw [List.find?_eq_none]
    intro v hv
    have hne : v.adapter ≠ u.adapter := by simpa using (List.mem_filter.mp hv).2
    simpa using fun e => hne (BitVec.eq_of_toNat_eq (e.trans h.symm))
  rw [List.find?_append, hnone]
  simp [h]

theorem State.setUpd_upd? (s : State) (jn : Nat) (h : u.adapter.toNat = a) : ((s.setUpd jn u).job jn).train.upd? a = some u := by
  unfold State.setUpd
  rw [State.job_setTrain, if_pos rfl]
  exact find?_replaced h

theorem State.setUpd_other (s : State) (u) {k : Nat} (hk : k ≠ jn) : (s.setUpd jn u).job k = s.job k := by
  unfold State.setUpd
  rw [State.job_setTrain, if_neg hk]

theorem Train.adapter_of_upd? {t : Train} (h : t.upd? a = some u) : u.adapter.toNat = a := by
  simpa using List.find?_some h

/-- The update whose ACK is awaited is held by the job that trains the adapter. -/
theorem State.updFor_eq_some {p : Nat} (h : s.updFor a p = some (jn, st, u)) :
    (s.job jn).cur = some st ∧ (s.job jn).train.upd? a = some u := by
  unfold State.updFor at h
  dsimp only at h
  split at h
  · next hc hu =>
    split at h
    · cases h
      exact ⟨hc, hu⟩
    · cases h
  · cases h

/-! ### GRAD and END -/

theorem updHdr_bits (type : Nat) {a n : Nat} (st : Step) (ht : type < 8) (ha : a < 2 ^ 16) :
    bitsOf (BitVec.ofNat 256 (updHdr type a st + 2 ^ 88 * n)) 2 0 = type ∧
      bitsOf (BitVec.ofNat 256 (updHdr type a st + 2 ^ 88 * n)) 18 3 = a := by
  have hstep : updHdr type a st + 2 ^ 88 * n = type + 2 ^ 3 * (a + 2 ^ 16 * (st.num.toNat + 2 ^ 64 * (st.num.toNat % 2) +
      2 ^ 65 * st.attempt.toNat + 2 ^ 69 * n)) := by
    unfold updHdr
    omega
  rw [hstep]
  generalize st.num.toNat + 2 ^ 64 * (st.num.toNat % 2) + 2 ^ 65 * st.attempt.toNat + 2 ^ 69 * n = m
  unfold bitsOf
  rw [BitVec.toNat_ofNat]
  omega

/-- The port's messages so far go on by GRAD messages of an adapter, and no job but jn has changed. -/
def State.gradSent (s t : State) (jn a : Nat) : Prop :=
  (∀ k, k ≠ jn → t.job k = s.job k) ∧
    ∃ ms, t.updOut = s.updOut ++ ms ∧ ∀ m ∈ ms, bitsOf m.hdr 2 0 = 0 ∧ bitsOf m.hdr 18 3 = a

theorem State.gradSent.refl (s : State) (jn a : Nat) : s.gradSent s jn a := ⟨fun _ _ => rfl, [], by simp, by simp⟩

theorem State.gradSent.trans {v : State} (h : s.gradSent t jn a) (k : t.gradSent v jn a) : s.gradSent v jn a := by
  obtain ⟨hj, ms, hms, hm⟩ := h
  obtain ⟨kj, ns, hns, hn⟩ := k
  refine ⟨fun i hi => (kj i hi).trans (hj i hi), ms ++ ns, by rw [hns, hms, List.append_assoc], fun m hmem => ?_⟩
  obtain h | h := List.mem_append.mp hmem
  · exact hm m h
  · exact hn m h

theorem State.gradSent.foldl {α : Type} {f : State → α → State} (hf : ∀ (s : State) x, s.gradSent (f s x) jn a) (l : List α)
    (s : State) : s.gradSent (l.foldl f s) jn a := by
  induction l generalizing s with
  | nil => exact .refl s jn a
  | cons x l ih => exact (hf s x).trans (ih _)

theorem State.sendUpd_gradSent (s : State) (jn : Nat) (st) (ha : a < 2 ^ 16) (e n : Nat) (ws) :
    s.gradSent (s.sendUpd (updHdr 0 a st + 2 ^ 88 * e + 2 ^ 120 * n) ws) jn a := by
  refine ⟨fun _ _ => rfl, _, rfl, fun m hm => ?_⟩
  rw [List.mem_singleton] at hm
  subst hm
  have hsum : updHdr 0 a st + 2 ^ 88 * e + 2 ^ 120 * n = updHdr 0 a st + 2 ^ 88 * (e + 2 ^ 32 * n) := by omega
  rw [hsum]
  exact updHdr_bits 0 st (by decide) ha

theorem State.noted_gradSent (h : s.noted t) : s.gradSent t jn a :=
  ⟨fun k _ => State.job_congr h.jobs k, [], by rw [(State.stepsOnly.of_noted h).updOut, List.append_nil], by simp⟩

theorem State.setTrain_gradSent (s : State) (jn a g) : s.gradSent (s.setTrain jn g) jn a :=
  ⟨fun k hk => by rw [State.job_setTrain, if_neg hk], [], by simp [State.setTrain, State.setJob], by simp⟩

/-- GRAD messages go out, and END after them, all for the adapter. -/
theorem State.sendGrad_sent (s : State) (jn : Nat) (st) (ha : a < 2 ^ 16) : (∀ k, k ≠ jn → (s.sendGrad jn a st).job k = s.job k) ∧
    ∃ ms e, (s.sendGrad jn a st).updOut = s.updOut ++ ms ++ [e] ∧ bitsOf e.hdr 2 0 = 1 ∧ bitsOf e.hdr 18 3 = a ∧
      ∀ m ∈ ms, bitsOf m.hdr 2 0 = 0 ∧ bitsOf m.hdr 18 3 = a := by
  unfold State.sendGrad
  dsimp only
  generalize hr : List.foldl _ s (s.rowsOfSlot a) = r
  obtain ⟨hjob, ms, hms, hm⟩ : s.gradSent r jn a := by
    rw [← hr]
    refine .foldl (fun s r => ?_) _ s
    refine .trans ?_ (.foldl (fun s x => s.sendUpd_gradSent jn st ha _ _ _) _ _)
    split
    · exact (State.noted_gradSent (s.note_noted ..)).trans (State.setTrain_gradSent ..)
    · exact .refl s jn a
  refine ⟨hjob, ms, _, by rw [← hms]; rfl, ?_, ?_, hm⟩
  all_goals
    dsimp only
    rw [show ∀ x n l v : Nat, x + 2 ^ 126 * n + 2 ^ 158 * v + 2 ^ 190 * l = x + 2 ^ 88 * (2 ^ 38 * n + 2 ^ 70 * v + 2 ^ 102 * l)
      by intros; omega]
  · exact (updHdr_bits 1 st (by decide) ha).1
  · exact (updHdr_bits 1 st (by decide) ha).2

/-- UPD_GRAD's write back of what its operation gave. -/
def State.updGradWrites (s t : State) : State :=
  { s with
    updOut := t.updOut, jobs := t.jobs, stk := t.stk, log := t.log, logOvf := t.logOvf, ret := t.ret, ctrs := t.ctrs,
    hdrs := t.hdrs, regs := t.regs }

theorem State.job_updGradWrites (s t : State) (k : Nat) : (s.updGradWrites t).job k = t.job k := State.job_congr rfl k

theorem completes_updGrad {job : BitVec 8} {ad : BitVec 16} {P : State → Prop}
    (h : P (s.updGradWrites (updGradOp s job.toNat ad.toNat))) : completes (.updGrad job ad) s P :=
  completes_of_exec (t := s.updGradWrites (updGradOp s job.toNat ad.toNat)) rfl rfl h

/-- GRAD of the adapter that is next in order is sent. -/
theorem updGradOp_sent {ad : BitVec 16} (hst : (s.job jn).cur = some st) (htrain : (s.job jn).isTrain = true)
    (hdone : (s.job jn).train.exchDone = true) (hlink : (s.job jn).train.linkFail = false)
    (hnone : (s.job jn).train.upd? ad.toNat = none) (hmem : ad ∈ (s.job jn).train.updSet)
    (hnext : ∀ x ∈ (s.job jn).train.updSet, x.toNat < ad.toNat → ((s.job jn).train.upd? x.toNat).isSome = true)
    (hpin : (s.entry ad.toNat).idlePin = 0#16) : updGradOp s jn ad.toNat = (s.sendGrad jn ad.toNat st).setUpd jn
      { adapter := ad, sent := true, endAt := s.lcount, nelem := s.nelem ad.toNat } := by
  have hany : (s.job jn).train.updSet.any (fun x => x.toNat = ad.toNat) = true :=
    List.any_eq_true.mpr ⟨ad, hmem, by simp⟩
  have hlate : (s.job jn).train.updSet.any (fun x => x.toNat < ad.toNat && ((s.job jn).train.upd? x.toNat).isNone) = false := by
    rw [List.any_eq_false]
    intro x hx
    have h := hnext x hx
    cases hu : (s.job jn).train.upd? x.toNat <;> simp_all
  unfold updGradOp
  simp only [hst, hany, hlate]
  rw [if_neg (by simp [htrain, hdone, hlink, hnone, hpin]), BitVec.ofNat_toNat, BitVec.setWidth_eq]

/-! ### WRITE -/

/-- No job but jn has changed, of jn's no update, and neither the directory nor any of these bytes. -/
structure State.blocksWritten (s t : State) (jn : Nat) (kept : Nat → Prop) : Prop where
  others : ∀ k, k ≠ jn → t.job k = s.job k
  upds : (t.job jn).train.upds = (s.job jn).train.upds
  dir : t.dir = s.dir
  byte : ∀ y, kept y → s.keepsByte t y

section
variable {kept : Nat → Prop}

theorem State.blocksWritten.refl (s : State) (jn kept) : s.blocksWritten s jn kept :=
  ⟨fun _ _ => rfl, rfl, rfl, fun _ _ => .of_mem rfl⟩

theorem State.blocksWritten.trans {v : State} (h : s.blocksWritten t jn kept) (k : t.blocksWritten v jn kept) :
    s.blocksWritten v jn kept :=
  ⟨fun i hi => (k.others i hi).trans (h.others i hi), k.upds.trans h.upds, k.dir.trans h.dir,
    fun y hy => (h.byte y hy).trans (k.byte y hy)⟩

theorem State.stat_blocksWritten (s : State) (jn cls fmt c kept) : s.blocksWritten (s.stat jn cls fmt c) jn kept := by
  unfold State.stat
  dsimp only
  split
  · exact .refl s jn kept
  · refine ⟨fun k hk => ?_, ?_, rfl, fun _ _ => .of_mem rfl⟩
    · rw [State.job_setJob, if_neg hk]
    · rw [State.job_setJob, if_pos rfl]

/-- Bytes of a converted block go to the idle slot; where they are lost the attempt has failed (R233). -/
def State.putBlock (s : State) (jn x : Nat) (bs : List Byte) : State :=
  let r := s.poke kAdapter none x bs
  if r.2 then r.1.setTrain jn fun t => { t with uncorrFail := true } else r.1

theorem State.putBlock_blocksWritten (s : State) (jn x : Nat) {bs : List Byte} {len : Nat} (hlen : bs.length ≤ len)
    (hy : ∀ y, kept y → ¬(x / 16 ≤ y / 16 ∧ y / 16 ≤ (x + len - 1) / 16)) : s.blocksWritten (s.putBlock jn x bs) jn kept := by
  have hp : s.blocksWritten (s.poke kAdapter none x bs).1 jn kept := by
    have hj := State.job_congr (s.poke_sameRequests kAdapter none x bs).jobs
    refine ⟨fun k _ => hj k, by rw [hj], (s.poke_keepsDirectory ..).dir, fun y hk => s.poke_keepsByte _ _ _ fun hne => ?_⟩
    have hpos := List.length_pos_iff.mpr hne
    have hout := hy y hk
    omega
  refine State.blocksWritten.trans hp ?_
  unfold State.putBlock
  dsimp only
  split
  · refine ⟨fun k hk => ?_, ?_, rfl, fun _ _ => .of_mem rfl⟩
    · rw [State.job_setTrain, if_neg hk]
    · rw [State.job_setTrain, if_pos rfl]
  · exact .refl _ jn kept

theorem chunksOf_length_le_one {α : Type} {n fuel : Nat} {l : List α} (h : l.length ≤ n) : (chunksOf n fuel l).length ≤ 1 := by
  cases fuel with
  | zero => simp [chunksOf]
  | succ fuel =>
    cases l with
    | nil => simp [chunksOf]
    | cons x xs =>
      rw [chunksOf, List.drop_eq_nil_of_le h]
      cases fuel <;> simp [chunksOf]

theorem length_le_of_mem_chunksOf {α : Type} {n fuel : Nat} {l c : List α} (h : c ∈ chunksOf n fuel l) : c.length ≤ l.length := by
  induction fuel generalizing l with
  | zero => simp [chunksOf] at h
  | succ fuel ih =>
    cases l with
    | nil => simp [chunksOf] at h
    | cons x xs =>
      rw [chunksOf, List.mem_cons] at h
      obtain rfl | h := h
      · exact List.length_take_le' ..
      · exact (ih h).trans (by rw [List.length_drop]; exact Nat.sub_le ..)

theorem mxEncode_length (f : FmtCode) (vs : List Val) : (mxEncode f vs).2.length = vs.length := by
  unfold mxEncode
  split <;> simp

theorem packElems_length_le (f : FmtCode) (es : List Byte) :
    (packElems f es).length ≤ if f = .mxfp4 then ceilDiv es.length 2 else es.length := by
  cases f <;> simp [packElems]

theorem ceilDiv_mono {a b : Nat} (h : a ≤ b) (c : Nat) : ceilDiv a c ≤ ceilDiv b c := Nat.div_le_div_right (by omega)

/-- A block of 32 elements at most is encoded as its elements and one scale. -/
theorem mxRow_length_le (f : FmtCode) {vs : List Val} (h : vs.length ≤ 32) :
    (packElems f (((chunksOf 32 vs.length vs).map (mxEncode f)).flatMap (·.2)) ++
      ((chunksOf 32 vs.length vs).map (mxEncode f)).map (·.1)).length ≤
      (if f = .mxfp4 then ceilDiv vs.length 2 else vs.length) + 1 := by
  have hone := chunksOf_length_le_one (fuel := vs.length) h
  have helems : (((chunksOf 32 vs.length vs).map (mxEncode f)).flatMap (·.2)).length ≤ vs.length := by
    refine (length_flatMap_le (n := vs.length) fun x hx => ?_).trans ?_
    · obtain ⟨c, hc, rfl⟩ := List.mem_map.mp hx
      rw [mxEncode_length]
      exact length_le_of_mem_chunksOf hc
    · rw [List.length_map]
      exact (Nat.mul_le_mul_left _ hone).trans (Nat.mul_one _).le
  have hpack := packElems_length_le f (((chunksOf 32 vs.length vs).map (mxEncode f)).flatMap (·.2))
  have hceil := ceilDiv_mono helems 2
  rw [List.length_append, List.length_map, List.length_map]
  by_cases hm : f = .mxfp4
  · rw [if_pos hm] at hpack ⊢
    omega
  · rw [if_neg hm] at hpack ⊢
    omega

/-- The scale of a block follows its elements, and nothing follows it. -/
theorem encRow_scale {f : Nat} (hf : f ∈ [3, 4, 5, 6]) {vs : List Val} (h : vs.length ≤ 32) :
    (encRow f vs).length ≤ (if f = 5 then ceilDiv vs.length 2 else vs.length) + 1 := by
  have hmem : f = 3 ∨ f = 4 ∨ f = 5 ∨ f = 6 := by simpa using hf
  obtain rfl | rfl | rfl | rfl := hmem
  · exact mxRow_length_le .mxE4m3 h
  · exact mxRow_length_le .mxE5m2 h
  · exact mxRow_length_le .mxfp4 h
  · exact mxRow_length_le .mxint8 h

theorem encRow_bf16_length (vs : List Val) : (encRow 2 vs).length ≤ 2 * vs.length :=
  length_flatMap_le fun _ _ => (leBytes_length 2 _).le

/-- A converted block changes no byte that is not in it. -/
theorem State.writeBlock_blocksWritten (s : State) (jn a : Nat) (r : SlotRow) {c n : Nat} {ws : List W}
    (hf : (s.entry a).fmt.toNat ∈ [2, 3, 4, 5, 6]) (hn : ws.length = n) (h32 : n ≤ 32)
    (hy : ∀ y, kept y → ¬ s.inBlock a r c n y) : s.blocksWritten (s.writeBlock jn a r c n ws) jn kept := by
  have hv : (ws.map ofF32).length = n := by rw [List.length_map, hn]
  unfold State.inBlock at hy
  unfold State.writeBlock
  dsimp only at hy ⊢
  generalize (s.entry a).fmt.toNat = f at *
  generalize (s.entry a).idleSlot + r.off = base at *
  refine .trans (s.stat_blocksWritten jn 4 f (countRow f (ws.map ofF32)) kept) ?_
  by_cases h2 : f = 2
  · subst h2
    simp only [if_pos] at hy
    rw [if_pos rfl]
    exact State.putBlock_blocksWritten _ jn _ (hv ▸ encRow_bf16_length _) hy
  · simp only [if_neg h2] at hy
    rw [if_neg h2]
    have helems y hk := (not_or.mp (hy y hk)).1
    have hscale y hk := (not_or.mp (hy y hk)).2
    have hlen := encRow_scale (f := f) (vs := ws.map ofF32) (by simpa [h2] using hf) (hv ▸ h32)
    rw [hv] at hlen
    refine .trans (State.putBlock_blocksWritten _ jn _ ?_ helems) (State.putBlock_blocksWritten _ jn _ ?_ hscale)
    · exact List.length_take_le ..
    · rw [List.length_drop]
      omega

/-- The elements of a WRITE go into the table one after another. -/
theorem tget?_puts (ws : List W) (e0 e k : Nat) (t : Tab W) :
    tget? ((ws.zipIdx k).foldl (fun t (w, i) => tput t (e0 + i) w) t) e =
      if e0 + k ≤ e ∧ e < e0 + k + ws.length then ws[e - (e0 + k)]? else tget? t e := by
  induction ws generalizing k t with
  | nil => exact (if_neg (by rw [List.length_nil]; omega)).symm
  | cons w ws ih =>
    rw [List.zipIdx_cons, List.foldl_cons, ih, List.length_cons, tget?_tput]
    by_cases h : e = e0 + k
    · rw [if_neg (by omega), if_pos h, if_pos (by omega), h]
      simp
    · rw [if_neg h]
      refine if_ctx_congr (by omega) (fun _ => ?_) fun _ => rfl
      rw [show e - (e0 + k) = e - (e0 + (k + 1)) + 1 by omega, List.getElem?_cons_succ]

theorem rowBlocks_le {w c n : Nat} (h : (c, n) ∈ rowBlocks w) : n ≤ 32 := by
  obtain ⟨b, -, hb⟩ := List.mem_map.mp h
  cases hb
  exact Nat.min_le_left ..

theorem blocksMeeting_le {rows : List SlotRow} {lo hi c n : Nat} {r : SlotRow} (h : (r, c, n) ∈ blocksMeeting rows lo hi) :
    n ≤ 32 := by
  obtain ⟨q, -, hq⟩ := List.mem_flatMap.mp h
  obtain ⟨x, hx, hxe⟩ := List.mem_map.mp hq
  cases hxe
  exact rowBlocks_le (List.mem_filter.mp hx).1

/-- The blocks of a WRITE whose elements are all there are written. -/
def State.writeBlocks (s : State) (jn a : Nat) (written : Tab W) (bs : List (SlotRow × Nat × Nat)) : State :=
  bs.foldl (fun s x =>
    let vs := (List.range x.2.2).map fun i => tget? written (x.1.e0 + x.2.1 + i)
    if vs.all (·.isSome) then s.writeBlock jn a x.1 x.2.1 x.2.2 (vs.map (·.getD 0#32)) else s) s

theorem State.inBlock_congr (h : t.dir = s.dir) (a r c n x) : t.inBlock a r c n x ↔ s.inBlock a r c n x := by
  unfold State.inBlock
  rw [State.entry_congr h]

theorem State.writeBlocks_blocksWritten (s : State) (jn a : Nat) (written) {bs : List (SlotRow × Nat × Nat)}
    (hf : (s.entry a).fmt.toNat ∈ [2, 3, 4, 5, 6]) (h32 : ∀ x ∈ bs, x.2.2 ≤ 32)
    (hb : ∀ x ∈ bs, ∀ y, kept y → ¬ s.inBlock a x.1 x.2.1 x.2.2 y) :
    s.blocksWritten (s.writeBlocks jn a written bs) jn kept := by
  induction bs generalizing s with
  | nil => exact .refl s jn kept
  | cons x bs ih =>
    have hx : s.blocksWritten (if ((List.range x.2.2).map fun i => tget? written (x.1.e0 + x.2.1 + i)).all (·.isSome) then
        s.writeBlock jn a x.1 x.2.1 x.2.2 (((List.range x.2.2).map fun i => tget? written (x.1.e0 + x.2.1 + i)).map
          (·.getD 0#32)) else s) jn kept := by
      split
      · exact s.writeBlock_blocksWritten jn a x.1 hf (by simp) (h32 x List.mem_cons_self) (hb x List.mem_cons_self)
      · exact .refl s jn kept
    refine hx.trans (ih _ ?_ (fun z hz => h32 z (List.mem_cons_of_mem _ hz)) fun z hz y hy => ?_)
    · rwa [State.entry_congr hx.dir]
    · rw [State.inBlock_congr hx.dir]
      exact hb z (List.mem_cons_of_mem _ hz) y hy

end

/-- The elements that a WRITE carries. -/
def writeWords (n : Nat) (x : BitVec 1024) : List W := (List.range n).map fun i => (x >>> (32 * i)).setWidth 32

/-- An update with the elements of a WRITE recorded. -/
def Upd.record (u : Upd) (e0 : Nat) (ws : List W) : Upd :=
  { u with written := ws.zipIdx.foldl (fun t (w, i) => tput t (e0 + i) w) u.written }

theorem Upd.record_written (u : Upd) (e0 n : Nat) (x : BitVec 1024) (e : Nat) :
    tget? (u.record e0 (writeWords n x)).written e =
      if e0 ≤ e ∧ e < e0 + n then some ((x >>> (32 * (e - e0))).setWidth 32) else tget? u.written e := by
  have h := tget?_puts (writeWords n x) e0 e 0 u.written
  simp only [Nat.add_zero, writeWords, List.length_map, List.length_range] at h
  refine h.trans (if_ctx_congr Iff.rfl (fun hlt => ?_) fun _ => rfl)
  rw [List.getElem?_map, List.getElem?_range (by omega)]
  rfl

section
variable {h : BitVec 256} {x : BitVec 1024}

/-- The header of a WRITE is legal (log 57). -/
def legalWrite (h : BitVec 256) : Prop :=
  bitsOf h 2 0 = 2 ∧ bitsOf h 255 199 = 0 ∧ 1 ≤ bitsOf h 125 120 ∧ bitsOf h 125 120 ≤ 32

theorem updWriteOp_absent (hp : s.part.hasTrain = false) : updWriteOp s h x = s := if_pos (by simp [hp])

theorem updWriteOp_illegal (hp : s.part.hasTrain = true) (hl : ¬ legalWrite h) : updWriteOp s h x = s.updDrop := by
  unfold legalWrite at hl
  unfold updWriteOp
  dsimp only
  rw [if_neg (by simp [hp]), if_pos (by omega)]

theorem updWriteOp_legal (hp : s.part.hasTrain = true) (hl : legalWrite h) : updWriteOp s h x =
    match s.updFor (bitsOf h 18 3) (bitsOf h 83 83) with
    | none => s.updDrop
    | some (jn, _, u) =>
      if u.nelem < bitsOf h 119 88 + bitsOf h 125 120 ∨
          (List.range (bitsOf h 125 120)).any (fun i => (tget? u.written (bitsOf h 119 88 + i)).isSome) then
        s.setUpd jn { u with ack := some false }
      else
        (s.setUpd jn (u.record (bitsOf h 119 88) (writeWords (bitsOf h 125 120) x))).writeBlocks jn (bitsOf h 18 3)
          (u.record (bitsOf h 119 88) (writeWords (bitsOf h 125 120) x)).written
          (blocksMeeting (s.rowsOfSlot (bitsOf h 18 3)) (bitsOf h 119 88) (bitsOf h 119 88 + bitsOf h 125 120)) := by
  obtain ⟨htype, hzero, hpos, hle⟩ := hl
  unfold updWriteOp
  dsimp only
  rw [if_neg (by simp [hp]), if_neg (by omega)]
  rfl

/-- UPD_WRITE's write back of what its operation gave. -/
def State.updWrites (s t : State) : State :=
  { s with mem := t.mem, uncorr := t.uncorr, jobs := t.jobs, ctrs := t.ctrs, hdrs := t.hdrs, regs := t.regs }

theorem completes_updWrite {P : State → Prop} (hP : P (s.updWrites (updWriteOp s h x))) : completes (.updWrite h x) s P :=
  completes_of_exec (t := s.updWrites (updWriteOp s h x)) rfl rfl hP

theorem State.job_updWrites (s t : State) (k : Nat) : (s.updWrites t).job k = t.job k := State.job_congr rfl k

/-- A message that is discarded is counted. -/
theorem State.updDrop_dropped (s : State) : s.updDrop.mem = s.mem ∧ s.updDrop.jobs = s.jobs ∧
    s.countedBy s.updDrop pgTrain 0x220 1 :=
  ⟨(s.count_noted ..).mem, (s.count_noted ..).jobs, s.inc_countedBy pgTrain 0x220⟩

theorem State.updWrites_dropped (s : State) : (s.updWrites s.updDrop).mem = s.mem ∧ (s.updWrites s.updDrop).jobs = s.jobs ∧
    s.countedBy (s.updWrites s.updDrop) pgTrain 0x220 1 := by
  obtain ⟨hm, hj, hc⟩ := s.updDrop_dropped
  exact ⟨hm, hj, hc.congr rfl rfl⟩

/-- A WRITE in range, of elements not yet written, records them. -/
theorem updWriteOp_recorded (hp : s.part.hasTrain = true) (hl : legalWrite h)
    (hu : s.updFor (bitsOf h 18 3) (bitsOf h 83 83) = some (jn, st, u))
    (hr : bitsOf h 119 88 + bitsOf h 125 120 ≤ u.nelem)
    (hnew : ∀ i, i < bitsOf h 125 120 → tget? u.written (bitsOf h 119 88 + i) = none) :
    updWriteOp s h x =
      (s.setUpd jn (u.record (bitsOf h 119 88) (writeWords (bitsOf h 125 120) x))).writeBlocks jn (bitsOf h 18 3)
        (u.record (bitsOf h 119 88) (writeWords (bitsOf h 125 120) x)).written
        (blocksMeeting (s.rowsOfSlot (bitsOf h 18 3)) (bitsOf h 119 88) (bitsOf h 119 88 + bitsOf h 125 120)) := by
  have hany : ¬ (u.nelem < bitsOf h 119 88 + bitsOf h 125 120 ∨
      (List.range (bitsOf h 125 120)).any (fun i => (tget? u.written (bitsOf h 119 88 + i)).isSome) = true) := by
    rw [List.any_eq_true]
    rintro (hlt | ⟨i, hi, hsome⟩)
    · omega
    · rw [hnew i (List.mem_range.mp hi)] at hsome
      cases hsome
  rw [updWriteOp_legal hp hl, hu]
  exact if_neg hany

/-- A WRITE out of range, or of an element written before, puts the update in error. -/
theorem updWriteOp_error (hp : s.part.hasTrain = true) (hl : legalWrite h)
    (hu : s.updFor (bitsOf h 18 3) (bitsOf h 83 83) = some (jn, st, u))
    (hr : u.nelem < bitsOf h 119 88 + bitsOf h 125 120 ∨
      ∃ i, i < bitsOf h 125 120 ∧ (tget? u.written (bitsOf h 119 88 + i)).isSome = true) :
    updWriteOp s h x = s.setUpd jn { u with ack := some false } := by
  have hany : u.nelem < bitsOf h 119 88 + bitsOf h 125 120 ∨
      (List.range (bitsOf h 125 120)).any (fun i => (tget? u.written (bitsOf h 119 88 + i)).isSome) = true := by
    refine hr.imp_right fun ⟨i, hi, hsome⟩ => ?_
    exact List.any_eq_true.mpr ⟨i, List.mem_range.mpr hi, hsome⟩
  rw [updWriteOp_legal hp hl, hu]
  exact if_pos hany

/-! ### ACK and the timeout -/

theorem updAckOp_absent (hp : s.part.hasTrain = false) : updAckOp s h = s := if_pos (by simp [hp])

theorem updAckOp_eq (hp : s.part.hasTrain = true) (hu : s.updFor (bitsOf h 18 3) (bitsOf h 83 83) = some (jn, st, u))
    (htype : bitsOf h 2 0 = 3) (hzero : bitsOf h 255 199 = 0) : updAckOp s h =
      if bitsOf h 82 19 ≠ st.num.toNat ∨ bitsOf h 87 84 ≠ st.attempt.toNat then s.updDrop
      else s.setUpd jn { u with
        acked := true
        ack := if u.ack == some false then some false else some (bitsOf h 198 198 = 0 && u.written.length = u.nelem) } := by
  unfold updAckOp
  dsimp only
  rw [if_neg (by simp [hp]), if_neg (by omega), hu]

/-- UPD_ACK's write back of what its operation gave. -/
def State.updAckWrites (s t : State) : State := { s with jobs := t.jobs, ctrs := t.ctrs, hdrs := t.hdrs, regs := t.regs }

theorem completes_updAck {P : State → Prop} (hP : P (s.updAckWrites (updAckOp s h))) : completes (.updAck h) s P :=
  completes_of_exec (t := s.updAckWrites (updAckOp s h)) rfl rfl hP

theorem State.job_updAckWrites (s t : State) (k : Nat) : (s.updAckWrites t).job k = t.job k := State.job_congr rfl k

/-- What an ACK records: an error recorded before it stands (R391). -/
theorem ackResult (u : Upd) (p q : Bool) : (if u.ack == some false then some false else some (p && q)) =
    some (u.ack != some false && p && q) := by
  rw [bne]
  cases u.ack == some false <;> simp

/-- TRAIN_UPD_TIMEOUT's write back of what its operation gave. -/
def State.jobsWritten (s t : State) : State := { s with jobs := t.jobs }

theorem State.job_jobsWritten (s t : State) (k : Nat) : (s.jobsWritten t).job k = t.job k := State.job_congr rfl k

theorem completes_trainUpdTimeout {job : BitVec 8} {ad : BitVec 16} {P : State → Prop}
    (hP : P (s.jobsWritten (trainUpdTimeoutOp s job.toNat ad.toNat))) : completes (.trainUpdTimeout job ad) s P :=
  completes_of_exec (t := s.jobsWritten (trainUpdTimeoutOp s job.toNat ad.toNat)) rfl rfl hP

theorem trainUpdTimeoutOp_due (hst : (s.job jn).cur = some st) (hu : (s.job jn).train.upd? a = some u) (hsent : u.sent = true)
    (hack : u.ack = none) (hdue : u.endAt.toNat + (s.rd pgTrain 0x05C).toNat ≤ s.lcount.toNat) :
    trainUpdTimeoutOp s jn a = s.setUpd jn { u with ack := some false } := by
  unfold trainUpdTimeoutOp
  rw [hst, hu]
  exact if_pos ⟨hsent, by simp [hack], hdue⟩

end

end

end Sys2Proof.Machine

open Sys2Proof Sys2Proof.Machine in
/-- Settles O37: each message by whether it is legal and an update waits for it. -/
theorem updatePortMessages : Obligations.UpdatePortMessages := by
  refine ⟨fun s job a st hst htrain hdone hlink hnone hmem hnext hpin => completes_updGrad ?grad,
    fun s h x hp htype hzero hpos hle => ?write, fun s h x hp => ?absent, fun s h x hp hbad => completes_updWrite ?illegal,
    fun s h jn st u hp hu htype hzero => ⟨fun hnum hatt => completes_updAck ?ack, fun hother => completes_updAck ?stray⟩,
    fun s job a st u hst hu hsent hack hdue =>
      completes_trainUpdTimeout ?timeout⟩
  case grad =>
    rw [updGradOp_sent hst htrain hdone hlink hnone hmem hnext hpin]
    obtain ⟨hjob, hms⟩ := s.sendGrad_sent job.toNat st a.isLt
    refine ⟨fun k hk => ?_, ?_, hms⟩
    · rw [State.job_updGradWrites, State.setUpd_other _ _ hk, hjob k hk]
    · rw [State.job_updGradWrites, State.setUpd_upd? _ _ rfl]
  case write =>
    have hl : legalWrite h := ⟨htype, hzero, hpos, hle⟩
    refine ⟨fun jn st u hu => ⟨fun hr hnew hf hwf => completes_updWrite ?recorded, fun hr => completes_updWrite ?error⟩,
      fun hnone => completes_updWrite ?unknown⟩
    case recorded =>
      have ha := Train.adapter_of_upd? (State.updFor_eq_some hu).2
      rw [updWriteOp_recorded hp hl hu hr hnew]
      obtain ⟨v, hv⟩ : ∃ v, v = u.record (bitsOf h 119 88) (writeWords (bitsOf h 125 120) x) := ⟨_, rfl⟩
      rw [← hv]
      have hva : v.adapter.toNat = bitsOf h 18 3 := by rw [hv]; exact ha
      obtain ⟨hj, hupds, -, hbyte⟩ := State.writeBlocks_blocksWritten (s.setUpd jn v) jn (bitsOf h 18 3) v.written
        (bs := blocksMeeting (s.rowsOfSlot (bitsOf h 18 3)) (bitsOf h 119 88) (bitsOf h 119 88 + bitsOf h 125 120)) hf
        (fun x hx => blocksMeeting_le hx) (kept := fun y => ∀ r c n, (r, c, n) ∈ blocksMeeting
          (s.rowsOfSlot (bitsOf h 18 3)) (bitsOf h 119 88) (bitsOf h 119 88 + bitsOf h 125 120) →
            ¬ s.inBlock (bitsOf h 18 3) r c n y)
        (fun x hx y hy => hy x.1 x.2.1 x.2.2 hx)
      refine ⟨fun i hi => ?_, ⟨v, ?_, ?_⟩, fun y hy => (hbyte y hy hwf).2⟩
      · rw [State.job_updWrites, hj i hi, State.setUpd_other _ _ hi]
      · rw [State.job_updWrites, Train.upd?, hupds]
        exact State.setUpd_upd? _ _ hva
      · subst hv
        exact ⟨rfl, rfl, rfl, u.record_written _ _ x⟩
    case error =>
      have ha := Train.adapter_of_upd? (State.updFor_eq_some hu).2
      rw [updWriteOp_error hp hl hu hr]
      refine ⟨rfl, fun k hk => ?_, ?_⟩
      · rw [State.job_updWrites, State.setUpd_other _ _ hk]
      · rw [State.job_updWrites]
        exact State.setUpd_upd? _ _ ha
    case unknown =>
      rw [updWriteOp_legal hp hl, hnone]
      exact s.updWrites_dropped
  case absent =>
    exact ⟨exec_of_unchanged (t := s.updWrites (updWriteOp s h x)) rfl (by rw [updWriteOp_absent hp]; rfl),
      exec_of_unchanged (t := s.updAckWrites (updAckOp s h)) rfl (by rw [updAckOp_absent hp]; rfl)⟩
  case illegal =>
    rw [updWriteOp_illegal hp fun ⟨htype, hzero, hpos, hle⟩ => by omega]
    exact s.updWrites_dropped
  case ack =>
    have ha := Train.adapter_of_upd? (State.updFor_eq_some hu).2
    rw [updAckOp_eq hp hu htype hzero, if_neg (by omega)]
    refine ⟨rfl, fun k hk => ?_, ?_⟩
    · rw [State.job_updAckWrites, State.setUpd_other _ _ hk]
    · rw [State.job_updAckWrites]
      rw [← ackResult]
      exact State.setUpd_upd? _ _ ha
  case stray =>
    rw [updAckOp_eq hp hu htype hzero, if_pos hother]
    obtain ⟨-, hj, hc⟩ := s.updDrop_dropped
    exact ⟨hj, hc.congr rfl rfl⟩
  case timeout =>
    have ha := Train.adapter_of_upd? hu
    rw [trainUpdTimeoutOp_due hst hu hsent hack hdue]
    refine ⟨fun k hk => ?_, ?_⟩
    · rw [State.job_jobsWritten, State.setUpd_other _ _ hk]
    · rw [State.job_jobsWritten]
      exact State.setUpd_upd? _ _ ha

/-! SUPPORT. What the sending of link frames and the collectives leave alone: all but the ports, the collectives and the counters
(R294, R298, R302). -/

namespace Sys2Proof.Machine

/-! ### Frames -/

/-- The states differ in the ports, the collectives, the registers, the counters and the headers alone. -/
def State.linkSent (s t : State) : Prop :=
  ∃ ports colls regs ctrs hdrs, t = { s with ports := ports, colls := colls, regs := regs, ctrs := ctrs, hdrs := hdrs }

namespace State.linkSent
variable {s t u : State}

theorem refl (s : State) : s.linkSent s := ⟨_, _, _, _, _, rfl⟩

theorem trans (h : s.linkSent t) (k : t.linkSent u) : s.linkSent u := by
  obtain ⟨_, _, _, _, _, rfl⟩ := h
  obtain ⟨_, _, _, _, _, rfl⟩ := k
  exact ⟨_, _, _, _, _, rfl⟩

theorem ite {c : Prop} [Decidable c] (ht : s.linkSent t) (hu : s.linkSent u) : s.linkSent (if c then t else u) := by
  split <;> assumption

theorem foldl {α : Type} {f : State → α → State} (hf : ∀ (s : State) x, s.linkSent (f s x)) (l : List α) (s : State) :
    s.linkSent (l.foldl f s) := by
  induction l generalizing s with
  | nil => exact .refl s
  | cons x l ih => exact (hf s x).trans (ih _)

theorem jobs (h : s.linkSent t) : t.jobs = s.jobs := by obtain ⟨_, _, _, _, _, rfl⟩ := h; rfl

theorem poolCfg (h : s.linkSent t) (c) : t.poolCfg c = s.poolCfg c := by obtain ⟨_, _, _, _, _, rfl⟩ := h; rfl

theorem part (h : s.linkSent t) : t.part = s.part := by obtain ⟨_, _, _, _, _, rfl⟩ := h; rfl

end State.linkSent

theorem find?_map_replaced {α : Type} {p : α → Bool} {l : List α} {v : α} (hv : p v = true) (h : l.any p = true) :
    (l.map fun x => if p x then v else x).find? p = some v := by
  induction l with
  | nil => cases h
  | cons x l ih =>
    rw [List.map_cons, List.find?_cons]
    by_cases hx : p x = true
    · rw [if_pos hx, hv]
    · rw [if_neg hx, Bool.eq_false_iff.mpr hx]
      rw [List.any_cons, Bool.eq_false_iff.mpr hx, Bool.false_or] at h
      exact ih h

section
variable (s : State)

theorem State.count_linkSent (a n) : s.linkSent (s.count a n) := ⟨_, _, _, _, _, s.count_shape a n⟩

theorem State.setPort_linkSent (p v) : s.linkSent (s.setPort p v) := ⟨_, _, _, _, _, rfl⟩

theorem State.raise_linkSent (p b) : s.linkSent (s.raise p b) := ⟨_, _, _, _, _, rfl⟩

theorem State.pumpPort_linkSent (p fuel) : s.linkSent (State.pumpPort p fuel s) := by
  induction fuel generalizing s with
  | zero => exact .refl s
  | succ fuel ih =>
    unfold State.pumpPort
    dsimp only
    split
    · exact .refl s
    · exact .ite (((s.setPort_linkSent ..).trans (State.count_linkSent ..)).trans (ih _)) (.refl s)

theorem State.pump_linkSent (p) : s.linkSent (s.pump p) := s.pumpPort_linkSent ..

theorem State.sendFrame_linkSent (h payload) : s.linkSent (s.sendFrame h payload) := by
  unfold State.sendFrame
  split
  · exact .refl s
  · exact (s.setPort_linkSent ..).trans (State.pump_linkSent ..)

/-! ### Collectives -/

theorem State.setColl_linkSent (v) : s.linkSent (s.setColl v) := .ite ⟨_, _, _, _, _, rfl⟩ ⟨_, _, _, _, _, rfl⟩

theorem State.sendRange_linkSent (c data lo hi base r) : s.linkSent (s.sendRange c data lo hi base r) :=
  .foldl (fun s _ => s.sendFrame_linkSent _ _) _ s

theorem State.sendResults_linkSent (c) : s.linkSent (s.sendResults c) := by
  unfold State.sendResults
  split
  · exact .refl s
  · split
    · exact .refl s
    · exact (s.setColl_linkSent _).trans (.foldl (fun s _ => s.sendRange_linkSent ..) _ _)

/-- A collective that is recorded is found under its key. -/
theorem State.coll?_setColl {v : Coll} {j c : Nat} (hj : v.job.toNat = j) (hc : v.coll.toNat = c) :
    (s.setColl v).coll? j v.step v.attempt c = some v := by
  have same (x : Coll) : (decide (x.job.toNat = j) && x.step == v.step && x.attempt == v.attempt && decide (x.coll.toNat = c)) =
      (x.job == v.job && x.step == v.step && x.attempt == v.attempt && x.coll == v.coll) := by
    rw [← hj, ← hc, Bool.beq_eq_decide_eq x.job, Bool.beq_eq_decide_eq x.coll]
    simp only [BitVec.toNat_eq]
  unfold State.setColl State.coll?
  dsimp only
  simp only [same]
  split
  · next h =>
    exact find?_map_replaced (by simp) h
  · next h =>
    have hn : s.colls.find? (fun x => x.job == v.job && x.step == v.step && x.attempt == v.attempt && x.coll == v.coll) = none := by
      simpa using h
    rw [List.find?_append, hn]
    simp

theorem State.coll?_key {j c : Nat} {step : W} {att : BitVec 4} {v : Coll} (h : s.coll? j step att c = some v) :
    v.job.toNat = j ∧ v.step = step ∧ v.attempt = att ∧ v.coll.toNat = c := by
  have hv := List.find?_some h
  simpa [and_assoc] using hv

end

end Sys2Proof.Machine

/-! PROOFS. The exchange of a train attempt, the gathers of a sharded step, and the collective timeout (O36; R231, R246, R298,
R301, R303). -/

namespace Sys2Proof.Machine

section
variable {s t u : State} {jn c : Nat} {st : Step} {v : Coll} {b : List Byte} {num : BitVec 64} {att : BitVec 4}

/-! ### Results and timeouts -/

theorem State.stepKey_cur (h : (s.job jn).cur = some st) : s.stepKey jn = (st.num, st.attempt) := by
  unfold State.stepKey
  dsimp only
  rw [h]

/-- A collective without a result is given it, and its record is found again under its key. -/
theorem collectiveDoneOp_result (hk : s.stepKey jn = (num, att)) (hv : s.coll? jn (num.setWidth 32) att c = some v)
    (hn : v.result = none) (hb : s.collResult v = some b) : collectiveDoneOp s jn c = s.setColl { v with result := some b } := by
  unfold collectiveDoneOp
  rw [hk]
  dsimp only
  rw [hv]
  dsimp only
  rw [if_neg (by simp [hn]), hb]

theorem collectiveDoneOp_linkSent (s : State) (jn c : Nat) : s.linkSent (collectiveDoneOp s jn c) := by
  unfold collectiveDoneOp
  generalize s.stepKey jn = k
  obtain ⟨num, att⟩ := k
  dsimp only
  split
  · exact .refl s
  · split
    · exact .refl s
    · split
      · exact s.setColl_linkSent _
      · exact .refl s

theorem State.setColl_found {w : Coll} (hv : s.coll? jn (num.setWidth 32) att c = some v) (hj : w.job = v.job)
    (hs : w.step = v.step) (ha : w.attempt = v.attempt) (hc : w.coll = v.coll) :
    (s.setColl w).coll? jn (num.setWidth 32) att c = some w := by
  obtain ⟨kj, ks, ka, kc⟩ := s.coll?_key hv
  rw [← ks, ← ka, ← hs, ← ha]
  exact s.coll?_setColl (hj ▸ kj) (hc ▸ kc)

/-- A collective that failed is recorded, counted and raised. -/
def State.collFailed (s : State) (v : Coll) : State :=
  ((s.setColl { v with failed := true }).inc (pgLink 0) 0x300).raise (pgLink 0) 8

theorem State.collFailed_linkSent (s : State) (v) : s.linkSent (s.collFailed v) :=
  ((s.setColl_linkSent _).trans (State.count_linkSent ..)).trans (State.raise_linkSent ..)

theorem State.collFail_eq (s : State) (v : Coll) : s.collFail v =
    let w := (s.collFailed v).job v.job.toNat
    let k := (s.collFailed v).stepKey v.job.toNat
    if w.isTrain then
      if w.cur.isSome ∧ v.step = k.1.setWidth 32 ∧ v.attempt = k.2 then
        (s.collFailed v).setJob v.job.toNat { w with train := { w.train with linkFail := true } }
      else s.collFailed v
    else match w.cur with
      | some st => if st.num.setWidth 32 = v.step then
          (s.collFailed v).failRows v.job.toNat (List.range st.rows.length) cForm else s.collFailed v
      | none => s.collFailed v := rfl

/-! ### What the exchange keeps of a job's training state -/

/-- No job but jn has changed, and of its training state LINK_FAIL, UNCORR and the phase at most. -/
structure State.exchKept (s t : State) (jn : Nat) (phase : BitVec 3) : Prop where
  others : ∀ k, k ≠ jn → t.job k = s.job k
  train : ∃ l e, (t.job jn).train = { (s.job jn).train with phase := phase, linkFail := l, uncorrFail := e }

theorem State.exchKept.of_jobs (h : t.jobs = s.jobs) : s.exchKept t jn (s.job jn).train.phase :=
  ⟨fun k _ => State.job_congr h k, _, _, by rw [State.job_congr h]⟩

theorem State.exchKept.trans {p q : BitVec 3} (h : s.exchKept t jn p) (k : t.exchKept u jn q) : s.exchKept u jn q := by
  obtain ⟨hj, l, e, ht⟩ := h
  obtain ⟨kj, l', e', ku⟩ := k
  exact ⟨fun i hi => (kj i hi).trans (hj i hi), l', e', by rw [ku, ht]⟩

theorem State.exchKept.phase {p : BitVec 3} (h : s.exchKept t jn p) : (t.job jn).train.phase = p := by
  obtain ⟨-, l, e, ht⟩ := h
  rw [ht]

/-- A change that keeps the phase follows another. -/
theorem State.exchKept.next {p : BitVec 3} (h : s.exchKept t jn p) (k : t.exchKept u jn (t.job jn).train.phase) :
    s.exchKept u jn p := h.phase ▸ h.trans k

theorem State.setTrain_exchKept (s : State) (jn : Nat) {g : Train → Train} {p : BitVec 3}
    (hg : ∃ l e, g (s.job jn).train = { (s.job jn).train with phase := p, linkFail := l, uncorrFail := e }) :
    s.exchKept (s.setTrain jn g) jn p :=
  ⟨fun k hk => by rw [State.job_setTrain, if_neg hk], by rw [State.job_setTrain, if_pos rfl]; exact hg⟩

theorem State.failRows_exchKept (s : State) (jn rows code) :
    s.exchKept (s.failRows jn rows code) jn (s.job jn).train.phase := by
  unfold State.failRows
  split
  · split
    · exact .of_jobs rfl
    · refine ⟨fun k hk => ?_, (s.job jn).train.linkFail, (s.job jn).train.uncorrFail, ?_⟩
      · rw [State.job_setStep, if_neg hk]
      · rw [State.job_setStep, if_pos rfl]
  · exact .of_jobs rfl

theorem State.collFail_exchKept (s : State) (hj : v.job.toNat = jn) : s.exchKept (s.collFail v) jn (s.job jn).train.phase := by
  have k : s.exchKept (s.collFailed v) jn (s.job jn).train.phase := .of_jobs (s.collFailed_linkSent v).jobs
  rw [State.collFail_eq, hj]
  dsimp only
  split
  · split
    · exact k.next (State.setTrain_exchKept _ jn (g := fun t => { t with linkFail := true }) ⟨_, _, rfl⟩)
    · exact k
  · split
    · split
      · exact k.next (State.failRows_exchKept ..)
      · exact k
    · exact k

theorem State.collCheck_exchKept (s : State) (hj : v.job.toNat = jn) :
    s.exchKept (s.collCheck v) jn (s.job jn).train.phase := by
  unfold State.collCheck
  split
  · exact s.collFail_exchKept hj
  · exact .of_jobs rfl

/-- The record that a collective starts with is one of its job. -/
theorem State.startRecord_job (s : State) (hj : jn < 256) (step : W) (att : BitVec 4) (c : Nat) (op : CollOp) :
    ((s.coll? jn step att c).getD
      { job := BitVec.ofNat 8 jn, step := step, attempt := att, coll := BitVec.ofNat 8 c, op := op }).job.toNat = jn := by
  cases h : s.coll? jn step att c with
  | none => exact (BitVec.toNat_ofNat ..).trans (Nat.mod_eq_of_lt hj)
  | some v => exact (s.coll?_key h).1

theorem State.startColl_exchKept (s : State) (hj : jn < 256) (c op mine peer sends) :
    s.exchKept (s.startColl jn c op mine peer sends) jn (s.job jn).train.phase := by
  have toAll (v : Coll) (r : State → Nat → State) (hr : ∀ s x, State.linkSent s (r s x)) (l : List Nat) :
      s.linkSent (l.foldl r (s.setColl v)) := (s.setColl_linkSent v).trans (.foldl hr l _)
  unfold State.startColl
  generalize s.stepKey jn = k
  obtain ⟨num, att⟩ := k
  dsimp only
  have hold := s.startRecord_job hj (num.setWidth 32) att c op
  generalize (s.coll? jn (num.setWidth 32) att c).getD _ = old at *
  refine State.exchKept.next (.of_jobs (State.linkSent.jobs ?_)) (State.collCheck_exchKept _ hold)
  refine State.linkSent.trans ?_ (State.sendResults_linkSent ..)
  split
  · exact toAll _ _ (fun s _ => s.sendRange_linkSent ..) _
  · split
    · exact toAll _ _ (fun s _ => s.sendRange_linkSent ..) _
    · exact s.setColl_linkSent _
  · split
    · exact s.setColl_linkSent _
    · exact (s.setColl_linkSent _).trans (State.sendRange_linkSent ..)
  · exact toAll _ _ (fun s _ => s.sendRange_linkSent ..) _

theorem State.noteGrad_noted (s : State) (jn a) : s.noted (s.noteGrad jn a) :=
  .foldl (fun s _ => .foldl (fun s _ => s.note_noted ..) _ s) _ s

/-- The next collective of an attempt's exchange has begun (R231). -/
def State.exchBegun (s : State) (jn : Nat) (st : Step) : State :=
  let t := (s.job jn).train
  let i := t.exch
  let s := { s with colls := s.colls.filter fun c =>
    !(c.job.toNat = jn && c.step == st.num.setWidth 32 && c.attempt == st.attempt && c.coll.toNat = collNum i && c.result.isSome) }
  if i = 0 then (s.startColl jn (collNum 0) .allgather (bitmap st.adapters)).setTrain jn fun t => { t with phase := 3#3 }
  else if i = 1 then s.startColl jn (collNum 1) .sumI64 (leBytes 8 t.nvalid)
  else
    let a := ((t.updSet[i - 2]?).getD 0#16).toNat
    let g := s.myGrad jn st a
    let s := if g.2 then (s.noteGrad jn a).setTrain jn fun t => { t with uncorrFail := true } else s
    s.startColl jn (collNum i) (if (s.job jn).pooled then .allreduceI32 else .allreduceF32)
      (g.1.flatMap fun w => leBytes 4 w.toNat)

theorem State.startExch_eq (s : State) (jn st) : s.startExch jn st =
    match (s.exchBegun jn st).coll? jn (st.num.setWidth 32) st.attempt (collNum (s.job jn).train.exch) with
    | some v => if v.failed then (s.exchBegun jn st).setTrain jn fun t => { t with linkFail := true } else s.exchBegun jn st
    | none => s.exchBegun jn st := rfl

/-- The phase that the start of the exchange's next collective leaves. -/
def Train.exchPhase (t : Train) : BitVec 3 := if t.exch = 0 then 3#3 else t.phase

theorem State.exchBegun_exchKept (s : State) (hj : jn < 256) (st) :
    s.exchKept (s.exchBegun jn st) jn (s.job jn).train.exchPhase := by
  have hw (cs) : s.exchKept { s with colls := cs } jn (s.job jn).train.phase := .of_jobs rfl
  unfold State.exchBegun Train.exchPhase
  dsimp only
  split
  · exact ((hw _).next (State.startColl_exchKept _ hj ..)).trans
      (State.setTrain_exchKept _ jn (g := fun t => { t with phase := 3#3 }) ⟨_, _, rfl⟩)
  · split
    · exact (hw _).next (State.startColl_exchKept _ hj ..)
    · refine .next ?_ (State.startColl_exchKept _ hj ..)
      split
      · exact ((hw _).next (.of_jobs (State.noteGrad_noted ..).jobs)).next
          (State.setTrain_exchKept _ jn (g := fun t => { t with uncorrFail := true }) ⟨_, _, rfl⟩)
      · exact hw _

/-- The next collective of the exchange starts, the first of all with phase 3. -/
theorem State.startExch_exchKept (s : State) (hj : jn < 256) (st) :
    s.exchKept (s.startExch jn st) jn (s.job jn).train.exchPhase := by
  have k := s.exchBegun_exchKept hj st
  rw [State.startExch_eq]
  split
  · split
    · exact k.next (State.setTrain_exchKept _ jn (g := fun t => { t with linkFail := true }) ⟨_, _, rfl⟩)
    · exact k
  · exact k

/-! ### A result is taken -/

/-- A job's training state once the result of its next collective has been taken. -/
structure Train.took (t u : Train) (b : List Byte) (pooled : Bool) (fx : Int) : Prop where
  exch : u.exch = t.exch + 1
  updSet : u.updSet = if t.exch = 0 then (fromBitmaps b).map (BitVec.ofNat 16) else t.updSet
  nvalid : t.exch = 1 → u.nvalidSum = ofLe b
  sums : ∀ a, 2 ≤ t.exch → t.updSet[t.exch - 2]? = some a →
    tget? u.sums a.toNat = some (if pooled then (wordsOf b).map (ofPool fx) else wordsOf b)

/-- The result of the exchange's next collective is recorded (R231). -/
def State.resultTaken (s : State) (jn : Nat) (b : List Byte) : State :=
  let t := (s.job jn).train
  let i := t.exch
  let s :=
    if i = 0 then s.setTrain jn fun t => { t with updSet := (fromBitmaps b).map (BitVec.ofNat 16) }
    else if i = 1 then s.setTrain jn fun t => { t with nvalidSum := ofLe b }
    else
      let a := ((t.updSet[i - 2]?).getD 0#16).toNat
      let fx : Int := bitsOf (s.poolCfg (s.job jn).circ) 13 8
      let ws := if (s.job jn).pooled then (wordsOf b).map (ofPool fx) else wordsOf b
      let infs := (ws.filter fun g => ofF32 g == .inf false || ofF32 g == .inf true).length
      let s := s.stat jn 3 1 { n := ws.length, over_ := infs, nan := (ws.filter fun g => (ofF32 g).isNan).length, inf := infs }
      s.setTrain jn fun t => { t with sums := tput t.sums a ws }
  s.setTrain jn fun t => { t with exch := i + 1 }

theorem State.takeExch_eq (s : State) (jn st b) : s.takeExch jn st b =
    if 2 ≤ ((s.resultTaken jn b).job jn).train.exch ∧
        ((s.resultTaken jn b).job jn).train.exch = 2 + ((s.resultTaken jn b).job jn).train.updSet.length then
      (s.resultTaken jn b).setTrain jn fun t => { t with exchDone := true, phase := 4#3 }
    else (s.resultTaken jn b).startExch jn st := rfl

/-- The record of a result changes jn's training state alone, and neither its phase nor whether the exchange has ended. -/
theorem State.resultTaken_job (s : State) (jn b) : (∀ k, k ≠ jn → (s.resultTaken jn b).job k = s.job k) ∧
    ((s.resultTaken jn b).job jn).train.exchDone = (s.job jn).train.exchDone ∧
    ((s.resultTaken jn b).job jn).train.phase = (s.job jn).train.phase ∧
    (s.job jn).train.took ((s.resultTaken jn b).job jn).train b (s.job jn).pooled
      (bitsOf (s.poolCfg (s.job jn).circ) 13 8) := by
  have hset (u : State) (g : Train → Train) : ((u.setTrain jn g).job jn).train = g (u.job jn).train := by
    rw [State.job_setTrain, if_pos rfl]
  have hset' (u : State) (g : Train → Train) (k) (hk : k ≠ jn) : (u.setTrain jn g).job k = u.job k := by
    rw [State.job_setTrain, if_neg hk]
  unfold State.resultTaken
  dsimp only
  split
  · next h0 =>
    refine ⟨fun k hk => by rw [hset' _ _ k hk, hset' _ _ k hk], by rw [hset, hset], by rw [hset, hset], ?_⟩
    rw [hset, hset]
    exact ⟨rfl, (if_pos h0).symm, fun h => by omega, fun a h => by omega⟩
  · next h0 =>
    split
    · next h1 =>
      refine ⟨fun k hk => by rw [hset' _ _ k hk, hset' _ _ k hk], by rw [hset, hset], by rw [hset, hset], ?_⟩
      rw [hset, hset]
      exact ⟨rfl, (if_neg h0).symm, fun _ => rfl, fun a h => by omega⟩
    · next h1 =>
      refine ⟨fun k hk => ?_, ?_⟩
      · rw [hset' _ _ k hk, hset' _ _ k hk, (s.stat_blocksWritten jn 3 1 _ fun _ => True).others k hk]
      · obtain ⟨stats, flag, hj⟩ := s.stat_job jn 3 1 _ jn
        rw [hset, hset, hj]
        refine ⟨rfl, rfl, rfl, (if_neg h0).symm, fun h => absurd h h1, fun a _ ha => ?_⟩
        rw [ha]
        exact tget?_tput_same ..

/-- Taking a result advances the exchange, which has ended exactly when a sum has been taken for each adapter. -/
theorem State.takeExch_job (s : State) (hj : jn < 256) (hd : (s.job jn).train.exchDone = false) (st b) :
    (∀ k, k ≠ jn → (s.takeExch jn st b).job k = s.job k) ∧
    ((s.job jn).train.exch = 0 → ((s.takeExch jn st b).job jn).train.phase = (s.job jn).train.phase) ∧
    (s.job jn).train.took ((s.takeExch jn st b).job jn).train b (s.job jn).pooled
      (bitsOf (s.poolCfg (s.job jn).circ) 13 8) ∧
    (((s.takeExch jn st b).job jn).train.exchDone = true ↔ 2 ≤ ((s.takeExch jn st b).job jn).train.exch ∧
      ((s.takeExch jn st b).job jn).train.exch = 2 + ((s.takeExch jn st b).job jn).train.updSet.length) := by
  obtain ⟨hjobs, hdone, hphase, htook⟩ := s.resultTaken_job jn b
  rw [State.takeExch_eq]
  generalize s.resultTaken jn b = u at *
  split
  · next h =>
    have hu (k) : (u.setTrain jn fun t => { t with exchDone := true, phase := 4#3 }).job k =
      if k = jn then { u.job jn with train := { (u.job jn).train with exchDone := true, phase := 4#3 } } else u.job k :=
        State.job_setTrain ..
    refine ⟨fun k hk => by rw [hu, if_neg hk, hjobs k hk], fun h0 => ?_, ?_, ?_⟩
    · have := htook.exch
      omega
    · rw [hu, if_pos rfl]
      exact ⟨htook.exch, htook.updSet, htook.nvalid, htook.sums⟩
    · rw [hu, if_pos rfl]
      exact ⟨fun _ => h, fun _ => rfl⟩
  · next h =>
    obtain ⟨kj, l, e, kt⟩ := u.startExch_exchKept hj st
    refine ⟨fun k hk => (kj k hk).trans (hjobs k hk), fun h0 => ?_, ?_, ?_⟩
    · have hexch := htook.exch
      rw [kt]
      dsimp only
      rw [Train.exchPhase, if_neg (by omega), hphase]
    · rw [kt]
      exact ⟨htook.exch, htook.updSet, htook.nvalid, htook.sums⟩
    · rw [kt]
      dsimp only
      rw [hdone, hd]
      exact ⟨fun h => absurd h (by decide), fun h' => absurd h' h⟩

/-! ### The exchange of a train attempt -/

theorem trainCollOp_train (ht : (s.job jn).isTrain = true) (hst : (s.job jn).cur = some st) :
    trainCollOp s jn c = exchOp s jn c st := by
  unfold trainCollOp
  rw [ht, hst]

/-- The exchange has begun, and one result at most has been taken. -/
theorem exchOp_begins (hj : jn < 256) (hd : (s.job jn).train.exchDone = false) (hl : (s.job jn).train.linkFail = false)
    (h0 : (s.job jn).train.exch = 0) (hb : s.backDone jn st = true)
    (hn : s.coll? jn (st.num.setWidth 32) st.attempt 0 = none) :
    ((exchOp s jn 0 st).job jn).train.phase = 3#3 ∧ ((exchOp s jn 0 st).job jn).train.exch ≤ 1 ∧
      ∀ k, k ≠ jn → (exchOp s jn 0 st).job k = s.job k := by
  have k := (s.startExch_exchKept hj st).next (.of_jobs (collectiveDoneOp_linkSent (s.startExch jn st) jn 0).jobs)
  rw [Train.exchPhase, if_pos h0] at k
  obtain ⟨hjobs, l, e, htr⟩ := k
  unfold exchOp
  dsimp only
  rw [if_neg (by simp [hd, hl, h0, collNum]), hn]
  dsimp only
  rw [if_neg (by simp [h0, hb]), if_neg (by decide)]
  generalize collectiveDoneOp (s.startExch jn st) jn 0 = u at *
  split
  · next b _ =>
    obtain ⟨kj, kphase, ktook, -⟩ := u.takeExch_job hj (by rw [htr]; exact hd) st b
    have hexch := ktook.exch
    rw [htr] at kphase hexch
    dsimp only at kphase hexch
    exact ⟨kphase h0, by omega, fun i hi => (kj i hi).trans (hjobs i hi)⟩
  · rw [htr]
    exact ⟨rfl, h0.le.trans (by decide), hjobs⟩

theorem exchOp_takes (hst : (s.job jn).cur = some st) (hd : (s.job jn).train.exchDone = false)
    (hl : (s.job jn).train.linkFail = false) (hc : c = collNum (s.job jn).train.exch)
    (hv : s.coll? jn (st.num.setWidth 32) st.attempt c = some v) (hs : v.started = true) (hr : v.result = none)
    (hb : s.collResult v = some b) : exchOp s jn c st = (s.setColl { v with result := some b }).takeExch jn st b := by
  have hdone := collectiveDoneOp_result (State.stepKey_cur hst) hv hr hb
  have hfound := State.setColl_found (w := { v with result := some b }) hv rfl rfl rfl rfl
  unfold exchOp
  dsimp only
  rw [if_neg (by simp [hd, hl, hc]), hv]
  dsimp only
  rw [if_neg (by simp [hs, hr]), if_pos (by simp [hs, hr]), hdone, hfound]
  rfl

/-- COLLECTIVE_DONE's write back of what its operation gave. -/
def State.collWrites (s t : State) : State :=
  { s with
    colls := t.colls, jobs := t.jobs, ports := t.ports, landing := t.landing, stk := t.stk, log := t.log, logOvf := t.logOvf,
    ctrs := t.ctrs, hdrs := t.hdrs, regs := t.regs }

theorem State.job_collWrites (s t : State) (k : Nat) : (s.collWrites t).job k = t.job k := State.job_congr rfl k

theorem State.coll?_congr (h : t.colls = s.colls) (j step att c) : t.coll? j step att c = s.coll? j step att c := by
  unfold State.coll?
  rw [h]

theorem completes_collectiveDone {job cn : BitVec 8} {P : State → Prop}
    (h : P (s.collWrites (trainCollOp s job.toNat cn.toNat))) : completes (.collectiveDone job cn) s P :=
  completes_of_exec (t := s.collWrites (trainCollOp s job.toNat cn.toNat)) rfl rfl h

/-! ### A serve-mode job's collectives -/

theorem trainCollOp_serve (ht : (s.job jn).isTrain = false) (h : c = 0 ∨ s.sharded jn = false ∨ (s.job jn).cur = none) :
    trainCollOp s jn c = collectiveDoneOp s jn c := by
  unfold trainCollOp
  rw [ht]
  cases hcur : (s.job jn).cur with
  | none => rfl
  | some st =>
    dsimp only
    refine if_neg fun ⟨hc, hs⟩ => ?_
    obtain h | h | h := h
    · exact hc h
    · rw [h] at hs
      cases hs
    · rw [hcur] at h
      cases h

theorem trainCollOp_gather (ht : (s.job jn).isTrain = false) (hst : (s.job jn).cur = some st) (hs : s.sharded jn = true)
    (hc : c ≠ 0) : trainCollOp s jn c = gatherOp s jn c st := by
  unfold trainCollOp
  rw [ht, hst]
  exact if_pos ⟨hc, hs⟩

section
variable {layer kind : Nat}

theorem gatherOp_other (hg : (s.desc st.model.toNat).gatherOf st.gathered = some (layer, kind))
    (hc : c ≠ gatherNum st.gathered) : gatherOp s jn c st = s := by
  unfold gatherOp
  rw [hg]
  exact if_pos (.inl hc)

/-- Every row of a gather is gathered. -/
def State.gatherAll (s : State) (jn : Nat) (st : Step) (layer kind : Nat) (rs : List (List (Nat × List Piece))) : State :=
  (List.range st.rows.length).foldl (fun s i => s.gatherRow jn st layer kind i (rs.map fun r => r.getD i (0, []))) s

theorem gatherOp_begun (hg : (s.desc st.model.toNat).gatherOf st.gathered = some (layer, kind))
    (hc : c = gatherNum st.gathered) (hv : s.coll? jn (st.num.setWidth 32) st.attempt c = some v) (hs : v.started = true) :
    gatherOp s jn c st =
      if v.failed then s.endGather jn layer kind v
      else match s.gatherRows jn st layer kind v with
        | none => s
        | some rs => (s.gatherAll jn st layer kind rs).endGather jn layer kind v := by
  unfold gatherOp
  rw [hg]
  dsimp only
  have hany : (s.coll? jn (st.num.setWidth 32) st.attempt c).any (·.started) = true := by
    rw [hv]
    exact hs
  rw [if_neg (by simp [hany, ← hc]), if_pos hany, hv]
  rfl

/-- No job but jn has changed, no collective, and jn's step keeps its turn, its rows and their failures. -/
structure State.gathers (s t : State) (jn : Nat) : Prop where
  others : ∀ k, k ≠ jn → t.job k = s.job k
  colls : t.colls = s.colls
  steps : ∀ a, (s.job jn).cur = some a → ∃ b, (t.job jn).cur = some b ∧ b.gathered = a.gathered ∧ a.keeps b

theorem State.gathers.refl (s : State) (jn) : s.gathers s jn := ⟨fun _ _ => rfl, rfl, fun a h => ⟨a, h, rfl, .refl a⟩⟩

theorem State.gathers.trans (h : s.gathers t jn) (k : t.gathers u jn) : s.gathers u jn := by
  refine ⟨fun i hi => (k.others i hi).trans (h.others i hi), k.colls.trans h.colls, fun a ha => ?_⟩
  obtain ⟨b, hb, hg, hab⟩ := h.steps a ha
  obtain ⟨d, hd, hg', hbd⟩ := k.steps b hb
  exact ⟨d, hd, hg'.trans hg, hab.trans hbd⟩

theorem State.gathers.foldl {α : Type} {f : State → α → State} (hf : ∀ (s : State) x, s.gathers (f s x) jn) (l : List α)
    (s : State) : s.gathers (l.foldl f s) jn := by
  induction l generalizing s with
  | nil => exact .refl s jn
  | cons x l ih => exact (hf s x).trans (ih _)

theorem State.setStep_gathers {a d : Step} (ha : (s.job jn).cur = some a) (hg : d.gathered = a.gathered) (k : a.keeps d) :
    s.gathers (s.setStep jn d) jn := by
  refine ⟨fun i hi => by rw [State.job_setStep, if_neg hi], rfl, fun x hx => ?_⟩
  rw [ha] at hx
  cases hx
  exact ⟨d, by rw [State.job_setStep, if_pos rfl], hg, k⟩

theorem State.failRows_gathers (s : State) (jn rows code) : s.gathers (s.failRows jn rows code) jn := by
  unfold State.failRows
  split
  · next a ha =>
    split
    · exact .refl s jn
    · exact State.setStep_gathers ha rfl (a.failRows_keeps _ code)
  · exact .refl s jn

theorem State.putFull_gathers (s : State) (jn layer kind i expert own vs) :
    s.gathers (s.putFull jn layer kind i expert own vs) jn := by
  unfold State.putFull
  dsimp only
  split
  · split
    · exact ⟨fun _ _ => rfl, rfl, fun a h => ⟨a, h, rfl, .refl a⟩⟩
    · exact .refl s jn
  · split
    · next a ha => exact State.setStep_gathers ha rfl (Step.keeps_of_rows rfl rfl)
    · exact .refl s jn

theorem Step.markRows_keeps (a : Step) (rows layer d) : a.keeps (a.markRows rows layer d) := by
  have part {β : Type} (g : Row → β) (hg : ∀ (r : Row) m, g { r with marks := m } = g r) :
      (a.markRows rows layer d).rows.map g = a.rows.map g :=
    map_part_zipIdx g _ fun r i => by
      dsimp only
      split
      · exact hg ..
      · rfl
  refine ⟨rfl, part (fun r => (r.slot, r.pos)) fun _ _ => rfl, fun i c hc => ?_⟩
  have e (l : List Row) (r : Row) : (l.getD i r).fails = (l.map Row.fails).getD i r.fails := by rw [List.getD_map]
  unfold Step.row at hc ⊢
  rwa [e, part Row.fails fun _ _ => rfl, ← e]

theorem State.markRows_gathers (s : State) (jn rows layer d) : s.gathers (s.markRows jn rows layer d) jn := by
  unfold State.markRows
  split
  · next a ha => exact State.setStep_gathers ha rfl (a.markRows_keeps rows layer d)
  · exact .refl s jn

theorem State.gatherRow_gathers (s : State) (jn st layer kind i xs) :
    s.gathers (s.gatherRow jn st layer kind i xs) jn := by
  unfold State.gatherRow
  split
  · split
    · exact s.failRows_gathers ..
    · exact .refl s jn
  · exact (State.gathers.foldl (fun s _ => s.putFull_gathers ..) _ s).trans (State.markRows_gathers ..)

theorem State.gatherAll_gathers (s : State) (jn st layer kind rs) : s.gathers (s.gatherAll jn st layer kind rs) jn :=
  .foldl (fun s _ => s.gatherRow_gathers ..) _ s

/-- Row i of jn's step in flight has failed. -/
def State.rowFailed (s : State) (jn i : Nat) : Prop := ∃ a, (s.job jn).cur = some a ∧ (a.row i).fails ≠ []

theorem State.rowFailed.later {i : Nat} (h : s.rowFailed jn i) (k : s.gathers t jn) : t.rowFailed jn i := by
  obtain ⟨a, ha, hf⟩ := h
  obtain ⟨b, hb, -, hab⟩ := k.steps a ha
  obtain ⟨x, hx⟩ := List.exists_mem_of_ne_nil _ hf
  exact ⟨b, hb, List.ne_nil_of_mem (hab.fails i x hx)⟩

/-- A row with a status word other than 0 from some rank has failed once it is gathered. -/
theorem State.gatherRow_failed {i : Nat} (k : s.gathers t jn) (hst : (s.job jn).cur = some st) (hi : i < st.rows.length)
    {xs : List (Nat × List Piece)} (hx : ∃ x ∈ xs, x.1 ≠ 0) : (t.gatherRow jn st layer kind i xs).rowFailed jn i := by
  obtain ⟨x, hx, h0⟩ := hx
  obtain ⟨a, ha, -, hk⟩ := k.steps st hst
  have hlen : st.rows.length = a.rows.length := by simpa using (congrArg List.length hk.places).symm
  unfold State.gatherRow
  cases hf : xs.find? (fun x => x.1 ≠ 0) with
  | none => exact absurd h0 (by simpa using List.find?_eq_none.mp hf x hx)
  | some y =>
    dsimp only
    split
    · obtain ⟨b, hb, hfail⟩ := State.failRows_rowFails _ ha (List.mem_singleton_self i) (hlen ▸ hi) (y.1 % 256)
      exact ⟨b, hb, List.ne_nil_of_mem hfail⟩
    · next hne => exact State.rowFailed.later ⟨st, hst, hne⟩ k

theorem State.gatherAll_failed {rs : List (List (Nat × List Piece))} {i : Nat} (hst : (s.job jn).cur = some st)
    (hi : i < st.rows.length) (hr : ∃ r ∈ rs, (r.getD i (0, [])).1 ≠ 0) : (s.gatherAll jn st layer kind rs).rowFailed jn i := by
  have rest (l : List Nat) (t : State) (k : s.gathers t jn) (hl : i ∈ l) :
      (l.foldl (fun s i => s.gatherRow jn st layer kind i (rs.map fun r => r.getD i (0, []))) t).rowFailed jn i := by
    induction l generalizing t with
    | nil => cases hl
    | cons n l ih =>
      rw [List.foldl_cons]
      by_cases hn : i = n
      · subst hn
        refine State.rowFailed.later (State.gatherRow_failed k hst hi ?_) (.foldl (fun s _ => s.gatherRow_gathers ..) l _)
        obtain ⟨r, hr, h0⟩ := hr
        exact ⟨_, List.mem_map_of_mem hr, h0⟩
      · exact ih _ (k.trans (State.gatherRow_gathers ..)) ((List.mem_cons.mp hl).resolve_left hn)
  exact rest _ s (.refl s jn) (List.mem_range.mpr hi)

/-- What the end of a gather leaves. -/
theorem State.endGather_job (k : s.gathers t jn) (hst : (s.job jn).cur = some st) (layer kind v) :
    (∀ i, i ≠ jn → (t.endGather jn layer kind v).job i = s.job i) ∧ (t.endGather jn layer kind v).colls = s.colls.erase v ∧
      ∃ a, ((t.endGather jn layer kind v).job jn).cur = some a ∧ a.gathered = st.gathered + 1 ∧
        ∀ i, t.rowFailed jn i → (a.row i).fails ≠ [] := by
  obtain ⟨a, ha, hg, -⟩ := k.steps st hst
  have hend : t.endGather jn layer kind v = { t.setStep jn { a with
      gathered := a.gathered + 1, pieces := a.pieces.filter fun x => !(x.layer = layer && x.kind = kind) } with
      colls := t.colls.erase v } := by
    unfold State.endGather
    rw [ha]
    rfl
  have hjob (i) : (t.endGather jn layer kind v).job i = (t.setStep jn { a with
      gathered := a.gathered + 1, pieces := a.pieces.filter fun x => !(x.layer = layer && x.kind = kind) }).job i := by
    rw [hend]
    exact State.job_congr rfl i
  refine ⟨fun i hi => ?_, by rw [hend, k.colls], _, by rw [hjob, State.job_setStep, if_pos rfl], by rw [hg], ?_⟩
  · rw [hjob, State.job_setStep, if_neg hi, k.others i hi]
  · rintro i ⟨b, hb, hf⟩
    rw [ha] at hb
    cases hb
    exact hf

end

/-! ### A collective that takes too long -/

theorem linkCollTimeoutOp_due (hk : s.stepKey jn = (num, att)) (hv : s.coll? jn (num.setWidth 32) att c = some v)
    (hr : v.result = none) (hs : v.started = true) (hf : v.failed = false)
    (hdue : v.startAt.toNat + (s.rd (pgLink 0) 0x088).toNat ≤ s.lcount.toNat) : linkCollTimeoutOp s jn c = s.collFail v := by
  unfold linkCollTimeoutOp
  rw [hk]
  dsimp only
  rw [hv]
  exact if_pos ⟨hs, by simp [hr], by simp [hf], hdue⟩

/-- LINK_COLL_TIMEOUT's write back of what its operation gave. -/
def State.collTimeoutWrites (s t : State) : State :=
  { s with colls := t.colls, jobs := t.jobs, ctrs := t.ctrs, hdrs := t.hdrs, regs := t.regs }

theorem State.job_collTimeoutWrites (s t : State) (k : Nat) : (s.collTimeoutWrites t).job k = t.job k := State.job_congr rfl k

theorem completes_linkCollTimeout {job cn : BitVec 8} {P : State → Prop}
    (h : P (s.collTimeoutWrites (linkCollTimeoutOp s job.toNat cn.toNat))) : completes (.linkCollTimeout job cn) s P :=
  completes_of_exec (t := s.collTimeoutWrites (linkCollTimeoutOp s job.toNat cn.toNat)) rfl rfl h

/-- A failed collective changes the jobs alone beside its record, its count and its event. -/
theorem State.collFail_shape (s : State) (v) : s.collFail v = { s.collFailed v with jobs := (s.collFail v).jobs } := by
  rw [State.collFail_eq]
  dsimp only
  split
  · split <;> rfl
  · split
    · split
      · exact State.failRows_shape ..
      · rfl
    · rfl

/-- A train-mode job's attempt in flight is marked LINK_FAIL. -/
theorem State.collFail_marked (hj : v.job.toNat = jn) (ht : (s.job jn).isTrain = true) (hst : (s.job jn).cur = some st)
    (hs : v.step = st.num.setWidth 32) (ha : v.attempt = st.attempt) :
    (s.collFail v).job jn = { s.job jn with train := { (s.job jn).train with linkFail := true } } := by
  have hjob := State.job_congr (s.collFailed_linkSent v).jobs jn
  have hkey := State.stepKey_cur (s := s.collFailed v) (jn := jn) (st := st) (by rw [hjob, hst])
  rw [State.collFail_eq, hj]
  dsimp only
  rw [hkey, hjob, if_pos ht, if_pos ⟨by rw [hst]; rfl, hs, ha⟩, State.job_setJob, if_pos rfl]

/-- Every row of a serve-mode job's step fails. -/
theorem State.collFail_rows (hj : v.job.toNat = jn) (ht : (s.job jn).isTrain = false) (hst : (s.job jn).cur = some st)
    (hs : v.step = st.num.setWidth 32) (hr : st.rows ≠ []) :
    ((s.collFail v).job jn).cur = some (st.failRows (List.range st.rows.length) cForm) := by
  have hjob := State.job_congr (s.collFailed_linkSent v).jobs jn
  have hst' : ((s.collFailed v).job jn).cur = some st := by rw [hjob, hst]
  have hrange : List.range st.rows.length ≠ [] := by simpa using hr
  rw [State.collFail_eq, hj]
  dsimp only
  rw [hjob, if_neg (by simp [ht]), hst]
  dsimp only
  rw [if_pos hs.symm, State.failRows_eq hst' hrange, State.job_setStep, if_pos rfl, hjob, if_neg (by simp [ht])]

/-- The failure is counted and raised, and the record found again under its key. -/
theorem State.collFail_noted (hv : s.coll? jn (num.setWidth 32) att c = some v) :
    s.countedBy (s.collFail v) (pgLink 0) 0x300 1 ∧ (s.collFail v).event (pgLink 0) 8 = true ∧ sameUnits s (s.collFail v) ∧
      (s.collFail v).coll? jn (num.setWidth 32) att c = some { v with failed := true } := by
  have hset : (s.setColl { v with failed := true }).ctrs = s.ctrs ∧ (s.setColl { v with failed := true }).hdrs = s.hdrs ∧
      (s.setColl { v with failed := true }).part = s.part := by
    unfold State.setColl
    dsimp only
    split <;> exact ⟨rfl, rfl, rfl⟩
  obtain ⟨hctrs, hhdrs, hpart⟩ := hset
  rw [State.collFail_shape]
  refine ⟨?_, ?_, fun p => ?_, ?_⟩
  · exact ((s.setColl { v with failed := true }).inc_countedBy (pgLink 0) 0x300).congr (State.ctr_congr hctrs _).symm rfl
  · exact State.event_raise_same _ (pgLink 0) 8 (by decide)
  · refine (State.unit_congr (s := s.collFailed v) rfl rfl p).trans ?_
    rw [State.collFailed, State.unit_raise, State.inc, State.unit_count]
    exact State.unit_congr hhdrs hpart p
  · refine (State.coll?_congr (s := s.setColl { v with failed := true }) ?_ ..).trans
      (State.setColl_found hv rfl rfl rfl rfl)
    change ((s.setColl { v with failed := true }).inc (pgLink 0) 0x300).colls = _
    rw [State.inc, State.count_shape]

end

end Sys2Proof.Machine

open Sys2Proof Sys2Proof.Machine in
/-- Settles O36: the exchange begins, takes its results and ends in order; a gather ends with its rows; a timeout fails its
collective. -/
theorem exchangeCollectivesAreTakenInOrder : Obligations.ExchangeCollectivesAreTakenInOrder := by
  refine ⟨fun s job c st ht hst hd hl => ⟨fun h0 hc hb hn => completes_collectiveDone ?begins,
      fun v b hc hv hs hr hres => completes_collectiveDone ?takes⟩,
    fun s job c num att v hk hv hr => ⟨fun ht hserve b hb => completes_collectiveDone ?serve,
      fun hs hf hdue => completes_linkCollTimeout ?timeout⟩,
    fun s job c st layer kind ht hst hsh hc hg => have hc0 : c.toNat ≠ 0 := fun h => hc (BitVec.eq_of_toNat_eq h)
      ⟨fun hne => ?other, fun v hnum hv hs =>
      ⟨fun hf hrows => ?waits, fun h => completes_collectiveDone ?gathered⟩⟩⟩
  case begins =>
    subst hc
    rw [trainCollOp_train ht hst]
    simp only [State.job_collWrites]
    exact exchOp_begins job.isLt hd hl h0 hb hn
  case takes =>
    have hsame := s.setColl_linkSent { v with result := some b }
    have hjob := State.job_congr hsame.jobs
    have hcirc := hsame.poolCfg
    rw [trainCollOp_train ht hst, exchOp_takes hst hd hl hc hv hs hr hres]
    simp only [State.job_collWrites]
    obtain ⟨hj, -, htook, hdone⟩ := State.takeExch_job (s := s.setColl { v with result := some b }) job.isLt
      (by rw [hjob, hd]) st b
    rw [hjob, hcirc] at htook
    refine ⟨htook.exch, fun k hk => (hj k hk).trans (hjob k), hdone, fun h => ?_, htook.nvalid, htook.sums⟩
    rw [htook.updSet, if_pos h]
  case serve =>
    have hserve' : c.toNat = 0 ∨ s.sharded job.toNat = false ∨ (s.job job.toNat).cur = none := hserve.imp_left fun h => by
      rw [h]
      rfl
    rw [trainCollOp_serve ht hserve', collectiveDoneOp_result hk hv hr hb]
    refine ⟨(s.setColl_linkSent _).jobs, ?_⟩
    exact (State.coll?_congr (s := s.setColl { v with result := some b }) rfl ..).trans (State.setColl_found hv rfl rfl rfl rfl)
  case timeout =>
    obtain ⟨hj, hstep, hatt, -⟩ := s.coll?_key hv
    obtain ⟨hctr, hev, hunits, hcoll⟩ := State.collFail_noted hv
    rw [linkCollTimeoutOp_due hk hv hr hs hf hdue]
    refine ⟨hctr.congr rfl rfl, hev, fun p => ?_, (State.coll?_congr rfl ..).trans hcoll, fun ht hcur => ?_, fun st ht hst hne => ?_⟩
    · have hpart : (s.collFail v).part = s.part := by
        rw [State.collFail_shape]
        exact (s.collFailed_linkSent v).part
      exact (State.unit_congr (s := s.collFail v) (t := s.collTimeoutWrites (s.collFail v)) rfl hpart.symm p).trans (hunits p)
    · obtain ⟨st, hst⟩ := Option.isSome_iff_exists.mp hcur
      obtain ⟨rfl, rfl⟩ := Prod.mk.inj ((State.stepKey_cur hst).symm.trans hk)
      rw [State.job_collTimeoutWrites]
      exact State.collFail_marked hj ht hst hstep hatt
    · obtain ⟨rfl, rfl⟩ := Prod.mk.inj ((State.stepKey_cur hst).symm.trans hk)
      rw [State.job_collTimeoutWrites]
      exact State.collFail_rows hj ht hst hstep hne
  case other =>
    have hop : trainCollOp s job.toNat c.toNat = s := by
      rw [trainCollOp_gather ht hst hsh hc0, gatherOp_other hg hne]
    exact exec_of_unchanged (t := s.collWrites (trainCollOp s job.toNat c.toNat)) rfl (by rw [hop]; rfl)
  case waits =>
    have hop : trainCollOp s job.toNat c.toNat = s := by
      rw [trainCollOp_gather ht hst hsh hc0, gatherOp_begun hg hnum hv hs, if_neg (by simp [hf]), hrows]
    exact exec_of_unchanged (t := s.collWrites (trainCollOp s job.toNat c.toNat)) rfl (by rw [hop]; rfl)
  case gathered =>
    rw [trainCollOp_gather ht hst hsh hc0, gatherOp_begun hg hnum hv hs]
    simp only [State.job_collWrites]
    cases hf : v.failed with
    | true =>
      obtain ⟨hj, hcolls, a, ha, hgath, -⟩ := State.endGather_job (.refl s job.toNat) hst layer kind v
      exact ⟨hj, hcolls, a, ha, hgath, fun _ h => by cases h⟩
    | false =>
      obtain ⟨rs, hrs⟩ := Option.isSome_iff_exists.mp (h.resolve_left (by simp [hf]))
      obtain ⟨hj, hcolls, a, ha, hgath, hfails⟩ := State.endGather_job (s.gatherAll_gathers job.toNat st layer kind rs) hst layer kind v
      simp only [hrs, Bool.false_eq_true, if_false]
      refine ⟨hj, hcolls, a, ha, hgath, fun rs' _ h' i hi hr => hfails i ?_⟩
      cases h'
      exact State.gatherAll_failed hst hi hr

/-! SUPPORT. What the close of a step leaves of a decision: the image, the next step and the training state of every job, the slots
and postmarks of the READY adapters, and the messages of the ports (R237 to R240). -/

namespace Sys2Proof.Machine

/-! ### The relation -/

/-- A READY entry stays READY, with its live slot, its postmark and its rank order. -/
def DirEntry.keepsLive (e f : DirEntry) : Prop :=
  e.st = .ready → f.st = .ready ∧ f.live = e.live ∧ f.postmark = e.postmark ∧ f.rankord = e.rankord

/-- Every job keeps its image, its next step and its training state, and no step has begun; every READY entry keeps what it
serves; the update port's messages and the control messages are as they were. -/
structure State.keepsDecision (s t : State) : Prop where
  img : ∀ j, (t.job j).img = (s.job j).img
  next : ∀ j, (t.job j).next = (s.job j).next
  train : ∀ j, (t.job j).train = (s.job j).train
  idle : ∀ j, (s.job j).cur = none → (t.job j).cur = none
  entries : ∀ a, (s.entry a).keepsLive (t.entry a)
  updOut : t.updOut = s.updOut
  ctrlIn : t.ctrlIn = s.ctrlIn

theorem DirEntry.keepsLive.refl (e : DirEntry) : e.keepsLive e := fun h => ⟨h, rfl, rfl, rfl⟩

theorem DirEntry.keepsLive.trans {e f g : DirEntry} (h : e.keepsLive f) (k : f.keepsLive g) : e.keepsLive g := fun he => by
  obtain ⟨hst, hl, hp, hr⟩ := h he
  obtain ⟨kst, kl, kp, kr⟩ := k hst
  exact ⟨kst, kl.trans hl, kp.trans hp, kr.trans hr⟩

namespace State.keepsDecision
variable {s t u : State}

/-- A change of the jobs alone, of fields that none of the facts speaks of but the step in flight, which does not begin. -/
theorem of_jobs (hj : ∀ j, (t.job j).img = (s.job j).img ∧ (t.job j).next = (s.job j).next ∧ (t.job j).train = (s.job j).train ∧
    ((s.job j).cur = none → (t.job j).cur = none)) (hd : t.dir = s.dir) (hu : t.updOut = s.updOut) (hc : t.ctrlIn = s.ctrlIn) :
    s.keepsDecision t where
  img j := (hj j).1
  next j := (hj j).2.1
  train j := (hj j).2.2.1
  idle j := (hj j).2.2.2
  entries a := by rw [State.entry_congr hd]; exact .refl _
  updOut := hu
  ctrlIn := hc

/-- A change of the directory alone. -/
theorem of_entries (he : ∀ a, (s.entry a).keepsLive (t.entry a)) (hj : t.jobs = s.jobs) (hu : t.updOut = s.updOut)
    (hc : t.ctrlIn = s.ctrlIn) : s.keepsDecision t where
  img j := by rw [State.job_congr hj]
  next j := by rw [State.job_congr hj]
  train j := by rw [State.job_congr hj]
  idle j h := by rwa [State.job_congr hj]
  entries := he
  updOut := hu
  ctrlIn := hc

/-- A change of a field that none of the facts speaks of. -/
theorem of_eq (hj : t.jobs = s.jobs) (hd : t.dir = s.dir) (hu : t.updOut = s.updOut) (hc : t.ctrlIn = s.ctrlIn) :
    s.keepsDecision t :=
  .of_jobs (fun j => by rw [State.job_congr hj]; exact ⟨rfl, rfl, rfl, id⟩) hd hu hc

theorem refl (s : State) : s.keepsDecision s := .of_eq rfl rfl rfl rfl

theorem of_stepsOnly (h : s.stepsOnly t) : s.keepsDecision t :=
  .of_jobs (fun j => ⟨by rw [h.jobs j], by rw [h.jobs j], by rw [h.jobs j], h.idle j⟩) h.dir h.updOut h.ctrlIn

theorem trans (h : s.keepsDecision t) (k : t.keepsDecision u) : s.keepsDecision u where
  img j := (k.img j).trans (h.img j)
  next j := (k.next j).trans (h.next j)
  train j := (k.train j).trans (h.train j)
  idle j e := k.idle j (h.idle j e)
  entries a := (h.entries a).trans (k.entries a)
  updOut := k.updOut.trans h.updOut
  ctrlIn := k.ctrlIn.trans h.ctrlIn

/-- The same after a change of a field that none of the facts speaks of. -/
theorem since (k : t.keepsDecision u) (hj : t.jobs = s.jobs) (hd : t.dir = s.dir) (hu : t.updOut = s.updOut)
    (hc : t.ctrlIn = s.ctrlIn) : s.keepsDecision u := (of_eq hj hd hu hc).trans k

theorem ite {c : Prop} [Decidable c] (ht : s.keepsDecision t) (hu : s.keepsDecision u) :
    s.keepsDecision (if c then t else u) := by
  split <;> assumption

theorem foldl {α : Type} {f : State → α → State} (hf : ∀ (s : State) x, s.keepsDecision (f s x)) (l : List α) (s : State) :
    s.keepsDecision (l.foldl f s) := by
  induction l generalizing s with
  | nil => exact .refl s
  | cons x l ih => exact (hf s x).trans (ih _)

end State.keepsDecision

section
variable (s : State)

/-! ### Registers, headers and slots -/

theorem State.noted.keepsDecision {s t : State} (h : s.noted t) : s.keepsDecision t := .of_stepsOnly (.of_noted h)

theorem State.count_keepsDecision (a n) : s.keepsDecision (s.count a n) := (s.count_noted a n).keepsDecision

theorem State.raise_keepsDecision (p b) : s.keepsDecision (s.raise p b) := (s.raise_noted p b).keepsDecision

theorem State.note_keepsDecision (r a cls) : s.keepsDecision (s.note r a cls) := (s.note_noted r a cls).keepsDecision

theorem State.errInc_keepsDecision (p) : s.keepsDecision (s.errInc p) := .of_eq rfl rfl rfl rfl

theorem State.setSlot_keepsDecision (q v) : s.keepsDecision (s.setSlot q v) := .of_eq rfl rfl rfl rfl

theorem State.failRows_keepsDecision (j rows code) : s.keepsDecision (s.failRows j rows code) :=
  .of_stepsOnly (s.failRows_stepsOnly j rows code)

theorem State.setJob_keepsDecision {jn : Nat} {j : Job} (hi : j.img = (s.job jn).img) (hn : j.next = (s.job jn).next)
    (ht : j.train = (s.job jn).train) (hc : (s.job jn).cur = none → j.cur = none) : s.keepsDecision (s.setJob jn j) := by
  refine .of_jobs (fun k => ?_) rfl rfl rfl
  rw [State.job_setJob]
  split
  · next e => subst e; exact ⟨hi, hn, ht, hc⟩
  · exact ⟨rfl, rfl, rfl, id⟩

/-! ### Writes of the stacks -/

theorem State.wrCount_keepsDecision (a n) : s.keepsDecision (s.wrCount a n) :=
  .ite (.refl s) (.foldl (fun s _ => s.count_keepsDecision _ 1) _ s)

theorem State.poke_keepsDecision (kind need a bs) : s.keepsDecision (s.poke kind need a bs).1 := by
  have store (s : State) (a bs b n) : s.keepsDecision ((s.store_ a bs).wrCount b n) :=
    State.keepsDecision.trans (t := s.store_ a bs) (.of_eq rfl rfl rfl rfl) (State.wrCount_keepsDecision ..)
  unfold State.poke
  split
  · exact .refl s
  · split
    · exact (s.count_keepsDecision _ 1).trans (State.raise_keepsDecision _ 0x030 8)
    · exact store s a bs _ _
    · exact store s _ _ _ _

theorem State.pokeFor_keepsDecision (q kind need a bs) : s.keepsDecision (s.pokeFor q kind need a bs) :=
  .ite ((s.poke_keepsDecision ..).trans (State.setSlot_keepsDecision ..)) (s.poke_keepsDecision ..)

theorem State.setFrameFor_keepsDecision (q f v) : s.keepsDecision (s.setFrameFor q f v) := s.pokeFor_keepsDecision ..

theorem State.dropHolder_keepsDecision (f) : s.keepsDecision (s.dropHolder f) := s.poke_keepsDecision ..

theorem State.dropHolderFor_keepsDecision (q f) : s.keepsDecision (s.dropHolderFor q f) :=
  s.setFrameFor_keepsDecision ..

theorem State.addHolder_keepsDecision (q f) : s.keepsDecision (s.addHolder q f) := s.setFrameFor_keepsDecision ..

/-! ### The ways of the context cache -/

theorem State.dropWay_keepsDecision (w) : s.keepsDecision (s.dropWay w) :=
  .ite (s.dropHolder_keepsDecision _) ((s.dropHolder_keepsDecision _).trans (State.dropHolder_keepsDecision ..))

theorem State.removeWay_keepsDecision (k) : s.keepsDecision (s.removeWay k) := by
  unfold State.removeWay
  split
  · exact .refl s
  · exact .since (State.dropWay_keepsDecision ..) rfl rfl rfl rfl

theorem State.removeWays_keepsDecision (p) : s.keepsDecision (s.removeWays p) :=
  .since (.foldl (fun s w => s.dropWay_keepsDecision w) _ _) rfl rfl rfl rfl

theorem State.putWay_keepsDecision (q k c) : s.keepsDecision (s.putWay q k c) := by
  unfold State.putWay
  dsimp only
  refine .trans (.ite ?_ (.trans ?_ (State.addHolder_keepsDecision ..))) (State.count_keepsDecision ..)
  all_goals exact .since (State.addHolder_keepsDecision ..) rfl rfl rfl rfl

theorem State.insertWay_keepsDecision (q set c) : s.keepsDecision (s.insertWay q set c).1 := by
  unfold State.insertWay
  split
  · exact .refl s
  · split
    · exact s.putWay_keepsDecision ..
    · split
      · exact ((s.removeWay_keepsDecision _).trans (State.count_keepsDecision ..)).trans (State.putWay_keepsDecision ..)
      · exact .refl s

theorem State.offer_keepsDecision (q model pm gen len fuel) : s.keepsDecision (State.offer q model pm gen len fuel s) := by
  induction fuel generalizing s with
  | zero => exact .refl s
  | succ fuel ih =>
    unfold State.offer
    dsimp only
    split
    · exact .refl s
    · split
      · exact .refl s
      · split
        · exact .refl s
        · split
          · exact (s.note_keepsDecision ..).trans (State.setSlot_keepsDecision ..)
          · exact ((s.insertWay_keepsDecision ..).trans (State.setSlot_keepsDecision ..)).trans (ih _)

theorem State.offerAll_keepsDecision (st cs) : s.keepsDecision (s.offerAll st cs) :=
  .foldl (fun s _ => .ite (s.setSlot_keepsDecision ..) (.ite (.refl s) (s.offer_keepsDecision ..))) cs s

/-! ### Pages and parcels -/

theorem State.dropStale_keepsDecision (q) : s.keepsDecision (s.dropStale q) :=
  (State.keepsDecision.foldl (fun s f => s.dropHolderFor_keepsDecision q f) _ s).trans (State.setSlot_keepsDecision ..)

theorem State.setListEntry_keepsDecision (q i w) : s.keepsDecision (s.setListEntry q i w) := by
  refine (s.pokeFor_keepsDecision q kControl none (s.listAt q i) (leBytes 4 w.toNat)).trans ?_
  exact .since (State.setSlot_keepsDecision ..) rfl rfl rfl rfl

theorem State.dropPage_keepsDecision (q i) : s.keepsDecision (s.dropPage q i) :=
  .ite (State.keepsDecision.trans (.ite (.refl s) (s.dropHolderFor_keepsDecision ..)) (State.setListEntry_keepsDecision ..))
    (.refl s)

theorem State.releasePages_keepsDecision (q) : s.keepsDecision (s.releasePages q) :=
  .foldl (fun s i => s.dropPage_keepsDecision q i) _ s

theorem State.dropParked_keepsDecision (q) : s.keepsDecision (s.dropParked q) := by
  have hfree (l : List Parcel) (s : State) : s.keepsDecision (l.foldl (fun s p => s.freeGranules p.granule p.count) s) :=
    .foldl (f := fun s p => s.freeGranules p.granule p.count) (fun _ _ => .of_eq rfl rfl rfl rfl) l s
  unfold State.dropParked
  dsimp only
  refine .trans (.trans (.trans ?_ (State.setSlot_keepsDecision ..)) (State.dropStale_keepsDecision ..))
    (State.releasePages_keepsDecision ..)
  exact (hfree ((s.slot q).parcels.filter (·.acked)) s).trans (.of_eq rfl rfl rfl rfl)

theorem State.queueEnd_keepsDecision (q r) : s.keepsDecision (s.queueEnd q r) := by
  unfold State.queueEnd
  split
  · exact .refl s
  · exact (s.setSlot_keepsDecision ..).trans (State.setJob_keepsDecision _ rfl rfl rfl id)

theorem State.endOther_keepsDecision (q e) : s.keepsDecision ((s.dropParked q).queueEnd q e) :=
  (s.dropParked_keepsDecision q).trans (State.queueEnd_keepsDecision ..)

theorem State.freePages_keepsDecision (jn cs) : s.keepsDecision (s.freePages jn cs) :=
  (State.keepsDecision.foldl (fun s q => s.dropStale_keepsDecision q) _ s).trans
    (.foldl (fun s _ => .ite (s.releasePages_keepsDecision _) (.refl s)) cs _)

theorem State.trim_keepsDecision (q) : s.keepsDecision (s.trim q) :=
  (State.keepsDecision.foldl (fun s i => .ite (s.dropPage_keepsDecision q i) (.refl s)) _ s).trans
    (State.setSlot_keepsDecision ..)

theorem State.storeHdr_keepsDecision (q) : s.keepsDecision (s.storeHdr q) := s.pokeFor_keepsDecision ..

/-! ### The host port -/

theorem State.issueRead_keepsDecision : s.keepsDecision s.issueRead := by
  unfold State.issueRead
  split
  · exact .of_eq rfl rfl rfl rfl
  · exact .refl s

theorem State.askHost_keepsDecision (u a n) : s.keepsDecision (s.askHost u a n) :=
  .since (.ite (.foldl (fun s _ => s.issueRead_keepsDecision) _ _) (.refl _)) rfl rfl rfl rfl

theorem State.issueWrite_keepsDecision : s.keepsDecision s.issueWrite := by
  unfold State.issueWrite
  split
  · exact .since (State.count_keepsDecision ..) rfl rfl rfl rfl
  · exact .refl s

theorem State.hostPut_keepsDecision (a bs parcel g) : s.keepsDecision (s.hostPut a bs parcel g) :=
  .ite (.refl s) (.since (State.pumpWrites_of_issueWrite _ .refl .trans State.issueWrite_keepsDecision) rfl rfl rfl rfl)

theorem State.hostWrite_keepsDecision (a bs) : s.keepsDecision (s.hostWrite a bs) := s.hostPut_keepsDecision ..

theorem State.notes_keepsDecision (a b x y k l) : s.keepsDecision ((s.note a x k).note b y l) :=
  (s.note_keepsDecision ..).trans (State.note_keepsDecision ..)

theorem State.noteParcel_keepsDecision (q p) : s.keepsDecision (s.noteParcel q p) := by
  unfold State.noteParcel
  dsimp only
  refine .ite (.refl s) (.ite (.trans ?_ (State.endOther_keepsDecision ..)) ?_)
  all_goals exact .ite ((s.notes_keepsDecision ..).trans (State.removeWays_keepsDecision ..)) (s.notes_keepsDecision ..)

theorem State.sendParcel_keepsDecision (q p) : s.keepsDecision (s.sendParcel q p) :=
  .ite (.refl s) ((s.noteParcel_keepsDecision q p).trans (State.hostPut_keepsDecision ..))

theorem State.fetchParcel_keepsDecision (q p) : s.keepsDecision (s.fetchParcel q p) :=
  .ite (.refl s) (s.askHost_keepsDecision ..)

theorem State.pumpParcels_keepsDecision : s.keepsDecision s.pumpParcels :=
  (State.keepsDecision.foldl (fun s (x : Nat × Parcel) => s.sendParcel_keepsDecision x.1 x.2) _ s).trans
    (.foldl (fun s (x : Nat × Parcel) => s.fetchParcel_keepsDecision x.1 x.2) _ _)

theorem State.placeGranules_keepsDecision {s : State} {l r} (h : s.placeGranules l = some r) : s.keepsDecision r.1 := by
  induction l generalizing s r with
  | nil => cases h; exact .refl s
  | cons x l ih =>
    obtain ⟨page, f, tok, n⟩ := x
    unfold State.placeGranules at h
    split at h
    · cases h
    · next g _ =>
      obtain ⟨⟨t, ps⟩, ht, rfl⟩ := Option.map_eq_some_iff.mp h
      exact (State.keepsDecision.since (ih (r := (t, ps)) ht) rfl rfl rfl rfl : s.keepsDecision t)

theorem State.pauseSlot_keepsDecision {s t : State} {q b} (h : s.pauseSlot q b = some t) : s.keepsDecision t := by
  obtain ⟨⟨u, ps⟩, hu, rfl⟩ := Option.map_eq_some_iff.mp h
  have hpage (l : List Parcel) (s : State) : s.keepsDecision (l.foldl (fun (s : State) p =>
      let s := if p.tokOnly then s else s.setFrameFor q p.frame { s.frame p.frame with st := 3 }
      s.setListEntry q p.page 0#32) s) :=
    .foldl (fun s p => State.keepsDecision.trans (.ite (.refl s) (s.setFrameFor_keepsDecision ..))
      (State.setListEntry_keepsDecision ..)) l s
  have hout (s : State) : s.keepsDecision (if ps = [] then s else s.count (regAt pgCache 0x230) ps.length) :=
    .ite (.refl s) (s.count_keepsDecision ..)
  exact (((((State.placeGranules_keepsDecision hu).trans (State.setSlot_keepsDecision ..)).trans (hpage ps _)).trans
    (State.storeHdr_keepsDecision ..)).trans (hout _)).trans (State.pumpParcels_keepsDecision _)

theorem State.takeCmd_keepsDecision (q) : s.keepsDecision (s.takeCmd q) := by
  unfold State.takeCmd
  dsimp only
  refine .ite (.refl s) (.ite (s.trim_keepsDecision q) (.ite ?_ (.refl s)))
  split
  · next h => exact State.pauseSlot_keepsDecision h
  · exact ((s.setSlot_keepsDecision ..).trans (State.errInc_keepsDecision ..)).trans (State.raise_keepsDecision ..)

/-! ### Tokens and records -/

theorem State.tally1_keepsDecision (q tok) : s.keepsDecision (s.tally1 q tok) := by
  have hw (s : State) (off bs) : s.keepsDecision (s.tallyWrite q off bs) := s.poke_keepsDecision ..
  unfold State.tally1
  split
  · exact .refl s
  · refine .ite (.refl s) (.ite (hw ..) (.ite (.ite (s.count_keepsDecision ..) ?_) ((hw ..).trans (hw ..))))
    exact (((s.count_keepsDecision ..).trans (hw ..)).trans (State.setSlot_keepsDecision ..)).trans
      (State.raise_keepsDecision ..)

theorem State.tallyAll_keepsDecision (q toks) : s.keepsDecision (s.tallyAll q toks) :=
  .ite (.foldl (fun s t => s.tally1_keepsDecision q t) toks s) (.refl s)

theorem State.outputs_keepsDecision (jn st v c) : s.keepsDecision (s.outputs jn st v c) := by
  unfold State.outputs
  dsimp only
  split
  · refine .ite (.refl s) (.foldl (fun s x => ?_) _ s)
    split
    · exact s.hostWrite_keepsDecision ..
    · exact .refl s
  · exact .refl s
  · refine .foldl (fun s x => ?_) _ s
    exact .ite (.ite (.refl s) (s.hostWrite_keepsDecision ..))
      (.trans (.ite (.refl s) (s.hostWrite_keepsDecision ..)) (State.hostWrite_keepsDecision ..))

theorem State.ringWrite_keepsDecision (jn bs) : s.keepsDecision (s.ringWrite jn bs) := by
  have hj := State.job_congr (s.hostWrite_portFrame ((s.job jn).ringBase + 128 * ((s.job jn).prod.toNat % 2 ^ (s.job jn).ringLog2))
    bs).jobs jn
  refine (s.hostWrite_keepsDecision _ bs).trans (State.setJob_keepsDecision _ ?_ ?_ ?_ ?_)
  all_goals rw [hj]
  exact id

theorem State.mirror_keepsDecision (jn) : s.keepsDecision (s.mirror jn) := s.hostWrite_keepsDecision ..

theorem State.settle_keepsDecision (c) : s.keepsDecision (s.settle c) := s.setSlot_keepsDecision ..

theorem State.closeRecord_keepsDecision (jn st c) : s.keepsDecision (s.closeRecord jn st c) :=
  .ite ((s.ringWrite_keepsDecision ..).trans (State.setSlot_keepsDecision ..)) (s.ringWrite_keepsDecision ..)

theorem State.deadline_keepsDecision (c) : s.keepsDecision (s.deadline c) :=
  .ite ((s.setSlot_keepsDecision ..).trans (State.count_keepsDecision ..)) (s.setSlot_keepsDecision ..)

theorem State.takeTideline_keepsDecision : s.keepsDecision s.takeTideline := .ite (.of_eq rfl rfl rfl rfl) (.refl s)

/-! ### The entries of the directory -/

theorem State.setEntry_keepsDecision {a : Nat} {e : DirEntry} (h : (s.entry a).keepsLive e) :
    s.keepsDecision (s.setEntry a e) := by
  refine State.keepsDecision.of_entries (fun k => ?_) rfl rfl rfl
  rw [State.entry_setEntry]
  split
  · next hk => rwa [hk]
  · exact .refl _

theorem State.reapEntry_keepsDecision (a) : s.keepsDecision (s.reapEntry a) := by
  unfold State.reapEntry
  dsimp only
  split
  · next h =>
    refine State.keepsDecision.of_entries (fun k => ?_) rfl rfl rfl
    by_cases hk : k = a
    · intro hr
      rw [hk, h.1] at hr
      cases hr
    · have he : (s.freeEntry a).entry k = s.entry k := tget_tdel_other _ _ _ _ hk
      rw [he]
      exact .refl _
  · exact .refl s

theorem State.unstage_keepsDecision : s.keepsDecision s.unstage := .of_eq rfl rfl rfl rfl

theorem State.unpin_keepsDecision (jn st) : s.keepsDecision (s.unpin jn st) := by
  unfold State.unpin
  refine .trans (.foldl (fun s x => ?_) _ s) (State.unstage_keepsDecision _)
  refine .ite (.refl s) (.trans (State.setEntry_keepsDecision s ?_) (State.reapEntry_keepsDecision ..))
  intro h
  unfold DirEntry.pin
  split <;> exact ⟨h, rfl, rfl, rfl⟩

theorem State.refloor_keepsDecision (a) : s.keepsDecision (s.refloor a) := by
  unfold State.refloor
  split
  · exact .refl s
  · next e he =>
    have hentry : s.entry a = e := by
      unfold State.entry tget
      rw [he]
      rfl
    refine .ite (.refl s) (.ite (s.setEntry_keepsDecision ?_) (.refl s))
    rw [hentry]
    exact fun h => ⟨h, rfl, rfl, rfl⟩

theorem State.refloorAll_keepsDecision : s.keepsDecision s.refloorAll := .foldl (fun s a => s.refloor_keepsDecision a) _ s

theorem State.finishClose_keepsDecision (jn) : s.keepsDecision (s.finishClose jn) := by
  unfold State.finishClose
  dsimp only
  split
  · refine (s.setJob_keepsDecision (jn := jn) (j := { s.job jn with st := 0#2 }) rfl rfl rfl id).trans ?_
    refine State.keepsDecision.of_entries (fun a => ?_) rfl rfl rfl
    have he : tget {} (releaseDir s.dir jn) a = (tget {} s.dir a).released jn := tget_releaseDir ..
    change (tget {} s.dir a).keepsLive (tget {} (releaseDir s.dir jn) a)
    rw [he]
    intro h
    unfold DirEntry.released
    split <;> exact ⟨h, rfl, rfl, rfl⟩
  · exact .refl s

/-! ### The close -/

theorem State.withdraw_keepsDecision (jn st) : s.keepsDecision (s.withdraw jn st) := .of_eq rfl rfl rfl rfl

theorem State.badWrites_keepsDecision (jn st) : s.keepsDecision (s.badWrites jn st) :=
  .foldl (fun s _ => .ite ((s.failRows_keepsDecision ..).trans (State.setSlot_keepsDecision ..)) (.refl s)) _ s

/-- What a close does of its requests and records, before the step leaves. -/
def State.closeWork (s : State) (jn : Nat) (st : Step) (v : Verdict) (names : List Named) (cs : List Close)
    (others : List (Nat × EndRec)) : State :=
  let s := s.offerAll st cs
  let s := s.freePages jn cs
  let s := others.foldl (fun (s : State) (q, e) => (s.dropParked q).queueEnd q e) s
  let s := (cs.filter fun c => c.named.excluded.isNone && !c.named.noFrame).foldl (fun (s : State) c => s.settle c) s
  let s := cs.foldl (fun (s : State) c => if c.toks = [] then s else s.tallyAll c.named.slot.toNat (c.toks.map (·.1))) s
  let ended (q : Nat) : Bool := cs.any fun c => c.named.slot.toNat = q && c.final.isSome
  let s := (names.filter fun n => !ended n.slot.toNat).foldl (fun (s : State) n => s.storeHdr n.slot.toNat) s
  let s := ((s.jobSlots jn).filter fun q => !ended q).foldl (fun (s : State) q => s.takeCmd q) s
  let s := cs.foldl (fun (s : State) c => s.outputs jn st v c) s
  let s := cs.foldl (fun (s : State) c => (s.closeRecord jn st c).deadline c) s
  let s := (s.ringWrite jn (summary s jn st v)).mirror jn
  let failed := st.failedRows
  let s := s.inc pgStep 0x0D0
  let s := if failed = 0 then s else (s.count (regAt pgStep 0x0D8) failed).raise pgStep 1
  let late := (cs.filter (·.late)).length
  let s := if late = 0 then s else s.count (regAt pgStep 0x0E0) late
  s.takeTideline

/-- The step leaves: its collectives, its pins and its place go. -/
def State.closeLeave (s : State) (jn : Nat) (st : Step) : State :=
  let s := s.setJob jn { s.job jn with cur := none }
  let s := ((s.releaseColls jn (st.num.setWidth 32) st.attempt).unpin jn st).refloorAll
  (s.finishClose jn).placeWaiting

theorem State.closeStep_eq {s : State} {jn : Nat} {st : Step} (h : (s.job jn).cur = some st) (v : Verdict) :
    ∃ a names cs others, s.closeStep jn v =
      (((s.withdraw jn st).badWrites jn st).closeWork jn a v names cs others).closeLeave jn a := by
  unfold State.closeStep
  rw [h]
  exact ⟨_, _, _, _, rfl⟩

theorem State.closeWork_keepsDecision (jn st v names cs others) :
    s.keepsDecision (s.closeWork jn st v names cs others) := by
  have ends (s : State) : s.keepsDecision (others.foldl (fun (s : State) x => (s.dropParked x.1).queueEnd x.1 x.2) s) :=
    .foldl (fun s (x : Nat × EndRec) => s.endOther_keepsDecision x.1 x.2) others s
  have settles (l : List Close) (s : State) : s.keepsDecision (l.foldl (fun s c => s.settle c) s) :=
    .foldl (fun s (c : Close) => s.settle_keepsDecision c) l s
  have tallies (s : State) : s.keepsDecision (cs.foldl (fun (s : State) c =>
      if c.toks = [] then s else s.tallyAll c.named.slot.toNat (c.toks.map (·.1))) s) :=
    .foldl (fun s (_ : Close) => .ite (.refl s) (s.tallyAll_keepsDecision ..)) cs s
  have stores (l : List Named) (s : State) : s.keepsDecision (l.foldl (fun s n => s.storeHdr n.slot.toNat) s) :=
    .foldl (fun s (n : Named) => s.storeHdr_keepsDecision n.slot.toNat) l s
  have commands (l : List Nat) (s : State) : s.keepsDecision (l.foldl (fun s q => s.takeCmd q) s) :=
    .foldl (fun s (q : Nat) => s.takeCmd_keepsDecision q) l s
  have delivers (s : State) : s.keepsDecision (cs.foldl (fun s c => s.outputs jn st v c) s) :=
    .foldl (fun s (c : Close) => s.outputs_keepsDecision jn st v c) cs s
  have records (s : State) : s.keepsDecision (cs.foldl (fun s c => (s.closeRecord jn st c).deadline c) s) :=
    .foldl (fun s (c : Close) => (s.closeRecord_keepsDecision jn st c).trans (State.deadline_keepsDecision ..)) cs s
  have summed (s : State) (bs) : s.keepsDecision (((s.ringWrite jn bs).mirror jn).inc pgStep 0x0D0) :=
    ((s.ringWrite_keepsDecision jn bs).trans (State.mirror_keepsDecision ..)).trans (State.count_keepsDecision ..)
  have failed (s : State) (n) : s.keepsDecision (if n = 0 then s else (s.count (regAt pgStep 0x0D8) n).raise pgStep 1) :=
    .ite (.refl s) ((s.count_keepsDecision ..).trans (State.raise_keepsDecision ..))
  have late (s : State) (n) : s.keepsDecision (if n = 0 then s else s.count (regAt pgStep 0x0E0) n) :=
    .ite (.refl s) (s.count_keepsDecision ..)
  exact ((((((((((((s.offerAll_keepsDecision st cs).trans (State.freePages_keepsDecision _ jn cs)).trans (ends _)).trans
    (settles _ _)).trans (tallies _)).trans (stores _ _)).trans (commands _ _)).trans (delivers _)).trans (records _)).trans
    (summed _ _)).trans (failed _ _)).trans (late _ _)).trans (State.takeTideline_keepsDecision _)

theorem State.closeLeave_keepsDecision (jn st) : s.keepsDecision (s.closeLeave jn st) ∧
    ((s.closeLeave jn st).job jn).cur = none := by
  have free : s.keepsDecision (s.setJob jn { s.job jn with cur := none }) :=
    s.setJob_keepsDecision rfl rfl rfl fun _ => rfl
  have rest : (s.setJob jn { s.job jn with cur := none }).keepsDecision (s.closeLeave jn st) := by
    unfold State.closeLeave
    refine .trans (.trans (.trans (.trans ?_ (State.unpin_keepsDecision ..)) (State.refloorAll_keepsDecision _))
      (State.finishClose_keepsDecision ..)) (.of_stepsOnly (State.placeWaiting_stepsOnly _))
    exact .of_eq rfl rfl rfl rfl
  exact ⟨free.trans rest, rest.idle jn (by rw [State.job_setJob_same])⟩

/-- A step that closes leaves its job idle, and the decision on it as it is. -/
theorem State.closeStep_keepsDecision {jn : Nat} {st : Step} (h : (s.job jn).cur = some st) (v : Verdict) :
    s.keepsDecision (s.closeStep jn v) ∧ ((s.closeStep jn v).job jn).cur = none := by
  obtain ⟨a, names, cs, others, he⟩ := State.closeStep_eq h v
  rw [he]
  have k := ((s.withdraw_keepsDecision jn st).trans (State.badWrites_keepsDecision _ jn st)).trans
    (State.closeWork_keepsDecision _ jn a v names cs others)
  obtain ⟨hleave, hcur⟩ := (((s.withdraw jn st).badWrites jn st).closeWork jn a v names cs others).closeLeave_keepsDecision jn a
  exact ⟨k.trans hleave, hcur⟩

end

end Sys2Proof.Machine

/-! PROOFS. What a decision applied leaves of the job, of the directory and of the messages (R235 to R240). -/

namespace Sys2Proof.Machine

section
variable {s t u : State} {jn : Nat} {st a : Step} {d : Decision} {j : Job}

/-! ### What a decision hangs on -/

/-- A decision on jn's attempt does in t what it does in s: the job's image, its next step and the part of its training state that
a decision reads, the directory and the update port's messages are the same. -/
structure State.undecided (s t : State) (jn : Nat) : Prop where
  img : (t.job jn).img = (s.job jn).img
  next : (t.job jn).next = (s.job jn).next
  attempt : (t.job jn).train.attempt = (s.job jn).train.attempt
  stuck : (t.job jn).train.stuck = (s.job jn).train.stuck
  lsExp : (t.job jn).train.lsExp = (s.job jn).train.lsExp
  run : (t.job jn).train.run = (s.job jn).train.run
  updSet : (t.job jn).train.updSet = (s.job jn).train.updSet
  dir : t.dir = s.dir
  updOut : t.updOut = s.updOut

theorem State.undecided.of_eq (hj : t.jobs = s.jobs) (hd : t.dir = s.dir) (hu : t.updOut = s.updOut) : s.undecided t jn := by
  have h := State.job_congr hj jn
  refine ⟨?_, ?_, ?_, ?_, ?_, ?_, ?_, hd, hu⟩
  all_goals rw [h]

theorem State.undecided.trans (h : s.undecided t jn) (k : t.undecided u jn) : s.undecided u jn :=
  ⟨k.img.trans h.img, k.next.trans h.next, k.attempt.trans h.attempt, k.stuck.trans h.stuck, k.lsExp.trans h.lsExp,
    k.run.trans h.run, k.updSet.trans h.updSet, k.dir.trans h.dir, k.updOut.trans h.updOut⟩

theorem State.linkSent.undecided (h : s.linkSent t) : s.undecided t jn := by
  obtain ⟨_, _, _, _, _, rfl⟩ := h
  exact .of_eq rfl rfl rfl

/-- The loss scale after a decision hangs on the image, LS_EXP and RUN (R240). -/
theorem Train.scale_congr {v w : Train} {i j : Job} (hi : j.img = i.img) (hx : w.lsExp = v.lsExp) (hr : w.run = v.run)
    (c : Bool) : (w.scale j c).lsExp = (v.scale i c).lsExp ∧ (w.scale j c).run = (v.scale i c).run := by
  unfold Train.scale Job.growRun Job.lsMax Job.lsMin
  rw [hi, hx, hr]
  dsimp only
  split
  · split
    · exact ⟨rfl, rfl⟩
    · exact ⟨rfl, rfl⟩
  · exact ⟨rfl, rfl⟩

/-- A decision applied after a change that it does not hang on has been applied. -/
theorem State.decisionApplied.since (h : t.decisionApplied u jn a d) (k : s.undecided t jn) (hn : a.num = st.num)
    (ha : a.attempt = st.attempt) : s.decisionApplied u jn st d := by
  rintro v w rfl rfl
  obtain ⟨hcur, himg, hnext, hlast, hlstep, hatt, hphase, hattempt, hstuck, hls, hrun, hmsg, hcommit, habort⟩ := h _ _ rfl rfl
  obtain ⟨hls', hrun'⟩ := Train.scale_congr k.img k.lsExp k.run d.commit
  have he (x) : t.entry x = s.entry x := State.entry_congr k.dir x
  have hmax : (t.job jn).replayMax = (s.job jn).replayMax := by rw [Job.replayMax, k.img, Job.replayMax]
  rw [k.next] at hnext
  rw [k.attempt] at hattempt
  rw [k.stuck, k.attempt, hmax] at hstuck
  rw [k.updOut, hn] at hmsg
  rw [k.updSet] at hcommit
  simp only [he] at hcommit habort
  exact ⟨hcur, himg.trans k.img, hnext, hlast, hlstep.trans hn, hatt.trans ha, hphase, hattempt, hstuck, hls.trans hls',
    hrun.trans hrun', hmsg, hcommit, habort⟩

/-- A decision is applied as it is written back. -/
theorem State.decisionApplied.written (h : s.decisionApplied t jn st d) (hj : u.jobs = t.jobs) (hd : u.dir = t.dir)
    (hu : u.updOut = t.updOut) : s.decisionApplied u jn st d := by
  unfold State.decisionApplied at h ⊢
  rw [State.job_congr hj, hu]
  simp only [State.entry_congr hd]
  exact h

/-! ### A decision applied -/

/-- A job's training state with a decision recorded (R235). -/
def Train.record (t : Train) (st : Step) (d : Decision) : Train :=
  { t with
    last := if d.commit then 1#2 else 2#2, lastNan := !d.commit && d.reasons.getLsbD 0, lastAttempt := st.attempt,
    lstep := st.num, lastReasons := d.reasons }

/-- The abort of an attempt of j is the last one it may repeat (R239). -/
def Job.exhausted (j : Job) (d : Decision) : Bool := !d.commit && decide (j.replayMax ≤ (j.train.attempt + 1#4).toNat)

/-- A training state of j once the decision recorded there has been applied (R238 to R240). -/
def Train.applied (t : Train) (j : Job) (st : Step) (d : Decision) : Train :=
  { t.scale j d.commit with
    attempt := if d.commit then 0#4 else j.train.attempt + 1#4, stuck := t.stuck || j.exhausted d, lastStats := t.stats
    phase := 0#3, myVote := none, decided := none, replay := if d.commit then none else some (st.named.map (·.slot)) }

/-- A decision has been recorded, swept into the directory and sent to the update port (R235 to R237). -/
def State.verdictSent (s : State) (jn : Nat) (st : Step) (d : Decision) : State :=
  let j := s.job jn
  let s := s.recordDecision jn st d
  let s := if d.commit then s.sweepCommit j.train.updSet else s
  (s.sendVerdict st d.commit).countVerdict jn d

/-- The job's training state has taken the verdict, and the event of a stuck job is raised. -/
def State.verdictTaken (s : State) (jn : Nat) (st : Step) (d : Decision) : State :=
  let t := (s.verdictSent jn st d).setTrain jn fun t => t.applied (s.job jn) st d
  if (s.job jn).exhausted d then t.raise pgTrain 3 else t

/-- The state that a decision closes its step in. -/
def State.verdictGiven (s : State) (jn : Nat) (st : Step) (d : Decision) : State :=
  let t := s.verdictTaken jn st d
  if d.commit then t.setJob jn { t.job jn with next := (s.job jn).next + 1#64 } else t.resetBeacons (s.job jn).beaconBase

theorem State.applyDecision_eq (h : (s.job jn).cur = some st) (d : Decision) : s.applyDecision jn d =
    (s.verdictGiven jn st d).closeStep jn (some (d.commit, !d.commit && d.reasons.getLsbD 0)) := by
  unfold State.applyDecision
  dsimp only
  rw [h]
  rfl

theorem State.sweepCommit_shape (s : State) (as) : ∃ dir, s.sweepCommit as = { s with dir := dir } := by
  unfold State.sweepCommit
  induction as generalizing s with
  | nil => exact ⟨_, rfl⟩
  | cons x as ih =>
    rw [List.foldl_cons]
    dsimp only
    split
    · exact ih s
    · obtain ⟨dir, h⟩ := ih (s.setEntry x.toNat ((s.entry x.toNat).flip false))
      exact ⟨dir, h⟩

theorem State.sweepCommit_entry_other (s : State) {as : List (BitVec 16)} {x : BitVec 16} (h : x ∉ as) :
    (s.sweepCommit as).entry x.toNat = s.entry x.toNat := by
  unfold State.sweepCommit
  induction as generalizing s with
  | nil => rfl
  | cons y as ih =>
    obtain ⟨hne, hnot⟩ := not_or.mp (List.mem_cons.not.mp h)
    rw [List.foldl_cons, ih _ hnot]
    dsimp only
    split
    · rfl
    · rw [State.entry_setEntry, if_neg fun e => hne (BitVec.eq_of_toNat_eq e)]

/-- A commit flips every READY adapter of the update set once (R237). -/
theorem State.sweepCommit_entry (s : State) {as : List (BitVec 16)} (hn : as.Nodup) {x : BitVec 16} (h : x ∈ as)
    (hr : (s.entry x.toNat).st = .ready) : (s.sweepCommit as).entry x.toNat = (s.entry x.toNat).flip false := by
  induction as generalizing s with
  | nil => cases h
  | cons y as ih =>
    obtain ⟨hy, hn⟩ := List.nodup_cons.mp hn
    have hcons : s.sweepCommit (y :: as) =
        (if (s.entry y.toNat).st = .free then s else s.setEntry y.toNat ((s.entry y.toNat).flip false)).sweepCommit as := rfl
    rw [hcons]
    by_cases hxy : x = y
    · subst hxy
      rw [if_neg (by rw [hr]; decide), State.sweepCommit_entry_other _ hy, State.entry_setEntry, if_pos rfl]
    · have hkeep : (if (s.entry y.toNat).st = .free then s else s.setEntry y.toNat ((s.entry y.toNat).flip false)).entry
          x.toNat = s.entry x.toNat := by
        split
        · rfl
        · rw [State.entry_setEntry, if_neg fun e => hxy (BitVec.eq_of_toNat_eq e)]
      have hmem : x ∈ as := (List.mem_cons.mp h).resolve_left hxy
      rw [ih _ hn hmem (by rw [hkeep, hr]), hkeep]

theorem State.countVerdict_noted (s : State) (jn d) : s.noted (s.countVerdict jn d) := by
  have one (s : State) (p o b) : s.noted ((s.inc p o).raise p b) := (s.count_noted ..).trans (State.raise_noted ..)
  unfold State.countVerdict
  dsimp only
  have first : s.noted (if d.commit then s.inc pgTrain (if d.commit then 0x200 else 0x208)
      else (s.inc pgTrain (if d.commit then 0x200 else 0x208)).raise pgTrain 0) := .ite (s.count_noted ..) (one ..)
  have second := first.trans (.ite (c := (!d.commit && d.reasons.getLsbD 0) = true) (one _ pgTrain 0x210 1) (.refl _))
  exact second.trans (.ite (State.count_noted ..) (.refl _))

theorem verdictHdr_bits {type n : Nat} (ht : type < 8) (hn : n < 2 ^ 64) (r : Nat) :
    bitsOf (BitVec.ofNat 256 (type + 2 ^ 19 * n + 2 ^ 83 * r)) 2 0 = type ∧
      bitsOf (BitVec.ofNat 256 (type + 2 ^ 19 * n + 2 ^ 83 * r)) 82 19 = n := by
  unfold bitsOf
  rw [BitVec.toNat_ofNat]
  omega

/-- The verdict goes to the update port (R237). -/
theorem State.sendVerdict_message (s : State) (st : Step) (c : Bool) : ∃ m, s.sendVerdict st c = { s with updOut := s.updOut ++ [m] } ∧
    bitsOf m.hdr 2 0 = (if c then 4 else 5) ∧ bitsOf m.hdr 82 19 = st.num.toNat := by
  cases c with
  | true => exact ⟨_, rfl, verdictHdr_bits (by decide) st.num.isLt _⟩
  | false =>
    have hhdr : updHdr 5 0 st = 5 + 2 ^ 19 * st.num.toNat + 2 ^ 83 * (st.num.toNat % 2 + 2 * st.attempt.toNat) := by
      unfold updHdr
      omega
    refine ⟨_, rfl, ?_⟩
    rw [hhdr]
    exact verdictHdr_bits (by decide) st.num.isLt _

theorem State.sweepCommit_dir (h : t.dir = s.dir) (as) : (t.sweepCommit as).dir = (s.sweepCommit as).dir := by
  unfold State.sweepCommit
  induction as generalizing s t with
  | nil => exact h
  | cons x as ih =>
    rw [List.foldl_cons, List.foldl_cons]
    refine ih ?_
    dsimp only
    rw [State.entry_congr h]
    split
    · exact h
    · rw [State.setEntry, State.setEntry, h]

/-- The loss scale is no part of the decision's record. -/
theorem Train.scale_record (v : Train) (j c) : (v.scale j c).last = v.last ∧ (v.scale j c).lstep = v.lstep ∧
    (v.scale j c).lastAttempt = v.lastAttempt := by
  unfold Train.scale
  dsimp only
  split
  · split <;> exact ⟨rfl, rfl, rfl⟩
  · exact ⟨rfl, rfl, rfl⟩

/-- What a decision leaves of the job, of the directory and of the messages before its step closes. -/
structure State.verdictLeft (s t : State) (jn : Nat) (st : Step) (d : Decision) (j : Job) : Prop where
  job : t.job jn = j
  message : ∃ m, t.updOut = s.updOut ++ [m] ∧ bitsOf m.hdr 2 0 = (if d.commit then 4 else 5) ∧ bitsOf m.hdr 82 19 = st.num.toNat
  entry : ∀ k, t.entry k = if d.commit then (s.sweepCommit (s.job jn).train.updSet).entry k else s.entry k
  ctrlIn : t.ctrlIn = s.ctrlIn

theorem State.recordDecision_job (s : State) (jn st d) : (s.recordDecision jn st d).job jn =
    { s.job jn with train := (s.job jn).train.record st d } := (State.job_setTrain ..).trans (if_pos rfl)

/-- A decision recorded, and swept into the directory where it commits (R235, R237). -/
def State.verdictSwept (s : State) (jn : Nat) (st : Step) (d : Decision) : State :=
  if d.commit then (s.recordDecision jn st d).sweepCommit (s.job jn).train.updSet else s.recordDecision jn st d

theorem State.verdictSwept_left (s : State) (jn st d) :
    (s.verdictSwept jn st d).job jn = { s.job jn with train := (s.job jn).train.record st d } ∧
      (s.verdictSwept jn st d).updOut = s.updOut ∧ (s.verdictSwept jn st d).ctrlIn = s.ctrlIn ∧
      ∀ k, (s.verdictSwept jn st d).entry k =
        if d.commit then (s.sweepCommit (s.job jn).train.updSet).entry k else s.entry k := by
  have hjob := s.recordDecision_job jn st d
  unfold State.verdictSwept
  split
  · have hd := State.sweepCommit_dir (s := s) (t := s.recordDecision jn st d) rfl (s.job jn).train.updSet
    obtain ⟨dir, h⟩ := (s.recordDecision jn st d).sweepCommit_shape (s.job jn).train.updSet
    refine ⟨?_, ?_, ?_, State.entry_congr hd⟩
    · exact (State.job_congr (s := s.recordDecision jn st d) (by rw [h]) jn).trans hjob
    all_goals
      rw [h]
      rfl
  · exact ⟨hjob, rfl, rfl, fun _ => rfl⟩

theorem State.verdictSent_left (s : State) (jn st d) : s.verdictLeft (s.verdictSent jn st d) jn st d
    { s.job jn with train := (s.job jn).train.record st d } := by
  obtain ⟨hjob, hu, hc, hentry⟩ := s.verdictSwept_left jn st d
  have he : s.verdictSent jn st d = ((s.verdictSwept jn st d).sendVerdict st d.commit).countVerdict jn d := rfl
  rw [he]
  generalize s.verdictSwept jn st d = w at *
  obtain ⟨m, hm, hbits⟩ := w.sendVerdict_message st d.commit
  have hn := (w.sendVerdict st d.commit).countVerdict_noted jn d
  have k := State.stepsOnly.of_noted hn
  refine ⟨?_, ⟨m, ?_, hbits⟩, fun i => ?_, ?_⟩
  · exact (State.job_congr hn.jobs jn).trans ((State.job_congr (by rw [hm]) jn).trans hjob)
  · rw [k.updOut, hm, hu]
  · exact (State.entry_congr k.dir i).trans ((State.entry_congr (by rw [hm]) i).trans (hentry i))
  · rw [k.ctrlIn, hm, hc]

/-- A change after a verdict that leaves the directory and the messages alone. -/
theorem State.verdictLeft.job_changed {i : Job} (h : s.verdictLeft t jn st d i) (hj : u.job jn = j) (hd : u.dir = t.dir)
    (hu : u.updOut = t.updOut) (hc : u.ctrlIn = t.ctrlIn) : s.verdictLeft u jn st d j :=
  ⟨hj, by rw [hu]; exact h.message, fun k => by rw [State.entry_congr hd, h.entry], hc.trans h.ctrlIn⟩

theorem State.verdictTaken_left (s : State) (jn st d) : s.verdictLeft (s.verdictTaken jn st d) jn st d
    { s.job jn with train := ((s.job jn).train.record st d).applied (s.job jn) st d } := by
  have h := s.verdictSent_left jn st d
  have k := h.job_changed (u := (s.verdictSent jn st d).setTrain jn fun t => t.applied (s.job jn) st d)
    ((State.job_setTrain ..).trans (by rw [if_pos rfl, h.job])) rfl rfl rfl
  unfold State.verdictTaken
  dsimp only
  split
  · exact k.job_changed k.job rfl rfl rfl
  · exact k

/-- A job once a decision on st has been applied: its training state has taken it, and a commit has ended the step (R237). -/
def Job.decided (j : Job) (st : Step) (d : Decision) : Job :=
  { j with
    next := if d.commit then j.next + 1#64 else j.next
    train := (j.train.record st d).applied j st d }

theorem Job.decided_of_commit (j : Job) (st) (hc : d.commit = true) : j.decided st d =
    { j with next := j.next + 1#64, train := (j.train.record st d).applied j st d } := by
  rw [Job.decided, if_pos hc]

theorem Job.decided_of_abort (j : Job) (st) (hc : ¬ d.commit = true) : j.decided st d =
    { j with train := (j.train.record st d).applied j st d } := by
  rw [Job.decided, if_neg hc]

theorem State.resetBeacons_shape (s : State) (base) : ∃ bs, s.resetBeacons base = { s with beacons := bs } := ⟨_, rfl⟩

theorem State.verdictGiven_left (s : State) (jn st d) :
    s.verdictLeft (s.verdictGiven jn st d) jn st d ((s.job jn).decided st d) := by
  have h := s.verdictTaken_left jn st d
  unfold State.verdictGiven
  dsimp only
  generalize s.verdictTaken jn st d = w at *
  split
  · next hc =>
    rw [Job.decided_of_commit _ _ hc]
    refine h.job_changed ?_ rfl rfl rfl
    rw [State.job_setJob_same]
    rw [h.job]
  · next hc =>
    rw [Job.decided_of_abort _ _ hc]
    obtain ⟨bs, hbs⟩ := w.resetBeacons_shape (s.job jn).beaconBase
    rw [hbs]
    exact h.job_changed h.job rfl rfl rfl

/-- A decision on the attempt in flight is applied (R236 to R240). -/
theorem State.applyDecision_applied (h : (s.job jn).cur = some st) (d : Decision) :
    s.decisionApplied (s.applyDecision jn d) jn st d ∧ (s.applyDecision jn d).ctrlIn = s.ctrlIn := by
  obtain ⟨hjob, ⟨m, hm, htype, hnum⟩, hentry, hctrl⟩ := s.verdictGiven_left jn st d
  have hcur : ((s.verdictGiven jn st d).job jn).cur = some st := by rw [hjob]; exact h
  obtain ⟨k, hnone⟩ := State.closeStep_keepsDecision _ hcur (some (d.commit, !d.commit && d.reasons.getLsbD 0))
  rw [State.applyDecision_eq h]
  generalize (s.verdictGiven jn st d).closeStep jn (some (d.commit, !d.commit && d.reasons.getLsbD 0)) = t at *
  refine ⟨?_, k.ctrlIn.trans hctrl⟩
  rintro v w rfl rfl
  have himg := k.img jn
  have hnext := k.next jn
  have htrain := k.train jn
  rw [hjob] at himg hnext htrain
  obtain ⟨hls, hrun⟩ := Train.scale_congr (v := (s.job jn).train) (w := (s.job jn).train.record st d) (i := s.job jn)
    (j := s.job jn) rfl rfl rfl d.commit
  rw [htrain]
  refine ⟨hnone, himg, hnext, ?_, ?_, ?_, rfl, rfl, rfl, hls, hrun, ⟨m, by rw [k.updOut, hm], htype, hnum⟩,
    fun hc hn a ha hr => ?_, fun hc a hr => ?_⟩
  · exact (Train.scale_record ..).1
  · exact (Train.scale_record ..).2.1
  · exact (Train.scale_record ..).2.2
  · have he : (s.sweepCommit (s.job jn).train.updSet).entry a.toNat = (s.entry a.toNat).flip false :=
      s.sweepCommit_entry hn ha hr
    have hv := hentry a.toNat
    rw [if_pos hc, he] at hv
    obtain ⟨-, hl, hp, hro⟩ := k.entries a.toNat (by rw [hv]; exact hr)
    rw [hl, hp, hro, hv]
    exact ⟨rfl, rfl, rfl⟩
  · have hv := hentry a
    rw [if_neg (by simp [hc])] at hv
    obtain ⟨-, hl, hp, -⟩ := k.entries a (by rw [hv]; exact hr)
    rw [hl, hp, hv]
    exact ⟨rfl, rfl⟩

end

end Sys2Proof.Machine

/-! PROOFS. Votes, decisions, the timeouts of both, and devices in doubt (O38; R234 to R240, R297, R302). -/

namespace Sys2Proof.Machine

section
variable {s t u w : State} {jn : Nat} {st a : Step} {d : Decision} {v : VoteRec} {m : CtrlIn}

/-! ### A decision applied from a state that the rest of its command has changed -/

/-- A change of a job's step in flight and of the part of its training state that no decision reads. -/
theorem State.undecided.of_job {c : Option Step} {x : Train} (hj : t.job jn = { s.job jn with cur := c, train := x })
    (ha : x.attempt = (s.job jn).train.attempt) (hs : x.stuck = (s.job jn).train.stuck)
    (hl : x.lsExp = (s.job jn).train.lsExp) (hr : x.run = (s.job jn).train.run) (hu : x.updSet = (s.job jn).train.updSet)
    (hd : t.dir = s.dir) (ho : t.updOut = s.updOut) : s.undecided t jn := by
  refine ⟨?_, ?_, ?_, ?_, ?_, ?_, ?_, hd, ho⟩ <;> rw [hj] <;> assumption

theorem State.holdVote_job (s : State) (jn v) : (s.holdVote jn v).job jn =
    { s.job jn with train := { (s.job jn).train with votes := (s.job jn).train.votes.filter (fun x => x.rank ≠ v.rank) ++ [v] } } :=
  (State.job_setTrain ..).trans (if_pos rfl)

theorem State.job_decisionFrame (s t : State) (k : Nat) : (decisionFrame s t).job k = t.job k := State.job_congr rfl k

/-- A decision is applied to st where a state that the decision does not tell from s takes it on a step of its number and attempt. -/
theorem State.applyDecision_since (k : s.undecided w jn) (h : (w.job jn).cur = some a) (hn : a.num = st.num)
    (ha : a.attempt = st.attempt) (d : Decision) : s.decisionApplied (decisionFrame s (w.applyDecision jn d)) jn st d :=
  ((State.applyDecision_applied h d).1.since k hn ha).written rfl rfl rfl

/-- Rank 0 applies its decision at once where it has voted itself (R235). -/
theorem State.decide0_voted (h : (w.job jn).cur = some a) (hm : (w.job jn).train.myVote.isSome = true) (st) (d : Decision) :
    ∃ u, w.decide0 jn st d = u.applyDecision jn d ∧ w.undecided u jn ∧ (u.job jn).cur = some a ∧ u.ctrlIn = w.ctrlIn := by
  have hjob := w.recordDecision_job jn st d
  have hsent : (w.recordDecision jn st d).linkSent
      (((List.range ((w.recordDecision jn st d).job jn).ndev).filter (· ≠ 0)).foldl (fun (s : State) r =>
        ctrlFrame s jn r 2 st.num st.attempt (b2n (!d.commit) + 2 ^ 8 * d.reasons.toNat)) (w.recordDecision jn st d)) :=
    .foldl (fun s _ => s.sendFrame_linkSent ..) _ _
  unfold State.decide0
  dsimp only
  generalize List.foldl _ (w.recordDecision jn st d) _ = u at hsent ⊢
  have hu : u.job jn = { w.job jn with train := (w.job jn).train.record st d } := (State.job_congr hsent.jobs jn).trans hjob
  have k : w.undecided (w.recordDecision jn st d) jn := .of_job hjob rfl rfl rfl rfl rfl rfl rfl
  rw [if_pos (by rw [hu]; exact hm)]
  refine ⟨u, rfl, k.trans hsent.undecided, by rw [hu]; exact h, ?_⟩
  obtain ⟨_, _, _, _, _, rfl⟩ := hsent
  rfl

theorem State.tryDecide_decides (hd : (w.job jn).train.decided = none) (hv : (w.job jn).train.verdict (w.job jn).ndev = some d) :
    w.tryDecide jn st = w.decide0 jn st d := by
  unfold State.tryDecide
  rw [hd, hv]
  rfl

theorem State.tryDecide_waits (hv : (w.job jn).train.verdict (w.job jn).ndev = none) : w.tryDecide jn st = w := by
  unfold State.tryDecide
  rw [hv]
  exact ite_self w

/-- Rank 0, once it has voted, applies the decision that the votes it holds give (R235). -/
theorem State.tryDecide_applied (k : s.undecided w jn) (hcur : (w.job jn).cur = some a) (hn : a.num = st.num)
    (ha : a.attempt = st.attempt) (hm : (w.job jn).train.myVote.isSome = true) (hd : (w.job jn).train.decided = none)
    (hv : (w.job jn).train.verdict (w.job jn).ndev = some d) :
    (w.tryDecide jn st).ctrlIn = w.ctrlIn ∧ s.decisionApplied (decisionFrame s (w.tryDecide jn st)) jn st d := by
  obtain ⟨u, hu, ku, hucur, hctrl⟩ := State.decide0_voted hcur hm st d
  rw [State.tryDecide_decides hd hv, hu]
  exact ⟨(State.applyDecision_applied hucur d).2.trans hctrl, State.applyDecision_since (k.trans ku) hucur hn ha d⟩

/-! ### VOTE -/

/-- The vote of the device itself (R234). -/
def State.ownVote (s : State) (jn : Nat) (st : Step) : VoteRec :=
  ⟨BitVec.ofNat 10 (s.job jn).rank, (s.job jn).train.nanFlag, s.voteReasons jn st⟩

/-- The job of a device that has voted. -/
def State.votedJob (s : State) (jn : Nat) (st : Step) : Job :=
  { s.job jn with
    cur := some { st with st := .voting }
    train := { (s.job jn).train with myVote := some (s.ownVote jn st), voteAt := s.lcount, phase := 5#3 } }

/-- The device has voted: its step waits for the decision. -/
def State.voted (s : State) (jn : Nat) (st : Step) : State :=
  (s.setStep jn { st with st := .voting }).setTrain jn fun t =>
    { t with myVote := some (s.ownVote jn st), voteAt := s.lcount, phase := 5#3 }

theorem State.voted_job (s : State) (jn st) : (s.voted jn st).job jn = s.votedJob jn st := by
  rw [State.voted, State.job_setTrain, if_pos rfl, State.setStep, State.job_setJob_same]
  rfl

theorem State.voted_other (s : State) (st) {k : Nat} (hk : k ≠ jn) : (s.voted jn st).job k = s.job k := by
  rw [State.voted, State.job_setTrain, if_neg hk, State.setStep, State.job_setJob, if_neg hk]

theorem State.voted_undecided (s : State) (jn st) : s.undecided (s.voted jn st) jn :=
  .of_job (s.voted_job jn st) rfl rfl rfl rfl rfl rfl rfl

/-- The frame that carries the device's vote to rank 0. -/
def State.voteSent (s : State) (jn : Nat) (st : Step) : State :=
  ctrlFrame (s.voted jn st) jn 0 1 st.num st.attempt
    ((s.job jn).rank + 2 ^ 10 * b2n (s.ownVote jn st).nan + 2 ^ 16 * (s.voteReasons jn st).toNat)

theorem State.voteSent_linkSent (s : State) (jn st) : (s.voted jn st).linkSent (s.voteSent jn st) := State.sendFrame_linkSent ..

theorem voteOp_votes (hst : (s.job jn).cur = some st) (ht : (s.job jn).isTrain = true) (hm : (s.job jn).train.mayVote = true)
    (hb : s.backDone jn st = true) : voteOp s jn =
      if (s.job jn).ndev = 1 then
        (s.voted jn st).applyDecision jn { commit := s.voteReasons jn st = 0#8, reasons := s.voteReasons jn st }
      else if (s.job jn).rank = 0 then
        match (s.job jn).train.decided with
        | some d => (s.voted jn st).applyDecision jn d
        | none => ((s.voted jn st).holdVote jn (s.ownVote jn st)).tryDecide jn st
      else if s.voteReasons jn st = 0#8 then s.voteSent jn st
      else (s.voteSent jn st).applyDecision jn { commit := false, reasons := s.voteReasons jn st } := by
  unfold voteOp
  dsimp only
  rw [hst]
  dsimp only
  rw [if_neg (by simp [ht, hm, hb])]
  rfl

/-- Rank 0's own vote joins the votes it holds. -/
theorem State.ownVote_held (s : State) (jn st) : ((s.voted jn st).holdVote jn (s.ownVote jn st)).job jn =
    { s.votedJob jn st with train := { (s.votedJob jn st).train with
      votes := (s.job jn).train.votes.filter (fun x => x.rank ≠ (s.ownVote jn st).rank) ++ [s.ownVote jn st] } } := by
  rw [State.holdVote_job, State.voted_job]
  rfl

theorem State.ownVote_held_undecided (s : State) (jn st) :
    s.undecided ((s.voted jn st).holdVote jn (s.ownVote jn st)) jn :=
  .of_job (s.ownVote_held jn st) rfl rfl rfl rfl rfl rfl rfl

theorem completes_vote {job : BitVec 8} {P : State → Prop} (h : P (decisionFrame s (voteOp s job.toNat))) :
    completes (.vote job) s P :=
  completes_of_exec (t := decisionFrame s (voteOp s job.toNat)) rfl rfl h

/-! ### VOTE_FRAME, DECISION and the timeouts -/

theorem completes_voteFrame {job : BitVec 8} {P : State → Prop} (h : P (decisionFrame s (voteFrameOp s job.toNat))) :
    completes (.voteFrame job) s P :=
  completes_of_exec (t := decisionFrame s (voteFrameOp s job.toNat)) rfl rfl h

theorem completes_trainVoteTimeout {job : BitVec 8} {P : State → Prop}
    (h : P (decisionFrame s (trainVoteTimeoutOp s job.toNat))) : completes (.trainVoteTimeout job) s P :=
  completes_of_exec (t := decisionFrame s (trainVoteTimeoutOp s job.toNat)) rfl rfl h

theorem completes_decision {job : BitVec 8} {P : State → Prop} (h : P (decisionFrame s (decisionOp s job.toNat))) :
    completes (.decision job) s P :=
  completes_of_exec (t := decisionFrame s (decisionOp s job.toNat)) rfl rfl h

theorem completes_resolve {c : Instr} {job : BitVec 8} {commit : Bool} {P : State → Prop}
    (hc : c = .resolveCommit job ∧ commit = true ∨ c = .resolveAbort job ∧ commit = false)
    (h : P (decisionFrame s (resolveOp s job.toNat commit))) : completes c s P := by
  obtain ⟨rfl, rfl⟩ | ⟨rfl, rfl⟩ := hc
  · exact completes_of_exec (t := decisionFrame s (resolveOp s job.toNat true)) rfl rfl h
  · exact completes_of_exec (t := decisionFrame s (resolveOp s job.toNat false)) rfl rfl h

/-- What TRAIN_DECIDE_TIMEOUT writes back of what its operation gave. -/
def State.decideTimeoutWrites (s t : State) : State :=
  { s with jobs := t.jobs, ports := t.ports, ctrs := t.ctrs, hdrs := t.hdrs, regs := t.regs }

theorem completes_trainDecideTimeout {job : BitVec 8} {P : State → Prop}
    (h : P (s.decideTimeoutWrites (trainDecideTimeoutOp s job.toNat))) : completes (.trainDecideTimeout job) s P :=
  completes_of_exec (t := s.decideTimeoutWrites (trainDecideTimeoutOp s job.toNat)) rfl rfl h

/-- What ASK writes back of what its operation gave. -/
def State.askWrites (s t : State) : State :=
  { s with ctrlIn := t.ctrlIn, ports := t.ports, ctrs := t.ctrs, hdrs := t.hdrs, regs := t.regs }

theorem completes_ask {job : BitVec 8} {P : State → Prop} (h : P (s.askWrites (askOp s job.toNat))) :
    completes (.ask job) s P :=
  completes_of_exec (t := s.askWrites (askOp s job.toNat)) rfl rfl h

/-- A message is taken off those that wait. -/
def State.taken (s : State) (m : CtrlIn) : State := { s with ctrlIn := s.ctrlIn.erase m }

theorem State.taken_undecided (s : State) (m) : s.undecided (s.taken m) jn := .of_eq rfl rfl rfl

theorem voteFrameOp_joins (hf : s.ctrlIn.find? (fun m => m.job.toNat = jn && m.msg.isVote && !s.ctrlWaits jn m) = some m)
    (hm : m.msg = .vote v) (hst : (s.job jn).cur = some st) (hc : m.current st = true) (ht : (s.job jn).isTrain = true)
    (hr : (s.job jn).rank = 0) : voteFrameOp s jn = ((s.taken m).holdVote jn v).tryDecide jn st := by
  unfold voteFrameOp
  rw [hf]
  dsimp only
  rw [hm, hst]
  dsimp only
  rw [if_neg (by simp [hc]), if_pos ⟨ht, hr⟩]
  rfl

theorem decisionOp_eq (hf : s.ctrlIn.find? (fun m => m.job.toNat = jn && m.msg.isDecision && !s.ctrlWaits jn m) = some m)
    (hm : m.msg = .decision d) (hst : (s.job jn).cur = some st) : decisionOp s jn =
      if !m.current st then (s.taken m).ctrlStale m else if (s.job jn).train.myVote.isNone then s
      else (s.taken m).applyDecision jn d := by
  unfold decisionOp
  rw [hf]
  dsimp only
  rw [hm, hst]
  rfl

theorem trainVoteTimeoutOp_due (hst : (s.job jn).cur = some st) (ht : (s.job jn).isTrain = true) (hn : 1 < (s.job jn).ndev)
    (hr : (s.job jn).rank = 0) (hm : (s.job jn).train.myVote.isSome = true)
    (hdue : (s.job jn).train.voteAt.toNat + (s.rd pgTrain 0x054).toNat ≤ s.lcount.toNat) :
    ∃ r, trainVoteTimeoutOp s jn = s.decide0 jn st { commit := false, reasons := r } := by
  refine ⟨(s.job jn).train.votes.foldl (fun w v => w ||| v.reasons) 0#8, ?_⟩
  unfold trainVoteTimeoutOp
  dsimp only
  rw [hst]
  exact if_pos ⟨ht, hn, hr, hm, hdue⟩

theorem trainDecideTimeoutOp_due (hst : (s.job jn).cur = some st) (hm : (s.job jn).train.myVote = some v)
    (hv : v.reasons = 0#8) (hp : (s.job jn).train.phase ≠ 6#3)
    (hdue : (s.job jn).train.voteAt.toNat + (s.rd pgTrain 0x058).toNat ≤ s.lcount.toNat) :
    trainDecideTimeoutOp s jn = ((s.inc pgTrain 0x218).raise pgTrain 2).askDecision jn st := by
  unfold trainDecideTimeoutOp
  dsimp only
  rw [hst, hm]
  dsimp only
  rw [if_neg (by simp [hv]), if_neg hp, if_pos hdue]

/-! ### Frames that go out -/

theorem State.setPort_countsOnly (s : State) (p v) {offs : List Nat} : s.countsOnly (s.setPort p v) offs := .of_eq rfl rfl rfl rfl

theorem State.setTrain_countsOnly (s : State) (jn f) {offs : List Nat} : s.countsOnly (s.setTrain jn f) offs :=
  .of_eq rfl rfl rfl rfl

theorem State.pumpPort_countsOnly (s : State) (p fuel) : s.countsOnly (State.pumpPort p fuel s) [0x200] := by
  induction fuel generalizing s with
  | zero => exact .refl s
  | succ fuel ih =>
    unfold State.pumpPort
    dsimp only
    split
    · exact .refl s
    · exact .ite (((s.setPort_countsOnly ..).trans (State.inc_countsOnly _ (pgLink p) (by decide) (by decide))).trans (ih _))
        (.refl s)

/-- A frame that goes out advances the count of the frames sent alone. -/
theorem State.sendFrame_countsOnly (s : State) (h payload) : s.countsOnly (s.sendFrame h payload) [0x200] := by
  unfold State.sendFrame
  split
  · exact .refl s
  · exact (s.setPort_countsOnly ..).trans (State.pumpPort_countsOnly ..)

/-- A device in doubt asks: its job waits for the answer, no other job changes, and no count but that of frames. -/
theorem State.askDecision_asks (s : State) (jn st) :
    (s.askDecision jn st).job jn = { s.job jn with train := { (s.job jn).train with askAt := s.lcount, phase := 6#3 } } ∧
      (∀ k, k ≠ jn → (s.askDecision jn st).job k = s.job k) ∧ s.countsOnly (s.askDecision jn st) [0x200] := by
  have hsent : (s.setTrain jn fun t => { t with askAt := s.lcount, phase := 6#3 }).linkSent (s.askDecision jn st) :=
    .ite (.refl _) (State.sendFrame_linkSent ..)
  refine ⟨?_, fun k hk => ?_, ?_⟩
  · rw [State.job_congr hsent.jobs, State.job_setTrain, if_pos rfl]
  · rw [State.job_congr hsent.jobs, State.job_setTrain, if_neg hk]
  · exact (s.setTrain_countsOnly ..).trans (.ite (.refl _) (State.sendFrame_countsOnly ..))

theorem askOp_taken (hf : s.ctrlIn.find? (fun m => m.job.toNat = jn && m.msg.isAsk) = some m) :
    (s.taken m).linkSent (askOp s jn) := by
  unfold askOp
  rw [hf]
  dsimp only
  split
  · exact .ite (State.sendFrame_linkSent ..) (.refl _)
  · exact .refl _

end

end Sys2Proof.Machine

open Sys2Proof Sys2Proof.Machine in
/-- Settles O38: every decision is applied to the attempt in flight from a state that it does not tell from the first one. -/
theorem votesDecisionsAndInDoubtDevices : Obligations.VotesDecisionsAndInDoubtDevices := by
  rintro s job jn st j rfl rfl hst
  refine ⟨fun ht hm hb => ⟨fun h1 => completes_vote ?lone, fun h1 hr hv => completes_vote ?abort,
      fun h1 hr hv => completes_vote ?waits, ?first⟩,
    fun m v vs hf hv hc ht hr hd hvs => ⟨fun d hvd hmy => completes_voteFrame ?joins,
      fun hvd => completes_voteFrame ?holds⟩,
    fun ht hn hr hm hdue => completes_trainVoteTimeout ?voteTimeout,
    fun m d hf hd => ⟨fun hc hm => completes_decision ?applies, fun hc => completes_decision ?stale⟩,
    fun v hm hv hp hdue => completes_trainDecideTimeout ?doubt,
    fun m hf => completes_ask ?ask,
    fun c commit hc => ⟨fun hp => completes_resolve hc ?resolves, fun hp => completes_resolve hc ?refused⟩⟩
  case lone =>
    rw [voteOp_votes hst ht hm hb, if_pos h1]
    exact State.applyDecision_since (a := { st with st := .voting }) (s.voted_undecided _ st) (by rw [State.voted_job]; rfl) rfl rfl _
  case abort =>
    rw [voteOp_votes hst ht hm hb, if_neg h1, if_neg hr, if_neg hv]
    have hsent := s.voteSent_linkSent job.toNat st
    exact State.applyDecision_since (a := { st with st := .voting }) ((s.voted_undecided _ st).trans hsent.undecided)
      (by rw [State.job_congr hsent.jobs, State.voted_job]; rfl) rfl rfl _
  case waits =>
    rw [voteOp_votes hst ht hm hb, if_neg h1, if_neg hr, if_pos hv]
    have hsent := s.voteSent_linkSent job.toNat st
    refine ⟨?_, fun k hk => ?_, ?_⟩
    · rw [State.job_decisionFrame, State.job_congr hsent.jobs, State.voted_job, State.votedJob,
        State.ownVote, hv]
    · rw [State.job_decisionFrame, State.job_congr hsent.jobs, State.voted_other s st hk]
    · obtain ⟨_, _, _, _, _, he⟩ := hsent
      rw [he]
      exact ⟨rfl, rfl, rfl, rfl⟩
  case first =>
    rintro v vs rfl rfl h1 hr hd
    have hjob := s.ownVote_held job.toNat st
    have hop : voteOp s job.toNat = ((s.voted job.toNat st).holdVote job.toNat (s.ownVote job.toNat st)).tryDecide job.toNat st := by
      rw [voteOp_votes hst ht hm hb, if_neg h1, if_pos hr, hd]
    refine ⟨fun d hvd => completes_vote ?_, fun hvd => completes_vote ?_⟩
    · rw [hop]
      exact (State.tryDecide_applied (a := { st with st := .voting }) (s.ownVote_held_undecided _ st) (by rw [hjob]; rfl) rfl rfl
        (by rw [hjob]; rfl) (by rw [hjob]; exact hd) (by rw [hjob]; exact hvd)).2
    · rw [hop, State.tryDecide_waits (by rw [hjob]; exact hvd), State.job_decisionFrame, hjob]
      exact ⟨rfl, rfl, rfl, rfl⟩
  case joins =>
    have hjob := (s.taken m).holdVote_job job.toNat v
    obtain ⟨hctrl, happ⟩ := State.tryDecide_applied (s := s) (a := st) (d := d) (st := st)
      (.of_job hjob rfl rfl rfl rfl rfl rfl rfl) (by rw [hjob]; exact hst) rfl rfl (by rw [hjob]; exact hmy)
      (by rw [hjob]; exact hd) (by rw [hjob]; subst hvs; exact hvd)
    rw [voteFrameOp_joins hf hv hst hc ht hr]
    exact ⟨hctrl, happ⟩
  case holds =>
    have hjob := (s.taken m).holdVote_job job.toNat v
    subst hvs
    rw [voteFrameOp_joins hf hv hst hc ht hr, State.tryDecide_waits (by rw [hjob]; exact hvd)]
    refine ⟨rfl, (State.job_decisionFrame ..).trans hjob, fun k hk => ?_, rfl, rfl⟩
    exact (State.job_decisionFrame ..).trans ((State.job_setTrain ..).trans (if_neg hk))
  case voteTimeout =>
    obtain ⟨r, h⟩ := trainVoteTimeoutOp_due hst ht hn hr hm hdue
    obtain ⟨u, hu, k, hcur, -⟩ := State.decide0_voted hst hm st { commit := false, reasons := r }
    rw [h, hu]
    exact ⟨r, State.applyDecision_since k hcur rfl rfl _⟩
  case applies =>
    rw [decisionOp_eq hf hd hst, if_neg (by simp [hc]), if_neg (by simpa [Option.isSome_iff_ne_none] using hm)]
    exact ⟨(State.applyDecision_applied (s := s.taken m) hst d).2, State.applyDecision_since (s.taken_undecided m) hst rfl rfl d⟩
  case stale =>
    rw [decisionOp_eq hf hd hst, if_pos (by simp [hc])]
    have hn := (s.taken m).count_noted (regAt (pgLink m.port.toNat) 0x220) 1
    have hcount := (s.taken m).inc_countedBy (pgLink m.port.toNat) 0x220
    have hjobs := hn.jobs
    have k := State.stepsOnly.of_noted hn
    obtain ⟨_, _, _, _, _, _, _, he⟩ := hn
    exact ⟨k.ctrlIn, hjobs, k.dir, by rw [State.ctrlStale, State.inc, he]; rfl, hcount.congr rfl rfl⟩
  case doubt =>
    rw [trainDecideTimeoutOp_due hst hm hv hp hdue]
    have hn : s.noted ((s.inc pgTrain 0x218).raise pgTrain 2) := (s.count_noted ..).trans (State.raise_noted ..)
    have hlc : ((s.inc pgTrain 0x218).raise pgTrain 2).lcount = s.lcount := by
      obtain ⟨_, _, _, _, _, _, _, he⟩ := hn
      rw [he]
    obtain ⟨hjob, hother, hcounts⟩ := ((s.inc pgTrain 0x218).raise pgTrain 2).askDecision_asks job.toNat st
    rw [State.job_congr hn.jobs, hlc] at hjob
    refine ⟨?_, ?_, hjob, fun k hk => (hother k hk).trans (State.job_congr hn.jobs k)⟩
    · exact ((s.inc_countedBy pgTrain 0x218).congr rfl (State.ctr_congr rfl _)).congr rfl
        (hcounts.ctrs pgTrain 0x218 (by decide) (by decide))
    · exact hcounts.events pgTrain 2 (State.event_raise_same _ pgTrain 2 (by decide))
  case ask =>
    obtain ⟨_, _, _, _, _, h⟩ := askOp_taken hf
    rw [h]
    exact ⟨rfl, rfl⟩
  case resolves =>
    rw [resolveOp, if_pos hp]
    exact State.applyDecision_since (.of_eq rfl rfl rfl) hst rfl rfl _
  case refused =>
    rw [resolveOp, if_neg hp]
    exact ⟨rfl, rfl, rfl, s.errInc_refusal pgTrain⟩
